-- ==== Sys2Proof/Word.lean ====
section
/-! DEFINITION. The word types of the Ouvlys M7 and their plainest arithmetic (00 R2; 05 R73, R103). -/

namespace Sys2Proof

/-- One byte. -/
abbrev Byte := BitVec 8
/-- One 32-bit vector lane (06, shape tags). -/
abbrev Lane := BitVec 32
/-- One 64-bit scalar register (06 R112). -/
abbrev Word := BitVec 64
/-- One bit per lane, lane l at bit l (06 R103, R113). -/
abbrev Mask := BitVec 1024
/-- One bit per byte of a 64-byte line (10 R198). -/
abbrev ByteMask := BitVec 64
/-- The 64 bytes of a line, byte i at bits 8i+7:8i (10 R198). -/
abbrev LineData := BitVec 512
/-- A vector register index. -/
abbrev VIdx := BitVec 7
/-- A scalar register index. -/
abbrev SIdx := BitVec 6
/-- A predicate index. -/
abbrev PIdx := BitVec 5
/-- An accumulator tile index. -/
abbrev AIdx := BitVec 8

end Sys2Proof
end

