-- ==== Sys2Proof/Config.lean ====
section
/-! DEFINITION. What an implementation fixes, and the free values: opaque constants, of which nothing can be proved. A
free value is used only where the spec leaves a value, or an order, open. -/

namespace Sys2Proof.Config

/-- A free bit: the draw number, which thing is drawn for, and the lane or byte. -/
opaque freeBit : Nat → Nat → Nat → Bool
/-- A free byte: the draw number and the byte's place. -/
opaque freeByte : Nat → Nat → Byte
/-- A free 32-bit value: the draw number and the lane. -/
opaque freeLane : Nat → Nat → Lane
/-- Which of several enabled steps comes next, by the draw number. Not consulted where one step alone is enabled. -/
opaque choice : Nat → Nat
/-- Which of the f32 values within the bound of 09 R174 an approximate function gives: the function and its source. -/
opaque approxPick : Nat → Lane → Nat
/-- The image of release 3 of the vent entry library, by byte: its micro-words are not given (17 R308, R310). -/
opaque libraryImage : Nat → Byte
/-- Spare rows of a bank when the part is new (24 R382). -/
opaque spareRows : Nat → Nat

/-- Compute dies (01 R9). -/
def dies : Nat := 8
/-- Cores of a die (01 R9). -/
def coresPerDie : Nat := 32
/-- Team slots of a core (01 R13). -/
def slotsPerCore : Nat := 16
/-- Home slices (10 R199). -/
def homeSlices : Nat := 768
/-- Memory channels and vents (01 R10). -/
def channels : Nat := 512
/-- Scratchpad bytes of a core (01 R13). -/
def spadBytes : Nat := 1536 * 1024
/-- Register store bytes of a core (01 R13). -/
def regBytes : Nat := 1024 * 1024
/-- Miss-status entries a pass that is not aged may take (10 R203). -/
def generalMshr : Nat := 504
/-- HBM bytes of one stack (01 R9). -/
def stackBytes : Nat := 2 ^ 36
/-- The firmware area: the top 64 MiB of stack 15 (11 R222; 24 R384). -/
def firmwareBase : Nat := 2 ^ 40 - 2 ^ 26
/-- The key of device address 0 in the memory list; keys below it are host physical addresses. -/
def deviceKey : Nat := 2 ^ 64
/-- The key of the firmware area's first byte. -/
def fwArea : Nat := deviceKey + firmwareBase
/-- Bytes of the firmware area (11 R222). -/
def fwAreaBytes : Nat := 2 ^ 26
/-- The context identifier of Mbadon firmware (24 R384). -/
def firmwareCtx : Nat := 0xFFFF
/-- Units of real time in one second: `5354228880 / 24` units is one core cycle at 2.4 GHz (24 R385). -/
def unitsPerMicro : Nat := 535422888000
/-- Units of real time in one core cycle when the core clock is `k` times 100 MHz (24 R385). -/
def unitsPerCycle (k : Nat) : Nat := 5354228880 / k
/-- Lines of an L1: 1,536 KiB (01 R13). -/
def l1Lines : Nat := 24576
/-- Lines of a home slice: 512 KiB (01 R14). -/
def sliceLines : Nat := 8192
/-- Miss-status entries reserved for the head of the aged queue (10 R203). -/
def reservedMshr : Nat := 8
/-- The miss of a pass that ages it (10 R204). -/
def agedAfter : Nat := 16
/-- The corrected errors of a row that queue it for repair (24 R382, a firmware setting). -/
def repairAfter : Nat := 16

end Sys2Proof.Config
end

