-- ==== Sys2Proof/Syntax.lean ====
section
/-! DEFINITION. The syntax of the M7: one constructor of `Instr` for every row of the opcode table, the 158 encoded
instructions first (05 R100) and then the 92 device steps, which have no encoding. -/

namespace Sys2Proof

/-! ## Fields every encoded instruction has -/

/-- Guard and issue hints (05 R76, R85, R86). `gp = 31` means unguarded. -/
structure Hdr where
  gneg  : Bool
  gp    : PIdx
  stall : BitVec 4
  yld   : Bool
  deriving DecidableEq, Repr

/-- The special registers (05 R78). -/
inductive Special where
  | lane | team | width | core | twin | die | dev | ctx | clock | phase | cancel
  | shp0 | shp1 | shp2 | shp3 | cause | tpc | tval | fmask
  deriving DecidableEq, Repr

/-- A source that may be a vector register, a scalar register or a special register (07 R127, R128). -/
inductive Src where
  | v (n : VIdx) | s (n : SIdx) | sp (x : Special)
  deriving DecidableEq, Repr

/-- A B operand: a register or an immediate (05 R81, R82). -/
inductive SrcB where
  | r (x : Src) | imm (x : BitVec 32)
  deriving DecidableEq, Repr

/-- A predicate that is read: p0-p31 or %fmask (05 R78). -/
inductive PSrc where
  | p (n : PIdx) | fmask
  deriving DecidableEq, Repr

/-- A scalar register or a 32-bit immediate. -/
inductive SI where
  | s (n : SIdx) | imm (x : BitVec 32)
  deriving DecidableEq, Repr

/-- A group operand: a scalar register or an 8-bit immediate (15 R278). -/
inductive GrpOp where
  | s (n : SIdx) | imm (x : BitVec 8)
  deriving DecidableEq, Repr

/-- A version operand (13 R258). -/
inductive VerOp where
  | s (n : SIdx) | imm (x : BitVec 16)
  deriving DecidableEq, Repr

/-- A status operand of `gret` (21 R352). -/
inductive StatOp where
  | s (n : SIdx) | imm (x : BitVec 9)
  deriving DecidableEq, Repr

/-- A scalar or vector destination (10 `sld`). -/
inductive SVDst where
  | s (n : SIdx) | v (n : VIdx)
  deriving DecidableEq, Repr

/-- A scalar or predicate destination (07 `scmp`). -/
inductive SPDst where
  | s (n : SIdx) | p (n : PIdx)
  deriving DecidableEq, Repr

/-- Word k of a predicate, or a mask word, as `pbits.get` reads it (06 R123). -/
inductive PWordSrc where
  | p (a : PSrc) (k : BitVec 32) | mw (k : PIdx)
  deriving DecidableEq, Repr

/-- Word k of a predicate, or a mask word, as `pbits.put` writes it (06 R123). -/
inductive PWordDst where
  | p (d : PIdx) (k : BitVec 32) | mw (k : PIdx)
  deriving DecidableEq, Repr

/-- The condition of a control transfer (05 R92). -/
inductive BrCond where
  | always | any (a : PSrc) | all (a : PSrc) | none (a : PSrc)
  deriving DecidableEq, Repr

/-- The target of `call` (06). -/
inductive Target where
  | rel (count : BitVec 32) | reg (n : SIdx)
  deriving DecidableEq, Repr

/-- Scopes (14 R260). -/
inductive Scope where
  | team | core | die | device | system
  deriving DecidableEq, Repr

/-- A memory-form operand (05 R83). -/
structure MemOp where
  base  : SIdx
  scope : Scope
  pol   : Bool
  idx   : Option VIdx
  off   : BitVec 24
  deriving DecidableEq, Repr

/-! ## Modifiers (05 R92-R99) -/

inductive STy where | i64 | n64 | i32 | n32 | b64
  deriving DecidableEq, Repr
inductive VTy where | i32 | n32 | i16x2 | n16x2 | i64 | n64 | b32
  deriving DecidableEq, Repr
inductive Cmp where | eq | ne | lt | le | gt | ge
  deriving DecidableEq, Repr
inductive FTy where | f32 | bf16x2 | f16x2
  deriving DecidableEq, Repr
inductive Rnd where | rne | rz | ru | rd
  deriving DecidableEq, Repr
inductive FCmp where | eq | ne | lt | le | gt | ge | uno | ord
  deriving DecidableEq, Repr
inductive CvtTy where | f32 | bf16 | f16 | i32 | n32 | i16 | i8
  deriving DecidableEq, Repr
inductive XTy where | i32 | n32 | f32 | b32
  deriving DecidableEq, Repr
inductive ROp where | add | min | max | and | or | xor
  deriving DecidableEq, Repr
inductive SMode where | idx | up | down | xor
  deriving DecidableEq, Repr
inductive MTy where | n8 | i8 | n16 | i16 | b32 | b64 | b128
  deriving DecidableEq, Repr
inductive Space where | global | spad | lpriv
  deriving DecidableEq, Repr
/-- `acqRel` is `.acq` on a load and `.rel` on a store (05 R97). -/
inductive Ord where | weak | strong | acqRel | sc
  deriving DecidableEq, Repr
inductive ATy where | n32 | i32 | n64 | i64 | f32 | bf16x2 | b32 | b64
  deriving DecidableEq, Repr
inductive AOp where | add | min | max | and | or | xor | exch | cas
  deriving DecidableEq, Repr
inductive AOrd where | rlx | acq | rel | sc
  deriving DecidableEq, Repr
inductive FOrd where | acq | rel | ar | sc
  deriving DecidableEq, Repr
inductive CsrOp where | wr | set | clr
  deriving DecidableEq, Repr

/-- Sign modifiers of a two-source float instruction (05 R95). -/
structure FMod where
  nega : Bool
  absa : Bool
  negb : Bool
  deriving DecidableEq, Repr

/-- The caldera immediate (10 R213). -/
structure CpyImm where
  count : Bool
  group : BitVec 8
  kind  : BitVec 2
  fmt   : BitVec 4
  deriving DecidableEq, Repr

/-- The immediate of `nmcommit` (17 R305). -/
structure CommitImm where
  count : Bool
  group : BitVec 8
  bytes : BitVec 16
  deriving DecidableEq, Repr

/-- The immediate of `gcall` (21 R344). -/
structure CallImm where
  handler : BitVec 12
  cls     : BitVec 2
  reply   : Bool
  deriving DecidableEq, Repr

/-! ## Data of device steps -/

/-- A geyser call as its flit carries it (21 R343). `sref` is the model's own name of the sending team. -/
structure Call where
  args    : List Word
  handler : BitVec 12
  cls     : BitVec 2
  reply   : Bool
  sdev    : BitVec 12
  sctx    : BitVec 16
  steam   : BitVec 24
  jobtag  : BitVec 16
  slot    : BitVec 4
  sref    : Nat
  deriving DecidableEq, Repr

/-- What a peer access that arrives at a port asks for (11 R237; 21 R341). -/
inductive PeerOp where
  | load | store (data : List Byte) | atom (ty : ATy) (op : AOp) (v c : BitVec 64)
  deriving DecidableEq, Repr

/-- A peer access: the sender, the address in this device's PA space, the size in bytes (11 R237). -/
structure PeerAcc where
  dev  : BitVec 12
  pa   : Nat
  size : Nat
  op   : PeerOp
  deriving DecidableEq, Repr

/-- What a host port's link offers: all of CXL, or CXL.io alone to a partner of 68-byte flits (11 R233); and the base that the host
commits to its HDM decoder (11 R222). -/
structure HostLink where
  full : Bool
  hdm  : Option Nat
  deriving DecidableEq, Repr

/-- The links of the two host ports. -/
structure HostLinks where
  l0 : HostLink
  l1 : HostLink
  deriving DecidableEq, Repr

/-- A launch of firmware's own (24 R384): what the management core writes into the firmware area, by offset, the PTL.DESC and PTL.ROOT
of its context, and the entry it writes into hardware queue 59 of die 0. -/
structure FwLaunch where
  area  : List (Nat × Byte)
  desc  : BitVec 64
  root  : BitVec 64
  entry : BitVec 512
  deriving DecidableEq, Repr

/-- What a flit that arrives tells of its sender's memory and export table, as accesses will find them from now on (11 R237). -/
structure PeerNews where
  mem   : List (Nat × Byte)
  table : Option (List (BitVec 256))
  deriving DecidableEq, Repr

/-- A flit that arrives: its number in the sender's order, whether its CRC holds, and what it tells (21 R337). -/
structure FlitIn where
  seq   : Nat
  crcOk : Bool
  news  : PeerNews
  deriving DecidableEq, Repr

/-- The host's answer to a page request: the port it comes to, and whether the page is there (11 R226, R227). -/
structure PageAnswer where
  port : Nat
  ok   : Bool
  deriving DecidableEq, Repr

/-- A bind record that firmware writes, with a launch of its own where it starts one (04 R56; 24 R384). -/
structure BindWrite where
  bits : BitVec 256
  fw   : Option FwLaunch
  deriving DecidableEq, Repr

/-- Firmware's launch of step 6 of bring-up, with the bind record it runs under (24 R383, R384). -/
structure BootLaunch where
  bits : BitVec 256
  fw   : FwLaunch
  deriving DecidableEq, Repr

/-- Which event counters (24 R376). -/
inductive PmcPlace where
  | core (n : Nat) | die (n : Nat) | vent (n : Nat)
  deriving DecidableEq, Repr

/-- Where an uncorrected error strikes (23 R368). -/
inductive EccPlace where
  | regs (sid : Nat) | spad (core off : Nat) | tile (core tile : Nat)
  deriving DecidableEq, Repr

/-- What the failure of a package unit is (23 R368). -/
inductive McUnit where
  | sequencer | arbiter | hub
  deriving DecidableEq, Repr

/-- The management ports (24 R378). -/
inductive MgmtPort where
  | cxl | sideband
  deriving DecidableEq, Repr

/-- The operations and steps of the machine. -/
inductive Instr where
  -- Control (06)
  | nop (h : Hdr)
  | bra (h : Hdr) (c : BrCond) (off : BitVec 32)
  | brx (h : Hdr) (c : BrCond) (b : SIdx)
  | call (h : Hdr) (c : BrCond) (t : Target)
  | ret (h : Hdr) (c : BrCond)
  | bdec (h : Hdr) (d : SIdx) (off : BitVec 32)
  | exit (h : Hdr)
  | yield (h : Hdr)
  | trap (h : Hdr) (a : Option SIdx) (k : BitVec 5)
  | brk (h : Hdr) (n : Option (BitVec 16))
  -- Mask and predicate (06)
  | msave (h : Hdr) (d : PIdx)
  | mset (h : Hdr) (a : PSrc)
  | mand (h : Hdr) (a : PSrc)
  | mandn (h : Hdr) (a : PSrc)
  | mcount (h : Hdr) (d : SIdx) (a : PSrc)
  | mfirst (h : Hdr) (d : SIdx) (a : PSrc)
  | pand (h : Hdr) (d : PIdx) (a b : PSrc)
  | por (h : Hdr) (d : PIdx) (a b : PSrc)
  | pxor (h : Hdr) (d : PIdx) (a b : PSrc)
  | pnot (h : Hdr) (d : PIdx) (a : PSrc)
  | pmov (h : Hdr) (d : PIdx) (a : PSrc)
  | pbitsGet (h : Hdr) (d : SIdx) (a : PWordSrc)
  | pbitsPut (h : Hdr) (d : PWordDst) (a : SIdx)
  -- Scalar integer (07)
  | sadd (h : Hdr) (ty : STy) (sat : Bool) (d : SIdx) (a : Src) (b : SrcB)
  | ssub (h : Hdr) (ty : STy) (sat : Bool) (d : SIdx) (a : Src) (b : SrcB)
  | smul (h : Hdr) (ty : STy) (sat : Bool) (d : SIdx) (a : Src) (b : SrcB)
  | smulh (h : Hdr) (ty : STy) (d : SIdx) (a : Src) (b : SrcB)
  | sdiv (h : Hdr) (ty : STy) (d : SIdx) (a : Src) (b : SrcB)
  | srem (h : Hdr) (ty : STy) (d : SIdx) (a : Src) (b : SrcB)
  | sand (h : Hdr) (d : SIdx) (a : Src) (b : SrcB)
  | sor (h : Hdr) (d : SIdx) (a : Src) (b : SrcB)
  | sxor (h : Hdr) (d : SIdx) (a : Src) (b : SrcB)
  | sshl (h : Hdr) (ty : STy) (sat : Bool) (d : SIdx) (a : Src) (b : SrcB)
  | sshr (h : Hdr) (ty : STy) (d : SIdx) (a : Src) (b : SrcB)
  | ssar (h : Hdr) (ty : STy) (d : SIdx) (a : Src) (b : SrcB)
  | smin (h : Hdr) (ty : STy) (d : SIdx) (a : Src) (b : SrcB)
  | smax (h : Hdr) (ty : STy) (d : SIdx) (a : Src) (b : SrcB)
  | scmp (h : Hdr) (ty : STy) (c : Cmp) (d : SPDst) (a : Src) (b : SrcB)
  | ssel (h : Hdr) (ty : STy) (d : SIdx) (a : Src) (b : SrcB)
  | smov (h : Hdr) (ty : STy) (d : SIdx) (b : SrcB)
  | sli (h : Hdr) (d : SIdx) (a : Src) (imm : BitVec 32)
  | sclz (h : Hdr) (ty : STy) (d : SIdx) (a : Src)
  | spopc (h : Hdr) (ty : STy) (d : SIdx) (a : Src)
  | sbfe (h : Hdr) (ty : STy) (d : SIdx) (a : Src) (b : SrcB)
  | sadc (h : Hdr) (ty : STy) (cp : PIdx) (d : SIdx) (a : Src) (b : SrcB)
  -- Vector integer (07)
  | vadd (h : Hdr) (ty : VTy) (sat : Bool) (d : VIdx) (a : Src) (b : SrcB)
  | vsub (h : Hdr) (ty : VTy) (sat : Bool) (d : VIdx) (a : Src) (b : SrcB)
  | vmul (h : Hdr) (ty : VTy) (sat : Bool) (d : VIdx) (a : Src) (b : SrcB)
  | vmulh (h : Hdr) (ty : VTy) (d : VIdx) (a : Src) (b : SrcB)
  | vmad (h : Hdr) (ty : VTy) (sat : Bool) (d : VIdx) (a : Src) (b : SrcB)
  | vmadw (h : Hdr) (ty : VTy) (d : VIdx) (a : Src) (b : SrcB)
  | vadc (h : Hdr) (ty : VTy) (cp : PIdx) (d : VIdx) (a : Src) (b : SrcB)
  | vsbc (h : Hdr) (ty : VTy) (cp : PIdx) (d : VIdx) (a : Src) (b : SrcB)
  | vand (h : Hdr) (ty : VTy) (d : VIdx) (a : Src) (b : SrcB)
  | vor (h : Hdr) (ty : VTy) (d : VIdx) (a : Src) (b : SrcB)
  | vxor (h : Hdr) (ty : VTy) (d : VIdx) (a : Src) (b : SrcB)
  | vshl (h : Hdr) (ty : VTy) (sat : Bool) (d : VIdx) (a : Src) (b : SrcB)
  | vshr (h : Hdr) (ty : VTy) (d : VIdx) (a : Src) (b : SrcB)
  | vsar (h : Hdr) (ty : VTy) (d : VIdx) (a : Src) (b : SrcB)
  | vmin (h : Hdr) (ty : VTy) (d : VIdx) (a : Src) (b : SrcB)
  | vmax (h : Hdr) (ty : VTy) (d : VIdx) (a : Src) (b : SrcB)
  | vabs (h : Hdr) (ty : VTy) (sat : Bool) (d : VIdx) (a : Src)
  | vcmp (h : Hdr) (ty : VTy) (c : Cmp) (d : PIdx) (a : Src) (b : SrcB)
  | vsel (h : Hdr) (ty : VTy) (d : VIdx) (a : Src) (b : SrcB)
  | vmov (h : Hdr) (ty : VTy) (d : VIdx) (b : SrcB)
  | vclz (h : Hdr) (ty : VTy) (d : VIdx) (a : Src)
  | vpopc (h : Hdr) (ty : VTy) (d : VIdx) (a : Src)
  | vbfe (h : Hdr) (ty : VTy) (d : VIdx) (a : Src) (b : SrcB)
  | vbfi (h : Hdr) (d : VIdx) (a : Src) (b : SrcB)
  | vdot4 (h : Hdr) (ty : VTy) (sat : Bool) (d : VIdx) (a : Src) (b : SrcB)
  -- Vector float (09)
  | vfadd (h : Hdr) (ty : FTy) (r : Rnd) (m : FMod) (d : VIdx) (a : Src) (b : SrcB)
  | vfsub (h : Hdr) (ty : FTy) (r : Rnd) (m : FMod) (d : VIdx) (a : Src) (b : SrcB)
  | vfmul (h : Hdr) (ty : FTy) (r : Rnd) (m : FMod) (d : VIdx) (a : Src) (b : SrcB)
  | vffma (h : Hdr) (ty : FTy) (r : Rnd) (m : FMod) (d : VIdx) (a : Src) (b : SrcB)
  | vfmin (h : Hdr) (ty : FTy) (m : FMod) (d : VIdx) (a : Src) (b : SrcB)
  | vfmax (h : Hdr) (ty : FTy) (m : FMod) (d : VIdx) (a : Src) (b : SrcB)
  | vfcmp (h : Hdr) (c : FCmp) (d : PIdx) (a : Src) (b : SrcB)
  | vfdiv (h : Hdr) (ty : FTy) (r : Rnd) (m : FMod) (d : VIdx) (a : Src) (b : SrcB)
  | vfsqrt (h : Hdr) (ty : FTy) (r : Rnd) (nega absa : Bool) (d : VIdx) (a : Src)
  | vfrcp (h : Hdr) (ty : FTy) (nega absa : Bool) (d : VIdx) (a : Src)
  | vfrsq (h : Hdr) (ty : FTy) (nega absa : Bool) (d : VIdx) (a : Src)
  | vfexp2 (h : Hdr) (ty : FTy) (nega absa : Bool) (d : VIdx) (a : Src)
  | vflog2 (h : Hdr) (ty : FTy) (nega absa : Bool) (d : VIdx) (a : Src)
  | vfsin (h : Hdr) (ty : FTy) (nega absa : Bool) (d : VIdx) (a : Src)
  | vfcos (h : Hdr) (ty : FTy) (nega absa : Bool) (d : VIdx) (a : Src)
  | vftanh (h : Hdr) (ty : FTy) (nega absa : Bool) (d : VIdx) (a : Src)
  | vfcvt (h : Hdr) (dty sty : CvtTy) (r : Rnd) (d : VIdx) (a : Src) (ssel dsel : BitVec 2)
  | vfrnd (h : Hdr) (ty : FTy) (r : Rnd) (nega absa : Bool) (d : VIdx) (a : Src)
  | vfclass (h : Hdr) (ty : FTy) (nega absa : Bool) (d : VIdx) (a : Src)
  | vfscale (h : Hdr) (ty : FTy) (r : Rnd) (m : FMod) (d : VIdx) (a : Src) (b : SrcB)
  -- Cross-lane (09)
  | vred (h : Hdr) (ty : XTy) (op : ROp) (d : SIdx) (a : Src)
  | vredx (h : Hdr) (ty : XTy) (op : ROp) (d : SIdx) (a : Src)
  | vscan (h : Hdr) (ty : XTy) (op : ROp) (excl : Bool) (d : VIdx) (a : Src)
  | vshfl (h : Hdr) (mode : SMode) (d : VIdx) (a : Src) (b : SrcB)
  | vbcast (h : Hdr) (d : VIdx) (a : VIdx) (b : SrcB)
  | sgetl (h : Hdr) (d : SIdx) (a : VIdx) (b : SrcB)
  | vsetl (h : Hdr) (d : VIdx) (a : Src) (b : SrcB)
  | vsample (h : Hdr) (d : SIdx) (a : VIdx) (b : SrcB)
  | vrng (h : Hdr) (d : VIdx) (a : Src) (b : SrcB)
  | vtagGet (h : Hdr) (d : SIdx) (a : VIdx)
  | vtagExpand (h : Hdr) (d : VIdx) (a : VIdx)
  | vtagCompact (h : Hdr) (d : VIdx) (a : VIdx)
  -- Memory (10, 15)
  | vld (h : Hdr) (ty : MTy) (sp : Space) (o : Ord) (d : VIdx) (m : MemOp)
  | vst (h : Hdr) (ty : MTy) (sp : Space) (o : Ord) (a : VIdx) (m : MemOp)
  | sld (h : Hdr) (ty : MTy) (sp : Space) (o : Ord) (d : SVDst) (m : MemOp)
  | sst (h : Hdr) (ty : MTy) (sp : Space) (o : Ord) (a : SIdx) (m : MemOp)
  | vatom (h : Hdr) (ty : ATy) (op : AOp) (o : AOrd) (d : VIdx) (a : Src) (m : MemOp)
  | satom (h : Hdr) (ty : ATy) (op : AOp) (o : AOrd) (d a : SIdx) (m : MemOp)
  | fence (h : Hdr) (sc : Scope) (o : FOrd)
  | cpy (h : Hdr) (d a : SIdx) (i : CpyImm)
  | cpyout (h : Hdr) (d a : SIdx) (i : CpyImm)
  | twait (h : Hdr) (a : SIdx) (n : Option (BitVec 32))
  | pf (h : Hdr) (m : MemOp)
  | seal (h : Hdr) (d a : SIdx) (b : SI)
  | unseal (h : Hdr) (d a : SIdx)
  | cflush (h : Hdr) (m : MemOp)
  | cinval (h : Hdr) (m : MemOp)
  -- Matrix (13)
  | mma (h : Hdr) (d : AIdx) (a : VIdx) (b : SIdx)
  | mma2 (h : Hdr) (d : AIdx) (a : VIdx) (b : SIdx)
  | mzero (h : Hdr) (d : AIdx) (ver : BitVec 16)
  | mload (h : Hdr) (bf16 spad : Bool) (d : AIdx) (a : SIdx)
  | mdrain (h : Hdr) (bf16 add spad : Bool) (d : AIdx) (a : SIdx)
  | mver (h : Hdr) (d : SIdx) (a : AIdx)
  | mwait (h : Hdr) (a : AIdx) (b : VerOp)
  | mfence (h : Hdr)
  -- Synchronisation and work (15)
  | barv (h : Hdr) (d : SIdx) (g : GrpOp)
  | bwait (h : Hdr) (a : SIdx)
  | bexp (h : Hdr) (a : SIdx) (g : GrpOp)
  | btest (h : Hdr) (d a : SIdx)
  | pend (h : Hdr) (g : BitVec 8) (k : BitVec 6)
  | qpush (h : Hdr) (d a : SIdx) (q : SI)
  | qpop (h : Hdr) (d : SIdx) (q : SI)
  | qspawn (h : Hdr) (d a : SIdx) (q : SI)
  | qcancel (h : Hdr) (j : SI)
  | dpush (h : Hdr) (d a : SIdx) (v : SI)
  | dpop (h : Hdr) (d a : SIdx)
  | dsteal (h : Hdr) (d a : SIdx)
  | lnext (h : Hdr)
  | lwait (h : Hdr)
  -- Vent (17)
  | nmopen (h : Hdr) (d a : SIdx) (g : SI)
  | nmcall (h : Hdr) (a : SIdx) (e : BitVec 32)
  | nmcommit (h : Hdr) (d : SIdx) (i : CommitImm)
  | nmstat (h : Hdr) (d : SIdx) (k : BitVec 32)
  | nmclose (h : Hdr) (d : SIdx)
  -- Regions (19)
  | rbeg (h : Hdr) (irr : Bool) (d : SIdx)
  | rend (h : Hdr) (d : SIdx)
  | rabt (h : Hdr) (k : BitVec 16)
  | rstat (h : Hdr) (d : SIdx)
  -- Geyser (21)
  | gcall (h : Hdr) (d a : SIdx) (i : CallImm)
  | gret (h : Hdr) (a : SIdx) (st : StatOp)
  | gpoll (h : Hdr) (d a : SIdx)
  -- System (23, 17)
  | csrr (h : Hdr) (d : SIdx) (csr : BitVec 12)
  | csrw (h : Hdr) (op : CsrOp) (csr : BitVec 12) (a : SIdx)
  | tret (h : Hdr) (b : Option SIdx)
  | probe (h : Hdr) (d : SIdx) (m : MemOp)
  | intr (h : Hdr) (a : Option SIdx) (k : BitVec 8)
  | tinv (h : Hdr) (a : SIdx) (b : SI)
  | wcsld (h : Hdr) (d a : SIdx)
  -- Device steps: fetch, issue, results, traps (05, 04, 08, 23)
  | instructionFetch (sid : Nat)
  | passIssueSelect (core : Nat)
  | resultLand (sid tok : Nat)
  | pendingTrapTaken (sid : Nat)
  | excWindowClose (sid : Nat)
  -- Queues, dispatch (03, 04)
  | queueAgentWake (ctx qid : Nat)
  | entryAccept (ctx qid : Nat)
  | queueAgentPush (sid : Nat)
  | queueAccessRetry (i : Nat)
  | dispatchPlacement (die : Nat)
  | starvationPlacement (die : Nat)
  | phaseRecordRead (sid : Nat)
  | bindRecordWrite (die i : Nat) (w : BindWrite)
  | cancelArrival (i : Nat)
  -- Caches, translation, host (10, 11, 14)
  | passAged (sid : Nat)
  | l1FillLand (i : Nat)
  | l1WriteBack (core ctx line : Nat)
  | writeCheckReturn (i : Nat)
  | pageResponse (ctx page : Nat) (a : PageAnswer)
  | memoryPoison (line : Nat)
  | hostReadSnoop (pa : Nat)
  | hostWriteOwnership (pa : Nat) (mask : ByteMask) (data : LineData) (poisoned : Bool)
  | hostOwnershipArrival (i : Nat)
  | snoopDelayExpiry (i : Nat)
  | ioAtomicResponse (i : Nat) (accepted : Bool)
  | peerAccessArrival (port : Nat) (acc : PeerAcc)
  -- Caldera, matrix, barrier hub (10, 13, 15)
  | calderaRowDone (core i : Nat)
  | calderaCopyEnd (core i : Nat)
  | matrixEntryStart (core i : Nat)
  | matrixGatherDone (core i : Nat)
  | matrixOpComplete (core i : Nat)
  | transferFault (core i : Nat)
  -- Vents, regions (17, 19)
  | ventAttemptStart (vent : Nat)
  | ventCallExecute (vent : Nat)
  | ventCommitRequest (vent : Nat)
  | ventCommitPoint (vent : Nat)
  | ventTranslationMiss (vent : Nat)
  -- Geyser and fabric (21)
  | callArrival (port : Option Nat) (c : Call)
  | callAck (sref slot : Nat) (spilled : Bool)
  | callPromotion (die cls : Nat)
  | spillDrain (ctx handler die : Nat)
  | stallBufferRelease (port cls : Nat)
  | replyLand (sref slot : Nat) (cause : BitVec 9) (cls : BitVec 2) (spilled : Bool) (value : BitVec 32)
  | gyTimeoutExpiry (sref slot : Nat)
  | flitReceive (port lane : Nat) (f : FlitIn)
  | flitAckReceive (port : Nat)
  | crcWindowClose (port : Nat)
  | laneRepairStart (port lane : Nat)
  | laneRepairDrainDone (port : Nat)
  | portRetrainTimeout (port : Nat)
  | portTraining (port : Nat) (partner : BitVec 12) (table : List (BitVec 256)) (mem : List (Nat × Byte))
  -- Pre-emption, failure, retirement (23, 24)
  | phaseBoundaryPreempt (ctx : Nat)
  | forcedPreempt (ctx : Nat)
  | contextResume (ctx : Nat)
  | unitFail (lid unit : Nat) (cause : BitVec 9)
  | uncorrectedEcc (p : EccPlace)
  | machineCheck (u : McUnit)
  | teamRetire (sid : Nat)
  | launchRetire (lid : Nat)
  | counterOverflow (p : PmcPlace) (k : Nat)
  -- CSR and management (23, 24)
  | pmcCntWrite (p : PmcPlace) (k : Nat) (v : Word)
  | pmcSelWrite (p : PmcPlace) (k : Nat) (v : Word)
  | qtLenWrite (ctx : Nat) (v : Word)
  | excWinWrite (sid : Nat) (v : Word)
  | excCntWrite (sid k : Nat) (v : Word)
  | ordModeWrite (v : Word)
  | nmCsrWrite (sid : Nat) (csr : BitVec 12) (v : Word)
  | fjDevidWrite (v : Word)
  | mgmtSemWrite (port : MgmtPort) (v : Word)
  | csrWrite (ctx : Nat) (sid : Option Nat) (csr : BitVec 12) (v : Word)
  | readPmc (port : MgmtPort) (p : PmcPlace) (k : Nat)
  | readEcs (port : MgmtPort) (stack channel bank : Nat)
  | readLog (port : MgmtPort)
  | createCtx (port : MgmtPort) (ctx : Nat) (priv : BitVec 2) (pasid : BitVec 20)
  | writeCsr (port : MgmtPort) (ctx : Nat) (csr : BitVec 12) (v : Word)
  | writePmc (port : MgmtPort) (p : PmcPlace) (k : Nat) (sel : Bool) (v : Word)
  | maintReset (port : MgmtPort)
  | fwUpdate (port : MgmtPort) (image : List Byte)
  | bankRefreshDue (channel bank : Nat) (waiting : Bool)
  | ecsScrubError (stack channel bank row : Nat) (correctable : Bool) (line : Nat)
  | powerGood (fail : Option (Nat × Nat)) (links : HostLinks) (boot : BootLaunch)
  | flitReplayRequest (port : Nat) (seq : Nat)
  | homeWriteQueueDrain (sid home : Nat)
  | queueResidencyWrite (ctx qid : Nat) (resident : Bool) (die hwq : Nat)
  -- Steps that name nothing
  | leaseExpiry
  | barrierHubCycle
  | regionCommit
  | mgmtSemTimeout
  | thermalPowerLimit
  | junctionOver110c
  | inputPowerLoss
  | junctionBelow100c
  deriving DecidableEq, Repr

end Sys2Proof
end

