-- ==== Sys2Proof/WellFormed.lean ====
section
/-! DEFINITION. Which terms of `Instr` are instructions: the operand limits and excluded combinations that the entries
state (05 R77-R99, R112; 06 to 23, the encoding tables). A device step is always well formed. -/

namespace Sys2Proof

def Hdr.wf (h : Hdr) : Bool := !(h.gp == 31 && h.gneg)

/-- A scalar value source: not a vector register, not %lane, not %fmask (07 R127). -/
def Src.scalarOk : Src → Bool
  | .v _ => false
  | .s _ => true
  | .sp x => x != .lane && x != .fmask

/-- A vector value source: anything but %fmask (07 R128). -/
def Src.vectorOk : Src → Bool
  | .sp x => x != .fmask
  | _ => true

/-- A source that counts as a scalar source of a vector instruction (06 R112). -/
def Src.isScalar : Src → Bool
  | .v _ => false
  | .s _ => true
  | .sp x => x != .lane

def SrcB.scalarOk : SrcB → Bool
  | .r x => x.scalarOk
  | .imm _ => true

def SrcB.vectorOk : SrcB → Bool
  | .r x => x.vectorOk
  | .imm _ => true

def SrcB.isScalar : SrcB → Bool
  | .r x => x.isScalar
  | .imm _ => false

/-- At most one scalar source (06 R112). -/
def oneScalar (a : Src) (b : SrcB) : Bool := !(a.isScalar && b.isScalar)

/-- A 64-bit vector element type, held in a pair (05 R79). -/
def VTy.wide : VTy → Bool
  | .i64 | .n64 => true
  | _ => false

/-- A pair register is even (05 R79). -/
def pairOk (n : VIdx) : Bool := n.toNat % 2 == 0

/-- A quad register is a multiple of 4 (05 R79). -/
def quadOk (n : VIdx) : Bool := n.toNat % 4 == 0

/-- A run of `k` scalar registers stays inside the file (05 R79). -/
def runOk (a : SIdx) (k : Nat) : Bool := a.toNat + k ≤ 64

def evenOk (a : SIdx) : Bool := a.toNat % 2 == 0

/-- A vector source in a position of type width `w`: pairs even, %lane not a pair (07 R128). -/
def Src.widthOk (w : Bool) : Src → Bool
  | .v n => !w || pairOk n
  | .sp .lane => !w
  | _ => true

def SrcB.widthOk (w : Bool) : SrcB → Bool
  | .r x => x.widthOk w
  | .imm _ => true

/-- D, A and B of a vector integer instruction (07 R128). -/
def vabOk (w : Bool) (d : VIdx) (a : Src) (b : SrcB) : Bool :=
  (!w || pairOk d) && a.vectorOk && b.vectorOk && a.widthOk w && b.widthOk w && oneScalar a b

def VTy.arith : VTy → Bool
  | .b32 => false
  | _ => true

def VTy.w32 : VTy → Bool
  | .i32 | .n32 => true
  | _ => false

def VTy.mad : VTy → Bool
  | .i32 | .n32 | .i16x2 | .n16x2 => true
  | _ => false

def VTy.carry : VTy → Bool
  | .i32 | .n32 | .i64 | .n64 => true
  | _ => false

def VTy.logic : VTy → Bool
  | .b32 | .i64 | .n64 => true
  | _ => false

def VTy.shr : VTy → Bool
  | .n32 | .n16x2 | .n64 | .b32 => true
  | _ => false

def VTy.sgn : VTy → Bool
  | .i32 | .i16x2 | .i64 => true
  | _ => false

def VTy.count : VTy → Bool
  | .b32 | .n64 => true
  | _ => false

def VTy.bfe : VTy → Bool
  | .i32 | .n32 | .b32 => true
  | _ => false

def STy.arith : STy → Bool
  | .b64 => false
  | _ => true

def STy.shr : STy → Bool
  | .n64 | .n32 | .b64 => true
  | _ => false

def STy.sar : STy → Bool
  | .i64 | .i32 => true
  | _ => false

def STy.sel : STy → Bool
  | .i64 | .n64 | .b64 => true
  | _ => false

def STy.count : STy → Bool
  | .b64 | .n32 => true
  | _ => false

def STy.bfe : STy → Bool
  | .i64 | .n64 => true
  | _ => false

def CvtTy.isInt : CvtTy → Bool
  | .i32 | .n32 | .i16 | .i8 => true
  | _ => false

/-- The highest part number a format allows (09 R176). -/
def CvtTy.maxPart : CvtTy → Nat
  | .f32 | .i32 | .n32 => 0
  | .bf16 | .f16 | .i16 => 1
  | .i8 => 3

def redOk (ty : XTy) (op : ROp) : Bool :=
  match ty, op with
  | .f32, .and | .f32, .or | .f32, .xor | .b32, .add | .b32, .min | .b32, .max => false
  | _, _ => true

def atomOk (ty : ATy) (op : AOp) : Bool :=
  match ty, op with
  | .f32, .and | .f32, .or | .f32, .xor | .bf16x2, .and | .bf16x2, .or | .bf16x2, .xor
  | .b32, .add | .b32, .min | .b32, .max | .b64, .add | .b64, .min | .b64, .max => false
  | _, _ => true

def ATy.wide : ATy → Bool
  | .n64 | .i64 | .b64 => true
  | _ => false

/-- Vector memory data: pairs for b64, quads for b128 (05 R79). -/
def MTy.vOk (ty : MTy) (n : VIdx) : Bool :=
  match ty with
  | .b64 => pairOk n
  | .b128 => quadOk n
  | _ => true

/-- The scope limits of a load or store (05 R83; 10 R192). -/
def accessScopeOk (sp : Space) (o : Ord) (sc : Scope) : Bool :=
  (match sp, sc with
   | .global, _ => true
   | .spad, .team | .spad, .core => true
   | .lpriv, .team => true
   | _, _ => false) && !(o == .sc && sc == .system)

/-- The scope limits of an atomic; `pol` is its SP bit (15 R286). -/
def atomScopeOk (spad : Bool) (o : AOrd) (sc : Scope) : Bool :=
  (!spad || sc == .team || sc == .core) && !(o == .sc && sc == .system)


/-- The CSR indices of 23 R373. -/
def csrListed (n : Nat) : Bool :=
  n == 0x010 || (0x020 ≤ n && n ≤ 0x031) || (0x040 ≤ n && n ≤ 0x043) || (0x058 ≤ n && n ≤ 0x05B)
    || (0x400 ≤ n && n ≤ 0x40B) || (0x410 ≤ n && n ≤ 0x416) || n == 0x420 || (0x430 ≤ n && n ≤ 0x441)
    || (0x450 ≤ n && n ≤ 0x453) || n == 0xC00 || n == 0xC10 || n == 0xC11

/-- A lane number: a scalar value or an immediate (09 `vbcast`, `sgetl`, `vsetl`, `vsample`). -/
def lanelessV : SrcB → Bool
  | .r (.v _) => false
  | .r x => x.scalarOk
  | .imm _ => true

/-- The well-formed instructions. -/
def Instr.wf : Instr → Bool
  | .nop h | .exit h | .yield h | .mfence h | .lnext h | .lwait h => h.wf
  | .bra h _ _ | .brx h _ _ | .call h _ _ | .ret h _ | .bdec h _ _ | .trap h _ _ | .brk h _ => h.wf
  | .msave h _ | .mset h _ | .mand h _ | .mandn h _ | .mcount h _ _ | .mfirst h _ _ => h.wf
  | .pand h _ _ _ | .por h _ _ _ | .pxor h _ _ _ | .pnot h _ _ | .pmov h _ _ => h.wf
  | .pbitsGet h _ _ | .pbitsPut h _ _ => h.wf
  | .sadd h ty _ _ a b | .ssub h ty _ _ a b | .smul h ty _ _ a b =>
      h.wf && ty.arith && a.scalarOk && b.scalarOk
  | .smulh h ty _ a b | .sdiv h ty _ a b | .srem h ty _ a b | .smin h ty _ a b | .smax h ty _ a b =>
      h.wf && ty.arith && a.scalarOk && b.scalarOk
  | .sand h _ a b | .sor h _ a b | .sxor h _ a b => h.wf && a.scalarOk && b.scalarOk
  | .sshl h ty sat _ a b => h.wf && !(ty == .b64 && sat) && a.scalarOk && b.scalarOk
  | .sshr h ty _ a b => h.wf && ty.shr && a.scalarOk && b.scalarOk
  | .ssar h ty _ a b => h.wf && ty.sar && a.scalarOk && b.scalarOk
  | .scmp h ty _ _ a b => h.wf && ty.arith && a.scalarOk && b.scalarOk
  | .ssel h ty _ a b => h.wf && ty.sel && a.scalarOk && b.scalarOk
  | .smov h _ _ b => h.wf && b.scalarOk
  | .sli h _ a _ => h.wf && a.scalarOk
  | .sclz h ty _ a | .spopc h ty _ a => h.wf && ty.count && a.scalarOk
  | .sbfe h ty _ a b => h.wf && ty.bfe && a.scalarOk && b.scalarOk
  | .sadc h ty _ _ a b => h.wf && ty.arith && a.scalarOk && b.scalarOk
  | .vadd h ty _ d a b | .vsub h ty _ d a b | .vmul h ty _ d a b => h.wf && ty.arith && vabOk ty.wide d a b
  | .vmulh h ty d a b | .vmin h ty d a b | .vmax h ty d a b => h.wf && ty.arith && vabOk ty.wide d a b
  | .vmad h ty _ d a b => h.wf && ty.mad && vabOk false d a b
  | .vmadw h ty d a b => h.wf && ty.w32 && pairOk d && vabOk false d a b
  | .vadc h ty _ d a b | .vsbc h ty _ d a b => h.wf && ty.carry && vabOk ty.wide d a b
  | .vand h ty d a b | .vor h ty d a b | .vxor h ty d a b | .vsel h ty d a b =>
      h.wf && ty.logic && vabOk ty.wide d a b
  | .vshl h ty sat d a b => h.wf && !(ty == .b32 && sat) && vabOk ty.wide d a b
  | .vshr h ty d a b => h.wf && ty.shr && vabOk ty.wide d a b
  | .vsar h ty d a b => h.wf && ty.sgn && vabOk ty.wide d a b
  | .vabs h ty _ d a => h.wf && ty.sgn && (!ty.wide || pairOk d) && a.vectorOk && a.widthOk ty.wide
  | .vcmp h ty _ _ a b =>
      h.wf && ty.carry && a.vectorOk && b.vectorOk && a.widthOk ty.wide && b.widthOk ty.wide && oneScalar a b
  | .vmov h ty d b => h.wf && ty.logic && (!ty.wide || pairOk d) && b.vectorOk && b.widthOk ty.wide
  | .vclz h ty d a | .vpopc h ty d a =>
      h.wf && ty.count && (!ty.wide || pairOk d) && a.vectorOk && a.widthOk ty.wide
  | .vbfe h ty d a b => h.wf && ty.bfe && vabOk false d a b
  | .vbfi h d a b => h.wf && vabOk false d a b
  | .vdot4 h ty _ d a b => h.wf && ty.w32 && vabOk false d a b
  | .vfadd h _ _ _ d a b | .vfsub h _ _ _ d a b | .vfmul h _ _ _ d a b | .vffma h _ _ _ d a b
  | .vfdiv h _ _ _ d a b | .vfscale h _ _ _ d a b => h.wf && vabOk false d a b
  | .vfmin h _ _ d a b | .vfmax h _ _ d a b => h.wf && vabOk false d a b
  | .vfcmp h _ _ a b => h.wf && a.vectorOk && b.vectorOk && oneScalar a b
  | .vfsqrt h _ _ _ _ _ a | .vfrnd h _ _ _ _ _ a => h.wf && a.vectorOk
  | .vfrcp h _ _ _ _ a | .vfrsq h _ _ _ _ a | .vfexp2 h _ _ _ _ a | .vflog2 h _ _ _ _ a
  | .vfsin h _ _ _ _ a | .vfcos h _ _ _ _ a | .vftanh h _ _ _ _ a | .vfclass h _ _ _ _ a =>
      h.wf && a.vectorOk
  | .vfcvt h dty sty _ _ a sPart dPart =>
      h.wf && dty != sty && !(dty.isInt && sty.isInt) && a.vectorOk
        && decide (sPart.toNat ≤ sty.maxPart) && decide (dPart.toNat ≤ dty.maxPart)
  | .vred h ty op _ a => h.wf && redOk ty op && a.vectorOk
  | .vredx h ty op _ a => h.wf && ty != .b32 && (op == .min || op == .max) && a.vectorOk
  | .vscan h ty op _ _ a => h.wf && redOk ty op && a.vectorOk
  | .vshfl h _ _ a b => h.wf && a.vectorOk && b.vectorOk && oneScalar a b
  | .vbcast h _ _ b | .sgetl h _ _ b | .vsample h _ _ b => h.wf && lanelessV b
  | .vsetl h _ a b => h.wf && a.scalarOk && lanelessV b
  | .vrng h _ a b => h.wf && a.scalarOk &&
      (match b with
       | .imm _ => true
       | .r (.v _) => true
       | .r (.sp .lane) => true
       | .r _ => false)
  | .vtagGet h _ _ | .vtagExpand h _ _ | .vtagCompact h _ _ => h.wf
  | .vld h ty sp o d m => h.wf && ty.vOk d && accessScopeOk sp o m.scope
  | .vst h ty sp o a m => h.wf && ty.vOk a && accessScopeOk sp o m.scope
  | .sld h ty sp o d m =>
      h.wf && sp != .lpriv && m.idx.isNone && accessScopeOk sp o m.scope
        && (match d with
            | .s n => ty != .b128 || evenOk n
            | .v n => ty.vOk n)
  | .sst h ty sp o a m =>
      h.wf && sp != .lpriv && m.idx.isNone && accessScopeOk sp o m.scope && (ty != .b128 || evenOk a)
  | .vatom h ty op o d a m =>
      h.wf && atomOk ty op && (!ty.wide || pairOk d) && a.vectorOk && a.widthOk ty.wide
        && atomScopeOk m.pol o m.scope
  | .satom h ty op o _ _ m => h.wf && atomOk ty op && m.idx.isNone && atomScopeOk m.pol o m.scope
  | .fence h sc o => h.wf && !(o == .sc && sc == .system)
  | .cpy h _ a i | .cpyout h _ a i => h.wf && runOk a 4 && (i.count || i.group == 0)
  | .twait h a n =>
      h.wf && (match n with
               | none => true
               | some k => decide (1 ≤ k.toNat) && decide (k.toNat ≤ 8) && runOk a k.toNat)
  | .pf h m => h.wf && m.scope == .team
  | .cflush h m | .cinval h m => h.wf && !m.pol
  | .seal h _ _ _ | .unseal h _ _ => h.wf
  | .mma h _ _ b | .mma2 h _ _ b => h.wf && runOk b 2
  | .mzero h _ _ | .mver h _ _ | .mwait h _ _ => h.wf
  | .mload h _ _ _ a | .mdrain h _ _ _ _ a => h.wf && runOk a 2
  | .barv h _ _ | .bwait h _ | .bexp h _ _ | .btest h _ _ | .pend h _ _ => h.wf
  | .qpush h _ _ _ | .qcancel h _ | .dpush h _ _ _ => h.wf
  | .qspawn h _ a _ => h.wf && runOk a 2
  | .qpop h d _ | .dpop h d _ | .dsteal h d _ => h.wf && evenOk d
  | .nmopen h _ a _ => h.wf && runOk a 2
  | .nmcall h a _ => h.wf && runOk a 6
  | .nmcommit h _ i => h.wf && (i.count || (i.group == 0 && i.bytes == 0))
  | .nmstat h _ _ | .nmclose h _ => h.wf
  | .rbeg h _ _ | .rend h _ | .rabt h _ | .rstat h _ => h.wf
  | .gcall h _ a _ => h.wf && runOk a 8
  | .gret h _ _ | .gpoll h _ _ => h.wf
  | .csrr h _ c | .csrw h _ c _ => h.wf && csrListed c.toNat
  | .tret h _ | .intr h _ _ | .tinv h _ _ => h.wf
  | .probe h _ m => h.wf && m.idx.isNone && m.scope == .team && !m.pol
  | .wcsld h _ a => h.wf && runOk a 2
  | .instructionFetch .. | .passIssueSelect .. | .resultLand .. | .pendingTrapTaken .. | .excWindowClose ..
  | .queueAgentWake .. | .entryAccept .. | .queueAgentPush .. | .queueAccessRetry .. | .dispatchPlacement ..
  | .starvationPlacement .. | .phaseRecordRead .. | .bindRecordWrite .. | .cancelArrival .. | .passAged ..
  | .l1FillLand .. | .l1WriteBack .. | .writeCheckReturn .. | .pageResponse .. | .leaseExpiry | .memoryPoison ..
  | .hostReadSnoop .. | .hostWriteOwnership .. | .hostOwnershipArrival .. | .snoopDelayExpiry ..
  | .ioAtomicResponse .. | .peerAccessArrival .. | .calderaRowDone .. | .calderaCopyEnd .. | .matrixEntryStart ..
  | .matrixGatherDone .. | .matrixOpComplete .. | .transferFault .. | .barrierHubCycle | .ventAttemptStart ..
  | .ventCallExecute .. | .ventCommitRequest .. | .ventCommitPoint .. | .ventTranslationMiss .. | .regionCommit
  | .callArrival .. | .callAck .. | .callPromotion .. | .spillDrain .. | .stallBufferRelease .. | .replyLand ..
  | .gyTimeoutExpiry .. | .flitReceive .. | .flitAckReceive .. | .crcWindowClose .. | .laneRepairStart ..
  | .laneRepairDrainDone .. | .portRetrainTimeout .. | .portTraining .. | .phaseBoundaryPreempt ..
  | .forcedPreempt .. | .contextResume .. | .unitFail .. | .uncorrectedEcc .. | .machineCheck .. | .teamRetire ..
  | .launchRetire .. | .counterOverflow .. | .pmcCntWrite .. | .pmcSelWrite .. | .qtLenWrite .. | .excWinWrite ..
  | .excCntWrite .. | .ordModeWrite .. | .nmCsrWrite .. | .fjDevidWrite .. | .mgmtSemWrite .. | .mgmtSemTimeout
  | .csrWrite .. | .readPmc .. | .readEcs .. | .readLog .. | .createCtx .. | .writeCsr .. | .writePmc ..
  | .maintReset .. | .fwUpdate .. | .bankRefreshDue .. | .ecsScrubError .. | .powerGood .. | .thermalPowerLimit
  | .junctionOver110c | .inputPowerLoss | .junctionBelow100c | .flitReplayRequest .. | .homeWriteQueueDrain ..
  | .queueResidencyWrite .. => true

end Sys2Proof
end

