-- ==== Sys2Proof/Decode.lean ====
section
/-! DEFINITION. The decoder and the encoder (05 R73-R102). A word is cut into its fields (R76); the fields are checked
in the order of R101, checks 2 to 4 and 6, which depend on the word alone; then they are read as an instruction. The
encoder writes the same tables the other way. Checks that need the team (mask-word bounds, privilege, register budget,
latency, shape budget) are made at issue. -/

namespace Sys2Proof

/-! ## Codes of the modifier fields (05 R92-R99) -/

/-- The code of a STy (05 R94). -/
def STy.code : STy → BitVec 3
  | .i64 => 0
  | .n64 => 1
  | .i32 => 2
  | .n32 => 3
  | .b64 => 4
/-- The STy a code names; none for a reserved value (05 R94). -/
def STy.ofCode (x : BitVec 3) : Option STy :=
  match x.toNat with
  | 0 => some .i64
  | 1 => some .n64
  | 2 => some .i32
  | 3 => some .n32
  | 4 => some .b64
  | _ => none
theorem STy.ofCode_code (x : STy) : STy.ofCode x.code = some x := by cases x <;> rfl

/-- The code of a VTy (05 R94). -/
def VTy.code : VTy → BitVec 3
  | .i32 => 0
  | .n32 => 1
  | .i16x2 => 2
  | .n16x2 => 3
  | .i64 => 4
  | .n64 => 5
  | .b32 => 6
/-- The VTy a code names; none for a reserved value (05 R94). -/
def VTy.ofCode (x : BitVec 3) : Option VTy :=
  match x.toNat with
  | 0 => some .i32
  | 1 => some .n32
  | 2 => some .i16x2
  | 3 => some .n16x2
  | 4 => some .i64
  | 5 => some .n64
  | 6 => some .b32
  | _ => none
theorem VTy.ofCode_code (x : VTy) : VTy.ofCode x.code = some x := by cases x <;> rfl

/-- The code of a Cmp (05 R94). -/
def Cmp.code : Cmp → BitVec 3
  | .eq => 0
  | .ne => 1
  | .lt => 2
  | .le => 3
  | .gt => 4
  | .ge => 5
/-- The Cmp a code names; none for a reserved value (05 R94). -/
def Cmp.ofCode (x : BitVec 3) : Option Cmp :=
  match x.toNat with
  | 0 => some .eq
  | 1 => some .ne
  | 2 => some .lt
  | 3 => some .le
  | 4 => some .gt
  | 5 => some .ge
  | _ => none
theorem Cmp.ofCode_code (x : Cmp) : Cmp.ofCode x.code = some x := by cases x <;> rfl

/-- The code of a FTy (05 R95). -/
def FTy.code : FTy → BitVec 3
  | .f32 => 0
  | .bf16x2 => 1
  | .f16x2 => 2
/-- The FTy a code names; none for a reserved value (05 R95). -/
def FTy.ofCode (x : BitVec 3) : Option FTy :=
  match x.toNat with
  | 0 => some .f32
  | 1 => some .bf16x2
  | 2 => some .f16x2
  | _ => none
theorem FTy.ofCode_code (x : FTy) : FTy.ofCode x.code = some x := by cases x <;> rfl

/-- The code of a Rnd (05 R95). -/
def Rnd.code : Rnd → BitVec 2
  | .rne => 0
  | .rz => 1
  | .ru => 2
  | .rd => 3
/-- The Rnd a code names; none for a reserved value (05 R95). -/
def Rnd.ofCode (x : BitVec 2) : Option Rnd :=
  match x.toNat with
  | 0 => some .rne
  | 1 => some .rz
  | 2 => some .ru
  | 3 => some .rd
  | _ => none
theorem Rnd.ofCode_code (x : Rnd) : Rnd.ofCode x.code = some x := by cases x <;> rfl

/-- The code of a FCmp (05 R95). -/
def FCmp.code : FCmp → BitVec 3
  | .eq => 0
  | .ne => 1
  | .lt => 2
  | .le => 3
  | .gt => 4
  | .ge => 5
  | .uno => 6
  | .ord => 7
/-- The FCmp a code names; none for a reserved value (05 R95). -/
def FCmp.ofCode (x : BitVec 3) : Option FCmp :=
  match x.toNat with
  | 0 => some .eq
  | 1 => some .ne
  | 2 => some .lt
  | 3 => some .le
  | 4 => some .gt
  | 5 => some .ge
  | 6 => some .uno
  | 7 => some .ord
  | _ => none
theorem FCmp.ofCode_code (x : FCmp) : FCmp.ofCode x.code = some x := by cases x <;> rfl

/-- The code of a CvtTy (05 R95). -/
def CvtTy.code : CvtTy → BitVec 3
  | .f32 => 0
  | .bf16 => 1
  | .f16 => 2
  | .i32 => 3
  | .n32 => 4
  | .i16 => 5
  | .i8 => 6
/-- The CvtTy a code names; none for a reserved value (05 R95). -/
def CvtTy.ofCode (x : BitVec 3) : Option CvtTy :=
  match x.toNat with
  | 0 => some .f32
  | 1 => some .bf16
  | 2 => some .f16
  | 3 => some .i32
  | 4 => some .n32
  | 5 => some .i16
  | 6 => some .i8
  | _ => none
theorem CvtTy.ofCode_code (x : CvtTy) : CvtTy.ofCode x.code = some x := by cases x <;> rfl

/-- The code of a XTy (05 R96). -/
def XTy.code : XTy → BitVec 3
  | .i32 => 0
  | .n32 => 1
  | .f32 => 2
  | .b32 => 3
/-- The XTy a code names; none for a reserved value (05 R96). -/
def XTy.ofCode (x : BitVec 3) : Option XTy :=
  match x.toNat with
  | 0 => some .i32
  | 1 => some .n32
  | 2 => some .f32
  | 3 => some .b32
  | _ => none
theorem XTy.ofCode_code (x : XTy) : XTy.ofCode x.code = some x := by cases x <;> rfl

/-- The code of a ROp (05 R96). -/
def ROp.code : ROp → BitVec 3
  | .add => 0
  | .min => 1
  | .max => 2
  | .and => 3
  | .or => 4
  | .xor => 5
/-- The ROp a code names; none for a reserved value (05 R96). -/
def ROp.ofCode (x : BitVec 3) : Option ROp :=
  match x.toNat with
  | 0 => some .add
  | 1 => some .min
  | 2 => some .max
  | 3 => some .and
  | 4 => some .or
  | 5 => some .xor
  | _ => none
theorem ROp.ofCode_code (x : ROp) : ROp.ofCode x.code = some x := by cases x <;> rfl

/-- The code of a SMode (05 R96). -/
def SMode.code : SMode → BitVec 3
  | .idx => 0
  | .up => 1
  | .down => 2
  | .xor => 3
/-- The SMode a code names; none for a reserved value (05 R96). -/
def SMode.ofCode (x : BitVec 3) : Option SMode :=
  match x.toNat with
  | 0 => some .idx
  | 1 => some .up
  | 2 => some .down
  | 3 => some .xor
  | _ => none
theorem SMode.ofCode_code (x : SMode) : SMode.ofCode x.code = some x := by cases x <;> rfl

/-- The code of a MTy (05 R97). -/
def MTy.code : MTy → BitVec 3
  | .n8 => 0
  | .i8 => 1
  | .n16 => 2
  | .i16 => 3
  | .b32 => 4
  | .b64 => 5
  | .b128 => 6
/-- The MTy a code names; none for a reserved value (05 R97). -/
def MTy.ofCode (x : BitVec 3) : Option MTy :=
  match x.toNat with
  | 0 => some .n8
  | 1 => some .i8
  | 2 => some .n16
  | 3 => some .i16
  | 4 => some .b32
  | 5 => some .b64
  | 6 => some .b128
  | _ => none
theorem MTy.ofCode_code (x : MTy) : MTy.ofCode x.code = some x := by cases x <;> rfl

/-- The code of a Space (05 R97). -/
def Space.code : Space → BitVec 2
  | .global => 0
  | .spad => 1
  | .lpriv => 2
/-- The Space a code names; none for a reserved value (05 R97). -/
def Space.ofCode (x : BitVec 2) : Option Space :=
  match x.toNat with
  | 0 => some .global
  | 1 => some .spad
  | 2 => some .lpriv
  | _ => none
theorem Space.ofCode_code (x : Space) : Space.ofCode x.code = some x := by cases x <;> rfl

/-- The code of a Ord (05 R97). -/
def Ord.code : Ord → BitVec 2
  | .weak => 0
  | .strong => 1
  | .acqRel => 2
  | .sc => 3
/-- The Ord a code names; none for a reserved value (05 R97). -/
def Ord.ofCode (x : BitVec 2) : Option Ord :=
  match x.toNat with
  | 0 => some .weak
  | 1 => some .strong
  | 2 => some .acqRel
  | 3 => some .sc
  | _ => none
theorem Ord.ofCode_code (x : Ord) : Ord.ofCode x.code = some x := by cases x <;> rfl

/-- The code of a ATy (05 R97). -/
def ATy.code : ATy → BitVec 3
  | .n32 => 0
  | .i32 => 1
  | .n64 => 2
  | .i64 => 3
  | .f32 => 4
  | .bf16x2 => 5
  | .b32 => 6
  | .b64 => 7
/-- The ATy a code names; none for a reserved value (05 R97). -/
def ATy.ofCode (x : BitVec 3) : Option ATy :=
  match x.toNat with
  | 0 => some .n32
  | 1 => some .i32
  | 2 => some .n64
  | 3 => some .i64
  | 4 => some .f32
  | 5 => some .bf16x2
  | 6 => some .b32
  | 7 => some .b64
  | _ => none
theorem ATy.ofCode_code (x : ATy) : ATy.ofCode x.code = some x := by cases x <;> rfl

/-- The code of a AOp (05 R97). -/
def AOp.code : AOp → BitVec 3
  | .add => 0
  | .min => 1
  | .max => 2
  | .and => 3
  | .or => 4
  | .xor => 5
  | .exch => 6
  | .cas => 7
/-- The AOp a code names; none for a reserved value (05 R97). -/
def AOp.ofCode (x : BitVec 3) : Option AOp :=
  match x.toNat with
  | 0 => some .add
  | 1 => some .min
  | 2 => some .max
  | 3 => some .and
  | 4 => some .or
  | 5 => some .xor
  | 6 => some .exch
  | 7 => some .cas
  | _ => none
theorem AOp.ofCode_code (x : AOp) : AOp.ofCode x.code = some x := by cases x <;> rfl

/-- The code of a AOrd (05 R97). -/
def AOrd.code : AOrd → BitVec 2
  | .rlx => 0
  | .acq => 1
  | .rel => 2
  | .sc => 3
/-- The AOrd a code names; none for a reserved value (05 R97). -/
def AOrd.ofCode (x : BitVec 2) : Option AOrd :=
  match x.toNat with
  | 0 => some .rlx
  | 1 => some .acq
  | 2 => some .rel
  | 3 => some .sc
  | _ => none
theorem AOrd.ofCode_code (x : AOrd) : AOrd.ofCode x.code = some x := by cases x <;> rfl

/-- The code of a FOrd (05 R97). -/
def FOrd.code : FOrd → BitVec 2
  | .acq => 0
  | .rel => 1
  | .ar => 2
  | .sc => 3
/-- The FOrd a code names; none for a reserved value (05 R97). -/
def FOrd.ofCode (x : BitVec 2) : Option FOrd :=
  match x.toNat with
  | 0 => some .acq
  | 1 => some .rel
  | 2 => some .ar
  | 3 => some .sc
  | _ => none
theorem FOrd.ofCode_code (x : FOrd) : FOrd.ofCode x.code = some x := by cases x <;> rfl

/-- The code of a CsrOp (05 R99). -/
def CsrOp.code : CsrOp → BitVec 2
  | .wr => 0
  | .set => 1
  | .clr => 2
/-- The CsrOp a code names; none for a reserved value (05 R99). -/
def CsrOp.ofCode (x : BitVec 2) : Option CsrOp :=
  match x.toNat with
  | 0 => some .wr
  | 1 => some .set
  | 2 => some .clr
  | _ => none
theorem CsrOp.ofCode_code (x : CsrOp) : CsrOp.ofCode x.code = some x := by cases x <;> rfl

/-- The code of a Scope (05 R83). -/
def Scope.code : Scope → BitVec 3
  | .team => 0
  | .core => 1
  | .die => 2
  | .device => 3
  | .system => 4
/-- The Scope a code names; none for a reserved value (05 R83). -/
def Scope.ofCode (x : BitVec 3) : Option Scope :=
  match x.toNat with
  | 0 => some .team
  | 1 => some .core
  | 2 => some .die
  | 3 => some .device
  | 4 => some .system
  | _ => none
theorem Scope.ofCode_code (x : Scope) : Scope.ofCode x.code = some x := by cases x <;> rfl

/-- The number of a special register (05 R78). -/
def Special.num : Special → BitVec 5
  | .lane => 0
  | .team => 1
  | .width => 2
  | .core => 3
  | .twin => 4
  | .die => 5
  | .dev => 6
  | .ctx => 7
  | .clock => 8
  | .phase => 9
  | .cancel => 10
  | .shp0 => 11
  | .shp1 => 12
  | .shp2 => 13
  | .shp3 => 14
  | .cause => 15
  | .tpc => 16
  | .tval => 17
  | .fmask => 18
/-- The special register of a number (05 R78). -/
def Special.ofNum (x : BitVec 5) : Option Special :=
  match x.toNat with
  | 0 => some .lane
  | 1 => some .team
  | 2 => some .width
  | 3 => some .core
  | 4 => some .twin
  | 5 => some .die
  | 6 => some .dev
  | 7 => some .ctx
  | 8 => some .clock
  | 9 => some .phase
  | 10 => some .cancel
  | 11 => some .shp0
  | 12 => some .shp1
  | 13 => some .shp2
  | 14 => some .shp3
  | 15 => some .cause
  | 16 => some .tpc
  | 17 => some .tval
  | 18 => some .fmask
  | _ => none
theorem Special.ofNum_num (x : Special) : Special.ofNum x.num = some x := by cases x <;> rfl

/-! ## Fields of the word (05 R76) -/

structure Fields where
  opc   : BitVec 10
  md    : BitVec 8
  gneg  : BitVec 1
  gp    : BitVec 5
  stall : BitVec 4
  yld   : BitVec 1
  rsv   : BitVec 3
  d     : BitVec 10
  a     : BitVec 10
  b     : BitVec 44
  deriving DecidableEq, Repr

/-- Cut a word into its fields (05 R76). -/
def Fields.ofWord (w : BitVec 96) : Fields :=
  { opc := w.extractLsb' 86 10, md := w.extractLsb' 78 8, gneg := w.extractLsb' 77 1, gp := w.extractLsb' 72 5,
    stall := w.extractLsb' 68 4, yld := w.extractLsb' 67 1, rsv := w.extractLsb' 64 3, d := w.extractLsb' 54 10,
    a := w.extractLsb' 44 10, b := w.extractLsb' 0 44 }

/-- Join fields into a word (05 R76). -/
def Fields.toWord (f : Fields) : BitVec 96 :=
  f.opc ++ f.md ++ f.gneg ++ f.gp ++ f.stall ++ f.yld ++ f.rsv ++ f.d ++ f.a ++ f.b

/-! ## Operand specifiers and B forms (05 R77, R81-R83) -/

def specV (n : VIdx) : BitVec 10 := (0 : BitVec 3) ++ n
def specS (n : SIdx) : BitVec 10 := (0b0100 : BitVec 4) ++ n
def specAcc (n : AIdx) : BitVec 10 := (0b10 : BitVec 2) ++ n
def specP (n : PIdx) : BitVec 10 := (0b11000 : BitVec 5) ++ n
def specSp (x : Special) : BitVec 10 := (0b11001 : BitVec 5) ++ x.num
def specMw (k : PIdx) : BitVec 10 := (0b11010 : BitVec 5) ++ k

def Src.spec : Src → BitVec 10
  | .v n => specV n
  | .s n => specS n
  | .sp x => specSp x

def PSrc.spec : PSrc → BitVec 10
  | .p n => specP n
  | .fmask => specSp .fmask

def bReg (x : BitVec 10) : BitVec 44 := (0 : BitVec 34) ++ x
def bImm (x : BitVec 32) : BitVec 44 := (0b01 : BitVec 2) ++ (0 : BitVec 10) ++ x
def bExt (x : BitVec 42) : BitVec 44 := (0b11 : BitVec 2) ++ x
def boolBit (b : Bool) : BitVec 1 := BitVec.ofBool b
def idxCode : Option VIdx → BitVec 8
  | none => 0xFF
  | some n => (0 : BitVec 1) ++ n
def bMem (m : MemOp) : BitVec 44 :=
  (0b10 : BitVec 2) ++ m.base ++ m.scope.code ++ boolBit m.pol ++ idxCode m.idx ++ m.off

def SrcB.bits : SrcB → BitVec 44
  | .r x => bReg x.spec
  | .imm x => bImm x

def SI.bits : SI → BitVec 44
  | .s n => bReg (specS n)
  | .imm x => bImm x

def GrpOp.bits : GrpOp → BitVec 44
  | .s n => bReg (specS n)
  | .imm x => bImm ((0 : BitVec 24) ++ x)

def VerOp.bits : VerOp → BitVec 44
  | .s n => bReg (specS n)
  | .imm x => bImm ((0 : BitVec 16) ++ x)

def StatOp.bits : StatOp → BitVec 44
  | .s n => bReg (specS n)
  | .imm x => bImm ((0 : BitVec 23) ++ x)

def Target.bits : Target → BitVec 44
  | .rel c => bExt ((0 : BitVec 10) ++ c)
  | .reg n => bReg (specS n)

def CpyImm.bits (i : CpyImm) : BitVec 32 :=
  (0 : BitVec 15) ++ boolBit i.count ++ i.group ++ (0 : BitVec 2) ++ i.kind ++ i.fmt

def CommitImm.bits (i : CommitImm) : BitVec 32 := (0 : BitVec 7) ++ boolBit i.count ++ i.group ++ i.bytes

def CallImm.bits (i : CallImm) : BitVec 32 := (0 : BitVec 17) ++ boolBit i.reply ++ i.cls ++ i.handler

def BrCond.code : BrCond → BitVec 2
  | .always => 0
  | .any _ => 1
  | .all _ => 2
  | .none _ => 3

def BrCond.spec : BrCond → BitVec 10
  | .always => 0
  | .any a | .all a | .none a => a.spec

/-! ### Reading specifiers -/

def readV (x : BitVec 10) : VIdx := x.extractLsb' 0 7
def readS (x : BitVec 10) : SIdx := x.extractLsb' 0 6
def readAcc (x : BitVec 10) : AIdx := x.extractLsb' 0 8
def readP (x : BitVec 10) : PIdx := x.extractLsb' 0 5

def readSrc (x : BitVec 10) : Src :=
  match (x.extractLsb' 8 2).toNat with
  | 0 => .v (readV x)
  | 1 => .s (readS x)
  | _ => .sp ((Special.ofNum (readP x)).getD .lane)

def readPSrc (x : BitVec 10) : PSrc :=
  if x.extractLsb' 5 5 = (0b11001 : BitVec 5) then .fmask else .p (readP x)

def bKind (b : BitVec 44) : BitVec 2 := b.extractLsb' 42 2
def bSpec (b : BitVec 44) : BitVec 10 := b.extractLsb' 0 10
def bVal (b : BitVec 44) : BitVec 32 := b.extractLsb' 0 32
def isReg (b : BitVec 44) : Bool := bKind b == 0

def readSrcB (b : BitVec 44) : SrcB := if isReg b then .r (readSrc (bSpec b)) else .imm (bVal b)
def readSI (b : BitVec 44) : SI := if isReg b then .s (readS (bSpec b)) else .imm (bVal b)
def readGrp (b : BitVec 44) : GrpOp := if isReg b then .s (readS (bSpec b)) else .imm (b.extractLsb' 0 8)
def readVer (b : BitVec 44) : VerOp := if isReg b then .s (readS (bSpec b)) else .imm (b.extractLsb' 0 16)
def readStat (b : BitVec 44) : StatOp := if isReg b then .s (readS (bSpec b)) else .imm (b.extractLsb' 0 9)
def readTarget (b : BitVec 44) : Target := if isReg b then .reg (readS (bSpec b)) else .rel (bVal b)

def readMem (b : BitVec 44) : MemOp :=
  { base := b.extractLsb' 36 6, scope := (Scope.ofCode (b.extractLsb' 33 3)).getD .team, pol := b.getLsbD 32,
    idx := if b.extractLsb' 24 8 = 0xFF#8 then none else some (b.extractLsb' 24 7), off := b.extractLsb' 0 24 }

def readCond (md : BitVec 8) (a : BitVec 10) : BrCond :=
  match (md.extractLsb' 6 2).toNat with
  | 0 => .always
  | 1 => .any (readPSrc a)
  | 2 => .all (readPSrc a)
  | _ => .none (readPSrc a)

/-! ## What each opcode accepts -/

/-- What a position accepts (05 R77, R79, R80): `v` and `s` hold the alignment and the run length, 0 where the file is
not accepted; `sEven` asks an even scalar register; `zero` lets the zero specifier stand for no operand. -/
structure Acc where
  v     : Nat := 0
  s     : Nat := 0
  sEven : Bool := false
  acc   : Bool := false
  p     : Bool := false
  mw    : Bool := false
  sp    : Bool := false
  lane  : Bool := false
  fmask : Bool := false
  zero  : Bool := false

/-- A specifier is legal in a position (05 R77-R80). -/
def Acc.legal (k : Acc) (x : BitVec 10) : Bool :=
  (k.zero && x == 0) ||
  (let n := x.toNat % 256
   match (x.extractLsb' 8 2).toNat with
   | 0 => k.v != 0 && decide (n < 128) && n % k.v == 0
   | 1 => k.s != 0 && decide (n + k.s ≤ 64) && (!k.sEven || n % 2 == 0)
   | 2 => k.acc
   | _ =>
     match (x.extractLsb' 5 3).toNat with
     | 0 => k.p
     | 1 => (match Special.ofNum (readP x) with
             | none => false
             | some .lane => k.lane
             | some .fmask => k.fmask
             | some _ => k.sp)
     | 2 => k.mw
     | _ => false)

/-- What the B field accepts (05 R81): with nothing accepted B must be zero; `opt` lets B = 0 stand for no operand. -/
structure BAcc where
  opt    : Bool := false
  reg    : Option Acc := none
  imm    : Option (BitVec 32) := none      -- the bits that must be zero
  immOk  : Bool := true
  mem    : Bool := false
  noIdx  : Bool := false
  polZ   : Bool := false
  plain  : Bool := false                    -- `probe`: SCOPE and POL zero, else ILLEGAL_OPERAND
  ext    : Option (BitVec 42) := none      -- the bits that must be zero
  extOk  : Bool := true

def BAcc.none : BAcc → Bool
  | k => k.reg.isNone && k.imm.isNone && !k.mem && k.ext.isNone

structure Layout where
  modUsed : BitVec 8 := 0
  modOk   : Bool := true
  d       : Option Acc := none
  a       : Option Acc := none
  b       : BAcc := {}
  vec     : Bool := false                   -- a vector instruction: at most one scalar source (06 R112)
  scopeOk : Bool := true
  fscope  : Bool := false                   -- `fence`: MOD holds a SCOPE

def accS : Acc := { s := 1 }
def accSn (n : Nat) : Acc := { s := n }
def accV : Acc := { v := 1 }
def accVw (w : Bool) : Acc := { v := if w then 2 else 1 }
def accP : Acc := { p := true }
/-- A predicate that is read may be %fmask (05 R78; 23 R359). -/
def accPr : Acc := { p := true, fmask := true }
def accSs : Acc := { s := 1, sp := true }
def accX (w : Bool) : Acc := { v := if w then 2 else 1, s := 1, sp := true, lane := !w }
def accAcc : Acc := { acc := true }
def accMv (ty : MTy) : Acc := { v := match ty with | .b64 => 2 | .b128 => 4 | _ => 1 }
def bNone : BAcc := {}
def bSI : BAcc := { reg := some accS, imm := some 0 }
def bS : BAcc := { reg := some accS }
def bSrcS : BAcc := { reg := some accSs, imm := some 0 }
def bSrcV (w : Bool) : BAcc := { reg := some (accX w), imm := some 0 }
def bImmZ (z : BitVec 32) : BAcc := { imm := some z }
def bRel : BAcc := { ext := some (0x3FF00000000 : BitVec 42) }
def bMemV : BAcc := { mem := true }
def bMemS : BAcc := { mem := true, noIdx := true }

/-! ### Modifier fields -/
def mTy (m : BitVec 8) : BitVec 3 := m.extractLsb' 5 3
def mSat (m : BitVec 8) : BitVec 2 := m.extractLsb' 3 2
def mCond (m : BitVec 8) : BitVec 3 := m.extractLsb' 0 3
def mCp (m : BitVec 8) : BitVec 5 := m.extractLsb' 0 5
def mMid (m : BitVec 8) : BitVec 3 := m.extractLsb' 2 3
def mLow (m : BitVec 8) : BitVec 2 := m.extractLsb' 0 2
def mOrd (m : BitVec 8) : BitVec 2 := m.extractLsb' 1 2
def mTop (m : BitVec 8) : BitVec 2 := m.extractLsb' 6 2
def sTyOf (m : BitVec 8) : STy := (STy.ofCode (mTy m)).getD .i64
def vTyOf (m : BitVec 8) : VTy := (VTy.ofCode (mTy m)).getD .i32
def fTyOf (m : BitVec 8) : FTy := (FTy.ofCode (mTy m)).getD .f32
def rndOf (m : BitVec 8) : Rnd := (Rnd.ofCode (mSat m)).getD .rne
def cmpOf (m : BitVec 8) : Cmp := (Cmp.ofCode (mCond m)).getD .eq
def fModOf (m : BitVec 8) : FMod := { nega := m.getLsbD 2, absa := m.getLsbD 1, negb := m.getLsbD 0 }
def xTyOf (m : BitVec 8) : XTy := (XTy.ofCode (mTy m)).getD .i32
def rOpOf (m : BitVec 8) : ROp := (ROp.ofCode (mMid m)).getD .add
def mTyOf (m : BitVec 8) : MTy := (MTy.ofCode (mTy m)).getD .n8
def spaceOf (m : BitVec 8) : Space := (Space.ofCode (mSat m)).getD .global
def ordOf (m : BitVec 8) : Ord := (Ord.ofCode (mOrd m)).getD .weak
def aTyOf (m : BitVec 8) : ATy := (ATy.ofCode (mTy m)).getD .n32
def aOpOf (m : BitVec 8) : AOp := (AOp.ofCode (mMid m)).getD .add
def aOrdOf (m : BitVec 8) : AOrd := (AOrd.ofCode (mLow m)).getD .rlx
def sTyIs (m : BitVec 8) (ok : STy → Bool) : Bool := (STy.ofCode (mTy m)).any ok
def vTyIs (m : BitVec 8) (ok : VTy → Bool) : Bool := (VTy.ofCode (mTy m)).any ok
def satIs (m : BitVec 8) : Bool := !m.getLsbD 4
def satOf (m : BitVec 8) : Bool := m.getLsbD 3

/-- Integer modifiers: TYPE with SAT, COND or CP used. -/
def mkMod (ty : BitVec 3) (hi : BitVec 2) (lo : BitVec 3) : BitVec 8 := ty ++ hi ++ lo
def satBits (s : Bool) : BitVec 2 := (0 : BitVec 1) ++ boolBit s
def FMod.bits (m : FMod) : BitVec 3 := boolBit m.nega ++ boolBit m.absa ++ boolBit m.negb

def readSP (x : BitVec 10) : SPDst := if (x.extractLsb' 8 2).toNat = 1 then .s (readS x) else .p (readP x)
def readSV (x : BitVec 10) : SVDst := if (x.extractLsb' 8 2).toNat = 1 then .s (readS x) else .v (readV x)
def isMwSpec (x : BitVec 10) : Bool := x.extractLsb' 5 5 == (0b11010 : BitVec 5)
def readCpy (b : BitVec 44) : CpyImm :=
  { count := b.getLsbD 16, group := b.extractLsb' 8 8, kind := b.extractLsb' 4 2, fmt := b.extractLsb' 0 4 }
def readCommit (b : BitVec 44) : CommitImm :=
  { count := b.getLsbD 24, group := b.extractLsb' 16 8, bytes := b.extractLsb' 0 16 }
def readCall (b : BitVec 44) : CallImm :=
  { handler := b.extractLsb' 0 12, cls := b.extractLsb' 12 2, reply := b.getLsbD 14 }
/-- The excluded combinations of `vfcvt` (05 R95). -/
def cvtOk (m : BitVec 8) : Bool :=
  match CvtTy.ofCode (mTy m), CvtTy.ofCode (mMid m) with
  | some dt, some st => dt != st && !(dt.isInt && st.isInt)
  | _, _ => false
/-- The part limits of `vfcvt` (09 R176). -/
def partsOk (m : BitVec 8) (b : BitVec 44) : Bool :=
  match CvtTy.ofCode (mTy m), CvtTy.ofCode (mMid m) with
  | some dt, some st =>
    decide ((b.extractLsb' 4 2).toNat ≤ st.maxPart) && decide ((b.extractLsb' 0 2).toNat ≤ dt.maxPart)
  | _, _ => false
/-- The run that `twait` names (10 R220). -/
def twaitRun (b : BitVec 44) : Nat :=
  if 1 ≤ (bVal b).toNat ∧ (bVal b).toNat ≤ 8 then (bVal b).toNat else 1

/-! ## The opcode map (05 R100) -/

def layoutControl (f : Fields) : Option Layout :=
  match f.opc.toNat with
  | 0x000 => some {}
  | 0x001 => some { modUsed := 0xC0, a := if mTop f.md = 0 then none else some accPr, b := bRel }
  | 0x002 => some { modUsed := 0xC0, a := if mTop f.md = 0 then none else some accPr, b := bS }
  | 0x003 => some { modUsed := 0xC0, a := if mTop f.md = 0 then none else some accPr, b := { reg := some accS, ext := some 0x3FF00000000 } }
  | 0x004 => some { modUsed := 0xC0, a := if mTop f.md = 0 then none else some accPr }
  | 0x005 => some { d := some accS, b := bRel }
  | 0x006 => some {}
  | 0x007 => some {}
  | 0x008 => some { a := some { s := 1, zero := true }, b := { imm := some 0, immOk := decide ((bVal f.b).toNat < 32) } }
  | 0x009 => some { b := { opt := true, imm := some 0, immOk := decide ((bVal f.b).toNat < 65536) } }
  | _ => none

def buildControl (f : Fields) (h : Hdr) : Instr :=
  match f.opc.toNat with
  | 0x000 => .nop h
  | 0x001 => .bra h (readCond f.md f.a) (bVal f.b)
  | 0x002 => .brx h (readCond f.md f.a) (readS (bSpec f.b))
  | 0x003 => .call h (readCond f.md f.a) (readTarget f.b)
  | 0x004 => .ret h (readCond f.md f.a)
  | 0x005 => .bdec h (readS f.d) (bVal f.b)
  | 0x006 => .exit h
  | 0x007 => .yield h
  | 0x008 => .trap h (if f.a = 0 then none else some (readS f.a)) (f.b.extractLsb' 0 5)
  | 0x009 => .brk h (if f.b = 0 then none else some (f.b.extractLsb' 0 16))
  | _ => .nop h

def layoutMask (f : Fields) : Option Layout :=
  match f.opc.toNat with
  | 0x010 => some { d := some accP }
  | 0x011 => some { a := some accPr }
  | 0x012 => some { a := some accPr }
  | 0x013 => some { a := some accPr }
  | 0x014 => some { d := some accS, a := some accPr }
  | 0x015 => some { d := some accS, a := some accPr }
  | 0x016 => some { d := some accP, a := some accPr, b := { reg := some accPr } }
  | 0x017 => some { d := some accP, a := some accPr, b := { reg := some accPr } }
  | 0x018 => some { d := some accP, a := some accPr, b := { reg := some accPr } }
  | 0x019 => some { d := some accP, a := some accPr }
  | 0x01A => some { d := some accP, a := some accPr }
  | 0x01B => if f.md.getLsbD 7 then some { modUsed := 0x80, d := some { p := true, mw := true }, a := some accS, b := if isMwSpec f.d then bNone else bImmZ 0 } else some { modUsed := 0x80, d := some accS, a := some { p := true, fmask := true, mw := true }, b := if isMwSpec f.a then bNone else bImmZ 0 }
  | _ => none

def buildMask (f : Fields) (h : Hdr) : Instr :=
  match f.opc.toNat with
  | 0x010 => .msave h (readP f.d)
  | 0x011 => .mset h (readPSrc f.a)
  | 0x012 => .mand h (readPSrc f.a)
  | 0x013 => .mandn h (readPSrc f.a)
  | 0x014 => .mcount h (readS f.d) (readPSrc f.a)
  | 0x015 => .mfirst h (readS f.d) (readPSrc f.a)
  | 0x016 => .pand h (readP f.d) (readPSrc f.a) (readPSrc (bSpec f.b))
  | 0x017 => .por h (readP f.d) (readPSrc f.a) (readPSrc (bSpec f.b))
  | 0x018 => .pxor h (readP f.d) (readPSrc f.a) (readPSrc (bSpec f.b))
  | 0x019 => .pnot h (readP f.d) (readPSrc f.a)
  | 0x01A => .pmov h (readP f.d) (readPSrc f.a)
  | 0x01B => if f.md.getLsbD 7 then .pbitsPut h (if isMwSpec f.d then .mw (readP f.d) else .p (readP f.d) (bVal f.b)) (readS f.a) else .pbitsGet h (readS f.d) (if isMwSpec f.a then .mw (readP f.a) else .p (readPSrc f.a) (bVal f.b))
  | _ => .nop h

def layoutScalar (f : Fields) : Option Layout :=
  match f.opc.toNat with
  | 0x040 => some { modUsed := 0xF8, modOk := sTyIs f.md STy.arith && satIs f.md, d := some accS, a := some accSs, b := bSrcS }
  | 0x041 => some { modUsed := 0xF8, modOk := sTyIs f.md STy.arith && satIs f.md, d := some accS, a := some accSs, b := bSrcS }
  | 0x042 => some { modUsed := 0xF8, modOk := sTyIs f.md STy.arith && satIs f.md, d := some accS, a := some accSs, b := bSrcS }
  | 0x043 => some { modUsed := 0xE0, modOk := sTyIs f.md STy.arith, d := some accS, a := some accSs, b := bSrcS }
  | 0x044 => some { modUsed := 0xE0, modOk := sTyIs f.md STy.arith, d := some accS, a := some accSs, b := bSrcS }
  | 0x045 => some { modUsed := 0xE0, modOk := sTyIs f.md STy.arith, d := some accS, a := some accSs, b := bSrcS }
  | 0x046 => some { modUsed := 0xE0, modOk := sTyIs f.md (· == .b64), d := some accS, a := some accSs, b := bSrcS }
  | 0x047 => some { modUsed := 0xE0, modOk := sTyIs f.md (· == .b64), d := some accS, a := some accSs, b := bSrcS }
  | 0x048 => some { modUsed := 0xE0, modOk := sTyIs f.md (· == .b64), d := some accS, a := some accSs, b := bSrcS }
  | 0x049 => some { modUsed := 0xF8, modOk := sTyIs f.md (fun _ => true) && satIs f.md && !(sTyOf f.md == .b64 && satOf f.md), d := some accS, a := some accSs, b := bSrcS }
  | 0x04A => some { modUsed := 0xE0, modOk := sTyIs f.md STy.shr, d := some accS, a := some accSs, b := bSrcS }
  | 0x04B => some { modUsed := 0xE0, modOk := sTyIs f.md STy.sar, d := some accS, a := some accSs, b := bSrcS }
  | 0x04C => some { modUsed := 0xE0, modOk := sTyIs f.md STy.arith, d := some accS, a := some accSs, b := bSrcS }
  | 0x04D => some { modUsed := 0xE0, modOk := sTyIs f.md STy.arith, d := some accS, a := some accSs, b := bSrcS }
  | 0x04E => some { modUsed := 0xE7, modOk := sTyIs f.md STy.arith && (Cmp.ofCode (mCond f.md)).isSome, d := some { s := 1, p := true }, a := some accSs, b := bSrcS }
  | 0x04F => some { modUsed := 0xE0, modOk := sTyIs f.md STy.sel, d := some accS, a := some accSs, b := bSrcS }
  | 0x050 => some { modUsed := 0xE0, modOk := sTyIs f.md (fun _ => true), d := some accS, b := bSrcS }
  | 0x051 => some { modUsed := 0xE0, modOk := sTyIs f.md (· == .b64), d := some accS, a := some accSs, b := bImmZ 0 }
  | 0x052 => some { modUsed := 0xE0, modOk := sTyIs f.md STy.count, d := some accS, a := some accSs }
  | 0x053 => some { modUsed := 0xE0, modOk := sTyIs f.md STy.count, d := some accS, a := some accSs }
  | 0x054 => some { modUsed := 0xE0, modOk := sTyIs f.md STy.bfe, d := some accS, a := some accSs, b := bSrcS }
  | 0x055 => some { modUsed := 0xFF, modOk := sTyIs f.md STy.arith, d := some accS, a := some accSs, b := bSrcS }
  | _ => none

def buildScalar (f : Fields) (h : Hdr) : Instr :=
  match f.opc.toNat with
  | 0x040 => .sadd h (sTyOf f.md) (satOf f.md) (readS f.d) (readSrc f.a) (readSrcB f.b)
  | 0x041 => .ssub h (sTyOf f.md) (satOf f.md) (readS f.d) (readSrc f.a) (readSrcB f.b)
  | 0x042 => .smul h (sTyOf f.md) (satOf f.md) (readS f.d) (readSrc f.a) (readSrcB f.b)
  | 0x043 => .smulh h (sTyOf f.md) (readS f.d) (readSrc f.a) (readSrcB f.b)
  | 0x044 => .sdiv h (sTyOf f.md) (readS f.d) (readSrc f.a) (readSrcB f.b)
  | 0x045 => .srem h (sTyOf f.md) (readS f.d) (readSrc f.a) (readSrcB f.b)
  | 0x046 => .sand h (readS f.d) (readSrc f.a) (readSrcB f.b)
  | 0x047 => .sor h (readS f.d) (readSrc f.a) (readSrcB f.b)
  | 0x048 => .sxor h (readS f.d) (readSrc f.a) (readSrcB f.b)
  | 0x049 => .sshl h (sTyOf f.md) (satOf f.md) (readS f.d) (readSrc f.a) (readSrcB f.b)
  | 0x04A => .sshr h (sTyOf f.md) (readS f.d) (readSrc f.a) (readSrcB f.b)
  | 0x04B => .ssar h (sTyOf f.md) (readS f.d) (readSrc f.a) (readSrcB f.b)
  | 0x04C => .smin h (sTyOf f.md) (readS f.d) (readSrc f.a) (readSrcB f.b)
  | 0x04D => .smax h (sTyOf f.md) (readS f.d) (readSrc f.a) (readSrcB f.b)
  | 0x04E => .scmp h (sTyOf f.md) (cmpOf f.md) (readSP f.d) (readSrc f.a) (readSrcB f.b)
  | 0x04F => .ssel h (sTyOf f.md) (readS f.d) (readSrc f.a) (readSrcB f.b)
  | 0x050 => .smov h (sTyOf f.md) (readS f.d) (readSrcB f.b)
  | 0x051 => .sli h (readS f.d) (readSrc f.a) (bVal f.b)
  | 0x052 => .sclz h (sTyOf f.md) (readS f.d) (readSrc f.a)
  | 0x053 => .spopc h (sTyOf f.md) (readS f.d) (readSrc f.a)
  | 0x054 => .sbfe h (sTyOf f.md) (readS f.d) (readSrc f.a) (readSrcB f.b)
  | 0x055 => .sadc h (sTyOf f.md) (mCp f.md) (readS f.d) (readSrc f.a) (readSrcB f.b)
  | _ => .nop h

def layoutVector (f : Fields) : Option Layout :=
  match f.opc.toNat with
  | 0x0C0 => some { modUsed := 0xF8, modOk := vTyIs f.md VTy.arith && satIs f.md, d := some (accVw (vTyOf f.md).wide), a := some (accX (vTyOf f.md).wide), b := bSrcV (vTyOf f.md).wide, vec := true }
  | 0x0C1 => some { modUsed := 0xF8, modOk := vTyIs f.md VTy.arith && satIs f.md, d := some (accVw (vTyOf f.md).wide), a := some (accX (vTyOf f.md).wide), b := bSrcV (vTyOf f.md).wide, vec := true }
  | 0x0C2 => some { modUsed := 0xF8, modOk := vTyIs f.md VTy.arith && satIs f.md, d := some (accVw (vTyOf f.md).wide), a := some (accX (vTyOf f.md).wide), b := bSrcV (vTyOf f.md).wide, vec := true }
  | 0x0C3 => some { modUsed := 0xE0, modOk := vTyIs f.md VTy.arith, d := some (accVw (vTyOf f.md).wide), a := some (accX (vTyOf f.md).wide), b := bSrcV (vTyOf f.md).wide, vec := true }
  | 0x0C4 => some { modUsed := 0xF8, modOk := vTyIs f.md VTy.mad && satIs f.md, d := some (accVw false), a := some (accX false), b := bSrcV false, vec := true }
  | 0x0C5 => some { modUsed := 0xE0, modOk := vTyIs f.md VTy.w32, d := some (accVw true), a := some (accX false), b := bSrcV false, vec := true }
  | 0x0C6 => some { modUsed := 0xFF, modOk := vTyIs f.md VTy.carry, d := some (accVw (vTyOf f.md).wide), a := some (accX (vTyOf f.md).wide), b := bSrcV (vTyOf f.md).wide, vec := true }
  | 0x0C7 => some { modUsed := 0xFF, modOk := vTyIs f.md VTy.carry, d := some (accVw (vTyOf f.md).wide), a := some (accX (vTyOf f.md).wide), b := bSrcV (vTyOf f.md).wide, vec := true }
  | 0x0C8 => some { modUsed := 0xE0, modOk := vTyIs f.md VTy.logic, d := some (accVw (vTyOf f.md).wide), a := some (accX (vTyOf f.md).wide), b := bSrcV (vTyOf f.md).wide, vec := true }
  | 0x0C9 => some { modUsed := 0xE0, modOk := vTyIs f.md VTy.logic, d := some (accVw (vTyOf f.md).wide), a := some (accX (vTyOf f.md).wide), b := bSrcV (vTyOf f.md).wide, vec := true }
  | 0x0CA => some { modUsed := 0xE0, modOk := vTyIs f.md VTy.logic, d := some (accVw (vTyOf f.md).wide), a := some (accX (vTyOf f.md).wide), b := bSrcV (vTyOf f.md).wide, vec := true }
  | 0x0CB => some { modUsed := 0xF8, modOk := vTyIs f.md (fun _ => true) && satIs f.md && !(vTyOf f.md == .b32 && satOf f.md), d := some (accVw (vTyOf f.md).wide), a := some (accX (vTyOf f.md).wide), b := bSrcV (vTyOf f.md).wide, vec := true }
  | 0x0CC => some { modUsed := 0xE0, modOk := vTyIs f.md VTy.shr, d := some (accVw (vTyOf f.md).wide), a := some (accX (vTyOf f.md).wide), b := bSrcV (vTyOf f.md).wide, vec := true }
  | 0x0CD => some { modUsed := 0xE0, modOk := vTyIs f.md VTy.sgn, d := some (accVw (vTyOf f.md).wide), a := some (accX (vTyOf f.md).wide), b := bSrcV (vTyOf f.md).wide, vec := true }
  | 0x0CE => some { modUsed := 0xE0, modOk := vTyIs f.md VTy.arith, d := some (accVw (vTyOf f.md).wide), a := some (accX (vTyOf f.md).wide), b := bSrcV (vTyOf f.md).wide, vec := true }
  | 0x0CF => some { modUsed := 0xE0, modOk := vTyIs f.md VTy.arith, d := some (accVw (vTyOf f.md).wide), a := some (accX (vTyOf f.md).wide), b := bSrcV (vTyOf f.md).wide, vec := true }
  | 0x0D0 => some { modUsed := 0xF8, modOk := vTyIs f.md VTy.sgn && satIs f.md, d := some (accVw (vTyOf f.md).wide), a := some (accX (vTyOf f.md).wide), vec := true }
  | 0x0D1 => some { modUsed := 0xE7, modOk := vTyIs f.md VTy.carry && (Cmp.ofCode (mCond f.md)).isSome, d := some accP, a := some (accX (vTyOf f.md).wide), b := bSrcV (vTyOf f.md).wide, vec := true }
  | 0x0D2 => some { modUsed := 0xE0, modOk := vTyIs f.md VTy.logic, d := some (accVw (vTyOf f.md).wide), a := some (accX (vTyOf f.md).wide), b := bSrcV (vTyOf f.md).wide, vec := true }
  | 0x0D3 => some { modUsed := 0xE0, modOk := vTyIs f.md VTy.logic, d := some (accVw (vTyOf f.md).wide), b := bSrcV (vTyOf f.md).wide, vec := true }
  | 0x0D4 => some { modUsed := 0xE0, modOk := vTyIs f.md VTy.count, d := some (accVw (vTyOf f.md).wide), a := some (accX (vTyOf f.md).wide), vec := true }
  | 0x0D5 => some { modUsed := 0xE0, modOk := vTyIs f.md VTy.count, d := some (accVw (vTyOf f.md).wide), a := some (accX (vTyOf f.md).wide), vec := true }
  | 0x0D6 => some { modUsed := 0xE0, modOk := vTyIs f.md VTy.bfe, d := some (accVw false), a := some (accX false), b := bSrcV false, vec := true }
  | 0x0D7 => some { modUsed := 0xE0, modOk := vTyIs f.md (· == .b32), d := some (accVw false), a := some (accX false), b := bSrcV false, vec := true }
  | 0x0D8 => some { modUsed := 0xF8, modOk := vTyIs f.md VTy.w32 && satIs f.md, d := some (accVw false), a := some (accX false), b := bSrcV false, vec := true }
  | _ => none

def buildVector (f : Fields) (h : Hdr) : Instr :=
  match f.opc.toNat with
  | 0x0C0 => .vadd h (vTyOf f.md) (satOf f.md) (readV f.d) (readSrc f.a) (readSrcB f.b)
  | 0x0C1 => .vsub h (vTyOf f.md) (satOf f.md) (readV f.d) (readSrc f.a) (readSrcB f.b)
  | 0x0C2 => .vmul h (vTyOf f.md) (satOf f.md) (readV f.d) (readSrc f.a) (readSrcB f.b)
  | 0x0C3 => .vmulh h (vTyOf f.md) (readV f.d) (readSrc f.a) (readSrcB f.b)
  | 0x0C4 => .vmad h (vTyOf f.md) (satOf f.md) (readV f.d) (readSrc f.a) (readSrcB f.b)
  | 0x0C5 => .vmadw h (vTyOf f.md) (readV f.d) (readSrc f.a) (readSrcB f.b)
  | 0x0C6 => .vadc h (vTyOf f.md) (mCp f.md) (readV f.d) (readSrc f.a) (readSrcB f.b)
  | 0x0C7 => .vsbc h (vTyOf f.md) (mCp f.md) (readV f.d) (readSrc f.a) (readSrcB f.b)
  | 0x0C8 => .vand h (vTyOf f.md) (readV f.d) (readSrc f.a) (readSrcB f.b)
  | 0x0C9 => .vor h (vTyOf f.md) (readV f.d) (readSrc f.a) (readSrcB f.b)
  | 0x0CA => .vxor h (vTyOf f.md) (readV f.d) (readSrc f.a) (readSrcB f.b)
  | 0x0CB => .vshl h (vTyOf f.md) (satOf f.md) (readV f.d) (readSrc f.a) (readSrcB f.b)
  | 0x0CC => .vshr h (vTyOf f.md) (readV f.d) (readSrc f.a) (readSrcB f.b)
  | 0x0CD => .vsar h (vTyOf f.md) (readV f.d) (readSrc f.a) (readSrcB f.b)
  | 0x0CE => .vmin h (vTyOf f.md) (readV f.d) (readSrc f.a) (readSrcB f.b)
  | 0x0CF => .vmax h (vTyOf f.md) (readV f.d) (readSrc f.a) (readSrcB f.b)
  | 0x0D0 => .vabs h (vTyOf f.md) (satOf f.md) (readV f.d) (readSrc f.a)
  | 0x0D1 => .vcmp h (vTyOf f.md) (cmpOf f.md) (readP f.d) (readSrc f.a) (readSrcB f.b)
  | 0x0D2 => .vsel h (vTyOf f.md) (readV f.d) (readSrc f.a) (readSrcB f.b)
  | 0x0D3 => .vmov h (vTyOf f.md) (readV f.d) (readSrcB f.b)
  | 0x0D4 => .vclz h (vTyOf f.md) (readV f.d) (readSrc f.a)
  | 0x0D5 => .vpopc h (vTyOf f.md) (readV f.d) (readSrc f.a)
  | 0x0D6 => .vbfe h (vTyOf f.md) (readV f.d) (readSrc f.a) (readSrcB f.b)
  | 0x0D7 => .vbfi h (readV f.d) (readSrc f.a) (readSrcB f.b)
  | 0x0D8 => .vdot4 h (vTyOf f.md) (satOf f.md) (readV f.d) (readSrc f.a) (readSrcB f.b)
  | _ => .nop h

def layoutFloat (f : Fields) : Option Layout :=
  match f.opc.toNat with
  | 0x140 => some { modUsed := 0xFF, modOk := (FTy.ofCode (mTy f.md)).isSome, d := some accV, a := some (accX false), b := bSrcV false, vec := true }
  | 0x141 => some { modUsed := 0xFF, modOk := (FTy.ofCode (mTy f.md)).isSome, d := some accV, a := some (accX false), b := bSrcV false, vec := true }
  | 0x142 => some { modUsed := 0xFF, modOk := (FTy.ofCode (mTy f.md)).isSome, d := some accV, a := some (accX false), b := bSrcV false, vec := true }
  | 0x143 => some { modUsed := 0xFF, modOk := (FTy.ofCode (mTy f.md)).isSome, d := some accV, a := some (accX false), b := bSrcV false, vec := true }
  | 0x147 => some { modUsed := 0xFF, modOk := (FTy.ofCode (mTy f.md)).isSome, d := some accV, a := some (accX false), b := bSrcV false, vec := true }
  | 0x153 => some { modUsed := 0xFF, modOk := (FTy.ofCode (mTy f.md)).isSome, d := some accV, a := some (accX false), b := bSrcV false, vec := true }
  | 0x144 => some { modUsed := 0xE7, modOk := (FTy.ofCode (mTy f.md)).isSome, d := some accV, a := some (accX false), b := bSrcV false, vec := true }
  | 0x145 => some { modUsed := 0xE7, modOk := (FTy.ofCode (mTy f.md)).isSome, d := some accV, a := some (accX false), b := bSrcV false, vec := true }
  | 0x146 => some { modUsed := 0xE7, modOk := mTy f.md == 0, d := some accP, a := some (accX false), b := bSrcV false, vec := true }
  | 0x148 => some { modUsed := 0xFE, modOk := (FTy.ofCode (mTy f.md)).isSome, d := some accV, a := some (accX false), vec := true }
  | 0x151 => some { modUsed := 0xFE, modOk := (FTy.ofCode (mTy f.md)).isSome, d := some accV, a := some (accX false), vec := true }
  | 0x149 => some { modUsed := 0xFE, modOk := (FTy.ofCode (mTy f.md)).isSome && mSat f.md == 0, d := some accV, a := some (accX false), vec := true }
  | 0x14A => some { modUsed := 0xFE, modOk := (FTy.ofCode (mTy f.md)).isSome && mSat f.md == 0, d := some accV, a := some (accX false), vec := true }
  | 0x14B => some { modUsed := 0xFE, modOk := (FTy.ofCode (mTy f.md)).isSome && mSat f.md == 0, d := some accV, a := some (accX false), vec := true }
  | 0x14C => some { modUsed := 0xFE, modOk := (FTy.ofCode (mTy f.md)).isSome && mSat f.md == 0, d := some accV, a := some (accX false), vec := true }
  | 0x14D => some { modUsed := 0xFE, modOk := (FTy.ofCode (mTy f.md)).isSome && mSat f.md == 0, d := some accV, a := some (accX false), vec := true }
  | 0x14E => some { modUsed := 0xFE, modOk := (FTy.ofCode (mTy f.md)).isSome && mSat f.md == 0, d := some accV, a := some (accX false), vec := true }
  | 0x14F => some { modUsed := 0xFE, modOk := (FTy.ofCode (mTy f.md)).isSome && mSat f.md == 0, d := some accV, a := some (accX false), vec := true }
  | 0x152 => some { modUsed := 0xE6, modOk := (FTy.ofCode (mTy f.md)).isSome, d := some accV, a := some (accX false), vec := true }
  | 0x150 => some { modUsed := 0xFF, modOk := cvtOk f.md, d := some accV, a := some (accX false), b := { ext := some (0x3FFFFFFFFCC : BitVec 42), extOk := partsOk f.md f.b }, vec := true }
  | _ => none

def buildFloat (f : Fields) (h : Hdr) : Instr :=
  match f.opc.toNat with
  | 0x140 => .vfadd h (fTyOf f.md) (rndOf f.md) (fModOf f.md) (readV f.d) (readSrc f.a) (readSrcB f.b)
  | 0x141 => .vfsub h (fTyOf f.md) (rndOf f.md) (fModOf f.md) (readV f.d) (readSrc f.a) (readSrcB f.b)
  | 0x142 => .vfmul h (fTyOf f.md) (rndOf f.md) (fModOf f.md) (readV f.d) (readSrc f.a) (readSrcB f.b)
  | 0x143 => .vffma h (fTyOf f.md) (rndOf f.md) (fModOf f.md) (readV f.d) (readSrc f.a) (readSrcB f.b)
  | 0x147 => .vfdiv h (fTyOf f.md) (rndOf f.md) (fModOf f.md) (readV f.d) (readSrc f.a) (readSrcB f.b)
  | 0x153 => .vfscale h (fTyOf f.md) (rndOf f.md) (fModOf f.md) (readV f.d) (readSrc f.a) (readSrcB f.b)
  | 0x144 => .vfmin h (fTyOf f.md) (fModOf f.md) (readV f.d) (readSrc f.a) (readSrcB f.b)
  | 0x145 => .vfmax h (fTyOf f.md) (fModOf f.md) (readV f.d) (readSrc f.a) (readSrcB f.b)
  | 0x146 => .vfcmp h ((FCmp.ofCode (mCond f.md)).getD .eq) (readP f.d) (readSrc f.a) (readSrcB f.b)
  | 0x148 => .vfsqrt h (fTyOf f.md) (rndOf f.md) (f.md.getLsbD 2) (f.md.getLsbD 1) (readV f.d) (readSrc f.a)
  | 0x151 => .vfrnd h (fTyOf f.md) (rndOf f.md) (f.md.getLsbD 2) (f.md.getLsbD 1) (readV f.d) (readSrc f.a)
  | 0x149 => .vfrcp h (fTyOf f.md) (f.md.getLsbD 2) (f.md.getLsbD 1) (readV f.d) (readSrc f.a)
  | 0x14A => .vfrsq h (fTyOf f.md) (f.md.getLsbD 2) (f.md.getLsbD 1) (readV f.d) (readSrc f.a)
  | 0x14B => .vfexp2 h (fTyOf f.md) (f.md.getLsbD 2) (f.md.getLsbD 1) (readV f.d) (readSrc f.a)
  | 0x14C => .vflog2 h (fTyOf f.md) (f.md.getLsbD 2) (f.md.getLsbD 1) (readV f.d) (readSrc f.a)
  | 0x14D => .vfsin h (fTyOf f.md) (f.md.getLsbD 2) (f.md.getLsbD 1) (readV f.d) (readSrc f.a)
  | 0x14E => .vfcos h (fTyOf f.md) (f.md.getLsbD 2) (f.md.getLsbD 1) (readV f.d) (readSrc f.a)
  | 0x14F => .vftanh h (fTyOf f.md) (f.md.getLsbD 2) (f.md.getLsbD 1) (readV f.d) (readSrc f.a)
  | 0x152 => .vfclass h (fTyOf f.md) (f.md.getLsbD 2) (f.md.getLsbD 1) (readV f.d) (readSrc f.a)
  | 0x150 => .vfcvt h ((CvtTy.ofCode (mTy f.md)).getD .f32) ((CvtTy.ofCode (mMid f.md)).getD .f32) ((Rnd.ofCode (mLow f.md)).getD .rne) (readV f.d) (readSrc f.a) (f.b.extractLsb' 4 2) (f.b.extractLsb' 0 2)
  | _ => .nop h

def layoutCross (f : Fields) : Option Layout :=
  match f.opc.toNat with
  | 0x1C0 => some { modUsed := 0xFC, modOk := (XTy.ofCode (mTy f.md)).isSome && (ROp.ofCode (mMid f.md)).isSome && redOk (xTyOf f.md) (rOpOf f.md), d := some accS, a := some (accX false), vec := true }
  | 0x1C1 => some { modUsed := 0xFC, modOk := (XTy.ofCode (mTy f.md)).isSome && (ROp.ofCode (mMid f.md)).isSome && redOk (xTyOf f.md) (rOpOf f.md) && xTyOf f.md != .b32 && (rOpOf f.md == .min || rOpOf f.md == .max), d := some accS, a := some (accX false), vec := true }
  | 0x1C2 => some { modUsed := 0xFE, modOk := (XTy.ofCode (mTy f.md)).isSome && (ROp.ofCode (mMid f.md)).isSome && redOk (xTyOf f.md) (rOpOf f.md), d := some accV, a := some (accX false), vec := true }
  | 0x1C3 => some { modUsed := 0x1C, modOk := (SMode.ofCode (mMid f.md)).isSome, d := some accV, a := some (accX false), b := bSrcV false, vec := true }
  | 0x1C4 => some { d := some accV, a := some accV, b := bSrcS, vec := true }
  | 0x1C5 => some { d := some accS, a := some accV, b := bSrcS }
  | 0x1C6 => some { d := some accV, a := some accSs, b := bSrcS }
  | 0x1C7 => some { d := some accS, a := some accV, b := bSrcS, vec := true }
  | 0x1C8 => some { d := some accV, a := some accSs, b := { reg := some { v := 1, lane := true }, imm := some 0 }, vec := true }
  | 0x1C9 => if mTop f.md == 0 then some { modUsed := 0xC0, d := some accS, a := some accV } else if mTop f.md == 1 then some { modUsed := 0xC0, d := some accV, a := some accV } else if mTop f.md == 2 then some { modUsed := 0xC0, d := some accV, a := some accV }
      else some { modUsed := 0xC0, modOk := false }
  | _ => none

def buildCross (f : Fields) (h : Hdr) : Instr :=
  match f.opc.toNat with
  | 0x1C0 => .vred h (xTyOf f.md) (rOpOf f.md) (readS f.d) (readSrc f.a)
  | 0x1C1 => .vredx h (xTyOf f.md) (rOpOf f.md) (readS f.d) (readSrc f.a)
  | 0x1C2 => .vscan h (xTyOf f.md) (rOpOf f.md) (f.md.getLsbD 1) (readV f.d) (readSrc f.a)
  | 0x1C3 => .vshfl h ((SMode.ofCode (mMid f.md)).getD .idx) (readV f.d) (readSrc f.a) (readSrcB f.b)
  | 0x1C4 => .vbcast h (readV f.d) (readV f.a) (readSrcB f.b)
  | 0x1C5 => .sgetl h (readS f.d) (readV f.a) (readSrcB f.b)
  | 0x1C6 => .vsetl h (readV f.d) (readSrc f.a) (readSrcB f.b)
  | 0x1C7 => .vsample h (readS f.d) (readV f.a) (readSrcB f.b)
  | 0x1C8 => .vrng h (readV f.d) (readSrc f.a) (readSrcB f.b)
  | 0x1C9 => if mTop f.md == 0 then .vtagGet h (readS f.d) (readV f.a) else if mTop f.md == 1 then .vtagExpand h (readV f.d) (readV f.a) else .vtagCompact h (readV f.d) (readV f.a)
  | _ => .nop h

def layoutMemory (f : Fields) : Option Layout :=
  match f.opc.toNat with
  | 0x200 => some { modUsed := 0xFE, modOk := (MTy.ofCode (mTy f.md)).isSome && (Space.ofCode (mSat f.md)).isSome, d := some (accMv (mTyOf f.md)), b := bMemV, scopeOk := accessScopeOk (spaceOf f.md) (ordOf f.md) (readMem f.b).scope }
  | 0x201 => some { modUsed := 0xFE, modOk := (MTy.ofCode (mTy f.md)).isSome && (Space.ofCode (mSat f.md)).isSome, a := some (accMv (mTyOf f.md)), b := bMemV, scopeOk := accessScopeOk (spaceOf f.md) (ordOf f.md) (readMem f.b).scope }
  | 0x202 => some { modUsed := 0xFE, modOk := (MTy.ofCode (mTy f.md)).isSome && (Space.ofCode (mSat f.md)).isSome && spaceOf f.md != .lpriv, d := some { v := (accMv (mTyOf f.md)).v, s := 1, sEven := mTyOf f.md == .b128 }, b := bMemS, scopeOk := accessScopeOk (spaceOf f.md) (ordOf f.md) (readMem f.b).scope }
  | 0x203 => some { modUsed := 0xFE, modOk := (MTy.ofCode (mTy f.md)).isSome && (Space.ofCode (mSat f.md)).isSome && spaceOf f.md != .lpriv, a := some { s := 1, sEven := mTyOf f.md == .b128 }, b := bMemS, scopeOk := accessScopeOk (spaceOf f.md) (ordOf f.md) (readMem f.b).scope }
  | 0x204 => some { modUsed := 0xFF, modOk := atomOk (aTyOf f.md) (aOpOf f.md), d := some (accVw (aTyOf f.md).wide), a := some (accX (aTyOf f.md).wide), b := bMemV, scopeOk := atomScopeOk (readMem f.b).pol (aOrdOf f.md) (readMem f.b).scope }
  | 0x205 => some { modUsed := 0xFF, modOk := atomOk (aTyOf f.md) (aOpOf f.md), d := some accS, a := some accS, b := bMemS, scopeOk := atomScopeOk (readMem f.b).pol (aOrdOf f.md) (readMem f.b).scope }
  | 0x206 => some { modUsed := 0xE6, fscope := true, scopeOk := !(mOrd f.md == 3 && mTy f.md == 4) }
  | 0x207 => some { d := some accS, a := some (accSn 4), b := bImmZ (if f.b.getLsbD 16 then 0xFFFE00C0 else 0xFFFEFFC0) }
  | 0x208 => some { d := some accS, a := some (accSn 4), b := bImmZ (if f.b.getLsbD 16 then 0xFFFE00C0 else 0xFFFEFFC0) }
  | 0x209 => some { a := some (accSn (twaitRun f.b)), b := { opt := true, imm := some 0, immOk := decide (1 ≤ (bVal f.b).toNat) && decide ((bVal f.b).toNat ≤ 8) } }
  | 0x20A => some { b := bMemV, scopeOk := (readMem f.b).scope == .team }
  | 0x20B => some { d := some accS, a := some accS, b := bSI }
  | 0x20C => some { d := some accS, a := some accS }
  | 0x20D => some { b := { mem := true, polZ := true } }
  | 0x20E => some { b := { mem := true, polZ := true } }
  | _ => none

def buildMemory (f : Fields) (h : Hdr) : Instr :=
  match f.opc.toNat with
  | 0x200 => .vld h (mTyOf f.md) (spaceOf f.md) (ordOf f.md) (readV f.d) (readMem f.b)
  | 0x201 => .vst h (mTyOf f.md) (spaceOf f.md) (ordOf f.md) (readV f.a) (readMem f.b)
  | 0x202 => .sld h (mTyOf f.md) (spaceOf f.md) (ordOf f.md) (readSV f.d) (readMem f.b)
  | 0x203 => .sst h (mTyOf f.md) (spaceOf f.md) (ordOf f.md) (readS f.a) (readMem f.b)
  | 0x204 => .vatom h (aTyOf f.md) (aOpOf f.md) (aOrdOf f.md) (readV f.d) (readSrc f.a) (readMem f.b)
  | 0x205 => .satom h (aTyOf f.md) (aOpOf f.md) (aOrdOf f.md) (readS f.d) (readS f.a) (readMem f.b)
  | 0x206 => .fence h ((Scope.ofCode (mTy f.md)).getD .team) ((FOrd.ofCode (mOrd f.md)).getD .acq)
  | 0x207 => .cpy h (readS f.d) (readS f.a) (readCpy f.b)
  | 0x208 => .cpyout h (readS f.d) (readS f.a) (readCpy f.b)
  | 0x209 => .twait h (readS f.a) (if f.b = 0 then none else some (bVal f.b))
  | 0x20A => .pf h (readMem f.b)
  | 0x20B => .seal h (readS f.d) (readS f.a) (readSI f.b)
  | 0x20C => .unseal h (readS f.d) (readS f.a)
  | 0x20D => .cflush h (readMem f.b)
  | 0x20E => .cinval h (readMem f.b)
  | _ => .nop h

def layoutMatrix (f : Fields) : Option Layout :=
  match f.opc.toNat with
  | 0x260 => some { d := some accAcc, a := some accV, b := { reg := some (accSn 2) } }
  | 0x261 => some { d := some accAcc, a := some accV, b := { reg := some (accSn 2) } }
  | 0x262 => some { d := some accAcc, b := bImmZ 0xFFFF0000 }
  | 0x263 => some { modUsed := 0xA0, d := some accAcc, a := some (accSn 2) }
  | 0x264 => some { modUsed := 0xE0, d := some accAcc, a := some (accSn 2) }
  | 0x265 => some { d := some accS, a := some accAcc }
  | 0x266 => some { a := some accAcc, b := { reg := some accS, imm := some 0xFFFF0000 } }
  | 0x267 => some {}
  | _ => none

def buildMatrix (f : Fields) (h : Hdr) : Instr :=
  match f.opc.toNat with
  | 0x260 => .mma h (readAcc f.d) (readV f.a) (readS (bSpec f.b))
  | 0x261 => .mma2 h (readAcc f.d) (readV f.a) (readS (bSpec f.b))
  | 0x262 => .mzero h (readAcc f.d) (f.b.extractLsb' 0 16)
  | 0x263 => .mload h (f.md.getLsbD 7) (f.md.getLsbD 5) (readAcc f.d) (readS f.a)
  | 0x264 => .mdrain h (f.md.getLsbD 7) (f.md.getLsbD 6) (f.md.getLsbD 5) (readAcc f.d) (readS f.a)
  | 0x265 => .mver h (readS f.d) (readAcc f.a)
  | 0x266 => .mwait h (readAcc f.a) (readVer f.b)
  | 0x267 => .mfence h
  | _ => .nop h

def layoutSync (f : Fields) : Option Layout :=
  match f.opc.toNat with
  | 0x2A0 => some { d := some accS, b := { reg := some accS, imm := some 0xFFFFFF00 } }
  | 0x2A1 => some { a := some accS }
  | 0x2A2 => some { a := some accS, b := { reg := some accS, imm := some 0xFFFFFF00 } }
  | 0x2A3 => some { d := some accS, a := some accS }
  | 0x2A4 => some { b := bImmZ 0xFFFFC000 }
  | 0x2A5 => some { d := some accS, a := some accS, b := bSI }
  | 0x2A6 => some { d := some { s := 1, sEven := true }, b := bSI }
  | 0x2A7 => some { d := some accS, a := some (accSn 2), b := bSI }
  | 0x2A8 => some { b := bSI }
  | 0x2A9 => some { d := some accS, a := some accS, b := bSI }
  | 0x2AA => some { d := some { s := 1, sEven := true }, a := some accS }
  | 0x2AB => some { d := some { s := 1, sEven := true }, a := some accS }
  | 0x2AC => some {}
  | 0x2AD => some {}
  | _ => none

def buildSync (f : Fields) (h : Hdr) : Instr :=
  match f.opc.toNat with
  | 0x2A0 => .barv h (readS f.d) (readGrp f.b)
  | 0x2A1 => .bwait h (readS f.a)
  | 0x2A2 => .bexp h (readS f.a) (readGrp f.b)
  | 0x2A3 => .btest h (readS f.d) (readS f.a)
  | 0x2A4 => .pend h (f.b.extractLsb' 0 8) (f.b.extractLsb' 8 6)
  | 0x2A5 => .qpush h (readS f.d) (readS f.a) (readSI f.b)
  | 0x2A6 => .qpop h (readS f.d) (readSI f.b)
  | 0x2A7 => .qspawn h (readS f.d) (readS f.a) (readSI f.b)
  | 0x2A8 => .qcancel h (readSI f.b)
  | 0x2A9 => .dpush h (readS f.d) (readS f.a) (readSI f.b)
  | 0x2AA => .dpop h (readS f.d) (readS f.a)
  | 0x2AB => .dsteal h (readS f.d) (readS f.a)
  | 0x2AC => .lnext h
  | 0x2AD => .lwait h
  | _ => .nop h

def layoutOther (f : Fields) : Option Layout :=
  match f.opc.toNat with
  | 0x2C0 => some { d := some accS, a := some (accSn 2), b := bSI }
  | 0x2C1 => some { a := some (accSn 6), b := bImmZ 0 }
  | 0x2C2 => some { d := some accS, b := bImmZ (if f.b.getLsbD 24 then 0xFE000000 else 0xFEFFFFFF) }
  | 0x2C3 => some { d := some accS, b := bImmZ 0 }
  | 0x2C4 => some { d := some accS }
  | 0x2E0 => some { modUsed := 0x80, d := some accS }
  | 0x2E1 => some { d := some accS }
  | 0x2E2 => some { b := { imm := some 0, immOk := decide ((bVal f.b).toNat < 65536) } }
  | 0x2E3 => some { d := some accS }
  | 0x2F0 => some { d := some accS, a := some (accSn 8), b := bImmZ 0xFFFF8000 }
  | 0x2F1 => some { a := some accS, b := { reg := some accS, imm := some 0xFFFFFE00 } }
  | 0x2F2 => some { d := some accS, a := some accS }
  | 0x300 => some { d := some accS, b := { imm := some 0xFFFFF000, immOk := csrListed (bVal f.b).toNat } }
  | 0x301 => some { modUsed := 0xC0, modOk := (CsrOp.ofCode (mTop f.md)).isSome, a := some accS, b := { imm := some 0xFFFFF000, immOk := csrListed (bVal f.b).toNat } }
  | 0x302 => some { b := { opt := true, reg := some accS } }
  | 0x303 => some { d := some accS, b := { mem := true, noIdx := true, plain := true } }
  | 0x304 => some { a := some { s := 1, zero := true }, b := bImmZ 0xFFFFFF00 }
  | 0x305 => some { a := some accS, b := bSI }
  | 0x306 => some { d := some accS, a := some (accSn 2) }
  | _ => none

def buildOther (f : Fields) (h : Hdr) : Instr :=
  match f.opc.toNat with
  | 0x2C0 => .nmopen h (readS f.d) (readS f.a) (readSI f.b)
  | 0x2C1 => .nmcall h (readS f.a) (bVal f.b)
  | 0x2C2 => .nmcommit h (readS f.d) (readCommit f.b)
  | 0x2C3 => .nmstat h (readS f.d) (bVal f.b)
  | 0x2C4 => .nmclose h (readS f.d)
  | 0x2E0 => .rbeg h (f.md.getLsbD 7) (readS f.d)
  | 0x2E1 => .rend h (readS f.d)
  | 0x2E2 => .rabt h (f.b.extractLsb' 0 16)
  | 0x2E3 => .rstat h (readS f.d)
  | 0x2F0 => .gcall h (readS f.d) (readS f.a) (readCall f.b)
  | 0x2F1 => .gret h (readS f.a) (readStat f.b)
  | 0x2F2 => .gpoll h (readS f.d) (readS f.a)
  | 0x300 => .csrr h (readS f.d) (f.b.extractLsb' 0 12)
  | 0x301 => .csrw h ((CsrOp.ofCode (mTop f.md)).getD .wr) (f.b.extractLsb' 0 12) (readS f.a)
  | 0x302 => .tret h (if f.b = 0 then none else some (readS (bSpec f.b)))
  | 0x303 => .probe h (readS f.d) (readMem f.b)
  | 0x304 => .intr h (if f.a = 0 then none else some (readS f.a)) (f.b.extractLsb' 0 8)
  | 0x305 => .tinv h (readS f.a) (readSI f.b)
  | 0x306 => .wcsld h (readS f.d) (readS f.a)
  | _ => .nop h

/-- What the opcode of a word accepts; none for an unassigned opcode (05 R100). -/
def layout (f : Fields) : Option Layout :=
  if f.opc.toNat < 0x010 then layoutControl f
  else if f.opc.toNat < 0x040 then layoutMask f
  else if f.opc.toNat < 0x0C0 then layoutScalar f
  else if f.opc.toNat < 0x140 then layoutVector f
  else if f.opc.toNat < 0x1C0 then layoutFloat f
  else if f.opc.toNat < 0x200 then layoutCross f
  else if f.opc.toNat < 0x260 then layoutMemory f
  else if f.opc.toNat < 0x2A0 then layoutMatrix f
  else if f.opc.toNat < 0x2C0 then layoutSync f
  else layoutOther f

/-- The instruction a checked word stands for. -/
def build (f : Fields) (h : Hdr) : Instr :=
  if f.opc.toNat < 0x010 then buildControl f h
  else if f.opc.toNat < 0x040 then buildMask f h
  else if f.opc.toNat < 0x0C0 then buildScalar f h
  else if f.opc.toNat < 0x140 then buildVector f h
  else if f.opc.toNat < 0x1C0 then buildFloat f h
  else if f.opc.toNat < 0x200 then buildCross f h
  else if f.opc.toNat < 0x260 then buildMemory f h
  else if f.opc.toNat < 0x2A0 then buildMatrix f h
  else if f.opc.toNat < 0x2C0 then buildSync f h
  else buildOther f h

/-! ## The checks of R101 that the word alone decides -/

/-- Why a word is no instruction, with the value of %tval (05 R101, R102). -/
inductive DecodeErr where
  | illegalOpcode (tval : Word)
  | reservedNonzero (tval : Word)
  | illegalOperand (tval : Word)
  | illegalScope (tval : Word)
  deriving DecidableEq, Repr

/-- Position and value as R102 joins them. -/
def posVal (pos : Nat) (x : Nat) : Word := BitVec.ofNat 64 (pos * 4096 + x % 1024)

/-- The must-be-zero bits of B for the kind it holds, whether or not the instruction accepts that kind (05 R80, R81). -/
def bZero (k : BAcc) (b : BitVec 44) : BitVec 44 :=
  if k.none then BitVec.allOnes 44
  else if k.opt && b == 0 then 0
  else match (bKind b).toNat with
    | 0 => 0x3FFFFFFFC00
    | 1 => (match k.imm with
            | some z => (0 : BitVec 2) ++ BitVec.allOnes 10 ++ z
            | none => 0x3FF00000000)
    | 2 => if k.mem && k.polZ then 0x100000000 else 0
    | _ => (match k.ext with
            | some z => (0 : BitVec 2) ++ z
            | none => 0)

/-- The bits of the word that must be zero (05 R101, check 3). -/
def zeroMask (L : Layout) (f : Fields) : BitVec 96 :=
  (0 : BitVec 10) ++ ~~~ L.modUsed ++ (if f.gp == 31 then 1#1 else 0#1) ++ (0 : BitVec 10) ++ (7 : BitVec 3)
    ++ (if L.d.isNone then BitVec.allOnes 10 else 0#10) ++ (if L.a.isNone then BitVec.allOnes 10 else 0#10)
    ++ bZero L.b f.b

/-- Check 4 on one position. -/
def badPos (k : Option Acc) (pos : Nat) (x : BitVec 10) : Option Word :=
  match k with
  | none => none
  | some k => if k.legal x then none else some (posVal pos x.toNat)

/-- Check 4 on BKIND, which R101 lists before the specifiers. R102 gives %tval no bits for it: they are the position of B and the low
bits of the field (DESIGN CHOICE, log 117). -/
def badKind (k : BAcc) (b : BitVec 44) : Option Word :=
  let ok : Bool := match (bKind b).toNat with
    | 0 => k.reg.isSome
    | 1 => k.imm.isSome
    | 2 => k.mem
    | _ => k.ext.isSome
  if k.none || (k.opt && b == 0) || ok then none else some (posVal 2 b.toNat)

/-- Check 4 on the B field of an accepted kind (05 R81, R83; 10 R205; 23, the system instructions). The value reported of a CSR index
that is not listed, of a `probe` with IDX, SCOPE or POL set, and of an n of `twait` outside 1-8 is position 2 with the low ten bits
of B (DESIGN CHOICE, log 117). -/
def badB (k : BAcc) (b : BitVec 44) : Option Word :=
  if k.none then none
  else if k.opt && b == 0 then none
  else match (bKind b).toNat with
    | 0 => badPos k.reg 2 (bSpec b)
    | 1 => if k.immOk then none else some (posVal 2 b.toNat)
    | 2 =>
      let idx := (b.extractLsb' 24 8).toNat
      let sc := (b.extractLsb' 33 3).toNat
      if (k.noIdx && idx != 0xFF) || (decide (128 ≤ idx) && idx != 0xFF) then
        some (posVal (if k.plain then 2 else 3) (if k.plain then b.toNat else idx))
      else if k.plain && (sc != 0 || b.getLsbD 32) then some (posVal 2 b.toNat)
      else if 5 ≤ sc then some (posVal 4 sc)
      else none
    | _ => if k.extOk then none else some (posVal 2 b.toNat)

/-- A second scalar source of a vector instruction (06 R112). -/
def badScalars (L : Layout) (f : Fields) : Option Word :=
  if L.vec && L.a.isSome && (readSrc f.a).isScalar && L.b.reg.isSome && isReg f.b && (readSrc (bSpec f.b)).isScalar
  then some (posVal 2 (bSpec f.b).toNat) else none

def hdrOf (f : Fields) : Hdr := { gneg := f.gneg == 1, gp := f.gp, stall := f.stall, yld := f.yld == 1 }

def orElseW (a : Option Word) (b : Option Word) : Option Word := match a with | some x => some x | none => b

/-- Read checked fields as an instruction, or name the first failing check (05 R101, R102) (DEDUCED, log 8). -/
def decodeFields (f : Fields) : Except DecodeErr Instr :=
  match layout f with
  | none => .error (.illegalOpcode (BitVec.ofNat 64 (f.md.toNat * 1024 + f.opc.toNat)))
  | some L =>
    if !L.modOk then .error (.illegalOpcode (BitVec.ofNat 64 (f.md.toNat * 1024 + f.opc.toNat)))
    else
      let bad := f.toWord &&& zeroMask L f
      if bad != 0 then .error (.reservedNonzero (BitVec.ofNat 64 (Nat.log2 bad.toNat)))
      else
        match orElseW (badKind L.b f.b) (orElseW (badPos L.d 0 f.d) (orElseW (badPos L.a 1 f.a) (orElseW (badB L.b f.b) (orElseW (badScalars L f)
          (if L.fscope && decide (5 ≤ (mTy f.md).toNat) then some (posVal 4 (mTy f.md).toNat) else none))))) with
        | some v => .error (.illegalOperand v)
        | none =>
          if L.scopeOk then .ok (build f (hdrOf f))
          else .error (.illegalScope (BitVec.ofNat 64
            (if L.fscope then (mTy f.md).toNat else (f.b.extractLsb' 33 3).toNat)))

/-- Decode one 96-bit word. -/
def decode (w : BitVec 96) : Except DecodeErr Instr := decodeFields (Fields.ofWord w)

/-- The instruction read from bits numbered as the opcode table numbers them. -/
def decodeTableWord (_nbits w : Nat) : Option Instr :=
  match decode (BitVec.ofNat 96 w) with
  | .ok i => some i
  | .error _ => none

/-! ## The encoder -/

/-- Fields of an encoded instruction from its guard, opcode, MOD, D, A and B. -/
def mkFields (h : Hdr) (opc : BitVec 10) (md : BitVec 8) (d a : BitVec 10) (b : BitVec 44) : Fields :=
  { opc := opc, md := md, gneg := boolBit h.gneg, gp := h.gp, stall := h.stall, yld := boolBit h.yld, rsv := 0,
    d := d, a := a, b := b }

/-- The fields of an encoded instruction; none for a device step. -/
def Instr.fields : Instr → Option Fields
  | .nop h => some (mkFields h 0x000 (0) (0) (0) (0))
  | .bra h c o => some (mkFields h 0x001 (c.code ++ (0 : BitVec 6)) (0) (c.spec) (bExt ((0 : BitVec 10) ++ o)))
  | .brx h c n => some (mkFields h 0x002 (c.code ++ (0 : BitVec 6)) (0) (c.spec) (bReg (specS n)))
  | .call h c t => some (mkFields h 0x003 (c.code ++ (0 : BitVec 6)) (0) (c.spec) (t.bits))
  | .ret h c => some (mkFields h 0x004 (c.code ++ (0 : BitVec 6)) (0) (c.spec) (0))
  | .bdec h d o => some (mkFields h 0x005 (0) (specS d) (0) (bExt ((0 : BitVec 10) ++ o)))
  | .exit h => some (mkFields h 0x006 (0) (0) (0) (0))
  | .yield h => some (mkFields h 0x007 (0) (0) (0) (0))
  | .trap h a k => some (mkFields h 0x008 (0) (0) ((match a with | none => 0 | some n => specS n)) (bImm ((0 : BitVec 27) ++ k)))
  | .brk h n => some (mkFields h 0x009 (0) (0) (0) ((match n with | none => 0 | some k => bImm ((0 : BitVec 16) ++ k))))
  | .msave h d => some (mkFields h 0x010 (0) (specP d) (0) (0))
  | .mset h a => some (mkFields h 0x011 (0) (0) (a.spec) (0))
  | .mand h a => some (mkFields h 0x012 (0) (0) (a.spec) (0))
  | .mandn h a => some (mkFields h 0x013 (0) (0) (a.spec) (0))
  | .mcount h d a => some (mkFields h 0x014 (0) (specS d) (a.spec) (0))
  | .mfirst h d a => some (mkFields h 0x015 (0) (specS d) (a.spec) (0))
  | .pand h d a b => some (mkFields h 0x016 (0) (specP d) (a.spec) (bReg b.spec))
  | .por h d a b => some (mkFields h 0x017 (0) (specP d) (a.spec) (bReg b.spec))
  | .pxor h d a b => some (mkFields h 0x018 (0) (specP d) (a.spec) (bReg b.spec))
  | .pnot h d a => some (mkFields h 0x019 (0) (specP d) (a.spec) (0))
  | .pmov h d a => some (mkFields h 0x01A (0) (specP d) (a.spec) (0))
  | .pbitsGet h d a => some (mkFields h 0x01B (0) (specS d) ((match a with | .p x _ => x.spec | .mw k => specMw k)) ((match a with | .p _ k => bImm k | .mw _ => 0)))
  | .pbitsPut h d a => some (mkFields h 0x01B (0x80) ((match d with | .p n _ => specP n | .mw k => specMw k)) (specS a) ((match d with | .p _ k => bImm k | .mw _ => 0)))
  | .sadd h ty sat d a b => some (mkFields h 0x040 (mkMod ty.code (satBits sat) 0) (specS d) (a.spec) (b.bits))
  | .ssub h ty sat d a b => some (mkFields h 0x041 (mkMod ty.code (satBits sat) 0) (specS d) (a.spec) (b.bits))
  | .smul h ty sat d a b => some (mkFields h 0x042 (mkMod ty.code (satBits sat) 0) (specS d) (a.spec) (b.bits))
  | .smulh h ty d a b => some (mkFields h 0x043 (mkMod ty.code 0 0) (specS d) (a.spec) (b.bits))
  | .sdiv h ty d a b => some (mkFields h 0x044 (mkMod ty.code 0 0) (specS d) (a.spec) (b.bits))
  | .srem h ty d a b => some (mkFields h 0x045 (mkMod ty.code 0 0) (specS d) (a.spec) (b.bits))
  | .sand h d a b => some (mkFields h 0x046 (mkMod STy.b64.code 0 0) (specS d) (a.spec) (b.bits))
  | .sor h d a b => some (mkFields h 0x047 (mkMod STy.b64.code 0 0) (specS d) (a.spec) (b.bits))
  | .sxor h d a b => some (mkFields h 0x048 (mkMod STy.b64.code 0 0) (specS d) (a.spec) (b.bits))
  | .sshl h ty sat d a b => some (mkFields h 0x049 (mkMod ty.code (satBits sat) 0) (specS d) (a.spec) (b.bits))
  | .sshr h ty d a b => some (mkFields h 0x04A (mkMod ty.code 0 0) (specS d) (a.spec) (b.bits))
  | .ssar h ty d a b => some (mkFields h 0x04B (mkMod ty.code 0 0) (specS d) (a.spec) (b.bits))
  | .smin h ty d a b => some (mkFields h 0x04C (mkMod ty.code 0 0) (specS d) (a.spec) (b.bits))
  | .smax h ty d a b => some (mkFields h 0x04D (mkMod ty.code 0 0) (specS d) (a.spec) (b.bits))
  | .scmp h ty c d a b => some (mkFields h 0x04E (mkMod ty.code 0 c.code) ((match d with | .s n => specS n | .p n => specP n)) (a.spec) (b.bits))
  | .ssel h ty d a b => some (mkFields h 0x04F (mkMod ty.code 0 0) (specS d) (a.spec) (b.bits))
  | .smov h ty d b => some (mkFields h 0x050 (mkMod ty.code 0 0) (specS d) (0) (b.bits))
  | .sli h d a x => some (mkFields h 0x051 (mkMod STy.b64.code 0 0) (specS d) (a.spec) (bImm x))
  | .sclz h ty d a => some (mkFields h 0x052 (mkMod ty.code 0 0) (specS d) (a.spec) (0))
  | .spopc h ty d a => some (mkFields h 0x053 (mkMod ty.code 0 0) (specS d) (a.spec) (0))
  | .sbfe h ty d a b => some (mkFields h 0x054 (mkMod ty.code 0 0) (specS d) (a.spec) (b.bits))
  | .sadc h ty cp d a b => some (mkFields h 0x055 (ty.code ++ cp) (specS d) (a.spec) (b.bits))
  | .vadd h ty sat d a b => some (mkFields h 0x0C0 (mkMod ty.code (satBits sat) 0) (specV d) (a.spec) (b.bits))
  | .vsub h ty sat d a b => some (mkFields h 0x0C1 (mkMod ty.code (satBits sat) 0) (specV d) (a.spec) (b.bits))
  | .vmul h ty sat d a b => some (mkFields h 0x0C2 (mkMod ty.code (satBits sat) 0) (specV d) (a.spec) (b.bits))
  | .vmulh h ty d a b => some (mkFields h 0x0C3 (mkMod ty.code 0 0) (specV d) (a.spec) (b.bits))
  | .vmad h ty sat d a b => some (mkFields h 0x0C4 (mkMod ty.code (satBits sat) 0) (specV d) (a.spec) (b.bits))
  | .vmadw h ty d a b => some (mkFields h 0x0C5 (mkMod ty.code 0 0) (specV d) (a.spec) (b.bits))
  | .vadc h ty cp d a b => some (mkFields h 0x0C6 (ty.code ++ cp) (specV d) (a.spec) (b.bits))
  | .vsbc h ty cp d a b => some (mkFields h 0x0C7 (ty.code ++ cp) (specV d) (a.spec) (b.bits))
  | .vand h ty d a b => some (mkFields h 0x0C8 (mkMod ty.code 0 0) (specV d) (a.spec) (b.bits))
  | .vor h ty d a b => some (mkFields h 0x0C9 (mkMod ty.code 0 0) (specV d) (a.spec) (b.bits))
  | .vxor h ty d a b => some (mkFields h 0x0CA (mkMod ty.code 0 0) (specV d) (a.spec) (b.bits))
  | .vshl h ty sat d a b => some (mkFields h 0x0CB (mkMod ty.code (satBits sat) 0) (specV d) (a.spec) (b.bits))
  | .vshr h ty d a b => some (mkFields h 0x0CC (mkMod ty.code 0 0) (specV d) (a.spec) (b.bits))
  | .vsar h ty d a b => some (mkFields h 0x0CD (mkMod ty.code 0 0) (specV d) (a.spec) (b.bits))
  | .vmin h ty d a b => some (mkFields h 0x0CE (mkMod ty.code 0 0) (specV d) (a.spec) (b.bits))
  | .vmax h ty d a b => some (mkFields h 0x0CF (mkMod ty.code 0 0) (specV d) (a.spec) (b.bits))
  | .vabs h ty sat d a => some (mkFields h 0x0D0 (mkMod ty.code (satBits sat) 0) (specV d) (a.spec) (0))
  | .vcmp h ty c d a b => some (mkFields h 0x0D1 (mkMod ty.code 0 c.code) (specP d) (a.spec) (b.bits))
  | .vsel h ty d a b => some (mkFields h 0x0D2 (mkMod ty.code 0 0) (specV d) (a.spec) (b.bits))
  | .vmov h ty d b => some (mkFields h 0x0D3 (mkMod ty.code 0 0) (specV d) (0) (b.bits))
  | .vclz h ty d a => some (mkFields h 0x0D4 (mkMod ty.code 0 0) (specV d) (a.spec) (0))
  | .vpopc h ty d a => some (mkFields h 0x0D5 (mkMod ty.code 0 0) (specV d) (a.spec) (0))
  | .vbfe h ty d a b => some (mkFields h 0x0D6 (mkMod ty.code 0 0) (specV d) (a.spec) (b.bits))
  | .vbfi h d a b => some (mkFields h 0x0D7 (mkMod VTy.b32.code 0 0) (specV d) (a.spec) (b.bits))
  | .vdot4 h ty sat d a b => some (mkFields h 0x0D8 (mkMod ty.code (satBits sat) 0) (specV d) (a.spec) (b.bits))
  | .vfadd h ty r m d a b => some (mkFields h 0x140 (mkMod ty.code r.code m.bits) (specV d) (a.spec) (b.bits))
  | .vfsub h ty r m d a b => some (mkFields h 0x141 (mkMod ty.code r.code m.bits) (specV d) (a.spec) (b.bits))
  | .vfmul h ty r m d a b => some (mkFields h 0x142 (mkMod ty.code r.code m.bits) (specV d) (a.spec) (b.bits))
  | .vffma h ty r m d a b => some (mkFields h 0x143 (mkMod ty.code r.code m.bits) (specV d) (a.spec) (b.bits))
  | .vfdiv h ty r m d a b => some (mkFields h 0x147 (mkMod ty.code r.code m.bits) (specV d) (a.spec) (b.bits))
  | .vfscale h ty r m d a b => some (mkFields h 0x153 (mkMod ty.code r.code m.bits) (specV d) (a.spec) (b.bits))
  | .vfmin h ty m d a b => some (mkFields h 0x144 (mkMod ty.code 0 m.bits) (specV d) (a.spec) (b.bits))
  | .vfmax h ty m d a b => some (mkFields h 0x145 (mkMod ty.code 0 m.bits) (specV d) (a.spec) (b.bits))
  | .vfcmp h c d a b => some (mkFields h 0x146 (mkMod 0 0 c.code) (specP d) (a.spec) (b.bits))
  | .vfsqrt h ty r na ab d a => some (mkFields h 0x148 (mkMod ty.code r.code (boolBit na ++ boolBit ab ++ (0 : BitVec 1))) (specV d) (a.spec) (0))
  | .vfrnd h ty r na ab d a => some (mkFields h 0x151 (mkMod ty.code r.code (boolBit na ++ boolBit ab ++ (0 : BitVec 1))) (specV d) (a.spec) (0))
  | .vfrcp h ty na ab d a => some (mkFields h 0x149 (mkMod ty.code 0 (boolBit na ++ boolBit ab ++ (0 : BitVec 1))) (specV d) (a.spec) (0))
  | .vfrsq h ty na ab d a => some (mkFields h 0x14A (mkMod ty.code 0 (boolBit na ++ boolBit ab ++ (0 : BitVec 1))) (specV d) (a.spec) (0))
  | .vfexp2 h ty na ab d a => some (mkFields h 0x14B (mkMod ty.code 0 (boolBit na ++ boolBit ab ++ (0 : BitVec 1))) (specV d) (a.spec) (0))
  | .vflog2 h ty na ab d a => some (mkFields h 0x14C (mkMod ty.code 0 (boolBit na ++ boolBit ab ++ (0 : BitVec 1))) (specV d) (a.spec) (0))
  | .vfsin h ty na ab d a => some (mkFields h 0x14D (mkMod ty.code 0 (boolBit na ++ boolBit ab ++ (0 : BitVec 1))) (specV d) (a.spec) (0))
  | .vfcos h ty na ab d a => some (mkFields h 0x14E (mkMod ty.code 0 (boolBit na ++ boolBit ab ++ (0 : BitVec 1))) (specV d) (a.spec) (0))
  | .vftanh h ty na ab d a => some (mkFields h 0x14F (mkMod ty.code 0 (boolBit na ++ boolBit ab ++ (0 : BitVec 1))) (specV d) (a.spec) (0))
  | .vfclass h ty na ab d a => some (mkFields h 0x152 (mkMod ty.code 0 (boolBit na ++ boolBit ab ++ (0 : BitVec 1))) (specV d) (a.spec) (0))
  | .vfcvt h dt st r d a sp dp => some (mkFields h 0x150 (dt.code ++ st.code ++ r.code) (specV d) (a.spec) (bExt ((0 : BitVec 36) ++ sp ++ (0 : BitVec 2) ++ dp)))
  | .vred h ty op d a => some (mkFields h 0x1C0 (ty.code ++ op.code ++ (0 : BitVec 2)) (specS d) (a.spec) (0))
  | .vredx h ty op d a => some (mkFields h 0x1C1 (ty.code ++ op.code ++ (0 : BitVec 2)) (specS d) (a.spec) (0))
  | .vscan h ty op ex d a => some (mkFields h 0x1C2 (ty.code ++ op.code ++ boolBit ex ++ (0 : BitVec 1)) (specV d) (a.spec) (0))
  | .vshfl h m d a b => some (mkFields h 0x1C3 ((0 : BitVec 3) ++ m.code ++ (0 : BitVec 2)) (specV d) (a.spec) (b.bits))
  | .vbcast h d a b => some (mkFields h 0x1C4 (0) (specV d) (specV a) (b.bits))
  | .sgetl h d a b => some (mkFields h 0x1C5 (0) (specS d) (specV a) (b.bits))
  | .vsetl h d a b => some (mkFields h 0x1C6 (0) (specV d) (a.spec) (b.bits))
  | .vsample h d a b => some (mkFields h 0x1C7 (0) (specS d) (specV a) (b.bits))
  | .vrng h d a b => some (mkFields h 0x1C8 (0) (specV d) (a.spec) (b.bits))
  | .vtagGet h d a => some (mkFields h 0x1C9 ((0 : BitVec 8)) (specS d) (specV a) (0))
  | .vtagExpand h d a => some (mkFields h 0x1C9 ((64 : BitVec 8)) (specV d) (specV a) (0))
  | .vtagCompact h d a => some (mkFields h 0x1C9 ((128 : BitVec 8)) (specV d) (specV a) (0))
  | .vld h ty sp o d m => some (mkFields h 0x200 (ty.code ++ sp.code ++ o.code ++ (0 : BitVec 1)) (specV d) (0) (bMem m))
  | .vst h ty sp o a m => some (mkFields h 0x201 (ty.code ++ sp.code ++ o.code ++ (0 : BitVec 1)) (0) (specV a) (bMem m))
  | .sld h ty sp o d m => some (mkFields h 0x202 (ty.code ++ sp.code ++ o.code ++ (0 : BitVec 1)) ((match d with | .s n => specS n | .v n => specV n)) (0) (bMem m))
  | .sst h ty sp o a m => some (mkFields h 0x203 (ty.code ++ sp.code ++ o.code ++ (0 : BitVec 1)) (0) (specS a) (bMem m))
  | .vatom h ty op o d a m => some (mkFields h 0x204 (ty.code ++ op.code ++ o.code) (specV d) (a.spec) (bMem m))
  | .satom h ty op o d a m => some (mkFields h 0x205 (ty.code ++ op.code ++ o.code) (specS d) (specS a) (bMem m))
  | .fence h s o => some (mkFields h 0x206 (s.code ++ (0 : BitVec 2) ++ o.code ++ (0 : BitVec 1)) (0) (0) (0))
  | .cpy h d a i => some (mkFields h 0x207 (0) (specS d) (specS a) (bImm i.bits))
  | .cpyout h d a i => some (mkFields h 0x208 (0) (specS d) (specS a) (bImm i.bits))
  | .twait h a n => some (mkFields h 0x209 (0) (0) (specS a) ((match n with | none => 0 | some k => bImm k)))
  | .pf h m => some (mkFields h 0x20A (0) (0) (0) (bMem m))
  | .seal h d a b => some (mkFields h 0x20B (0) (specS d) (specS a) (b.bits))
  | .unseal h d a => some (mkFields h 0x20C (0) (specS d) (specS a) (0))
  | .cflush h m => some (mkFields h 0x20D (0) (0) (0) (bMem m))
  | .cinval h m => some (mkFields h 0x20E (0) (0) (0) (bMem m))
  | .mma h d a b => some (mkFields h 0x260 (0) (specAcc d) (specV a) (bReg (specS b)))
  | .mma2 h d a b => some (mkFields h 0x261 (0) (specAcc d) (specV a) (bReg (specS b)))
  | .mzero h d v => some (mkFields h 0x262 (0) (specAcc d) (0) (bImm ((0 : BitVec 16) ++ v)))
  | .mload h bf sp d a => some (mkFields h 0x263 (boolBit bf ++ (0 : BitVec 1) ++ boolBit sp ++ (0 : BitVec 5)) (specAcc d) (specS a) (0))
  | .mdrain h bf ad sp d a => some (mkFields h 0x264 (boolBit bf ++ boolBit ad ++ boolBit sp ++ (0 : BitVec 5)) (specAcc d) (specS a) (0))
  | .mver h d a => some (mkFields h 0x265 (0) (specS d) (specAcc a) (0))
  | .mwait h a b => some (mkFields h 0x266 (0) (0) (specAcc a) (b.bits))
  | .mfence h => some (mkFields h 0x267 (0) (0) (0) (0))
  | .barv h d g => some (mkFields h 0x2A0 (0) (specS d) (0) (g.bits))
  | .bwait h a => some (mkFields h 0x2A1 (0) (0) (specS a) (0))
  | .bexp h a g => some (mkFields h 0x2A2 (0) (0) (specS a) (g.bits))
  | .btest h d a => some (mkFields h 0x2A3 (0) (specS d) (specS a) (0))
  | .pend h g k => some (mkFields h 0x2A4 (0) (0) (0) (bImm ((0 : BitVec 18) ++ k ++ g)))
  | .qpush h d a q => some (mkFields h 0x2A5 (0) (specS d) (specS a) (q.bits))
  | .qpop h d q => some (mkFields h 0x2A6 (0) (specS d) (0) (q.bits))
  | .qspawn h d a q => some (mkFields h 0x2A7 (0) (specS d) (specS a) (q.bits))
  | .qcancel h j => some (mkFields h 0x2A8 (0) (0) (0) (j.bits))
  | .dpush h d a v => some (mkFields h 0x2A9 (0) (specS d) (specS a) (v.bits))
  | .dpop h d a => some (mkFields h 0x2AA (0) (specS d) (specS a) (0))
  | .dsteal h d a => some (mkFields h 0x2AB (0) (specS d) (specS a) (0))
  | .lnext h => some (mkFields h 0x2AC (0) (0) (0) (0))
  | .lwait h => some (mkFields h 0x2AD (0) (0) (0) (0))
  | .nmopen h d a g => some (mkFields h 0x2C0 (0) (specS d) (specS a) (g.bits))
  | .nmcall h a e => some (mkFields h 0x2C1 (0) (0) (specS a) (bImm e))
  | .nmcommit h d i => some (mkFields h 0x2C2 (0) (specS d) (0) (bImm i.bits))
  | .nmstat h d k => some (mkFields h 0x2C3 (0) (specS d) (0) (bImm k))
  | .nmclose h d => some (mkFields h 0x2C4 (0) (specS d) (0) (0))
  | .rbeg h ir d => some (mkFields h 0x2E0 (boolBit ir ++ (0 : BitVec 7)) (specS d) (0) (0))
  | .rend h d => some (mkFields h 0x2E1 (0) (specS d) (0) (0))
  | .rabt h k => some (mkFields h 0x2E2 (0) (0) (0) (bImm ((0 : BitVec 16) ++ k)))
  | .rstat h d => some (mkFields h 0x2E3 (0) (specS d) (0) (0))
  | .gcall h d a i => some (mkFields h 0x2F0 (0) (specS d) (specS a) (bImm i.bits))
  | .gret h a st => some (mkFields h 0x2F1 (0) (0) (specS a) (st.bits))
  | .gpoll h d a => some (mkFields h 0x2F2 (0) (specS d) (specS a) (0))
  | .csrr h d c => some (mkFields h 0x300 (0) (specS d) (0) (bImm ((0 : BitVec 20) ++ c)))
  | .csrw h op c a => some (mkFields h 0x301 (op.code ++ (0 : BitVec 6)) (0) (specS a) (bImm ((0 : BitVec 20) ++ c)))
  | .tret h b => some (mkFields h 0x302 (0) (0) (0) ((match b with | none => 0 | some n => bReg (specS n))))
  | .probe h d m => some (mkFields h 0x303 (0) (specS d) (0) (bMem m))
  | .intr h a k => some (mkFields h 0x304 (0) (0) ((match a with | none => 0 | some n => specS n)) (bImm ((0 : BitVec 24) ++ k)))
  | .tinv h a b => some (mkFields h 0x305 (0) (0) (specS a) (b.bits))
  | .wcsld h d a => some (mkFields h 0x306 (0) (specS d) (specS a) (0))
  | .instructionFetch .. | .passIssueSelect .. | .resultLand .. | .pendingTrapTaken .. | .excWindowClose .. |
    .queueAgentWake .. | .entryAccept .. | .queueAgentPush .. | .queueAccessRetry .. | .dispatchPlacement .. |
    .starvationPlacement .. | .phaseRecordRead .. | .bindRecordWrite .. | .cancelArrival .. | .passAged .. |
    .l1FillLand .. | .l1WriteBack .. | .writeCheckReturn .. | .pageResponse .. | .leaseExpiry .. |
    .memoryPoison .. | .hostReadSnoop .. | .hostWriteOwnership .. | .hostOwnershipArrival .. |
    .snoopDelayExpiry .. | .ioAtomicResponse .. | .peerAccessArrival .. | .calderaRowDone .. | .calderaCopyEnd .. |
    .matrixEntryStart .. | .matrixGatherDone .. | .matrixOpComplete .. | .transferFault .. | .barrierHubCycle .. |
    .ventAttemptStart .. | .ventCallExecute .. | .ventCommitRequest .. | .ventCommitPoint .. |
    .ventTranslationMiss .. | .regionCommit .. | .callArrival .. | .callAck .. | .callPromotion .. |
    .spillDrain .. | .stallBufferRelease .. | .replyLand .. | .gyTimeoutExpiry .. | .flitReceive .. |
    .flitAckReceive .. | .crcWindowClose .. | .laneRepairStart .. | .laneRepairDrainDone .. |
    .portRetrainTimeout .. | .portTraining .. | .phaseBoundaryPreempt .. | .forcedPreempt .. | .contextResume .. |
    .unitFail .. | .uncorrectedEcc .. | .machineCheck .. | .teamRetire .. | .launchRetire .. |
    .counterOverflow .. | .pmcCntWrite .. | .pmcSelWrite .. | .qtLenWrite .. | .excWinWrite .. | .excCntWrite .. |
    .ordModeWrite .. | .nmCsrWrite .. | .fjDevidWrite .. | .mgmtSemWrite .. | .mgmtSemTimeout .. | .csrWrite .. |
    .readPmc .. | .readEcs .. | .readLog .. | .createCtx .. | .writeCsr .. | .writePmc .. | .maintReset .. |
    .fwUpdate .. | .bankRefreshDue .. | .ecsScrubError .. | .powerGood .. | .thermalPowerLimit .. |
    .junctionOver110c .. | .inputPowerLoss .. | .junctionBelow100c .. | .flitReplayRequest .. |
    .homeWriteQueueDrain .. | .queueResidencyWrite .. => none

/-- The word of an instruction; none for a device step, which has no encoding. -/
def encode (i : Instr) : Option (BitVec 96) := i.fields.map Fields.toWord

end Sys2Proof
end

