-- ==== Sys2Proof/Machine/State.lean ====
section
/-! DEFINITION. The state of the machine: plain data, everything the spec gives the package, its teams, engines, memory
and environment, and the state right after reset. A `Tab` is a table held as its listed entries in rising key order, an
unlisted key reading as the default its reader names. -/

namespace Sys2Proof.Machine

/-- A table: (key, value) pairs, keys strictly rising. -/
abbrev Tab (α : Type) := List (Nat × α)

/-! ## Registers -/

/-- The value of a vector register under its shape tag (06 R106): uniform, affine, or one value per lane. -/
inductive VReg where
  | u (x : Lane)
  | a (base stride : Lane)
  | g (lanes : List Lane)
  deriving DecidableEq, Repr

/-- A register a scoreboard or latency entry names: the mask whole, or one of its words (05 R89). -/
inductive RegName where
  | v (n : Nat) | s (n : Nat) | p (n : Nat) | mask | mw (k : Nat)
  deriving DecidableEq, Repr

/-- Do two names share a bit of state? -/
def RegName.meets : RegName → RegName → Bool
  | .mask, .mw _ => true
  | .mw _, .mask => true
  | a, b => a == b

/-- What a register held before a fixed-latency write (05 R90). -/
inductive OldVal where
  | v (x : VReg) | s (x : Word) | m (x : Mask)
  deriving DecidableEq, Repr

/-- A fixed-latency result not yet readable (05 R87): its register, the value it replaces, the cycle from which it is
readable, and whether a vector reader needs 3 cycles more. -/
structure Fixed where
  reg   : RegName
  old   : OldVal
  due   : Nat
  bcast : Bool
  deriving DecidableEq, Repr

/-- An interlocked result that has not landed (05 R88): the register, the model's name of the result, the responses it
waits for (10 R203), whether an engine will write the register later, and the cycle before which its scratchpad banks are
not done (10 R193). -/
structure Sb where
  reg    : RegName
  tok    : Nat
  after  : List Nat
  engine : Bool
  due    : Nat
  deriving DecidableEq, Repr

/-- The miss-status entries one pass holds until its response (10 R203): their lines, and how many of them are reserved
entries (10 R204). -/
structure Miss where
  tok      : Nat
  lines    : List Nat
  reserved : Nat
  deriving DecidableEq, Repr

/-- The exception registers of a team (08 R159). -/
structure Exc where
  thr    : Tab (BitVec 32)     -- by class; 0xFFFFFFFF where not listed
  winLog : BitVec 6
  act    : Tab (BitVec 2)      -- by class; 0 where not listed
  wcnt   : Tab (BitVec 32)
  total  : Tab (BitVec 32)
  deriving DecidableEq, Repr

/-- A trap due before the team's next instruction (23 R358). -/
structure PendTrap where
  cause  : BitVec 9
  tval   : Word
  engine : Bool                 -- an engine's trap, taken before a threshold's
  deriving DecidableEq, Repr

/-- A lane that faulted: its cause and address. -/
structure LaneFault where
  lane  : Nat
  cause : BitVec 9
  addr  : Word
  deriving DecidableEq, Repr

/-- How a lane's access ends: performed, a fault, or a page the host may serve. -/
inductive LaneOut where
  | ok
  | bad (c : BitVec 9) (addr : Word)
  | miss (addr : Word) (prot : Bool)
  deriving DecidableEq, Repr

/-- What a stalled region access waits for: one of the regions of these tickets is to end (19 R314, R318); of a read held for its
depth, the line and the bytes it is to read, for a later writer of them may end the stall as well. -/
structure Stall where
  on   : List Nat
  read : Option (Nat × ByteMask)
  deriving DecidableEq, Repr

/-- What a lane of a memory instruction brought back. -/
inductive LaneGot where
  | val (x : Nat)               -- performed; the value read
  | out (o : LaneOut)           -- it faults, or misses a page
  | skip                        -- not performed: its region is aborted (19 R323, R335)
  | stall (on : Stall)          -- its region access waits
  deriving DecidableEq, Repr

/-- A memory instruction between two of its passes (04 R69; 06 R104): its enable, the lanes still to be performed, what the
others brought back, the responses its results wait for, the cycle by which its scratchpad banks have served it, and, of a pass that
has been admitted and is not yet performed whole, the name of its miss-status entries and the lanes still to be performed. -/
structure MemRun where
  en    : Mask
  left  : Mask
  got   : List (Nat × LaneGot)
  after : List Nat
  due   : Nat
  held  : Option (Nat × Mask)
  deriving DecidableEq, Repr

/-- The passes of an instruction on registers that are still to issue (04 R69; 05 R86): how many, the cycles of each, and
what the last of them brings: the latency of its results, STALL and YLD. -/
structure MorePasses where
  left   : Nat
  cycles : Nat
  lat    : Nat
  stall  : Nat
  yld    : Bool
  dst    : List RegName
  deriving DecidableEq, Repr

/-- A page the host is asked for on behalf of an instruction (11 R226, R227). -/
structure PageWait where
  page  : Nat                   -- VA >> 12
  lanes : Mask
  write : Bool
  tries : Nat                   -- requests sent so far
  resp  : Option Bool           -- the response, once it came
  prot  : Bool                  -- WRITE_PROTECT, not NOT_PRESENT
  port  : Nat                   -- the host port by which it is asked for
  deriving DecidableEq, Repr

/-- The page request group of an instruction and the lanes that already faulted for good (11 R227). -/
structure PageGroup where
  fetch : Bool
  waits : List PageWait
  hard  : List LaneFault
  deriving DecidableEq, Repr

/-- Why a team is not ready (04 R69). -/
inductive Park where
  | run                         -- not parked
  | page                        -- a page request group is open
  | checks                      -- write checks are out (11 R229)
  | result (r : RegName)        -- an interlocked result has not landed
  | arrive (g : Nat)            -- run-ahead bound of a barrier (15 R279)
  | phase (g t : Nat)           -- `bwait`
  | version (acc ver : Nat)     -- `mwait`
  | matrixFull                  -- the matrix queue is full (13 R240)
  | calderaFull                 -- the caldera queue is full (10 R216)
  | regionEnd                   -- the region's token is not written (19 R320)
  | regionStart                 -- `rbeg` waits (19 R329, R330)
  | irrStart (n : Nat)          -- `rbeg.irr` waits since this order number (19 R329)
  | regionLine (on : Stall)     -- a region access waits (19 R314, R318)
  | callSlot                    -- no call slot is free (21 R344)
  | window (vent : Nat)         -- no window is free (17 R304)
  | vent                        -- `nmcall` finds 64 calls, or `nmclose` waits (17 R305, R307)
  | held (write : Bool) (at_ : List (Nat × Nat))   -- commit hold or escalation, of accesses to these ranges (17 R296, R298)
  | predecessor                 -- `lwait`
  | cancelFull                  -- `qcancel` waits (04 R72)
  | evq                         -- `intr` waits for a record (23 R363)
  | drain                       -- earlier writes are still queued (14 R270)
  | aged                        -- behind another aged pass (10 R204)
  | ticket                      -- another team is in the middle of an sc instruction (14 R267)
  | link                        -- a peer access waits while its port repairs or retrains (21 R338, R339)
  | atomics                     -- AtomicOps or host ownership are out (11 R235, R236)
  | record                      -- the phase record is not yet read (04 R387)
  | work                        -- `exit` and `pend` wait for the team's own work (06 R118)
  deriving DecidableEq, Repr

/-- A call slot of a team (21 R343). -/
structure CallSlot where
  reg     : Nat
  tok     : Nat
  dev     : BitVec 12
  cls     : BitVec 2
  reply   : Bool
  issued  : Nat                 -- real time of issue
  acked   : Bool
  lostAt  : Option Nat          -- since when no route is up
  landed  : Bool                -- the token is written; the slot waits for the reply to be discarded
  gone    : Bool                -- the reply has been discarded; the slot waits for the acceptance token
  deriving DecidableEq, Repr

/-- The route of a handler's reply (21 R351). -/
structure HandlerInfo where
  call    : Call
  spilled : Bool
  cls     : BitVec 2            -- class in which it was launched
  nocall  : Bool
  replied : Bool
  deriving DecidableEq, Repr

/-- A push at a queue agent (15 R280, R281). -/
structure Push where
  sid     : Nat
  key     : Nat
  ctx     : Nat
  task    : Bool
  qid     : Nat
  lrec    : Word
  regions : Word                -- the region list, as the register held it
  reg     : Nat
  tok     : Nat
  slot    : Option (Nat × Nat)  -- once reserved: the reservation and its entry's VA
  stalled : Bool                -- the region matcher was full (04 R68)
  job     : Option (BitVec 32)  -- of a task's push: its job, and the dies that job's cancel broadcast has reached (04 R72)
  dies    : List Nat
  waiting : Option Nat          -- page asked for
  served  : Tab Nat
  denied  : List Nat
  deriving DecidableEq, Repr

/-- What a team knows of its own region (19 R312): the slot while it is live, and how it ended. -/
structure RegionView where
  slot    : Nat
  live    : Bool
  irr     : Bool
  ending  : Bool
  doomed  : Bool
  attempt : Nat
  cause   : BitVec 9
  value   : BitVec 32
  reg     : Nat                 -- token register of `rend`
  tok     : Nat
  deriving DecidableEq, Repr

/-- A resident team (06 R103). -/
structure Team where
  key      : Nat                -- the model's own name of the team
  die      : Nat
  core     : Nat                -- core within the die
  slot     : Nat
  ctx      : Nat
  lid      : Nat                -- launch
  team     : Nat                -- team number
  unit     : Nat
  bind     : Nat                -- bind record of the placement
  w        : Nat
  n        : Nat
  g        : Nat
  pc       : Word
  s        : Tab Word
  v        : Tab VReg
  p        : Tab Mask
  mask     : Mask
  phase    : Nat
  cancel   : Bool
  shp      : Tab (BitVec 32)
  cause    : BitVec 9
  tpc      : Word
  tval     : Word
  fmask    : Mask
  inTrap   : Bool
  sbchk    : Bool
  keep     : Tab Word
  exc      : Exc
  nmSigw   : BitVec 2
  nmGrain  : BitVec 2
  nmEsc    : BitVec 4
  gang     : Bool
  twin     : Bool
  spadOff  : Nat                -- byte offset of the SPADG range in the core's scratchpad
  spadLen  : Nat
  privOff  : Nat
  privLen  : Nat                -- lane-private bytes of one lane
  readyAt  : Nat
  issued   : Int                -- order number of its last issue
  yieldTo  : Option (Nat × Nat) -- `yield`: the core's issues up to it, cycle limit
  fixed    : List Fixed
  sb       : List Sb
  misses   : List Miss
  more     : Option MorePasses
  mem      : Option MemRun
  kept     : Option Bool        -- one value for all lanes: the tag a load decided at its first issue (06 R107)
  keptOut  : Option Bool        -- the same, of the instruction a trap interrupted
  owed     : List Nat           -- events by class, counted when the last pass completes (08 R158)
  doneAt   : Nat                -- the cycle in which it does
  park     : Park
  pend     : List PendTrap
  replay   : Option Mask
  pf       : Option PageGroup
  fetched  : Option Instr
  rejects  : Nat
  aged     : Bool
  exited   : Bool
  failed   : Option (BitVec 9)
  failVal  : Word               -- the %tval of that cause (23 R363)
  window   : Option Nat
  region   : Option RegionView
  attempts : Nat                -- regions reported aborted since the last commit
  handler  : Option HandlerInfo
  callToks : BitVec 64          -- scalar registers last written by a call token (21 R355)
  acqToks  : BitVec 64          -- registers with a token whose read is a wide acquire (14 R272)
  slots    : Tab CallSlot
  mwaitHit : Bool                -- the `mwait` it waited at has been released (13 R258)
  mwaitKept : Bool               -- the same, of the instruction a trap interrupted
  recordVa : Option Nat         -- phase record to read before the first instruction
  pended   : Option (Nat × BitVec 16)   -- `pend` has arrived: the barrier and its phase
  fenced   : Nat                -- order number of its last `mfence` (13 R259)
  deriving DecidableEq, Repr

/-! ## Translation, caches, memory -/

/-- A translation a unit, line or engine holds (11 R229, R230). -/
structure Trans where
  pa     : Nat                  -- page base
  size   : Nat                  -- log2 of the page size
  w      : Bool
  x      : Bool
  dset   : Bool
  peer   : Option (BitVec 12)
  expiry : Nat                  -- real time
  deriving DecidableEq, Repr

/-- A cached translation of a unit: channel units 0-511, host port units 512-513 (11 R221). -/
structure TlbEntry where
  unit  : Nat
  ctx   : Nat
  vpage : Nat                   -- VA >> size
  tr    : Trans
  deriving DecidableEq, Repr

/-- A line of an L1 (10 R198). -/
structure L1Line where
  core  : Nat                   -- die * 32 + core
  ctx   : Nat
  line  : Nat                   -- VA >> 6
  valid : ByteMask
  dirty : ByteMask
  data  : LineData
  tr    : Option Trans
  clean : Nat                   -- real time until which its clean bytes may be read (11 R230)
  narrow : ByteMask             -- last dirtied by an atomic at team or core scope (14 R271)
  filled : Nat                  -- order number of its last fill, or of the fetch an atomic's value came by
  deriving DecidableEq, Repr

/-- A line at its home slice (10 R198, R199). -/
structure HomeLine where
  ctx   : Nat
  line  : Nat
  valid : ByteMask
  dirty : ByteMask
  data  : LineData
  tr    : Trans
  clean : Nat                   -- real time until which its clean bytes may be read (11 R230)
  atomAt : Tab Nat              -- by byte: order number of the last atomic at die scope or wider (14 R271)
  deriving DecidableEq, Repr

/-- A fill in flight to an L1 (14 R263). -/
structure Fill where
  core     : Nat
  ctx      : Nat
  line     : Nat
  valid    : ByteMask            -- the bytes it brings
  data     : LineData
  tr       : Option Trans
  entry    : Bool               -- of a load or atomic, which holds a miss-status entry: later loads join it (10 R203)
  prefetch : Bool
  homeOnly : Bool
  deriving DecidableEq, Repr

/-- Who waits for a page of the host (11 R226). -/
inductive Requester where
  | team (sid : Nat) | caldera (core job : Nat) | transfer (core job : Nat) | vent (v : Nat)
  | queue (ctx qid : Nat) | push (key tok : Nat) | launch (lid : Nat) | spill (ctx handler : Nat) | arrival (id : Nat) | ring (ctx : Nat) | firmware (ctx : Nat)
  deriving DecidableEq, Repr

/-- An outstanding page request (11 R226). -/
structure PageReq where
  who   : Requester
  ctx   : Nat
  pasid : BitVec 20
  page  : Nat
  write : Bool
  exec  : Bool
  port  : Nat
  deriving DecidableEq, Repr

/-- A write check on its way to a translation unit (11 R229). -/
structure WCheck where
  sid    : Nat
  ctx    : Nat
  line   : Nat
  toHome : Bool                 -- for a line at its home, not in the L1
  alloc  : Bool                 -- the line is kept there
  deriving DecidableEq, Repr

/-- A write check that failed (11 R229): the host can serve it when `absent`. -/
structure WFault where
  sid    : Nat
  line   : Nat
  cause  : BitVec 9
  absent : Bool
  deriving DecidableEq, Repr

/-- An event record on its way to its ring (23 R363). -/
structure EvRec where
  ctx : Nat
  bits : BitVec 256
  drop : Option Bool             -- it is dropped already, with or without a signal, and waits for LOST
  deriving DecidableEq, Repr

/-- A strong write waiting in a home's queue under bank-drain ordering (14 R270). -/
structure QWrite where
  sid  : Nat
  core : Nat
  ctx  : Nat
  home : Nat
  line : Nat
  mask : ByteMask
  data : LineData
  tr   : Trans                  -- under which it was checked (11 R229)
  alloc : Bool                  -- the home keeps the line
  deriving DecidableEq, Repr

/-- An atomic lane performed away from the issuing core: AtomicOps to an IO-only window (11 R236) and atomics on host
memory that wait for ownership (11 R235). -/
structure FarAtom where
  sid    : Nat
  lane   : Nat
  pa     : Nat
  va     : Word
  tr     : Trans                -- under which it was sent (11 R230)
  ty     : ATy
  op     : AOp
  v      : Word
  c      : Word
  expect : Word                 -- the value the next CAS expects
  tries  : Nat
  failed : Option (BitVec 9)
  done   : Option Word          -- the old value, once performed
  deriving DecidableEq, Repr

/-- A host line a home takes ownership of (11 R235). -/
structure OwnLine where
  line   : Nat                  -- PA >> 6
  owned  : Option Nat           -- the cycle ownership arrived
  snoops : List Instr           -- host snoops that wait
  deriving DecidableEq, Repr

/-! ## Engines -/

/-- A byte range of a core's scratchpad that an operation reads or writes while it is in flight (10 R216; 13 R244). -/
structure Touch where
  off : Nat
  len : Nat
  deriving DecidableEq, Repr

/-- The last write of a scratchpad byte: its order number, what the byte held before, and the team whose store or atomic it was (13
R253, R259). -/
structure SpadWas where
  order : Nat
  old   : Byte
  tkey  : Option Nat
  deriving DecidableEq, Repr

/-- A caldera copy (10 R212-R218). -/
structure CopyJob where
  id      : Nat
  sid     : Nat
  tkey    : Nat
  out     : Bool                -- `cpyout`
  reg     : Nat
  tok     : Nat
  desc    : BitVec 256
  imm     : CpyImm
  lid     : Nat
  target  : Nat                 -- target phase of its deliveries (15 R274)
  row     : Nat
  rows    : Nat                 -- rows written
  bytes   : Nat
  events  : BitVec 8            -- classes that arose
  waiting : Option Nat          -- page asked for
  served  : Tab Nat             -- responses by page since the copy last went on (11 R227)
  failed  : Option (BitVec 9 × Word)
  touched : Tab Byte            -- scratchpad bytes written since issue, and what they held
  clobbered : List Touch        -- ranges written since issue: scratchpad offsets for `cpy`, VAs for `cpyout`
  deriving DecidableEq, Repr

/-- What a matrix queue entry does (13 R239). -/
inductive MOp where
  | mma | mma2 | mzero | mload (bf16 spad : Bool) | mdrain (bf16 add spad : Bool)
  deriving DecidableEq, Repr

/-- Where a matrix queue entry stands (13 R239, R246). -/
inductive MStage where
  | waiting | gathering (due : Nat) | gathered | running (due : Nat) | parked (page : Nat)
  | served                      -- parked, and its page has come
  deriving DecidableEq, Repr

/-- An entry of a core's matrix queue (13 R240). -/
structure MEntry where
  id     : Nat
  sid    : Nat
  tkey   : Nat
  word   : BitVec 96
  op     : MOp
  tile   : Nat
  ver    : Nat
  desc   : BitVec 128
  idx    : List Lane            -- index lanes read at issue
  odd    : Bool                 -- the odd core's half of an `mma2`
  stage  : MStage
  fenced : Nat                  -- order number of the team's last `mfence` before it (13 R259)
  ticket : Option Nat
  row    : Nat                  -- of a global transfer: rows done,
  seg    : Nat                  -- lines done of the row at hand,
  part   : List Byte            -- and the bytes of it that an `mload` has read
  served : Tab Nat              -- responses by page since the last line
  events : BitVec 8
  touched : List Touch          -- scratchpad ranges written while in flight (13 R244)
  rewrote : List Touch          -- those of them written otherwise than by an atomic or an add-on-store (13 R251)
  deriving DecidableEq, Repr

/-- Slot state of a group barrier (15 R273). -/
structure BSlot where
  arr   : Nat
  bytes : Int
  deriving DecidableEq, Repr

/-- A group barrier (15 R273). -/
structure Barrier where
  cur     : BitVec 16
  members : Nat
  now     : BSlot
  next    : BSlot
  ovf     : Bool                -- OVF of phase CUR - 1
  late    : Nat                 -- departures in force from CUR + 1
  narr    : Tab (BitVec 16)     -- by team number
  deriving DecidableEq, Repr

/-- What reaches the barrier hub (15 R274). -/
inductive HubMsg where
  | arrive (team : Nat) (phase : BitVec 16) (sid key reg tok : Nat)   -- an arrival, and the token it lands
  | post (phase : BitVec 16) (n : Int)                                -- a post, or a delivery below zero
  | current (n : Int)                                                 -- a delivery to the current phase
  deriving DecidableEq, Repr

/-- A message on its way to a barrier. -/
structure HubItem where
  lid   : Nat
  group : Nat
  msg   : HubMsg
  deriving DecidableEq, Repr

/-! ## Work -/

/-- A unit of a launch. -/
inductive UnitState where
  | waiting | running (left : Nat) | done | failed (cause : BitVec 9)
  deriving DecidableEq, Repr

/-- A role as the device keeps it (02 R37). -/
structure RoleRec where
  entry : Word
  w     : Nat
  n     : Nat
  g     : Nat
  count : Nat
  deriving DecidableEq, Repr

/-- A bucket as the device keeps it (02 R37). -/
structure BucketRec where
  entry  : Word
  w      : Nat
  ranges : List (Nat × Nat)
  deriving DecidableEq, Repr

/-- A group as the device keeps it (02 R38): its member teams. -/
structure GroupRec where
  members : List Nat
  deriving DecidableEq, Repr

/-- A hull of a tile region (04 R67). -/
structure Hull where
  lo    : Nat
  hi    : Nat
  write : Bool
  deriving DecidableEq, Repr

/-- A queued phase of a free team (04 R64), and the call slots that its team still holds (21 R343). -/
structure QPhase where
  team   : Nat
  key    : Nat                  -- the model's name of its team
  slots  : Tab CallSlot
  group  : Nat
  phase  : BitVec 16
  va     : Nat
  carry  : Nat
  die    : Nat
  ready  : Option Nat           -- when its barrier left the phase
  ovf    : Bool                 -- that phase overflowed
  deriving DecidableEq, Repr

/-- An accepted launch, task or handler launch (03 R44-R54). -/
structure Launch where
  lid      : Nat
  ctx      : Nat
  die      : Nat
  hwq      : Nat
  qid      : Nat
  res      : Nat                -- reservation number
  task     : Bool
  launchId : BitVec 32
  job      : BitVec 32
  args     : Word
  compl    : Word
  shp      : Tab (BitVec 32)
  entry    : Word
  w        : Nat
  n        : Nat
  g        : Nat
  spadg    : Nat
  lpriv    : Nat
  gang     : Bool
  twin     : Bool
  hasBkt   : Bool
  units    : Nat                -- TEAMSM1 + 1
  teamsPer : Nat                -- T of 03 R45
  roles    : List RoleRec
  buckets  : List BucketRec
  groups   : List GroupRec
  carry    : List (BitVec 128)
  hulls    : List Hull
  next     : Nat                -- lowest unplaced unit
  ustate   : Tab UnitState      -- `waiting` where not listed
  lnext    : Bool
  pred     : Option Nat         -- R48 predecessor
  accepted : Nat                -- order number of acceptance
  boundAt  : Option Nat         -- when it became dispatchable
  handler  : Option HandlerInfo
  cancelled : Bool              -- the cancel broadcast has reached its own die (04 R71)
  cancelDies : List Nat         -- the dies it has reached
  recordAsked : Bool            -- a record has been asked for (04 R57)
  barriers : Tab Barrier
  phases   : List QPhase
  dispatched : Bool
  refused  : Option (BitVec 9 × Bool)   -- it failed an acceptance check; its record's address is usable
  entryVa  : Nat                -- the queue entry, for its STATUS
  waiting  : Option Nat         -- page asked for at retirement
  onStatus : Bool               -- that page is for the STATUS of its queue entry (03 R386)
  served   : Tab Nat
  denied   : List Nat
  deriving DecidableEq, Repr

/-- An entry of a hardware queue (03 R43). -/
structure HwEntry where
  ctx   : Nat
  qid   : Nat
  res   : Nat
  lid   : Nat
  deriving DecidableEq, Repr

/-- What a queue's agent accesses (03 R386). -/
inductive QAccess where
  | table | header | entry | store (va : Nat)
  deriving DecidableEq, Repr

/-- An entry that a running task pushed and that has not been accepted: the job of its task, and the dies that job's cancel broadcast
has reached (04 R72). -/
structure Spawned where
  ctx  : Nat
  qid  : Nat
  res  : Nat
  job  : BitVec 32
  dies : List Nat
  deriving DecidableEq, Repr

/-- A queue the device watches (03 R41, R43, R386). -/
structure QueueWatch where
  ctx     : Nat
  qid     : Nat
  die     : Nat
  hwq     : Nat
  live    : Bool                -- resident
  ring    : Nat                 -- header VA, as the table entry last gave it
  rlog    : Nat
  head    : Option Nat          -- HEAD, once read
  next    : Nat                 -- the next reservation to accept
  reach   : Option Nat          -- reservations below it may have been dispatched before a refill (03 R43)
  forwarded : Tab (List Byte)   -- entries that a push has forwarded, by reservation (03 R42)
  passed  : List Nat            -- reservations dispatched ahead of an earlier one
  owed    : List (Nat × Word)   -- stores of HEAD and SEQ still to be made: address, value
  asleep  : Bool                -- waits for the next wake-up
  waiting : Option Nat          -- page asked for
  served  : Tab Nat             -- responses by page for the entry at hand
  denied  : List Nat            -- pages the host failed
  failing : List QAccess        -- accesses that failed and were reported
  retryAt : Option Nat          -- real time of the next try
  deriving DecidableEq, Repr

/-- A bind record (04 R56). -/
structure BindRec where
  pharea   : Word
  phstride : BitVec 32
  launchId : BitVec 32
  cores    : BitVec 32
  ctx      : BitVec 16
  quota    : BitVec 10
  hwq      : BitVec 6
  resident : Nat
  cls      : BitVec 2
  matchq   : Bool
  valid    : Bool
  deriving DecidableEq, Repr

/-- Age of a candidate of the dispatcher (04 R59): launch, its lowest team, and whether it is a queued phase. -/
structure AgeRec where
  die   : Nat
  lid   : Nat
  team  : Nat
  phase : Bool
  since : Nat
  deriving DecidableEq, Repr

/-- A cancel broadcast in flight (04 R71). -/
structure Broadcast where
  die    : Nat
  ctx    : Nat
  job    : BitVec 32
  before : Nat                  -- the cycle by which it arrives
  deriving DecidableEq, Repr

/-- A call that has reached its die and is not yet taken: a page it needs may be out (21 R346, R349). -/
structure Arrival where
  id      : Nat
  port    : Option Nat          -- none: from a team of this device
  die     : Nat
  call    : Call
  waiting : Option Nat          -- page asked for
  served  : Tab Nat
  denied  : List Nat
  deriving DecidableEq, Repr

/-- An entry of a geyser receive queue (21 R347): the call and the handler entry it was checked against. -/
structure GyEntry where
  ctx     : Nat
  call    : Call
  entry   : BitVec 512
  spilled : Bool
  since   : Nat
  deriving DecidableEq, Repr

/-- A call held in a port's stall buffer (21 R348); a local call is held as if at port 128 + its die. -/
structure Stalled where
  port  : Nat
  die   : Nat
  ctx   : Nat
  call  : Call
  entry : BitVec 512
  deriving DecidableEq, Repr

/-- A spill ring that holds calls (21 R349), and the calls in it, oldest first, as they were sent. -/
structure SpillRing where
  ctx     : Nat
  handler : Nat
  va      : Nat
  slots   : Nat
  calls   : List (Call × BitVec 512)   -- with the handler entries they were checked against
  waiting : Option Nat          -- page asked for by a drain
  served  : Tab Nat
  denied  : List Nat
  failing : Bool
  retryAt : Option Nat
  deriving DecidableEq, Repr

/-! ## Vents and regions -/

/-- What a window's queue holds (17 R295). -/
inductive VentItem where
  | call (at_ entry : Nat) (args : List Word)     -- order number of its arrival
  | commit (imm : CommitImm) (reg tok : Nat)
  deriving DecidableEq, Repr

/-- An open window (17 R290). -/
structure Window where
  num     : Nat
  vent    : Nat
  base    : Nat
  len     : Nat
  lid     : Nat
  group   : Nat
  sid     : Nat
  tkey    : Nat
  ctx     : Nat
  sigw    : BitVec 2
  grain   : BitVec 2
  esc     : BitVec 4
  newCsr  : Option (BitVec 2 × BitVec 2 × BitVec 4)   -- in force at the next section boundary
  queue   : List VentItem
  replays : Nat
  consec  : Nat
  stat    : Tab Nat             -- nmstat counters
  escalate : Bool               -- the next attempt is escalated
  failed  : Option (BitVec 9 × Nat)   -- its first section failed before its `nmcommit`: cause, lines written
  deriving DecidableEq, Repr

/-- A line of a vent's write buffer (17 R295). -/
structure VentLine where
  line : Nat                    -- VA >> 6
  pa   : Nat
  mask : ByteMask
  data : LineData
  deriving DecidableEq, Repr

/-- What a vent is doing (17 R295-R300). -/
structure VentRun where
  win      : Nat
  calls    : Nat                -- calls of the section already run
  rv       : BitVec 1024
  wv       : BitVec 1024
  buffer   : List VentLine
  escalated : Bool
  direct   : Bool               -- lines go straight to memory
  wrote    : List Nat           -- lines written straight to memory
  hold     : Bool               -- commit hold
  got      : List (List Byte)   -- what the memory accesses of the call at hand gave, a write giving nothing (R300)
  todo     : List (List Byte)   -- of those, what the call has still to take up again after a page request
  seed     : Nat                -- the call's draw of what is free
  events   : BitVec 8
  waiting  : Option Nat         -- page asked for
  served   : Tab Nat            -- responses by page since the last call ended
  deriving DecidableEq, Repr

/-- A vent (17 R309). -/
structure Vent where
  table : Tab (BitVec 64)
  store : Tab (BitVec 128)
  library : Bool                -- the store holds release 3 of the entry library (17 R308)
  run   : Option VentRun
  deriving DecidableEq, Repr

/-- A line a region wrote or read (19 R314). -/
structure TrackedLine where
  ctx     : Nat
  line    : Nat
  pa      : Nat                 -- its physical line, PA >> 6
  writers : List Nat            -- slots, oldest first
  readers : List Nat
  got     : Tab ByteMask        -- by slot: the bytes it has read (19 R315, R322)
  deriving DecidableEq, Repr

/-- A region's speculative bytes of one line (19 R313). -/
structure SpecLine where
  slot : Nat
  core : Nat
  ctx  : Nat
  line : Nat
  mask : ByteMask
  data : LineData
  tr   : Trans                  -- under which its write was checked
  deriving DecidableEq, Repr

/-- A live region (19 R312). -/
structure Region where
  slot    : Nat
  ctx     : Nat
  sid     : Nat
  tkey    : Nat
  core    : Nat
  ticket  : Nat
  irr     : Bool
  ending  : Bool
  preds   : List Nat            -- edges into it
  raw     : List Nat            -- live regions whose bytes it consumed
  deriving DecidableEq, Repr

/-! ## Contexts, ports, management -/

inductive Priv where
  | user | supervisor | firmware
  deriving DecidableEq, Repr

/-- A team that forced pre-emption saved (23 R365-R367): the team as the device carries it, its save record, its window, and
the tokens that landed meanwhile. -/
structure SavedWork where
  team   : Team
  spad   : Bool                 -- its record carries the SPADG range
  va     : Nat
  window : Option Window
  toks   : List (Nat × Word)    -- register and value
  deriving DecidableEq, Repr

/-- A context (23 R373). -/
structure Ctx where
  priv     : Priv
  ptlDesc  : Word
  ptlRoot  : Word
  ptlPasid : BitVec 20
  gyQdepth : Tab (BitVec 10)    -- 512 where not listed
  gyTimeout : BitVec 20
  gyJobtag : BitVec 16
  gyHtab   : Word
  qtBase   : Word
  qtLen    : Nat
  trapEntry : Word
  ctxSave  : Word
  ctxReply : Word
  ctxEvq   : Word
  seals    : List (Nat × Nat)   -- start, length
  unseals  : List (Nat × Nat × Nat)   -- `unseal` whose result has not landed: its name, start, length (10 R211)
  resident : Bool
  saved    : List SavedWork
  tiles    : List (Nat × Nat)   -- cores whose tiles were saved, and where
  dump     : Option (Nat × Nat) -- the vent dump of the save area: its VA and length (17 R311)
  stopping : Bool               -- forced pre-emption has begun: its teams issue nothing (23 R365)
  asked    : Option Nat         -- page firmware waits for in a save or restore
  deriving DecidableEq, Repr

/-- Event counters of one place (24 R376). -/
structure Pmc where
  sel : Tab Word
  cnt : Tab (BitVec 48)
  wrote : Tab Nat               -- the cycle in which a counter was last written (24 R377)
  deriving DecidableEq, Repr

inductive RepairStage where
  | none | draining (bad : Nat) | retraining (deadline : Nat)
  deriving DecidableEq, Repr

/-- What a flit on a port carries, as far as the model follows it. -/
inductive FlitLoad where
  | call (c : Call)
  | ack (sref slot : Nat) (spilled : Bool)
  | reply (sref slot : Nat) (cause : BitVec 9) (cls : BitVec 2) (spilled : Bool) (value : BitVec 32)
  | answer (admitted poisoned : Bool) (data : List Byte)      -- to a peer access
  deriving DecidableEq, Repr

/-- What a receiver sends back for a flit (21 R337). -/
inductive LinkAnswer where
  | ack (seq : Nat) | replay (seq : Nat)
  deriving DecidableEq, Repr

/-- A Fjaram port (21 R337-R340, R350). -/
structure Port where
  up       : Bool
  partner  : BitVec 12
  replay   : List (Nat × FlitLoad)   -- unacknowledged flits, oldest first
  replies  : List FlitLoad      -- flits to be placed before others: those of the reply channel, and those a lost port left
  waiting  : List FlitLoad      -- the other flits waiting for the port
  nextSeq  : Nat
  rxNext   : Nat                -- the number of the flit it expects
  answers  : List LinkAnswer    -- what it answered to the flits it received
  rxCount  : Nat                -- flits received in the window
  crc      : Tab Nat            -- failures by lane
  lanes    : Nat                -- 2, or 1 after a repair
  badLane  : Option Nat
  repair   : RepairStage
  resends  : Nat                -- replays made
  acked    : Nat
  nacked   : Nat
  deriving DecidableEq, Repr

/-- A peer device as this device sees it (11 R237; 21 R341). -/
structure Peer where
  dev   : BitVec 12
  table : List (BitVec 256)     -- its export table
  mem   : List Host.Cell
  deriving DecidableEq, Repr

/-- What a management command answered (24 R379). -/
structure MgmtReply where
  cxl    : Bool                 -- to the CXL mailbox, else to the sideband
  status : Nat
  data   : List Nat
  deriving DecidableEq, Repr

/-- An entry of the error log (24 R379). -/
inductive LogEntry where
  | portIds (port own partner : Nat) | bringUp (stage code : Nat)
  deriving DecidableEq, Repr

/-- What the device sends out: a signal of a context's MSI-X vector (23 R363) or of the management port (24 R377), or data to the
host. -/
inductive Signal where
  | msix (ctx : Nat) | mgmt (cxl : Bool)
  | bindRequest (die ctx : Nat) (launchId : BitVec 32)        -- to firmware: a launch with carry sets lacks a record (04 R57)
  | hostRead (pa : Nat) (data : LineData) (poisoned : Bool)   -- the answer to a host read (11 R232, R234)
  deriving DecidableEq, Repr

/-- The matrix and copy engines and the other per-core state (01 R13). -/
structure Core where
  busyUntil : Nat               -- a pass is in progress until this cycle
  lastKey   : Option Nat        -- the team that issued last
  run       : Nat               -- issue cycles of its run
  issues    : Nat               -- passes issued so far
  yielded   : Option Nat        -- the team whose YLD ended its run with the last pass (04 R69)
  icache    : List (Nat × Nat × LineData)   -- (ctx, line, data)
  agedQ     : List Nat          -- slots of aged passes, oldest first
  copies    : List CopyJob
  matrix    : List MEntry
  tiles     : Tab (List Lane)   -- 4,096 elements, row by row; zeros where not listed
  counters  : Tab (BitVec 16)
  banks     : Tab Nat           -- the cycle until which a scratchpad bank is occupied (10 R193)
  sig       : Tab (BitVec 1024 × BitVec 1024)   -- Rc, Wc by window number
  pmc       : Pmc
  deriving DecidableEq, Repr

/-- A compute die (01 R10; 04). -/
structure Die where
  bind       : Tab BindRec
  bindNext   : List (Nat × BindRec)   -- records written in this cycle, in force from the next (04 R58)
  placeCount : Nat
  placedAt   : Option Nat       -- the cycle of its last placement
  hwq        : Tab (List HwEntry)
  gyq        : Tab (List GyEntry)
  matcher    : List Nat         -- launches (tasks) that hold an entry
  cancels    : List (Nat × BitVec 32)
  pmc        : Pmc
  deriving DecidableEq, Repr

/-! ## Stops -/

/-- Why the machine stops. All are safe: the model stops where the spec says nothing happens or where a step that is
not due was asked for. -/
inductive Fault where
  /-- An instruction was asked for while no team is selected to issue. Raised by the issue operation. Safe. -/
  | noIssuingTeam
  /-- A device step was asked for in a state in which it is not due. Raised by the device steps. Safe. -/
  | eventNotDue (what : String)
  /-- All device state has ended with the input power (24 R385). Raised by the step. Safe. -/
  | powerLost
  deriving DecidableEq, Repr

/-- What the model refuses. -/
inductive Refusal where
  /-- An instruction with no meaning yet, by its mnemonic. Raised by the dispatch alone. Safe. -/
  | notModelled (mnemonic : String)
  /-- The agenda of outside inputs holds an instruction that only a team can issue. Raised by the step. Safe. -/
  | notAnInput
  deriving DecidableEq, Repr

/-- The machine. -/
structure State where
  -- the package
  clock    : Nat                -- %clock
  rt       : Nat                -- real time since power-good, in the unit of Config
  clkStep  : Nat                -- core clock in steps of 100 MHz (24 R385)
  hot      : Bool
  powered  : Bool
  bringUp  : Nat                -- the last bring-up step done; 6 also while the team of step 6 runs (24 R383)
  devId    : BitVec 12
  devIdNext : BitVec 12
  fjExp    : Word
  ordMode  : Bool               -- ORD.MODE, 1: bank-drain ordering (14 R270)
  leaseMax : Nat
  hostIow  : Tab Word
  ticket   : Nat
  mgmtSem  : BitVec 2
  mgmtLast : Nat                -- real time of the owner's last command
  mgmtOvf  : List (Nat × Nat)   -- management overflow status: place, counter
  errLog   : List LogEntry
  replies  : List MgmtReply
  signals  : List Signal
  spi      : List Byte
  repairs  : List (Nat × Nat × Nat × Nat)   -- rows queued: stack, channel, bank, row
  retired  : List (Nat × Nat × Nat × Nat)
  burnt    : Tab Nat            -- spare rows used, by bank
  rowErrs  : Tab Nat            -- corrected errors since reset, by row
  ecs      : Tab Nat            -- corrected errors by bank, saturating
  postponed : Tab Nat           -- postponed refreshes, by bank
  -- memory and host
  mem      : List Host.Cell
  poison   : List Nat           -- poisoned lines (key >> 6)
  hdm0     : Option Nat
  hdm1     : Option Nat
  ioPorts  : List Nat           -- host ports whose partner offers CXL.io alone (11 R233)
  hostHeld : List Nat           -- device lines the host caches (11 R234)
  own      : List OwnLine
  far      : List FarAtom
  peers    : List Peer
  tlb      : List TlbEntry
  preqs    : List PageReq
  wchecks  : List WCheck
  wfaults  : List WFault
  evPend   : List EvRec         -- event records that wait for a page
  -- caches
  l1       : List L1Line
  homes    : List HomeLine
  fills    : List Fill
  wq       : List QWrite
  spad     : Tab Byte           -- scratchpad bytes written since their range was last placed: core * 2^21 + offset
  spadBase : Tab Nat            -- by 512-byte block: the draw of what its other bytes hold (04 R62)
  spadLog  : Tab SpadWas        -- the last write of a byte (13 R259)
  -- contexts, teams, work
  ctxs     : Tab Ctx
  teams    : Tab Team           -- by (die * 32 + core) * 16 + slot
  cores    : Tab Core
  dieTab   : Tab Die
  launches : List Launch
  watches  : List QueueWatch
  pushes   : List Push
  spawned  : List Spawned
  ages     : List AgeRec
  casts    : List Broadcast
  spills   : List SpillRing
  stalls   : List Stalled
  arrivals : List Arrival
  mail     : List Instr         -- acknowledgements and replies on their way to teams of this device
  hub      : List HubItem
  -- vents, regions, fabric
  windows  : List Window
  vents    : Tab Vent
  ventPmc  : Tab Pmc
  regions  : List Region
  tracked  : List TrackedLine
  spec     : List SpecLine
  ports    : Tab Port
  routes   : List (Nat × Nat × Nat)         -- team key, device, port
  unsent   : List (Nat × FlitLoad)          -- by device: flits for which no route is up (21 R354)
  committedAt : Option Nat      -- the cycle of the arbiter's last commit
  -- the model's own fields
  agenda   : List Instr         -- inputs and steps that are due, oldest first
  current  : Option Nat         -- the team selected to issue
  order    : Nat                -- order numbers
  fresh    : Nat                -- draws of free values
  deriving DecidableEq, Repr

/-- The state right after reset: power is on, bring-up has not begun (24 R383), no context exists (DESIGN CHOICE, log 2). -/
def State.reset : State :=
  { clock := 0, rt := 0, clkStep := 24, hot := false, powered := true, bringUp := 0, devId := 0xFFF,
    devIdNext := 0xFFF, fjExp := 0, ordMode := true, leaseMax := 64, hostIow := [], ticket := 0, mgmtSem := 0,
    mgmtLast := 0, mgmtOvf := [], errLog := [], replies := [], signals := [], spi := [], repairs := [], retired := [],
    burnt := [], rowErrs := [], ecs := [], postponed := [], mem := [], poison := [], hdm0 := none, hdm1 := none, ioPorts := [],
    hostHeld := [], own := [], far := [], peers := [], tlb := [], preqs := [], wchecks := [], wfaults := [], evPend := [], l1 := [],
    homes := [], fills := [], wq := [],  spad := [], spadBase := [], spadLog := [], ctxs := [], teams := [], cores := [], dieTab := [],
    launches := [], watches := [], pushes := [], spawned := [], ages := [], casts := [], spills := [], stalls := [], arrivals := [], mail := [], hub := [], windows := [],
    vents := [], ventPmc := [], regions := [], tracked := [], spec := [], ports := [], routes := [], unsent := [],
    committedAt := none, agenda := [], current := none, order := 0, fresh := 0 }

end Sys2Proof.Machine
end

