-- ==== Sys2Proof/Machine/Ops.lean ====
section
/-! DEFINITION. The named operations over tables, memory, registers, the scoreboard and regions; taking a trap and
returning from one. -/

namespace Sys2Proof.Machine

/-! ## Bits -/

/-- All lanes below `w` set. -/
def lanesBelow (w : Nat) : Mask := BitVec.ofNat 1024 (2 ^ w - 1)

/-- The number of set bits. -/
def popCount {n : Nat} (x : BitVec n) : Nat :=
  (List.range n).foldl (fun a i => if x.getLsbD i then a + 1 else a) 0

/-- The lowest set bit at or above `i` among `k` positions. -/
def lowestFrom {n : Nat} (x : BitVec n) : Nat → Nat → Option Nat
  | _, 0 => none
  | i, k + 1 => if x.getLsbD i then some i else lowestFrom x (i + 1) k

/-- The lowest set bit. -/
def lowest {n : Nat} (x : BitVec n) : Option Nat := lowestFrom x 0 n

/-- The positions of the set bits, ascending. -/
def setBits {n : Nat} (x : BitVec n) : List Nat := (List.range n).filter (fun i => x.getLsbD i)

/-- Leading zero bits. -/
def leadingZeros {n : Nat} (x : BitVec n) : Nat := if x = 0 then n else n - 1 - Nat.log2 x.toNat

/-- A one-bit word from a truth value. -/
def boolWord (b : Bool) : Word := if b then 1 else 0

/-- `2^64 / golden ratio`, the constant of the home and channel hashes (10 R199; 11 R221; 17 R294). -/
def hashConst : Nat := 0x9E3779B97F4A7C15

/-! ## Tables -/

/-- The value at a key, or the default. -/
def Tab.get {α : Type} (d : α) : Tab α → Nat → α
  | [], _ => d
  | (j, x) :: r, k => if j = k then x else Tab.get d r k

/-- Is the key listed? -/
def Tab.find {α : Type} : Tab α → Nat → Option α
  | [], _ => none
  | (j, x) :: r, k => if j = k then some x else Tab.find r k

/-- List a value at its key, keeping the keys rising. -/
def Tab.put {α : Type} : Tab α → Nat → α → Tab α
  | [], k, v => [(k, v)]
  | e :: r, k, v => if e.1 < k then e :: Tab.put r k v else (k, v) :: (if e.1 = k then r else e :: r)

/-- Unlist a key. -/
def Tab.del {α : Type} : Tab α → Nat → Tab α
  | [], _ => []
  | (j, x) :: r, k => if j = k then Tab.del r k else (j, x) :: Tab.del r k

/-- Write a value; the default is not listed. -/
def Tab.set {α : Type} [DecidableEq α] (d : α) (t : Tab α) (k : Nat) (v : α) : Tab α :=
  if v = d then Tab.del t k else Tab.put t k v

/-- Keys strictly rise. -/
def Tab.sorted {α : Type} : Tab α → Bool
  | [] => true
  | [_] => true
  | (j, _) :: (k, y) :: r => decide (j < k) && Tab.sorted ((k, y) :: r)

/-! ## Memory -/

/-- What an unlisted byte of memory reads as. The spec gives memory no contents at power-on (DESIGN CHOICE, log 1). -/
def unlistedByte : Byte := 0

/-- The canonical form of a memory: addresses strictly rising, no entry equal to an unlisted byte. -/
def Memory.wf (m : List Host.Cell) : Bool := Tab.sorted (α := Byte) m && m.all (fun c => c.2 != unlistedByte)

/-- One byte of memory (DESIGN CHOICE, log 1). -/
def memByte (m : List Host.Cell) (k : Nat) : Byte := Tab.get (α := Byte) unlistedByte m k

/-- Write one byte of memory. -/
def memSet (m : List Host.Cell) (k : Nat) (x : Byte) : List Host.Cell := Tab.set (α := Byte) unlistedByte m k x

/-- The value of bytes, the first lowest (00 R2). -/
def leNat : List Byte → Nat
  | [] => 0
  | b :: r => b.toNat + 256 * leNat r

/-- The low `n` bytes of a value, the lowest first (00 R2). -/
def leBytes : Nat → Nat → List Byte
  | 0, _ => []
  | n + 1, x => BitVec.ofNat 8 x :: leBytes n (x / 256)

/-- `n` bytes of memory from a key. -/
def memRead (m : List Host.Cell) (k n : Nat) : List Byte := (List.range n).map (fun i => memByte m (k + i))

/-- Write bytes from a key upward. -/
def memWrite : List Host.Cell → Nat → List Byte → List Host.Cell
  | m, _, [] => m
  | m, k, b :: r => memWrite (memSet m k b) (k + 1) r

/-! ## Lines -/

/-- Widen a byte mask to a bit mask. -/
def maskBits (m : ByteMask) : LineData :=
  BitVec.ofNat 512 ((List.range 64).foldl (fun a i => if m.getLsbD i then a + 255 * 2 ^ (8 * i) else a) 0)

/-- The bytes of `new` where the mask is set, of `old` elsewhere (10 R201). -/
def mergeLine (m : ByteMask) (new old : LineData) : LineData :=
  (new &&& maskBits m) ||| (old &&& ~~~ maskBits m)

/-- Byte `i` of a line. -/
def lineByte (d : LineData) (i : Nat) : Byte := d.extractLsb' (8 * i) 8

/-- The line of 64 bytes. -/
def lineOf (bs : List Byte) : LineData := BitVec.ofNat 512 (leNat bs)

/-- The mask of `n` bytes from byte `o` of a line. -/
def byteRange (o n : Nat) : ByteMask := BitVec.ofNat 64 ((2 ^ n - 1) * 2 ^ o)

/-! ## Lenses (DESIGN CHOICE, log 2). -/

def emptyCore : Core :=
  { busyUntil := 0, lastKey := none, run := 0, issues := 0, yielded := none, icache := [], agedQ := [], copies := [], matrix := [], tiles := [],
    counters := [], banks := [], sig := [], pmc := { sel := [], cnt := [], wrote := [] } }

def emptyDie : Die :=
  { bind := [], bindNext := [], placeCount := 0, placedAt := none, hwq := [], gyq := [], matcher := [], cancels := [],
    pmc := { sel := [], cnt := [], wrote := [] } }

def emptyVent : Vent := { table := [], store := [], library := false, run := none }

def emptyPort : Port :=
  { up := false, partner := 0xFFF, replay := [], replies := [], waiting := [], nextSeq := 0, rxNext := 0, answers := [],
    rxCount := 0, crc := [], lanes := 2,
    badLane := none, repair := .none, resends := 0, acked := 0, nacked := 0 }

def emptyBind : BindRec :=
  { pharea := 0, phstride := 0, launchId := 0, cores := 0, ctx := 0, quota := 0, hwq := 0, resident := 0, cls := 0,
    matchq := false, valid := false }

def State.team? (s : State) (sid : Nat) : Option Team := Tab.find s.teams sid
def State.setTeam (s : State) (sid : Nat) (t : Team) : State := { s with teams := Tab.put s.teams sid t }
def State.delTeam (s : State) (sid : Nat) : State := { s with teams := Tab.del s.teams sid }
def State.core (s : State) (c : Nat) : Core := Tab.get emptyCore s.cores c
def State.setCore (s : State) (c : Nat) (x : Core) : State := { s with cores := Tab.set emptyCore s.cores c x }
def State.die (s : State) (d : Nat) : Die := Tab.get emptyDie s.dieTab d
def State.setDie (s : State) (d : Nat) (x : Die) : State := { s with dieTab := Tab.set emptyDie s.dieTab d x }
def State.ctx? (s : State) (c : Nat) : Option Ctx := Tab.find s.ctxs c
def State.setCtx (s : State) (c : Nat) (x : Ctx) : State := { s with ctxs := Tab.put s.ctxs c x }
def State.vent (s : State) (v : Nat) : Vent := Tab.get emptyVent s.vents v
def State.setVent (s : State) (v : Nat) (x : Vent) : State := { s with vents := Tab.set emptyVent s.vents v x }
def State.port (s : State) (p : Nat) : Port := Tab.get emptyPort s.ports p
def State.setPort (s : State) (p : Nat) (x : Port) : State := { s with ports := Tab.set emptyPort s.ports p x }
def State.launch? (s : State) (l : Nat) : Option Launch := s.launches.find? (fun x => x.lid == l)
def State.setLaunch (s : State) (l : Launch) : State :=
  { s with launches := s.launches.map (fun x => if x.lid = l.lid then l else x) }

/-- Change a team if it is resident. -/
def State.onTeam (s : State) (sid : Nat) (f : Team → Team) : State :=
  match s.team? sid with
  | some t => s.setTeam sid (f t)
  | none => s

def State.onCore (s : State) (c : Nat) (f : Core → Core) : State := s.setCore c (f (s.core c))
def State.onDie (s : State) (d : Nat) (f : Die → Die) : State := s.setDie d (f (s.die d))

def State.onLaunch (s : State) (l : Nat) (f : Launch → Launch) : State :=
  { s with launches := s.launches.map (fun x => if x.lid = l then f x else x) }

def State.onCtx (s : State) (c : Nat) (f : Ctx → Ctx) : State :=
  match s.ctx? c with
  | some x => s.setCtx c (f x)
  | none => s

def State.onVent (s : State) (v : Nat) (f : Vent → Vent) : State := s.setVent v (f (s.vent v))
def State.onPort (s : State) (p : Nat) (f : Port → Port) : State := s.setPort p (f (s.port p))
def State.onWindow (s : State) (n : Nat) (f : Window → Window) : State :=
  { s with windows := s.windows.map (fun w => if w.num = n then f w else w) }
def State.window? (s : State) (n : Nat) : Option Window := s.windows.find? (fun w => w.num == n)
def State.region? (s : State) (n : Nat) : Option Region := s.regions.find? (fun r => r.slot == n)
def State.onRegion (s : State) (n : Nat) (f : Region → Region) : State :=
  { s with regions := s.regions.map (fun r => if r.slot = n then f r else r) }

/-- The team of a model name, where it is resident. -/
def State.teamByKey (s : State) (k : Nat) : Option (Nat × Team) := s.teams.find? (fun x => x.2.key == k)

/-- Put a step that is due behind those already due. -/
def State.due (s : State) (i : Instr) : State := { s with agenda := s.agenda ++ [i] }

/-- Put a step before everything else that is due. -/
def State.dueFirst (s : State) (i : Instr) : State := { s with agenda := i :: s.agenda }

/-- Free values are drawn by a counter of the state, which each step that draws advances (DESIGN CHOICE, log 108). -/
def State.tick1 (s : State) : State := { s with fresh := s.fresh + 1 }
/-- The order in which units, teams and lines were listed serves as the order of age wherever the spec speaks of oldest or
first (DESIGN CHOICE, log 109). -/
def State.nextOrder (s : State) : State := { s with order := s.order + 1 }

/-- The package-wide number of a team's core. -/
def Team.coreId (t : Team) : Nat := t.die * 32 + t.core
/-- The package-wide number of a team's slot. -/
def Team.sid (t : Team) : Nat := t.coreId * 16 + t.slot

/-! ## Registers -/

/-- Lane `l` of a register under its tag (06 R106). -/
def VReg.lane : VReg → Nat → Lane
  | .u x, _ => x
  | .a b st, l => b + BitVec.ofNat 32 l * st
  | .g ls, l => ls.getD l 0

/-- A shape tag (06, shape tags). -/
inductive Tag where
  | u | a | g
  deriving DecidableEq, Repr

def VReg.tag : VReg → Tag
  | .u _ => .u
  | .a _ _ => .a
  | .g _ => .g

def Tag.code : Tag → Nat
  | .u => 0
  | .a => 1
  | .g => 2

def Team.vr (t : Team) (n : Nat) : VReg := Tab.get (.u 0) t.v n
def Team.setV (t : Team) (n : Nat) (x : VReg) : Team := { t with v := Tab.set (.u 0) t.v n x }
/-- s0 reads zero (05 R77). -/
def Team.sr (t : Team) (n : Nat) : Word := if n = 0 then 0 else Tab.get 0 t.s n
/-- s0 ignores writes (05 R77). -/
def Team.setS (t : Team) (n : Nat) (x : Word) : Team := if n = 0 then t else { t with s := Tab.set 0 t.s n x }
/-- All lanes of the team (06 R103). -/
def Team.lanes (t : Team) : Mask := lanesBelow t.w
/-- p31 reads all ones (05 R77). -/
def Team.pr (t : Team) (n : Nat) : Mask := if n = 31 then t.lanes else Tab.get 0 t.p n
/-- p31 ignores writes; no lane exists at or above W (06 R103, R113). -/
def Team.setP (t : Team) (n : Nat) (x : Mask) : Team :=
  if n = 31 then t else { t with p := Tab.set 0 t.p n (x &&& t.lanes) }
/-- The mask holds lanes below W only (06 R103). -/
def Team.setMask (t : Team) (m : Mask) : Team := { t with mask := m &&& t.lanes }
/-- Mask word `k` (06 R103). -/
def maskWord (m : Mask) (k : Nat) : BitVec 32 := m.extractLsb' (32 * k) 32
/-- Replace word `k` of a mask. -/
def setMaskWord (m : Mask) (k : Nat) (x : BitVec 32) : Mask :=
  (m &&& ~~~ (BitVec.ofNat 1024 ((2 ^ 32 - 1) * 2 ^ (32 * k)))) ||| BitVec.ofNat 1024 (x.toNat * 2 ^ (32 * k))
/-- The summary word: bit k set exactly when mask word k is non-zero (06 R103). -/
def Team.summary (t : Team) : BitVec 32 :=
  BitVec.ofNat 32 ((List.range 32).foldl (fun a k => if maskWord t.mask k != 0 then a + 2 ^ k else a) 0)

/-- The number of registers tagged G (06 R111). -/
def Team.gCount (t : Team) : Nat := (t.v.filter (fun e => e.2.tag == .g)).length

/-- Keep only lanes in the G form of a value. -/
def VReg.expand (x : VReg) (w : Nat) : VReg := .g ((List.range w).map x.lane)

/-! ## Reading operands

A source is read at issue. A fixed-latency result that is not yet readable is read old or new, lane by lane, by a free
bit, when CTL.SBCHK is 0 (05 R87, R90). -/

/-- What a team's sources read as: the team; the registers that are not yet readable, with their old values and the cycles after
which they are; the cycles after its first pass at which an instruction's pass of each mask word can issue; and the draw. -/
structure View where
  t     : Team
  early : List (RegName × OldVal × Nat)
  words : List Nat
  seed  : Nat

/-- When the pass that serves lane `l` can issue, in cycles after the first (05 R86). -/
def View.passAt (vw : View) (l : Nat) : Nat := vw.words.getD (l / 32) 0

/-- What a register held before each write that lane `l` cannot read yet (05 R87, R90), the latest such write first. -/
def View.olds (vw : View) (r : RegName) (l : Nat) : List OldVal :=
  (vw.early.filter (fun e => e.1 == r && decide (vw.passAt l < e.2.2))).map (fun e => e.2.1)

/-- The new value, or one of the old ones, by a free bit each (05 R90) (DESIGN CHOICE, log 11). -/
def freeOld {α : Type} (seed what l : Nat) (new : α) : List α → α
  | [] => new
  | o :: r => if Config.freeBit seed what l then o else freeOld seed (what + 10000) l new r

/-- A scalar register as lane `l` receives it. -/
def View.sAt (vw : View) (n l : Nat) : Word :=
  freeOld vw.seed (1000 + n) l (vw.t.sr n) ((vw.olds (.s n) l).filterMap (fun o => match o with | .s x => some x | _ => none))

/-- A scalar register. -/
def View.sr (vw : View) (n : Nat) : Word := vw.sAt n 0

/-- Lane `l` of a vector register. -/
def View.lane (vw : View) (n l : Nat) : Lane :=
  freeOld vw.seed n l ((vw.t.vr n).lane l) ((vw.olds (.v n) l).filterMap (fun o => match o with | .v x => some (x.lane l) | _ => none))

/-- The lanes below `w` with a property. -/
def maskOf (w : Nat) (p : Nat → Bool) : Mask :=
  BitVec.ofNat 1024 ((List.range w).foldl (fun a l => if p l then a + 2 ^ l else a) 0)

/-- A mask read lane by lane, where something of it is not yet readable at `at_ l`. -/
def View.blend (vw : View) (r : RegName) (what : Nat) (at_ : Nat → Nat) (new : Mask) : Mask :=
  match vw.early.filter (fun e => e.1.meets r) with
  | [] => new
  | es => maskOf vw.t.w (fun l => freeOld vw.seed what l (new.getLsbD l)
      (es.filterMap (fun e => match e with
        | (.mw k, .m o, left) => if l / 32 = k && decide (at_ l < left) then some (o.getLsbD l) else none
        | (_, .m o, left) => if at_ l < left then some (o.getLsbD l) else none
        | _ => none)))

/-- A predicate as the guard and the enable read it, at the issue of the first pass (06 R104). -/
def View.pr (vw : View) (n : Nat) : Mask := vw.blend (.p n) (2000 + n) (fun _ => 0) (vw.t.pr n)

/-- A predicate as a source, which the pass of each word reads. -/
def View.prSrc (vw : View) (n : Nat) : Mask := vw.blend (.p n) (2000 + n) vw.passAt (vw.t.pr n)

/-- A predicate operand: a predicate register or %fmask (05 R78) (DEDUCED, log 10). -/
def View.ps (vw : View) : PSrc → Mask
  | .p n => vw.prSrc n.toNat
  | .fmask => vw.t.fmask

/-- The active mask, read at the issue of the first pass (05 R87). -/
def View.mask (vw : View) : Mask := vw.blend .mask 3000 (fun _ => 0) vw.t.mask

/-- One word of it (06 R123). -/
def View.maskWordAt (vw : View) (k : Nat) : BitVec 32 := maskWord (vw.blend (.mw k) 3000 (fun _ => 0) vw.t.mask) k

/-- The guard of a vector instruction, lane by lane: absent when GPRED is 31 (05 R85). -/
def View.guardLanes (vw : View) (h : Hdr) : Mask :=
  if h.gp = 31 then vw.t.lanes
  else if h.gneg then ~~~ (vw.pr h.gp.toNat) &&& vw.t.lanes else vw.pr h.gp.toNat

/-- The lanes an instruction may act on: the active mask (05 R85), or the lanes of a replay (06 R107; 23 R370). -/
def View.active (vw : View) : Mask := vw.t.replay.getD vw.mask

/-- The enable of a vector instruction (05 R85). -/
def View.enable (vw : View) (h : Hdr) : Mask := vw.active &&& vw.guardLanes h

/-- The guard of a scalar-side instruction (05 R85). -/
def View.guard (vw : View) (h : Hdr) : Bool :=
  if h.gp = 31 then true else ((vw.mask &&& vw.pr h.gp.toNat) != 0) != h.gneg

/-- A special register as a scalar value (05 R78); %lane and %fmask have none. -/
def specialVal (s : State) (t : Team) : Special → Word
  | .lane => 0
  | .team => BitVec.ofNat 64 t.team
  | .width => BitVec.ofNat 64 t.w
  | .core => BitVec.ofNat 64 t.core
  | .twin => BitVec.ofNat 64 (t.core / 2)
  | .die => BitVec.ofNat 64 t.die
  | .dev => s.devId.setWidth 64
  | .ctx => BitVec.ofNat 64 t.ctx
  | .clock => BitVec.ofNat 64 s.clock
  | .phase => BitVec.ofNat 64 t.phase
  | .cancel => boolWord t.cancel
  | .shp0 => (Tab.get 0 t.shp 0).setWidth 64
  | .shp1 => (Tab.get 0 t.shp 1).setWidth 64
  | .shp2 => (Tab.get 0 t.shp 2).setWidth 64
  | .shp3 => (Tab.get 0 t.shp 3).setWidth 64
  | .cause => t.cause.setWidth 64
  | .tpc => t.tpc
  | .tval => t.tval
  | .fmask => 0

/-! ## The scoreboard (05 R88) -/

/-- Enter a pending result for a register; its name is the order number. -/
def addSb (s : State) (sid : Nat) (r : RegName) (after : List Nat) (engine : Bool) (due : Nat := 0) : State × Nat :=
  ((s.onTeam sid (fun t =>
      { t with sb := t.sb ++ [{ reg := r, tok := s.order, after := after, engine := engine, due := due }] })).nextOrder,
   s.order)

/-- A result lands: its entry goes. -/
def landSb (t : Team) (tok : Nat) : Team := { t with sb := t.sb.filter (fun e => e.tok != tok) }

/-- The response to a pass frees its miss-status entries (10 R203). -/
def freeMiss (t : Team) (tok : Nat) : Team := { t with misses := t.misses.filter (fun m => m.tok != tok) }

/-- May an interlocked result land: no engine writes it, every response it waits for has come, and its banks are done? -/
def Sb.lands (e : Sb) (t : Team) (now : Nat) : Bool :=
  !e.engine && decide (e.due ≤ now) && !t.misses.any (fun m => e.after.contains m.tok)

/-- Write an engine's token into the register that waits for it, unless the register is s0 (10 R217) (DEDUCED, log 97). -/
def landToken (s : State) (sid key tok reg : Nat) (v : Word) : State :=
  match s.team? sid with
  | some t => if t.key = key then s.setTeam sid (landSb (t.setS reg v) tok) else s
  | none => s

/-- The same for a token whose read acquires at device or system scope (14 R272) (DEDUCED, log 53). -/
def landAcquire (s : State) (sid key tok reg : Nat) (v : Word) : State :=
  (landToken s sid key tok reg v).onTeam sid (fun t =>
    if t.key = key ∧ reg ≠ 0 then { t with acqToks := t.acqToks ||| (1#64 <<< reg) } else t)

/-- Invalidate every clean byte of a context's lines in one L1 (R200); fills still in flight are of no further use. -/
def invalidateClean (s : State) (core ctx : Nat) : State :=
  { s with
    l1 := (s.l1.map (fun x => if x.core = core ∧ x.ctx = ctx then { x with valid := x.dirty } else x)).filter
      (fun x => !(x.core == core && x.ctx == ctx && x.valid == 0 && x.dirty == 0))
    fills := s.fills.filter (fun f => !(f.core == core && f.ctx == ctx && !f.homeOnly)) }

/-- Reading a register with such a token is the acquire (DEDUCED, log 53). -/
def readTokens (s : State) (sid : Nat) (t : Team) (regs : List RegName) : State :=
  let m : BitVec 64 := regs.foldl (fun a r => match r with | .s k => a ||| (1#64 <<< k) | _ => a) 0
  if t.acqToks &&& m = 0 then s
  else invalidateClean (s.setTeam sid { t with acqToks := t.acqToks &&& ~~~ m }) t.coreId t.ctx

/-- DONE and a cause, as tokens and statuses hold them. -/
def doneCause (c : BitVec 9) : Word := (1#64 <<< 63) ||| (c.setWidth 64 <<< 54)

/-! ## Event counters (24 R376) -/

def pmcOf (s : State) : PmcPlace → Pmc
  | .core n => (s.core n).pmc
  | .die n => (s.die n).pmc
  | .vent n => Tab.get { sel := [], cnt := [], wrote := [] } s.ventPmc n

def setPmc (s : State) (p : PmcPlace) (x : Pmc) : State :=
  match p with
  | .core n => s.onCore n (fun c => { c with pmc := x })
  | .die n => s.onDie n (fun d => { d with pmc := x })
  | .vent n => { s with ventPmc := Tab.set { sel := [], cnt := [], wrote := [] } s.ventPmc n x }

/-- The number of counters of a place (24 R376). -/
def pmcWidth : PmcPlace → Nat
  | .core _ => 8
  | .die _ => 16
  | .vent _ => 4

/-- Count at one counter after another; an increment in the cycle of a write to it is lost (24 R377). -/
def pmcAdd (p : PmcPlace) (ev ctx n : Nat) : Nat → State → State
  | 0, s => s
  | k + 1, s =>
    let s1 := pmcAdd p ev ctx n k s
    let x := pmcOf s1 p
    let sel := Tab.get 0 x.sel k
    if Tab.find x.wrote k = some s.clock then s1
    else if (sel.extractLsb' 0 10).toNat = ev ∧ (sel.getLsbD 17 = false ∨ (sel.extractLsb' 48 16).toNat = ctx) then
      let c := (Tab.get 0 x.cnt k).toNat + n
      let s2 := setPmc s1 p { x with cnt := Tab.set 0 x.cnt k (BitVec.ofNat 48 c) }
      if 2 ^ 48 ≤ c ∧ sel.getLsbD 16 then s2.due (.counterOverflow p k) else s2
    else s1

/-- Count `n` occurrences of an event source in a context; a wrap with OVI = 1 is reported (24 R376, R377). -/
def pmcCount (s : State) (p : PmcPlace) (ev ctx n : Nat) : State :=
  if (pmcOf s p).sel.isEmpty then s else pmcAdd p ev ctx n (pmcWidth p) s

/-! ## Regions: aborts (19 R323) -/

/-- The writers between which a region stands in the records of its lines, the earlier first. -/
def joinedBy (s : State) (slot : Nat) : List (Nat × Nat) :=
  s.tracked.filterMap (fun l =>
    match (l.writers.takeWhile (· != slot)).getLast?, ((l.writers.dropWhile (· != slot)).drop 1).head? with
    | some x, some z => some (x, z)
    | _, _ => none)

/-- The bytes of a region and its place in every record go; its slot is freed. The writers of a line that it stood between stay in
order, for the later's bytes are those that a read returns (19 R316, R322) (DEDUCED, log 73). -/
def dropRegion (s : State) (slot : Nat) : State :=
  let joins := joinedBy s slot
  { s with
    spec := s.spec.filter (fun x => x.slot != slot)
    tracked := (s.tracked.map (fun l =>
      { l with writers := l.writers.filter (· != slot), readers := l.readers.filter (· != slot), got := Tab.del l.got slot })).filter
        (fun l => !(l.writers.isEmpty && l.readers.isEmpty))
    regions := (s.regions.filter (fun r => r.slot != slot)).map (fun r =>
      { r with preds := (r.preds.filter (· != slot)
                 ++ (joins.filter (fun j => j.2 == r.slot && !r.preds.contains j.1)).map Prod.fst).eraseDups,
               raw := r.raw.filter (· != slot) }) }

/-- The token of a region (19 R331). -/
def regionToken (cause : BitVec 9) (attempt slot : Nat) (value : BitVec 32) : Word :=
  doneCause cause ||| (BitVec.ofNat 64 (attempt % 64) <<< 48) ||| (BitVec.ofNat 64 (slot % 256) <<< 40)
    ||| value.setWidth 64

/-- What an abort does to the region's own team: an open region is doomed, an ending one has its token written. -/
def abortTeam (s : State) (r : Region) (cause : BitVec 9) (value : BitVec 32) : State :=
  match s.team? r.sid with
  | none => s
  | some t =>
    if t.key != r.tkey then s
    else match t.region with
      | none => s
      | some v =>
        if r.ending then
          let t1 := { t with region := none, attempts := min (t.attempts + 1) 62 }
          (s.setTeam r.sid t1) |> fun s1 =>
            landToken s1 r.sid r.tkey v.tok v.reg (regionToken cause v.attempt v.slot value)
        else s.setTeam r.sid { t with region := some { v with live := false, doomed := true, cause := cause, value := value } }

/-- Abort the regions of one depth, then those that consumed their bytes, depth by depth (19 R323). Each depth that aborts
something leaves fewer regions, so the number of regions is fuel enough. -/
def abortDepths : Nat → State → List (Nat × BitVec 9 × BitVec 32) → State
  | 0, s, _ => s
  | k + 1, s, w =>
    match w.filter (fun x => (s.region? x.1).isSome) with
    | [] => s
    | now =>
      let gone (n : Nat) : Bool := now.any (fun x => x.1 == n)
      let below := (s.regions.filter (fun r => !gone r.slot && r.raw.any gone)).map (fun r =>
        (r.slot, (0x161 : BitVec 9), (0 : BitVec 32)))
      abortDepths k (now.foldl (fun s x => match s.region? x.1 with
        | none => s
        | some r => pmcCount (dropRegion (abortTeam s r x.2.1 x.2.2) r.slot) (.core r.core) 10 r.ctx 1) s) below

/-- Abort a region with a cause (19 R323). An irrevocable region never aborts (19 R329). -/
def abortRegion (s : State) (slot : Nat) (cause : BitVec 9) (value : BitVec 32) : State :=
  match s.region? slot with
  | none => s
  | some r => if r.irr then s else abortDepths s.regions.length s [(slot, cause, value)]

/-- The open region of a team, live and not irrevocable. -/
def Team.openRegion (t : Team) : Option RegionView :=
  match t.region with
  | some v => if v.ending then none else some v
  | none => none

/-! ## Traps (23 R357-R361) -/

/-- The VA a CSR's BASE or ENTRY field names: bits 63:57 are copies of bit 56, as 03 R39 has it (DEDUCED for the others)
(DEDUCED, log 79). -/
def csrVa (v : Word) : Word := (v.extractLsb' 0 57).signExtend 64

/-- Is the team in a pass that has been admitted and is not yet performed whole (10 R203)? -/
def Team.midPass (t : Team) : Bool := t.mem.any (fun r => r.held.isSome)

/-- Has the team issued accesses that wait for write checks or for AtomicOps (11 R229, R235, R236), or for their homes? A failed team
keeps its instruction only for the pass of an access that it had issued (23 R362). -/
def Team.midAccess (t : Team) : Bool :=
  t.park == .checks || t.park == .atomics || t.midPass
    || (t.failed.isSome && t.fetched.isSome && (decide (0 < t.rejects) || (t.park != .run && t.park != .page)))

/-- A team's unit ends with a cause: its teams issue no more, but accesses already issued are performed, and the failure step
is due (23 R362). -/
def failUnit (s : State) (t : Team) (cause : BitVec 9) (tval : Word := t.tval) : State :=
  let mark (x : Team) : Team :=
    if x.lid = t.lid ∧ x.unit = t.unit ∧ x.ctx = t.ctx then
      let v := if x.failed.isSome then x.failVal else tval
      if x.midAccess then { x with failed := some (x.failed.getD cause), failVal := v }
      else { x with failed := some (x.failed.getD cause), failVal := v, park := .run, fetched := none, replay := none, pf := none,
                    mem := none, more := none }
    else x
  ({ s with teams := s.teams.map (fun (e : Nat × Team) => (e.1, mark e.2)) }).dueFirst (.unitFail t.lid t.unit cause)

/-- TAKING A TRAP (23 R359): the team goes to its context's handler. While INTRAP is 1 a trap ends the unit (R360); so
does a trap of a context without a handler (R361). A team whose unit has failed takes none (R362). An open region aborts with the cause (19 R326). -/
def takeTrap (s : State) (sid : Nat) (cause : BitVec 9) (tval : Word) (fmask : Mask) (tpc : Word) : State :=
  match s.team? sid with
  | none => s
  | some t =>
    if t.failed.isSome then s.setTeam sid { t with park := .run, fetched := none, replay := none, pf := none, mem := none }
    else if t.inTrap then failUnit s t cause tval
    else
      let s1 := match t.region with
        | some v => if v.live && !v.ending && !v.irr then abortRegion s v.slot cause 0 else s
        | none => s
      let s1 := s1.onCore t.coreId (fun c => { c with agedQ := c.agedQ.filter (· != t.slot) })
      match s1.team? sid, (s1.ctx? t.ctx).map Ctx.trapEntry with
      | some t1, some e =>
        let t2 := { t1 with cause := cause, tval := tval, fmask := fmask &&& t1.lanes, tpc := tpc, replay := none, mem := none,
                            pf := none, park := .run, fetched := none, rejects := 0, aged := false,
                            mwaitHit := false, mwaitKept := t1.mwaitHit, kept := none, keptOut := t1.kept }
        if e = 0 then failUnit (s1.setTeam sid t2) t2 cause
        else s1.setTeam sid { t2 with inTrap := true, pc := csrVa e }
      | some t1, none => failUnit s1 t1 cause tval
      | none, _ => s1

/-- RETURNING FROM A TRAP (23 R370): INTRAP falls, the pc is the target, and the lanes of %fmask are replayed when the
return names no register (DEDUCED, log 80). -/
def returnTrap (t : Team) (target : Word) (replay : Bool) : Team :=
  { t with inTrap := false, pc := target, mwaitHit := replay && t.mwaitKept, mwaitKept := false,
           kept := if replay then t.keptOut else none, keptOut := none,
           replay := if replay && t.fmask != 0 then some t.fmask else none }

/-- The next pending trap of a team (23 R358): engines first, in order, then thresholds by ascending class. -/
def nextPending (t : Team) : Option PendTrap :=
  match t.pend.find? (fun p => p.engine) with
  | some p => some p
  | none =>
    t.pend.foldl (fun (a : Option PendTrap) p =>
      match a with
      | none => some p
      | some q => if p.cause.toNat < q.cause.toNat then some p else some q) none

/-- Take the next pending trap at the boundary before the instruction at PC (23 R358; 08 R161) (DEDUCED, log 80). -/
def takePending (s : State) (sid : Nat) : State :=
  match s.team? sid with
  | none => s
  | some t =>
    match nextPending t with
    | none => s
    | some p => takeTrap (s.setTeam sid { t with pend := t.pend.erase p }) sid p.cause p.tval 0 t.pc

/-- A copy or transfer that failed raises a trap before its team's next instruction (10 R218; 13 R254); while INTRAP is 1
it ends the unit (23 R360), and so it does after `exit`. -/
def raiseEngineTrap (s : State) (sid key : Nat) (cause : BitVec 9) (tval : Word) : State :=
  match s.team? sid with
  | none => s
  | some t =>
    if t.key != key then s
    else if t.inTrap || t.exited then failUnit s t cause tval
    else s.setTeam sid { t with pend := t.pend ++ [{ cause := cause, tval := tval, engine := true }] }

/-- Is the team in the middle of an instruction, so that no trap is taken here (23 R358)? -/
def midway (t : Team) : Bool :=
  t.pended.isSome || t.more.isSome || t.mem.isSome || match t.park with
  | .page => (match t.pf with | some g => !g.fetch | none => true)
  | .checks => true
  | .atomics => true
  | .record => true
  | _ => false

/-- Is a trap due before the team's next instruction? While the handler runs, traps wait for its `tret` (23 R358). -/
def trapDue (t : Team) : Bool := !t.pend.isEmpty && !t.inTrap && !midway t

end Sys2Proof.Machine
end

