-- ==== Sys2Proof/Machine/Issue.lean ====
section
/-! DEFINITION. Issuing one instruction: what it reads and writes, its latency class, the checks of 05 R101 that need
the team, the scoreboard, and what completing it leaves (05 R85-R90, R101, R102; 04 R69). -/

namespace Sys2Proof.Machine

/-! ## Causes (23 R357) -/

namespace Cause
def illegalOpcode : BitVec 9 := 0x001
def illegalOperand : BitVec 9 := 0x002
def reservedNonzero : BitVec 9 := 0x003
def stallShort : BitVec 9 := 0x004
def shapeBudget : BitVec 9 := 0x005
def regBudget : BitVec 9 := 0x006
def misalignedPc : BitVec 9 := 0x007
def privileged : BitVec 9 := 0x008
def illegalScope : BitVec 9 := 0x009
def phaseInGang : BitVec 9 := 0x00A
def breakpoint : BitVec 9 := 0x00B
def trapState : BitVec 9 := 0x00C
def pageFault : BitVec 9 := 0x060
def accessViolation : BitVec 9 := 0x061
def misaligned : BitVec 9 := 0x062
def noncanonical : BitVec 9 := 0x063
def hostAtomicFail : BitVec 9 := 0x064
def peerUnreachable : BitVec 9 := 0x065
def poison : BitVec 9 := 0x0C0
def sealWrite : BitVec 9 := 0x0C1
def barrierOverflow : BitVec 9 := 0x0E0
def badToken : BitVec 9 := 0x0E1
def groupLimit : BitVec 9 := 0x0E2
def notMember : BitVec 9 := 0x0E3
def matrixKind : BitVec 9 := 0x100
def scratchRange : BitVec 9 := 0x101
def formatInvalid : BitVec 9 := 0x102
def nmRemote : BitVec 9 := 0x120
def csBusy : BitVec 9 := 0x121
def nmEntry : BitVec 9 := 0x122
def nmEscalated : BitVec 9 := 0x123
def nmState : BitVec 9 := 0x124
def nmSectionFull : BitVec 9 := 0x125
def cycle : BitVec 9 := 0x160
def capacity : BitVec 9 := 0x162
def external : BitVec 9 := 0x163
def preempt : BitVec 9 := 0x164
def regionIllegalOp : BitVec 9 := 0x165
def regionState : BitVec 9 := 0x166
def userAbort : BitVec 9 := 0x167
def busy : BitVec 9 := 0x180
def noHandler : BitVec 9 := 0x181
def denied : BitVec 9 := 0x182
def noReturn : BitVec 9 := 0x183
def linkDown : BitVec 9 := 0x184
def gyState : BitVec 9 := 0x185
def cancelled : BitVec 9 := 0x1A0
def badBudget : BitVec 9 := 0x1A1
def queueFull : BitVec 9 := 0x1A2
def noQueue : BitVec 9 := 0x1A3
def badRecord : BitVec 9 := 0x1A4
def queueEmpty : BitVec 9 := 0x1A5
def badDeque : BitVec 9 := 0x1A6
def machineCheck : BitVec 9 := 0x1C0
def uncorrectedEcc : BitVec 9 := 0x1C1
/-- Software code k (06 R119). -/
def software (k : Nat) : BitVec 9 := BitVec.ofNat 9 (0x1E0 + k)
end Cause

/-! ## What an instruction reads and writes -/

/-- Registers written, sources with their positions and %tval values in the order of 05 R102, and the vector operands
that 06 R110 checks (position, specifier or IDX value, highest register). -/
structure Uses where
  dst  : List RegName
  src  : List (Nat × Nat × RegName)
  vecs : List (Nat × Nat × Nat)

/-- How many registers a specifier covers in a position (05 R79). -/
def covers (k : Acc) (x : BitVec 10) : List RegName :=
  if k.zero && x == 0 then []
  else
    let n := x.toNat % 256
    match (x.extractLsb' 8 2).toNat with
    | 0 => (List.range k.v).map (fun i => .v (n + i))
    | 1 => ((List.range (if k.sEven then 2 else k.s)).map (fun i => n + i)).filterMap
             (fun m => if m = 0 then none else some (.s m))
    | 2 => []
    | _ =>
      match (x.extractLsb' 5 3).toNat with
      | 0 => if n % 32 = 31 then [] else [.p (n % 32)]
      | 2 => [.mw (n % 32)]
      | _ => []

/-- Does the instruction also read D? (06 R117; 07 R128; 09 R168; 15 R287.) -/
def readsD : Instr → Bool
  | .bdec .. | .vmad .. | .vmadw .. | .vbfi .. | .vdot4 .. | .vffma .. => true
  | .vfcvt _ dt _ _ _ _ _ _ => dt.maxPart != 0
  | .vatom _ _ op _ _ _ _ => op == .cas
  | .satom _ _ op _ _ _ _ => op == .cas
  | _ => false

/-- The carry predicate (05 R94). -/
def carryPred : Instr → Option PIdx
  | .sadc _ _ cp _ _ _ => some cp
  | .vadc _ _ cp _ _ _ => some cp
  | .vsbc _ _ cp _ _ _ => some cp
  | _ => none

/-- A vector instruction (06 R104, R105; 09 R180): its enable is per lane and it reads the mask. -/
def isVector (opc : Nat) : Bool :=
  (0x016 ≤ opc && opc ≤ 0x01A) || (0x0C0 ≤ opc && opc ≤ 0x153)
    || (0x1C0 ≤ opc && opc ≤ 0x1C4) || opc == 0x1C7 || opc == 0x1C8
    || opc == 0x200 || opc == 0x201 || opc == 0x204 || opc == 0x20A || opc == 0x20D || opc == 0x20E

/-- Does it read the mask otherwise (06 R116, R120, R121; 05 R85)? -/
def readsMask : Instr → Bool
  | .msave .. | .mand .. | .mandn .. | .mcount .. | .mfirst .. => true
  | .bra _ c _ | .brx _ c _ | .call _ c _ | .ret _ c => c != .always
  | _ => false

def writesMask : Instr → Bool
  | .mset .. | .mand .. | .mandn .. => true
  | _ => false

/-- A position's registers as sources. -/
def srcOf (k : Option Acc) (pos : Nat) (x : BitVec 10) : List (Nat × Nat × RegName) :=
  match k with
  | none => []
  | some k => (covers k x).map (fun r => (pos, x.toNat, r))

def vecsOf (k : Option Acc) (pos : Nat) (x : BitVec 10) : List (Nat × Nat × Nat) :=
  match k with
  | none => []
  | some k => if (x.extractLsb' 8 2).toNat = 0 && !(k.zero && x == 0) && k.v != 0 then [(pos, x.toNat, x.toNat % 256 + k.v - 1)] else []

/-- What an encoded instruction reads and writes (DEDUCED, log 9). The mask has no specifier: 0 stands for it in %tval (DESIGN CHOICE,
log 117). -/
def uses (i : Instr) : Uses :=
  match i.fields with
  | none => { dst := [], src := [], vecs := [] }
  | some f =>
    match layout f with
    | none => { dst := [], src := [], vecs := [] }
    | some L =>
      let regB := if isReg f.b && !(L.b.opt && f.b == 0) then L.b.reg else none
      let mem := L.b.mem && bKind f.b == 2
      let m := readMem f.b
      let cp := match carryPred i with
        | some p => if p = 31 then [] else [RegName.p p.toNat]
        | none => []
      let link : List RegName := match i with | .call .. => [.s 63] | _ => []
      let back : List (Nat × Nat × RegName) := match i with | .ret .. => [(1, 0x13F, .s 63)] | _ => []
      { dst := (match L.d with | some k => covers k f.d | none => []) ++ cp ++ link
                 ++ (if writesMask i then [.mask] else [])
        src := (if readsD i then srcOf L.d 0 f.d else []) ++ srcOf L.a 1 f.a ++ back ++ srcOf regB 2 (bSpec f.b)
                 ++ (if mem && m.base != 0 then [(2, (specS m.base).toNat, .s m.base.toNat)] else [])
                 ++ (match mem, m.idx with | true, some n => [(3, n.toNat, .v n.toNat)] | _, _ => [])
                 ++ (if f.gp = 31 then [] else [(5, (specP f.gp).toNat, .p f.gp.toNat)])
                 ++ cp.map (fun r => (5, (specP ((carryPred i).getD 31)).toNat, r))
                 ++ (if isVector f.opc.toNat || readsMask i || f.gp != 31 then [(6, 0, .mask)] else [])
        vecs := vecsOf L.d 0 f.d ++ vecsOf L.a 1 f.a ++ vecsOf regB 2 (bSpec f.b)
                 ++ (match mem, m.idx with | true, some n => [(3, n.toNat, n.toNat)] | _, _ => []) }

/-- The opcode of an encoded instruction. -/
def opcOf (i : Instr) : Nat := match i.fields with | some f => f.opc.toNat | none => 0

/-- The latency class of a fixed-latency result (05 R87; 07 R130; 09 R169, R180; 21 R355); 0 where the result is
interlocked or there is none. -/
def latency (opc : Nat) : Nat :=
  if opc = 3 ∨ opc = 5 then 2
  else if 0x010 ≤ opc ∧ opc ≤ 0x01B then 2
  else if opc = 0x042 ∨ opc = 0x043 then 4
  else if opc = 0x044 ∨ opc = 0x045 then 20
  else if 0x040 ≤ opc ∧ opc ≤ 0x055 then 2
  else if opc = 0x0C2 ∨ opc = 0x0C3 ∨ opc = 0x0C4 ∨ opc = 0x0C5 ∨ opc = 0x0D8 then 6
  else if 0x0C0 ≤ opc ∧ opc ≤ 0x0D8 then 4
  else if opc = 0x147 ∨ opc = 0x148 then 18
  else if 0x149 ≤ opc ∧ opc ≤ 0x14F then 12
  else if 0x140 ≤ opc ∧ opc ≤ 0x153 then 5
  else if 0x1C0 ≤ opc ∧ opc ≤ 0x1C9 then 10
  else if opc = 0x2F2 then 2
  else 0

/-- The cycles of one pass (05 R86; 07 R130): 2 for 64-bit and pair-writing passes, 4 for quads. -/
def passCycles : Instr → Nat
  | .vadd _ ty .. | .vsub _ ty .. | .vmul _ ty .. | .vmulh _ ty .. | .vadc _ ty .. | .vsbc _ ty .. | .vand _ ty ..
  | .vor _ ty .. | .vxor _ ty .. | .vshl _ ty .. | .vshr _ ty .. | .vsar _ ty .. | .vmin _ ty .. | .vmax _ ty ..
  | .vabs _ ty .. | .vcmp _ ty .. | .vsel _ ty .. | .vmov _ ty .. | .vclz _ ty .. | .vpopc _ ty .. =>
      if ty.wide then 2 else 1
  | .vmadw .. => 2
  | .vld _ ty .. | .vst _ ty .. => (match ty with | .b64 => 2 | .b128 => 4 | _ => 1)
  | .vatom _ ty .. => if ty.wide then 2 else 1
  | _ => 1

/-! ## Outcome of a meaning -/

/-- How an instruction's own effect ends. -/
inductive Done where
  /-- It completed: PC + 12. `passes` is 0 where it wrote nothing (05 R86); of several passes the first has issued. -/
  | fall (s : State) (passes : Nat)
  /-- It completed and transferred control. -/
  | jump (s : State) (target : Word)
  /-- It returns from a trap (23 R370). -/
  | back (s : State) (target : Word) (replay : Bool)
  /-- It raises a trap: cause, %tval, %fmask; `after` makes %tpc the next instruction. -/
  | trap (s : State) (cause : BitVec 9) (tval : Word) (fmask : Mask) (after : Bool)
  /-- It is not complete and its team is not ready. -/
  | wait (s : State) (why : Park)
  /-- A pass has issued, and the instruction is not complete. -/
  | issued (s : State) (why : Park)
  /-- It fails the last check of R101, before any pass. -/
  | check (s : State) (cause : BitVec 9) (tval : Word)
  /-- Its team has left the core, or holds still for good. -/
  | gone (s : State)
  /-- The machine stops. -/
  | stop (r : Fault)

/-! ## Checks (05 R101) -/

def csrPriv (n : Nat) : Priv := if 0xC00 ≤ n then .firmware else if 0x400 ≤ n then .supervisor else .user

def Priv.rank : Priv → Nat
  | .user => 0
  | .supervisor => 1
  | .firmware => 2

/-- Held by the device, not by a team, context or core (23 R373). -/
def csrDeviceHeld (n : Nat) : Bool :=
  n == 0x043 || n == 0x400 || (0x404 ≤ n && n ≤ 0x40B) || n == 0x420 || 0xC00 ≤ n

/-- Check 4, the part that needs the team's width or place (05 R77; 06 R123; 13 R255) (DEDUCED, log 8). -/
def checkOperand (t : Team) : Instr → Option Word
  | .pbitsGet _ _ (.mw k) => if k.toNat < t.w / 32 then none else some (posVal 1 (specMw k).toNat)
  | .pbitsGet _ _ (.p _ k) => if k.toNat < t.w / 32 then none else some (posVal 2 k.toNat)
  | .pbitsPut _ (.mw k) _ => if k.toNat < t.w / 32 then none else some (posVal 0 (specMw k).toNat)
  | .pbitsPut _ (.p _ k) _ => if k.toNat < t.w / 32 then none else some (posVal 2 k.toNat)
  | .mma _ _ a _ => if t.w < 64 then some (posVal 1 (specV a).toNat) else none
  | .mma2 _ d a _ =>
    if t.w < 128 then some (posVal 1 (specV a).toNat)
    else if !(t.gang && t.twin && t.core % 2 == 0) then some (posVal 0 (specAcc d).toNat) else none
  | _ => none

/-- Check 5 (05 R102; 17 R310; 23 R373). -/
def checkPriv (p : Priv) : Instr → Option Word
  | .csrr _ _ c =>
    if (csrPriv c.toNat).rank ≤ p.rank then none else some (BitVec.ofNat 64 (c.toNat * 65536 + 0x300))
  | .csrw _ _ c _ =>
    if (csrPriv c.toNat).rank ≤ p.rank && (!csrDeviceHeld c.toNat || p.rank != 0) then none
    else some (BitVec.ofNat 64 (c.toNat * 65536 + 0x301))
  | .wcsld .. => if p = .firmware then none else some 0x306
  | _ => none

/-- Check 7 (06 R110): every vector register below N. -/
def checkRegs (n : Nat) : List (Nat × Nat × Nat) → Option Word
  | [] => none
  | (pos, x, hi) :: r => if hi < n then checkRegs n r else some (posVal pos x)

/-- Is a fixed-latency result unreadable at this cycle (05 R87)? -/
def Fixed.early (e : Fixed) (now : Nat) (vec : Bool) : Bool :=
  decide (now < e.due + (if e.bcast && vec then 3 else 0))

/-- Check 8 (05 R90, R102) (DEDUCED, log 9). -/
def checkStall (t : Team) (now : Nat) (vec : Bool) : List (Nat × Nat × RegName) → Option Word
  | [] => none
  | (pos, x, r) :: rest =>
    if t.fixed.any (fun e => e.reg.meets r && e.early now vec) then some (posVal pos x) else checkStall t now vec rest

def privOf (s : State) (t : Team) : Priv := match s.ctx? t.ctx with | some c => c.priv | none => .user

/-- The first failing check of R101 that needs the team, checks 4 to 7: cause and %tval. -/
def checkWord (s : State) (t : Team) (i : Instr) (u : Uses) : Option (BitVec 9 × Word) :=
  match checkOperand t i with
  | some v => some (Cause.illegalOperand, v)
  | none =>
    match checkPriv (privOf s t) i with
    | some v => some (Cause.privileged, v)
    | none =>
      match checkRegs t.n u.vecs with
      | some v => some (Cause.regBudget, v)
      | none => none

/-- The sources an instruction reads as values. `gpoll` reads whether its A has landed (21 R355), and `twait` waits for its
tokens itself, once its guard has passed (10 R220). -/
def readSrcs (i : Instr) (u : Uses) : List RegName :=
  (match i with
    | .gpoll .. | .twait .. => u.src.filter (fun (x : Nat × Nat × RegName) => x.1 != 1)
    | _ => u.src).map (fun (x : Nat × Nat × RegName) => x.2.2)

/-- A source that waits for an interlocked result (05 R88), or a destination that an earlier interlocked write has not
reached (05 R89). -/
def pendingReg (t : Team) (i : Instr) (u : Uses) : Option RegName :=
  let all := readSrcs i u ++ u.dst
  match t.sb.find? (fun e => all.contains e.reg) with
  | some e => some e.reg
  | none => none

/-- The first cycle at which the instruction's own result cannot land before an earlier one (05 R89). -/
def landsInOrder (t : Team) (u : Uses) (lat : Nat) : Nat :=
  t.fixed.foldl (fun a e => if u.dst.any e.reg.meets then max a (e.due - lat) else a) 0

/-- The instructions that act element by element, a mask word to a pass (06 R104; 07; 09 R168). -/
def elementwise (opc : Nat) : Bool := 0x0C0 ≤ opc && opc ≤ 0x153

/-- When the pass of each mask word can issue, in cycles after the first: passes go in ascending word order, the words without
an enabled lane left out (05 R86; 06 R104). -/
def wordTimes (cycles : Nat) (en : Mask) : Nat → Nat → List Nat
  | _, 0 => []
  | at_, n + 1 => at_ :: wordTimes cycles (en >>> 32) (if en.setWidth 32 = 0#32 then at_ else at_ + cycles) n

/-- The team's view of its sources at issue (05 R87, R90). A later pass that the core delays for another team is taken at the
earliest cycle at which it could issue (DESIGN CHOICE, log 11). -/
def viewOf (s : State) (t : Team) (i : Instr) (u : Uses) : View :=
  let vec := isVector (opcOf i)
  let late (e : Fixed) : Nat := e.due + (if e.bcast && vec then 3 else 0) - s.clock
  let soon := t.fixed.filter (fun e => e.early s.clock vec && u.src.any (fun x => e.reg.meets x.2.2))
  let early := (soon.map (fun e => (e.reg, e.old, late e))).reverse
  let first : View := { t := t, seed := s.fresh, words := [], early := early }
  { t := t, seed := s.fresh, early := early
    words := match early, i.fields with
      | _ :: _, some f => if elementwise f.opc.toNat then wordTimes (passCycles i) (first.enable (hdrOf f)) 0 (t.w / 32) else []
      | _, _ => [] }

/-! ## Completing an instruction -/

/-- The value a register holds, kept while its successor is in flight. -/
def oldOf (t : Team) : RegName → OldVal
  | .v n => .v (t.vr n)
  | .s n => .s (t.sr n)
  | .p n => .m (t.pr n)
  | .mask => .m t.mask
  | .mw _ => .m t.mask

/-- The core's account of a pass: the run of 04 R69 and the cycles the pass takes (05 R86). The team that issued the previous
pass goes on with its run only within 16 cycles; chosen again after that, it begins a new one. `n` is 0 where nothing is issued
but the cycle. -/
def noteIssue (c : Core) (t : Team) (now cycles n : Nat) (yld : Bool) : Core :=
  { c with busyUntil := now + cycles,
           run := if yld then 0 else if c.lastKey = some t.key ∧ c.run + cycles ≤ 16 then c.run + cycles else cycles,
           issues := c.issues + min n 1,
           lastKey := if yld then none else some t.key,
           yielded := if yld then some t.key else none,
           agedQ := c.agedQ.filter (· != t.slot) }

def hdrIssue (i : Instr) : Nat × Bool :=
  match i.fields with
  | some f => (f.stall.toNat, f.yld == 1)
  | none => (0, false)

def isGcall : Instr → Bool
  | .gcall .. => true
  | _ => false

/-- A pass has issued: the core's account of it, the team's place in the order of issue, and the counter of passes (04 R69;
24 R377). `n` is 0 for an instruction without a pass. -/
def notePass (s : State) (sid cycles n : Nat) (yld : Bool) : State :=
  match s.team? sid with
  | none => s
  | some t =>
    let t1 := { t with issued := (s.order : Int) }
    (pmcCount ((s.setTeam sid t1).onCore t.coreId (fun k => noteIssue k t1 s.clock cycles n yld)) (.core t.coreId) 2 t.ctx n).nextOrder

/-- The same where the team has left its core with the instruction. -/
def noteLeft (s : State) (sid : Nat) (t : Team) (cycles : Nat) (yld : Bool) : State :=
  let s1 := pmcCount s (.core t.coreId) 4 t.ctx 1
  match s1.team? sid with
  | some _ => notePass s1 sid cycles 1 yld
  | none => (pmcCount (s1.onCore t.coreId (fun k => noteIssue k t s.clock cycles 1 yld)) (.core t.coreId) 2 t.ctx 1).nextOrder

/-- The cycles that the passes of an instruction occupy (05 R86): one where it has no pass. -/
def issueCycles (i : Instr) (passes : Nat) : Nat := if passes = 0 then 1 else passCycles i

/-- What issuing an instruction leaves beside its effect: latency entries for its fixed-latency results, STALL, the run,
and the counters, with its later passes still to issue (04 R69; 05 R86-R89; 24 R377). `t0` is the team before the
instruction. -/
def retire (i : Instr) (sid : Nat) (t0 : Team) (u : Uses) (s : State) (passes : Nat) (pc : Word) : State :=
  match s.team? sid with
  | none => { s with current := none }
  | some t =>
    let opc := opcOf i
    let c := issueCycles i passes
    let now := s.clock
    let n := max passes 1
    let lat := latency opc
    let stall := (hdrIssue i).1
    let yld := (hdrIssue i).2 || (opc = 7 && passes != 0)
    let entries : List Fixed := if passes = 0 || lat = 0 then [] else
      u.dst.map (fun r => { reg := r, old := oldOf t0 r, due := now + (n - 1) * c + lat,
                            bcast := match r with | .s _ => true | _ => false })
    let wr : BitVec 64 := if passes = 0 then 0 else
      u.dst.foldl (fun a r => match r with | .s k => a ||| (1#64 <<< k) | _ => a) 0
    let t1 := { t with
      pc := pc, replay := none, pf := none, mem := none, fetched := none, rejects := 0, aged := false, park := .run,
      mwaitHit := false, kept := none,
      more := if n = 1 then none else some { left := n - 1, cycles := c, lat := lat, stall := stall, yld := yld, dst := entries.map (fun e => e.reg) },
      fixed := t.fixed.filter (fun e => decide (now < e.due + 3)) ++ entries,
      callToks := if isGcall i then t.callToks else t.callToks &&& ~~~ wr,
      acqToks := t.acqToks &&& ~~~ wr,
      doneAt := now + n * c,
      readyAt := now + n * c + stall }
    let s1 := pmcCount (s.setTeam sid t1) (.core t.coreId) 4 t.ctx 1
    { (notePass s1 sid c (min passes 1) (yld && n == 1)).tick1 with current := none }

/-- A later pass of an instruction on registers issues; with the last of them its results' latency, STALL and YLD count (04
R69; 05 R86, R87). -/
def nextPass (s : State) (sid : Nat) : State :=
  match s.team? sid with
  | none => s
  | some t =>
    match t.more with
    | none => s
    | some m =>
      let now := s.clock
      if m.left ≤ 1 then
        let own := t.fixed.length - m.dst.length
        let fixed := t.fixed.take own ++ (t.fixed.drop own).map (fun e => { e with due := now + m.lat })
        notePass (s.setTeam sid { t with more := none, doneAt := now + m.cycles, readyAt := now + m.cycles + m.stall,
                                         fixed := fixed }) sid m.cycles 1 m.yld
      else notePass (s.setTeam sid { t with more := some { m with left := m.left - 1 } }) sid m.cycles 1 false

/-- An instruction that raises its trap occupies its issue cycles like any other, and its STALL and YLD count (05 R86; 06
R105). -/
def noteTrap (i : Instr) (sid : Nat) (s : State) : State :=
  let c := passCycles i
  match s.team? sid with
  | some t => notePass (pmcCount (s.setTeam sid { t with readyAt := s.clock + c + (hdrIssue i).1 }) (.core t.coreId) 4 t.ctx 1) sid c 1 (hdrIssue i).2
  | none => s

/-- The outcome of an issued instruction (DESIGN CHOICE, log 5). -/
def finish (i : Instr) (sid : Nat) (t0 : Team) (u : Uses) : Done → Host.Outcome State Fault Refusal
  | .fall s passes => .next (retire i sid t0 u s passes (t0.pc + 12))
  | .jump s target => .next (retire i sid t0 u s 1 target)
  | .back s target replay => .next ((retire i sid t0 u s 1 target).onTeam sid (fun t => returnTrap t target replay))
  | .trap s c v m after =>
      .next { takeTrap (noteTrap i sid s) sid c v m (if after then t0.pc + 12 else t0.pc) with current := none }
  | .wait s w => .next { (s.onTeam sid (fun t => { t with park := w })).tick1 with current := none }
  | .issued s w =>
      .next { (notePass (s.onTeam sid (fun t => ({ t with park := w } : Team))) sid (passCycles i) 1 false).tick1 with current := none }
  | .check s c v => .next { takeTrap s sid c v 0 t0.pc with current := none }
  | .gone s => .next { (noteLeft s sid t0 (passCycles i) (hdrIssue i).2).tick1 with current := none }
  | .stop r => .fault r

/-- A word that fails a check of R101 traps before any pass. -/
def trapWord (s : State) (sid : Nat) (t : Team) (c : BitVec 9) (v : Word) : Host.Outcome State Fault Refusal :=
  .next ({ takeTrap s sid c v 0 t.pc with current := none })

/-- Does an instruction act at all: has it an enabled lane, or does its guard pass (05 R85)? The selections act either way (07
R137, R148). -/
def acts (i : Instr) (vw : View) : Bool :=
  match i, i.fields with
  | .ssel .., _ | _, none => true
  | .vsel .., _ => vw.active != 0
  | _, some f => if isVector f.opc.toNat then vw.enable (hdrOf f) != 0 else vw.guard (hdrOf f)

/-- ISSUE ONE INSTRUCTION of the selected team, or the next pass of one on memory: a pending trap is taken first (23 R358);
then the checks of R101, the scoreboard and the order of writes (05 R88, R89), the latency check of the first pass (R90);
then the instruction's own effect (DESIGN CHOICE, log 5). -/
def issue (i : Instr) (s : State) (body : Nat → View → State → Done) : Host.Outcome State Fault Refusal :=
  match s.current with
  | none => .fault .noIssuingTeam
  | some sid =>
    match s.team? sid with
    | none => .fault .noIssuingTeam
    | some t =>
      if trapDue t then .next { takePending s sid with current := none }
      else
        let u := uses i
        match checkWord s t i u with
        | some (c, v) => trapWord s sid t c v
        | none =>
          match pendingReg t i u with
          | some r => finish i sid t u (.wait s (.result r))
          | none =>
            if s.clock < landsInOrder t u (latency (opcOf i)) then
              finish i sid t u (.wait (s.setTeam sid { t with readyAt := landsInOrder t u (latency (opcOf i)) }) .run)
            else
              match (if t.sbchk && t.mem.isNone then checkStall t s.clock (isVector (opcOf i)) u.src else none) with
              | some v => trapWord s sid t Cause.stallShort v
              | none =>
                let s1 := if acts i (viewOf s t i u) then readTokens s sid t (readSrcs i u) else s
                let t1 := (s1.team? sid).getD t
                finish i sid t1 u (body sid (viewOf s1 t1 i u) s1)

/-- A scalar-side instruction: its effect when the guard passes, else its issue cycle alone (05 R85, R86). -/
def issueScalar (i : Instr) (h : Hdr) (s : State) (body : Nat → View → State → Done) :
    Host.Outcome State Fault Refusal :=
  issue i s (fun sid vw s => if vw.guard h then body sid vw s else .fall s 0)

/-- Put a team's new registers back and complete in `passes` passes. -/
def Done.of (s : State) (sid : Nat) (t : Team) (passes : Nat) : Done := .fall (s.setTeam sid t) passes

end Sys2Proof.Machine
end

