-- ==== Sys2Proof/Machine/Num.lean ====
section
/-! DEFINITION. Numbers (08): integers under a type, the floating-point formats, rounding, and the exception events of a
result. A finite value is held exactly as `(-1)^neg × m × 2^e`. -/

namespace Sys2Proof.Machine

/-! ## Integers (07 R124, R125) -/

/-- The exact value of `w` bits under a type. -/
def extT (signed : Bool) (w : Nat) (x : Nat) : Int :=
  let y := x % 2 ^ w
  if signed && decide (2 ^ (w - 1) ≤ y) then (y : Int) - 2 ^ w else y

/-- Reduce an exact integer to `w` bits. -/
def wrapT (w : Nat) (x : Int) : Nat := (x % (2 ^ w : Nat)).toNat

/-- The range of a type. -/
def minT (signed : Bool) (w : Nat) : Int := if signed then -(2 ^ (w - 1) : Nat) else 0
def maxT (signed : Bool) (w : Nat) : Int := if signed then (2 ^ (w - 1) : Nat) - 1 else (2 ^ w : Nat) - 1

/-- Clamp to a type's range; says whether the value changed. -/
def satT (signed : Bool) (w : Nat) (x : Int) : Int × Bool :=
  if x < minT signed w then (minT signed w, true)
  else if maxT signed w < x then (maxT signed w, true)
  else (x, false)

/-- Narrow by SAT or by wrapping: the bits, and whether a clamp changed the value (R125). -/
def narrowT (sat signed : Bool) (w : Nat) (x : Int) : Nat × Bool :=
  if sat then (wrapT w (satT signed w x).1, (satT signed w x).2) else (wrapT w x, false)

/-- Division truncating toward zero, and its remainder (07 R132); the third part is the event class raised. -/
def divT (signed : Bool) (w : Nat) (a b : Int) : Int × Int × Option Nat :=
  if b = 0 then ((if !signed then (2 ^ w : Nat) - 1 else if a < 0 then -1 else 1), a, some 1)
  else if signed && a == -(2 ^ (w - 1) : Nat) && b == -1 then (-(2 ^ (w - 1) : Nat), 0, some 2)
  else (Int.tdiv a b, Int.tmod a b, none)

/-- A left shift by an unsigned count, exact (07 R134); a count past every width is as good as `2 * w`. -/
def shlT (w : Nat) (a : Int) (c : Nat) : Int := a * (2 ^ (min c (2 * w)) : Nat)
/-- A right shift rounds toward minus infinity (07 R134). -/
def shrT (w : Nat) (a : Int) (c : Nat) : Int := a / (2 ^ (min c (2 * w)) : Nat)

/-- A comparison of exact values (05 R94). -/
def Cmp.rel : Cmp → Int → Int → Bool
  | .eq, a, b => a == b
  | .ne, a, b => a != b
  | .lt, a, b => decide (a < b)
  | .le, a, b => decide (a ≤ b)
  | .gt, a, b => decide (b < a)
  | .ge, a, b => decide (b ≤ a)

/-- A bit field POS, LEN of a `w`-bit value (07 R139, R150): its bits and its length. -/
def bitField (w x pos len : Nat) : Nat × Nat :=
  let n := min (pos + len) w - pos
  ((x / 2 ^ pos) % 2 ^ n, n)

/-! ## Floating-point formats (08 R152) -/

/-- A format with an all-ones exponent for infinities and NaNs: f32, bf16, f16, E5M2. -/
structure Fmt where
  eb : Nat                      -- exponent bits
  p  : Nat                      -- fraction bits
  deriving DecidableEq, Repr

def f32F : Fmt := { eb := 8, p := 23 }
def bf16F : Fmt := { eb := 8, p := 7 }
def f16F : Fmt := { eb := 5, p := 10 }
def e5m2F : Fmt := { eb := 5, p := 2 }

def Fmt.width (f : Fmt) : Nat := 1 + f.eb + f.p
def Fmt.bias (f : Fmt) : Int := (2 ^ (f.eb - 1) : Nat) - 1
/-- The exponent of the smallest normal. -/
def Fmt.emin (f : Fmt) : Int := 1 - f.bias
/-- The bits of +infinity. -/
def Fmt.inf (f : Fmt) : Nat := (2 ^ f.eb - 1) * 2 ^ f.p
def Fmt.sign (f : Fmt) : Nat := 2 ^ (f.eb + f.p)
/-- The canonical NaN (08 R153). -/
def Fmt.nan (f : Fmt) : Nat := f.inf + 2 ^ (f.p - 1)

/-- A value read. -/
inductive FVal where
  | nan (signalling : Bool)
  | inf (neg : Bool)
  | fin (neg : Bool) (m : Nat) (e : Int)
  deriving DecidableEq, Repr

/-- The value of a code (08 R152, R153) (DEDUCED, log 18). -/
def Fmt.val (f : Fmt) (x : Nat) : FVal :=
  let neg := decide (f.sign ≤ x % (2 * f.sign))
  let mag := x % f.sign
  let e := mag / 2 ^ f.p
  let fr := mag % 2 ^ f.p
  if e = 2 ^ f.eb - 1 then
    if fr = 0 then .inf neg else .nan (decide (fr < 2 ^ (f.p - 1)))
  else if e = 0 then .fin neg fr (f.emin - f.p)
  else .fin neg (2 ^ f.p + fr) (f.emin - f.p + (e - 1 : Nat))

def FVal.isNan : FVal → Bool
  | .nan _ => true
  | _ => false
def FVal.isInf : FVal → Bool
  | .inf _ => true
  | _ => false
def FVal.isZero : FVal → Bool
  | .fin _ m _ => m == 0
  | _ => false
def FVal.neg : FVal → Bool
  | .nan _ => false
  | .inf n => n
  | .fin n _ _ => n
/-- The NaN encodings of the 8-bit float formats are quiet (DEDUCED, log 18). -/
def FVal.snan : FVal → Bool
  | .nan s => s
  | _ => false

/-! ## Events (08 R157) -/

/-- Event classes raised, class k at bit k. -/
abbrev Events := BitVec 8
def evInvalid : Events := 1
def evDivZero : Events := 2
def evOverflow : Events := 4
def evUnderflow : Events := 8
def evInexact : Events := 16
def evNan : Events := 32
def evInf : Events := 64
def evSubnormal : Events := 128

def evIf (b : Bool) (e : Events) : Events := if b then e else 0

/-- A source that is a non-zero subnormal (class 7). -/
def Fmt.subnormal (f : Fmt) (x : Nat) : Bool := decide (0 < x % f.sign ∧ x % f.sign < 2 ^ f.p)

/-- What the sources alone raise: subnormal-input, and invalid for a signalling NaN. -/
def Fmt.srcEvents (f : Fmt) (x : Nat) : Events :=
  evIf (f.subnormal x) evSubnormal ||| evIf (f.val x).snan evInvalid

/-- A result: its bits and the classes it raises. -/
abbrev FOut := Nat × Events

def Fmt.signed (f : Fmt) (neg : Bool) (mag : Nat) : Nat := if neg then f.sign + mag else mag

/-- The canonical NaN with the classes given. -/
def Fmt.nanOut (f : Fmt) (e : Events) : FOut := (f.nan, evNan ||| e)
def Fmt.zeroOut (f : Fmt) (neg : Bool) : FOut := (f.signed neg 0, 0)
/-- An infinity; `made` when no source was infinite (class 6). -/
def Fmt.infOut (f : Fmt) (neg made : Bool) : FOut := (f.signed neg f.inf, evIf made evInf)

/-! ## Rounding (08 R155) -/

/-- Is a magnitude with a remainder rounded up? `half` compares the remainder with one half: 0 below, 1 equal, 2 above. -/
def roundsUp (r : Rnd) (neg : Bool) (odd : Bool) (half : Nat) (some : Bool) : Bool :=
  match r with
  | .rne => half == 2 || (half == 1 && odd)
  | .rz => false
  | .ru => some && !neg
  | .rd => some && neg

/-- `m × 2^e` (a little more when `sticky`) in units of `2^q`: the rounded count and whether it is exact. -/
def roundUnits (r : Rnd) (neg : Bool) (m : Nat) (e : Int) (sticky : Bool) (q : Int) : Nat × Bool :=
  if q ≤ e then (m * 2 ^ (e - q).toNat, !sticky)
  else
    let d := (q - e).toNat
    let k := m / 2 ^ d
    let rem := m % 2 ^ d
    let h := 2 ^ (d - 1)
    let half := if rem < h then 0 else if rem = h && !sticky then 1 else 2
    let part := rem != 0 || sticky
    (if roundsUp r neg (k % 2 == 1) half part then k + 1 else k, !part)

/-- Round a non-zero magnitude to a format: the bits, and the overflow, underflow, inexact and infinity-produced events.
`sticky` says the magnitude lies strictly between `m` and `m + 1` units; then `m` has at least three bits more than the
format. -/
def Fmt.round (f : Fmt) (r : Rnd) (neg : Bool) (m : Nat) (e : Int) (sticky : Bool) : FOut :=
  let top : Int := (Nat.log2 m : Int) + e
  let sub : Int := f.emin - f.p
  let q := max (top - f.p) sub
  let (k, exact) := roundUnits r neg m e sticky q
  let bits := (q - sub).toNat * 2 ^ f.p + k
  let (k2, _) := roundUnits r neg m e sticky (top - f.p)
  let tiny := decide (top < f.emin - 1 ∨ (top = f.emin - 1 ∧ k2 < 2 ^ (f.p + 1)))
  if f.inf ≤ bits then
    let toInf := match r with
      | .rne => true
      | .rz => false
      | .ru => !neg
      | .rd => neg
    (f.signed neg (if toInf then f.inf else f.inf - 1), evOverflow ||| evInexact ||| evIf toInf evInf)
  else (f.signed neg bits, evIf (!exact) evInexact ||| evIf (tiny && !exact) evUnderflow)

/-- Round an exact signed dyadic `x × 2^e`; a zero takes the sign given. -/
def Fmt.roundInt (f : Fmt) (r : Rnd) (x : Int) (e : Int) (zeroNeg : Bool) : FOut :=
  if x = 0 then f.zeroOut zeroNeg else f.round r (decide (x < 0)) x.natAbs e false

/-- The signed value of a finite number in units of `2^q`, for `q` at most its exponent. -/
def inUnits (neg : Bool) (m : Nat) (e q : Int) : Int :=
  let x : Int := m * 2 ^ (e - q).toNat
  if neg then -x else x

/-- The sign of an exact zero sum (R155). -/
def zeroSum (r : Rnd) (n1 n2 : Bool) : Bool := if n1 == n2 then n1 else r == .rd

/-! ## Operations -/

/-- a + b of values (R170), rounded once. -/
def Fmt.addV (f : Fmt) (r : Rnd) (a b : FVal) : FOut :=
  match a, b with
  | .nan _, _ => f.nanOut 0
  | _, .nan _ => f.nanOut 0
  | .inf n, .inf k => if n == k then f.infOut n false else f.nanOut evInvalid
  | .inf n, .fin .. => f.infOut n false
  | .fin .., .inf n => f.infOut n false
  | .fin n1 m1 e1, .fin n2 m2 e2 =>
    let q := min e1 e2
    f.roundInt r (inUnits n1 m1 e1 q + inUnits n2 m2 e2 q) q (zeroSum r n1 n2)

/-- The exact product of values; `none` for 0 × infinity. -/
def mulV (a b : FVal) : Option FVal :=
  match a, b with
  | .nan s, _ => some (.nan s)
  | _, .nan s => some (.nan s)
  | .inf n, .inf k => some (.inf (n != k))
  | .inf n, .fin k m _ => if m = 0 then none else some (.inf (n != k))
  | .fin k m _, .inf n => if m = 0 then none else some (.inf (n != k))
  | .fin n1 m1 e1, .fin n2 m2 e2 => some (.fin (n1 != n2) (m1 * m2) (e1 + e2))

def Fmt.mulOut (f : Fmt) (r : Rnd) (a b : FVal) : FOut :=
  match mulV a b with
  | none => f.nanOut evInvalid
  | some (.nan _) => f.nanOut 0
  | some (.inf n) => f.infOut n false
  | some (.fin n m e) => if m = 0 then f.zeroOut n else f.round r n m e false

/-- `a × b + c`, rounded once (R170) (DEDUCED, log 16). -/
def Fmt.fmaOut (f : Fmt) (r : Rnd) (a b c : FVal) : FOut :=
  match mulV a b with
  | none => f.nanOut evInvalid
  | some p => f.addV r p c

/-- An integer square root by bits, `2^k` the highest bit tried. -/
def isqrtGo (n : Nat) : Nat → Nat → Nat
  | 0, x => x
  | k + 1, x => if (x + 2 ^ k) * (x + 2 ^ k) ≤ n then isqrtGo n k (x + 2 ^ k) else isqrtGo n k x

def isqrt (n : Nat) : Nat := isqrtGo n (Nat.log2 n / 2 + 1) 0

def Fmt.divOut (f : Fmt) (r : Rnd) (a b : FVal) : FOut :=
  match a, b with
  | .nan _, _ => f.nanOut 0
  | _, .nan _ => f.nanOut 0
  | .inf _, .inf _ => f.nanOut evInvalid
  | .inf n, .fin k _ _ => f.infOut (n != k) false
  | .fin n _ _, .inf k => f.zeroOut (n != k)
  | .fin n1 m1 e1, .fin n2 m2 e2 =>
    let n := n1 != n2
    if m2 = 0 then
      if m1 = 0 then f.nanOut evInvalid else (f.signed n f.inf, evDivZero ||| evInf)
    else if m1 = 0 then f.zeroOut n
    else
      let k := f.p + 4 + Nat.log2 m2
      let x := m1 * 2 ^ k
      f.round r n (x / m2) (e1 - e2 - k) (x % m2 != 0)

def Fmt.sqrtOut (f : Fmt) (r : Rnd) (a : FVal) : FOut :=
  match a with
  | .nan _ => f.nanOut 0
  | .inf n => if n then f.nanOut evInvalid else f.infOut false false
  | .fin n m e =>
    if m = 0 then f.zeroOut n
    else if n then f.nanOut evInvalid
    else
      let k := 2 * (f.p + 4) + (if e % 2 = 0 then 0 else 1)
      let x := m * 2 ^ k
      let y := isqrt x
      f.round r false y ((e - k) / 2) (y * y != x)

/-- The lesser in the order where -0 is below +0 (R171). -/
def fltKey (f : Fmt) (x : Nat) : Int :=
  let mag : Int := (x % f.sign : Nat)
  if f.sign ≤ x % (2 * f.sign) then -mag - 1 else mag

def Fmt.minmax (f : Fmt) (isMax : Bool) (x y : Nat) : FOut :=
  let a := f.val x
  let b := f.val y
  if a.isNan && b.isNan then f.nanOut 0
  else if a.isNan then (y, 0)
  else if b.isNan then (x, 0)
  else ((if (decide (fltKey f x ≤ fltKey f y)) != isMax then x else y), 0)

/-- Comparison of non-NaN values, -0 equal to +0: -1, 0 or 1. -/
def Fmt.order (f : Fmt) (x y : Nat) : Int :=
  let k (z : Nat) : Int := if z % f.sign = 0 then 0 else if f.sign ≤ z % (2 * f.sign) then -(z % f.sign : Nat) else (z % f.sign : Nat)
  if k x < k y then -1 else if k x = k y then 0 else 1

/-- The conditions of `vfcmp` and the invalid event (R172). -/
def Fmt.cmpOut (f : Fmt) (c : FCmp) (x y : Nat) : Bool × Events :=
  let a := f.val x
  let b := f.val y
  let un := a.isNan || b.isNan
  let o := f.order x y
  let sn := evIf (a.snan || b.snan) evInvalid
  let any := evIf un evInvalid
  match c with
  | .eq => (!un && o == 0, sn)
  | .ne => (un || o != 0, sn)
  | .lt => (!un && decide (o < 0), any)
  | .le => (!un && decide (o ≤ 0), any)
  | .gt => (!un && decide (0 < o), any)
  | .ge => (!un && decide (0 ≤ o), any)
  | .uno => (un, sn)
  | .ord => (!un, sn)

/-- The integral value that RND selects (R177). -/
def Fmt.integral (f : Fmt) (r : Rnd) (x : Nat) : FOut :=
  match f.val x with
  | .nan _ => f.nanOut 0
  | .inf _ => (x, 0)
  | .fin n m e =>
    if m = 0 || decide (0 ≤ e) then (x, 0)
    else
      let (k, exact) := roundUnits r n m e false 0
      if exact then (x, 0)
      else if k = 0 then (f.signed n 0, evInexact)
      else ((f.round .rne n k 0 false).1, evInexact)

/-- One bit of ten for the class of a value (R178). -/
def Fmt.classBit (f : Fmt) (x : Nat) : Nat :=
  match f.val x with
  | .nan s => if s then 8 else 9
  | .inf n => if n then 0 else 7
  | .fin n m _ =>
    if m = 0 then (if n then 3 else 4)
    else if f.subnormal x then (if n then 2 else 5)
    else (if n then 1 else 6)

/-- `a × 2^n` (R179); past 2^1000 the scale makes no further difference. -/
def Fmt.scaleOut (f : Fmt) (r : Rnd) (x : Nat) (n : Int) : FOut :=
  match f.val x with
  | .nan _ => f.nanOut 0
  | .inf _ => (x, 0)
  | .fin neg m e => if m = 0 then (x, 0) else f.round r neg m (e + max (-1000) (min 1000 n)) false

/-- A float to an integer of `w` bits (08 R156). -/
def Fmt.toIntOut (f : Fmt) (r : Rnd) (signed : Bool) (w : Nat) (x : Nat) : Nat × Events :=
  match f.val x with
  | .nan _ => (0, evInvalid)
  | .inf n => (wrapT w (if n then minT signed w else maxT signed w), evInvalid)
  | .fin n m e =>
    let (k, exact) := roundUnits r n m e false 0
    let v : Int := if n then -(k : Int) else k
    let (c, clamped) := satT signed w v
    (wrapT w c, if clamped then evInvalid else evIf (!exact) evInexact)

/-- An integer to a float (08 R156): inexact alone is counted, and overflow where the format has no such value. -/
def Fmt.ofInt (f : Fmt) (r : Rnd) (x : Int) : FOut := f.roundInt r x 0 false

/-- A float to another format (09 R176). -/
def Fmt.convert (f g : Fmt) (r : Rnd) (x : Nat) : FOut :=
  match f.val x with
  | .nan _ => g.nanOut 0
  | .inf n => g.infOut n false
  | .fin n m e => if m = 0 then g.zeroOut n else g.round r n m e false

/-! ## E4M3 (08 R152, R155) -/

/-- The value of an E4M3 code. -/
def e4m3Val (x : Nat) : FVal :=
  let neg := decide (128 ≤ x % 256)
  let mag := x % 128
  if mag = 127 then .nan false
  else if mag < 8 then .fin neg mag (-9)
  else .fin neg (8 + mag % 8) (-9 + (mag / 8 - 1 : Nat))

/-- Rounding into E4M3 with RNE, clamping at 448 (08 R155). -/
def e4m3Round (v : FVal) : FOut :=
  match v with
  | .nan _ => (0x7F, evNan)
  | .inf _ => (0x7F, evNan)
  | .fin n m e =>
    let s := if n then 128 else 0
    if m = 0 then (s, 0)
    else
      let top : Int := (Nat.log2 m : Int) + e
      let q := max (top - 3) (-9)
      let (k, exact) := roundUnits .rne n m e false q
      let bits := (q + 9).toNat * 8 + k
      let (k2, _) := roundUnits .rne n m e false (top - 3)
      let tiny := decide (top < -7 ∨ (top = -7 ∧ k2 < 16))
      if 127 ≤ bits then (s + 126, evOverflow ||| evInexact)
      else (s + bits, evIf (!exact) evInexact ||| evIf (tiny && !exact) evUnderflow)

end Sys2Proof.Machine
end

