-- ==== Sys2Proof/Machine/Operands.lean ====
section
/-! DEFINITION. Reading operands in every form (05 R77-R84; 06 R112; 07 R127, R128), result tags and the shape budget (06
R104-R111), and writing vector, predicate and scalar results. -/

namespace Sys2Proof.Machine

/-! ## Vector sources -/

/-- Lane `l` of a 32-bit source. -/
def View.src (vw : View) (s : State) (x : Src) (l : Nat) : Lane :=
  match x with
  | .v n => vw.lane n.toNat l
  | .s n => (vw.sAt n.toNat l).setWidth 32
  | .sp .lane => BitVec.ofNat 32 l
  | .sp r => (specialVal s vw.t r).setWidth 32

def View.srcB (vw : View) (s : State) (x : SrcB) (l : Nat) : Lane :=
  match x with
  | .r a => vw.src s a l
  | .imm k => k

/-- Lane `l` of a 64-bit source: a pair, low member first, or all 64 bits of a scalar (07 R128). -/
def View.src64 (vw : View) (s : State) (x : Src) (l : Nat) : Word :=
  match x with
  | .v n => vw.lane (n.toNat + 1) l ++ vw.lane n.toNat l
  | .s n => vw.sAt n.toNat l
  | .sp r => specialVal s vw.t r

/-- An immediate as 64 bits: sign-extended for a signed type (R82). -/
def imm64 (signed : Bool) (k : BitVec 32) : Word := if signed then k.signExtend 64 else k.setWidth 64

def View.srcB64 (vw : View) (s : State) (signed : Bool) (x : SrcB) (l : Nat) : Word :=
  match x with
  | .r a => vw.src64 s a l
  | .imm k => imm64 signed k

/-- Lane `l` of a source of either width, as a number. -/
def View.num (vw : View) (s : State) (wide : Bool) (x : Src) (l : Nat) : Nat :=
  if wide then (vw.src64 s x l).toNat else (vw.src s x l).toNat
def View.numB (vw : View) (s : State) (wide signed : Bool) (x : SrcB) (l : Nat) : Nat :=
  if wide then (vw.srcB64 s signed x l).toNat else (vw.srcB s x l).toNat

/-! ## Scalar sources -/

def View.ssrc (vw : View) (s : State) (x : Src) : Word :=
  match x with
  | .v _ => 0
  | .s n => vw.sr n.toNat
  | .sp r => specialVal s vw.t r

def View.ssrcB (vw : View) (s : State) (signed : Bool) (x : SrcB) : Word :=
  match x with
  | .r a => vw.ssrc s a
  | .imm k => imm64 signed k

/-- The immediate of `nmopen`'s group and the 32-bit immediates of 17 and 19 are read whole (DEDUCED, log 104). -/
def View.si (vw : View) (x : SI) : Word :=
  match x with
  | .s n => vw.sr n.toNat
  | .imm k => k.setWidth 64

/-! ## Memory addresses (05 R83) -/

/-- The address of lane `l`. -/
def View.addr (vw : View) (m : MemOp) (l : Nat) : Word :=
  vw.sAt m.base.toNat l + (match m.idx with | some n => (vw.lane n.toNat l).setWidth 64 | none => 0)
    + m.off.signExtend 64

/-! ## Shapes of sources -/

/-- A register's shape as a source; an early read of an affine register may take the old affine value (R90). -/
def View.shapeV (vw : View) (n : Nat) : VReg :=
  match vw.t.vr n with
  | .a b st =>
    freeOld vw.seed n 0 (.a b st) ((vw.olds (.v n) 0).filterMap (fun o => match o with
      | .v (.u x) => some (.a x 0)
      | .v (.a x y) => some (.a x y)
      | _ => none))
  | .u _ => .u (vw.lane n 0)
  | .g ls => .g ls

/-- A source's shape (06 R106): scalars, immediates and special registers other than %lane are U. -/
def View.shape (vw : View) (s : State) (x : Src) : VReg :=
  match x with
  | .v n => vw.shapeV n.toNat
  | .sp .lane => .a 0 1
  | y => .u (vw.src s y 0)

def View.shapeB (vw : View) (s : State) (x : SrcB) : VReg :=
  match x with
  | .r a => vw.shape s a
  | .imm k => .u k

/-- The tags of a source's registers; a pair has two. -/
def View.tags (vw : View) (s : State) (wide : Bool) (x : Src) : List Tag :=
  match x with
  | .v n => if wide then [(vw.t.vr n.toNat).tag, (vw.t.vr (n.toNat + 1)).tag] else [(vw.t.vr n.toNat).tag]
  | y => [(vw.shape s y).tag]

def View.tagsB (vw : View) (s : State) (wide : Bool) (x : SrcB) : List Tag :=
  match x with
  | .r a => vw.tags s wide a
  | .imm _ => [.u]

/-- A predicate as a source of tags: U when its bits agree in every lane (07 R129). -/
def predTag (t : Team) (m : Mask) : Tag := if m &&& t.lanes = 0 ∨ m &&& t.lanes = t.lanes then .u else .g

def allU (ts : List Tag) : Bool := ts.all (· == .u)

/-! ## Passes (06 R104) -/

/-- The mask words in which an enable is non-zero. -/
def passWords (t : Team) (en : Mask) : List Nat := (List.range (t.w / 32)).filter (fun k => maskWord en k != 0)

/-- Passes of a vector instruction: one for a U or A result under a full enable, else one for each word. -/
def passCount (t : Team) (en : Mask) (single : Bool) : Nat :=
  if en = 0 then 0 else if single && en == t.lanes then 1 else (passWords t en).length

/-! ## Vector results -/

/-- What one lane gives: the value (32 or 64 bits), the event classes, and a carry. -/
structure LaneRes where
  v  : Nat
  ev : Events
  c  : Bool
  deriving DecidableEq, Repr

def LaneRes.none : LaneRes := { v := 0, ev := 0, c := false }

/-- Events of an operation by class: how many lanes raised each (08 R158). -/
def classCounts (evs : List Events) : List Nat := (List.range 8).map (fun k => (evs.filter (fun e => e.getLsbD k)).length)

/-- The number of registers tagged G after the writes given (06 R111). -/
def gAfter (t : Team) (ds : List (Nat × Tag)) : Nat :=
  let gone := (ds.filter (fun d => (t.vr d.1).tag == .g)).length
  let come := (ds.filter (fun d => d.2 == .g)).length
  t.gCount - gone + come

/-- The check of the shape budget: replays make none (06 R107, R111). A register that is G already costs nothing more. -/
def overBudget (t : Team) (ds : List (Nat × Tag)) : Bool :=
  t.replay.isNone && decide (max t.g t.gCount < gAfter t ds)

/-- One destination register: U, A or one value per lane, unwritten lanes expanded (06 R106). -/
def newReg (old : VReg) (w : Nat) (en : Mask) (tag : Tag) (aff : Lane × Lane) (f : Nat → Lane) : VReg :=
  match tag with
  | .u => .u (f 0)
  | .a => .a aff.1 aff.2
  | .g => .g ((List.range w).map (fun l => if en.getLsbD l then f l else old.lane l))

/-- The result tag of R108, rows 1 to 5 and 8. -/
def resultTag (full : Bool) (srcs : List Tag) (aff : Option (Lane × Lane)) : Tag :=
  if !full then .g else if allU srcs then .u else if aff.isSome then .a else .g

/-- A vector result: its width, its sources' tags, the affine result where rows 4 or 5 give one, and each lane's result. -/
structure VOut where
  wide : Bool
  srcs : List Tag
  aff  : Option (Lane × Lane)
  f    : Nat → LaneRes

/-- What a vector instruction leaves: the team, its passes, the lane results of its enable. -/
structure VDone where
  t      : Team
  passes : Nat
  en     : Mask
  res    : List LaneRes           -- by lane; one entry alone for a U result under a full enable
  tag    : Tag

/-- Results by lane: every enabled lane, or lane 0 alone where all lanes are equal. -/
def laneResults (w : Nat) (en : Mask) (uniform : Bool) (f : Nat → LaneRes) : List LaneRes :=
  if uniform then [f 0] else (List.range w).map (fun l => if en.getLsbD l then f l else LaneRes.none)

/-- Write a vector result under its enable; `none` where the shape budget forbids it. -/
def vectorWrite (t : Team) (en : Mask) (d : Nat) (o : VOut) : Option VDone :=
  let full := en == t.lanes
  let tag := resultTag full o.srcs o.aff
  let ds := if o.wide then [(d, tag), (d + 1, tag)] else [(d, tag)]
  if overBudget t ds then none
  else
    let rs := laneResults t.w en (tag == .u) o.f
    let get (l : Nat) : Nat := (rs.getD l LaneRes.none).v
    let lo := newReg (t.vr d) t.w en tag (o.aff.getD (0, 0)) (fun l => BitVec.ofNat 32 (get l))
    let t1 := t.setV d lo
    let t2 := if o.wide then
        t1.setV (d + 1) (newReg (t.vr (d + 1)) t.w en tag (0, 0) (fun l => BitVec.ofNat 32 (get l / 2 ^ 32)))
      else t1
    some { t := t2, passes := passCount t en (tag != .g), en := en, res := rs, tag := tag }

/-- The event counts of a vector result: a U result stands for every lane of its enable (08 R158). -/
def VDone.counts (d : VDone) : List Nat :=
  let c := classCounts (d.res.map LaneRes.ev)
  if d.tag == .u then c.map (· * popCount d.en) else c

/-- The trap of the shape budget, before any pass: %tval holds the destination's specifier (05 R102; 06 R111). -/
def budgetTrap (s : State) (d : VIdx) : Done := .check s Cause.shapeBudget ((specV d).setWidth 64)

/-- A predicate result: the lanes of the enable, the others kept (06 R113). -/
def predWrite (t : Team) (en : Mask) (d : Nat) (f : Nat → Bool) : Team :=
  t.setP d ((t.pr d &&& ~~~ en) ||| maskOf t.w (fun l => en.getLsbD l && f l))

/-- Every lane of a predicate. -/
def predFill (t : Team) (d : Nat) (b : Bool) : Team := t.setP d (if b then t.lanes else 0)

/-- A scalar result of a 32- or 64-bit type (07 R124). -/
def extS (signed wide : Bool) (x : Nat) : Word :=
  if wide then BitVec.ofNat 64 x
  else if signed then (BitVec.ofNat 32 x).signExtend 64 else (BitVec.ofNat 32 x).setWidth 64

/-- Complete without having written the register the instruction may write. -/
def noWrite (s : State) (t : Team) : Done :=
  .fall (pmcCount (s.onCore t.coreId (fun c => { c with issues := c.issues + 1 })) (.core t.coreId) 2 t.ctx 1) 0

end Sys2Proof.Machine
end

