-- ==== Sys2Proof/Machine/Phys.lean ====
section
/-! DEFINITION. Memory below the caches: physical addresses and poison (11 R222, R232), IO-only windows (R236), peer
memory (R237), the page-table walk and the translation units (R221-R225, R230), the page requests (R226), and the home
slices (10 R198-R201). -/

namespace Sys2Proof.Machine

/-- Why an access cannot be made: a page the host may serve (WRITE_PROTECT when `prot`), or a cause. -/
inductive Fail where
  | absent (prot : Bool)
  | hard (c : BitVec 9)
  deriving DecidableEq, Repr

/-- The kind of an access (11 R225). -/
inductive Kind where
  | read | write | exec
  deriving DecidableEq, Repr

/-! ## Physical memory -/

/-- The device address of a physical address that a committed HDM decoder holds (11 R222). The firmware context's walks
give device addresses at once, as keys (24 R384) (DESIGN CHOICE, log 27). -/
def dpaOf (s : State) (pa : Nat) : Option Nat :=
  if Config.deviceKey ≤ pa then some (pa - Config.deviceKey) else
  match s.hdm0 with
  | some b =>
    if b ≤ pa ∧ pa < b + 2 ^ 39 then some (pa - b)
    else match s.hdm1 with
      | some c => if c ≤ pa ∧ pa < c + 2 ^ 39 - 2 ^ 26 then some (pa - c + 2 ^ 39) else none
      | none => none
  | none =>
    match s.hdm1 with
    | some c => if c ≤ pa ∧ pa < c + 2 ^ 39 - 2 ^ 26 then some (pa - c + 2 ^ 39) else none
    | none => none

/-- The key of a physical address in the memory: device memory by its device address, all else by itself (R222)
(DESIGN CHOICE, log 27). -/
def physKey (s : State) (pa : Nat) : Nat :=
  match dpaOf s pa with
  | some d => Config.deviceKey + d
  | none => pa

/-- The channel of a device address: its stack and 256-byte block (R222). -/
def channelOf (dpa : Nat) : Nat := (dpa / 2 ^ 36) * 32 + (dpa / 256) % 32

/-- Host memory inside an IO-only window (R236). -/
def inIow (s : State) (pa : Nat) : Bool :=
  (dpaOf s pa).isNone && (List.range 8).any (fun k =>
    let v := Tab.get (0 : Word) s.hostIow k
    let n := (v.extractLsb' 58 6).toNat
    decide (12 ≤ n ∧ n ≤ 51) && decide ((v.extractLsb' 0 52).toNat / 2 ^ n = pa / 2 ^ n))

/-- Poison is kept per 64-byte line of physical memory, named by its key divided by 64 (DESIGN CHOICE, log 32). -/
def poisonedKey (s : State) (key : Nat) : Bool := s.poison.contains (key / 64)

/-- A line of memory by the key of its first byte (DESIGN CHOICE, log 32). -/
def keyLine (s : State) (key : Nat) : LineData := lineOf (memRead s.mem key 64)

/-- Write the bytes of a mask to a line of memory; a full line clears poison, and the host's copy of a device line is
recalled first (R232, R234). -/
def keyWrite (s : State) (key : Nat) (mask : ByteMask) (data : LineData) : State :=
  { s with
    mem := (setBits mask).foldl (fun m i => memSet m (key + i) (lineByte data i)) s.mem
    poison := if mask = BitVec.allOnes 64 then s.poison.filter (· != key / 64) else s.poison
    hostHeld := s.hostHeld.filter (· != key / 64) }

/-! ## Home lines -/

/-- The hash of 11 R221 and 10 R199. -/
def hashTo (x n : Nat) : Nat := (x * hashConst % 2 ^ 64) / 2 ^ 32 * n / 2 ^ 32
/-- The channel unit of a virtual address (R221). -/
def unitOf (va : Nat) : Nat := hashTo (va / 4096) 512
/-- The home slice of a virtual line (10 R199). -/
def homeOf (line : Nat) : Nat := hashTo line 768

/-- The host port of the base die on which a line's home lies (01 R10): a line of host memory is reached by it and listed in its
directory (DESIGN CHOICE, log 126). -/
def portOfHome (line : Nat) : Nat := homeOf line / 384

/-- Host memory reached over CXL.io: inside an IO-only window (R236), or through a port whose link is CXL.io alone (R233) (DEDUCED,
log 119). -/
def overIo (s : State) (line pa : Nat) : Bool :=
  inIow s pa || ((dpaOf s pa).isNone && s.ioPorts.contains (portOfHome line))

def State.home? (s : State) (ctx line : Nat) : Option HomeLine := s.homes.find? (fun h => h.ctx == ctx && h.line == line)
def dropHome (s : State) (ctx line : Nat) : State :=
  { s with homes := s.homes.filter (fun h => !(h.ctx == ctx && h.line == line)) }
def putHome (s : State) (h : HomeLine) : State :=
  if (s.home? h.ctx h.line).isSome then
    { s with homes := s.homes.map (fun x => if x.ctx = h.ctx ∧ x.line = h.line then h else x) }
  else { s with homes := s.homes ++ [h] }

/-- The physical address of a line under a translation. -/
def lineAt (tr : Trans) (line : Nat) : Nat := tr.pa + (line * 64) % 2 ^ tr.size
def HomeLine.pa (h : HomeLine) : Nat := lineAt h.tr h.line

/-- Write a home line's dirty bytes to memory (10 R200, 11 R234). -/
def cleanHome (s : State) (h : HomeLine) : State :=
  if h.dirty = 0 then s else putHome (keyWrite s (physKey s h.pa) h.dirty h.data) { h with dirty := 0 }

/-- Write back every home copy of one physical line (11 R234). -/
def cleanPa (s : State) (pa : Nat) : State :=
  (s.homes.filter (fun h => h.pa / 64 == pa / 64)).foldl cleanHome s

/-- Write back and drop every home copy of one physical line (11 R234) (DEDUCED, log 26). -/
def purgePa (s : State) (pa : Nat) : State :=
  let hs := s.homes.filter (fun h => h.pa / 64 == pa / 64)
  hs.foldl (fun s h => dropHome s h.ctx h.line) (hs.foldl cleanHome s)

/-- Do two home lines have their physical lines in one directory (11 R234): that of a channel for device memory, that of a host
port for host memory? -/
def sameDirectory (s : State) (x y : HomeLine) : Bool :=
  match dpaOf s x.pa, dpaOf s y.pa with
  | some d, some e => channelOf d == channelOf e
  | none, none => portOfHome x.line == portOfHome y.line
  | _, _ => false

/-- A directory lists physical lines: 16,384 of a channel, 65,536 of a host port. One that is full evicts its oldest entry, with
every home copy of that line (11 R234). -/
def fitDirectory (s : State) (h : HomeLine) : State :=
  let cap := if (dpaOf s h.pa).isSome then 16384 else 65536
  if s.homes.length ≤ cap then s
  else
    let lines := ((s.homes.filter (fun x => sameDirectory s h x)).map (fun x => x.pa / 64)).eraseDups
    if lines.length ≤ cap then s
    else match lines with
      | old :: _ => purgePa s (old * 64)
      | [] => s

/-! ## Tracked lines (19 R324) -/

/-- A write that is no region access aborts every region that tracks the line (DEDUCED, log 26). -/
def externalWrite (s : State) (ctx line : Nat) : State :=
  match s.tracked.find? (fun l => l.ctx == ctx && l.line == line) with
  | none => s
  | some l => (l.writers ++ l.readers).foldl (fun s k => abortRegion s k 0x163 0) s

/-- The same by physical line (11 R234). -/
def externalPa (s : State) (pa : Nat) : State :=
  (s.tracked.filter (fun l => l.pa == pa / 64)).foldl (fun s l => externalWrite s l.ctx l.line) s

/-! ## Translation (11 R221-R225, R230) -/

/-- Bit `n` of a table entry. -/
def entryBit (e : Word) (n : BitVec 6) : Bool := e.getLsbD n.toNat

def descField (d : Word) (lo : Nat) : BitVec 6 := d.extractLsb' lo 6

/-- The fault of a canonical check: bits 63:57 equal bit 56 (05 R73; 10 R196). -/
def canonical (va : Word) : Bool := let h := (va.extractLsb' 56 8).toNat; h == 0 || h == 0xFF

/-- Read a table entry: a strong load at system scope (R225). -/
def loadEntry (s : State) (a : Nat) : State × Word × Bool :=
  let s1 := cleanPa s a
  let k := physKey s1 a
  (s1, BitVec.ofNat 64 (leNat (memRead s1.mem k 8)), poisonedKey s1 k)

/-- Set A, and D under a write, in a leaf (R225): a write like any other to a region that tracks the line (19 R324). -/
def setEntry (s : State) (a : Nat) (e : Word) : State :=
  let s1 := purgePa (externalPa s a) a
  let k := physKey s1 a
  { s1 with mem := memWrite s1.mem k (leBytes 8 e.toNat), hostHeld := s1.hostHeld.filter (· != k / 64) }

/-- What the walks of a context add to the addresses they resolve (24 R384). -/
def fwKey (c : Ctx) : Nat := if c.priv = .firmware then Config.deviceKey else 0

/-- The walk (R225), from the level above `n` down; `w` and `u`, `x` gather the permissions. The bits that a peer entry clears are
those of its own field, not those of the VA that go below the page size (DESIGN CHOICE, log 135). -/
def walkGo (c : Ctx) (va : Word) (k : Kind) : Nat → State → Nat → Bool → Bool → Bool → State × Except Fail Trans
  | 0, s, _, _, _, _ => (s, .error (.absent false))
  | n + 1, s, a, w, u, x =>
    let d := c.ptlDesc
    let at_ := a + 8 * (va.toNat / 2 ^ (12 + 9 * n) % 512)
    let (s1, e, bad) := loadEntry s at_
    if bad then (s1, .error (.hard 0x0C0))
    else if !entryBit e (descField d 16) then (s1, .error (.absent false))
    else
      let w := w && (entryBit e (descField d 22) != d.getLsbD 3)
      let u := u && entryBit e (descField d 28)
      let x := x && !entryBit e (descField d 52)
      let ps := entryBit e (descField d 46)
      let hi := (descField d 58).toNat
      let field := fwKey c + e.toNat % 2 ^ (hi + 1) / 4096 * 4096
      if n = 0 ∨ (ps ∧ n ≤ 2) then
        let size := 12 + 9 * n
        let peerBit := (descField d 10)
        let lo := (descField d 4).toNat
        let isPeer := peerBit != 0 && entryBit e peerBit
        let dev := BitVec.ofNat 12 (e.toNat / 2 ^ lo)
        let base := if isPeer then
            (BitVec.ofNat 64 field &&& ~~~ (BitVec.ofNat 64 (0xFFF * 2 ^ lo))).toNat else field
        let pa := base / 2 ^ size * 2 ^ size
        if d.getLsbD 2 && !u then (s1, .error (.hard 0x061))
        else if k = .exec ∧ !x then (s1, .error (.hard 0x061))
        else if k = .write ∧ !w then (s1, .error (.absent true))
        else
          let aOk := entryBit e (descField d 34)
          let dOk := entryBit e (descField d 40) || k != .write
          if d.getLsbD 1 && !(aOk && dOk) then (s1, .error (.absent false))
          else
            let e1 := e ||| (1#64 <<< (descField d 34).toNat) ||| (if k = .write then 1#64 <<< (descField d 40).toNat else 0)
            let s2 := if e1 = e then s1 else setEntry s1 at_ e1
            (s2, .ok { pa := pa, size := size, w := w, x := x, dset := entryBit e1 (descField d 40),
                       peer := if isPeer then some dev else none,
                       expiry := s2.rt + s2.leaseMax * Config.unitsPerMicro })
      else if ps then (s1, .error (.absent false))
      else walkGo c va k n s1 field w u x

/-- A walk for a context (R225). -/
def walk (s : State) (ctx : Nat) (va : Word) (k : Kind) : State × Except Fail Trans :=
  match s.ctx? ctx with
  | none => (s, .error (.absent false))
  | some c =>
    let five := c.ptlDesc.getLsbD 0
    let h := (va.extractLsb' 47 10).toNat
    if !five && h != 0 && h != 0x3FF then (s, .error (.hard 0x063))
    else walkGo c va k (if five then 5 else 4) s (fwKey c + (c.ptlRoot.extractLsb' 12 40).toNat * 4096) true true true

/-- A home slice holds 512 KiB (01 R14): one that is full writes back and gives up its oldest line (DESIGN CHOICE, log 22). -/
def fitSlice (s : State) (line : Nat) : State :=
  if s.homes.length ≤ Config.sliceLines then s
  else
    let mine := s.homes.filter (fun x => homeOf x.line == homeOf line)
    if mine.length ≤ Config.sliceLines then s
    else match mine with
      | old :: _ => dropHome (cleanHome s old) old.ctx old.line
      | [] => s

/-- Put a new line at its home, within the slice's and the directory's size (01 R14; 11 R234). -/
def addHome (s : State) (h : HomeLine) : State := fitDirectory (fitSlice (putHome s h) h.line) h

/-- The virtual address of a line. -/
def lineVa (line : Nat) : Word := BitVec.ofNat 64 (line * 64)

/-- Does a translation serve a kind of access? -/
def Trans.serves (t : Trans) (now : Nat) (k : Kind) : Bool :=
  decide (now < t.expiry) && (match k with
    | .read => true
    | .write => t.w && t.dset
    | .exec => t.x)

/-- The cached translation of a unit that serves an access (R221, R230) (DESIGN CHOICE, log 33). -/
def tlbFind (s : State) (unit ctx va : Nat) (k : Kind) : Option Trans :=
  match s.tlb.find? (fun e => e.unit == unit && e.ctx == ctx && e.vpage == va / 2 ^ e.tr.size && e.tr.serves s.rt k) with
  | some e => some e.tr
  | none => none

/-- Translate at a unit: from its cache, else by a walk whose result it caches (DESIGN CHOICE, log 33). -/
def translate (s : State) (unit ctx : Nat) (va : Word) (k : Kind) : State × Except Fail Trans :=
  match tlbFind s unit ctx va.toNat k with
  | some t => (s, .ok t)
  | none =>
    match walk s ctx va k with
    | (s1, .error f) => (s1, .error f)
    | (s1, .ok t) =>
      ({ s1 with tlb := s1.tlb.filter (fun e => !(e.unit == unit && e.ctx == ctx && e.vpage == va.toNat / 2 ^ e.tr.size))
                   ++ [{ unit := unit, ctx := ctx, vpage := va.toNat / 2 ^ t.size, tr := t }] }, .ok t)


/-! ## Peer memory (11 R237; 21 R341) -/

/-- The first entry of an export table that holds a whole access decides (21 R341). -/
def exportAdmits (table : List (BitVec 256)) (dev : BitVec 12) (pa size : Nat) (rd wr : Bool) : Bool :=
  match table.find? (fun e => e.getLsbD 153 && decide ((e.extractLsb' 104 12).toNat ≤ dev.toNat)
      && decide (dev.toNat ≤ (e.extractLsb' 128 12).toNat)
      && decide ((e.extractLsb' 0 64).toNat ≤ pa)
      && decide (pa + size ≤ (e.extractLsb' 0 64).toNat + (e.extractLsb' 64 40).toNat)) with
  | some e => (!rd || e.getLsbD 151) && (!wr || e.getLsbD 152)
  | none => false

/-- Does a port place new flits now (21 R338)? -/
def Port.open (p : Port) : Bool := p.up && p.repair == .none

/-- Ports that are up and lead to a device. -/
def portsTo (s : State) (dev : BitVec 12) : List Nat := (s.ports.filter (fun p => p.2.up && p.2.partner == dev)).map Prod.fst

/-- The port that firmware chooses for a (team, device) pair that has none: one that places flits, if one does (R339). -/
def choosePort (s : State) (dev : BitVec 12) : Option Nat :=
  let ps := portsTo s dev
  let os := ps.filter (fun p => (s.port p).open)
  let qs := if os.isEmpty then ps else os
  qs[Config.choice s.fresh % qs.length]?

/-- The port of a (team, device) pair: the one it uses while that is up, else one that firmware chooses (21 R339). -/
def routeOf (s : State) (key : Nat) (dev : BitVec 12) : State × Option Nat :=
  match s.routes.find? (fun (r : Nat × Nat × Nat) => r.1 == key && r.2.1 == dev.toNat && (portsTo s dev).contains r.2.2) with
  | some r => (s, some r.2.2)
  | none =>
    match choosePort s dev with
    | none => (s, none)
    | some p =>
      ({ s with routes := s.routes.filter (fun (r : Nat × Nat × Nat) => !(r.1 == key && r.2.1 == dev.toNat)) ++ [(key, dev.toNat, p)] }.tick1, some p)

/-- The port by which the team that issues reaches a device; the device itself takes the first that is up (21 R339). -/
def routeTo (s : State) (dev : BitVec 12) : Option Nat :=
  match s.current.bind s.team? with
  | some t => (routeOf s t.key dev).2
  | none => (portsTo s dev).head?

/-- An access of the team that issues has gone over its route, which it keeps while the port is up (21 R339). -/
def takeRoute (s : State) (dev : BitVec 12) : State :=
  match s.current.bind s.team? with
  | some t => (routeOf s t.key dev).1
  | none => s

/-- Is the team on whose behalf an access is made a handler team that never calls out (21 R350)? -/
def barred (s : State) : Bool :=
  match s.current.bind s.team? with
  | some t => (match t.handler with | some h => h.nocall | none => false)
  | none => false

/-- Does an access of a context reach a peer page whose port repairs or retrains? It waits until the port goes on or goes down (11
R237; 21 R338, R339) (DESIGN CHOICE, log 123). A handler that never calls out does not wait on the fabric (R350). -/
def linkHeld (s : State) (tr : Except Fail Trans) : Bool :=
  !barred s && match tr with
  | .ok t => (match t.peer with
    | some d => (match routeTo s d with | some p => !(s.port p).open | none => false)
    | none => false)
  | .error _ => false

/-- Is any link being repaired or retrained? -/
def linksBusy (s : State) : Bool := s.ports.any (fun p => p.2.up && !p.2.open)

/-- Do the lines of an access lie in such pages (DESIGN CHOICE, log 123)? -/
def linesHeld (s : State) (ctx : Nat) (lines : List Nat) (k : Kind) : Bool :=
  linksBusy s && lines.any (fun l => linkHeld s (translate s (unitOf (l * 64)) ctx (lineVa l) k).2)

/-- A peer, when a route to it is up and it admits the access. -/
def peerFor (s : State) (dev : BitVec 12) (pa size : Nat) (rd wr : Bool) : Except Fail Peer :=
  if barred s then .error (.hard 0x061) else
  match routeTo s dev, s.peers.find? (fun p => p.dev == dev) with
  | some _, some p => if exportAdmits p.table s.devId pa size rd wr then .ok p else .error (.hard 0x061)
  | _, _ => .error (.hard 0x065)

def setPeerMem (s : State) (dev : BitVec 12) (m : List Host.Cell) : State :=
  { s with peers := s.peers.map (fun p => if p.dev = dev then { p with mem := m } else p) }

/-! ## Reading and writing at a home (10 R198-R201) -/

/-- What a line read gives: its bytes, which of them it knows, and the translation under which it was read. -/
structure LineRead where
  data : LineData
  valid : ByteMask
  tr   : Trans
  kept : Bool                   -- the line may be kept in a cache

/-- Count an event of the die on which a line's home lies (24 R376) (DEDUCED, log 96). -/
def countHome (s : State) (line ev ctx : Nat) : State := pmcCount s (.die (homeOf line * Config.dies / Config.homeSlices)) ev ctx 1

/-- Does a home hold the bytes of a mask of a line? -/
def homeHolds (s : State) (ctx line : Nat) (need : ByteMask) : Bool :=
  match s.home? ctx line with
  | some h => need &&& ~~~ h.valid == 0
  | none => false

/-- Read the bytes of a mask of a line: from the home's copy, which a read completes from memory, so that what it answers with fills
every clean byte of an L1 line (14 R263); else from memory through the unit, allocating the line unless it is a streaming, peer or
IO-only access. -/
def lineRead (s : State) (unit ctx line : Nat) (need : ByteMask) (alloc : Bool) : State × Except Fail LineRead :=
  let all := BitVec.allOnes 64
  match s.home? ctx line with
  | some h =>
    if h.valid = all then (s, .ok { data := h.data, valid := all, tr := h.tr, kept := true })
    else
      let k := physKey s h.pa
      if poisonedKey s k then
        (s, if need &&& ~~~ h.valid = 0 then .ok { data := h.data, valid := h.valid, tr := h.tr, kept := true } else .error (.hard 0x0C0))
      else
        let h1 := { h with valid := all, data := mergeLine h.valid h.data (keyLine s k),
                           clean := if h.valid &&& ~~~ h.dirty = 0 then h.tr.expiry else min h.clean h.tr.expiry }
        (putHome s h1, .ok { data := h1.data, valid := all, tr := h.tr, kept := true })
  | none =>
    match translate s unit ctx (lineVa line) .read with
    | (s1, .error f) => (s1, .error f)
    | (s1, .ok tr) =>
      let pa := lineAt tr line
      match tr.peer with
      | some d =>
        match peerFor s1 d (pa + (lowest need).getD 0) (popCount need) true false with
        | .error f => (s1, .error f)
        | .ok p => (takeRoute s1 d, .ok { data := lineOf (memRead p.mem pa 64), valid := all, tr := tr, kept := false })
      | none =>
        let k := physKey s1 pa
        if poisonedKey s1 k then (s1, .error (.hard 0x0C0))
        else
          let data := keyLine s1 k
          if alloc && !overIo s1 line pa then
            let h : HomeLine := { ctx := ctx, line := line, valid := all, dirty := 0, data := data, tr := tr, clean := tr.expiry,
                                  atomAt := [] }
            (addHome s1 h, .ok { data := data, valid := all, tr := tr, kept := true })
          else (s1, .ok { data := data, valid := all, tr := tr, kept := !overIo s1 line pa })

/-- The same, counted as a hit or a miss of the L2 (24 R377). -/
def homeRead (s : State) (unit ctx line : Nat) (need : ByteMask) (alloc : Bool) : State × Except Fail LineRead :=
  lineRead (countHome s line (if homeHolds s ctx line need then 32 else 33) ctx) unit ctx line need alloc

/-- A home line under a new translation (11 R229, R230): bytes filled under the old one keep its expiry, and go where the page has
moved, its dirty bytes having been written where they belong; the line is then a new entry of its directory (R234). -/
def retagHome (s : State) (h : HomeLine) (tr : Trans) : State × HomeLine :=
  if lineAt tr h.line = h.pa then (s, { h with tr := tr })
  else
    let h1 := { h with tr := tr, valid := 0, dirty := 0, clean := tr.expiry }
    (addHome (dropHome (cleanHome s h) h.ctx h.line) h1, h1)

/-- Bytes merged into a home line. -/
def HomeLine.merge (h : HomeLine) (mask : ByteMask) (data : LineData) : HomeLine :=
  { h with valid := h.valid ||| mask, dirty := h.dirty ||| mask, data := mergeLine mask data h.data }

/-- Merge bytes into a line at its home under a translation that grants write (R201, R264). A home that does not hold the line keeps
the written bytes alone, and fetches no others for them (DESIGN CHOICE, log 127). The bytes go to the PA of the translation
under which they were written (R230): where the page has moved since the line was filled, the line moves with it, unless it is the
line that is under the later translation (DEDUCED, log 129). -/
def mergeHome (s : State) (ctx line : Nat) (mask : ByteMask) (data : LineData) (tr : Trans) (alloc : Bool) : State :=
  match s.home? ctx line with
  | some h =>
    if lineAt tr line = h.pa ∧ h.tr.w ∧ h.tr.dset then putHome s (h.merge mask data)
    else if lineAt tr line ≠ h.pa ∧ tr.expiry < h.tr.expiry then keyWrite s (physKey s (lineAt tr line)) mask data
    else let r := retagHome s h tr; putHome r.1 (r.2.merge mask data)
  | none =>
    if alloc then
      addHome s { ctx := ctx, line := line, valid := mask, dirty := mask, data := data, tr := tr, clean := tr.expiry, atomAt := [] }
    else keyWrite s (physKey s (lineAt tr line)) mask data

/-- The same for a write that is no region's: it aborts the regions that track the line (19 R324). -/
def homeMerge (s : State) (ctx line : Nat) (mask : ByteMask) (data : LineData) (tr : Trans) (alloc : Bool) : State :=
  mergeHome (externalWrite s ctx line) ctx line mask data tr alloc

/-- A write at a home that translates for itself: engines, queue agents, firmware (R221). Peer and IO-only lines are
written where they lie. -/
def homeWrite (s : State) (unit ctx line : Nat) (mask : ByteMask) (data : LineData) : State × Except Fail Unit :=
  let grant : State × Except Fail Trans := match s.home? ctx line with
    | some h => if h.tr.w && h.tr.dset then (s, .ok h.tr) else translate s unit ctx (lineVa line) .write
    | none => translate s unit ctx (lineVa line) .write
  match grant with
  | (s1, .error f) => (s1, .error f)
  | (s1, .ok tr) =>
    match tr.peer with
    | some d =>
      let pa := lineAt tr line
      match peerFor s1 d (pa + (lowest mask).getD 0) (popCount mask) false true with
      | .error f => (s1, .error f)
      | .ok p => (setPeerMem (externalWrite (takeRoute s1 d) ctx line) d
          ((setBits mask).foldl (fun m i => memSet m (pa + i) (lineByte data i)) p.mem), .ok ())
    | none => (homeMerge s1 ctx line mask data tr (!overIo s1 line (lineAt tr line)), .ok ())

/-- The lines that a byte range touches: line, mask and the place of its first byte in the range. -/
def rangeLines (va n : Nat) : List (Nat × ByteMask) :=
  if n = 0 then []
  else
    (List.range ((va + n - 1) / 64 - va / 64 + 1)).map (fun i =>
      let l := va / 64 + i
      let lo := max va (l * 64)
      let hi := min (va + n) (l * 64 + 64)
      (l, byteRange (lo - l * 64) (hi - lo)))

/-- The page of a failed access. -/
structure Missing where
  va   : Word
  fail : Fail
  deriving DecidableEq, Repr

/-- Read `n` bytes for the device itself (a queue agent, firmware, an engine), line by line. -/
def devRead (s : State) (unit : Nat → Nat) (ctx va n : Nat) : State × Except Missing (List Byte) :=
  (rangeLines va n).foldl (fun (acc : State × Except Missing (List Byte)) lm =>
    match acc with
    | (s, .error e) => (s, .error e)
    | (s, .ok bs) =>
      match homeRead s (unit (lm.1 * 64)) ctx lm.1 lm.2 true with
      | (s1, .error f) => (s1, .error { va := BitVec.ofNat 64 (max va (lm.1 * 64)), fail := f })
      | (s1, .ok r) => (s1, .ok (bs ++ (setBits lm.2).map (lineByte r.data)))) (s, .ok [])

/-- Place bytes that begin at `va` in a line. -/
def placeBytes (va line : Nat) (mask : ByteMask) (bs : List Byte) : LineData :=
  lineOf ((List.range 64).map (fun i => if mask.getLsbD i then bs.getD (line * 64 + i - va) 0 else 0))

/-- Write bytes for the device itself. -/
def devWrite (s : State) (unit : Nat → Nat) (ctx va : Nat) (bs : List Byte) : State × Except Missing Unit :=
  (rangeLines va bs.length).foldl (fun (acc : State × Except Missing Unit) lm =>
    match acc with
    | (s, .error e) => (s, .error e)
    | (s, .ok ()) =>
      match homeWrite s (unit (lm.1 * 64)) ctx lm.1 lm.2 (placeBytes va lm.1 lm.2 bs) with
      | (s1, .error f) => (s1, .error { va := BitVec.ofNat 64 (max va (lm.1 * 64)), fail := f })
      | (s1, .ok ()) => (s1, .ok ())) (s, .ok ())

/-- The host port unit of firmware accesses (R221): that of port 0 (DESIGN CHOICE, log 126). -/
def hostUnit (_ : Nat) : Nat := 512

/-! ## Page requests (11 R226) -/

/-- The host port of a base die: ports 0 and 1 serve the two base dies (01 R10). -/
def portOfUnit (unit : Nat) : Nat := if unit < 512 then unit / 256 else unit - 512

/-- Ask the host for a page; a page already asked for from the same port and PASID is joined. -/
def askPage (s : State) (who : Requester) (ctx : Nat) (va : Nat) (write exec : Bool) (unit : Nat) : State :=
  let pasid := match s.ctx? ctx with | some c => c.ptlPasid | none => 0
  { s with preqs := s.preqs ++ [{ who := who, ctx := ctx, pasid := pasid, page := va / 4096, write := write, exec := exec,
                                  port := portOfUnit unit }] }

end Sys2Proof.Machine
end

