-- ==== Sys2Proof/Machine/Flags.lean ====
section
/-! DEFINITION. Exception events: the counters, windows, thresholds and actions of a team (08 R157-R161), and the event
records the device writes to a context's ring (23 R363). -/

namespace Sys2Proof.Machine

/-! ## Event records (23 R363) -/

/-- An event record from its fields. -/
def eventRecord (clock : Nat) (value : Word) (launchId : BitVec 32) (team code : Nat) (cause : BitVec 9) (kind ctx : Nat) : BitVec 256 :=
  BitVec.ofNat 64 clock ++ value ++ launchId ++ BitVec.ofNat 24 team ++ BitVec.ofNat 8 code ++ cause
    ++ BitVec.ofNat 3 kind ++ (0 : BitVec 36) ++ BitVec.ofNat 16 ctx

def ringLog (v : Word) : Nat := (v.extractLsb' 0 5).toNat
def ringBase (v : Word) : Nat := (csrVa (v &&& ~~~ 4095#64)).toNat

/-- How a try to write a record ends. -/
inductive RingTry where
  | written
  | full
  | missing (m : Missing)       -- a page the host can serve
  | failed
  deriving DecidableEq, Repr

/-- A record with the clock of its writing (R363). -/
def stampRecord (s : State) (bits : BitVec 256) : BitVec 256 := BitVec.ofNat 64 s.clock ++ bits.extractLsb' 0 192

/-- Write the record at TAIL, advance TAIL and signal; or say why not. -/
def ringWrite (s : State) (ctx : Nat) (bits : BitVec 256) : State × RingTry :=
  match s.ctx? ctx with
  | none => (s, .failed)
  | some c =>
    let base := ringBase c.ctxEvq
    let n := ringLog c.ctxEvq
    match devRead s unitOf ctx base 16 with
    | (s1, .error m) => (s1, match m.fail with | .absent _ => .missing m | .hard _ => .failed)
    | (s1, .ok bs) =>
      let tail := leNat (bs.take 8)
      let head := leNat (bs.drop 8)
      if (tail + 2 ^ 64 - head) % 2 ^ 64 = 2 ^ n then (s1, .full)
      else
        match devWrite s1 unitOf ctx (base + 64 + 32 * (tail % 2 ^ n)) (leBytes 32 (stampRecord s1 bits).toNat) with
        | (s2, .error m) => (s2, match m.fail with | .absent _ => .missing m | .hard _ => .failed)
        | (s2, .ok ()) =>
          match devWrite s2 unitOf ctx base (leBytes 8 (tail + 1)) with
          | (s3, .error m) => (s3, match m.fail with | .absent _ => .missing m | .hard _ => .failed)
          | (s3, .ok ()) => ({ s3 with signals := s3.signals ++ [.msix ctx] }, .written)

/-- How a try to count a lost record ends. -/
inductive LostTry where
  | counted
  | missing (m : Missing)       -- a page the host can serve
  | failed
  deriving DecidableEq, Repr

def Missing.lost (m : Missing) : LostTry :=
  match m.fail with
  | .absent _ => .missing m
  | .hard _ => .failed

/-- Add 1 to LOST; where it cannot be written nothing changes. -/
def bumpLost (s : State) (ctx : Nat) : State × LostTry :=
  match s.ctx? ctx with
  | none => (s, .failed)
  | some c =>
    let a := ringBase c.ctxEvq + 16
    match devRead s unitOf ctx a 8 with
    | (s1, .error m) => (s1, m.lost)
    | (s1, .ok bs) =>
      match devWrite s1 unitOf ctx a (leBytes 8 (leNat bs + 1)) with
      | (s2, .error m) => (s2, m.lost)
      | (s2, .ok ()) => (s2, .counted)

/-- Hold a record until the host has served a page, of the ring or of LOST (DEDUCED, log 100). -/
def holdRecord (s : State) (ctx : Nat) (bits : BitVec 256) (drop : Option Bool) (m : Missing) : State :=
  let s1 := { s with evPend := s.evPend ++ [{ ctx := ctx, bits := bits, drop := drop }] }
  askPage s1 (.ring ctx) ctx m.va.toNat true false (unitOf m.va.toNat)

/-- A record is dropped, with or without a signal: LOST counts, its page having been served where the host can; where LOST cannot be
written nothing else changes. `served` is false once the host has failed the page. -/
def loseRecord (s : State) (ctx : Nat) (bits : BitVec 256) (signal served : Bool) : State :=
  match bumpLost s ctx with
  | (s1, .missing m) => if served then holdRecord s1 ctx bits (some signal) m else s1
  | (s1, .counted) => if signal then { s1 with signals := s1.signals ++ [.msix ctx] } else s1
  | (s1, .failed) => s1

/-- A record raised by hardware: with LOG2 = 0, or with a full ring, it is dropped and LOST counts; a failed access drops it, counts, and
signals. `drop` says of a record that is already dropped whether it signals, and `served` is false once the host has failed its page. -/
def tryRecord (s : State) (ctx : Nat) (bits : BitVec 256) (drop : Option Bool) (served : Bool) : State :=
  match s.ctx? ctx, drop with
  | none, _ => s
  | some _, some signal => loseRecord s ctx bits signal served
  | some c, none =>
    if ringLog c.ctxEvq = 0 then loseRecord s ctx bits false true
    else
      match ringWrite s ctx bits with
      | (s1, .written) => s1
      | (s1, .full) => loseRecord s1 ctx bits false true
      | (s1, .failed) => loseRecord s1 ctx bits true true
      | (s1, .missing m) => if served then holdRecord s1 ctx bits none m else loseRecord s1 ctx bits true true

/-- Post a record behind those of its context that wait for a page (DEDUCED, log 100). -/
def postEvent (s : State) (ctx : Nat) (bits : BitVec 256) : State :=
  if s.evPend.any (fun e => e.ctx == ctx) then { s with evPend := s.evPend ++ [{ ctx := ctx, bits := bits, drop := none }] }
  else tryRecord s ctx bits none true

/-- The records of a context that waited for a page are tried again, in order. -/
def retryRecords (s : State) (ctx : Nat) (served : Bool) : State :=
  let mine := s.evPend.filter (fun e => e.ctx == ctx)
  mine.foldl (fun (acc : State × Bool) e =>
    if acc.1.evPend.any (fun x => x.ctx == ctx) then ({ acc.1 with evPend := acc.1.evPend ++ [e] }, true)
    else (tryRecord acc.1 ctx e.bits e.drop acc.2, true))
    ({ s with evPend := s.evPend.filter (fun e => e.ctx != ctx) }, served) |>.1

/-- A record about a team. -/
def teamEvent (s : State) (t : Team) (value : Word) (code : Nat) (cause : BitVec 9) (kind : Nat) : State :=
  let id := match s.launch? t.lid with | some l => l.launchId | none => 0
  postEvent s t.ctx (eventRecord s.clock value id t.team code cause kind t.ctx)

/-! ## Counters (08 R159-R161) -/

def satAdd32 (x : BitVec 32) (n : Nat) : BitVec 32 := BitVec.ofNat 32 (min (x.toNat + n) 0xFFFFFFFF)

def Exc.thrOf (e : Exc) (k : Nat) : BitVec 32 := Tab.get (0xFFFFFFFF : BitVec 32) e.thr k
def Exc.wcntOf (e : Exc) (k : Nat) : BitVec 32 := Tab.get (0 : BitVec 32) e.wcnt k
def Exc.totalOf (e : Exc) (k : Nat) : BitVec 32 := Tab.get (0 : BitVec 32) e.total k
def Exc.actOf (e : Exc) (k : Nat) : BitVec 2 := Tab.get (0 : BitVec 2) e.act k

/-- The exception registers of a team when it is placed (R159). -/
def Exc.reset : Exc := { thr := [], winLog := 0, act := [], wcnt := [], total := [] }

/-- Count `n` events of class `k`: the registers, and the crossing count where the class is crossed (R161). -/
def Exc.count (e : Exc) (k n : Nat) : Exc × Option (BitVec 32) :=
  let w := satAdd32 (e.wcntOf k) n
  let crossed := decide (e.wcntOf k ≤ e.thrOf k) && decide (e.thrOf k < w)
  ({ e with total := Tab.set 0 e.total k (satAdd32 (e.totalOf k) n),
            wcnt := Tab.set 0 e.wcnt k (if crossed then 0 else w) },
   if crossed then some w else none)

/-- The action of a crossed class (R161; 23 R360) (DEDUCED, log 107). -/
def crossAction (s : State) (sid k : Nat) (w : BitVec 32) : State :=
  match s.team? sid with
  | none => s
  | some t =>
    let v := w.setWidth 64
    match (t.exc.actOf k).toNat with
    | 1 =>
      if t.exited then teamEvent s t v k (BitVec.ofNat 9 (0x040 + k)) 5
      else if t.inTrap then teamEvent s t v k (BitVec.ofNat 9 (0x040 + k)) 2
      else s.setTeam sid { t with pend := t.pend ++ [{ cause := BitVec.ofNat 9 (0x040 + k), tval := v, engine := false }] }
    | 2 => teamEvent s t v k (BitVec.ofNat 9 (0x040 + k)) 2
    | _ => s

/-- Count an operation's events, class by class, all of a class at once (R161) (DEDUCED, log 107). -/
def countEvents (s : State) (sid : Nat) (counts : List Nat) : State :=
  (List.range 8).foldl (fun s k =>
    let n := counts.getD k 0
    if n = 0 then s
    else match s.team? sid with
      | none => s
      | some t =>
        let (e, c) := t.exc.count k n
        let s1 := s.setTeam sid { t with exc := e }
        match c with
        | none => s1
        | some w => crossAction s1 sid k w) s

/-- One event of each class raised, as a scalar instruction or an engine counts (R158). -/
def oneEach (e : Events) : List Nat := (List.range 8).map (fun k => if e.getLsbD k then 1 else 0)
def countOnce (s : State) (sid : Nat) (e : Events) : State := countEvents s sid (oneEach e)

/-! ## Completing results -/

/-- Note the events of an instruction whose last pass has not completed (R158). -/
def oweEvents (s : State) (sid : Nat) (counts : List Nat) : State :=
  if counts.all (· == 0) then s else s.onTeam sid (fun t => { t with owed := counts })

/-- The instructions whose last pass completes by now have their events counted (R158) (DEDUCED, log 107). -/
def countOwed (s : State) : State :=
  (s.teams.filter (fun e => !e.2.owed.isEmpty && e.2.more.isNone && decide (e.2.doneAt ≤ s.clock))).foldl (fun s e =>
    countEvents (s.onTeam e.1 (fun t => { t with owed := [] })) e.1 e.2.owed) s

/-- Mask words skipped as empty are counted (06 R104; 24 R377). -/
def noteSkips (s : State) (t : Team) (passes : Nat) (single : Bool) : State :=
  if single then s else pmcCount s (.core t.coreId) 3 t.ctx (t.w / 32 - passes)

/-- Complete a vector instruction: the registers, then its events. -/
def vectorDone (s : State) (sid : Nat) (d : VDone) : Done :=
  .fall (oweEvents (noteSkips (s.setTeam sid d.t) d.t d.passes (d.tag != .g)) sid d.counts) d.passes

/-- A vector instruction whose enable is empty (05 R86; 06 R104). -/
def emptyEnable (s : State) (t : Team) : Done := .fall (noteSkips s t 0 false) 0

/-- A vector instruction that writes a vector register (R85, R104, R108, R111). -/
def vectorResult (sid : Nat) (vw : View) (s : State) (en : Mask) (d : VIdx) (o : VOut) : Done :=
  if en = 0 then emptyEnable s vw.t
  else match vectorWrite vw.t en d.toNat o with
    | none => budgetTrap s d
    | some r => vectorDone s sid r

/-- A vector instruction that writes a predicate (06 R109, R113). -/
def predResult (sid : Nat) (vw : View) (s : State) (en : Mask) (d : PIdx) (single : Bool) (f : Nat → Bool × Events) : Done :=
  if en = 0 then emptyEnable s vw.t
  else
    let rs := (List.range vw.t.w).map (fun l => if en.getLsbD l then f l else (false, 0))
    let t1 := predWrite vw.t en d.toNat (fun l => (rs.getD l (false, 0)).1)
    let n := if single then 1 else passCount vw.t en false
    .fall (oweEvents (noteSkips (s.setTeam sid t1) t1 n single) sid (classCounts (rs.map Prod.snd))) n

/-- A scalar instruction that writes a scalar register. -/
def scalarResult (sid : Nat) (vw : View) (s : State) (d : SIdx) (v : Word) (e : Events) : Done :=
  .fall (oweEvents (s.setTeam sid (vw.t.setS d.toNat v)) sid (oneEach e)) 1

end Sys2Proof.Machine
end

