-- ==== Sys2Proof/Machine/L1.lean ====
section
/-! DEFINITION. The L1 of a core and the accesses a team makes through it (10 R198-R202, R206-R208; 11 R229; 14
R261-R271). -/

namespace Sys2Proof.Machine

/-! ## Lines of an L1 -/

def State.l1? (s : State) (core ctx line : Nat) : Option L1Line :=
  s.l1.find? (fun x => x.core == core && x.ctx == ctx && x.line == line)
def dropL1 (s : State) (core ctx line : Nat) : State :=
  { s with l1 := s.l1.filter (fun x => !(x.core == core && x.ctx == ctx && x.line == line)) }
def putL1 (s : State) (x : L1Line) : State :=
  if (s.l1? x.core x.ctx x.line).isSome then
    { s with l1 := s.l1.map (fun y => if y.core = x.core ∧ y.ctx = x.ctx ∧ y.line = x.line then x else y) }
  else { s with l1 := s.l1 ++ [x] }

def newL1 (core ctx line : Nat) (tr : Option Trans) (order : Nat) : L1Line :=
  { core := core, ctx := ctx, line := line, valid := 0, dirty := 0, data := 0, tr := tr,
    clean := (match tr with | some t => t.expiry | none => 0), narrow := 0, filled := order }

/-- Bytes a core has written reach the fills of the line that are still in flight to it, so that a fill never undoes
them. -/
def patchFills (s : State) (core ctx line : Nat) (mask : ByteMask) (data : LineData) : State :=
  { s with fills := s.fills.map (fun f => if f.core = core ∧ f.ctx = ctx ∧ f.line = line then
      { f with data := mergeLine mask data f.data } else f) }

/-- The bytes that a home discards from a write-back (14 R271): last dirtied by an atomic at team or core scope, in a line
filled before the home's atomic on that byte. Whether it does is left free. -/
def discarded (s : State) (x : L1Line) : ByteMask :=
  match s.home? x.ctx x.line with
  | some h =>
    if Config.freeBit s.fresh 4000 x.line then
      x.narrow &&& x.dirty &&& (h.atomAt.foldl (fun (m : ByteMask) e =>
        if x.filled < e.2 then m ||| (1#64 <<< e.1) else m) 0)
    else 0
  | none => 0

/-! ## Writes queued at a home under bank-drain ordering (14 R270) -/

/-- The bytes of a line as a team reads them while its own writes to it are still queued: bytes dirty in its L1 are newer
(14 R262, R270) (DEDUCED, log 29). -/
def ownQueued (s : State) (sid line : Nat) (dirty : ByteMask) (d : LineData) : LineData :=
  (s.wq.filter (fun q => q.sid == sid && q.line == line)).foldl (fun d q => mergeLine (q.mask &&& ~~~ dirty) q.data d) d

/-- A write applied at its home reaches the copy of the core that made it, where no later write has (10 R200; 14 R262). -/
def refreshL1 (s : State) (core ctx line : Nat) (mask : ByteMask) (data : LineData) : State :=
  let s1 := match s.l1? core ctx line with
    | none => s
    | some x =>
      let m := mask &&& ~~~ x.dirty
      putL1 s { x with valid := x.valid ||| m, data := mergeLine m data x.data }
  patchFills s1 core ctx line mask data

/-- Apply the oldest queued write of a team to one home, under the translation it was checked with (14 R270; 11 R229). -/
def drainOne (s : State) (sid home : Nat) : State :=
  match s.wq.find? (fun q => q.sid == sid && q.home == home) with
  | none => s
  | some q =>
    refreshL1 (homeMerge { s with wq := s.wq.erase q } q.ctx q.line q.mask q.data q.tr q.alloc) q.core q.ctx q.line q.mask q.data

/-- Apply a queued write, and those before it in its queue. -/
def drainThrough : Nat → State → QWrite → State
  | 0, s, _ => s
  | k + 1, s, q => if s.wq.contains q then drainThrough k (drainOne s q.sid q.home) q else s

/-- Apply the queued writes of a kind. -/
def drainAll (s : State) (f : QWrite → Bool) : State := (s.wq.filter f).foldl (fun s q => drainThrough s.wq.length s q) s

/-! ## Write-backs -/

/-- Write a line's dirty bytes back to its home (10 R200, R201). Earlier writes of the core to those bytes that are still queued
go first, and no fill in flight undoes what the core has written, discarded bytes among it (14 R262, R266). -/
def writeBackLine (s : State) (core ctx line : Nat) : State :=
  match s.l1? core ctx line with
  | none => s
  | some x =>
    if x.dirty = 0 then s
    else match x.tr with
      | none => s
      | some tr =>
        let m := x.dirty &&& ~~~ discarded s x
        let s1 := drainAll (putL1 s { x with dirty := 0, narrow := 0 }).tick1 (fun q =>
          q.core == core && q.ctx == ctx && q.line == line && (q.mask &&& m != 0))
        patchFills (refreshL1 (homeMerge s1 ctx line m x.data tr true) core ctx line m x.data) core ctx line x.dirty x.data

/-- Write back every dirty line of a context in one L1 (R206, R200). -/
def writeBackAll (s : State) (core ctx : Nat) : State :=
  (s.l1.filter (fun x => x.core == core && x.ctx == ctx && x.dirty != 0)).foldl
    (fun s x => writeBackLine s x.core ctx x.line) s

/-- An L1 holds 1,536 KiB (01 R13): one that is full writes back and gives up its oldest line (DESIGN CHOICE, log 22). -/
def fitL1 (s : State) (core : Nat) : State :=
  if s.l1.length ≤ Config.l1Lines then s
  else
    let mine := s.l1.filter (fun x => x.core == core)
    if mine.length ≤ Config.l1Lines then s
    else match mine with
      | old :: _ => dropL1 (writeBackLine s core old.ctx old.line) core old.ctx old.line
      | [] => s

/-! ## Loads -/

/-- Where and how an access is made (10 R200). -/
structure Access where
  sid   : Nat
  core  : Nat
  ctx   : Nat
  scope : Scope
  pol   : Bool                  -- streaming
  engine : Bool := false        -- an engine's, which holds no miss-status entry (R204)

def scopeWide : Scope → Bool
  | .team => false
  | .core => false
  | _ => true

/-- The bytes of a range of a line as a number. -/
def lineNat (d : LineData) (off n : Nat) : Nat := (d.toNat / 2 ^ (8 * off)) % 2 ^ (8 * n)

/-- A load served by the L1, by a fill that a load asked for, or by the home (10 R198, R203; 14 R263) (DEDUCED, log 23). -/
def loadL1 (s : State) (a : Access) (line : Nat) (need : ByteMask) : State × Except Fail LineData :=
  let x := (s.l1? a.core a.ctx line).getD (newL1 a.core a.ctx line none 0)
  let put (f : ByteMask) (d : LineData) : LineData := ownQueued s a.sid line x.dirty (mergeLine (f &&& ~~~ x.dirty) d x.data)
  if need &&& ~~~ x.valid = 0 then (s, .ok (put 0 0))
  else
    match s.fills.find? (fun f => f.core == a.core && f.ctx == a.ctx && f.line == line && f.entry
        && (need &&& ~~~ (f.valid ||| x.valid) == 0)) with
    | some f => (s, .ok (put f.valid f.data))
    | none =>
      match homeRead s (unitOf (line * 64)) a.ctx line (need &&& ~~~ x.valid) (!a.pol) with
      | (s1, .error f) => (s1, .error f)
      | (s1, .ok r) =>
        let s2 := if a.pol || !r.kept then s1 else
          { s1 with fills := s1.fills ++ [{ core := a.core, ctx := a.ctx, line := line, valid := r.valid, data := r.data,
                                            tr := some r.tr, entry := !a.engine, prefetch := false, homeOnly := false }] }
        (s2, .ok (put r.valid r.data))

/-- A strong load at die scope or wider (10 R200): at the home, after the core's dirty bytes of the line. -/
def loadHome (s : State) (a : Access) (line : Nat) (need : ByteMask) : State × Except Fail LineData :=
  let s1 := writeBackLine s a.core a.ctx line
  match homeRead s1 (unitOf (line * 64)) a.ctx line need (!a.pol) with
  | (s2, .error f) => (s2, .error f)
  | (s2, .ok r) => (s2, .ok (ownQueued s2 a.sid line 0 r.data))

/-- A load of one line by order and scope (10 R200). -/
def loadLine (s : State) (a : Access) (o : Ord) (line : Nat) (need : ByteMask) : State × Except Fail LineData :=
  if o != .weak && scopeWide a.scope then loadHome s a line need else loadL1 s a line need

/-- Does a load need a miss-status entry for a line (10 R203)? (DEDUCED, log 24). -/
def loadMisses (s : State) (a : Access) (o : Ord) (line : Nat) (need : ByteMask) : Bool :=
  if o != .weak && scopeWide a.scope then true
  else
    need &&& ~~~ (match s.l1? a.core a.ctx line with | some l => l.valid | none => 0) != 0

/-! ## Write checks (11 R229) -/

def Trans.grants (t : Trans) (now : Nat) : Bool := t.serves now .write && t.peer.isNone

/-- Where a store is performed (10 R200). -/
inductive Place where
  | l1 | home | homeStream
  deriving DecidableEq, Repr

/-- Where a store of a line is performed: a weak store in the L1, streaming to the home when the line is absent from the
L1; a strong store in the L1 or at the home by its scope (DEDUCED, log 25). -/
def storePlace (s : State) (a : Access) (o : Ord) (line : Nat) : Place :=
  let here := (s.l1? a.core a.ctx line).isSome
  if o != .weak && scopeWide a.scope then (if a.pol && !here then .homeStream else .home)
  else if a.pol && !here then .homeStream else .l1

inductive Grant where
  | granted (tr : Trans)
  | direct (tr : Trans)         -- a peer or IO-only page: performed where it lies
  | check                       -- a write check is needed

/-- Does the line already carry a translation that grants write, has D set and has not expired? -/
def grantFor (s : State) (a : Access) (p : Place) (line : Nat) : Grant :=
  let unit := unitOf (line * 64)
  let carried : Option Trans := match p with
    | .l1 => (match s.l1? a.core a.ctx line with | some x => x.tr | none => none)
    | _ => (match s.home? a.ctx line with | some h => some h.tr | none => none)
  match carried with
  | some t => if t.grants s.rt then .granted t else .check
  | none =>
    match tlbFind s unit a.ctx (line * 64) .write with
    | some t =>
      if t.peer.isSome || overIo s line (lineAt t line) then .direct t
      else if p == .homeStream then .granted t else .check
    | none => .check

/-- A write check returns: it walks as a write, and the line carries the translation it grants (R229). -/
def checkReturn (s : State) (c : WCheck) (core : Nat) : State :=
  match walk s c.ctx (lineVa c.line) .write with
  | (s1, .error f) =>
    let (cause, absent) : BitVec 9 × Bool := match f with
      | .absent prot => (if prot then 0x061 else 0x060, true)
      | .hard e => (e, false)
    { s1 with wfaults := s1.wfaults ++ [{ sid := c.sid, line := c.line, cause := cause, absent := absent }] }
  | (s1, .ok tr) =>
    let unit := unitOf (c.line * 64)
    let s2 := { s1 with tlb := s1.tlb.filter (fun e => !(e.unit == unit && e.ctx == c.ctx && e.vpage == c.line * 64 / 2 ^ e.tr.size))
                  ++ [{ unit := unit, ctx := c.ctx, vpage := c.line * 64 / 2 ^ tr.size, tr := tr }] }
    if tr.peer.isSome || overIo s2 c.line (lineAt tr c.line) then s2
    else if c.toHome then
      match s2.home? c.ctx c.line with
      | some h => let r := retagHome s2 h tr; putHome r.1 r.2
      | none =>
        if c.alloc then
          addHome s2 { ctx := c.ctx, line := c.line, valid := 0, dirty := 0, data := 0, tr := tr, clean := tr.expiry, atomAt := [] }
        else s2
    else
      match s2.l1? core c.ctx c.line with
      | some x =>
        if (match x.tr with | some t => lineAt t c.line == lineAt tr c.line | none => true) then putL1 s2 { x with tr := some tr }
        else (putL1 (dropL1 (writeBackLine s2 core c.ctx c.line) core c.ctx c.line) (newL1 core c.ctx c.line (some tr) s2.order)).nextOrder
      | none => fitL1 (putL1 s2 (newL1 core c.ctx c.line (some tr) s2.order)).nextOrder core

/-! ## Stores -/

/-- A store into the L1 (10 R198). -/
def storeL1 (s : State) (a : Access) (line : Nat) (mask : ByteMask) (data : LineData) (tr : Trans) (narrow : Bool) : State :=
  let s := externalWrite s a.ctx line
  let here := (s.l1? a.core a.ctx line).isSome
  let x := (s.l1? a.core a.ctx line).getD (newL1 a.core a.ctx line (some tr) s.order)
  let s1 := (putL1 s { x with valid := x.valid ||| mask, dirty := x.dirty ||| mask, data := mergeLine mask data x.data,
                              tr := some (x.tr.getD tr),
                              narrow := if narrow then x.narrow ||| mask else x.narrow &&& ~~~ mask }).nextOrder
  if here then s1 else fitL1 s1 a.core

/-- The L1 copy after a write performed at the home (10 R200). -/
def updateL1 (s : State) (core ctx line : Nat) (mask : ByteMask) (data : LineData) : State :=
  let s1 := match s.l1? core ctx line with
    | none => s
    | some x => putL1 s { x with valid := x.valid ||| mask, dirty := x.dirty &&& ~~~ mask, data := mergeLine mask data x.data,
                                 narrow := x.narrow &&& ~~~ mask }
  patchFills s1 core ctx line mask data

/-- Bytes become those of a mask wherever a context holds them: in every L1, in the fills and writes on their way. -/
def spreadBytes (s : State) (ctx line : Nat) (mask : ByteMask) (data : LineData) : State :=
  let mine (c l : Nat) : Bool := c == ctx && l == line
  { s with
    l1 := s.l1.map (fun x => if mine x.ctx x.line then { x with
      valid := x.valid ||| mask, dirty := x.dirty &&& ~~~ mask, data := mergeLine mask data x.data, narrow := x.narrow &&& ~~~ mask } else x)
    fills := s.fills.map (fun f => if mine f.ctx f.line then { f with data := mergeLine mask data f.data } else f)
    wq := s.wq.map (fun q => if mine q.ctx q.line then { q with data := mergeLine mask data q.data } else q) }

/-- A store performed at the home: at once, or queued under bank-drain ordering (14 R269, R270). The L1 copy takes a queued write
when it is queued (DESIGN CHOICE, log 128). A write that is not queued is performed after the team's queued writes of its
bytes (R262). -/
def storeHome (s : State) (a : Access) (line : Nat) (mask : ByteMask) (data : LineData) (tr : Trans) (alloc strong : Bool) : State :=
  if strong && s.ordMode then
    updateL1 { s with wq := s.wq ++ [{ sid := a.sid, core := a.core, ctx := a.ctx, home := homeOf line, line := line,
                                       mask := mask, data := data, tr := tr, alloc := alloc }] } a.core a.ctx line mask data
  else
    let s1 := drainAll s (fun q => q.sid == a.sid && q.ctx == a.ctx && q.line == line && (q.mask &&& mask != 0))
    updateL1 (homeMerge s1 a.ctx line mask data tr alloc) a.core a.ctx line mask data

/-- A store where it lies: peer memory, or host memory inside an IO-only window (11 R236, R237). -/
def storeDirect (s : State) (a : Access) (line : Nat) (mask : ByteMask) (data : LineData) (tr : Trans) : State × Except Fail Unit :=
  let pa := lineAt tr line
  match tr.peer with
  | some d =>
    match peerFor s d (pa + (lowest mask).getD 0) (popCount mask) false true with
    | .error f => (s, .error f)
    | .ok p => (setPeerMem (externalWrite (takeRoute s d) a.ctx line) d
        ((setBits mask).foldl (fun m i => memSet m (pa + i) (lineByte data i)) p.mem), .ok ())
  | none => (keyWrite (externalWrite s a.ctx line) (physKey s pa) mask data, .ok ())

/-- A store of the bytes of a mask of one line, once its check has been made (DEDUCED, log 25). -/
def storeLine (s : State) (a : Access) (o : Ord) (line : Nat) (mask : ByteMask) (data : LineData) : State × Except Fail Unit :=
  let p := storePlace s a o line
  match grantFor s a p line with
  | .check => (s, .error (.absent true))
  | .direct tr => storeDirect s a line mask data tr
  | .granted tr =>
    match p with
    | .l1 => (storeL1 s a line mask data tr false, .ok ())
    | .home => (storeHome s a line mask data tr true (o != .sc), .ok ())
    | .homeStream => (storeHome s a line mask data tr false (o != .weak && o != .sc), .ok ())

/-! ## Acquire and release (10 R206; 14 R265) -/

/-- What an acquire at a scope does to the L1. -/
def acquireAt (s : State) (a : Access) : State := if scopeWide a.scope then invalidateClean s a.core a.ctx else s
/-- What a release at a scope does to the L1. -/
def releaseAt (s : State) (a : Access) : State := if scopeWide a.scope then writeBackAll s a.core a.ctx else s

/-- Write a range of dirty bytes of one line back; at system scope the home writes it to memory too (10 R208). -/
def flushLine (s : State) (core ctx line : Nat) (system : Bool) : State :=
  let s1 := writeBackLine s core ctx line
  if system then match s1.home? ctx line with
    | some h => cleanHome s1 h
    | none => s1
  else s1

/-- Invalidate a line after flushing it (10 R208). -/
def invalLine (s : State) (core ctx line : Nat) (system : Bool) : State :=
  let s1 := flushLine s core ctx line system
  let s2 := { dropL1 s1 core ctx line with
    fills := s1.fills.filter (fun f => !(f.core == core && f.ctx == ctx && f.line == line)) }
  if system then dropHome s2 ctx line else s2

end Sys2Proof.Machine
end

