-- ==== Sys2Proof/Machine/RegionMem.lean ====
section
/-! DEFINITION. Accesses of an open region (19 R313-R319): registering at the home, edges and their order, forwarding,
and the bytes a region holds in its core's L1. -/

namespace Sys2Proof.Machine

/-- Is a team's access a region access (R313, R326, R329)? -/
def inRegion (t : Team) : Option RegionView :=
  match t.openRegion with
  | some v => if t.inTrap || v.irr then none else some v
  | none => none

def trackedAt (s : State) (ctx line : Nat) : TrackedLine :=
  (s.tracked.find? (fun l => l.ctx == ctx && l.line == line)).getD { ctx := ctx, line := line, pa := 0, writers := [], readers := [], got := [] }

def putTracked (s : State) (l : TrackedLine) : State :=
  if s.tracked.any (fun x => x.ctx == l.ctx && x.line == l.line) then
    { s with tracked := s.tracked.map (fun x => if x.ctx = l.ctx ∧ x.line = l.line then l else x) }
  else { s with tracked := s.tracked ++ [l] }

/-- The regions that reach `y`: those with a path of edges into it. The fuel is the region count. -/
def reachersGo (s : State) : Nat → List Nat → List Nat
  | 0, seen => seen
  | k + 1, seen =>
    let more := (s.regions.filter (fun r => seen.contains r.slot)).flatMap (fun r => r.preds)
    reachersGo s k (seen ++ more.filter (fun x => !seen.contains x)).dedup

/-- Does region `y` reach region `x` (R317)? -/
def reaches (s : State) (y x : Nat) : Bool := (reachersGo s s.regions.length [x]).contains y

/-- The RAW depth of a region (R318); the fuel bounds it (DESIGN CHOICE, log 121). -/
def rawDepth (s : State) : Nat → Nat → Nat
  | 0, _ => 0
  | k + 1, slot =>
    match s.region? slot with
    | none => 0
    | some r => r.raw.foldl (fun a x => if (s.region? x).isSome then max a (1 + rawDepth s k x) else a) 0

/-- Region `slot`'s speculative bytes of a line. -/
def specOf (s : State) (slot ctx line : Nat) : Option SpecLine :=
  s.spec.find? (fun x => x.slot == slot && x.ctx == ctx && x.line == line)

/-- The writers of a line as a region sees them: in the order in which they first wrote it, itself last, for a region is the
latest writer of every byte it has written (R316). -/
def writersFor (l : TrackedLine) (slot : Nat) : List Nat :=
  l.writers.filter (· != slot) ++ l.writers.filter (· == slot)

/-- The bytes a region's read returns (R316): each live writer's bytes laid over the committed bytes, the oldest writer first. -/
def forwarded (s : State) (l : TrackedLine) (slot : Nat) (data : LineData) : LineData :=
  (writersFor l slot).foldl (fun d w => match specOf s w l.ctx l.line with
    | some x => mergeLine x.mask x.data d
    | none => d) data

/-- The bytes of a line that the writers of a list hold. -/
def specMask (s : State) (l : TrackedLine) (ws : List Nat) : ByteMask :=
  ws.foldl (fun (m : ByteMask) v => match specOf s v l.ctx l.line with
    | some y => m ||| y.mask
    | none => m) 0

/-- The other live writers whose bytes a region's read of `need` returns (R316, R318). -/
def suppliers (s : State) (l : TrackedLine) (slot : Nat) (need : ByteMask) : List Nat :=
  let ws := writersFor l slot
  ws.filter (fun w => w != slot &&
    specMask s l [w] &&& need &&& ~~~ specMask s l ((ws.dropWhile (· != w)).drop 1) != 0)

/-- The live regions whose bytes a region has consumed, and so on upward; the fuel bounds the depth (R318). -/
def rawAbove (s : State) : Nat → List Nat → List Nat
  | 0, xs => xs
  | k + 1, xs => (xs ++ rawAbove s k ((s.regions.filter (fun r => xs.contains r.slot)).flatMap (fun r => r.raw))).dedup

/-- What a region access meets. -/
inductive RegionRes where
  | done (data : LineData)
  | stall (on : Stall)          -- R314, R318: the team waits
  | aborted                     -- the region aborted; the access is not performed
  | fail (f : Fail)

/-- Add an edge `x → y`, unless it closes a cycle (R317). -/
def addEdge (s : State) (x y : Nat) (raw : Bool) : Option State :=
  if x = y then some s
  else if reaches s y x then none
  else some (s.onRegion y (fun r => { r with preds := if r.preds.contains x then r.preds else r.preds ++ [x],
                                             raw := if raw && !r.raw.contains x then r.raw ++ [x] else r.raw }))

/-- An irrevocable region of a team that fails is dropped without committing; edges are drawn from every supplier of a byte
(DEDUCED, log 73). -/
def addEdges (s : State) (xs : List Nat) (y : Nat) (raw : Bool) : Option State :=
  xs.foldl (fun (a : Option State) x => a.bind (fun s => addEdge s x y raw)) (some s)

/-- Would a stall wait only on regions that the stalled one reaches (R319)? -/
def stallCycle (s : State) (slot : Nat) (on : List Nat) : Bool := on.all (fun x => reaches s slot x)

/-- A region stalls until one of the regions `on` ends, or aborts where each of them is reachable from it (R319). -/
def stallOn (s : State) (slot : Nat) (on : List Nat) (read : Option (Nat × ByteMask)) : State × RegionRes :=
  if stallCycle s slot on then (abortRegion s slot 0x160 0, .aborted)
  else (s, .stall { on := (s.regions.filter (fun r => on.contains r.slot)).map (fun r => r.ticket), read := read })

/-- The live regions whose bytes a read would return and whose depth does not allow it, with those above them (R318). -/
def tooDeep (s : State) (l : TrackedLine) (slot : Nat) (need : ByteMask) : List Nat :=
  match (suppliers s l slot need).filter (fun x => decide (4 < 1 + rawDepth s 8 x)) with
  | [] => []
  | deep => rawAbove s 8 deep

/-- What a stalled region waits for now, none where its access may go on: a later writer of the bytes of a read that is held may
supply them from a smaller depth (R316, R318). -/
def stallNow (s : State) (t : Team) (v : RegionView) (st : Stall) : Option Stall :=
  match st.read with
  | none => some st
  | some (line, need) =>
    match tooDeep s (trackedAt s t.ctx line) v.slot need with
    | [] => none
    | on => some { st with on := (s.regions.filter (fun r => on.contains r.slot)).map (fun r => r.ticket) }

/-- New edges and new writers change what stalled regions wait for, and may close a cycle through a stall: a stalled region from
which every region it waits for is now reachable aborts at once (R319). -/
def breakStalls (s : State) : State :=
  s.teams.foldl (fun s e =>
    match e.2.park, e.2.region with
    | .regionLine st, some v =>
      if !v.live then s
      else match stallNow s e.2 v st with
        | none => s.onTeam e.1 (fun t => { t with park := .run })
        | some st1 =>
          let xs := s.regions.filter (fun r => st1.on.contains r.ticket)
          if decide (xs.length = st1.on.length) && stallCycle s v.slot (xs.map (fun r => r.slot)) then abortRegion s v.slot 0x160 0
          else if st1 = st then s
          else s.onTeam e.1 (fun t => { t with park := .regionLine st1 })
    | _, _ => s) s

/-- Lines with speculative bytes in a core, and lines tracked at a home (R313). -/
def specCount (s : State) (core : Nat) : Nat := (s.spec.filter (fun x => x.core == core)).length
def trackCount (s : State) (home : Nat) : Nat := (s.tracked.filter (fun l => homeOf l.line == home)).length

/-- Register a region at a line as a reader, a writer or both, adding its edges (R314, R315, R317-R319). A write of bytes that
another live region has read puts that region first, also where the writer is registered already: else its read would be of
no serial run (R322) (DEDUCED, log 73). -/
def register (s : State) (v : RegionView) (core ctx line pa : Nat) (need : ByteMask) (rd wr : Bool) : State × RegionRes :=
  let l := trackedAt s ctx line
  let fresh := l.writers.isEmpty && l.readers.isEmpty
  let newR := rd && !l.readers.contains v.slot
  let newW := wr && !l.writers.contains v.slot
  if (fresh && decide (2048 ≤ trackCount s (homeOf line)))
      || (wr && (specOf s v.slot ctx line).isNone && decide (512 ≤ specCount s core)) then
    (abortRegion s v.slot 0x162 0, .aborted)
  else if newW && decide (4 ≤ l.writers.length) then stallOn s v.slot l.writers none
  else if newR && decide (4 ≤ l.readers.length) then stallOn s v.slot l.readers none
  else
    let sup := if rd then suppliers s l v.slot need else []
    let deep := if rd then tooDeep s l v.slot need else []
    if !deep.isEmpty then stallOn s v.slot deep (some (line, need))
    else
      let last := match (l.writers.filter (· != v.slot)).getLast? with | some x => [x] | none => []
      let latest := if l.writers.getLast? = some v.slot then [] else last
      let others := l.readers.filter (· != v.slot)
      let fromReaders := if newW then others
        else if wr then others.filter (fun r => Tab.get (0 : ByteMask) l.got r &&& need != 0) else []
      match (addEdges s sup v.slot true).bind (fun s =>
          (addEdges s (if newR || newW then latest else []) v.slot false).bind (fun s => addEdges s fromReaders v.slot false)) with
      | none => (abortRegion s v.slot 0x160 0, .aborted)
      | some s1 =>
        let l1 := { l with pa := pa, readers := if newR then l.readers ++ [v.slot] else l.readers,
                           writers := if newW then l.writers ++ [v.slot] else l.writers,
                           got := if rd then Tab.put l.got v.slot (Tab.get (0 : ByteMask) l.got v.slot ||| need) else l.got }
        (breakStalls (putTracked s1 l1), .done 0)

/-- The committed bytes of a line at its home as a team reads them, the core's own dirty bytes written back first; a peer page or
IO-only window aborts the region (R325). -/
def committedLine (s : State) (sid core ctx line : Nat) (need : ByteMask) : State × Except Fail (LineData × Nat) :=
  let s1 := writeBackLine s core ctx line
  match (match s1.home? ctx line with
      | some h => (s1, Except.ok h.tr)
      | none => translate s1 (unitOf (line * 64)) ctx (lineVa line) .read) with
  | (s2, .error f) => (s2, .error f)
  | (s2, .ok tr) =>
    if tr.peer.isSome || overIo s2 line (lineAt tr line) then (s2, .error (.hard 0x165))
    else match homeRead s2 (unitOf (line * 64)) ctx line need true with
      | (s3, .error f) => (s3, .error f)
      | (s3, .ok r) => (s3, .ok (ownQueued s3 sid line 0 r.data, lineAt r.tr line / 64))

/-- A region load of a line (R313, R316) (DEDUCED, log 28). -/
def regionLoad (s : State) (v : RegionView) (sid core ctx line : Nat) (need : ByteMask) : State × RegionRes :=
  match committedLine s sid core ctx line need with
  | (s1, .error f) => (s1, .fail f)
  | (s1, .ok (d, pa)) =>
    match register s1 v core ctx line pa need true false with
    | (s2, .done _) => (s2, .done (forwarded s2 (trackedAt s2 ctx line) v.slot d))
    | r => r

/-- A region store of a line: its bytes stay marked in the core's L1 (R313) (DEDUCED, log 28). -/
def regionStore (s : State) (v : RegionView) (core ctx line : Nat) (tr : Trans) (mask : ByteMask) (data : LineData) : State × RegionRes :=
  match register (writeBackLine s core ctx line) v core ctx line (lineAt tr line / 64) mask false true with
  | (s1, .done _) =>
    let x := (specOf s1 v.slot ctx line).getD { slot := v.slot, core := core, ctx := ctx, line := line, mask := 0, data := 0, tr := tr }
    let y := { x with mask := x.mask ||| mask, data := mergeLine mask data x.data }
    ({ s1 with spec := (s1.spec.filter (fun z => !(z.slot == v.slot && z.ctx == ctx && z.line == line))) ++ [y] }, .done 0)
  | r => r

/-- A region's atomic of a line: it reads and writes (R315). `f` gives the new bytes. -/
def regionAtom (s : State) (v : RegionView) (sid core ctx line : Nat) (tr : Trans) (mask : ByteMask) (f : LineData → LineData) : State × RegionRes :=
  match committedLine s sid core ctx line mask with
  | (s1, .error e) => (s1, .fail e)
  | (s1, .ok (d, pa)) =>
    match register s1 v core ctx line pa mask true true with
    | (s2, .done _) =>
      let old := forwarded s2 (trackedAt s2 ctx line) v.slot d
      let x := (specOf s2 v.slot ctx line).getD { slot := v.slot, core := core, ctx := ctx, line := line, mask := 0, data := 0, tr := tr }
      let y := { x with mask := x.mask ||| mask, data := mergeLine mask (f old) x.data }
      ({ s2 with spec := (s2.spec.filter (fun z => !(z.slot == v.slot && z.ctx == ctx && z.line == line))) ++ [y] }, .done old)
    | r => r

end Sys2Proof.Machine
end

