-- ==== Sys2Proof/Machine/Pages.lean ====
section
/-! DEFINITION. Lane faults, page request groups and replay (10 R196, R197; 11 R226-R228), and fetching an instruction
word (05 R73-R75). -/

namespace Sys2Proof.Machine

/-! ## Lane outcomes -/

def laneOut (f : Fail) (addr : Word) : LaneOut :=
  match f with
  | .absent p => .miss addr p
  | .hard c => .bad c addr

/-- The wait of a page in the open group. -/
def waitOf (t : Team) (page : Nat) : Option PageWait :=
  match t.pf with
  | some g => g.waits.find? (fun w => w.page == page)
  | none => none

/-- The host failed the page this lane waited for (11 R227, step 3). -/
def pageDenied (t : Team) (addr : Word) : Bool :=
  match waitOf t (addr.toNat / 4096) with
  | some w => w.resp == some false
  | none => false

/-- A lane that misses a page again after a second successful response faults (11 R227, step 2). -/
def settleMiss (t : Team) (o : LaneOut) : LaneOut :=
  match o with
  | .miss a prot =>
    match waitOf t (a.toNat / 4096) with
    | some w => if 2 ≤ w.tries then .bad (if prot then Cause.accessViolation else Cause.pageFault) a else o
    | none => o
  | o => o

/-- Collect the lanes of each missing page (DEDUCED, log 103). -/
def gatherWaits (t : Team) (write : Bool) : List (Nat × LaneOut) → List PageWait
  | [] => []
  | (l, o) :: r =>
    let ws := gatherWaits t write r
    match o with
    | .miss a prot =>
      let page := a.toNat / 4096
      let m : Mask := 1#1024 <<< l
      if ws.any (fun w => w.page == page) then
        ws.map (fun w => if w.page = page then { w with lanes := w.lanes ||| m, prot := w.prot || prot } else w)
      else
        { page := page, lanes := m, write := write, tries := (match waitOf t page with | some w => w.tries | none => 0) + 1,
          resp := none, prot := prot, port := portOfUnit (unitOf (page * 4096)) } :: ws
    | _ => ws

def hardFaults (outs : List (Nat × LaneOut)) : List LaneFault :=
  outs.filterMap (fun o => match o.2 with
    | .bad c a => some { lane := o.1, cause := c, addr := a }
    | _ => none)

def faultMask (fs : List LaneFault) : Mask := fs.foldl (fun (m : Mask) f => m ||| (1#1024 <<< f.lane)) 0

/-- The trap of faulting lanes (10 R197): the lowest cause, the address of the lowest lane that has it, every faulting
lane (DEDUCED, log 103). -/
def laneTrap (s : State) (fs : List LaneFault) (fmask : Mask) : Done :=
  let c := fs.foldl (fun (a : Nat) f => min a f.cause.toNat) 512
  let lead := fs.foldl (fun (a : Option LaneFault) f =>
    if f.cause.toNat = c then (match a with
      | some g => if f.lane < g.lane then some f else some g
      | none => some f) else a) none
  .trap s (BitVec.ofNat 9 c) (match lead with | some f => f.addr | none => 0) fmask false

/-- Ask the host for the pages of a group and park the team (11 R226). -/
def parkGroup (s : State) (sid : Nat) (g : PageGroup) (fmask : Mask) (replay : Option Mask) : State :=
  match s.team? sid with
  | none => s
  | some t =>
    let s1 := s.setTeam sid { t with pf := some g, fmask := fmask, replay := replay }
    g.waits.foldl (fun s w => askPage s (.team sid) t.ctx (w.page * 4096) w.write g.fetch (unitOf (w.page * 4096))) s1

/-- End a memory instruction: park on missing pages, trap on faulting lanes, or complete. `whole` is the active mask of a
scalar-side access, whose faults concern the whole team (10 R205) (DEDUCED, log 7). -/
def settle (s : State) (sid : Nat) (t0 : Team) (write : Bool) (whole : Option Mask) (outs : List (Nat × LaneOut))
    (complete : State → Done) : Done :=
  let outs := outs.map (fun o => (o.1, settleMiss t0 o.2))
  let hard := (match t0.pf with | some g => g.hard | none => []) ++ hardFaults outs
  let waits := gatherWaits t0 write outs
  if !waits.isEmpty then
    let lanes := waits.foldl (fun (m : Mask) w => m ||| w.lanes) 0
    let g : PageGroup := { fetch := false, waits := waits, hard := hard }
    match whole with
    | some m => .issued (parkGroup s sid g m t0.replay) .page
    | none => .issued (parkGroup s sid g (lanes ||| faultMask hard) (some lanes)) .page
  else if !hard.isEmpty then laneTrap s hard (whole.getD (faultMask hard))
  else complete s

/-! ## Fetch (05 R73-R75) -/

inductive Fetched where
  | word (w : BitVec 96)
  | trap (c : BitVec 9) (tval : Word) (fmask : Mask)
  | wait

/-- An instruction cache without one line. -/
def dropCode (c : Core) (ctx line : Nat) : Core :=
  { c with icache := c.icache.filter (fun x => !(x.1 == ctx && x.2.1 == line)) }

/-- Fetch a line of code from its home into the core's instruction cache (DESIGN CHOICE, log 12). -/
def fillCode (s : State) (core ctx line : Nat) (va : Word) : State × Except Fail LineData :=
  match translate s (unitOf va.toNat) ctx va .exec with
  | (s1, .error f) => (s1, .error f)
  | (s1, .ok _) =>
    match homeRead s1 (unitOf va.toNat) ctx line (BitVec.allOnes 64) false with
    | (s2, .error f) => (s2, .error f)
    | (s2, .ok r) =>
      (s2.onCore core (fun c => { dropCode c ctx line with icache := (dropCode c ctx line).icache ++ [(ctx, line, r.data)] }),
        .ok r.data)

/-- One line of code through the core's instruction cache (R75): a line it holds may have been replaced at any time, so a
hit gives the bytes held or those now in memory. DESIGN CHOICE: a free bit chooses (DESIGN CHOICE, log 12). -/
def fetchLine (s : State) (core ctx line : Nat) (va : Word) : State × Except Fail LineData :=
  match (s.core core).icache.find? (fun x => x.1 == ctx && x.2.1 == line) with
  | some x => if Config.freeBit s.fresh 4501 line then fillCode s.tick1 core ctx line va else (s, .ok x.2.2)
  | none => fillCode s core ctx line va

/-- Empty every instruction cache of a context's lines (R75). -/
def emptyCode (s : State) (ctx : Nat) : State :=
  { s with cores := s.cores.map (fun c => (c.1, { c.2 with icache := c.2.icache.filter (fun x => x.1 != ctx) })) }

/-- Fetch the twelve bytes at a team's PC; a page that is missing parks the team with its active lanes in %fmask (11 R226, R227)
(DEDUCED, log 13). -/
def fetchWord (s : State) (sid : Nat) (t : Team) : State × Fetched :=
  if !canonical t.pc then (s, .trap Cause.noncanonical t.pc 0)
  else
    let a := t.pc.toNat
    let l0 := a / 64
    let l1 := (a + 11) / 64
    let second : Word := if (a + 11) / 4096 = a / 4096 then t.pc else BitVec.ofNat 64 ((a + 11) / 4096 * 4096)
    let denied0 := pageDenied t t.pc
    let denied1 := pageDenied t second
    if denied0 then (s, .trap Cause.pageFault t.pc t.mask)
    else
      let (s1, r0) := fetchLine s t.coreId t.ctx l0 t.pc
      match settleMiss t (match r0 with | .ok _ => .ok | .error f => laneOut f t.pc) with
      | .bad c v => (s1, .trap c v t.mask)
      | o0 =>
        if denied1 then (s1, .trap Cause.pageFault second t.mask)
        else
          let (s2, r1) := if l1 = l0 then (s1, r0) else fetchLine s1 t.coreId t.ctx l1 second
          match settleMiss t (match r1 with | .ok _ => .ok | .error f => laneOut f second) with
          | .bad c v => if o0 == .ok then (s2, .trap c v t.mask) else
              (parkGroup s2 sid { fetch := true, waits := gatherWaits t false [(0, o0)], hard := [] } t.mask t.replay, .wait)
          | o1 =>
            match r0, r1 with
            | .ok d0, .ok d1 =>
              let both : BitVec 1024 := (if l1 = l0 then (0 : BitVec 512) else d1) ++ d0
              (s2, .word (both.extractLsb' (8 * (a % 64)) 96))
            | _, _ =>
              (parkGroup s2 sid { fetch := true, waits := gatherWaits t false ([(0, o0)] ++ (if l1 = l0 then [] else [(0, o1)])), hard := [] }
                t.mask t.replay, .wait)

/-- The trap of a word that is no instruction (05 R101, checks 2 to 4 and 6). -/
def decodeTrap : DecodeErr → BitVec 9 × Word
  | .illegalOpcode v => (Cause.illegalOpcode, v)
  | .reservedNonzero v => (Cause.reservedNonzero, v)
  | .illegalOperand v => (Cause.illegalOperand, v)
  | .illegalScope v => (Cause.illegalScope, v)

/-- Fetch and decode for a team: its instruction, or the state in which it has trapped or waits. A pending trap is taken
before the word is fetched (23 R358). -/
def fetchFor (s : State) (sid : Nat) (t : Team) : State × Option Instr :=
  if trapDue t then (takePending s sid, none)
  else
    match fetchWord s sid (match t.pf with | some g => if g.fetch then t else { t with pf := none } | none => t) with
    | (s1, .trap c v m) => (takeTrap s1 sid c v m t.pc, none)
    | (s1, .wait) => (s1.onTeam sid (fun t => { t with park := .page }), none)
    | (s1, .word w) =>
      match decode w with
      | .error e => (takeTrap s1 sid (decodeTrap e).1 (decodeTrap e).2 0 t.pc, none)
      | .ok i => (s1.onTeam sid (fun t => { t with pf := match t.pf with | some g => if g.fetch then none else some g | none => none }), some i)

end Sys2Proof.Machine
end

