-- ==== Sys2Proof/Machine/Watch.lean ====
section
/-! DEFINITION. Vent windows as the cores see them: signatures, watching teams and holds (17 R290, R293, R294, R296,
R298). -/

namespace Sys2Proof.Machine

/-- log2 of a signature's width (R291). -/
def sigLog (w : BitVec 2) : Nat :=
  match w.toNat with
  | 0 => 3
  | 1 => 6
  | 2 => 9
  | _ => 10

/-- log2 of a grain (R291). -/
def grainLog (g : BitVec 2) : Nat :=
  match g.toNat with
  | 0 => 2
  | 1 => 5
  | _ => 6

/-- Fold `c` chunks of `n` bits by xor. -/
def xorFold (x n c : Nat) : Nat := (List.range c).foldl (fun a i => Nat.xor a (x / 2 ^ (n * i) % 2 ^ n)) 0

/-- The bits that a grain unit `x = VA >> k` sets (R294). -/
def sigBits (n x : Nat) : BitVec 1024 :=
  let h1 := xorFold x n ((64 + n - 1) / n)
  let y := (x * hashConst % 2 ^ 64) / 2 ^ 32
  let h2 := xorFold y n ((32 + n - 1) / n)
  (1#1024 <<< h1) ||| (if 3 < n then 1#1024 <<< h2 else 0)

/-- The fold of the bytes of a range (R293). -/
def sigRange (n k va len : Nat) : BitVec 1024 :=
  if len = 0 then 0
  else (List.range ((va + len - 1) / 2 ^ k - va / 2 ^ k + 1)).foldl (fun m i => m ||| sigBits n (va / 2 ^ k + i)) 0

def Window.fold (w : Window) (va len : Nat) : BitVec 1024 := sigRange (sigLog w.sigw) (grainLog w.grain) va len

/-- The part of `[va, va + len)` inside the watched range: start and length. -/
def Window.clip (w : Window) (va len : Nat) : Nat × Nat :=
  let lo := max va w.base
  (lo, min (va + len) (w.base + w.len) - lo)

/-- Does a line of the watched range hit a signature (R297)? -/
def Window.hits (w : Window) (sig : BitVec 1024) (line : Nat) : Bool :=
  let k := grainLog w.grain
  (List.range (64 / 2 ^ k)).any (fun i => sigBits (sigLog w.sigw) (line * 64 / 2 ^ k + i) &&& sig != 0)

/-- Is a team in a group of its launch? -/
def inGroup (s : State) (lid g team : Nat) : Bool :=
  match s.launch? lid with
  | some l => (match l.groups[g]? with | some r => r.members.contains team | none => false)
  | none => false

/-- The windows a team watches (R290). -/
def watched (s : State) (t : Team) : List Window :=
  s.windows.filter (fun w => w.ctx == t.ctx && w.lid == t.lid && inGroup s w.lid w.group t.team)

/-- The signatures of a core for a window. -/
def sigOf (s : State) (core num : Nat) : BitVec 1024 × BitVec 1024 :=
  Tab.get ((0 : BitVec 1024), (0 : BitVec 1024)) (s.core core).sig num

def setSig (s : State) (core num : Nat) (x : BitVec 1024 × BitVec 1024) : State :=
  s.onCore core (fun c => { c with sig := Tab.set ((0 : BitVec 1024), (0 : BitVec 1024)) c.sig num x })

/-- Fold an access of a team into its core's signatures (R293). -/
def foldAccess (s : State) (t : Team) (va len : Nat) (rd wr : Bool) : State :=
  if s.windows.isEmpty then s
  else (watched s t).foldl (fun s w =>
    let (lo, n) := w.clip va len
    if n = 0 then s
    else
      let f := w.fold lo n
      let x := sigOf s t.coreId w.num
      setSig s t.coreId w.num (if rd then x.1 ||| f else x.1, if wr then x.2 ||| f else x.2)) s

/-- Does a window hold an access of a watching team (R296, R298)? (DEDUCED, log 54). -/
def Window.holds (w : Window) (s : State) (write : Bool) : Bool :=
  match (s.vent w.vent).run with
  | some r => r.win == w.num && (r.hold || (r.escalated && (write || r.direct)))
  | none => false

/-- Is an access of a team to a range held? (DEDUCED, log 54). -/
def held (s : State) (t : Team) (va len : Nat) (write : Bool) : Bool :=
  !s.windows.isEmpty && (watched s t).any (fun w => (w.clip va len).2 != 0 && w.holds s write)

end Sys2Proof.Machine
end

