-- ==== Sys2Proof/Machine/Ready.lean ====
section
/-! DEFINITION. Which teams are ready, and which of them a core issues next (04 R69, R70; 05 R86-R89; 06 R115). -/

namespace Sys2Proof.Machine

/-! ## Barriers, as a waiting team sees them (15 R273, R279) -/

def emptyBarrier : Barrier :=
  { cur := 0, members := 0, now := { arr := 0, bytes := 0 }, next := { arr := 0, bytes := 0 }, ovf := false, late := 0, narr := [] }

def barrierOf (s : State) (lid g : Nat) : Barrier :=
  match s.launch? lid with
  | some l => Tab.get emptyBarrier l.barriers g
  | none => emptyBarrier

def Barrier.narrOf (b : Barrier) (team : Nat) : BitVec 16 := Tab.get (0 : BitVec 16) b.narr team

def onBarrier (s : State) (lid g : Nat) (f : Barrier → Barrier) : State :=
  s.onLaunch lid (fun l => { l with barriers := Tab.put l.barriers g (f (Tab.get emptyBarrier l.barriers g)) })

/-! ## A team's own work (06 R118; 24 R374) -/

/-- Loads, stores, atomics, copies and matrix operations a team issued that have not completed. -/
def ownWork (s : State) (sid : Nat) (t : Team) : Bool :=
  t.sb.any (fun e => !e.engine) || !t.misses.isEmpty
    || s.wchecks.any (fun c => c.sid == sid)
    || s.far.any (fun f => f.sid == sid && f.done.isNone && f.failed.isNone)
    || s.wq.any (fun q => q.sid == sid)
    || (s.core t.coreId).copies.any (fun j => j.sid == sid && j.tkey == t.key)
    || s.cores.any (fun c => c.2.matrix.any (fun e => e.sid == sid && e.tkey == t.key))

/-- Miss-status entries held on a core (10 R203) (DEDUCED, log 24). -/
def heldEntries (s : State) (core : Nat) : Nat :=
  (s.teams.filter (fun e => e.2.coreId == core)).foldl (fun a e => a + e.2.misses.foldl (fun b x => b + x.lines.length) 0) 0

/-- The head of a core's queue of aged passes (10 R204). -/
def agedHead (s : State) (t : Team) : Bool := (s.core t.coreId).agedQ.head? == some t.slot

/-- Does a launch's predecessor still run (03 R49)? -/
def predecessorLeft (s : State) (t : Team) : Bool :=
  match s.launch? t.lid with
  | none => true
  | some l => match l.pred with
    | none => true
    | some p => (s.launch? p).isNone

/-- Calls queued in a window, and whether a commit waits in it. -/
def queuedCalls (w : Window) : Nat :=
  (w.queue.filter (fun x => match x with | .call .. => true | .commit .. => false)).length
def commitQueued (w : Window) : Bool := w.queue.any (fun x => match x with | .call .. => false | .commit .. => true)

/-- Is an `rbeg` barred by an `rbeg.irr` of another team that has been waiting, and waits longer (19 R329)? (DEDUCED, log 72). -/
def irrAhead (s : State) (sid : Nat) (since : Option Nat) : Bool :=
  s.teams.any (fun e => e.1 != sid && (match e.2.park with
    | .irrStart n => (match since with | some k => decide (n < k) | none => true)
    | _ => false))

/-- May `rbeg` go on (19 R329, R330)? -/
def regionFree (s : State) (sid : Nat) (irr : Bool) (since : Option Nat) : Bool :=
  !s.regions.any (fun r => r.irr) && !irrAhead s sid since
    && (if irr then s.regions.isEmpty else decide (s.regions.length < 256))

/-- Does the matrix queue of a core, and for `mma2` of its twin, have a place (13 R240)? -/
def matrixFree (s : State) (core : Nat) (twin : Bool) : Bool :=
  decide ((s.core core).matrix.length < 64) && (!twin || decide ((s.core (core + 1)).matrix.length < 64))

/-- Is the fetched instruction one that needs both cores of a twin? -/
def needsTwin (t : Team) : Bool := match t.fetched with | some (.mma2 ..) => true | _ => false

/-- Is an instruction on memory an sc one (14 R267)? -/
def scAccess : Instr → Bool
  | .vld _ _ _ o .. => o == .sc
  | .vst _ _ _ o .. => o == .sc
  | .sld _ _ _ o .. => o == .sc
  | .sst _ _ _ o .. => o == .sc
  | .vatom _ _ _ o .. => o == .sc
  | .satom _ _ _ o .. => o == .sc
  | _ => false

/-- Is another team in the middle of an sc instruction? Later tickets wait for it, for accesses go in ticket order (14 R267; 19
R313) (DEDUCED, log 130). -/
def scAhead (s : State) (sid : Nat) : Bool :=
  s.teams.any (fun e => e.1 != sid && e.2.mem.isSome && e.2.fetched.any scAccess
    && (match inRegion e.2 with | some v => !v.live | none => true))

/-- May a parked team try again? (DEDUCED, log 7). -/
def parkClear (s : State) (sid : Nat) (t : Team) : Bool :=
  match t.park with
  | .run => true
  | .page => (match t.pf with | some g => g.waits.all (fun w => w.resp.isSome) | none => true)
  | .checks => !s.wchecks.any (fun c => c.sid == sid)
  | .result r => !t.sb.any (fun e => e.reg == r)
  | .arrive g => let b := barrierOf s t.lid g; b.narrOf t.team != b.cur + 1
  | .phase g p => (barrierOf s t.lid g).cur != BitVec.ofNat 16 p
  | .version a v =>
      let c := Tab.get (0 : BitVec 16) (s.core t.coreId).counters a
      c == BitVec.ofNat 16 v || t.mwaitHit
  | .matrixFull => matrixFree s t.coreId (needsTwin t)
  | .calderaFull => decide ((s.core t.coreId).copies.length < 32)
  | .regionEnd => (match t.region with | some v => !v.ending | none => true)
  | .regionStart => regionFree s sid false none
  | .irrStart n => t.region.isNone && regionFree s sid true (some n)
  | .regionLine on => (match t.region with | some v => !v.live | none => true)
      || on.on.any (fun k => !s.regions.any (fun r => r.ticket == k))
  | .callSlot => decide (t.slots.length < 16)
  | .window v => decide (s.windows.length < 64) && decide ((s.windows.filter (fun w => w.vent == v)).length < 4)
  | .vent => (match t.window with
      | none => true
      | some n => match s.window? n with
        | none => true
        | some w => match t.fetched with
          | some (.nmcall ..) => decide (queuedCalls w < 64)
          | _ => !commitQueued w)
  | .held w rs => !rs.any (fun (r : Nat × Nat) => held s t r.1 r.2 w)
  | .predecessor => predecessorLeft s t
  | .cancelFull => decide ((s.die t.die).cancels.length < 64)
  | .evq => true
  | .drain => !s.wq.any (fun q => q.sid == sid)
  | .aged => agedHead s t && decide (heldEntries s t.coreId < Config.generalMshr + Config.reservedMshr)
  | .ticket => !scAhead s sid
  | .link => !linksBusy s
  | .atomics => !s.far.any (fun f => f.sid == sid && f.done.isNone && f.failed.isNone)
  | .record => t.recordVa.isNone
  | .work => !ownWork s sid t

/-- Has forced pre-emption stopped the team (23 R365)? What has begun to issue still completes. -/
def stopped (s : State) (t : Team) : Bool :=
  (match s.ctx? t.ctx with | some c => c.stopping | none => false)
    && !(t.pended.isSome || t.mem.isSome || t.midAccess)

/-- A pending trap that can be taken now. -/
def trapReady (s : State) (t : Team) : Bool :=
  trapDue t && !stopped s t && !t.exited && t.failed.isNone && decide (t.readyAt ≤ s.clock)

/-- `yield`: another team of the core has issued since, or 16 cycles have passed (06 R115) (DEDUCED, log 14). -/
def yieldClear (s : State) (t : Team) : Bool :=
  match t.yieldTo with
  | none => true
  | some (n, lim) => decide (lim ≤ s.clock) || decide (n < (s.core t.coreId).issues)

/-- Does the scoreboard release the instruction, and can its results land in order (05 R88, R89)? -/
def boardClear (s : State) (t : Team) (i : Instr) : Bool :=
  let u := uses i
  (pendingReg t i u).isNone && decide (landsInOrder t u (latency (opcOf i)) ≤ s.clock)

/-- A team whose next pass may issue in this cycle (04 R69): a later pass of the instruction at hand, or the first of the next
one. A failed team's issued accesses are performed (23 R362). -/
def teamReady (s : State) (sid : Nat) (t : Team) : Bool :=
  if t.more.isSome then t.failed.isNone
  else
    !t.exited && (t.failed.isNone || t.midAccess) && !stopped s t && decide (t.readyAt ≤ s.clock) && !trapDue t && yieldClear s t
      && parkClear s sid t
      && !s.pushes.any (fun p => p.sid == sid && p.key == t.key && p.stalled)
      && (match t.fetched with | some i => boardClear s t i | none => false)

/-- The issue cycles of a team's next pass (05 R86). -/
def nextCycles (t : Team) : Nat :=
  match t.more, t.fetched with
  | some m, _ => m.cycles
  | none, some i => passCycles i
  | none, none => 1

/-- A team that may fetch its next word. -/
def fetchReady (s : State) (sid : Nat) (t : Team) : Bool :=
  t.fetched.isNone && t.more.isNone && !t.exited && t.failed.isNone && !stopped s t && !trapDue t && parkClear s sid t

/-- Is some other team of the core ready? -/
def otherReady (s : State) (sid : Nat) (t : Team) : Bool :=
  s.teams.any (fun e => e.1 != sid && e.2.die == t.die && e.2.core == t.core && teamReady s e.1 e.2)

/-- The team a core issues next: the run in progress while it stays within 16 cycles, else the ready team that issued
least recently, ties to the lowest slot (R69). -/
def selectTeam (s : State) (core : Nat) : Option Nat :=
  let c := s.core core
  if s.clock < c.busyUntil then none
  else
    let ready := s.teams.filter (fun e => e.2.coreId == core && teamReady s e.1 e.2)
    match ready.find? (fun e => c.lastKey == some e.2.key &&
        decide (c.run + nextCycles e.2 ≤ 16)) with
    | some e => some e.1
    | none =>
      match ready.foldl (fun (a : Option (Nat × Team)) e => match a with
        | none => some e
        | some b => if e.2.issued < b.2.issued then some e else some b) none with
      | some e => some e.1
      | none => none

/-- The least-recent position on a core (04 R69). -/
def leastIssued (s : State) (core : Nat) : Int :=
  (s.teams.filter (fun e => e.2.coreId == core)).foldl (fun a e => min a e.2.issued) 0 - 1

/-- The first choice after a pass whose YLD ended its team's run: the team takes the least-recent position, unless a team that is
ready now and is not the one chosen would then wait behind it a second time (04 R69, R70) (DEDUCED, log 125). -/
def placeYielded (s : State) (core sid : Nat) : State :=
  match (s.core core).yielded with
  | none => s
  | some k =>
    let s1 := s.onCore core (fun c => { c with yielded := none })
    match s.teams.find? (fun e => e.2.key == k) with
    | none => s1
    | some y =>
      if y.1 = sid || s.teams.any (fun e => e.2.coreId == core && e.1 != y.1 && e.1 != sid && teamReady s e.1 e.2) then s1
      else s1.setTeam y.1 { y.2 with issued := leastIssued s core }

/-- The order in which deque operations of one cycle are taken (15 R284): `dpush` and `dpop` before `dsteal`, each by ascending
core. None where the pass that a core would issue is no deque operation. -/
def dequeKey (s : State) (core : Nat) : Option Nat :=
  match (selectTeam s core).bind (fun sid => (s.team? sid).bind (fun t => t.fetched)) with
  | some (.dpush ..) => some core
  | some (.dpop ..) => some core
  | some (.dsteal ..) => some (Config.dies * Config.coresPerDie + core)
  | _ => none

/-- Does a deque operation of another core come first in this cycle (15 R284)? (DEDUCED, log 62). -/
def dequeBehind (s : State) (core : Nat) : Bool :=
  match dequeKey s core with
  | none => false
  | some k => ((s.teams.map (fun e => e.2.coreId)).dedup).any (fun c => match dequeKey s c with
    | some j => decide (j < k)
    | none => false)

/-- Is a region open, so that the instructions of 19 R327 trap? -/
def regionForbids (t : Team) : Bool := t.openRegion.isSome

/-- That trap (19 R327). -/
def regionTrap (s : State) : Done := .trap s Cause.regionIllegalOp 0 0 false

end Sys2Proof.Machine
end

