-- ==== Sys2Proof/Machine/Spad.lean ====
section
/-! DEFINITION. Scratchpad bytes (10 R192-R195), and what a write to them does to the copies and matrix operations in
flight on the core (10 R216; 13 R244). -/

namespace Sys2Proof.Machine

/-- The key of a scratchpad byte. -/
def spadKey (core off : Nat) : Nat := core * 2 ^ 21 + off

/-- One byte of a scratchpad: as last written, else what placement left there, a free value (04 R62; 10 R194); 0 where no
team has been placed since reset (DESIGN CHOICE, log 2) (DESIGN CHOICE, log 19). -/
def spadByte (s : State) (k : Nat) : Byte :=
  match Tab.find s.spad k with
  | some b => b
  | none => (match Tab.find s.spadBase (k / 512) with | some d => Config.freeByte d k | none => 0)

/-- `n` bytes of a core's scratchpad. -/
def spadRead (s : State) (core off n : Nat) : List Byte := (List.range n).map (fun i => spadByte s (spadKey core (off + i)))

/-- A team is placed over a range, whole 512-byte blocks: what it holds is unpredictable until written (04 R62)
(DESIGN CHOICE, log 19). -/
def spadForget (s : State) (core off n : Nat) : State :=
  if n = 0 then s
  else
    let lo := spadKey core off
    { s with
      spad := s.spad.filter (fun e => e.1 < lo || lo + n ≤ e.1)
      spadBase := (List.range ((n + 511) / 512)).foldl (fun t i => Tab.put t (lo / 512 + i) s.fresh) s.spadBase }

/-- Write bytes, with no note to the engines; the team whose store or atomic it is, if it is one. -/
def spadPut (s : State) (core off : Nat) (bs : List Byte) (tkey : Option Nat := none) : State :=
  { s with
    spad := (bs.zipIdx).foldl (fun m b => Tab.put m (spadKey core (off + b.2)) b.1) s.spad
    spadLog := (bs.zipIdx).foldl (fun m b =>
      let k := spadKey core (off + b.2)
      Tab.put m k { order := s.order, old := spadByte s k, tkey := tkey }) s.spadLog }

/-- Put back bytes that a context's teams had: no write of theirs, so that none of them is read old. -/
def spadRestore (s : State) (core off : Nat) (bs : List Byte) : State :=
  { s with
    spad := (bs.zipIdx).foldl (fun m b => Tab.put m (spadKey core (off + b.2)) b.1) s.spad
    spadLog := s.spadLog.filter (fun e => e.1 < spadKey core off || spadKey core off + bs.length ≤ e.1) }

/-- Keep what a byte held when a copy that may read it was issued. -/
def keepOld (t : Tab Byte) (s : State) (core off n : Nat) : Tab Byte :=
  (List.range n).foldl (fun t i =>
    if (Tab.find t (off + i)).isSome then t
    else Tab.put t (off + i) (spadByte s (spadKey core (off + i)))) t

/-- Who writes scratchpad bytes: a team's store or atomic, a copy of a team, or the matrix engine. -/
inductive SpadWriter where
  | store (tkey : Nat) | atomic (tkey : Nat) | copy (tkey : Nat) | matrix (add : Bool)
  deriving DecidableEq, Repr

/-- The team whose own access it is. -/
def SpadWriter.team : SpadWriter → Option Nat
  | .store k => some k
  | .atomic k => some k
  | .copy _ => none
  | .matrix _ => none

/-- Is it indivisible with respect to add-on-stores (13 R251)? -/
def SpadWriter.adds : SpadWriter → Bool
  | .atomic _ => true
  | .matrix a => a
  | .store _ => false
  | .copy _ => false

/-- Tell the copies and matrix operations of a core that a range is being written. A copy's source bytes may be read old or new,
but the earlier copies of its own team are performed before it; only a team's write makes its destination bytes unpredictable
(10 R216). -/
def noteSpad (s : State) (core off n : Nat) (by_ : SpadWriter) : State :=
  if (s.core core).copies.isEmpty && (s.core core).matrix.isEmpty then s
  else s.onCore core (fun c =>
    { c with
      copies := c.copies.map (fun j =>
        { j with touched := if by_ == .copy j.tkey then j.touched else keepOld j.touched s core off n,
                 clobbered := if j.out || by_.team.isNone then j.clobbered else j.clobbered ++ [{ off := off, len := n }] })
      matrix := c.matrix.map (fun e =>
        { e with touched := e.touched ++ [{ off := off, len := n }],
                 rewrote := if by_.adds then e.rewrote else e.rewrote ++ [{ off := off, len := n }] }) })

/-- Write scratchpad bytes. -/
def spadWrite (s : State) (core off : Nat) (bs : List Byte) (by_ : SpadWriter) : State :=
  spadPut (noteSpad s core off bs.length by_) core off bs by_.team

/-- Tell the `cpyout` copies of a context that global bytes are being written by a team. -/
def noteGlobal (s : State) (ctx va n : Nat) : State :=
  { s with cores := s.cores.map (fun e =>
      if e.2.copies.any (fun j => j.out) then
        (e.1, { e.2 with copies := e.2.copies.map (fun j =>
          if j.out && (match s.team? j.sid with | some t => t.ctx == ctx | none => true) then
            { j with clobbered := j.clobbered ++ [{ off := va, len := n }] } else j) })
      else e) }

end Sys2Proof.Machine
end

