-- ==== Sys2Proof/Machine/Access.lean ====
section
/-! DEFINITION. One lane's access to memory, and what the memory instructions share: the checks of a lane, the write
checks, miss-status entries, order and scope (10 R192-R204; 11 R226-R229; 14 R268-R270). -/

namespace Sys2Proof.Machine

/-- How the lanes of a memory instruction make their accesses. -/
structure Acc where
  a    : Access
  o    : Ord
  sp   : Space
  size : Nat

/-! ## Checks (10 R196, R210) -/

/-- The checks that come before translation (R196). -/
def laneCheck (t : Team) (sp : Space) (size : Nat) (a : Word) : Option (BitVec 9) :=
  if sp == .global && !canonical a then some Cause.noncanonical
  else if a.toNat % size != 0 then some Cause.misaligned
  else match sp with
    | .global => none
    | .spad => if a.toNat < t.spadLen then none else some Cause.scratchRange
    | .lpriv => if a.toNat < t.privLen then none else some Cause.scratchRange

/-- Is an address in a sealed range of a context (R210)? -/
def sealedAt (s : State) (ctx va : Nat) : Bool :=
  match s.ctx? ctx with
  | some c => c.seals.any (fun r => decide (r.1 ≤ va ∧ va < r.1 + r.2))
  | none => false

/-- The offset in the core's scratchpad of a lane's scratchpad or lane-private address (R192, R194). -/
def bankOff (t : Team) (sp : Space) (lane : Nat) (a : Word) : Nat :=
  match sp with
  | .lpriv => t.privOff + lane * t.privLen + a.toNat
  | _ => t.spadOff + a.toNat

/-- Is a global access a region access, or one of a doomed region? -/
inductive Inside where
  | no
  | live (v : RegionView)
  | doomed

def insideOf (t : Team) : Inside :=
  match inRegion t with
  | none => .no
  | some v => if v.live then .live v else .doomed

/-- The bytes of a value placed at an offset of a line. -/
def placeNat (off v : Nat) : LineData := BitVec.ofNat 512 (v * 2 ^ (8 * off))

def lineNo (a : Word) : Nat := a.toNat / 64
def lineOff (a : Word) : Nat := a.toNat % 64

/-! ## Loads -/

/-- A lane's load. -/
def loadLane (s : State) (x : Acc) (lane : Nat) (addr : Word) : State × LaneGot :=
  match s.team? x.a.sid with
  | none => (s, .skip)
  | some t =>
    match laneCheck t x.sp x.size addr with
    | some c => (s, .out (.bad c addr))
    | none =>
      if x.sp != .global then (s, .val (leNat (spadRead s t.coreId (bankOff t x.sp lane addr) x.size)))
      else if pageDenied t addr then (s, .out (.bad Cause.pageFault addr))
      else
        let line := lineNo addr
        let need := byteRange (lineOff addr) x.size
        match insideOf t with
        | .live v =>
          match regionLoad s v x.a.sid x.a.core x.a.ctx line need with
          | (s1, .done d) => (foldAccess s1 t addr.toNat x.size true false, .val (lineNat d (lineOff addr) x.size))
          | (s1, .stall on) => (s1, .stall on)
          | (s1, .aborted) => (s1, .skip)
          | (s1, .fail f) => (s1, .out (laneOut f addr))
        | _ =>
          match loadLine s x.a x.o line need with
          | (s1, .ok d) => (foldAccess s1 t addr.toNat x.size true false, .val (lineNat d (lineOff addr) x.size))
          | (s1, .error f) => (s1, .out (laneOut f addr))

/-! ## Stores -/

/-- The write check of a lane that failed (11 R229). -/
def wfaultOf (s : State) (sid line : Nat) : Option WFault := s.wfaults.find? (fun f => f.sid == sid && f.line == line)

def WFault.out (f : WFault) (addr : Word) : LaneOut :=
  if f.absent then .miss addr (f.cause == Cause.accessViolation) else .bad f.cause addr

/-- Where a team's write of a line is performed. -/
def writePlace (s : State) (t : Team) (x : Acc) (line : Nat) : Place :=
  match insideOf t with
  | .no => storePlace s x.a x.o line
  | _ => .l1

/-- A lane's store of `v`, its write check made (10 R198-R201; 19 R313). -/
def storeLane (s : State) (x : Acc) (lane : Nat) (addr : Word) (v : Nat) : State × LaneGot :=
  match s.team? x.a.sid with
  | none => (s, .skip)
  | some t =>
    match laneCheck t x.sp x.size addr with
    | some c => (s, .out (.bad c addr))
    | none =>
      if x.sp != .global then (spadWrite s t.coreId (bankOff t x.sp lane addr) (leBytes x.size v) (.store t.key), .val 0)
      else if pageDenied t addr then (s, .out (.bad Cause.pageFault addr))
      else
        let line := lineNo addr
        let mask := byteRange (lineOff addr) x.size
        let data := placeNat (lineOff addr) v
        match insideOf t with
        | .doomed => (s, .skip)
        | ins =>
          match wfaultOf s x.a.sid line with
          | some f => (s, .out (f.out addr))
          | none =>
            if sealedAt s x.a.ctx addr.toNat then (s, .out (.bad Cause.sealWrite addr))
            else match ins with
              | .live v =>
                match grantFor s x.a .l1 line with
                | .check => (s, .out (.miss addr false))
                | .direct _ => (s, .out (.bad Cause.regionIllegalOp addr))
                | .granted tr =>
                  match regionStore s v x.a.core x.a.ctx line tr mask data with
                  | (s1, .done _) => (s1, .val 0)
                  | (s1, .stall on) => (s1, .stall on)
                  | (s1, .aborted) => (s1, .skip)
                  | (s1, .fail f) => (s1, .out (laneOut f addr))
              | _ =>
                match storeLine (noteGlobal s x.a.ctx addr.toNat x.size) x.a x.o line mask data with
                | (s1, .ok ()) => (foldAccess s1 t addr.toNat x.size false true, .val 0)
                | (s1, .error f) => (s1, .out (laneOut f addr))

/-- The lines of a store or atomic whose write checks are still to be made (11 R229). -/
def needChecks (s : State) (t : Team) (x : Acc) (lanes : List (Nat × Word)) : List (Nat × Place) :=
  if x.sp != .global then []
  else match insideOf t with
    | .doomed => []
    | _ =>
      let ls := (lanes.filter (fun l => (laneCheck t x.sp x.size l.2).isNone && !pageDenied t l.2)).map (fun l => lineNo l.2)
      (ls.dedup.filter (fun l => (wfaultOf s x.a.sid l).isNone)).filterMap (fun l =>
        let p := writePlace s t x l
        match grantFor s x.a p l with
        | .check => some (l, p)
        | _ => none)

/-- Send the write checks and hold the team (R229). -/
def sendChecks (s : State) (x : Acc) (ls : List (Nat × Place)) : Done :=
  .wait { s with wchecks := s.wchecks ++ ls.map (fun l =>
    { sid := x.a.sid, ctx := x.a.ctx, line := l.1, toHome := l.2 != .l1, alloc := l.2 == .home }) } .checks

/-! ## Gates before any lane is performed -/

/-- An instruction whose accesses may not begin yet: a region of the team is ending (19 R320), a window holds it (17 R296,
R298), earlier writes must be performed first (14 R270), its ticket would come before an earlier one's accesses are performed (14
R267), or a peer's link is not open (21 R338, R339). -/
def gate (s : State) (t : Team) (x : Acc) (write drain sc : Bool) (lanes : List (Nat × Word)) : Option Park :=
  if sc && t.mem.isNone && scAhead s x.a.sid then some .ticket
  else if x.sp == .global && (match t.region with | some v => v.ending | none => false) then some .regionEnd
  else if x.sp == .global && lanes.any (fun l => (laneCheck t x.sp x.size l.2).isNone && held s t l.2.toNat x.size write) then
    some (.held write ((lanes.filter (fun l => (laneCheck t x.sp x.size l.2).isNone)).map (fun l => (l.2.toNat, x.size))))
  else if drain && s.wq.any (fun q => q.sid == x.a.sid) then some .drain
  else if x.sp == .global && linesHeld s x.a.ctx ((lanes.map (fun l => lineNo l.2)).dedup) (if write then .write else .read) then
    some .link
  else none

/-! ## Miss-status entries (10 R203, R204) -/

/-- Does a team of the core hold an entry for the line, which an access of the context joins? -/
def outstandingAt (s : State) (core ctx line : Nat) : Bool :=
  s.teams.any (fun e => e.2.coreId == core && e.2.ctx == ctx && e.2.misses.any (fun m => m.lines.contains line))

def outstanding (s : State) (t : Team) (line : Nat) : Bool := outstandingAt s t.coreId t.ctx line

/-- Is a store of a line written through, to its home or to the peer or IO-only page where it lies (R203; 11 R236, R237)? -/
def writtenThrough (s : State) (t : Team) (x : Acc) (line : Nat) : Bool :=
  match insideOf t with
  | .no => writePlace s t x line != .l1 || (match grantFor s x.a .l1 line with | .direct _ => true | _ => false)
  | _ => false

/-- The lines for which a pass needs an entry, ascending. -/
def passLines (s : State) (t : Team) (x : Acc) (need : Nat → ByteMask → Bool) (lanes : List (Nat × Word)) : List Nat :=
  if x.sp != .global then []
  else
    (((lanes.filter (fun l => (laneCheck t x.sp x.size l.2).isNone && need (lineNo l.2) (byteRange (lineOff l.2) x.size)
        && !outstanding s t (lineNo l.2))).map (fun l => lineNo l.2)).dedup).mergeSort (fun a b => decide (a ≤ b))

/-- The reserved entries in use on a core. -/
def heldReserved (s : State) (core : Nat) : Nat :=
  (s.teams.filter (fun e => e.2.coreId == core)).foldl (fun a e => a + e.2.misses.foldl (fun b m => b + m.reserved) 0) 0

/-- What a pass may do with its lines: go on with some of its lanes, taking entries for lines, some of them reserved; or not. -/
inductive Admit where
  | go (lanes : List (Nat × Word)) (lines : List Nat) (reserved : Nat)
  | no (d : Done)

/-- Admit a pass: all its entries or none, from the general entries; a pass rejected 16 times is aged, and the head of the aged
queue goes on with the lowest lines for which entries are free, up to 8 at a time. -/
def admitPass (s : State) (t : Team) (lines : List Nat) (lanes : List (Nat × Word)) : Admit :=
  let res := heldReserved s t.coreId
  let gen := heldEntries s t.coreId - res
  if lines.isEmpty && !t.aged then .go lanes [] 0
  else if t.aged then
    if !agedHead s t then .no (.wait s .aged)
    else
      let spare := Config.reservedMshr - res
      let n := min 8 (spare + (Config.generalMshr - gen))
      if lines.length ≤ n then .go lanes lines (min spare lines.length)
      else match (lines.take n).getLast? with
        | none => .no (.wait s .aged)
        | some top => .go (lanes.filter (fun l => decide (lineNo l.2 ≤ top))) (lines.take n) (min spare n)
  else if Config.generalMshr < gen + lines.length then
    let r := t.rejects + 1
    let s1 := pmcCount (s.setTeam t.sid { t with rejects := r }) (.core t.coreId) 6 t.ctx 1
    if r = Config.agedAfter then .no (.issued (s1.due (.passAged t.sid)) .aged) else .no (.issued s1 .run)
  else .go lanes lines 0

/-! ## Order -/

/-- What a release does before the access: the wait is a gate (10 R200; 14 R265, R270) (DEDUCED, log 29). -/
def beforeRelease (s : State) (a : Access) (rel : Bool) : State := if rel then releaseAt s a else s

/-- An sc operation takes a ticket (14 R267). -/
def takeTicket (s : State) (sc : Bool) : State := if sc then { s with ticket := s.ticket + 1 } else s

/-- Inside a live region ORD and SCOPE are ignored (19 R313). -/
def orderOf (t : Team) (sp : Space) (o : Ord) : Ord :=
  match sp, insideOf t with
  | .global, .live _ => .weak
  | _, _ => o

/-! ## Running the lanes -/

/-- Perform lanes in ascending order; an error where a region access stalls. A stall that aborts the
region instead leaves the rest to be performed as a doomed region's. -/
def runLanes (f : State → Nat → Word → State × LaneGot) :
    State → List (Nat × Word) → Except Stall (State × List (Nat × LaneGot))
  | s, [] => .ok (s, [])
  | s, (l, a) :: r =>
    match f s l a with
    | (_, .stall on) => .error on
    | (s1, g) =>
      match runLanes f s1 r with
      | .error on => .error on
      | .ok (s2, gs) => .ok (s2, (l, g) :: gs)

def outsOf (gs : List (Nat × LaneGot)) : List (Nat × LaneOut) :=
  gs.map (fun g => (g.1, match g.2 with | .out o => o | _ => .ok))

/-- The values brought back, by lane. An access that a region's abort refuses leaves every lane of the destination as it was (20
R335). -/
def valsOf (gs : List (Nat × LaneGot)) : Tab Nat :=
  if gs.any (fun g => g.2 == .skip) then []
  else gs.filterMap (fun g => match g.2 with | .val x => some (g.1, x) | _ => none)

def laneMask (ls : List Nat) : Mask := ls.foldl (fun (m : Mask) l => m ||| (1#1024 <<< l)) 0

/-- End a memory instruction. Faults of region accesses abort the region and raise no trap (19 R325); a doomed region's
are suppressed, and so are those of an instruction of which an access was refused (R323; 20 R335). -/
def settleMem (s : State) (sid : Nat) (t0 : Team) (x : Acc) (write : Bool) (whole : Option Mask) (gs : List (Nat × LaneGot))
    (complete : State → Done) : Done :=
  let outs := outsOf gs
  let hard := (match t0.pf with | some g => g.hard | none => []) ++ hardFaults (outs.map (fun o => (o.1, settleMiss t0 o.2)))
  let waits := gatherWaits t0 write (outs.map (fun o => (o.1, settleMiss t0 o.2)))
  if gs.any (fun g => g.2 == .skip) then complete s
  else match (if x.sp == .global then insideOf t0 else .no) with
  | .no => settle s sid t0 write whole outs complete
  | .live v =>
    if waits.isEmpty && !hard.isEmpty then
      complete (abortRegion s v.slot (BitVec.ofNat 9 (hard.foldl (fun (a : Nat) f => min a f.cause.toNat) 512)) 0)
    else settle s sid t0 write whole outs complete
  | .doomed => if waits.isEmpty then complete s else settle s sid t0 write whole outs complete

/-- Enter an interlocked result for each register (05 R88), none to land before a cycle or before the responses it waits for. -/
def addResults (due : Nat) (after : List Nat) (s : State) (sid : Nat) : List RegName → State
  | [] => s
  | r :: rs => addResults due after (addSb s sid r after false due).1 sid rs

/-! ## Scratchpad banks (10 R193, R194) -/

/-- The bank words that one pass asks for: those of the team's range, or the bank of each lane for lane-private bytes. A bank
is a word's number modulo 32. -/
def bankWords (t : Team) (x : Acc) (lanes : List (Nat × Word)) : List Nat :=
  let ok := lanes.filter (fun l => (laneCheck t x.sp x.size l.2).isNone)
  match x.sp with
  | .lpriv => ok.map Prod.fst
  | _ => (ok.map (fun l => bankOff t x.sp l.1 l.2 / 64)).dedup

/-- A bank serves one word a cycle: from a cycle on, the words are served in turn. The banks, and the cycle by which all of
the words are. -/
def serveWords (banks : Tab Nat) (start : Nat) (words : List Nat) : Tab Nat × Nat :=
  words.foldl (fun (a : Tab Nat × Nat) w =>
    let e := max start (Tab.get 0 a.1 (w % 32)) + 1
    (Tab.put a.1 (w % 32) e, max a.2 e)) (banks, start)

/-- A pass of a scratchpad access takes its turn at the banks: the state, and the cycle by which it is served (DEDUCED, log 41). -/
def useBanks (s : State) (t : Team) (x : Acc) (lanes : List (Nat × Word)) : State × Nat :=
  if x.sp == .global then (s, 0)
  else
    let r := serveWords (s.core t.coreId).banks s.clock (bankWords t x lanes)
    (s.onCore t.coreId (fun k => { k with banks := r.1 }), r.2)

/-! ## A memory instruction, pass by pass (04 R69; 06 R104) -/

/-- What a memory instruction does with a lane, and what its lanes need before they are performed. -/
structure MemOpn where
  x     : Acc
  write : Bool                          -- it writes: its lines need write checks (11 R229)
  drain : Bool                          -- it waits for the team's queued writes first (14 R270)
  sc    : Bool                          -- it takes a ticket (14 R267)
  first : State → State                 -- what it does before its first lane: a release, a ticket
  need  : Nat → ByteMask → Bool         -- does a line need a miss-status entry?
  event : Bool                          -- is such a line a load miss of the L1 (24 R377)?
  send  : State → List (Nat × Word) → Option State     -- send the lanes that are performed away from the core (11 R235, R236)
  lane  : State → Nat → Word → State × LaneGot

/-- The lanes of a pass that go together: those that the scratchpad or the L1 serves; else those of one line, whichever, for each
access at a home is a step of its own and the lanes of one instruction have no order (14 R262, R269). -/
def togetherOf (s : State) (m : MemOpn) (lanes : List (Nat × Word)) : List (Nat × Word) :=
  let near := lanes.filter (fun l => !(m.x.sp == .global && m.need (lineNo l.2) (byteRange (lineOff l.2) m.x.size)))
  if !near.isEmpty then near
  else match (lanes.map (fun l => lineNo l.2)).eraseDups with
    | [] => lanes
    | [_] => lanes
    | ls => lanes.filter (fun l => lineNo l.2 == ls.getD (Config.choice s.fresh % ls.length) 0)

/-- A pass takes its entries, under the order number that names them. -/
def takeEntries (s : State) (sid : Nat) (event : Bool) (lines : List Nat) (reserved : Nat) : State :=
  if lines.isEmpty then s
  else
    let s1 := (s.onTeam sid (fun t => { t with misses := t.misses ++ [{ tok := s.order, lines := lines, reserved := reserved }] })).nextOrder
    match s.team? sid with
    | some t => if event then pmcCount s1 (.core t.coreId) 5 t.ctx lines.length else s1
    | none => s1

/-- The pass of an instruction that is to be performed: its instruction's account, the pass's lanes and the state once it has been
admitted, or what keeps it. -/
inductive PassStart where
  | go (s : State) (r : MemRun) (lanes : List (Nat × Word))
  | no (d : Done)

/-- A pass begins: it is admitted with its entries, and what the instruction does before its first lane is done (10 R203; 14 R265,
R267). -/
def startPass (s : State) (sid : Nat) (t : Team) (m : MemOpn) (r : MemRun) (lanes : List (Nat × Word)) : PassStart :=
  match admitPass s t (passLines s t m.x m.need lanes) lanes with
  | .no d => .no d
  | .go now lines reserved =>
    let s0 := if r.left = r.en then m.first s else s
    let s1 := takeEntries s0 sid m.event lines reserved
    let r1 : MemRun := { r with after := if lines.isEmpty then r.after else r.after ++ [s0.order],
                                held := some (s0.order, laneMask (now.map Prod.fst)) }
    .go s1 r1 now

/-- Go on with a memory instruction: the lanes of its next mask word, or those of them for which there are entries; of a pass that is
under way, the lanes still to be performed. With none left it ends. -/
def runPass (s : State) (sid : Nat) (t : Team) (en : Mask) (addr : Nat → Word) (m : MemOpn) (last : State → MemRun → Done) : Done :=
  let r := t.mem.getD { en := en, left := en, got := [], after := [], due := 0, held := none }
  let word := (lowest r.left).getD 0 / 32
  let of_ (left : Mask) : List (Nat × Word) :=
    ((List.range 32).filter (fun i => left.getLsbD (32 * word + i))).map (fun i => (32 * word + i, addr (32 * word + i)))
  let lanes := of_ (match r.held with | some h => h.2 | none => r.left)
  match gate s t m.x m.write m.drain m.sc lanes with
  | some p => .wait s p
  | none =>
    match (if m.write then needChecks s t m.x lanes else []) with
    | c :: cs => sendChecks s m.x (c :: cs)
    | [] =>
      match (if r.held.isSome then .go s r lanes else startPass s sid t m r lanes) with
      | .no d => d
      | .go s0 r0 pass =>
        match m.send s0 pass with
        | some s1 => .wait (s1.onTeam sid (fun t => { t with mem := some r0 })) .atomics
        | none =>
          let now := togetherOf s0 m pass
          match runLanes m.lane s0 now with
          | .error on => .wait s (.regionLine on)
          | .ok (s1, gs) =>
            let b := useBanks s1 t m.x now
            let gone := laneMask (now.map Prod.fst)
            let rest := (match r0.held with | some h => h.2 | none => 0) &&& ~~~ gone
            let left := r0.left &&& ~~~ gone
            let r1 : MemRun := { r0 with left := left, got := r0.got ++ gs, due := max r0.due b.2,
                                         held := if rest = 0 then none else r0.held.map (fun h => (h.1, rest)) }
            let s2 := b.1.onTeam sid (fun t => { t with mem := if left = 0 then none else some r1 })
            if left = 0 then last s2 r1
            else if rest != 0 then .wait s2 .run
            else if (of_ left).isEmpty then .issued (s2.onTeam sid (fun t => { t with rejects := 0, aged := false })) .run
            else .wait s2 .aged

end Sys2Proof.Machine
end

