-- ==== Sys2Proof/Machine/Memory.lean ====
section
/-! DEFINITION. Loads and stores, `fence`, `pf`, `cflush`, `cinval`, `seal`, `unseal` and `twait` (10 R205-R211, R220). -/

namespace Sys2Proof.Machine

def mBytes : MTy → Nat
  | .n8 => 1
  | .i8 => 1
  | .n16 => 2
  | .i16 => 2
  | .b32 => 4
  | .b64 => 8
  | .b128 => 16
def mSigned : MTy → Bool
  | .i8 => true
  | .i16 => true
  | _ => false
/-- Vector registers of a value (R205). -/
def mRegs : MTy → Nat
  | .b64 => 2
  | .b128 => 4
  | _ => 1

/-- A loaded value extended to 32 bits when it is narrower (R205). -/
def mExtend (ty : MTy) (w x : Nat) : Nat :=
  if (mSigned ty) then wrapT w (extT true (8 * (mBytes ty)) x) else x

def accessOf (sid : Nat) (t : Team) (m : MemOp) : Access :=
  { sid := sid, core := t.coreId, ctx := t.ctx, scope := m.scope, pol := m.pol }

def isAcq : Ord → Bool
  | .acqRel => true
  | .sc => true
  | _ => false

/-- The lanes of an enable and their addresses. -/
def laneAddrs (vw : View) (m : MemOp) (en : Mask) : List (Nat × Word) :=
  ((List.range vw.t.w).filter (fun l => en.getLsbD l)).map (fun l => (l, vw.addr m l))

/-! ## vld, sld -/

/-- Does a load have one address for all lanes (06 R108, row 7; R205) (DEDUCED, log 20)? -/
def uniformAddr (t : Team) (m : MemOp) : Bool := match m.idx with | some n => (t.vr n.toNat).tag == .u | none => true

/-- The lane whose access serves a whole U result: any, and in lane-private space, where each lane has bytes of its own and the
spec does not say which the one value is, a free one (DESIGN CHOICE, log 120). -/
def uniformLane (s : State) (t : Team) (sp : Space) : Nat := if sp == .lpriv then Config.choice s.fresh % t.w else 0

/-- Registers after a load: the performed lanes, the others kept (R197, R205). A U destination whose one access failed
keeps its lanes where they are equal; others cannot be held under the tag, and the value is left free
(DESIGN CHOICE, log 21). -/
def loadRegs (t : Team) (seed : Nat) (single : Bool) (d n : Nat) (vals : Tab Nat) : Team :=
  (List.range n).foldl (fun (t : Team) i =>
    let old := t.vr (d + i)
    let word (x : Nat) : Lane := BitVec.ofNat 32 (x / 2 ^ (32 * i))
    if single then
      t.setV (d + i) (match vals with
        | (_, x) :: _ => .u (word x)
        | [] => if (List.range t.w).all (fun l => old.lane l == old.lane 0) then .u (old.lane 0) else .u (Config.freeLane seed (d + i)))
    else
      t.setV (d + i) (.g ((List.range t.w).map (fun l => match Tab.find vals l with
        | some x => word x
        | none => old.lane l)))) t

/-- What a load or store does before its first lane: a release, and a ticket (14 R265, R267). Every sc operation is ordered after
all that precedes an earlier one in ticket order, so it does what a release and an acquire do. -/
def memFirst (x : Acc) (rel : Bool) (s : State) : State := takeTicket (beforeRelease s x.a rel) (x.o == .sc)

/-- What an instruction leaves for its replay, where some lane faults or misses a page: the tag it decided (06 R107). -/
def keepTag (s : State) (sid : Nat) (single : Bool) (gs : List (Nat × LaneGot)) : State :=
  if gs.any (fun g => match g.2 with | .out _ => true | _ => false) then s.onTeam sid (fun t => { t with kept := some single }) else s

/-- A load, pass by pass. One of a live region is performed at the home (19 R313). -/
def loadOpn (s : State) (t : Team) (x : Acc) : MemOpn :=
  let live := match insideOf t with | .live _ => true | _ => false
  { x := x, write := false, drain := x.o == .sc, sc := x.o == .sc, first := memFirst x (x.o == .sc),
    need := fun l m => live || loadMisses s x.a x.o l m, event := !live && (x.o == .weak || !scopeWide x.a.scope),
    send := fun _ _ => none, lane := fun s l a => loadLane s x l a }

/-- The end of a load: an acquire, the registers, the interlocked results, the faults. -/
def loadEnd (s : State) (sid : Nat) (t : Team) (x : Acc) (single : Bool) (whole : Option Mask) (r : MemRun) (dsts : List RegName)
    (write : Tab Nat → Team → Team) (complete : State → Done) : Done :=
  let vals := valsOf r.got
  let s1 := if isAcq x.o && !vals.isEmpty then acquireAt s x.a else s
  let s2 := addResults r.due r.after (keepTag (s1.onTeam sid (write vals)) sid single r.got) sid dsts
  let all := match whole, single, r.got with
    | none, true, (_, g) :: _ => (List.range t.w).map (fun l => (l, g))
    | _, _, gs => gs
  settleMem s2 sid t x false whole all complete

/-- `vld` (R205) (DEDUCED, log 20). -/
def loadVector (h : Hdr) (ty : MTy) (sp : Space) (o : Ord) (d : VIdx) (m : MemOp) (sid : Nat) (vw : View) (s : State) : Done :=
  let t := vw.t
  let en := vw.enable h
  if t.mem.isNone && en == 0 then emptyEnable s t
  else
    let single := if t.replay.isSome then t.kept.getD false else en == t.lanes && uniformAddr t m
    let tag : Tag := if single then .u else .g
    if overBudget t ((List.range (mRegs ty)).map (fun i => (d.toNat + i, tag))) then budgetTrap s d
    else
      let x : Acc := { a := accessOf sid t m, o := orderOf t sp o, sp := sp, size := mBytes ty }
      runPass s sid t (if single then 1#1024 <<< uniformLane s t sp else en) (vw.addr m) (loadOpn s t x) (fun s r =>
        loadEnd s sid t x single none r ((List.range (mRegs ty)).map (fun i => .v (d.toNat + i)))
          (fun vals t1 => loadRegs t1 s.fresh single d.toNat (mRegs ty) (vals.map (fun v => (v.1, mExtend ty 32 v.2))))
          (fun s => .fall (noteSkips s t (passCount t en single) single) 1))

/-- `vld` (R205). -/
def execVld (h : Hdr) (ty : MTy) (sp : Space) (o : Ord) (d : VIdx) (m : MemOp) (s : State) : Host.Outcome State Fault Refusal :=
  issue (.vld h ty sp o d m) s (loadVector h ty sp o d m)

/-- A scalar load's destination (R205); a vector one takes tag U whether or not the access was performed (06 R107). -/
def loadScalarRegs (t : Team) (seed : Nat) (ty : MTy) (d : SVDst) (vals : Tab Nat) : Team :=
  match d with
  | .s n =>
    (match vals with
     | [] => t
     | (_, x) :: _ =>
       let t1 := t.setS n.toNat (BitVec.ofNat 64 (mExtend ty 64 x))
       if ty == .b128 then t1.setS (n.toNat + 1) (BitVec.ofNat 64 (x / 2 ^ 64)) else t1)
  | .v n => loadRegs t seed true n.toNat (mRegs ty) (vals.map (fun v => (v.1, mExtend ty 32 v.2)))

def scalarDsts (ty : MTy) (d : SVDst) : List RegName :=
  match d with
  | .s n => if ty == .b128 then [.s n.toNat, .s (n.toNat + 1)] else [.s n.toNat]
  | .v n => (List.range (mRegs ty)).map (fun i => .v (n.toNat + i))

/-- `sld` (R205). -/
def loadScalar (ty : MTy) (sp : Space) (o : Ord) (d : SVDst) (m : MemOp) (sid : Nat) (vw : View) (s : State) : Done :=
  let t := vw.t
  let x : Acc := { a := accessOf sid t m, o := orderOf t sp o, sp := sp, size := mBytes ty }
  runPass s sid t 1 (vw.addr m) (loadOpn s t x) (fun s r =>
    loadEnd s sid t x false (some t.mask) r (scalarDsts ty d) (fun vals t1 => loadScalarRegs t1 s.fresh ty d vals) (fun s => .fall s 1))

/-- `sld` (R205). -/
def execSld (h : Hdr) (ty : MTy) (sp : Space) (o : Ord) (d : SVDst) (m : MemOp) (s : State) : Host.Outcome State Fault Refusal :=
  issueScalar (.sld h ty sp o d m) h s (loadScalar ty sp o d m)

/-! ## vst, sst -/

/-- A store, pass by pass: a store written through to its home holds a miss-status entry (R203). -/
def storePass (s : State) (sid : Nat) (t : Team) (x : Acc) (en : Mask) (whole : Option Mask) (addr : Nat → Word)
    (val : Nat → Nat) (complete : State → Done) : Done :=
  runPass s sid t en addr
    { x := x, write := true, drain := isAcq x.o, sc := x.o == .sc, first := memFirst x (isAcq x.o),
      need := fun l _ => writtenThrough s t x l, event := false, send := fun _ _ => none, lane := fun s l a => storeLane s x l a (val l) }
    (fun s r =>
      let s1 := if x.o == .sc then acquireAt s x.a else s
      settleMem { s1 with wfaults := s1.wfaults.filter (fun f => f.sid != sid) } sid t x true whole r.got complete)

/-- `vst` (R205). -/
def storeVector (h : Hdr) (ty : MTy) (sp : Space) (o : Ord) (v : VIdx) (m : MemOp) (sid : Nat) (vw : View) (s : State) : Done :=
  let t := vw.t
  let en := vw.enable h
  if t.mem.isNone && en == 0 then emptyEnable s t
  else
    let x : Acc := { a := accessOf sid t m, o := orderOf t sp o, sp := sp, size := mBytes ty }
    storePass s sid t x en none (vw.addr m)
      (fun l => ((List.range (mRegs ty)).foldl (fun a i => a + (vw.lane (v.toNat + i) l).toNat * 2 ^ (32 * i)) 0) % 2 ^ (8 * (mBytes ty)))
      (fun s => .fall (noteSkips s t (passCount t en false) false) 1)

/-- `vst` (R205). -/
def execVst (h : Hdr) (ty : MTy) (sp : Space) (o : Ord) (a : VIdx) (m : MemOp) (s : State) : Host.Outcome State Fault Refusal :=
  issue (.vst h ty sp o a m) s (storeVector h ty sp o a m)

/-- `sst` (R205). -/
def storeScalar (ty : MTy) (sp : Space) (o : Ord) (a : SIdx) (m : MemOp) (sid : Nat) (vw : View) (s : State) : Done :=
  let t := vw.t
  let x : Acc := { a := accessOf sid t m, o := orderOf t sp o, sp := sp, size := mBytes ty }
  let v := (vw.sr a.toNat).toNat + (if ty == .b128 then (vw.sr (a.toNat + 1)).toNat * 2 ^ 64 else 0)
  storePass s sid t x 1 (some t.mask) (vw.addr m) (fun _ => v % 2 ^ (8 * (mBytes ty))) (fun s => .fall s 1)

/-- `sst` (R205). -/
def execSst (h : Hdr) (ty : MTy) (sp : Space) (o : Ord) (a : SIdx) (m : MemOp) (s : State) : Host.Outcome State Fault Refusal :=
  issueScalar (.sst h ty sp o a m) h s (storeScalar ty sp o a m)

/-! ## fence (R206) -/

def fenceAcq : FOrd → Bool
  | .rel => false
  | _ => true
def fenceRel : FOrd → Bool
  | .acq => false
  | _ => true

/-- Release at a scope, as an instruction with no access of its own does it: the wait first (DEDUCED, log 105). -/
def releaseOr (s : State) (a : Access) (go : State → Done) : Done :=
  if s.wq.any (fun q => q.sid == a.sid) then .wait s .drain else go (releaseAt s a)

def deviceAccess (sid : Nat) (t : Team) : Access :=
  { sid := sid, core := t.coreId, ctx := t.ctx, scope := .device, pol := false }

/-- `fence` (R206; 14 R267). -/
def execFence (h : Hdr) (sc : Scope) (o : FOrd) (s : State) : Host.Outcome State Fault Refusal :=
  issueScalar (.fence h sc o) h s (fun sid vw s =>
    let a : Access := { sid := sid, core := vw.t.coreId, ctx := vw.t.ctx, scope := sc, pol := false }
    let acq (s : State) : Done := .fall (takeTicket (if fenceAcq o then acquireAt s a else s) (o == .sc)) 1
    if fenceRel o then releaseOr s a acq else acq s)

/-! ## pf (R207) -/

/-- Ask for one line: dropped when it is present, when a miss-status entry or the prefetch queue asks for it, when it cannot be read,
and when the queue is full. -/
def prefetchLine (s : State) (core ctx line : Nat) (homeOnly : Bool) : State :=
  let here := if homeOnly then (s.home? ctx line).isSome else (s.l1? core ctx line).isSome
  if here || outstandingAt s core ctx line || s.fills.any (fun f => f.core == core && f.ctx == ctx && f.line == line && f.prefetch)
      || decide (32 ≤ (s.fills.filter (fun f => f.core == core && f.prefetch)).length) then s
  else
    match homeRead s (unitOf (line * 64)) ctx line (BitVec.allOnes 64) true with
    | (s1, .error _) => s1
    | (s1, .ok r) =>
      if r.kept then
        { s1 with fills := s1.fills ++ [{ core := core, ctx := ctx, line := line, valid := r.valid, data := r.data,
                                          tr := some r.tr, entry := false, prefetch := true, homeOnly := homeOnly }] }
      else s1

/-- The lines of the active lanes with canonical addresses. -/
def activeLines (vw : View) (h : Hdr) (m : MemOp) : List Nat :=
  (((laneAddrs vw m (vw.enable h)).filter (fun l => canonical l.2)).map (fun l => lineNo l.2)).dedup

/-- An instruction that handles the lines of its lanes and writes no register; a commit hold of a window that it touches holds it (17
R296). -/
def perLine (h : Hdr) (m : MemOp) (f : View → State → Nat → State) (_ : Nat) (vw : View) (s : State) : Done :=
  let en := vw.enable h
  if en = 0 then emptyEnable s vw.t
  else if (activeLines vw h m).any (fun l => held s vw.t (l * 64) 64 false) then
    .wait s (.held false ((activeLines vw h m).map (fun l => (l * 64, 64))))
  else .fall (noteSkips ((activeLines vw h m).foldl (f vw) s) vw.t (passCount vw.t en false) false) (passCount vw.t en false)

/-- `pf` (R207). -/
def execPf (h : Hdr) (m : MemOp) (s : State) : Host.Outcome State Fault Refusal :=
  issue (.pf h m) s (perLine h m (fun vw s l => prefetchLine s vw.t.coreId vw.t.ctx l m.pol))

/-- `cflush` (R208). -/
def execCflush (h : Hdr) (m : MemOp) (s : State) : Host.Outcome State Fault Refusal :=
  issue (.cflush h m) s (perLine h m (fun vw s l => flushLine s vw.t.coreId vw.t.ctx l (m.scope == .system)))

/-- `cinval` (R208). -/
def execCinval (h : Hdr) (m : MemOp) (s : State) : Host.Outcome State Fault Refusal :=
  issue (.cinval h m) s (perLine h m (fun vw s l => invalLine s vw.t.coreId vw.t.ctx l (m.scope == .system)))

/-! ## Seal (R209-R211) -/

/-- The status of a `seal` of `[start, start + len)` (R209) (DEDUCED, log 30). -/
def sealStatus (c : Ctx) (start len : Nat) : Nat :=
  if start % 4096 != 0 || len = 0 || len % 4096 != 0
      || !(decide (start + len ≤ 2 ^ 56) || (decide (2 ^ 64 - 2 ^ 56 ≤ start) && decide (start + len ≤ 2 ^ 64))) then 3
  else if c.seals.any (fun r => decide (start < r.1 + r.2) && decide (r.1 < start + len)) then 2
  else if 32 ≤ c.seals.length then 1
  else 0

def lineIn (start len line : Nat) : Bool := decide (start ≤ line * 64) && decide (line * 64 < start + len)

/-- Every dirty byte of a range of a context, in any L1 and at any home, is written back, and what is queued at a home with it
(R210). -/
def writeBackRange (s0 : State) (ctx start len : Nat) : State :=
  let s := drainAll s0 (fun q => q.ctx == ctx && lineIn start len q.line)
  let s1 := (s.l1.filter (fun x => x.ctx == ctx && lineIn start len x.line)).foldl (fun s x => writeBackLine s x.core ctx x.line) s
  (s1.homes.filter (fun x => x.ctx == ctx && lineIn start len x.line)).foldl cleanHome s1

/-- Every cached copy of a range of a context goes (R211). -/
def dropRange (s : State) (ctx start len : Nat) : State :=
  { s with l1 := s.l1.filter (fun x => !(x.ctx == ctx && lineIn start len x.line))
           homes := s.homes.filter (fun x => !(x.ctx == ctx && lineIn start len x.line))
           fills := s.fills.filter (fun x => !(x.ctx == ctx && lineIn start len x.line)) }

/-- Write an interlocked scalar result (05 R88) (DEDUCED, log 97). -/
def lockedResult (s : State) (sid : Nat) (d : SIdx) (v : Word) : Done :=
  .fall (addSb (s.onTeam sid (fun t => t.setS d.toNat v)) sid (.s d.toNat) [] false).1 1

/-- `seal` (R209, R210) (DEDUCED, log 30). -/
def execSeal (h : Hdr) (d a : SIdx) (b : SI) (s : State) : Host.Outcome State Fault Refusal :=
  issueScalar (.seal h d a b) h s (fun sid vw s =>
    let t := vw.t
    if regionForbids t then regionTrap s
    else match s.ctx? t.ctx with
      | none => lockedResult s sid d 0
      | some c =>
        let start := (vw.sr a.toNat).toNat
        let len := (vw.si b).toNat
        let st := sealStatus c start len
        if st != 0 then lockedResult s sid d (BitVec.ofNat 64 st)
        else releaseOr s (deviceAccess sid t) (fun s =>
          let s1 := writeBackRange s t.ctx start len
          lockedResult (s1.onCtx t.ctx (fun c => { c with seals := c.seals ++ [(start, len)] })) sid d 0))

/-- `unseal` (R209, R211): the range stays sealed until the status lands. -/
def execUnseal (h : Hdr) (d a : SIdx) (s : State) : Host.Outcome State Fault Refusal :=
  issueScalar (.unseal h d a) h s (fun sid vw s =>
    let t := vw.t
    if regionForbids t then regionTrap s
    else match (s.ctx? t.ctx).bind (fun c => c.seals.find? (fun r => r.1 == (vw.sr a.toNat).toNat)) with
      | none => lockedResult s sid d 4
      | some r => lockedResult (s.onCtx t.ctx (fun c => { c with unseals := c.unseals ++ [(s.order, r.1, r.2)] })) sid d 0)

/-! ## twait (R220) -/

/-- `twait` (R220): it waits for its tokens only when its guard passes, and reads them as any read of a token does. -/
def execTwait (h : Hdr) (a : SIdx) (n : Option (BitVec 32)) (s : State) : Host.Outcome State Fault Refusal :=
  issueScalar (.twait h a n) h s (fun sid vw s =>
    let regs := (List.range (n.getD 1).toNat).map (fun i => RegName.s (a.toNat + i))
    match regs.find? (fun r => vw.t.sb.any (fun e => e.reg == r)) with
    | some r => .wait s (.result r)
    | none => .fall (readTokens s sid vw.t regs) 1)

end Sys2Proof.Machine
end

