-- ==== Sys2Proof/Machine/Trans.lean ====
section
/-! DEFINITION. The approximate functions (09 R174, R175): the special and exact values, and, elsewhere, the exact value
enclosed between neighbouring multiples of a power of two by integer arithmetic with 512 fraction bits. A packed result
is the correctly rounded value; an f32 result is one of those within the bound, which one is left free. -/

namespace Sys2Proof.Machine

inductive Fn where
  | rcp | rsq | exp2 | log2 | sin | cos | tanh
  deriving DecidableEq, Repr

/-- Fraction bits of the fixed-point arithmetic. -/
def fxBits : Nat := 512
def fxOne : Nat := 2 ^ 512
/-- π and ln 2, rounded down. -/
def fxPi : Nat := 0x3243f6a8885a308d313198a2e03707344a4093822299f31d0082efa98ec4e6c89452821e638d01377be5466cf34e90c6cc0ac29b7c97c50dd3f84d5b5b5470917
def fxLn2 : Nat := 0xb17217f7d1cf79abc9e3b39803f2f6af40f343267298b62d8a0d175b8baafa2be7b876206debac98559552fb4afa1b10ed2eae35c138214427573b291169b825

/-- The series of e^y: the sum of y^n / n! from term `n`. -/
def expGo (y : Nat) : Nat → Nat → Nat → Nat → Nat
  | 0, _, _, acc => acc
  | k + 1, n, t, acc => expGo y k (n + 1) (t * y / fxOne / (n + 1)) (acc + t)

/-- e^y for a fixed-point y below 1. -/
def fxExp (y : Nat) : Nat := expGo y 110 0 fxOne 0

/-- The series of sin y: alternating terms y^(2n+1) / (2n+1)!. -/
def sinGo (y2 : Nat) : Nat → Nat → Nat → Int → Int
  | 0, _, _, acc => acc
  | k + 1, n, t, acc =>
    sinGo y2 k (n + 1) (t * y2 / fxOne / ((2 * n + 2) * (2 * n + 3))) (if n % 2 = 0 then acc + t else acc - t)

/-- sin(π r) for a fixed-point r from 0 to 1/2. -/
def fxSinPi (r : Nat) : Nat :=
  let y := fxPi * r / fxOne
  (sinGo (y * y / fxOne) 60 0 y 0).toNat

/-- The series of atanh z: terms z^(2n+1) / (2n+1). -/
def atanhGo (z2 : Nat) : Nat → Nat → Nat → Nat → Nat
  | 0, _, _, acc => acc
  | k + 1, n, t, acc => atanhGo z2 k (n + 1) (t * z2 / fxOne) (acc + t / (2 * n + 1))

/-- ln x for a fixed-point x from 1 to 2. -/
def fxLn (x : Nat) : Nat :=
  let z := (x - fxOne) * fxOne / (x + fxOne)
  2 * atanhGo (z * z / fxOne) 170 0 z 0

/-- An enclosed value: its sign and magnitude, `m` units of `2^e`; the exact magnitude lies within `slack` units of it. -/
structure Encl where
  neg   : Bool
  m     : Nat
  e     : Int
  slack : Nat

/-- What the truncated terms of a series can lose, in units of `2^-512`, with room to spare. -/
def fxSlack : Nat := 2 ^ 16

/-- `x × 2^e` in fixed point, rounded down. -/
def toFx (m : Nat) (e : Int) : Nat :=
  let k : Int := e + fxBits
  if 0 ≤ k then m * 2 ^ k.toNat else m / 2 ^ (-k).toNat

/-- The reciprocal of a positive value that is no power of two. -/
def enclRcp (n : Bool) (m : Nat) (e : Int) : Encl := { neg := n, m := 2 ^ 300 / m, e := -e - 300, slack := 1 }

/-- The reciprocal square root of a positive value that is no power of four. -/
def enclRsq (m : Nat) (e : Int) : Encl :=
  let (m1, e1) := if e % 2 = 0 then (m, e) else (2 * m, e - 1)
  { neg := false, m := isqrt (2 ^ 600 / m1), e := -(e1 / 2) - 300, slack := 1 }

/-- 2^a for a that is no integer and below 1000 in magnitude. -/
def enclExp2 (neg : Bool) (m : Nat) (e : Int) : Encl :=
  let x : Int := if neg then -(toFx m e : Int) else toFx m e
  let n := x / (fxOne : Int)
  let f := (x % (fxOne : Int)).toNat
  { neg := false, m := fxExp (fxLn2 * f / fxOne), e := n - fxBits, slack := fxSlack }

/-- log2 of a positive value that is no power of two. -/
def enclLog2 (m : Nat) (e : Int) : Encl :=
  let k := Nat.log2 m
  let l := fxLn (m * 2 ^ (512 - k)) * fxOne / fxLn2
  let x : Int := (e + k) * (fxOne : Int) + l
  { neg := decide (x < 0), m := x.natAbs, e := -(fxBits : Int), slack := fxSlack }

/-- tanh of a positive value: below 2^-40 a little less than the value itself (by less than any step of a format, so that one
unit bounds it for every value of a format), and from 64 on a little less than 1. -/
def enclTanh (neg : Bool) (m : Nat) (e : Int) : Encl :=
  let top : Int := (Nat.log2 m : Int) + e
  if top < -40 then { neg := neg, m := m * 2 ^ 64 - 1, e := e - 64, slack := 1 }
  else if 6 ≤ top then { neg := neg, m := 2 ^ 100 - 1, e := -100, slack := 1 }
  else
    let y := 2 * toFx m e
    let k := y / fxLn2
    let q := fxExp (y % fxLn2) * 2 ^ k                -- e^(2x)
    { neg := neg, m := (q - fxOne) * fxOne / (q + fxOne), e := -(fxBits : Int), slack := fxSlack }

/-- sin(π x) or, with a quarter turn added, cos(π x), for x that is no multiple of one half. The half-turns are reduced
exactly: `m × 2^e` with e below 0. -/
def enclSin (quarter neg : Bool) (m : Nat) (e : Int) : Encl :=
  let d := (-e).toNat
  let one := 2 ^ d
  let x := (if neg then (2 * one - m % (2 * one)) else m) % (2 * one) * 2 + (if quarter then one else 0)
  let y := x % (4 * one)                              -- turns of 2 in units of 2^-(d+1)
  let s := decide (2 * one ≤ y)
  let z := y % (2 * one)
  let w := if one < z then 2 * one - z else z         -- 0 to 1/2
  { neg := s, m := fxSinPi (toFx w (-(d : Int) - 1)), e := -(fxBits : Int), slack := fxSlack }

/-- Is the magnitude a power of two? -/
def isPow2 (m : Nat) : Bool := 2 ^ Nat.log2 m == m

/-- A special or exact result of R175 for a finite source, or the enclosed value. The exact result is a signed dyadic; a
zero carries its sign. -/
inductive FnRes where
  | out (x : FOut)
  | exact (neg : Bool) (m : Nat) (e : Int)
  | near (x : Encl)
  | huge                        -- 2^a with a past every format
  | tiny

def fnFinite (f : Fmt) (fn : Fn) (neg : Bool) (m : Nat) (e : Int) : FnRes :=
  match fn with
  | .rcp =>
    if m = 0 then .out (f.signed neg f.inf, evDivZero ||| evInf)
    else if isPow2 m then .exact neg 1 (-e - Nat.log2 m) else .near (enclRcp neg m e)
  | .rsq =>
    if m = 0 then .out (f.signed neg f.inf, evDivZero ||| evInf)
    else if neg then .out (f.nanOut evInvalid)
    else if isPow2 m && (e + Nat.log2 m) % 2 == 0 then .exact false 1 (-((e + Nat.log2 m) / 2))
    else .near (enclRsq m e)
  | .exp2 =>
    if m = 0 then .exact false 1 0
    else if (Nat.log2 m : Int) + e ≥ 10 then (if neg then .tiny else .huge)
    else if 0 ≤ e || decide (m % 2 ^ (-e).toNat = 0) then
      let k : Int := if 0 ≤ e then m * 2 ^ e.toNat else m / 2 ^ (-e).toNat
      .exact false 1 (if neg then -k else k)
    else .near (enclExp2 neg m e)
  | .log2 =>
    if m = 0 then .out (f.signed true f.inf, evDivZero ||| evInf)
    else if neg then .out (f.nanOut evInvalid)
    else if isPow2 m then
      let k : Int := e + Nat.log2 m
      .exact (decide (k < 0)) k.natAbs 0
    else .near (enclLog2 m e)
  | .sin =>
    if m = 0 then .out (f.zeroOut neg)
    else if 0 ≤ e || decide (m % 2 ^ (-e).toNat = 0) then .out (f.zeroOut neg)
    else if m % 2 ^ (-e).toNat = 2 ^ ((-e).toNat - 1) then
      .exact (decide ((m / 2 ^ (-e).toNat) % 2 = 1) != neg) 1 0
    else .near (enclSin false neg m e)
  | .cos =>
    if m = 0 then .exact false 1 0
    else if 0 ≤ e || decide (m % 2 ^ (-e).toNat = 0) then
      let odd := if 0 ≤ e then (m * 2 ^ e.toNat) % 2 == 1 else (m / 2 ^ (-e).toNat) % 2 == 1
      .exact odd 1 0
    else if m % 2 ^ (-e).toNat = 2 ^ ((-e).toNat - 1) then .out (f.zeroOut false)
    else .near (enclSin true neg m e)
  | .tanh => if m = 0 then .out (f.zeroOut neg) else .near (enclTanh neg m e)

/-- The infinities of R175. -/
def fnInf (f : Fmt) (fn : Fn) (neg : Bool) : FOut :=
  match fn with
  | .rcp => f.zeroOut neg
  | .rsq => if neg then f.nanOut evInvalid else f.zeroOut false
  | .exp2 => if neg then f.zeroOut false else f.infOut false false
  | .log2 => if neg then f.nanOut evInvalid else f.infOut false false
  | .sin => f.nanOut evInvalid
  | .cos => f.nanOut evInvalid
  | .tanh => (f.round .rne neg 1 0 false)

/-- The bound of R174 as a multiple of `2^e`. -/
def fnBound (fn : Fn) (top : Int) : Nat × Int :=
  let ulp := max (top - 23) (-149)
  match fn with
  | .rcp => (1, ulp)
  | .rsq => (1, ulp)
  | .exp2 => (2, ulp)
  | .log2 => (2, ulp)
  | .tanh => (2, ulp)
  | .sin => if -8 ≤ top then (2, ulp) else (1, -31)
  | .cos => if -8 ≤ top then (2, ulp) else (1, -31)

/-- A signed f32 index: rising with the value, 0 for +0. -/
def f32Index (x : Nat) : Int := if 2 ^ 31 ≤ x then -((x - 2 ^ 31 : Nat) : Int) else x
def f32OfIndex (k : Int) : Nat := if k < 0 then 2 ^ 31 + k.natAbs else k.natAbs

/-- An f32 result within the bound, picked freely among the finite values; the events are those of the written value:
a written zero is not tiny, and is +0 (DESIGN CHOICE, log 17). -/
def fnPick (fn : Fn) (src : Lane) (x : Encl) : FOut :=
  let rn := f32F.round .rne x.neg x.m x.e true
  if rn.2 &&& evOverflow ≠ 0 then rn
  else
    let (b, be) := fnBound fn ((Nat.log2 x.m : Int) + x.e)
    let q := min x.e be
    let v := inUnits x.neg x.m x.e q
    let tol : Int := inUnits false b be q - inUnits false x.slack x.e q
    let lo := v - tol
    let hi := v + tol
    let i := f32Index (f32F.roundInt .ru lo q false).1
    let j := min (f32Index (f32F.roundInt .rd hi q false).1) 0x7F7FFFFF
    let k := i + ((Config.approxPick (match fn with
      | .rcp => 0 | .rsq => 1 | .exp2 => 2 | .log2 => 3 | .sin => 4 | .cos => 5 | .tanh => 6) src % (j - i + 1).toNat : Nat) : Int)
    (f32OfIndex k, evInexact ||| evIf (decide (k ≠ 0 ∧ k.natAbs < 2 ^ 23)) evUnderflow)

/-- An approximate function of one element (DESIGN CHOICE, log 17). -/
def fnOut (f : Fmt) (fn : Fn) (x : Nat) : FOut :=
  match f.val x with
  | .nan _ => f.nanOut 0
  | .inf n => fnInf f fn n
  | .fin n m e =>
    match fnFinite f fn n m e with
    | .out r => r
    | .exact s k q =>
      let r := f.round .rne s k q false
      if k = 0 then f.zeroOut s
      else if f = f32F ∧ r.2 &&& evInexact ≠ 0 then fnPick fn (BitVec.ofNat 32 x) { neg := s, m := k * 2 ^ 64, e := q - 64, slack := 0 }
      else r
    | .near v => if f = f32F then fnPick fn (BitVec.ofNat 32 x) v else f.round .rne v.neg v.m v.e true
    | .huge => f.round .rne false 1 2000 false
    | .tiny =>
      if f = f32F then fnPick fn (BitVec.ofNat 32 x) { neg := false, m := 2 ^ 64, e := -2064, slack := 0 }
      else f.round .rne false 1 (-2000) false

end Sys2Proof.Machine
end

