-- ==== Sys2Proof/Machine/VectorFloat.lean ====
section
/-! DEFINITION. The vector floating-point instructions (09 R168-R179). -/

namespace Sys2Proof.Machine

def fFmt : FTy → Fmt
  | .f32 => f32F
  | .bf16x2 => bf16F
  | .f16x2 => f16F
def fPacked : FTy → Bool
  | .f32 => false
  | _ => true

/-- Element `e` of a lane. -/
def fElem (ty : FTy) (x e : Nat) : Nat := (x / 2 ^ (16 * e)) % 2 ^ (fFmt ty).width

/-- ABSA, then NEGA, on the sign bit (R168). -/
def signMod (f : Fmt) (neg abs_ : Bool) (x : Nat) : Nat :=
  let y := if abs_ then x % f.sign else x
  if neg then (if f.sign ≤ y % (2 * f.sign) then y - f.sign else y + f.sign) else y

/-- The elements of a lane, each its own result and events; the lane raises what any element raised (08 R154, R158). -/
def onFloats (ty : FTy) (f : Nat → FOut) : LaneRes :=
  let w := (fFmt ty).width
  let lo := f 0
  if fPacked ty then
    let hi := f 1
    { v := lo.1 % 2 ^ w + hi.1 % 2 ^ w * 2 ^ w, ev := lo.2 ||| hi.2, c := false }
  else { v := lo.1 % 2 ^ w, ev := lo.2, c := false }

/-- A float operation of two sources: `f` on the modified elements and the element of D; the source events come with it. -/
def floatBin (readD : Bool) (h : Hdr) (ty : FTy) (m : FMod) (d : VIdx) (a : Src) (b : SrcB)
    (f : Fmt → Nat → Nat → Nat → FOut) (sid : Nat) (vw : View) (s : State) : Done :=
  let fm := fFmt ty
  vectorResult sid vw s (vw.enable h) d
    { wide := false,
      srcs := (if readD then vw.tags s false (.v d) else []) ++ vw.tags s false a ++ vw.tagsB s false b, aff := none,
      f := fun l =>
        let x := vw.num s false a l
        let y := vw.numB s false false b l
        let z := vw.num s false (.v d) l
        onFloats ty (fun e =>
          let p := signMod fm m.nega m.absa (fElem ty x e)
          let q := signMod fm m.negb false (fElem ty y e)
          let r := fElem ty z e
          let o := f fm p q r
          (o.1, o.2 ||| fm.srcEvents p ||| fm.srcEvents q ||| (if readD then fm.srcEvents r else 0))) }

/-- `vfadd` (R170). -/
def execVfadd (h : Hdr) (ty : FTy) (r : Rnd) (m : FMod) (d : VIdx) (a : Src) (b : SrcB) (s : State) : Host.Outcome State Fault Refusal :=
  issue (.vfadd h ty r m d a b) s (floatBin false h ty m d a b (fun f x y _ => f.addV r (f.val x) (f.val y)))

/-- A value with its sign inverted. -/
def negV : FVal → FVal
  | .nan s => .nan s
  | .inf n => .inf (!n)
  | .fin n m e => .fin (!n) m e

/-- `vfsub` (R170). -/
def execVfsub (h : Hdr) (ty : FTy) (r : Rnd) (m : FMod) (d : VIdx) (a : Src) (b : SrcB) (s : State) : Host.Outcome State Fault Refusal :=
  issue (.vfsub h ty r m d a b) s (floatBin false h ty m d a b (fun f x y _ => f.addV r (f.val x) (negV (f.val y))))

/-- `vfmul` (R170). -/
def execVfmul (h : Hdr) (ty : FTy) (r : Rnd) (m : FMod) (d : VIdx) (a : Src) (b : SrcB) (s : State) : Host.Outcome State Fault Refusal :=
  issue (.vfmul h ty r m d a b) s (floatBin false h ty m d a b (fun f x y _ => f.mulOut r (f.val x) (f.val y)))

/-- `vffma`: one rounding (R170). -/
def execVffma (h : Hdr) (ty : FTy) (r : Rnd) (m : FMod) (d : VIdx) (a : Src) (b : SrcB) (s : State) : Host.Outcome State Fault Refusal :=
  issue (.vffma h ty r m d a b) s (floatBin true h ty m d a b (fun f x y z => f.fmaOut r (f.val x) (f.val y) (f.val z)))

/-- `vfmin` (R171). -/
def execVfmin (h : Hdr) (ty : FTy) (m : FMod) (d : VIdx) (a : Src) (b : SrcB) (s : State) : Host.Outcome State Fault Refusal :=
  issue (.vfmin h ty m d a b) s (floatBin false h ty m d a b (fun f x y _ => f.minmax false x y))

/-- `vfmax` (R171). -/
def execVfmax (h : Hdr) (ty : FTy) (m : FMod) (d : VIdx) (a : Src) (b : SrcB) (s : State) : Host.Outcome State Fault Refusal :=
  issue (.vfmax h ty m d a b) s (floatBin false h ty m d a b (fun f x y _ => f.minmax true x y))

/-- `vfcmp` (R172). -/
def execVfcmp (h : Hdr) (c : FCmp) (d : PIdx) (a : Src) (b : SrcB) (s : State) : Host.Outcome State Fault Refusal :=
  issue (.vfcmp h c d a b) s (fun sid vw s =>
    predResult sid vw s (vw.enable h) d false (fun l =>
      let x := vw.num s false a l
      let y := vw.numB s false false b l
      let o := f32F.cmpOut c x y
      let sub := (f32F.srcEvents x ||| f32F.srcEvents y) &&& evSubnormal
      (o.1, o.2 ||| sub)))

/-- `vfdiv` (R173). -/
def execVfdiv (h : Hdr) (ty : FTy) (r : Rnd) (m : FMod) (d : VIdx) (a : Src) (b : SrcB) (s : State) : Host.Outcome State Fault Refusal :=
  issue (.vfdiv h ty r m d a b) s (floatBin false h ty m d a b (fun f x y _ => f.divOut r (f.val x) (f.val y)))

/-- A float operation of one source; `raises` is false where the entry names no event. -/
def floatUn (raises : Bool) (h : Hdr) (ty : FTy) (nega absa : Bool) (d : VIdx) (a : Src) (f : Fmt → Nat → FOut) (sid : Nat)
    (vw : View) (s : State) : Done :=
  let fm := fFmt ty
  vectorResult sid vw s (vw.enable h) d
    { wide := false, srcs := vw.tags s false a, aff := none,
      f := fun l =>
        let x := vw.num s false a l
        onFloats ty (fun e =>
          let p := signMod fm nega absa (fElem ty x e)
          let o := f fm p
          (o.1, if raises then o.2 ||| fm.srcEvents p else 0)) }

/-- `vfsqrt` (R173). -/
def execVfsqrt (h : Hdr) (ty : FTy) (r : Rnd) (nega absa : Bool) (d : VIdx) (a : Src) (s : State) : Host.Outcome State Fault Refusal :=
  issue (.vfsqrt h ty r nega absa d a) s (floatUn true h ty nega absa d a (fun f x => f.sqrtOut r (f.val x)))

/-- `vfrcp` (R174, R175). -/
def execVfrcp (h : Hdr) (ty : FTy) (nega absa : Bool) (d : VIdx) (a : Src) (s : State) : Host.Outcome State Fault Refusal :=
  issue (.vfrcp h ty nega absa d a) s (floatUn true h ty nega absa d a (fun f x => fnOut f .rcp x))

/-- `vfrsq` (R174, R175). -/
def execVfrsq (h : Hdr) (ty : FTy) (nega absa : Bool) (d : VIdx) (a : Src) (s : State) : Host.Outcome State Fault Refusal :=
  issue (.vfrsq h ty nega absa d a) s (floatUn true h ty nega absa d a (fun f x => fnOut f .rsq x))

/-- `vfexp2` (R174, R175). -/
def execVfexp2 (h : Hdr) (ty : FTy) (nega absa : Bool) (d : VIdx) (a : Src) (s : State) : Host.Outcome State Fault Refusal :=
  issue (.vfexp2 h ty nega absa d a) s (floatUn true h ty nega absa d a (fun f x => fnOut f .exp2 x))

/-- `vflog2` (R174, R175). -/
def execVflog2 (h : Hdr) (ty : FTy) (nega absa : Bool) (d : VIdx) (a : Src) (s : State) : Host.Outcome State Fault Refusal :=
  issue (.vflog2 h ty nega absa d a) s (floatUn true h ty nega absa d a (fun f x => fnOut f .log2 x))

/-- `vfsin`: of π times the source (R174, R175). -/
def execVfsin (h : Hdr) (ty : FTy) (nega absa : Bool) (d : VIdx) (a : Src) (s : State) : Host.Outcome State Fault Refusal :=
  issue (.vfsin h ty nega absa d a) s (floatUn true h ty nega absa d a (fun f x => fnOut f .sin x))

/-- `vfcos`: of π times the source (R174, R175). -/
def execVfcos (h : Hdr) (ty : FTy) (nega absa : Bool) (d : VIdx) (a : Src) (s : State) : Host.Outcome State Fault Refusal :=
  issue (.vfcos h ty nega absa d a) s (floatUn true h ty nega absa d a (fun f x => fnOut f .cos x))

/-- `vftanh` (R174, R175). -/
def execVftanh (h : Hdr) (ty : FTy) (nega absa : Bool) (d : VIdx) (a : Src) (s : State) : Host.Outcome State Fault Refusal :=
  issue (.vftanh h ty nega absa d a) s (floatUn true h ty nega absa d a (fun f x => fnOut f .tanh x))

/-- `vfrnd` (R177). -/
def execVfrnd (h : Hdr) (ty : FTy) (r : Rnd) (nega absa : Bool) (d : VIdx) (a : Src) (s : State) : Host.Outcome State Fault Refusal :=
  issue (.vfrnd h ty r nega absa d a) s (floatUn true h ty nega absa d a (fun f x => f.integral r x))

/-- `vfclass`: no event (R178). Rows 3 and 8 of 06 R108 give its tag. -/
def execVfclass (h : Hdr) (ty : FTy) (nega absa : Bool) (d : VIdx) (a : Src) (s : State) : Host.Outcome State Fault Refusal :=
  issue (.vfclass h ty nega absa d a) s (floatUn false h ty nega absa d a (fun f x => (2 ^ f.classBit x, 0)))

/-- `vfscale`: B holds integers (R179). -/
def execVfscale (h : Hdr) (ty : FTy) (r : Rnd) (m : FMod) (d : VIdx) (a : Src) (b : SrcB) (s : State) : Host.Outcome State Fault Refusal :=
  issue (.vfscale h ty r m d a b) s (fun sid vw s =>
    let fm := fFmt ty
    vectorResult sid vw s (vw.enable h) d
      { wide := false, srcs := vw.tags s false a ++ vw.tagsB s false b, aff := none,
        f := fun l =>
          let x := vw.num s false a l
          let y := vw.numB s false false b l
          onFloats ty (fun e =>
            let p := signMod fm m.nega m.absa (fElem ty x e)
            let n := extT true fm.width (y / 2 ^ (16 * e))
            let o := fm.scaleOut r p (if m.negb then -n else n)
            (o.1, o.2 ||| fm.srcEvents p)) })

/-! ## Conversion (R176) -/

inductive CvtKind where
  | float (f : Fmt) | int (signed : Bool) (w : Nat)

def cvtKind : CvtTy → CvtKind
  | .f32 => .float f32F
  | .bf16 => .float bf16F
  | .f16 => .float f16F
  | .i32 => .int true 32
  | .n32 => .int false 32
  | .i16 => .int true 16
  | .i8 => .int true 8

def cvtBits : CvtTy → Nat
  | .bf16 => 16
  | .f16 => 16
  | .i16 => 16
  | .i8 => 8
  | _ => 32

/-- One converted element and its events. -/
def cvtOut (dt st : CvtTy) (r : Rnd) (x : Nat) : FOut :=
  match cvtKind dt, cvtKind st with
  | .float g, .float f => let o := f.convert g r x; (o.1, o.2 ||| f.srcEvents x)
  | .float g, .int sg w => g.ofInt r (extT sg w x)
  | .int sg w, .float f => let o := f.toIntOut r sg w x; (o.1, o.2 ||| f.srcEvents x)
  | .int _ _, .int _ _ => (x, 0)

/-- `vfcvt` (R176). -/
def execVfcvt (h : Hdr) (dty sty : CvtTy) (r : Rnd) (d : VIdx) (a : Src) (ssel dsel : BitVec 2) (s : State) :
    Host.Outcome State Fault Refusal :=
  issue (.vfcvt h dty sty r d a ssel dsel) s (fun sid vw s =>
    let dw := cvtBits dty
    let sw := cvtBits sty
    vectorResult sid vw s (vw.enable h) d
      { wide := false, srcs := (if dw = 32 then [] else vw.tags s false (.v d)) ++ vw.tags s false a, aff := none,
        f := fun l =>
          let x := vw.num s false a l / 2 ^ (sw * ssel.toNat) % 2 ^ sw
          let o := cvtOut dty sty r x
          let old := vw.num s false (.v d) l
          let at_ := dw * dsel.toNat
          let v := if dw = 32 then o.1 else old - old / 2 ^ at_ % 2 ^ dw * 2 ^ at_ + o.1 % 2 ^ dw * 2 ^ at_
          { v := v, ev := o.2, c := false } })

end Sys2Proof.Machine
end

