-- ==== Sys2Proof/Machine/Atomics.lean ====
section
/-! DEFINITION. Atomics (15 R286, R287; 10 R195; 11 R235-R237; 14 R271) and the steps that end those performed away
from the core. -/

namespace Sys2Proof.Machine

def aWide : ATy → Bool
  | .n64 => true
  | .i64 => true
  | .b64 => true
  | _ => false
def aSigned : ATy → Bool
  | .i32 => true
  | .i64 => true
  | _ => false
def aBits (ty : ATy) : Nat := if aWide ty then 64 else 32
/-- The float format of a type, and its elements. -/
def aFloat : ATy → Option FTy
  | .f32 => some .f32
  | .bf16x2 => some .bf16x2
  | _ => none

/-- A float operation of an atomic, element by element (R287; 08 R153, R157). -/
def atomFloat (ft : FTy) (op : AOp) (old v : Nat) : LaneRes :=
  let f := fFmt ft
  onFloats ft (fun e =>
    let x := fElem ft old e
    let y := fElem ft v e
    let o := match op with
      | .min => f.minmax false x y
      | .max => f.minmax true x y
      | _ => f.addV .rne (f.val x) (f.val y)
    (o.1, o.2 ||| f.srcEvents x ||| f.srcEvents y))

/-- What an atomic leaves: the new value, or nothing where a `cas` fails, and its events (R287). -/
def atomNew (ty : ATy) (op : AOp) (old v c : Nat) : Option Nat × Events :=
  let w := aBits ty
  match op with
  | .and => (some (Nat.land old v), 0)
  | .or => (some (Nat.lor old v), 0)
  | .xor => (some (Nat.xor old v), 0)
  | .exch => (some v, 0)
  | .cas => (if old = c then some v else none, 0)
  | .add =>
    (match aFloat ty with
     | some ft => let r := atomFloat ft op old v; (some r.v, r.ev)
     | none => (some ((old + v) % 2 ^ w), 0))
  | .min =>
    (match aFloat ty with
     | some ft => let r := atomFloat ft op old v; (some r.v, r.ev)
     | none => (some (if extT (aSigned ty) w old ≤ extT (aSigned ty) w v then old else v), 0))
  | .max =>
    (match aFloat ty with
     | some ft => let r := atomFloat ft op old v; (some r.v, r.ev)
     | none => (some (if extT (aSigned ty) w old ≤ extT (aSigned ty) w v then v else old), 0))

/-! ## Where an atomic is performed (R286) -/

/-- The line of an atomic whose value is fetched counts as filled then (14 R271). -/
def noteFetch (s : State) (a : Access) (line : Nat) (mask : ByteMask) : State :=
  match s.l1? a.core a.ctx line with
  | some x => if mask &&& ~~~ x.valid = 0 then s else putL1 s { x with filled := s.order }
  | none => s

/-- On the L1 copy of its line (14 R271). -/
def atomL1 (s : State) (a : Access) (line off size : Nat) (tr : Trans) (f : Nat → Option Nat) : State × Except Fail Nat :=
  let mask := byteRange off size
  match loadL1 s { a with pol := false } line mask with
  | (s1, .error e) => (s1, .error e)
  | (s1, .ok d) =>
    let old := lineNat d off size
    match f old with
    | none => (s1, .ok old)
    | some n => (storeL1 (noteFetch s1 a line mask) a line mask (placeNat off n) tr true, .ok old)

/-- At the home of its line (R286; 14 R271), after the core's own dirty bytes of the line. -/
def atomHome (s : State) (a : Access) (line off size : Nat) (tr : Trans) (f : Nat → Option Nat) : State × Except Fail Nat :=
  let mask := byteRange off size
  let s0 := writeBackLine s a.core a.ctx line
  match homeRead s0 (unitOf (line * 64)) a.ctx line mask true with
  | (s1, .error e) => (s1, .error e)
  | (s1, .ok r) =>
    let s1 := countHome s1 line 34 a.ctx
    let old := lineNat r.data off size
    match f old with
    | none => (s1, .ok old)
    | some n =>
      let data := placeNat off n
      let s2 := homeMerge s1 a.ctx line mask data tr true
      let s3 := match s2.home? a.ctx line with
        | some h => (putHome s2 { h with atomAt := (List.range size).foldl (fun m i => Tab.put m (off + i) s2.order) h.atomAt }).nextOrder
        | none => s2
      (updateL1 s3 a.core a.ctx line mask data, .ok old)

/-- At the owning channel of a peer device (11 R237). -/
def atomPeer (s : State) (d : BitVec 12) (pa size : Nat) (f : Nat → Option Nat) : State × Except Fail Nat :=
  match peerFor s d pa size true true with
  | .error e => (s, .error e)
  | .ok p =>
    let old := leNat (memRead p.mem pa size)
    match f old with
    | none => (takeRoute s d, .ok old)
    | some n => (setPeerMem (takeRoute s d) d (memWrite p.mem pa (leBytes size n)), .ok old)

/-- A lane of an atomic: its operand and compare value. -/
structure ALane where
  v : Nat
  c : Nat

/-- Is a physical address host memory whose system-scope atomics need ownership (11 R235)? -/
def ownedAtomic (s : State) (a : Access) (pa : Nat) : Bool := a.scope == .system && (dpaOf s pa).isNone

/-- A lane's atomic. A lane performed away from the core (11 R235, R236) gives the value it brought back. -/
def atomLane (s : State) (x : Acc) (ty : ATy) (op : AOp) (lane : Nat) (addr : Word) (p : ALane) : State × LaneGot :=
  match s.team? x.a.sid with
  | none => (s, .skip)
  | some t =>
    let f (old : Nat) : Option Nat := (atomNew ty op old p.v p.c).1
    let fin (r : State × Except Fail Nat) : State × LaneGot := match r with
      | (s1, .ok old) => (foldAccess s1 t addr.toNat x.size true true, .val old)
      | (s1, .error e) => (s1, .out (laneOut e addr))
    match laneCheck t x.sp x.size addr with
    | some c => (s, .out (.bad c addr))
    | none =>
      if x.sp != .global then
        let off := bankOff t x.sp lane addr
        let old := leNat (spadRead s t.coreId off x.size)
        match f old with
        | none => (s, .val old)
        | some n => (spadWrite s t.coreId off (leBytes x.size n) (.atomic t.key), .val old)
      else if pageDenied t addr then (s, .out (.bad Cause.pageFault addr))
      else
        let line := lineNo addr
        let off := lineOff addr
        match insideOf t with
        | .doomed => (s, .skip)
        | ins =>
          match wfaultOf s x.a.sid line with
          | some e => (s, .out (e.out addr))
          | none =>
            if sealedAt s x.a.ctx addr.toNat then (s, .out (.bad Cause.sealWrite addr))
            else match ins with
              | .live v =>
                match grantFor s x.a .l1 line with
                | .check => (s, .out (.miss addr false))
                | .direct _ => (s, .out (.bad Cause.regionIllegalOp addr))
                | .granted tr =>
                  match regionAtom s v x.a.sid x.a.core x.a.ctx line tr (byteRange off x.size) (fun d =>
                      let old := lineNat d off x.size
                      placeNat off ((f old).getD old)) with
                  | (s1, .done d) => (foldAccess s1 t addr.toNat x.size true false, .val (lineNat d off x.size))
                  | (s1, .stall on) => (s1, .stall on)
                  | (s1, .aborted) => (s1, .skip)
                  | (s1, .fail e) => (s1, .out (laneOut e addr))
              | _ =>
                let place : Place := if scopeWide x.a.scope then .home else .l1
                match s.far.find? (fun e => e.sid == x.a.sid && e.lane == lane) with
                | some e =>
                  (match e.failed, e.done with
                   | some c, _ => (s, .out (.bad c addr))
                   | none, some o => (foldAccess s t addr.toNat x.size true true, .val o.toNat)
                   | none, none => (s, .skip))
                | none =>
                  let s := noteGlobal s x.a.ctx addr.toNat x.size
                  match grantFor s x.a place line with
                  | .check => (s, .out (.miss addr false))
                  | .direct tr =>
                    match tr.peer with
                    | some d => fin (atomPeer (externalWrite s x.a.ctx line) d (lineAt tr line + off) x.size f)
                    | none => (s, .skip)
                  | .granted tr =>
                    match place with
                    | .l1 => fin (atomL1 s x.a line off x.size tr f)
                    | _ => fin (atomHome s x.a line off x.size tr f)

/-- The lanes that are performed away from the core and have not been sent: IO-only windows, and host memory at system
scope. -/
def farLanes (s : State) (t : Team) (x : Acc) (lanes : List (Nat × Word)) : List (Nat × Word × Trans × Bool) :=
  if x.sp != .global then []
  else match insideOf t with
    | .no =>
      lanes.filterMap (fun l =>
        let line := lineNo l.2
        if (laneCheck t x.sp x.size l.2).isSome || pageDenied t l.2 || (wfaultOf s x.a.sid line).isSome
            || sealedAt s x.a.ctx l.2.toNat || s.far.any (fun e => e.sid == x.a.sid && e.lane == l.1) then none
        else match grantFor s x.a (if scopeWide x.a.scope then .home else .l1) line with
          | .direct tr => if tr.peer.isSome then none else some (l.1, l.2, tr, false)
          | .granted tr =>
            if ownedAtomic s x.a (lineAt tr line) && scopeWide x.a.scope then some (l.1, l.2, tr, true) else none
          | .check => none)
    | _ => []

/-- Send those lanes on their way (R235, R236). A poisoned word faults its lane at once (DEDUCED, log 98). -/
def sendFar (s : State) (x : Acc) (ty : ATy) (op : AOp) (par : Nat → ALane) (ls : List (Nat × Word × Trans × Bool)) : State :=
  let mk (l : Nat × Word × Trans × Bool) : FarAtom :=
    let pa := lineAt l.2.2.1 (lineNo l.2.1) + lineOff l.2.1
    { sid := x.a.sid, lane := l.1, pa := pa, va := l.2.1, tr := l.2.2.1, ty := ty, op := op, v := BitVec.ofNat 64 (par l.1).v,
      c := BitVec.ofNat 64 (par l.1).c, expect := 0, tries := 0,
      failed := if poisonedKey s (physKey s pa) then some Cause.poison else none, done := none }
  let lines := ((ls.filter (fun l => l.2.2.2)).map (fun l => (lineAt l.2.2.1 (lineNo l.2.1)) / 64)).dedup
  let s1 := lines.foldl (fun s l => if s.own.any (fun o => o.line == l) then s
    else { s with own := s.own ++ [{ line := l, owned := none, snoops := [] }] }) s
  { s1 with far := s1.far ++ ls.map mk }

/-- An atomic, pass by pass (R286): `last` gives the registers, the events and the end from the values brought back. Inside a live
region its order is ignored (19 R313). -/
def atomPass (s : State) (sid : Nat) (t : Team) (x : Acc) (ty : ATy) (op : AOp) (o : AOrd) (en : Mask) (whole : Option Mask)
    (addr : Nat → Word) (par : Nat → ALane) (dsts : List RegName) (write : Tab Nat → Team → Team) (complete : State → Done) : Done :=
  let live := match insideOf t with | .live _ => x.sp == .global | _ => false
  let rel := !live && (o == .rel || o == .sc)
  let acq := !live && (o == .acq || o == .sc)
  let homes := (setBits en).map (fun l => homeOf (lineNo (addr l)))
  let drain := rel || (x.sp == .global && scopeWide x.a.scope && s.wq.any (fun q => q.sid == sid && homes.contains q.home))
  runPass s sid t en addr
    { x := x, write := true, drain := drain, sc := !live && o == .sc,
      first := fun s => takeTicket (beforeRelease s x.a rel) (!live && o == .sc),
      need := fun _ _ => true, event := false, lane := fun s l a => atomLane s x ty op l a (par l),
      send := fun s lanes => match farLanes s t x lanes with
        | [] => none
        | ls => some (sendFar s x ty op par ls) }
    (fun s r =>
      let vals := valsOf r.got
      let s1 := { s with wfaults := s.wfaults.filter (fun f => f.sid != sid), far := s.far.filter (fun e => e.sid != sid) }
      let s2 := if acq && !vals.isEmpty then acquireAt s1 x.a else s1
      let s3 := addResults r.due r.after (s2.onTeam sid (write vals)) sid dsts
      let evs := vals.map (fun v => (atomNew ty op v.2 (par v.1).v (par v.1).c).2)
      settleMem (countEvents s3 sid (classCounts evs)) sid t x true whole r.got complete)

/-- The space of an atomic: B[32] selects the scratchpad (R286). -/
def atomSpace (m : MemOp) : Space := if m.pol then .spad else .global

def atomAccess (sid : Nat) (t : Team) (m : MemOp) : Access :=
  { sid := sid, core := t.coreId, ctx := t.ctx, scope := m.scope, pol := false }

/-- `vatom` (R286, R287). -/
def vectorAtom (h : Hdr) (ty : ATy) (op : AOp) (o : AOrd) (d : VIdx) (a : Src) (m : MemOp) (sid : Nat) (vw : View) (s : State) : Done :=
  let t := vw.t
  let en := vw.enable h
  if t.mem.isNone && en == 0 then emptyEnable s t
  else
    let wide := aWide ty
    let n := if wide then 2 else 1
    if overBudget t ((List.range n).map (fun i => (d.toNat + i, Tag.g))) then budgetTrap s d
    else
      let x : Acc := { a := atomAccess sid t m, o := .strong, sp := atomSpace m, size := aBits ty / 8 }
      let par (l : Nat) : ALane := { v := vw.num s wide a l, c := vw.num s wide (.v d) l }
      atomPass s sid t x ty op o en none (vw.addr m) par ((List.range n).map (fun i => .v (d.toNat + i)))
        (fun vals t1 => loadRegs t1 0 false d.toNat n vals) (fun s => .fall (noteSkips s t (passCount t en false) false) 1)

/-- `vatom` (R287). -/
def execVatom (h : Hdr) (ty : ATy) (op : AOp) (o : AOrd) (d : VIdx) (a : Src) (m : MemOp) (s : State) : Host.Outcome State Fault Refusal :=
  issue (.vatom h ty op o d a m) s (vectorAtom h ty op o d a m)

/-- `satom` (R286, R287). -/
def scalarAtom (ty : ATy) (op : AOp) (o : AOrd) (d a : SIdx) (m : MemOp) (sid : Nat) (vw : View) (s : State) : Done :=
  let t := vw.t
  let w := aBits ty
  let x : Acc := { a := atomAccess sid t m, o := .strong, sp := atomSpace m, size := w / 8 }
  let par (_ : Nat) : ALane := { v := (vw.sr a.toNat).toNat % 2 ^ w, c := (vw.sr d.toNat).toNat % 2 ^ w }
  atomPass s sid t x ty op o 1 (some t.mask) (vw.addr m) par [.s d.toNat]
    (fun vals t1 => match vals with
      | (_, v) :: _ => t1.setS d.toNat (extS (aSigned ty) (aWide ty) v)
      | [] => t1) (fun s => .fall s 1)

/-- `satom` (R287). -/
def execSatom (h : Hdr) (ty : ATy) (op : AOp) (o : AOrd) (d a : SIdx) (m : MemOp) (s : State) : Host.Outcome State Fault Refusal :=
  issueScalar (.satom h ty op o d a m) h s (scalarAtom ty op o d a m)

/-! ## Atomics on host memory -/

/-- Change a far atomic by its place in the list. -/
def setFar (s : State) (i : Nat) (f : FarAtom) : State := { s with far := s.far.set i f }

/-- An earlier lane of the same instruction on the same word goes first (R287). -/
def farBlocked (s : State) (i : Nat) (f : FarAtom) : Bool :=
  (s.far.take i).any (fun e => e.sid == f.sid && e.pa == f.pa && e.done.isNone && e.failed.isNone)

def farBytes (f : FarAtom) : Nat := aBits f.ty / 8

/-- The word a far atomic names, the dirty bytes that its core's L1 and the homes hold of its line written first (10 R200; R235). -/
def farWord (s : State) (f : FarAtom) : State × Nat :=
  let s0 := match s.team? f.sid with | some t => writeBackLine s t.coreId t.ctx (lineNo f.va) | none => s
  let s1 := cleanPa s0 f.pa
  (s1, leNat (memRead s1.mem (physKey s1 f.pa) (farBytes f)))

/-- Perform a far atomic on the word in memory: it has no effect on a poisoned line (R232), nor on one sealed meanwhile (10
R210) (DEDUCED, log 98). The core's L1 copy of the line takes the new value (10 R200). -/
def farPerform (s : State) (i : Nat) (f : FarAtom) : State :=
  let (core, ctx) := match s.team? f.sid with | some t => (t.coreId, t.ctx) | none => (0, 0)
  if poisonedKey s (physKey s f.pa) then setFar s i { f with failed := some Cause.poison }
  else if sealedAt s ctx f.va.toNat then setFar s i { f with failed := some Cause.sealWrite }
  else
    let (s1, old) := farWord s f
    match (atomNew f.ty f.op old f.v.toNat f.c.toNat).1 with
    | none => setFar s1 i { f with done := some (BitVec.ofNat 64 old) }
    | some n =>
      let s2 := purgePa (externalPa s1 f.pa) f.pa
      let s3 := { s2 with mem := memWrite s2.mem (physKey s2 f.pa) (leBytes (farBytes f) n) }
      setFar (updateL1 s3 core ctx (lineNo f.va) (byteRange (lineOff f.va) (farBytes f)) (placeNat (lineOff f.va) n)) i
        { f with done := some (BitVec.ofNat 64 old) }

/-- One AtomicOp, or a compare-and-swap loop (R236)? -/
def oneAtomicOp (f : FarAtom) : Bool :=
  match f.op with
  | .exch => true
  | .cas => true
  | .add => (aFloat f.ty).isNone
  | _ => false

/-- IO_ATOMIC_RESPONSE (11 R236): the host performs or rejects a request. In a loop, each response to a CAS that found
another value gives the value the next CAS expects; the 64th that fails ends the lane. -/
def execIoAtomicResponse (i : Nat) (accepted : Bool) (s : State) : Host.Outcome State Fault Refusal :=
  match s.far[i]? with
  | none => .fault (.eventNotDue "IO_ATOMIC_RESPONSE")
  | some f =>
    if f.done.isSome || f.failed.isSome || !overIo s (lineNo f.va) f.pa || farBlocked s i f then .fault (.eventNotDue "IO_ATOMIC_RESPONSE")
    else if !accepted then .next (setFar s i { f with failed := some Cause.hostAtomicFail })
    else if oneAtomicOp f then .next (farPerform s i f)
    else
      let (s1, old) := farWord s f
      if f.tries = 0 then .next (setFar s1 i { f with expect := BitVec.ofNat 64 old, tries := 1 })
      else if BitVec.ofNat 64 old = f.expect then .next (farPerform s1 i f)
      else if 64 ≤ f.tries then .next (setFar s1 i { f with failed := some Cause.hostAtomicFail })
      else .next (setFar s1 i { f with expect := BitVec.ofNat 64 old, tries := f.tries + 1 })

/-- Perform a far atomic at the home that owns its line. -/
def ownPerform (s : State) (i : Nat) (f : FarAtom) : State :=
  countHome (farPerform s i f) (f.va.toNat / 64) 34 (match s.team? f.sid with | some t => t.ctx | none => 0)

/-- Far atomics that wait for the ownership of a line, by their places, in order. -/
def ownWaiting (s : State) (line : Nat) : List Nat :=
  (List.range s.far.length).filter (fun i => match s.far[i]? with
    | some f => f.pa / 64 == line && f.done.isNone && f.failed.isNone && !overIo s (lineNo f.va) f.pa
    | none => false)

/-- The snoops that waited for a line are answered (R235). -/
def answerSnoops (s : State) (o : OwnLine) : State := { s with agenda := s.agenda ++ o.snoops }

/-- HOST_OWNERSHIP_ARRIVAL (11 R235): the home owns the line and performs up to 16 of the atomics queued for it. With none left
it answers the snoops that wait; else ownership is kept until the snoops' delay ends. -/
def execHostOwnershipArrival (i : Nat) (s : State) : Host.Outcome State Fault Refusal :=
  match s.own[i]? with
  | none => .fault (.eventNotDue "HOST_OWNERSHIP_ARRIVAL")
  | some o =>
    if o.owned.isSome then .fault (.eventNotDue "HOST_OWNERSHIP_ARRIVAL")
    else
      let s1 := ((ownWaiting s o.line).take 16).foldl (fun s j => match s.far[j]? with
        | some f => ownPerform s j f
        | none => s) s
      if (ownWaiting s1 o.line).isEmpty then .next (answerSnoops { s1 with own := s1.own.eraseIdx i } o)
      else .next { s1 with own := s1.own.set i { o with owned := some s1.clock } }

/-- SNOOP_DELAY_EXPIRY (11 R235): 256 cycles after ownership arrived the waiting snoops are answered; atomics still queued
take ownership again. -/
def execSnoopDelayExpiry (i : Nat) (s : State) : Host.Outcome State Fault Refusal :=
  match s.own[i]? with
  | none => .fault (.eventNotDue "SNOOP_DELAY_EXPIRY")
  | some o =>
    match o.owned with
    | some c =>
      if c + 256 ≤ s.clock then
        if (ownWaiting s o.line).isEmpty then .next (answerSnoops { s with own := s.own.eraseIdx i } o)
        else .next (answerSnoops { s with own := s.own.set i { o with owned := none, snoops := [] } } o)
      else .fault (.eventNotDue "SNOOP_DELAY_EXPIRY")
    | none => .fault (.eventNotDue "SNOOP_DELAY_EXPIRY")

end Sys2Proof.Machine
end

