-- ==== Sys2Proof/Machine/Coherence.lean ====
section
/-! DEFINITION. The steps of the caches, the translation units and the host connection (05 R88; 10 R201, R204; 11
R229-R234; 14 R263, R270). -/

namespace Sys2Proof.Machine

/-- A device step asked for when it is not due (DESIGN CHOICE, log 6). -/
def notDue (what : String) : Host.Outcome State Fault Refusal := .fault (.eventNotDue what)

/-- When the status of an `unseal` lands, every cached copy of its range goes and writes are permitted (10 R211). -/
def endUnseal (s : State) (ctx tok : Nat) : State :=
  match (s.ctx? ctx).bind (fun c => c.unseals.find? (fun u => u.1 == tok)) with
  | none => s
  | some u => (dropRange s ctx u.2.1 u.2.2).onCtx ctx (fun c =>
      { c with seals := c.seals.erase u.2, unseals := c.unseals.erase u })

/-- RESULT_LAND (05 R88): the response to a pass that has been performed frees its miss-status entries (10 R203), or an interlocked result of the team's own
access lands, its responses there and its banks done (10 R193). -/
def execResultLand (sid tok : Nat) (s : State) : Host.Outcome State Fault Refusal :=
  match s.team? sid with
  | none => notDue "RESULT_LAND"
  | some t =>
    if t.misses.any (fun m => m.tok == tok) && !t.mem.any (fun r => r.held.any (fun h => h.1 == tok)) then .next (s.setTeam sid (freeMiss t tok))
    else if t.sb.any (fun e => e.tok == tok && e.lands t s.clock) then .next (endUnseal (s.setTeam sid (landSb t tok)) t.ctx tok)
    else notDue "RESULT_LAND"

/-- PASS_AGED (10 R204): a pass rejected 16 times joins its core's aged queue. -/
def execPassAged (sid : Nat) (s : State) : Host.Outcome State Fault Refusal :=
  match s.team? sid with
  | none => notDue "PASS_AGED"
  | some t =>
    if t.park == .aged && !t.aged then
      .next (pmcCount ((s.setTeam sid { t with aged := true }).onCore t.coreId
        (fun c => { c with agedQ := c.agedQ ++ [t.slot] })) (.core t.coreId) 7 t.ctx 1)
    else notDue "PASS_AGED"

/-- A fill lands in its L1 line: every byte it brings that is not dirty takes its value (14 R263). Bytes of an earlier fill keep its
expiry; a fill under a translation to another page than that of the line's dirty bytes is of no use (11 R230)
(DEDUCED, log 23). -/
def landFill (s : State) (f : Fill) : State :=
  let expiry := match f.tr with | some t => t.expiry | none => 0
  if f.homeOnly then s
  else
    match s.l1? f.core f.ctx f.line with
    | none =>
      fitL1 (putL1 s { newL1 f.core f.ctx f.line f.tr s.order with valid := f.valid, data := f.data }).nextOrder f.core
    | some x =>
      let same := match x.tr, f.tr with | some a, some b => lineAt a x.line == lineAt b x.line | _, _ => true
      if !same && x.dirty != 0 then s
      else
        let kept := if same then x.valid &&& ~~~ (f.valid &&& ~~~ x.dirty) else 0
        (putL1 s { x with valid := kept ||| (f.valid &&& ~~~ x.dirty), data := mergeLine (f.valid &&& ~~~ x.dirty) f.data x.data,
                          tr := if x.dirty = 0 then f.tr else x.tr,
                          clean := if kept &&& ~~~ x.dirty = 0 then expiry else min x.clean expiry,
                          filled := s.order }).nextOrder

/-- L1_FILL_LAND (14 R263). Fills land in any order; one whose translation has expired is dropped (11 R230) (DEDUCED, log 23). -/
def execL1FillLand (i : Nat) (s : State) : Host.Outcome State Fault Refusal :=
  match s.fills[i]? with
  | none => notDue "L1_FILL_LAND"
  | some f =>
    let s1 := { s with fills := s.fills.eraseIdx i }
    match f.tr with
    | some tr => if tr.expiry ≤ s.rt then .next s1 else .next (landFill s1 f)
    | none => .next (landFill s1 f)

/-- L1_WRITE_BACK (10 R200, R201): a line's dirty bytes are written back; whether the line is evicted as well is left
free (DESIGN CHOICE, log 22). -/
def execL1WriteBack (core ctx line : Nat) (s : State) : Host.Outcome State Fault Refusal :=
  if (s.l1? core ctx line).isSome then
    let s1 := writeBackLine s core ctx line
    .next ((if Config.freeBit s.fresh 4001 line then dropL1 s1 core ctx line else s1).tick1)
  else notDue "L1_WRITE_BACK"

/-- WRITE_CHECK_RETURN (11 R229). -/
def execWriteCheckReturn (i : Nat) (s : State) : Host.Outcome State Fault Refusal :=
  match s.wchecks[i]? with
  | none => notDue "WRITE_CHECK_RETURN"
  | some c =>
    let s1 := { s with wchecks := s.wchecks.eraseIdx i }
    match s.team? c.sid with
    | none => .next s1
    | some t => .next (checkReturn s1 c t.coreId)

/-- The next cycle's real time: a lease that ends by then has no cycle left in which it may be used. -/
def leaseLimit (s : State) : Nat := s.rt + Config.unitsPerCycle s.clkStep

/-- Speculative bytes are checked again under a fresh translation when theirs goes; a failed check aborts the region (19 R325). -/
def renewSpec (out : Nat → Nat → Trans → Bool) (s : State) : State :=
  (s.spec.filter (fun x => out x.ctx x.line x.tr)).foldl (fun s x =>
    match translate s (unitOf (x.line * 64)) x.ctx (lineVa x.line) .write with
    | (s1, .ok tr) => { s1 with spec := s1.spec.map (fun y => if y.slot = x.slot ∧ y.ctx = x.ctx ∧ y.line = x.line then { y with tr := tr } else y) }
    | (s1, .error (.hard c)) => abortRegion s1 x.slot c 0
    | (s1, .error (.absent p)) => abortRegion s1 x.slot (if p then Cause.accessViolation else Cause.pageFault) 0) s

/-- A vent attempt whose lines' translations are gone starts again; one that is escalated never does: its lines are translated again
when they are written (17 R299; 11 R230) (DEDUCED, log 51). -/
def restartVents (s : State) : State :=
  s.vents.foldl (fun s v =>
    match v.2.run with
    | none => s
    | some r =>
      match s.window? r.win with
      | none => s
      | some w =>
        if !r.escalated && r.buffer.any (fun l => (tlbFind s w.vent w.ctx (l.line * 64) .write).isNone) then
          (s.onVent v.1 (fun x => { x with run := none })).onWindow w.num (fun w =>
            { w with stat := Tab.set 0 w.stat 3 (Tab.get 0 w.stat 3 + 1) })
        else s) s

/-- Drop the translations of a kind: writes queued under them are applied and lines filled under them have their dirty bytes
written back, and are treated as absent; atomics on their way to the host are sent again under a fresh translation (11 R230;
23 R372) (DEDUCED, log 84). -/
def dropTranslations (s : State) (out : Nat → Nat → Trans → Bool) : State :=
  let gone (c l : Nat) (t : Option Trans) : Bool := match t with | some t => out c l t | none => false
  let s0 := drainAll s (fun q => out q.ctx q.line q.tr)
  let xs := s0.l1.filter (fun x => gone x.ctx x.line x.tr)
  let s1 := xs.foldl (fun s x => dropL1 (writeBackLine s x.core x.ctx x.line) x.core x.ctx x.line) s0
  let hs := s1.homes.filter (fun h => out h.ctx h.line h.tr)
  let s2 := hs.foldl (fun s h => dropHome (cleanHome s h) h.ctx h.line) s1
  let sent (f : FarAtom) : Bool := f.done.isNone && f.failed.isNone &&
    out (match s.team? f.sid with | some t => t.ctx | none => 0) (f.va.toNat / 64) f.tr
  restartVents (renewSpec out { s2 with
    tlb := s2.tlb.filter (fun e => !out e.ctx (e.vpage * 2 ^ e.tr.size / 64) e.tr)
    fills := s2.fills.filter (fun f => !gone f.ctx f.line f.tr)
    far := s2.far.filter (fun f => !sent f) })

/-- Clean bytes filled under a translation that has ended are treated as absent, in a line that a later one keeps (11 R230). -/
def dropClean (s : State) (limit : Nat) : State :=
  { s with
    l1 := s.l1.map (fun x => if x.clean ≤ limit ∧ x.valid ≠ x.dirty then { x with valid := x.dirty } else x)
    homes := s.homes.map (fun h => if h.clean ≤ limit ∧ h.valid ≠ h.dirty then { h with valid := h.dirty } else h) }

/-- Has some translation reached the end of its lease? (DESIGN CHOICE, log 31). -/
def leaseDue (s : State) : Bool :=
  let out (t : Trans) : Bool := decide (t.expiry ≤ leaseLimit s)
  s.tlb.any (fun e => out e.tr) || s.homes.any (fun h => out h.tr) || s.spec.any (fun x => out x.tr)
    || s.l1.any (fun x => match x.tr with | some t => out t | none => false)
    || s.fills.any (fun x => match x.tr with | some t => out t | none => false)
    || s.wq.any (fun q => out q.tr) || s.far.any (fun f => f.done.isNone && f.failed.isNone && out f.tr)
    || s.l1.any (fun x => decide (x.clean ≤ leaseLimit s) && x.valid != x.dirty)
    || s.homes.any (fun h => decide (h.clean ≤ leaseLimit s) && h.valid != h.dirty)

/-- LEASE_EXPIRY (11 R230) (DESIGN CHOICE, log 31). -/
def execLeaseExpiry (s : State) : Host.Outcome State Fault Refusal :=
  if leaseDue s then .next (dropClean (dropTranslations s (fun _ _ t => decide (t.expiry ≤ leaseLimit s))) (leaseLimit s))
  else notDue "LEASE_EXPIRY"

/-- MEMORY_POISON (11 R232): a line of memory, named by its key divided by 64, becomes poisoned. -/
def execMemoryPoison (line : Nat) (s : State) : Host.Outcome State Fault Refusal :=
  .next (if s.poison.contains line then s else { s with poison := s.poison ++ [line] })

/-- The host caches a line of device memory. -/
def hostTakes (s : State) (pa : Nat) : State :=
  let k := physKey s pa / 64
  if (dpaOf s pa).isSome && !s.hostHeld.contains k then { s with hostHeld := s.hostHeld ++ [k] } else s

/-- Hold a snoop of a line while its home owns it for queued atomics (11 R235). -/
def holdSnoop (s : State) (pa : Nat) (i : Instr) : State :=
  { s with own := s.own.map (fun o => if o.line = pa / 64 ∧ o.owned.isSome then { o with snoops := o.snoops ++ [i] } else o) }

def ownedLine (s : State) (pa : Nat) : Bool := s.own.any (fun o => o.line == pa / 64 && o.owned.isSome)

/-- HOST_READ_SNOOP (11 R232, R234): the homes' dirty bytes are written back and the host receives the line, poisoned where it
is. While a home owns the line for its queued atomics the snoop waits (R235). -/
def execHostReadSnoop (pa : Nat) (s : State) : Host.Outcome State Fault Refusal :=
  if ownedLine s pa then .next (holdSnoop s pa (.hostReadSnoop pa))
  else
    let s1 := hostTakes (cleanPa s pa) pa
    let k := physKey s1 (pa / 64 * 64)
    .next { s1 with signals := s1.signals ++ [.hostRead pa (keyLine s1 k) (poisonedKey s1 k)] }

/-- HOST_WRITE_OWNERSHIP (11 R232, R234; 19 R324): regions that track the line abort, the homes' dirty bytes are written
back and their copies invalidated; then the host's bytes, with their poison, are in memory. A mask of zero asks for
ownership alone. While a home owns the line for its queued atomics the snoop waits (R235). -/
def execHostWriteOwnership (pa : Nat) (mask : ByteMask) (data : LineData) (poisoned : Bool) (s : State) :
    Host.Outcome State Fault Refusal :=
  if ownedLine s pa then .next (holdSnoop s pa (.hostWriteOwnership pa mask data poisoned))
  else
    let s1 := purgePa (externalPa s pa) pa
    let k := physKey s1 (pa / 64 * 64)
    if mask = 0 then .next (hostTakes s1 pa)
    else
      let s2 := keyWrite s1 k mask data
      .next (if poisoned && !s2.poison.contains (k / 64) then { s2 with poison := s2.poison ++ [k / 64] } else s2)

/-- HOME_WRITE_QUEUE_DRAIN (14 R270). -/
def execHomeWriteQueueDrain (sid home : Nat) (s : State) : Host.Outcome State Fault Refusal :=
  if s.wq.any (fun q => q.sid == sid && q.home == home) then .next (drainOne s sid home) else notDue "HOME_WRITE_QUEUE_DRAIN"

end Sys2Proof.Machine
end

