-- ==== Sys2Proof/Machine/Lapilli.lean ====
section
/-! DEFINITION. Lapilli blocks (08 R162-R165) and the conversions between stored rows and canonical rows (10 R214). -/

namespace Sys2Proof.Machine

/-- Magnitude bits of a lapilli format: L3, L5, L8 (R162). -/
def lapW (fmt : Nat) : Nat := if fmt = 5 then 2 else if fmt = 6 then 4 else 7
/-- Bytes of a block. -/
def lapBytes (fmt : Nat) : Nat := if fmt = 5 then 8 else if fmt = 6 then 12 else 18
def isLap (fmt : Nat) : Bool := decide (5 ≤ fmt ∧ fmt ≤ 7)

/-- The value of bytes, the first lowest. -/
def bytesNat : List Byte → Nat
  | [] => 0
  | b :: r => b.toNat + 256 * bytesNat r

/-- Element `i` of a block: its sign, magnitude and micro-exponent. -/
def lapElem (w : Nat) (b : List Byte) (i : Nat) : Bool × Nat × Nat :=
  let x := bytesNat (b.drop 2) / 2 ^ ((1 + w) * i)
  (x / 2 ^ w % 2 == 1, x % 2 ^ w, (b.getD 1 0).toNat / 2 ^ (i / 2) % 2)

/-- Decode a block to bf16 (R163). -/
def lapDecode (w : Nat) (b : List Byte) : List Nat :=
  let e := (b.getD 0 0).toNat
  (List.range 16).map (fun i =>
    let (s, m, u) := lapElem w b i
    if e = 255 then bf16F.nan
    else if e = 0 ∨ m = 0 then bf16F.signed s 0
    else (bf16F.round .rne s m ((e + u : Nat) - 127 - w) false).1)

/-- Decode a block to int8 values and the exponent of its K-group (R165). -/
def lapInts (w : Nat) (b : List Byte) : List Byte × Nat :=
  let e := (b.getD 0 0).toNat
  if e = 0 then (List.replicate 16 0, 0)
  else if e = 255 then (List.replicate 16 0, 0x7FFF)
  else ((List.range 16).map (fun i =>
      let (s, m, u) := lapElem w b i
      let v : Int := (m * 2 ^ u : Nat)
      BitVec.ofInt 8 (if s then -v else v)), wrapT 16 ((e : Int) - w))

/-- The sign, magnitude and exponent of a bf16 value taken as finite. -/
def finParts (x : Nat) : Bool × Nat × Int :=
  match bf16F.val x with
  | .fin n m e => (n, m, e)
  | _ => (false, 0, 0)

/-- `floor(log2 |x|) + 1` of a non-zero bf16 value. -/
def lapTop (x : Nat) : Int := let p := finParts x; (Nat.log2 p.2.1 : Int) + p.2.2 + 1

/-- Pack 16 bf16 values into a block (R164): its bytes and events. -/
def lapPack (fmt : Nat) (xs : List Nat) : List Byte × Events :=
  let w := lapW fmt
  let fin := xs.all (fun x => match bf16F.val x with | .fin .. => true | _ => false)
  let area (codes : List Nat) : List Byte :=
    let n := codes.zipIdx.foldl (fun a c => a + c.1 * 2 ^ ((1 + w) * c.2)) 0
    (List.range (lapBytes fmt - 2)).map (fun i => BitVec.ofNat 8 (n / 2 ^ (8 * i)))
  if !fin then ([255, 0] ++ area (List.replicate 16 0), evInvalid)
  else
    let live := xs.filter (fun x => (finParts x).2.1 != 0)
    match live with
    | [] => ([0, 0] ++ area (xs.map (fun x => if (finParts x).1 then 2 ^ w else 0)), 0)
    | y :: ys =>
      let t := ys.foldl (fun a x => max a (lapTop x)) (lapTop y)
      let e := min (max (t + 126) 1) 254
      let big (i : Nat) : Bool := let x := xs.getD i 0; (finParts x).2.1 != 0 && decide (t ≤ lapTop x)
      let mu (j : Nat) : Nat := if big (2 * j) || big (2 * j + 1) then 1 else 0
      let el (i : Nat) : Nat × Events :=
        let (s, m, ex) := finParts (xs.getD i 0)
        let scale := e + mu (i / 2) - 127 - w
        let (q, exact) := roundUnits .rne false m ex false scale
        let c := min q (2 ^ w - 1)
        ((if s then 2 ^ w else 0) + c,
         evIf (m != 0 && c == 0) evUnderflow ||| evIf (!exact || decide (2 ^ w - 1 < q)) evInexact)
      let els := (List.range 16).map el
      let mByte := (List.range 8).foldl (fun a j => a + mu j * 2 ^ j) 0
      ([BitVec.ofInt 8 e, BitVec.ofNat 8 mByte] ++ area (els.map Prod.fst), els.foldl (fun a x => a ||| x.2) 0)

/-! ## Rows -/

/-- Split bytes into elements of `n` bytes. -/
def elems (n : Nat) (bs : List Byte) : List Nat :=
  (List.range (bs.length / n)).map (fun i => bytesNat ((bs.drop (i * n)).take n))
def unElems (n : Nat) (xs : List Nat) : List Byte :=
  xs.flatMap (fun x => (List.range n).map (fun i => BitVec.ofNat 8 (x / 2 ^ (8 * i))))

/-- Bytes of a stored element (10 R214). -/
def storedBytes (fmt : Nat) : Nat := if fmt = 1 then 4 else if fmt = 0 ∨ fmt = 2 then 2 else 1

/-- An element of a stored float format to f32 or bf16 with RNE (R214; 08 R153, R157). FP8 NaNs are quiet. -/
def fromStored (fmt : Nat) (g : Fmt) (x : Nat) : FOut :=
  let src (f : Fmt) : FOut := let o := f.convert g .rne x; (o.1, o.2 ||| f.srcEvents x)
  if fmt = 0 then src bf16F
  else if fmt = 1 then src f32F
  else if fmt = 2 then src f16F
  else if fmt = 4 then
    let o := e5m2F.convert g .rne x
    (o.1, o.2 ||| evIf (e5m2F.subnormal x) evSubnormal)
  else
    let sub := evIf (decide (0 < x % 128 ∧ x % 128 < 8)) evSubnormal
    match e4m3Val x with
    | .fin n m e => if m = 0 then (g.signed n 0, sub) else let o := g.round .rne n m e false; (o.1, o.2 ||| sub)
    | _ => (g.nan, evNan)

/-- An f32 or bf16 element to a stored float format with RNE (R214). -/
def toStored (g : Fmt) (fmt : Nat) (x : Nat) : FOut :=
  let dst (f : Fmt) : FOut := let o := g.convert f .rne x; (o.1, o.2 ||| g.srcEvents x)
  if fmt = 0 then dst bf16F
  else if fmt = 1 then dst f32F
  else if fmt = 2 then dst f16F
  else if fmt = 4 then dst e5m2F
  else let o := e4m3Round (g.val x); (o.1, o.2 ||| g.srcEvents x)

def gather16 (f : List Byte → List Byte × Events) (n : Nat) (bs : List Byte) : List Byte × Events :=
  (List.range (bs.length / n)).foldl (fun (a : List Byte × Events) i =>
    let r := f ((bs.drop (i * n)).take n)
    (a.1 ++ r.1, a.2 ||| r.2)) ([], 0)

/-- `cpy`: a stored row to a canonical row: its bytes, its exponent bytes and the events (R214). -/
def rowIn (kind fmt : Nat) (bs : List Byte) : List Byte × List Byte × Events :=
  if (kind = 0 ∧ fmt = 0) ∨ (kind = 3 ∧ fmt = 1) ∨ kind = 2 then (bs, [], 0)
  else if kind = 1 then
    let blocks := (List.range (bs.length / lapBytes fmt)).map (fun i => (bs.drop (i * lapBytes fmt)).take (lapBytes fmt))
    let ds := blocks.map (lapInts (lapW fmt))
    (ds.flatMap Prod.fst, unElems 2 (ds.map Prod.snd), 0)
  else if isLap fmt then
    let r := gather16 (fun b => (unElems 2 (lapDecode (lapW fmt) b), 0)) (lapBytes fmt) bs
    (r.1, [], 0)
  else
    let g := if kind = 0 then bf16F else f32F
    let os := (elems (storedBytes fmt) bs).map (fromStored fmt g)
    (unElems (if kind = 0 then 2 else 4) (os.map Prod.fst), [], os.foldl (fun a o => a ||| o.2) 0)

/-- `cpyout`: a canonical row to a stored row, and the events (R214). -/
def rowOut (kind fmt : Nat) (bs : List Byte) : List Byte × Events :=
  if (kind = 0 ∧ fmt = 0) ∨ (kind = 3 ∧ fmt = 1) ∨ kind = 2 then (bs, 0)
  else
    let g := if kind = 0 then bf16F else f32F
    let xs := elems (if kind = 0 then 2 else 4) bs
    if isLap fmt then
      let os := xs.map (fun x => if kind = 0 then (x, (0 : Events)) else toStored g 0 x)
      let bf := os.map Prod.fst
      let r := gather16 (fun b => lapPack fmt (elems 2 b)) 32 (unElems 2 bf)
      (r.1, os.foldl (fun a o => a ||| o.2) r.2)
    else
      let os := xs.map (toStored g fmt)
      (unElems (storedBytes fmt) (os.map Prod.fst), os.foldl (fun a o => a ||| o.2) 0)

end Sys2Proof.Machine
end

