-- ==== Sys2Proof/Machine/Caldera.lean ====
section
/-! DEFINITION. The caldera: `cpy`, `cpyout` and the steps of a copy (10 R212-R219). -/

namespace Sys2Proof.Machine

/-! ## Engine accesses -/

/-- Read bytes through a core's L1, as weak loads (R216). -/
def readWeak (s : State) (a : Access) (va n : Nat) : State × Except Missing (List Byte) :=
  (rangeLines va n).foldl (fun (acc : State × Except Missing (List Byte)) lm =>
    match acc with
    | (s, .error e) => (s, .error e)
    | (s, .ok bs) =>
      match loadL1 s a lm.1 lm.2 with
      | (s1, .error f) => (s1, .error { va := BitVec.ofNat 64 (max va (lm.1 * 64)), fail := f })
      | (s1, .ok d) => (s1, .ok (bs ++ (setBits lm.2).map (lineByte d)))) (s, .ok [])

/-- Obtain the write grants of every line of a range, so that a row is written whole or not at all. -/
def grantRange (s : State) (ctx va n : Nat) : State × Except Missing Unit :=
  (rangeLines va n).foldl (fun (acc : State × Except Missing Unit) lm =>
    match acc with
    | (s, .error e) => (s, .error e)
    | (s, .ok ()) =>
      let has := match s.home? ctx lm.1 with
        | some h => h.tr.w && h.tr.dset && decide (s.rt < h.tr.expiry)
        | none => false
      if has then (s, .ok ())
      else match translate s (unitOf (lm.1 * 64)) ctx (lineVa lm.1) .write with
        | (s1, .ok _) => (s1, .ok ())
        | (s1, .error f) => (s1, .error { va := BitVec.ofNat 64 (max va (lm.1 * 64)), fail := f })) (s, .ok ())

/-- The first sealed byte of a range (R210). -/
def sealedIn (s : State) (ctx va n : Nat) : Option Nat :=
  ((rangeLines va n).find? (fun lm => sealedAt s ctx (max va (lm.1 * 64)))).map (fun lm => max va (lm.1 * 64))

/-- An engine's write of a row at the homes, for a core whose own copies of the bytes are updated (R216; 17 R293). -/
def writeRow (s : State) (t : Team) (va : Nat) (bs : List Byte) : State × Except Missing Unit :=
  match sealedIn s t.ctx va bs.length with
  | some v => (s, .error { va := BitVec.ofNat 64 v, fail := .hard Cause.sealWrite })
  | none =>
    match grantRange s t.ctx va bs.length with
    | (s1, .error m) => (s1, .error m)
    | (s1, .ok ()) =>
      match devWrite s1 unitOf t.ctx va bs with
      | (s2, .error m) => (s2, .error m)
      | (s2, .ok ()) =>
        let s3 := (rangeLines va bs.length).foldl (fun s lm =>
          updateL1 s t.coreId t.ctx lm.1 lm.2 (placeBytes va lm.1 lm.2 bs)) s2
        (foldAccess s3 t va bs.length false true, .ok ())

/-! ## Descriptors (R212-R215) -/

def CopyJob.va (j : CopyJob) : Nat := (j.desc.extractLsb' 0 64).toNat
def CopyJob.nrows (j : CopyJob) : Nat := if j.desc.extractLsb' 80 16 = 0 then 0 else (j.desc.extractLsb' 64 16).toNat
def CopyJob.relems (j : CopyJob) : Nat := (j.desc.extractLsb' 80 16).toNat
def CopyJob.pitch (j : CopyJob) : Nat := (j.desc.extractLsb' 96 32).toNat
def CopyJob.spoff (j : CopyJob) : Nat := (j.desc.extractLsb' 128 21).toNat
def CopyJob.cpitch (j : CopyJob) : Nat := (j.desc.extractLsb' 149 21).toNat
def CopyJob.xoff (j : CopyJob) : Nat := (j.desc.extractLsb' 170 21).toNat
def CopyJob.gather (j : CopyJob) : Nat := (j.desc.extractLsb' 192 64).toNat
def CopyJob.kind (j : CopyJob) : Nat := j.imm.kind.toNat
def CopyJob.fmt (j : CopyJob) : Nat := j.imm.fmt.toNat
/-- Canonical bytes of a row in its own plane. -/
def CopyJob.canon (j : CopyJob) : Nat :=
  if j.kind = 0 then 2 * j.relems else if j.kind = 3 then 4 * j.relems else j.relems
/-- Exponent bytes of a row. -/
def CopyJob.expBytes (j : CopyJob) : Nat := if j.kind = 1 then j.relems / 8 else 0
/-- Stored bytes of a row. -/
def CopyJob.stored (j : CopyJob) : Nat :=
  if isLap j.fmt then j.relems / 16 * lapBytes j.fmt else j.relems * storedBytes j.fmt
/-- Bytes a row delivers (R216). -/
def CopyJob.rowBytes (j : CopyJob) : Nat := if j.out then j.stored else j.canon + j.expBytes

/-- The legal pairs of KIND and FMT (R214). -/
def legalPair (out : Bool) (kind fmt : Nat) : Bool :=
  match kind with
  | 0 => if out then [0, 1, 3, 4, 5, 6, 7].contains fmt else [0, 1, 3, 4, 7].contains fmt
  | 1 => !out && [5, 6].contains fmt
  | 2 => fmt == 8
  | _ => if out then [0, 1, 2, 5, 6, 7].contains fmt else [1, 2].contains fmt

/-- Does the exponent plane overlap the rows? -/
def planeOverlaps (j : CopyJob) : Bool :=
  let hi := j.xoff + j.nrows * j.expBytes
  j.kind == 1 && j.expBytes != 0 && (List.range j.nrows).any (fun i =>
    let lo := j.spoff + i * j.cpitch
    decide (lo < hi) && decide (j.xoff < lo + j.canon))

/-- Check 1 of R215. -/
def formatInvalid (j : CopyJob) : Bool :=
  !legalPair j.out j.kind j.fmt
    || (isLap j.fmt && j.relems % 16 != 0)
    || decide (j.cpitch < j.canon)
    || (j.kind == 0 && (j.spoff % 2 != 0 || j.cpitch % 2 != 0))
    || (j.kind == 3 && (j.spoff % 4 != 0 || j.cpitch % 4 != 0))
    || j.xoff % 2 != 0 || (j.kind != 1 && j.xoff != 0) || planeOverlaps j
    || j.desc.getLsbD 191

/-- Check 2 of R215: the first offset at or beyond the range. -/
def copyBeyond (j : CopyJob) (limit : Nat) : Option Nat :=
  let rows := ((List.range j.nrows).filter (fun i => decide (0 < j.canon) && decide (limit < j.spoff + i * j.cpitch + j.canon))).head?.map
    (fun i => max limit (j.spoff + i * j.cpitch))
  let plane := if j.expBytes * j.nrows != 0 && decide (limit < j.xoff + j.nrows * j.expBytes) then some (max limit j.xoff) else none
  match rows, plane with
  | some a, some b => some (min a b)
  | some a, none => some a
  | none, b => b

def immWord (i : CpyImm) : Nat :=
  i.fmt.toNat + 16 * i.kind.toNat + 256 * i.group.toNat + (if i.count then 65536 else 0)

/-- Checks 1 to 3 of R215. -/
def copyCheck (s : State) (t : Team) (j : CopyJob) : Option (BitVec 9 × Word) :=
  if formatInvalid j then some (Cause.formatInvalid, BitVec.ofNat 64 (immWord j.imm))
  else match copyBeyond j t.spadLen with
    | some o => some (Cause.scratchRange, BitVec.ofNat 64 o)
    | none =>
      let n := match s.launch? t.lid with | some l => l.groups.length | none => 0
      if j.imm.count && decide (n ≤ j.imm.group.toNat) then some (Cause.illegalOperand, posVal 2 j.imm.group.toNat) else none

/-- The phase a delivery counts in, fixed at issue (15 R274). -/
def deliveryTarget (s : State) (t : Team) (g : Nat) : Nat :=
  let b := barrierOf s t.lid g
  if inGroup s t.lid g t.team then (b.narrOf t.team).toNat else b.cur.toNat

/-- Issue of a copy (R213, R215-R217). -/
def issueCopy (out : Bool) (d a : SIdx) (imm : CpyImm) (sid : Nat) (vw : View) (s : State) : Done :=
  let t := vw.t
  if regionForbids t then regionTrap s
  else
    let n := a.toNat
    let j : CopyJob :=
      { id := s.order, sid := sid, tkey := t.key, out := out, reg := d.toNat, tok := s.order,
        desc := vw.sr (n + 3) ++ vw.sr (n + 2) ++ vw.sr (n + 1) ++ vw.sr n, imm := imm, lid := t.lid,
        target := deliveryTarget s t imm.group.toNat, row := 0, rows := 0, bytes := 0, events := 0, waiting := none,
        served := [], failed := none, touched := [], clobbered := [] }
    let j : CopyJob := if j.gather % 4 != 0 then { j with failed := some (Cause.misaligned, BitVec.ofNat 64 j.gather) } else j
    match copyCheck s t j with
    | some (c, v) => .trap s c v 0 false
    | none =>
      if 32 ≤ (s.core t.coreId).copies.length then .wait s .calderaFull
      else
        let s1 := s.onTeam sid (fun t => t.setS d.toNat 0)
        let s2 := if d = 0 then s1.nextOrder else (addSb s1 sid (.s d.toNat) [] true).1
        .fall (s2.onCore t.coreId (fun c => { c with copies := c.copies ++ [j] })) 1

/-- `cpy` (R219). -/
def execCpy (h : Hdr) (d a : SIdx) (i : CpyImm) (s : State) : Host.Outcome State Fault Refusal :=
  issueScalar (.cpy h d a i) h s (issueCopy false d a i)

/-- `cpyout` (R219). -/
def execCpyout (h : Hdr) (d a : SIdx) (i : CpyImm) (s : State) : Host.Outcome State Fault Refusal :=
  issueScalar (.cpyout h d a i) h s (issueCopy true d a i)

/-! ## The steps of a copy -/

def copyAt (s : State) (core i : Nat) : Option CopyJob := (s.core core).copies[i]?
def setCopy (s : State) (core i : Nat) (j : CopyJob) : State :=
  s.onCore core (fun c => { c with copies := c.copies.set i j })

/-- No earlier copy of the same team is unfinished (R216). -/
def copyHead (s : State) (core i : Nat) (j : CopyJob) : Bool :=
  !((s.core core).copies.take i).any (fun e => e.sid == j.sid && e.tkey == j.tkey)

def copyFinished (j : CopyJob) : Bool := j.failed.isSome || decide (j.nrows ≤ j.row)

/-- The copy meets a page the host may serve, or a cause (R218; 11 R226, R227). -/
def copyMiss (s : State) (core i ctx : Nat) (j : CopyJob) (write : Bool) (m : Missing) : State :=
  match m.fail with
  | .hard c => setCopy s core i { j with failed := some (c, m.va) }
  | .absent prot =>
    if 2 ≤ Tab.get 0 j.served (m.va.toNat / 4096) then
      setCopy s core i { j with failed := some (if prot then Cause.accessViolation else Cause.pageFault, m.va) }
    else
      askPage (setCopy s core i { j with waiting := some (m.va.toNat / 4096) }) (.caldera core j.id) ctx m.va.toNat write false
        (unitOf m.va.toNat)

/-- The bytes a `cpyout` reads: a byte written since its issue is read old or new (R216) (DEDUCED, log 34). -/
def copySource (s : State) (core off : Nat) (j : CopyJob) : List Byte :=
  (spadRead s core off j.canon).zipIdx.map (fun b => match Tab.find j.touched (off + b.2) with
    | some o => if Config.freeBit s.fresh 4100 (off + b.2) then o else b.1
    | none => b.1)

/-- A row is written: counted, and subtracted from its barrier (R216, R217). -/
def rowWritten (s : State) (core i : Nat) (j : CopyJob) (ev : Events) : State :=
  let j1 := { j with row := j.row + 1, rows := j.rows + 1, bytes := j.bytes + j.rowBytes, events := j.events ||| ev, served := [] }
  let s1 := setCopy s core i j1
  if j.imm.count then
    { s1 with hub := s1.hub ++ [{ lid := j.lid, group := j.imm.group.toNat,
                                  msg := .post (BitVec.ofNat 16 j.target) (-(j.rowBytes : Int)) }] }
  else s1

/-- Where the gather table holds the index of the row at hand (R212). -/
def CopyJob.tableVa (j : CopyJob) : Nat := (j.gather + 4 * j.row) % 2 ^ 64

/-- The address of a stored row, through the gather table (R212). -/
def rowVa (s : State) (a : Access) (j : CopyJob) : State × Except Missing Nat :=
  if j.gather = 0 then (s, .ok ((j.va + j.row * j.pitch) % 2 ^ 64))
  else
    let g := j.tableVa
    if !canonical (BitVec.ofNat 64 g) then (s, .error { va := BitVec.ofNat 64 g, fail := .hard Cause.noncanonical })
    else
      match readWeak s a g 4 with
      | (s1, .error m) => (s1, .error m)
      | (s1, .ok bs) => (s1, .ok ((j.va + leNat bs * j.pitch) % 2 ^ 64))

/-- Checks of a stored row's address (R196, R218). -/
def rowCheck (j : CopyJob) (va : Nat) : Option (BitVec 9 × Nat) :=
  let al := if j.fmt = 1 then 4 else if j.fmt = 0 ∨ j.fmt = 2 then 2 else 1
  if !canonical (BitVec.ofNat 64 va) then some (Cause.noncanonical, va)
  else if !canonical (BitVec.ofNat 64 (va + j.stored - 1)) then some (Cause.noncanonical, (va + j.stored - 1) % 2 ^ 64)
  else if va % al != 0 then some (Cause.misaligned, va)
  else none

/-- The read of the gather table is a load of the team (17 R293). -/
def foldTable (s : State) (t : Team) (j : CopyJob) : State := if j.gather = 0 then s else foldAccess s t j.tableVa 4 true false

/-- One row of a copy (DEDUCED, log 34). -/
def copyRow (s : State) (core i : Nat) (t : Team) (j : CopyJob) : State :=
  let a : Access := { sid := j.sid, core := core, ctx := t.ctx, scope := .team, pol := false, engine := true }
  match rowVa s a j with
  | (s1, .error m) => copyMiss s1 core i t.ctx j false m
  | (s0, .ok va) =>
    let s1 := foldTable s0 t j
    match rowCheck j va with
    | some (c, v) => setCopy s1 core i { j with failed := some (c, BitVec.ofNat 64 v) }
    | none =>
      let off := t.spadOff + j.spoff + j.row * j.cpitch
      if j.out then
        let (bs, ev) := rowOut j.kind j.fmt (copySource s1 core off j)
        match writeRow s1.tick1 t va bs with
        | (s2, .error m) => copyMiss s2 core i t.ctx j true m
        | (s2, .ok ()) => rowWritten s2 core i j ev
      else
        match readWeak s1 a va j.stored with
        | (s2, .error m) => copyMiss s2 core i t.ctx j false m
        | (s2, .ok bs) =>
          let (row, ex, ev) := rowIn j.kind j.fmt bs
          let s3 := spadWrite (foldAccess s2 t va j.stored true false) core off row (.copy j.tkey)
          let s4 := if ex.isEmpty then s3 else spadWrite s3 core (t.spadOff + j.xoff + j.row * j.expBytes) ex (.copy j.tkey)
          rowWritten (pmcCount s4 (.core core) 9 t.ctx j.rowBytes) core i j ev

/-- An engine acts for a team (21 R350). -/
def forTeam (s : State) (sid : Nat) (f : State → State) : State := { (f { s with current := some sid }) with current := s.current }

/-- The same of the read of the gather table. -/
def tableHeld (s : State) (t : Team) (j : CopyJob) : Bool :=
  j.gather != 0 && (held s t j.tableVa 4 false || linesHeld s t.ctx ((rangeLines j.tableVa 4).map Prod.fst) .read)

/-- Does a window hold the next row of a copy (17 R296, R298, R299), or a peer's link (21 R338, R339)? -/
def rowHeld (s : State) (core : Nat) (t : Team) (j : CopyJob) : Bool :=
  (!s.windows.isEmpty || linksBusy s)
    && (tableHeld { s with current := some j.sid } t j || match rowVa s { sid := j.sid, core := core, ctx := t.ctx, scope := .team, pol := false, engine := true } j with
      | (_, .ok va) => held s t va j.stored j.out
          || linesHeld { s with current := some j.sid } t.ctx ((rangeLines va j.stored).map Prod.fst) (if j.out then .write else .read)
      | (_, .error _) => false)

/-- CALDERA_ROW_DONE (R216). -/
def execCalderaRowDone (core i : Nat) (s : State) : Host.Outcome State Fault Refusal :=
  match copyAt s core i with
  | none => notDue "CALDERA_ROW_DONE"
  | some j =>
    match s.team? j.sid with
    | none => notDue "CALDERA_ROW_DONE"
    | some t =>
      if copyFinished j || j.waiting.isSome || !copyHead s core i j || s.wq.any (fun q => q.sid == j.sid)
          || rowHeld s core t j then
        notDue "CALDERA_ROW_DONE"
      else .next (forTeam s j.sid (fun s => copyRow s core i t j))

/-- Is a scratchpad offset a destination byte of a `cpy`? -/
def isDest (j : CopyJob) (base o : Nat) : Bool :=
  let r := o - (base + j.spoff)
  (decide (base + j.spoff ≤ o) && j.cpitch != 0 && decide (r / j.cpitch < j.nrows) && decide (r % j.cpitch < j.canon))
    || (decide (base + j.xoff ≤ o) && decide (o - (base + j.xoff) < j.nrows * j.expBytes))

/-- Destination bytes that a team wrote while the copy was in flight are unpredictable afterwards (R216), at the home and wherever a
core holds them (DESIGN CHOICE, log 35). -/
def clobber (s : State) (core : Nat) (t : Team) (j : CopyJob) : State :=
  if j.clobbered.isEmpty then s
  else if j.out then
    let a : Access := { sid := j.sid, core := core, ctx := t.ctx, scope := .team, pol := false, engine := true }
    ((List.range j.row).foldl (fun s i =>
      match rowVa s a { j with row := i } with
      | (s1, .error _) => s1
      | (s1, .ok va) =>
        j.clobbered.foldl (fun s c =>
          let lo := max va c.off
          let n := min (va + j.stored) (c.off + c.len) - lo
          if n = 0 then s
          else
            let bs := (List.range n).map (fun k => Config.freeByte s.fresh (lo + k))
            (rangeLines lo n).foldl (fun s lm => spreadBytes s t.ctx lm.1 lm.2 (placeBytes lo lm.1 lm.2 bs))
              (devWrite s unitOf t.ctx lo bs).1) s1) s).tick1
  else
    let offs := (j.clobbered.flatMap (fun c => (List.range c.len).map (fun k => c.off + k))).filter (isDest j t.spadOff)
    (offs.foldl (fun s o => spadPut s core o [Config.freeByte s.fresh o]) s).tick1

/-- CALDERA_COPY_END (R217, R218): the events are counted, the token is written; a copy that failed leaves a trap due
(DESIGN CHOICE, log 35). -/
def execCalderaCopyEnd (core i : Nat) (s : State) : Host.Outcome State Fault Refusal :=
  match copyAt s core i with
  | none => notDue "CALDERA_COPY_END"
  | some j =>
    if !copyFinished j || !copyHead s core i j then notDue "CALDERA_COPY_END"
    else
      let s0 := s.onCore core (fun c => { c with copies := c.copies.eraseIdx i })
      let s1 := match s0.team? j.sid with
        | some t => if t.key = j.tkey then countOnce (clobber s0 core t j) j.sid j.events else s0
        | none => s0
      let cause := match j.failed with | some (c, _) => c | none => 0
      let tok := doneCause cause ||| (BitVec.ofNat 64 (j.rows % 2 ^ 22) <<< 32) ||| BitVec.ofNat 64 (j.bytes % 2 ^ 32)
      let s2 := (if j.out then landAcquire else landToken) s1 j.sid j.tkey j.tok j.reg tok
      .next (match j.failed with
        | some (c, v) => raiseEngineTrap s2 j.sid j.tkey c v
        | none => s2)

end Sys2Proof.Machine
end

