-- ==== Sys2Proof/Machine/Barrier.lean ====
section
/-! DEFINITION. Group barriers: `barv`, `bexp`, `bwait`, `btest` and the cycle of the barrier hub (15 R273-R279). -/

namespace Sys2Proof.Machine

/-! ## Groups and tokens -/

def groupCount (s : State) (lid : Nat) : Nat := match s.launch? lid with | some l => l.groups.length | none => 0

/-- A group operand's value, compared in full (R278). -/
def View.group (vw : View) : GrpOp → Nat
  | .s n => (vw.sr n.toNat).toNat
  | .imm x => x.toNat

/-- Checks 3 and 4 of R278. -/
def groupCheck (s : State) (t : Team) (g : Nat) : Option (BitVec 9 × Word) :=
  if groupCount s t.lid ≤ g then some (Cause.illegalOperand, posVal 2 g)
  else if !inGroup s t.lid g t.team then some (Cause.notMember, BitVec.ofNat 64 g)
  else none

/-- The token of phase `p` of a group (R277). -/
def barrierToken (g : Nat) (p : BitVec 16) : Word := BitVec.ofNat 64 (g * 65536 + p.toNat)

inductive TokenState where
  | bad | notLeft | left | overflowed
  deriving DecidableEq, Repr

/-- The checks of R277. -/
def tokenState (s : State) (t : Team) (x : Word) : TokenState :=
  let g := (x.extractLsb' 16 8).toNat
  let p := x.extractLsb' 0 16
  if x.extractLsb' 24 40 ≠ 0 ∨ groupCount s t.lid ≤ g then .bad
  else
    let b := barrierOf s t.lid g
    let d := (p - b.cur).toNat
    if 1 ≤ d ∧ d ≤ 32767 then .bad
    else if d = 0 then .notLeft
    else if b.ovf ∧ p = b.cur - 1 then .overflowed
    else .left

/-! ## The instructions -/

/-- A message on its way to a barrier (R274). -/
def sendHub (s : State) (lid g : Nat) (m : HubMsg) : State := { s with hub := s.hub ++ [{ lid := lid, group := g, msg := m }] }

/-- A member's arrival: its phase is its NARR, which then rises (R274). -/
def arriveAt (s : State) (t : Team) (g reg tok : Nat) : State :=
  let p := (barrierOf s t.lid g).narrOf t.team
  onBarrier (sendHub s t.lid g (.arrive t.team p t.sid t.key reg tok)) t.lid g
    (fun b => { b with narr := Tab.set (0 : BitVec 16) b.narr t.team (p + 1) })

/-- Has a member run one phase ahead (R274, R279)? -/
def ranAhead (s : State) (t : Team) (g : Nat) : Bool :=
  let b := barrierOf s t.lid g
  b.narrOf t.team == b.cur + 1

/-- `barv` (R279). -/
def execBarv (h : Hdr) (d : SIdx) (g : GrpOp) (s : State) : Host.Outcome State Fault Refusal :=
  issueScalar (.barv h d g) h s (fun sid vw s =>
    let t := vw.t
    let k := vw.group g
    if regionForbids t then regionTrap s
    else match groupCheck s t k with
      | some (c, v) => .trap s c v 0 false
      | none =>
        if ranAhead s t k then .wait s (.arrive k)
        else releaseOr s (deviceAccess sid t) (fun s =>
          let s1 := arriveAt s t k d.toNat s.order
          .fall (if d = 0 then s1.nextOrder else (addSb s1 sid (.s d.toNat) [] true).1) 1))

/-- The byte counter of a phase, with the posts and deliveries on their way to it (DEDUCED, log 44). -/
def bytesToward (s : State) (lid g : Nat) (p : BitVec 16) : Int :=
  let b := barrierOf s lid g
  s.hub.foldl (fun (a : Int) x => if x.lid = lid ∧ x.group = g then
      (match x.msg with | .post q n => if q = p then a + n else a | _ => a) else a)
    (if p = b.cur then b.now.bytes else b.next.bytes)

/-- `bexp` (R274, R279). -/
def execBexp (h : Hdr) (a : SIdx) (g : GrpOp) (s : State) : Host.Outcome State Fault Refusal :=
  issueScalar (.bexp h a g) h s (fun _ vw s =>
    let t := vw.t
    let k := vw.group g
    if regionForbids t then regionTrap s
    else match groupCheck s t k with
      | some (c, v) => .trap s c v 0 false
      | none =>
        let c : Nat := (vw.sr a.toNat).toNat % 2 ^ 32
        let p := (barrierOf s t.lid k).narrOf t.team
        if (2 ^ 47 : Int) ≤ bytesToward s t.lid k p + c then .trap s Cause.barrierOverflow (BitVec.ofNat 64 k) 0 false
        else .fall (sendHub s t.lid k (.post p c)) 1)

/-- `bwait` (R277, R279). -/
def execBwait (h : Hdr) (a : SIdx) (s : State) : Host.Outcome State Fault Refusal :=
  issueScalar (.bwait h a) h s (fun sid vw s =>
    let x := vw.sr a.toNat
    match tokenState s vw.t x with
    | .bad => .trap s Cause.badToken x 0 false
    | .notLeft => .wait s (.phase (x.extractLsb' 16 8).toNat (x.extractLsb' 0 16).toNat)
    | .overflowed => .trap s Cause.barrierOverflow x 0 false
    | .left => .fall (acquireAt s (deviceAccess sid vw.t)) 1)

/-- `btest` (R277, R279). -/
def execBtest (h : Hdr) (d a : SIdx) (s : State) : Host.Outcome State Fault Refusal :=
  issueScalar (.btest h d a) h s (fun sid vw s =>
    let x := vw.sr a.toNat
    match tokenState s vw.t x with
    | .bad => .trap s Cause.badToken x 0 false
    | .notLeft => lockedResult s sid d 0
    | .overflowed => .trap s Cause.barrierOverflow x 0 false
    | .left => lockedResult (acquireAt s (deviceAccess sid vw.t)) sid d 1)

/-! ## The hub (R274-R276) -/

/-- One message at its barrier (DEDUCED, log 44). -/
def Barrier.apply (b : Barrier) : HubMsg → Barrier
  | .arrive _ p _ _ _ _ =>
    if p = b.cur then { b with now := { b.now with arr := b.now.arr + 1 } }
    else { b with next := { b.next with arr := b.next.arr + 1 } }
  | .post p n =>
    if p = b.cur + 1 then { b with next := { b.next with bytes := b.next.bytes + n } }
    else { b with now := { b.now with bytes := b.now.bytes + n } }
  | .current n => { b with now := { b.now with bytes := b.now.bytes + n } }

/-- A member departs (R276): at once where it has not arrived at CUR, else from CUR + 1. -/
def Barrier.depart (b : Barrier) (team : Nat) : Barrier :=
  if b.narrOf team = b.cur then { b with members := b.members - 1 } else { b with late := b.late + 1 }

/-- Does the current slot meet the test of R275? -/
def Barrier.meets (b : Barrier) : Bool :=
  decide (1 ≤ b.members) && b.now.arr == b.members && decide (b.now.bytes ≤ 0)

/-- The current phase completes (R275). -/
def Barrier.complete (b : Barrier) : Barrier :=
  { b with cur := b.cur + 1, ovf := decide (b.now.bytes < 0), now := b.next, next := { arr := 0, bytes := 0 },
           members := b.members - b.late, late := 0 }

/-- An arrival lands its token (DEDUCED, log 45). -/
def landArrival (s : State) (x : HubItem) : State :=
  match x.msg with
  | .arrive _ p sid key reg tok => landToken s sid key tok reg (barrierToken x.group p)
  | _ => s

/-- Every barrier: its launch and group. -/
def barrierKeys (s : State) : List (Nat × Nat) := s.launches.flatMap (fun l => (List.range l.groups.length).map (fun g => (l.lid, g)))

/-- Phase `p` of a group completes: the teams that wait for it with its overflow mark trap, and its queued phases become
dispatchable (R277, R279; 04 R64) (DEDUCED, log 45). -/
def leavePhase (s : State) (lid g : Nat) : State :=
  let b := barrierOf s lid g
  let ovf := decide (b.now.bytes < 0)
  let s1 := onBarrier s lid g Barrier.complete
  let s2 := s1.onLaunch lid (fun l => { l with phases := l.phases.map (fun q =>
    if q.group = g ∧ q.phase = b.cur ∧ q.ready.isNone then { q with ready := some s.clock, ovf := ovf } else q) })
  if ovf then
    (s2.teams.filter (fun x => x.2.lid == lid && x.2.park == .phase g b.cur.toNat)).foldl (fun s x =>
      takeTrap s x.1 Cause.barrierOverflow (barrierToken g b.cur) 0 x.2.pc) s2
  else s2

/-- The messages that reach a barrier this cycle: some of those on their way to it, oldest first. How many is left free,
but the oldest of all arrives (DEDUCED, log 43). -/
def arriving (s : State) : List HubItem × List HubItem :=
  s.hub.zipIdx.foldl (fun (a : List HubItem × List HubItem) x =>
    let behind := a.2.any (fun y => y.lid == x.1.lid && y.group == x.1.group)
    if x.2 == 0 || (!behind && Config.freeBit s.fresh 4300 x.2) then (a.1 ++ [x.1], a.2) else (a.1, a.2 ++ [x.1])) ([], [])

/-- BARRIER_HUB_CYCLE (R275): the messages that arrive are applied together, then each barrier is tested once
(DEDUCED, log 43). -/
def execBarrierHubCycle (s : State) : Host.Outcome State Fault Refusal :=
  if s.hub.isEmpty && !(barrierKeys s).any (fun k => (barrierOf s k.1 k.2).meets) then notDue "BARRIER_HUB_CYCLE"
  else
    let (now, later) := arriving s
    let s1 := now.foldl (fun s x => landArrival (onBarrier s x.lid x.group (fun b => b.apply x.msg)) x) { s with hub := later }
    .next ((barrierKeys s1).foldl (fun s k => if (barrierOf s k.1 k.2).meets then leavePhase s k.1 k.2 else s) s1).tick1

/-! ## Members that leave (R276) -/

/-- The groups of a launch that a team belongs to. -/
def groupsOf (l : Launch) (team : Nat) : List Nat :=
  (List.range l.groups.length).filter (fun g => (l.groups.getD g { members := [] }).members.contains team)

/-- A team leaves every group it belongs to (15 R276). -/
def departAll (s : State) (lid team : Nat) : State :=
  match s.launch? lid with
  | some l => (groupsOf l team).foldl (fun s g => onBarrier s lid g (fun b => b.depart team)) s
  | none => s

/-- The teams of the units of a launch that are not placed. -/
def unplacedTeams (l : Launch) : List Nat :=
  (List.range ((l.units - l.next) * l.teamsPer)).map (fun k => l.next * l.teamsPer + k)

/-- Units that fail before they are placed leave their groups (R276). -/
def departUnplaced (s : State) (l : Launch) : State := (unplacedTeams l).foldl (fun s t => departAll s l.lid t) s

end Sys2Proof.Machine
end

