-- ==== Sys2Proof/Machine/DevAcc.lean ====
section
/-! DEFINITION. Accesses the device makes for itself to a context's memory: queue agents, the dispatcher and firmware (03
R386; 04 R387; 11 R221). Each is a step of a program that ends with a value or with the access that failed. -/

namespace Sys2Proof.Machine

/-- A program of device accesses. -/
abbrev Dev (α : Type) := State → State × Except Missing α

def Dev.pure {α : Type} (a : α) : Dev α := fun s => (s, .ok a)
def Dev.fail {α : Type} (m : Missing) : Dev α := fun s => (s, .error m)
def Dev.bind {α β : Type} (x : Dev α) (f : α → Dev β) : Dev β := fun s =>
  match x s with
  | (s1, .ok a) => f a s1
  | (s1, .error m) => (s1, .error m)

/-- Run a program over a list, gathering its results. -/
def Dev.each {α β : Type} (f : α → Dev β) : List α → Dev (List β)
  | [] => Dev.pure []
  | a :: r => Dev.bind (f a) (fun b => Dev.bind (Dev.each f r) (fun bs => Dev.pure (b :: bs)))

/-- The checks of an address before translation (10 R196). -/
def vaCheck (va n align : Nat) : Option Missing :=
  if !canonical (BitVec.ofNat 64 va) || decide (2 ^ 64 ≤ va) then some { va := BitVec.ofNat 64 va, fail := .hard Cause.noncanonical }
  else if va % align != 0 then some { va := BitVec.ofNat 64 va, fail := .hard Cause.misaligned }
  else if n != 0 && (decide (2 ^ 64 ≤ va + n - 1) || !canonical (BitVec.ofNat 64 (va + n - 1))) then
    some { va := BitVec.ofNat 64 (va + n - 1), fail := .hard Cause.noncanonical }
  else none

/-- Read `n` bytes (DEDUCED, log 99). -/
def readVa (unit : Nat → Nat) (ctx va n align : Nat) : Dev (List Byte) := fun s =>
  match vaCheck va n align with
  | some m => (s, .error m)
  | none => devRead s unit ctx va n

/-- Write bytes; a sealed range is not written (10 R210) (DEDUCED, log 99). -/
def writeVa (unit : Nat → Nat) (ctx va align : Nat) (bs : List Byte) : Dev Unit := fun s =>
  match vaCheck va bs.length align with
  | some m => (s, .error m)
  | none =>
    match sealedIn s ctx va bs.length with
    | some v => (s, .error { va := BitVec.ofNat 64 v, fail := .hard Cause.sealWrite })
    | none => devWrite s unit ctx va bs

/-- Is an address writable for `n` bytes? -/
def mayWrite (unit : Nat → Nat) (ctx va n : Nat) : Dev Unit := fun s =>
  match vaCheck va n 1 with
  | some m => (s, .error m)
  | none =>
    match sealedIn s ctx va n with
    | some v => (s, .error { va := BitVec.ofNat 64 v, fail := .hard Cause.sealWrite })
    | none =>
      (rangeLines va n).foldl (fun (acc : State × Except Missing Unit) lm =>
        match acc with
        | (s, .error e) => (s, .error e)
        | (s, .ok ()) =>
          match translate s (unit (lm.1 * 64)) ctx (lineVa lm.1) .write with
          | (s1, .error f) => (s1, .error { va := BitVec.ofNat 64 (max va (lm.1 * 64)), fail := f })
          | (s1, .ok _) => (s1, .ok ())) (s, .ok ())

/-- The cause of a failed access, unless the host is still to be asked for its page (11 R226, R227). `served` counts the
responses, `denied` lists the pages the host failed. -/
def missCause (served : Tab Nat) (denied : List Nat) (m : Missing) : Option (BitVec 9) :=
  match m.fail with
  | .hard c => some c
  | .absent prot =>
    let page := m.va.toNat / 4096
    if denied.contains page then some Cause.pageFault
    else if 2 ≤ Tab.get 0 served page then some (if prot then Cause.accessViolation else Cause.pageFault)
    else none

def missPage (m : Missing) : Nat := m.va.toNat / 4096

/-- A host response to a page: the count of the served, the list of the failed. -/
def noteServed (served : Tab Nat) (page : Nat) (ok : Bool) : Tab Nat := if ok then Tab.put served page (Tab.get 0 served page + 1) else served
def noteDenied (denied : List Nat) (page : Nat) (ok : Bool) : List Nat := if ok then denied else denied ++ [page]

/-- Bits `lo` upward of a stored record. -/
def fld {n : Nat} (r : BitVec n) (lo len : Nat) : Nat := (r.extractLsb' lo len).toNat

/-- The records of `n` bytes in a byte string. -/
def chop (bs : List Byte) (n k : Nat) : List (List Byte) := (List.range k).map (fun i => (bs.drop (i * n)).take n)

/-- `k` records of `n` bytes from a table. -/
def readTable (ctx va n k : Nat) : Dev (List (List Byte)) :=
  if k = 0 || va = 0 then Dev.pure [] else Dev.bind (readVa unitOf ctx va (n * k) 1) (fun bs => Dev.pure (chop bs n k))

/-- A word of a byte string. -/
def wordAt (bs : List Byte) (off : Nat) : Nat := leNat ((bs.drop off).take 8)

end Sys2Proof.Machine
end

