-- ==== Sys2Proof/Machine/Accept.lean ====
section
/-! DEFINITION. Queue tables and rings, and the acceptance of an entry: the launch record, its tables and the checks of 03
R44 (02 R36-R38; 03 R39-R48). -/

namespace Sys2Proof.Machine

/-! ## Queue table and ring (03 R39, R40) -/

/-- A queue table entry. -/
structure QEntry where
  ring     : Nat
  qid      : Nat
  valid    : Bool
  resident : Bool
  die      : Nat
  hwq      : Nat
  rlog     : Nat

def qEntryOf (e : BitVec 128) : QEntry :=
  { ring := fld e 64 64, qid := fld e 32 32, valid := e.getLsbD 31, resident := e.getLsbD 30, die := fld e 27 3,
    hwq := fld e 21 6, rlog := fld e 16 5 }

/-- A 57-bit address whose upper bits are copies of bit 56 (DEDUCED, log 79). -/
def signVa (x : BitVec 57) : Nat := (x.signExtend 64).toNat

/-- The VA of a queue's table entry (R39). -/
def qEntryVa (c : Ctx) (qid : Nat) : Nat :=
  signVa ((c.qtBase.extractLsb' 0 57) &&& ~~~ 15#57) + 16 * (qid % c.qtLen)

/-- Look a queue up (R39). -/
def lookupQueue (ctx qid : Nat) : Dev QEntry := fun s =>
  match s.ctx? ctx with
  | none => (s, .error { va := 0, fail := .hard Cause.noQueue })
  | some c => Dev.bind (readVa unitOf ctx (qEntryVa c qid) 16 16) (fun bs => Dev.pure (qEntryOf (BitVec.ofNat 128 (leNat bs)))) s

def QEntry.names (e : QEntry) (qid : Nat) : Bool := e.valid && e.qid == qid

/-- TAIL and HEAD of a ring header (R40). -/
def readHeader (ctx ring : Nat) : Dev (Nat × Nat) :=
  Dev.bind (readVa unitOf ctx ring 16 64) (fun bs => Dev.pure (wordAt bs 0, wordAt bs 8))

/-- The VA of the entry a reservation uses (R40). An RLOG2 outside 4-20 is used as it is read (DESIGN CHOICE, log 115). -/
def slotVa (ring rlog n : Nat) : Nat := ring + 64 + 64 * (n % 2 ^ rlog)

/-! ## What is read for a launch (R44) -/

structure LaunchReads where
  lr      : BitVec 1024
  groups  : List (BitVec 128)
  carry   : List (BitVec 128)
  roles   : List (BitVec 256)
  buckets : List (BitVec 384)
  maps    : List (List Byte)    -- a bitmap per group, empty where none is read
  regions : List (BitVec 256)

def recBits (n : Nat) (bs : List Byte) : BitVec n := BitVec.ofNat n (leNat bs)

def lrGang (r : BitVec 1024) : Bool := r.getLsbD 91
def lrHasBkt (r : BitVec 1024) : Bool := r.getLsbD 95
def lrUnits (r : BitVec 1024) : Nat := fld r 104 24 + 1
/-- How many role records are read: one of each role the launch has, of the four that the table holds (DESIGN CHOICE, log 114). -/
def lrRoles (r : BitVec 1024) : Nat := if lrGang r then fld r 93 2 + 1 else 0
def lrBuckets (r : BitVec 1024) : Nat := if lrHasBkt r then fld r 96 3 + 1 else 0

/-- The launch record. -/
def readRecord (ctx lrec : Nat) : Dev (BitVec 1024) :=
  Dev.bind (readVa unitOf ctx lrec 128 1) (fun bs => Dev.pure (recBits 1024 bs))

/-- Read all that a record's fields call for; a pointer of 0 is not read (DEDUCED, log 55), and of the four role records only those
of the NROLEM1 + 1 roles are read (DESIGN CHOICE, log 114). -/
def readLaunch (ctx : Nat) (r : BitVec 1024) (regions nreg : Nat) : Dev LaunchReads :=
  Dev.bind (readTable ctx (fld r 192 64) 16 (fld r 160 9)) (fun gs =>
  Dev.bind (readTable ctx (fld r 320 64) 16 (fld r 169 7)) (fun cs =>
  Dev.bind (readTable ctx (fld r 384 64) 32 (lrRoles r)) (fun rs =>
  Dev.bind (readTable ctx (fld r 256 64) 48 (lrBuckets r)) (fun ks =>
  let groups := gs.map (recBits 128)
  Dev.bind (Dev.each (fun (g : BitVec 128) =>
    if fld g 64 64 = 0 then Dev.pure [] else readVa unitOf ctx (fld g 64 64) ((fld g 24 24 + 7) / 8) 1) groups) (fun maps =>
  Dev.bind (readTable ctx regions 32 nreg) (fun ts =>
    Dev.pure { lr := r, groups := groups, carry := cs.map (recBits 128), roles := rs.map (recBits 256),
               buckets := ks.map (recBits 384), maps := maps, regions := ts.map (recBits 256) }))))))

/-! ## Groups (R44, R45) -/

/-- The teams a group entry names (R44, check 6). -/
def groupTeams (g : BitVec 128) (map : List Byte) : List Nat :=
  ((List.range (fld g 24 24)).filter (fun i => fld g 64 64 = 0 || (map.getD (i / 8) 0).getLsbD (i % 8))).map
    (fun i => fld g 0 24 + i * fld g 48 16)

def allGroups (x : LaunchReads) : List (List Nat) := (x.groups.zip x.maps).map (fun gm => groupTeams gm.1 gm.2)

/-- Teams per unit (R45). -/
def teamsPerUnit (x : LaunchReads) : Nat := if lrGang x.lr then x.roles.foldl (fun a r => a + fld r 96 24) 0 else 1

/-! ## Shape arguments and buckets (R46) -/

/-- Does a bucket record match the shape arguments? -/
def bucketMatch (ranges : List (Nat × Nat)) (shp : Nat → Nat) : Bool :=
  ranges.zipIdx.all (fun r => decide (r.1.1 ≤ shp r.2 ∧ shp r.2 ≤ r.1.2))

def bucketOf (b : BitVec 384) : BucketRec :=
  { entry := BitVec.ofNat 64 (fld b 0 64), w := fld b 320 16,
    ranges := (List.range 4).map (fun k => (fld b (64 + 64 * k) 32, fld b (96 + 64 * k) 32)) }

def roleOf (r : BitVec 256) : RoleRec :=
  { entry := BitVec.ofNat 64 (fld r 0 64), w := fld r 64 16, n := 8 * fld r 80 5, g := 4 * fld r 85 6, count := fld r 96 24 }

def shpOf (r : BitVec 1024) (k : Nat) : Nat := fld r (448 + 32 * k) 32

/-- The width a free team takes. -/
def freeWidth (x : LaunchReads) : Nat :=
  match (x.buckets.map bucketOf).find? (fun b => bucketMatch b.ranges (shpOf x.lr)) with
  | some b => b.w
  | none => fld x.lr 64 16

/-! ## Charges (04 R62; 03 R44, check 5) -/

/-- The register store charge of a team (04 R62). -/
def regCharge (w n g : Nat) : Nat := g * w * 4 + (n - g) * 8

/-- A core's load in a placement: slots, register bytes, lanes. -/
structure Load where
  slots : Nat
  regs  : Nat
  lanes : Nat

def Load.add (a : Load) (w n g : Nat) : Load := { slots := a.slots + 1, regs := a.regs + regCharge w n g, lanes := a.lanes + w }

/-- Does an empty core hold a load with a scratchpad request (R44, check 5)? -/
def Load.fits (a : Load) (spadg lpriv : Nat) : Bool :=
  decide (a.slots ≤ 16) && decide (a.regs ≤ Config.regBytes) && decide (spadg * 4096 + lpriv * 16 * a.lanes ≤ Config.spadBytes)

/-- The teams of one gang, role by role: width, N, G. -/
def gangTeams (roles : List RoleRec) : List (Nat × Nat × Nat) :=
  roles.flatMap (fun r => List.replicate r.count (r.w, r.n, r.g))

/-- Assign a gang to an empty twin by 04 R63: the even core first. -/
def twinFits (teams : List (Nat × Nat × Nat)) (spadg lpriv : Nat) : Bool :=
  let zero : Load := { slots := 0, regs := 0, lanes := 0 }
  (teams.foldl (fun (a : Option (Load × Load)) t =>
    match a with
    | none => none
    | some (e, o) =>
      if (e.add t.1 t.2.1 t.2.2).fits spadg lpriv then some (e.add t.1 t.2.1 t.2.2, o)
      else if (o.add t.1 t.2.1 t.2.2).fits spadg lpriv then some (e, o.add t.1 t.2.1 t.2.2) else none) (some (zero, zero))).isSome

/-! ## The checks (R44) -/

def badWidth (w : Nat) : Bool := w % 32 != 0 || w < 32 || 1024 < w
def badGrans (n g : Nat) : Bool := decide (16 < n) || decide (32 < g) || decide (2 * n < g)

/-- Check 2, but for COMPL (DEDUCED, log 56). -/
def reservedBad (x : LaunchReads) : Bool :=
  fld x.lr 1008 16 != 1 || fld x.lr 768 240 != 0 || fld x.lr 176 16 != 0 || fld x.lr 146 14 != 0 || fld x.lr 99 5 != 0
    || x.roles.any (fun r => fld r 120 136 != 0 || fld r 91 5 != 0) || x.buckets.any (fun b => fld b 336 48 != 0)
    || x.regions.any (fun r => fld r 193 63 != 0)

/-- Check 3. A record counts as used when it is read, whether or not a team takes its WIDTH (DESIGN CHOICE, log 114). -/
def shapeBad (x : LaunchReads) (regions nreg : Nat) : Bool :=
  badWidth (fld x.lr 64 16) || x.roles.any (fun r => badWidth (fld r 64 16)) || x.buckets.any (fun b => badWidth (fld b 320 16))
    || fld x.lr 160 9 = 0 || decide (256 < fld x.lr 160 9) || decide (64 < fld x.lr 169 7)
    || fld x.lr 192 64 = 0 || (fld x.lr 169 7 != 0 && fld x.lr 320 64 = 0) || (lrGang x.lr && fld x.lr 384 64 = 0)
    || (lrHasBkt x.lr && fld x.lr 256 64 = 0) || (nreg != 0 && regions = 0)

/-- Check 4. -/
def gransBad (x : LaunchReads) : Bool :=
  badGrans (fld x.lr 80 5) (fld x.lr 85 6) || decide (384 < fld x.lr 128 9) || decide (256 < fld x.lr 137 9)
    || x.roles.any (fun r => badGrans (fld r 80 5) (fld r 85 6))

/-- Check 5. -/
def tooLarge (x : LaunchReads) : Bool :=
  let spadg := fld x.lr 128 9
  let lpriv := fld x.lr 137 9
  let zero : Load := { slots := 0, regs := 0, lanes := 0 }
  if lrGang x.lr then
    let roles := x.roles.map roleOf
    if 32 < teamsPerUnit x then true
    else if x.lr.getLsbD 92 then !twinFits (gangTeams roles) spadg lpriv
    else !((gangTeams roles).foldl (fun (a : Load) t => a.add t.1 t.2.1 t.2.2) zero).fits spadg lpriv
  else !(zero.add (freeWidth x) (8 * fld x.lr 80 5) (4 * fld x.lr 85 6)).fits spadg lpriv

/-- Check 6. -/
def groupsBad (x : LaunchReads) : Bool :=
  let teams := teamsPerUnit x * lrUnits x.lr
  (match x.groups with
   | g :: _ => fld g 0 24 != 0 || fld g 24 24 != teams || fld g 48 16 != 1 || fld g 64 64 != 0
   | [] => true)
    || (x.groups.drop 1).any (fun g => fld g 48 16 = 0)
    || (allGroups x).any (fun ts => ts.any (fun t => decide (teams ≤ t)))

/-- Check 7. -/
def groupsMany (x : LaunchReads) : Bool :=
  let all := (allGroups x).flatten
  all.any (fun t => decide (4 < all.count t))

/-- Checks 2 to 7 in order: the cause and whether COMPL is usable. `compl` says whether COMPL can be written (DEDUCED, log 56). -/
def acceptCheck (x : LaunchReads) (regions nreg : Nat) (compl : Bool) : Option (BitVec 9 × Bool) :=
  let c := fld x.lr 576 64
  if reservedBad x || c = 0 || c % 32 != 0 || !compl then some (Cause.badRecord, false)
  else if shapeBad x regions nreg then some (Cause.badRecord, true)
  else if gransBad x then some (Cause.badBudget, true)
  else if tooLarge x then some (Cause.badBudget, true)
  else if groupsBad x then some (Cause.badRecord, true)
  else if groupsMany x then some (Cause.groupLimit, true)
  else none

/-! ## The launch as the device keeps it -/

/-- The hull of a region (04 R67). -/
def hullOf (r : BitVec 256) : Option Hull :=
  let rows := fld r 64 32
  let n := fld r 96 32
  if rows = 0 || n = 0 then none
  else some { lo := fld r 0 64, hi := fld r 0 64 + (rows - 1) * fld r 128 64 + n, write := r.getLsbD 192 }

/-- A launch with nothing but its identity. -/
def blankLaunch (lid ctx die hwq qid res : Nat) (task : Bool) (order : Nat) : Launch :=
  { lid := lid, ctx := ctx, die := die, hwq := hwq, qid := qid, res := res, task := task, launchId := 0, job := 0, args := 0,
    compl := 0, shp := [], entry := 0, w := 0, n := 0, g := 0, spadg := 0, lpriv := 0, gang := false, twin := false,
    hasBkt := false, units := 0, teamsPer := 0, roles := [], buckets := [], groups := [], carry := [], hulls := [], next := 0,
    ustate := [], lnext := false, pred := none, accepted := order, boundAt := none, handler := none, cancelled := false, cancelDies := [], recordAsked := false,
    barriers := [], phases := [], dispatched := false, refused := none, entryVa := 0, waiting := none, onStatus := false, served := [],
    denied := [] }

/-- Fill in what the record says, with a barrier for each group (15 R273). -/
def fillLaunch (l : Launch) (x : LaunchReads) : Launch :=
  let r := x.lr
  let groups := allGroups x
  { l with
    launchId := BitVec.ofNat 32 (fld r 736 32), job := BitVec.ofNat 32 (fld r 704 32), args := BitVec.ofNat 64 (fld r 640 64),
    compl := BitVec.ofNat 64 (fld r 576 64),
    shp := (List.range 4).foldl (fun t k => Tab.set 0 t k (BitVec.ofNat 32 (shpOf r k))) [],
    entry := BitVec.ofNat 64 (fld r 0 64), w := fld r 64 16, n := 8 * fld r 80 5, g := 4 * fld r 85 6, spadg := fld r 128 9,
    lpriv := fld r 137 9, gang := lrGang r, twin := lrGang r && r.getLsbD 92, hasBkt := lrHasBkt r, units := lrUnits r,
    teamsPer := teamsPerUnit x, roles := x.roles.map roleOf, buckets := x.buckets.map bucketOf,
    groups := groups.map (fun ts => { members := ts }), carry := x.carry, hulls := x.regions.filterMap hullOf,
    barriers := (groups.zipIdx.map (fun g => (g.2,
      { cur := 0, members := g.1.length, now := { arr := 0, bytes := 0 }, next := { arr := 0, bytes := 0 }, ovf := false,
        late := 0, narr := [] }))) }

end Sys2Proof.Machine
end

