-- ==== Sys2Proof/Machine/Bind.lean ====
section
/-! DEFINITION. Bind records: which record governs an entry or a call, and the writing of one (04 R55-R58). -/

namespace Sys2Proof.Machine

/-- Bind record `i` of a die. -/
def bindOf (s : State) (die i : Nat) : BindRec := Tab.get emptyBind (s.die die).bind i

/-- Does a record of a die cover an accepted entry (R56, R57)? A handler launch has no LAUNCHID, and a task stays with the die that
owns it (R58). -/
def BindRec.covers (b : BindRec) (die : Nat) (l : Launch) : Bool :=
  b.valid && b.ctx == BitVec.ofNat 16 l.ctx &&
    (if b.matchq then l.die == die && b.hwq.toNat == l.hwq && l.carry.isEmpty
     else l.handler.isNone && b.launchId == l.launchId && (!l.task || l.die == die))

/-- The record of a die that governs an entry: MATCHQ = 0 before MATCHQ = 1, then the lower number (R56). -/
def governing (s : State) (die : Nat) (l : Launch) : Option Nat :=
  match (List.range 64).find? (fun i => !(bindOf s die i).matchq && (bindOf s die i).covers die l) with
  | some i => some i
  | none => (List.range 64).find? (fun i => (bindOf s die i).matchq && (bindOf s die i).covers die l)

/-- Is an entry bound on some die? -/
def isBound (s : State) (l : Launch) : Bool := (List.range Config.dies).any (fun d => (governing s d l).isSome)

/-- The record that governs the calls of a context in a class's receive queue (21 R347). -/
def callBind (s : State) (die ctx cls : Nat) : Option Nat :=
  (List.range 64).find? (fun i =>
    let b := bindOf s die i
    b.valid && b.matchq && b.ctx == BitVec.ofNat 16 ctx && b.hwq.toNat == 60 + cls)

/-- Does a launch with carry sets lack a record of its own while one of its queue would cover it (R57)? -/
def lacksRecord (s : State) (l : Launch) : Bool :=
  !l.carry.isEmpty && l.refused.isNone && l.handler.isNone && !isBound s l
    && (List.range 64).any (fun i => (bindOf s l.die i).matchq && (bindOf s l.die i).covers l.die { l with carry := [] })

/-- The dispatcher asks firmware for a record, once while it lacks one (R57). -/
def askRecord (s : State) (l : Launch) : State :=
  if lacksRecord s l && !l.recordAsked then
    { (s.onLaunch l.lid (fun l => { l with recordAsked := true })) with
      signals := s.signals ++ [.bindRequest l.die l.ctx l.launchId] }
  else s

/-- A launch becomes dispatchable when its entry is accepted and bound (R59) (DEDUCED, log 64). -/
def rebind (s : State) : State :=
  let s1 := { s with launches := s.launches.map (fun l =>
      if isBound s l then { l with boundAt := some (l.boundAt.getD s.clock), recordAsked := false } else { l with boundAt := none }) }
  s1.launches.foldl askRecord s1

/-- A bind record as firmware writes it; RESIDENT stays with the dispatcher (R56). -/
def bindFields (r : BitVec 256) : BindRec :=
  { pharea := BitVec.ofNat 64 (fld r 192 64), phstride := BitVec.ofNat 32 (fld r 160 32), launchId := BitVec.ofNat 32 (fld r 128 32),
    cores := BitVec.ofNat 32 (fld r 96 32), ctx := BitVec.ofNat 16 (fld r 80 16), quota := BitVec.ofNat 10 (fld r 70 10),
    hwq := BitVec.ofNat 6 (fld r 64 6), resident := 0, cls := BitVec.ofNat 2 (fld r 52 2), matchq := r.getLsbD 51,
    valid := r.getLsbD 50 }

/-- The records written in the last cycle come into force (R58). -/
def Die.takeBinds (d : Die) : Die :=
  { d with bindNext := [], bind := d.bindNext.foldl (fun t (x : Nat × BindRec) =>
      Tab.set emptyBind t x.1 { x.2 with resident := (Tab.get emptyBind t x.1).resident }) d.bind }

/-- A new cycle begins at the dispatchers (R58). -/
def takeBinds (s : State) : State :=
  if s.dieTab.all (fun d => d.2.bindNext.isEmpty) then s
  else rebind { s with dieTab := s.dieTab.map (fun d => (d.1, d.2.takeBinds)) }

/-- The record that goes with a launch of firmware's context: MATCHQ 0, CTX 0xFFFF, CORES bit 0 and QUOTA 1 (24 R384). -/
def fwBind (r : BitVec 256) : BindRec :=
  { bindFields r with ctx := BitVec.ofNat 16 Config.firmwareCtx, cores := 1, quota := 1, matchq := false, valid := true }

/-- Does a record bind hardware queue 59 of die 0, which is firmware's own, to another context (24 R384)? -/
def bindsFwQueue (die : Nat) (b : BindRec) : Bool :=
  die == 0 && b.valid && b.matchq && b.hwq == 59 && b.ctx != BitVec.ofNat 16 Config.firmwareCtx

/-- A record of a die is written, in force from the dispatcher's next cycle (R58). -/
def writeBindRec (s : State) (die i : Nat) (b : BindRec) : State :=
  s.onDie die (fun d => { d with bindNext := d.bindNext ++ [(i, b)] })

def writeBind (s : State) (die i : Nat) (r : BitVec 256) : State := writeBindRec s die i (bindFields r)

end Sys2Proof.Machine
end

