-- ==== Sys2Proof/Machine/Control.lean ====
section
/-! DEFINITION. The control instructions (06 R115-R119). -/

namespace Sys2Proof.Machine

/-- `nop` (R115). -/
def execNop (h : Hdr) (s : State) : Host.Outcome State Fault Refusal :=
  issueScalar (.nop h) h s (fun _ _ s => .fall s 1)

/-- `yield`: not ready again until another team issues or 16 cycles pass, when another team is ready (R115) (DEDUCED, log 14). -/
def execYield (h : Hdr) (s : State) : Host.Outcome State Fault Refusal :=
  issueScalar (.yield h) h s (fun sid vw s =>
    if otherReady s sid vw.t then
      .fall (s.setTeam sid { vw.t with yieldTo := some ((s.core vw.t.coreId).issues + 1, s.clock + 16) }) 1
    else .fall s 1)

/-- The condition of a control transfer (R116). -/
def View.cond (vw : View) (c : BrCond) : Bool :=
  match c with
  | .always => true
  | .any p => vw.mask &&& vw.ps p != 0
  | .all p => vw.mask &&& ~~~ vw.ps p == 0
  | .none p => vw.mask &&& vw.ps p == 0

/-- The target of a relative branch: whole instructions from the branch itself (05 R84). -/
def relTarget (pc : Word) (count : BitVec 32) : Word := pc + count.signExtend 64 * 12

/-- Transfer to a target, which must be a multiple of 4 (05 R74). -/
def transfer (s : State) (target : Word) (effect : State → State) : Done :=
  if target.extractLsb' 0 2 = 0 then .jump (effect s) target else .trap s Cause.misalignedPc target 0 false

/-- `bra` (R116). -/
def execBra (h : Hdr) (c : BrCond) (off : BitVec 32) (s : State) : Host.Outcome State Fault Refusal :=
  issueScalar (.bra h c off) h s (fun _ vw s =>
    if vw.cond c then transfer s (relTarget vw.t.pc off) id else .fall s 1)

/-- `brx` (R116). -/
def execBrx (h : Hdr) (c : BrCond) (b : SIdx) (s : State) : Host.Outcome State Fault Refusal :=
  issueScalar (.brx h c b) h s (fun _ vw s =>
    if vw.cond c then transfer s (vw.sr b.toNat) id else .fall s 1)

/-- `call`: s63 receives the address of the next instruction when the call is taken (R116). -/
def execCall (h : Hdr) (c : BrCond) (t : Target) (s : State) : Host.Outcome State Fault Refusal :=
  issueScalar (.call h c t) h s (fun sid vw s =>
    if vw.cond c then
      transfer s (match t with | .rel k => relTarget vw.t.pc k | .reg n => vw.sr n.toNat)
        (fun s => s.setTeam sid (vw.t.setS 63 (vw.t.pc + 12)))
    else noWrite s vw.t)

/-- `ret` (R116). -/
def execRet (h : Hdr) (c : BrCond) (s : State) : Host.Outcome State Fault Refusal :=
  issueScalar (.ret h c) h s (fun _ vw s =>
    if vw.cond c then transfer s (vw.sr 63) id else .fall s 1)

/-- `bdec` (R117). -/
def execBdec (h : Hdr) (d : SIdx) (off : BitVec 32) (s : State) : Host.Outcome State Fault Refusal :=
  issueScalar (.bdec h d off) h s (fun sid vw s =>
    let x := vw.sr d.toNat - 1
    let s1 := s.setTeam sid (vw.t.setS d.toNat x)
    if x = 0 then .fall s1 1 else .jump s1 (relTarget vw.t.pc off))

/-- `exit`: the team issues no more (R118). In a trap handler it ends the unit with the cause the handler was entered
with (23 R361). -/
def execExit (h : Hdr) (s : State) : Host.Outcome State Fault Refusal :=
  issueScalar (.exit h) h s (fun sid vw s =>
    if regionForbids vw.t then regionTrap s
    else if vw.t.inTrap then .gone (failUnit s vw.t vw.t.cause)
    else .fall (s.setTeam sid { vw.t with exited := true }) 1)

/-- `trap` (R119). -/
def execTrap (h : Hdr) (a : Option SIdx) (k : BitVec 5) (s : State) : Host.Outcome State Fault Refusal :=
  issueScalar (.trap h a k) h s (fun _ vw s =>
    .trap s (Cause.software k.toNat) (match a with | some n => vw.sr n.toNat | none => 0) 0 true)

/-- `brk` (R119). -/
def execBrk (h : Hdr) (n : Option (BitVec 16)) (s : State) : Host.Outcome State Fault Refusal :=
  issueScalar (.brk h n) h s (fun _ _ s => .trap s Cause.breakpoint ((n.getD 0).setWidth 64) 0 true)

end Sys2Proof.Machine
end

