-- ==== Sys2Proof/Machine/CrossLane.lean ====
section
/-! DEFINITION. The cross-lane instructions (09 R180-R191). -/

namespace Sys2Proof.Machine

/-- The identities (R181). -/
def redIdentity : XTy → ROp → Nat
  | .f32, .min => 0x7F800000
  | .f32, .max => 0xFF800000
  | .i32, .min => 0x7FFFFFFF
  | .i32, .max => 0x80000000
  | .n32, .min => 0xFFFFFFFF
  | _, .and => 0xFFFFFFFF
  | _, _ => 0

def xSigned : XTy → Bool
  | .i32 => true
  | _ => false

/-- Combine an accumulated value with a lane's value: the result, and the events counted against that lane (R181). -/
def redStep (ty : XTy) (op : ROp) (x y : Nat) : FOut :=
  match op with
  | .and => (Nat.land x y, 0)
  | .or => (Nat.lor x y, 0)
  | .xor => (Nat.xor x y, 0)
  | .add =>
    if ty == .f32 then
      let o := f32F.addV .rne (f32F.val x) (f32F.val y)
      (o.1, o.2 ||| f32F.srcEvents y)
    else ((x + y) % 2 ^ 32, 0)
  | .min =>
    if ty == .f32 then let o := f32F.minmax false x y; (o.1, o.2 ||| f32F.srcEvents y)
    else (if extT (xSigned ty) 32 x ≤ extT (xSigned ty) 32 y then x else y, 0)
  | .max =>
    if ty == .f32 then let o := f32F.minmax true x y; (o.1, o.2 ||| f32F.srcEvents y)
    else (if extT (xSigned ty) 32 x ≤ extT (xSigned ty) 32 y then y else x, 0)

/-- The first lane's value starts the accumulation; a NaN is made canonical (08 R153). -/
def redFirst (ty : XTy) (x : Nat) : FOut :=
  if ty == .f32 then
    if (f32F.val x).isNan then (f32F.nan, evNan ||| f32F.srcEvents x) else (x, f32F.srcEvents x)
  else (x, 0)

/-- Combine lanes in order: the accumulated value, and each lane's events and running value (DEDUCED, log 15). -/
def redRun (ty : XTy) (op : ROp) : Option Nat → List Nat → Option Nat × List FOut
  | acc, [] => (acc, [])
  | none, x :: r => let o := redFirst ty x; let t := redRun ty op (some o.1) r; (t.1, o :: t.2)
  | some a, x :: r =>
    let o := redStep ty op a x
    let t := redRun ty op (some o.1) r
    (t.1, o :: t.2)

/-- The values of the lanes of an enable, ascending. -/
def enabledVals (vw : View) (s : State) (en : Mask) (a : Src) : List Nat :=
  ((List.range vw.t.w).filter (fun l => en.getLsbD l)).map (fun l => vw.num s false a l)

/-- Passes of a reduction: one under a full enable with U or A sources, else one for each non-empty word (R180). -/
def redPasses (vw : View) (s : State) (en : Mask) (a : Src) : Nat :=
  passCount vw.t en ((vw.shape s a).tag != .g)

/-- A scalar result of the group: written even when the enable is empty (R180). -/
def crossScalar (sid : Nat) (vw : View) (s : State) (d : SIdx) (v : Word) (counts : List Nat) (passes : Nat) : Done :=
  .fall (oweEvents (noteSkips (s.setTeam sid (vw.t.setS d.toNat v)) vw.t passes false) sid counts) (max passes 1)

/-- `vred` (R182). -/
def execVred (h : Hdr) (ty : XTy) (op : ROp) (d : SIdx) (a : Src) (s : State) : Host.Outcome State Fault Refusal :=
  issue (.vred h ty op d a) s (fun sid vw s =>
    let en := vw.enable h
    let run := redRun ty op none (enabledVals vw s en a)
    crossScalar sid vw s d (extS (xSigned ty) false (run.1.getD (redIdentity ty op)))
      (classCounts (run.2.map Prod.snd)) (redPasses vw s en a))

/-- The best lane of `vredx`: the value and the lowest lane that holds it, NaN lanes passed over (R183). -/
def redxRun (ty : XTy) (isMax : Bool) : Option (Nat × Nat) → List (Nat × Nat) → Option (Nat × Nat)
  | best, [] => best
  | best, (l, x) :: r =>
    if ty == .f32 && (f32F.val x).isNan then redxRun ty isMax best r
    else
      let key (y : Nat) : Int := if ty == .f32 then fltKey f32F y else extT (xSigned ty) 32 y
      match best with
      | none => redxRun ty isMax (some (l, x)) r
      | some b =>
        if (if isMax then decide (key b.2 < key x) else decide (key x < key b.2)) then redxRun ty isMax (some (l, x)) r
        else redxRun ty isMax best r

/-- `vredx` (R183). Where every enabled f32 lane is a NaN, one NaN event is counted, for the lowest of them (DESIGN CHOICE, log
132). -/
def execVredx (h : Hdr) (ty : XTy) (op : ROp) (d : SIdx) (a : Src) (s : State) : Host.Outcome State Fault Refusal :=
  issue (.vredx h ty op d a) s (fun sid vw s =>
    let en := vw.enable h
    let lanes := ((List.range vw.t.w).filter (fun l => en.getLsbD l)).map (fun l => (l, vw.num s false a l))
    let v : Nat := match lanes with
      | [] => 0xFFFFFFFF * 2 ^ 32 + redIdentity ty op
      | (l0, _) :: _ =>
        match redxRun ty (op == .max) none lanes with
        | some (l, x) => l * 2 ^ 32 + x
        | none => l0 * 2 ^ 32 + 0x7FC00000
    let evs := lanes.map (fun e => if ty == .f32 then f32F.srcEvents e.2 else 0)
    let made := match lanes with
      | [] => 0
      | _ => if ty == .f32 && (redxRun ty (op == .max) none lanes).isNone then evNan else 0
    crossScalar sid vw s d (BitVec.ofNat 64 v) (classCounts (match evs with
      | [] => []
      | e :: r => (e ||| made) :: r)) (redPasses vw s en a))

/-- The values `vscan` writes, lane by lane of its enable (R184) (DEDUCED, log 15). -/
def scanRun (ty : XTy) (op : ROp) (excl : Bool) : Option Nat → List Nat → List FOut
  | _, [] => []
  | none, x :: r =>
    let o := redFirst ty x
    ((if excl then redIdentity ty op else o.1), o.2) :: scanRun ty op excl (some o.1) r
  | some a, x :: r =>
    let o := redStep ty op a x
    ((if excl then a else o.1), o.2) :: scanRun ty op excl (some o.1) r

/-- Spread results over the lanes of an enable. -/
def spread : List Nat → List FOut → List (Nat × FOut)
  | l :: ls, o :: os => (l, o) :: spread ls os
  | _, _ => []

/-- A G result of a vector instruction of the group, from the results by lane (R180). -/
def crossVector (sid : Nat) (vw : View) (s : State) (en : Mask) (d : VIdx) (tag : Tag) (single : Bool)
    (res : Nat → Lane) (counts : List Nat) : Done :=
  if en = 0 then emptyEnable s vw.t
  else
    let tag := if en == vw.t.lanes then tag else .g
    if overBudget vw.t [(d.toNat, tag)] then budgetTrap s d
    else
      let n := passCount vw.t en single
      let t1 := vw.t.setV d.toNat (newReg (vw.t.vr d.toNat) vw.t.w en tag (0, 0) res)
      .fall (oweEvents (noteSkips (s.setTeam sid t1) t1 n (single && en == vw.t.lanes)) sid counts) n

/-- `vscan` (R184). -/
def execVscan (h : Hdr) (ty : XTy) (op : ROp) (excl : Bool) (d : VIdx) (a : Src) (s : State) : Host.Outcome State Fault Refusal :=
  issue (.vscan h ty op excl d a) s (fun sid vw s =>
    let en := vw.enable h
    let outs := scanRun ty op excl none (enabledVals vw s en a)
    let byLane := spread ((List.range vw.t.w).filter (fun l => en.getLsbD l)) outs
    let get (l : Nat) : Lane := match byLane.find? (fun e => e.1 == l) with
      | some e => BitVec.ofNat 32 e.2.1
      | none => 0
    crossVector sid vw s en d .g ((vw.shape s a).tag != .g) get (classCounts (outs.map Prod.snd)))

/-- The source lane of `vshfl`, where it lies inside the team (R185). -/
def shflLane (mode : SMode) (w l b : Nat) : Option Nat :=
  match mode with
  | .idx => if b < w then some b else none
  | .up => if b ≤ l then some (l - b) else none
  | .down => if l + b < w then some (l + b) else none
  | .xor => if Nat.xor l b < w then some (Nat.xor l b) else none

/-- `vshfl` (R185). -/
def execVshfl (h : Hdr) (mode : SMode) (d : VIdx) (a : Src) (b : SrcB) (s : State) : Host.Outcome State Fault Refusal :=
  issue (.vshfl h mode d a b) s (fun sid vw s =>
    let isU := (vw.shape s a).tag == .u
    crossVector sid vw s (vw.enable h) d (if isU then .u else .g)
      ((vw.shape s a).tag != .g && (vw.shapeB s b).tag != .g)
      (fun l => vw.src s a ((shflLane mode vw.t.w l (vw.srcB s b l).toNat).getD l)) [])

/-- `vbcast`: lane k of A in every active lane, 0 when there is none (R186). -/
def execVbcast (h : Hdr) (d : VIdx) (a : VIdx) (b : SrcB) (s : State) : Host.Outcome State Fault Refusal :=
  issue (.vbcast h d a b) s (fun sid vw s =>
    let k := (vw.srcB s b 0).toNat
    let x : Lane := if k < vw.t.w then vw.lane a.toNat k else 0
    crossVector sid vw s (vw.enable h) d .u true (fun _ => x) [])

/-- A lane number from the B operand of `sgetl` and `vsetl` (R187): 32 bits, of a scalar register the lower 32 (DESIGN CHOICE, log
133). -/
def View.laneNum (vw : View) (s : State) (b : SrcB) : Nat := (vw.ssrcB s false b).toNat % 2 ^ 32

/-- `sgetl` (R187). -/
def execSgetl (h : Hdr) (d : SIdx) (a : VIdx) (b : SrcB) (s : State) : Host.Outcome State Fault Refusal :=
  issueScalar (.sgetl h d a b) h s (fun sid vw s =>
    let k := vw.laneNum s b
    scalarResult sid vw s d (if k < vw.t.w then (vw.lane a.toNat k).setWidth 64 else 0) 0)

/-- `vsetl`: one lane, and D becomes G (R188). -/
def execVsetl (h : Hdr) (d : VIdx) (a : Src) (b : SrcB) (s : State) : Host.Outcome State Fault Refusal :=
  issueScalar (.vsetl h d a b) h s (fun sid vw s =>
    let k := vw.laneNum s b
    if vw.t.w ≤ k then noWrite s vw.t
    else if overBudget vw.t [(d.toNat, .g)] then budgetTrap s d
    else Done.of s sid (vw.t.setV d.toNat (newReg (vw.t.vr d.toNat) vw.t.w (1#1024 <<< k) .g (0, 0)
      (fun _ => (vw.ssrc s a).setWidth 32))) 1)

/-- The prefix sums of `vsample`: each active lane's prefix, whether its weight is positive, and its events (R189). A prefix that
overflows counts overflow alone (DESIGN CHOICE, log 134). -/
def sampleRun : Nat → List (Nat × Nat) → List (Nat × Nat × Bool × Events)
  | _, [] => []
  | t, (l, x) :: r =>
    let v := f32F.val x
    let bad := v.isNan || v.isInf || (v.neg && !v.isZero)
    let w := if bad || v.isZero then FVal.fin false 0 0 else v
    let o := f32F.addV .rne (f32F.val t) w
    (l, o.1, !w.isZero, evIf bad evInvalid ||| (o.2 &&& evOverflow)) :: sampleRun o.1 r

/-- `vsample` (R189). -/
def execVsample (h : Hdr) (d : SIdx) (a : VIdx) (b : SrcB) (s : State) : Host.Outcome State Fault Refusal :=
  issue (.vsample h d a b) s (fun sid vw s =>
    let en := vw.enable h
    let lanes := ((List.range vw.t.w).filter (fun l => en.getLsbD l)).map (fun l => (l, vw.num s false (.v a) l))
    let run := sampleRun 0 lanes
    let total := match run.getLast? with | some e => e.2.1 | none => 0
    let r := f32F.ofInt .rne ((vw.srcB s b 0).toNat : Int)
    let scaled : FVal := match f32F.val r.1 with | .fin n m e => .fin n m (e - 32) | v => v
    let u := (f32F.mulOut .rne scaled (f32F.val total)).1
    let v : Word :=
      if total = 0 ∨ total = 0x7F800000 then BitVec.allOnes 64
      else match run.find? (fun e => f32F.order e.2.1 u == 1) with
        | some e => BitVec.ofNat 64 e.1
        | none => (match (run.filter (fun e => e.2.2.1)).getLast? with
          | some e => BitVec.ofNat 64 e.1
          | none => BitVec.allOnes 64)
    crossScalar sid vw s d v (classCounts (run.map (fun e => e.2.2.2))) (redPasses vw s en (.v a)))

/-! ## Random numbers (R190) -/

def rngConst : List Nat := [0x9E3779B9, 0x3C6EF372, 0xDAA66D2B, 0x78DDE6E4, 0x1715609D, 0xB54CDA56]
def rngRot : List Nat := [13, 17, 5, 19, 11, 7]

/-- One round. -/
def rngRound (k0 k1 : Lane) (i : Nat) (xy : Lane × Lane) : Lane × Lane :=
  let x := (xy.1 + xy.2 + BitVec.ofNat 32 (rngConst.getD i 0)).rotateLeft (rngRot.getD i 0)
  (x, xy.2 ^^^ x ^^^ (if i % 2 = 0 then k1 else k0))

/-- The function of key and counter. -/
def rngVal (key : Word) (x : Lane) : Lane :=
  let k0 := key.setWidth 32
  let k1 := key.extractLsb' 32 32
  let r := (List.range 6).foldl (fun a i => rngRound k0 k1 i a) (x, k0)
  r.1 + r.2

/-- `vrng` (R190). -/
def execVrng (h : Hdr) (d : VIdx) (a : Src) (b : SrcB) (s : State) : Host.Outcome State Fault Refusal :=
  issue (.vrng h d a b) s (fun sid vw s =>
    let key := vw.ssrc s a
    let tag := (vw.shapeB s b).tag
    crossVector sid vw s (vw.enable h) d (if tag == .u then .u else .g) (tag != .g)
      (fun l => rngVal key (vw.srcB s b l)) [])

/-! ## Tags (R191) -/

/-- `vtag.get` (R191). -/
def execVtagGet (h : Hdr) (d : SIdx) (a : VIdx) (s : State) : Host.Outcome State Fault Refusal :=
  issueScalar (.vtagGet h d a) h s (fun sid vw s =>
    scalarResult sid vw s d (BitVec.ofNat 64 (vw.t.vr a.toNat).tag.code) 0)

/-- `vtag.expand` (R191). -/
def execVtagExpand (h : Hdr) (d : VIdx) (a : VIdx) (s : State) : Host.Outcome State Fault Refusal :=
  issueScalar (.vtagExpand h d a) h s (fun sid vw s =>
    if overBudget vw.t [(d.toNat, .g)] then budgetTrap s d
    else Done.of s sid (vw.t.setV d.toNat (.g ((List.range vw.t.w).map (fun l => vw.lane a.toNat l)))) 1)

/-- The smallest shape that holds the values of all lanes (R191). -/
def compactShape (w : Nat) (f : Nat → Lane) : VReg :=
  let ls := (List.range w).map f
  let v0 := f 0
  let st := f 1 - v0
  if ls.all (· == v0) then .u v0
  else if (List.range w).all (fun l => f l == v0 + BitVec.ofNat 32 l * st) then .a v0 st
  else .g ls

/-- `vtag.compact`: the budget check assumes G (R191). -/
def execVtagCompact (h : Hdr) (d : VIdx) (a : VIdx) (s : State) : Host.Outcome State Fault Refusal :=
  issueScalar (.vtagCompact h d a) h s (fun sid vw s =>
    if overBudget vw.t [(d.toNat, .g)] then budgetTrap s d
    else Done.of s sid (vw.t.setV d.toNat (compactShape vw.t.w (fun l => vw.lane a.toNat l))) 1)

end Sys2Proof.Machine
end

