-- ==== Sys2Proof/Machine/Queue.lean ====
section
/-! DEFINITION. Virtual queues: the queue agent's acceptance of entries, pushes, pops and cancels, and their instructions
(03 R39-R44, R386; 04 R71, R72; 15 R280-R283). -/

namespace Sys2Proof.Machine

/-! ## Watches -/

def State.watch? (s : State) (ctx qid : Nat) : Option QueueWatch := s.watches.find? (fun w => w.ctx == ctx && w.qid == qid)
def State.setWatch (s : State) (w : QueueWatch) : State :=
  { s with watches := s.watches.map (fun x => if x.ctx = w.ctx ∧ x.qid = w.qid then w else x) }

def microseconds (n : Nat) : Nat := n * Config.unitsPerMicro

/-- Report a failed access of a queue or spill ring: a record of KIND 7 (R386). -/
def queueEvent (s : State) (ctx : Nat) (cause : BitVec 9) (va : Word) (launchId : BitVec 32) : State :=
  postEvent s ctx (eventRecord s.clock va launchId 0 0 cause 7 ctx)

/-- An access to a queue's structures that was not made: the host is asked for its page, or the failure is reported, once until the
access has succeeded, and tried again later (R386). -/
def queueMiss (s : State) (w : QueueWatch) (a : QAccess) (m : Missing) (write : Bool) : State :=
  match missCause w.served w.denied m with
  | none => askPage (s.setWatch { w with waiting := some (missPage m) }) (.queue w.ctx w.qid) w.ctx m.va.toNat write false (unitOf m.va.toNat)
  | some c =>
    let s1 := if w.failing.contains a then s else queueEvent s w.ctx c m.va 0
    s1.setWatch { w with failing := if w.failing.contains a then w.failing else w.failing ++ [a],
                         retryAt := some (s.rt + microseconds 100), served := [], denied := [] }

/-- An access has succeeded: the pages that were served for it are of no further account, and its next failure is reported. -/
def QueueWatch.reached (w : QueueWatch) (a : QAccess) : QueueWatch :=
  { w with failing := w.failing.erase a, served := [], denied := [] }

/-- Make the stores the device still owes a queue, in order. -/
def storeOwed (ctx : Nat) : List (Nat × Word) → State → State × List (Nat × Word) × Option Missing
  | [], s => (s, [], none)
  | (a, v) :: r, s =>
    match writeVa unitOf ctx a 8 (leBytes 8 v.toNat) s with
    | (s1, .ok ()) => storeOwed ctx r s1
    | (s1, .error m) => (s1, (a, v) :: r, some m)

/-- Pay what is owed, unless the queue waits for a page or for its next try. -/
def payOwed (s : State) (w : QueueWatch) : State :=
  if w.waiting.isSome || w.retryAt.isSome || w.owed.isEmpty then s.setWatch w
  else
    match storeOwed w.ctx w.owed s with
    | (s1, o, m) =>
      let left := o.map (fun x => QAccess.store x.1)
      let w1 := { w with owed := o, failing := w.failing.filter (fun a => match a with | .store _ => left.contains a | _ => true) }
      match m, o with
      | some m, (a, _) :: _ => queueMiss s1 w1 (.store a) m true
      | _, _ => s1.setWatch { w1 with served := [], denied := [] }

def oweStore (o : List (Nat × Word)) (a : Nat) (v : Word) : List (Nat × Word) := o.filter (fun x => x.1 != a) ++ [(a, v)]

/-- The first reservation from `n` on that has not been dispatched already. -/
def skipPassed (passed : List Nat) (n : Nat) : Nat :=
  ((List.range (passed.length + 1)).map (fun k => n + k)).find? (fun k => !passed.contains k) |>.getD n

/-- An entry of a queue leaves the hardware queue that holds it, be it one that the queue had before. -/
def leaveHwq (s : State) (ctx qid res : Nat) : State :=
  { s with dieTab := s.dieTab.map (fun (d : Nat × Die) => (d.1, { d.2 with hwq := d.2.hwq.map (fun (q : Nat × List HwEntry) =>
      (q.1, q.2.filter (fun e => !(e.ctx == ctx && e.qid == qid && e.res == res)))) })) }

/-- An entry has been dispatched: HEAD advances past it and those dispatched before, or its SEQ is overwritten (R43). -/
def entryDispatched (s : State) (ctx qid res : Nat) : State :=
  let s1 := leaveHwq s ctx qid res
  match s.watch? ctx qid with
  | none => s1
  | some w =>
    match w.head with
    | none => payOwed s1 { w with passed := w.passed ++ [res],
                                  owed := oweStore w.owed (slotVa w.ring w.rlog res) (BitVec.allOnes 64) }
    | some h =>
      if res = h then
        let h1 := skipPassed w.passed (h + 1)
        payOwed s1 { w with head := some h1, passed := w.passed.filter (fun k => decide (h1 < k)),
                            owed := oweStore w.owed (w.ring + 8) (BitVec.ofNat 64 h1) }
      else
        payOwed s1 { w with passed := w.passed ++ [res],
                            owed := oweStore w.owed (slotVa w.ring w.rlog res) (BitVec.allOnes 64) }

/-! ## Acceptance (R41, R43, R44) -/

/-- Entries in a hardware queue. -/
def hwqLen (s : State) (die hwq : Nat) : Nat := (Tab.get [] (s.die die).hwq hwq).length

/-- Is a context resident? -/
def ctxResident (s : State) (ctx : Nat) : Bool := match s.ctx? ctx with | some c => c.resident | none => false

/-- Does a launch of a queue keep it from taking a further entry? One that a check refused does until it has retired (R53), one whose
STATUS store waits for its page (R386), and, of a queue that begins again at HEAD, a cancelled one that has still to retire without
running: its entry is then past (R43) (DEDUCED, log 63). -/
def Launch.bars (l : Launch) (w : QueueWatch) : Bool :=
  l.ctx == w.ctx && l.qid == w.qid
    && (l.refused.isSome || (l.onStatus && l.waiting.isSome) || (w.head.isNone && l.cancelled && !l.dispatched))

/-- Has the queue's agent something to do? Entries are accepted once bring-up is over (24 R383), in normal service (14 R270), while the
context is resident (R43). -/
def acceptDue (s : State) (w : QueueWatch) : Bool :=
  w.waiting.isNone && w.retryAt.isNone
    && (!w.owed.isEmpty || (w.live && !w.asleep && ctxResident s w.ctx && s.bringUp == 7 && !s.ordMode
          && decide (hwqLen s w.die w.hwq < 256) && !s.launches.any (fun l => l.bars w)))

/-- Is a region matcher full (04 R68)? -/
def matcherFull (s : State) (die : Nat) : Bool := decide (1024 ≤ (s.die die).matcher.length)

/-- The launch reserved just before, where it has not retired (R48; 04 R68) (DEDUCED, log 59). -/
def predecessorOf (s : State) (ctx qid res : Nat) : Option Nat :=
  (s.launches.find? (fun l => l.ctx == ctx && l.qid == qid && l.res + 1 == res && l.refused.isNone)).map Launch.lid

/-- The watch after the reservation at hand is taken. -/
def QueueWatch.taken (w : QueueWatch) : QueueWatch :=
  { w with next := w.next + 1, reach := some (max (w.reach.getD 0) (w.next + 1)), forwarded := Tab.del w.forwarded w.next,
           served := [], denied := [] }

/-- An entry that is accepted or popped is no longer one that a task has pushed. -/
def dropSpawned (s : State) (ctx qid res : Nat) : State :=
  { s with spawned := s.spawned.filter (fun x => !(x.ctx == ctx && x.qid == qid && x.res == res)) }

/-- An entry is taken that failed a check (R53): it is dispatched as one retired without running. -/
def refuseEntry (s : State) (w : QueueWatch) (l : Launch) (cause : BitVec 9) (usable : Bool) : State :=
  let l1 := { l with refused := some (cause, usable), groups := [], barriers := [], hulls := [] }
  ((({ dropSpawned s l.ctx l.qid l.res with launches := s.launches ++ [l1] }).setWatch w.taken).nextOrder).due (.launchRetire l.lid)

/-- Is an entry cancelled as it is accepted: does its die's table hold its job (04 R71), or did a task of the job push it whose
broadcast has reached the die (04 R72) (DEDUCED, log 61)? -/
def bornCancelled (s : State) (l : Launch) : Bool :=
  (s.die l.die).cancels.contains (l.ctx, l.job)
    || s.spawned.any (fun x => x.ctx == l.ctx && x.qid == l.qid && x.res == l.res && x.job == l.job && x.dies.contains l.die)

/-- An entry is accepted; the instruction caches are emptied of its context's lines (05 R75). -/
def takeEntry (s : State) (w : QueueWatch) (l : Launch) : State :=
  let cancelled := bornCancelled s l
  let l1 := { l with pred := if l.task then none else predecessorOf s l.ctx l.qid l.res, cancelled := cancelled,
                     boundAt := if isBound s l then some s.clock else none }
  let s1 := ({ dropSpawned s l.ctx l.qid l.res with launches := s.launches ++ [l1] }.setWatch w.taken).nextOrder
  let s2 := s1.onDie w.die (fun d =>
    { d with hwq := Tab.set [] d.hwq w.hwq (Tab.get [] d.hwq w.hwq ++ [{ ctx := l.ctx, qid := l.qid, res := l.res, lid := l.lid }])
             matcher := if l.task then d.matcher ++ [l.lid] else d.matcher })
  emptyCode (askRecord (if cancelled then s2.due (.launchRetire l.lid) else s2) l1) l.ctx

/-- Why an access for an entry at hand fails, unless the host is still to be asked. No host serves firmware's own context (24 R384)
(DEDUCED, log 122). -/
def entryFail (w : QueueWatch) (m : Missing) : Option (BitVec 9) :=
  if w.ctx = Config.firmwareCtx then
    some (match m.fail with | .hard c => c | .absent p => if p then Cause.accessViolation else Cause.pageFault)
  else missCause w.served w.denied m

/-- The entry waits for a page. -/
def entryWait (s : State) (w : QueueWatch) (m : Missing) (write : Bool) : State :=
  askPage (s.setWatch { w with waiting := some (missPage m) }) (.queue w.ctx w.qid) w.ctx m.va.toNat write false (unitOf m.va.toNat)

/-- Check what was read for an entry, and take it or refuse it (R44). -/
def judgeReads (s : State) (w : QueueWatch) (l : Launch) (x : LaunchReads) (regions nreg : Nat) : State :=
  let judge (s : State) (compl : Bool) : State :=
    match acceptCheck x regions nreg compl with
    | some (c, usable) => refuseEntry s w l c usable
    | none => takeEntry s w l
  match mayWrite unitOf w.ctx (fld x.lr 576 64) 32 s with
  | (s2, .ok ()) => judge s2 true
  | (s2, .error m) =>
    if reservedBad x || fld x.lr 576 64 = 0 || fld x.lr 576 64 % 32 != 0 then judge s2 false
    else match entryFail w m with
      | none => entryWait s2 w m true
      | some _ => judge s2 false

/-- Judge a live entry: read its records, check them, and take it (R44). A launch record that was read names the launch, also where
another table cannot be read (R386) (DEDUCED, log 55). -/
def judgeEntry (s : State) (w : QueueWatch) (bs : List Byte) : State :=
  let lrec := wordAt bs 24
  let kind := leNat ((bs.drop 16).take 1)
  let regions := wordAt bs 32
  let nreg := if kind = 2 then leNat ((bs.drop 40).take 1) % 8 else 0
  let l0 := { blankLaunch s.order w.ctx w.die w.hwq w.qid w.next (kind == 2) s.order with
    entryVa := slotVa w.ring w.rlog w.next }
  let failed (s : State) (l : Launch) (m : Missing) : State :=
    match entryFail w m with
    | none => entryWait s w m false
    | some c => refuseEntry s w l c false
  if (kind != 1 && kind != 2) || lrec % 128 != 0 then refuseEntry s w l0 Cause.badRecord false
  else
    match readRecord w.ctx lrec s with
    | (s1, .error m) => failed s1 l0 m
    | (s1, .ok r) =>
      match readLaunch w.ctx r regions nreg s1 with
      | (s2, .error m) => failed s2 { l0 with launchId := BitVec.ofNat 32 (fld r 736 32) } m
      | (s2, .ok x) => judgeReads s2 w (fillLaunch l0 x) x regions nreg

/-- Where HEAD stands: read from the header when the queue becomes resident. A refill looks for entries dispatched earlier among
those accepted before, and at a queue new to the device among all that are reserved (R43) (DEDUCED, log 63). -/
def placeHead (s : State) (w : QueueWatch) : State × Except Missing QueueWatch :=
  match w.head with
  | some _ => (s, .ok w)
  | none =>
    match readHeader w.ctx w.ring s with
    | (s1, .error m) => (s1, .error m)
    | (s1, .ok (t, h)) =>
      let h1 := skipPassed w.passed h
      (s1, .ok { w.reached .header with
        head := some h1, next := h1, passed := w.passed.filter (fun k => decide (h1 < k)), reach := some (w.reach.getD t),
        owed := if h1 = h then w.owed else oweStore w.owed (w.ring + 8) (BitVec.ofNat 64 h1) })

/-- The entry at the next reservation is taken up, unless it is a task and the matcher is full (04 R68). -/
def takeUp (s : State) (w : QueueWatch) (bs : List Byte) : State :=
  if leNat ((bs.drop 16).take 1) = 2 ∧ matcherFull s w.die then s.setWatch { w with asleep := true, served := [], denied := [] }
  else judgeEntry (s.setWatch w) w bs

/-- A refill skips an entry whose SEQ is all ones: it was dispatched while an earlier one was held (R43). -/
def QueueWatch.skip (w : QueueWatch) : QueueWatch :=
  if w.head = some w.next then
    let h := skipPassed w.passed (w.next + 1)
    { w with head := some h, next := h, passed := w.passed.filter (fun k => decide (h < k)),
             owed := oweStore w.owed (w.ring + 8) (BitVec.ofNat 64 h) }
  else { w with passed := w.passed ++ [w.next], next := w.next + 1 }

/-- The queue agent reads the next entry from the ring (R41). -/
def readEntry (s : State) (w : QueueWatch) : State :=
  match readVa unitOf w.ctx (slotVa w.ring w.rlog w.next) 64 64 s with
  | (s1, .error m) => queueMiss s1 w .entry m false
  | (s1, .ok bs) =>
    let w1 := { w with failing := w.failing.erase .entry }
    if wordAt bs 0 = 2 ^ 64 - 1 ∧ w.next < w.reach.getD 0 then payOwed s1 (w1.reached .entry).skip
    else if wordAt bs 0 != (w.next + 1) % 2 ^ 64 then s1.setWatch { w1.reached .entry with asleep := true }
    else takeUp s1 w1 bs

/-- The queue agent looks at the next entry: one that a push has forwarded needs no reading of the ring (R41, R42). -/
def acceptEntry (s : State) (w : QueueWatch) : State :=
  match (if w.head.isSome then Tab.find w.forwarded (skipPassed w.passed w.next) else none) with
  | some bs => takeUp s { w with next := skipPassed w.passed w.next } bs
  | none =>
    match lookupQueue w.ctx w.qid s with
    | (s1, .error m) => queueMiss s1 w .table m false
    | (s1, .ok e) =>
      if !e.names w.qid then s1.setWatch { w.reached .table with asleep := true }
      else
        let w0 := { w with failing := w.failing.erase .table, ring := e.ring, rlog := e.rlog }
        match placeHead s1 w0 with
        | (s2, .error m) => queueMiss s2 w0 .header m false
        | (s2, .ok w1) =>
          let w2 := { w1 with next := skipPassed w1.passed w1.next }
          if w2.owed.isEmpty then readEntry s2 w2 else payOwed s2 w2

/-- ENTRY_ACCEPT (R41, R43, R44, R386). -/
def execEntryAccept (ctx qid : Nat) (s : State) : Host.Outcome State Fault Refusal :=
  match s.watch? ctx qid with
  | none => notDue "ENTRY_ACCEPT"
  | some w =>
    if !acceptDue s w then notDue "ENTRY_ACCEPT"
    else if !w.owed.isEmpty then .next (payOwed s w)
    else .next (acceptEntry s w)

/-- A queue's agent looks again (DESIGN CHOICE, log 58). -/
def QueueWatch.wake (w : QueueWatch) : QueueWatch := { w with asleep := false, retryAt := none }

/-- QUEUE_AGENT_WAKE (R41): a line the agent holds is invalidated. A wake-up may find nothing new (DESIGN CHOICE, log 58). -/
def execQueueAgentWake (ctx qid : Nat) (s : State) : Host.Outcome State Fault Refusal :=
  match s.watch? ctx qid with
  | none => notDue "QUEUE_AGENT_WAKE"
  | some w => if w.asleep || w.retryAt.isSome then .next (s.setWatch w.wake) else notDue "QUEUE_AGENT_WAKE"

/-- QUEUE_ACCESS_RETRY (R386; 21 R349): 100 µs after a failed access it is tried again. The queues come first, then the
spill rings. -/
def execQueueAccessRetry (i : Nat) (s : State) : Host.Outcome State Fault Refusal :=
  let ended (t : Option Nat) : Bool := match t with | some x => decide (x ≤ s.rt) | none => false
  match s.watches[i]? with
  | some w => if ended w.retryAt then .next (s.setWatch { w with retryAt := none }) else notDue "QUEUE_ACCESS_RETRY"
  | none =>
    match s.spills[i - s.watches.length]? with
    | some r =>
      if ended r.retryAt then .next { s with spills := s.spills.set (i - s.watches.length) { r with retryAt := none } }
      else notDue "QUEUE_ACCESS_RETRY"
    | none => notDue "QUEUE_ACCESS_RETRY"

/-! ## Cancel tables (04 R71, R72) -/

/-- Does an accepted, unretired entry of a job remain on its die? -/
def jobOn (s : State) (die ctx : Nat) (job : BitVec 32) : Bool :=
  s.launches.any (fun l => l.die == die && l.ctx == ctx && l.job == job && l.handler.isNone && l.refused.isNone)

/-- Release the cancel entries of a die that name no entry any more (R72). -/
def releaseCancels (s : State) (die : Nat) : State :=
  s.onDie die (fun d => { d with cancels := d.cancels.filter (fun c => jobOn s die c.1 c.2) })

/-- A matcher entry frees: the queues of the die look again (04 R68). -/
def freeMatcher (s : State) (die lid : Nat) : State :=
  if (s.die die).matcher.contains lid then
    let s1 := s.onDie die (fun d => { d with matcher := d.matcher.filter (· != lid) })
    { s1 with watches := s1.watches.map (fun w => if w.die = die then { w with asleep := false } else w) }
  else s

/-! ## Residency (R43) -/

/-- Undispatched entries are dropped from a hardware queue and stay in the ring (R43). -/
def dropUndispatched (s : State) (w : QueueWatch) : State :=
  let gone (l : Launch) : Bool := l.ctx == w.ctx && l.qid == w.qid && !l.dispatched && !l.cancelled && l.refused.isNone
  let out := s.launches.filter gone
  let s1 := { s with launches := s.launches.filter (fun l => !gone l),
                     ages := s.ages.filter (fun a => !out.any (fun l => l.lid == a.lid)) }
  let s2 := out.foldl (fun s l => freeMatcher s w.die l.lid) s1
  releaseCancels (s2.onDie w.die (fun d => { d with hwq := Tab.set [] d.hwq w.hwq ((Tab.get [] d.hwq w.hwq).filter
    (fun e => !out.any (fun l => l.lid == e.lid))) })) w.die

/-- The context leaves residency: what its queues hold undispatched is dropped, and the refill begins at HEAD (R43). -/
def leaveQueues (s : State) (ctx : Nat) : State :=
  (s.watches.filter (fun w => w.ctx == ctx)).foldl (fun s w =>
    (dropUndispatched s w).setWatch { w with head := none, forwarded := [] }) s

/-- A queue the device begins to watch. -/
def newWatch (ctx qid die hwq : Nat) (live : Bool) (e : QEntry) : QueueWatch :=
  { ctx := ctx, qid := qid, die := die, hwq := hwq, live := live, ring := e.ring, rlog := e.rlog, head := none, next := 0,
    reach := none, forwarded := [], passed := [], owed := [], asleep := false, waiting := none, served := [], denied := [], failing := [], retryAt := none }

/-- QUEUE_RESIDENCY_WRITE (R39, R43): firmware writes RESIDENT, DIE and HWQ of a queue's table entry; hardware queue 59 of die 0
is its own (24 R384). Where it cannot, the queue stays as it is (DEDUCED, log 63). -/
def execQueueResidencyWrite (ctx qid : Nat) (resident : Bool) (die hwq : Nat) (s : State) : Host.Outcome State Fault Refusal :=
  if Config.dies ≤ die || 60 ≤ hwq || (die == 0 && hwq == 59) then notDue "QUEUE_RESIDENCY_WRITE"
  else match s.ctx? ctx with
    | none => notDue "QUEUE_RESIDENCY_WRITE"
    | some c =>
      let va := qEntryVa c qid
      match readVa hostUnit ctx va 16 16 s with
      | (s1, .error _) => .next s1
      | (s1, .ok bs) =>
        let e : BitVec 128 := BitVec.ofNat 128 (leNat bs)
        if !(qEntryOf e).names qid then .next s1
        else
          let x := leNat (bs.take 4) % 2 ^ 21 + hwq * 2 ^ 21 + die * 2 ^ 27 + (if resident then 2 ^ 30 else 0) + 2 ^ 31
          match writeVa hostUnit ctx va 4 (leBytes 4 x) s1 with
          | (s2, .error _) => .next s2
          | (s2, .ok ()) =>
            match s2.watch? ctx qid with
            | some w =>
              let s3 := if w.live then dropUndispatched s2 w else s2
              .next (s3.setWatch { w.wake with live := resident, die := die, hwq := hwq, head := none, forwarded := [] })
            | none =>
              .next { s2 with watches := s2.watches ++ [newWatch ctx qid die hwq resident (qEntryOf e)] }

/-! ## Firmware's own launches (04 R56; 24 R384) -/

/-- The management core writes bytes of the firmware area by its own path to memory. -/
def writeFwArea (s : State) (area : List (Nat × Byte)) : State :=
  { s with mem := area.foldl (fun m c => if c.1 < Config.fwAreaBytes then memSet m (Config.fwArea + c.1) c.2 else m) s.mem
           poison := s.poison.filter (fun k => !area.any (fun c => k == (Config.fwArea + c.1) / 64)) }

/-- The management core sets the page table of firmware's context (24 R384). -/
def setFwTable (s : State) (x : FwLaunch) : State :=
  s.onCtx Config.firmwareCtx (fun c => { c with ptlDesc := x.desc, ptlRoot := x.root })

/-- The firmware area is written, and the entry of a launch of context 0xFFFF goes directly into hardware queue 59 of die 0, with no
ring (24 R384) (DEDUCED, log 122). -/
def startFirmware (s : State) (x : FwLaunch) : State :=
  let w := { newWatch Config.firmwareCtx 0 0 59 true (qEntryOf 0) with next := s.order }
  judgeEntry (writeFwArea (setFwTable s x) x.area) w (leBytes 64 x.entry.toNat)

/-- BIND_RECORD_WRITE (04 R56, R58): firmware writes a record of a die, which binds hardware queue 59 of die 0 to no other context.
With it the management core may start a launch of its own
context (24 R384). -/
def execBindRecordWrite (die i : Nat) (w : BindWrite) (s : State) : Host.Outcome State Fault Refusal :=
  if Config.dies ≤ die || 64 ≤ i then notDue "BIND_RECORD_WRITE"
  else match w.fw with
    | none => if bindsFwQueue die (bindFields w.bits) then notDue "BIND_RECORD_WRITE" else .next (writeBind s die i w.bits)
    | some x =>
      if die != 0 || s.bringUp != 7 || decide (256 ≤ hwqLen s 0 59) then notDue "BIND_RECORD_WRITE"
      else .next (startFirmware (writeBindRec s die i (fwBind w.bits)) x)

/-! ## Pushes (R42; 15 R280, R281) (DEDUCED, log 105). -/

def systemAccess (sid : Nat) (t : Team) : Access := { (deviceAccess sid t) with scope := .system }

/-- Of a push by a task: its job, and the dies that the job's cancel broadcast has reached (04 R72). -/
def pusherJob (s : State) (lid : Nat) : Option (BitVec 32) :=
  match s.launch? lid with | some l => if l.task then some l.job else none | none => none
def pusherDies (s : State) (lid : Nat) : List Nat := match s.launch? lid with | some l => l.cancelDies | none => []

/-- Release at system scope, with the wait for queued writes, then the push is on its way. -/
def sendPush (task : Bool) (d a : SIdx) (q : SI) (sid : Nat) (vw : View) (s : State) : Done :=
  let t := vw.t
  if regionForbids t then regionTrap s
  else releaseOr s (systemAccess sid t) (fun s =>
    let p : Push :=
      { sid := sid, key := t.key, ctx := t.ctx, task := task, qid := (vw.si q).toNat % 2 ^ 32, lrec := vw.sr a.toNat,
        regions := if task then vw.sr (a.toNat + 1) else 0, reg := d.toNat, tok := s.order, slot := none, stalled := false,
        job := pusherJob s t.lid, dies := pusherDies s t.lid, waiting := none, served := [], denied := [] }
    let s1 := { s with pushes := s.pushes ++ [p] }
    .fall (if d = 0 then s1.nextOrder else (addSb s1 sid (.s d.toNat) [] true).1) 1)

/-- `qpush` (15 R281). -/
def execQpush (h : Hdr) (d a : SIdx) (q : SI) (s : State) : Host.Outcome State Fault Refusal :=
  issueScalar (.qpush h d a q) h s (sendPush false d a q)

/-- `qspawn` (15 R280, R281). -/
def execQspawn (h : Hdr) (d a : SIdx) (q : SI) (s : State) : Host.Outcome State Fault Refusal :=
  issueScalar (.qspawn h d a q) h s (sendPush true d a q)

def Push.same (p q : Push) : Bool := p.key == q.key && p.tok == q.tok
def setPush (s : State) (p : Push) : State := { s with pushes := s.pushes.map (fun x => if x.same p then p else x) }

/-- The push ends: its token lands (15 R281). -/
def endPush (s : State) (p : Push) (cause : BitVec 9) (n : Nat) : State :=
  landToken { s with pushes := s.pushes.filter (fun x => !x.same p) } p.sid p.key p.tok p.reg
    (doneCause cause ||| BitVec.ofNat 64 (n % 2 ^ 32))

/-- An access of a push that was not made. -/
def pushMiss (s : State) (p : Push) (m : Missing) (write : Bool) : State :=
  match missCause p.served p.denied m with
  | none => askPage (setPush s { p with waiting := some (missPage m) }) (.push p.key p.tok) p.ctx m.va.toNat write false (unitOf m.va.toNat)
  | some c => endPush s p c (match p.slot with | some (n, _) => n | none => 0)

/-- The entry a push writes (03 R40): SEQ, STATUS 0, KIND, LREC, REGIONS, NREG. -/
def pushEntry (p : Push) (n : Nat) : List Byte :=
  leBytes 8 (n + 1) ++ leBytes 8 0 ++ leBytes 8 (if p.task then 2 else 1) ++ leBytes 8 p.lrec.toNat
    ++ leBytes 8 (p.regions.toNat / 32 * 32) ++ leBytes 24 (p.regions.toNat % 8)

/-- An entry that a task pushed is known as such until it is accepted. -/
def noteSpawned (s : State) (p : Push) (n : Nat) : State :=
  match p.task, p.job with
  | true, some j => { s with spawned := s.spawned ++ [{ ctx := p.ctx, qid := p.qid, res := n, job := j, dies := p.dies }] }
  | _, _ => s

/-- The entry of a push to a resident queue goes to the hardware queue at once, where its turn has come (R41, R42). -/
def forward (s : State) (w : QueueWatch) (n : Nat) (bs : List Byte) : State :=
  let w1 := if w.live && ctxResident s w.ctx then { w.wake with forwarded := Tab.put w.forwarded n bs } else w.wake
  let s1 := s.setWatch w1
  if acceptDue s1 w1 && w1.owed.isEmpty && w1.head.isSome && skipPassed w1.passed w1.next == n then acceptEntry s1 w1 else s1

/-- Write the reserved entry and end the push (R42) (DEDUCED, log 60). -/
def writePush (s : State) (p : Push) (n va : Nat) : State :=
  match writeVa unitOf p.ctx va 64 (pushEntry p n) s with
  | (s1, .error m) => pushMiss s1 { p with slot := some (n, va) } m true
  | (s1, .ok ()) =>
    let s2 := endPush (noteSpawned s1 p n) p 0 n
    match s2.watch? p.ctx p.qid with
    | some w => forward s2 w n (pushEntry p n)
    | none => s2

/-- Reserve an entry: TAIL and HEAD are read and TAIL is advanced in one step (R42) (DEDUCED, log 60; DESIGN CHOICE, log 115). -/
def reservePush (s : State) (p : Push) (e : QEntry) : State :=
  match readHeader p.ctx e.ring s with
  | (s1, .error m) => pushMiss s1 p m true
  | (s1, .ok (tail, head)) =>
    if 2 ^ e.rlog ≤ (tail + 2 ^ 64 - head) % 2 ^ 64 then endPush s1 p Cause.queueFull 0
    else
      match writeVa unitOf p.ctx e.ring 8 (leBytes 8 (tail + 1)) s1 with
      | (s2, .error m) => pushMiss s2 p m true
      | (s2, .ok ()) => writePush s2 { p with slot := some (tail, slotVa e.ring e.rlog tail), served := [], denied := [] }
          tail (slotVa e.ring e.rlog tail)

/-- The first push of a team that is resident or gone for good; a saved team's push waits for it (23 R365). -/
def pushOf (s : State) (sid : Nat) : Option Push :=
  s.pushes.find? (fun p => p.sid == sid && !s.ctxs.any (fun c => c.2.saved.any (fun w => w.team.key == p.key)))

/-- Has a push something to do? -/
def pushReady (s : State) (p : Push) : Bool :=
  p.waiting.isNone && !(p.stalled && (match s.watch? p.ctx p.qid with | some w => w.live && matcherFull s w.die | none => false))

/-- A push to a queue by a team, however it ends, has the queue's agent try again what failed (R386). -/
def pushWakes (s : State) (p : Push) : State :=
  { s with watches := s.watches.map (fun w => if w.ctx = p.ctx ∧ w.qid = p.qid then { w with retryAt := none } else w) }

/-- QUEUE_AGENT_PUSH (R42; 15 R280, R281): the queue agent performs the team's first push. -/
def execQueueAgentPush (sid : Nat) (s : State) : Host.Outcome State Fault Refusal :=
  match pushOf s sid with
  | none => notDue "QUEUE_AGENT_PUSH"
  | some p =>
    if !pushReady s p then notDue "QUEUE_AGENT_PUSH"
    else
      let s := pushWakes s p
      match p.slot with
      | some (n, va) => .next (writePush s p n va)
      | none =>
        if p.task && (fld p.regions 3 2 != 0 || decide (4 < fld p.regions 0 3)) then .next (endPush s p Cause.badRecord 0)
        else if 0xFFFFFFF0 ≤ p.qid ∧ p.qid ≤ 0xFFFFFFF3 then .next (endPush s p Cause.noQueue 0)
        else
          match lookupQueue p.ctx p.qid s with
          | (s1, .error m) => .next (pushMiss s1 p m false)
          | (s1, .ok e) =>
            if !e.names p.qid then .next (endPush s1 p Cause.noQueue 0)
            else if e.resident && p.task && matcherFull s1 e.die then .next (setPush s1 { p with stalled := true })
            else .next (reservePush s1 { p with stalled := false } e)

/-! ## qpop, qcancel (15 R282, R283) -/

/-- A page an instruction's own queue or deque access needs: the team parks as for any access, else the cause (11 R227). -/
def missOf (t : Team) (m : Missing) : Option (BitVec 9) :=
  match settleMiss t (if pageDenied t m.va then .bad Cause.pageFault m.va else laneOut m.fail m.va) with
  | .bad c _ => some c
  | _ => none

/-- Park the team on that page. -/
def parkOn (s : State) (sid : Nat) (t : Team) (m : Missing) (write : Bool) : Done :=
  let g : PageGroup := { fetch := false, waits := gatherWaits t write [(0, laneOut m.fail m.va)], hard := [] }
  .wait (parkGroup s sid g t.mask t.replay) .page

/-- Both registers of a pair receive interlocked results. -/
def pairResult (s : State) (sid : Nat) (d : SIdx) (x y : Word) : Done :=
  let s1 := s.onTeam sid (fun t => (t.setS d.toNat x).setS (d.toNat + 1) y)
  .fall (addSb (addSb s1 sid (.s d.toNat) [] false).1 sid (.s (d.toNat + 1)) [] false).1 1

/-- What a pop finds: the cause, or the header's VA, the entry's LREC, KIND and HEAD. -/
def popEntry (ctx qid : Nat) : Dev (Except (BitVec 9) (Nat × Nat × Nat × Nat)) :=
  Dev.bind (lookupQueue ctx qid) (fun e =>
    if !e.names qid || e.resident then Dev.pure (.error Cause.noQueue)
    else Dev.bind (readHeader ctx e.ring) (fun th =>
      Dev.bind (readVa unitOf ctx (slotVa e.ring e.rlog th.2) 64 64) (fun bs =>
        if wordAt bs 0 != (th.2 + 1) % 2 ^ 64 then Dev.pure (.error Cause.queueEmpty)
        else Dev.pure (.ok (e.ring, wordAt bs 24, leNat ((bs.drop 16).take 1), th.2)))))

/-- `qpop` (15 R282): HEAD is stored as a release at system scope, and what follows is an acquire. -/
def execQpop (h : Hdr) (d : SIdx) (q : SI) (s : State) : Host.Outcome State Fault Refusal :=
  issueScalar (.qpop h d q) h s (fun sid vw s =>
    let t := vw.t
    let qid := (vw.si q).toNat % 2 ^ 32
    let missed (s : State) (m : Missing) : Done :=
      match missOf t m with
      | some c => pairResult s sid d (doneCause c) 0
      | none => parkOn s sid t m true
    if regionForbids t then regionTrap s
    else match popEntry t.ctx qid s with
      | (s1, .error m) => missed s1 m
      | (s1, .ok (.error c)) => pairResult s1 sid d (doneCause c) 0
      | (s1, .ok (.ok (ring, x, k, n))) =>
        releaseOr s1 (systemAccess sid t) (fun s =>
          match writeVa unitOf t.ctx (ring + 8) 8 (leBytes 8 (n + 1)) s with
          | (s2, .error m) => missed s2 m
          | (s2, .ok ()) =>
            pairResult (acquireAt (dropSpawned s2 t.ctx qid n) (systemAccess sid t)) sid d
              (doneCause 0 ||| BitVec.ofNat 64 (k * 2 ^ 32 + n % 2 ^ 32)) (BitVec.ofNat 64 x)))

/-- `qcancel` (15 R283; 04 R71): the pair goes out to every die. -/
def execQcancel (h : Hdr) (j : SI) (s : State) : Host.Outcome State Fault Refusal :=
  issueScalar (.qcancel h j) h s (fun _ vw s =>
    let t := vw.t
    if regionForbids t then regionTrap s
    else if 64 ≤ (s.die t.die).cancels.length then .wait s .cancelFull
    else
      let cast (d : Nat) : Broadcast := { die := d, ctx := t.ctx, job := BitVec.ofNat 32 (vw.si j).toNat, before := s.clock + 64 }
      .fall { s with casts := s.casts ++ (List.range Config.dies).map cast } 1)

/-- The broadcast reaches a die (04 R71): its entries with no unit placed are retired, unplaced units fail and leave their groups
(15 R276), and %cancel reads 1 in the job's teams on that die; in teams elsewhere of a launch that the die owns it does where their
own die has been reached before. The table holds the pair while an entry of the job remains (R72). -/
def cancelAt (s : State) (b : Broadcast) : State :=
  let ofJob (l : Launch) : Bool := l.ctx == b.ctx && l.job == b.job && l.handler.isNone && l.refused.isNone
  let hit (l : Launch) : Bool := l.die == b.die && ofJob l
  let passed (die : Nat) : Bool := !s.casts.any (fun x => x.die == die && x.ctx == b.ctx && x.job == b.job)
  let marked (t : Team) : Bool := match s.launch? t.lid with
    | some l => ofJob l && (t.die == b.die || (hit l && passed t.die))
    | none => false
  let ended := s.launches.filter (fun l => hit l && !l.cancelled)
  let s0 := (ended.filter (fun l => l.dispatched)).foldl departUnplaced s
  let s1 := { s0 with
    launches := s0.launches.map (fun l => if ofJob l then
      { l with cancelled := l.cancelled || hit l, cancelDies := if l.cancelDies.contains b.die then l.cancelDies else l.cancelDies ++ [b.die] } else l)
    teams := s0.teams.map (fun (e : Nat × Team) => (e.1, if marked e.2 then { e.2 with cancel := true } else e.2))
    pushes := s0.pushes.map (fun p => if p.ctx = b.ctx ∧ p.job = some b.job then { p with dies := p.dies ++ [b.die] } else p)
    spawned := s0.spawned.map (fun x => if x.ctx = b.ctx ∧ x.job = b.job then { x with dies := x.dies ++ [b.die] } else x) }
  let s2 := if (s1.die b.die).cancels.contains (b.ctx, b.job) then s1
    else s1.onDie b.die (fun d => { d with cancels := d.cancels ++ [(b.ctx, b.job)] })
  releaseCancels (ended.foldl (fun s l => if l.dispatched then s else s.due (.launchRetire l.lid)) s2) b.die

/-- Does a team that is placed on a die read %cancel 1 (03 R47; 04 R71)? -/
def cancelSeen (s : State) (l : Launch) (die : Nat) : Bool :=
  l.cancelDies.contains die
    || (l.cancelled && !s.casts.any (fun x => x.die == die && x.ctx == l.ctx && x.job == l.job))

/-- May a broadcast be entered in its die's table? (DEDUCED, log 61). -/
def castFits (s : State) (b : Broadcast) : Bool :=
  decide ((s.die b.die).cancels.length < 64) || (s.die b.die).cancels.contains (b.ctx, b.job) || !jobOn s b.die b.ctx b.job

/-- CANCEL_ARRIVAL (04 R71) (DEDUCED, log 61). -/
def execCancelArrival (i : Nat) (s : State) : Host.Outcome State Fault Refusal :=
  match s.casts[i]? with
  | none => notDue "CANCEL_ARRIVAL"
  | some b => if castFits s b then .next (cancelAt { s with casts := s.casts.eraseIdx i } b) else notDue "CANCEL_ARRIVAL"

/-! ## Order between launches (15 R285; 03 R48, R49) -/

/-- `lnext` (15 R285). -/
def execLnext (h : Hdr) (s : State) : Host.Outcome State Fault Refusal :=
  issueScalar (.lnext h) h s (fun _ vw s => if regionForbids vw.t then regionTrap s else .fall (s.onLaunch vw.t.lid (fun l => { l with lnext := true })) 1)

/-- `lwait` (15 R285; 03 R49). -/
def execLwait (h : Hdr) (s : State) : Host.Outcome State Fault Refusal :=
  issueScalar (.lwait h) h s (fun sid vw s =>
    if regionForbids vw.t then regionTrap s
    else if predecessorLeft s vw.t then .fall (acquireAt s (deviceAccess sid vw.t)) 1 else .wait s .predecessor)

end Sys2Proof.Machine
end

