-- ==== Sys2Proof/Machine/Deque.lean ====
section
/-! DEFINITION. Deque objects: `dpush`, `dpop` and `dsteal` (15 R284). -/

namespace Sys2Proof.Machine

/-- A deque header. -/
structure Deque where
  bottom : Nat
  top    : Nat
  buf    : Nat
  log2   : Nat
  rest   : Nat                  -- the reserved bits

def dequeOf (bs : List Byte) : Deque :=
  let h : BitVec 512 := BitVec.ofNat 512 (leNat bs)
  { bottom := fld h 0 64, top := fld h 64 64, buf := fld h 128 64, log2 := fld h 192 6, rest := fld h 198 314 }

/-- Entries held. -/
def Deque.count (q : Deque) : Nat := (q.bottom + 2 ^ 64 - q.top) % 2 ^ 64

/-- The check of a header (R284). -/
def Deque.bad (q : Deque) : Bool :=
  q.log2 = 0 || decide (24 < q.log2) || q.rest != 0 || q.buf % 8 != 0 || decide (2 ^ q.log2 < q.count)

def Deque.entryVa (q : Deque) (i : Nat) : Nat := (q.buf + 8 * (i % 2 ^ q.log2)) % 2 ^ 64

inductive DOp where
  | push (v : Word) | pop | steal
  deriving DecidableEq, Repr

/-- What an operation does to a good header: its cause, the entry it touches, and the header it leaves (R284). -/
def Deque.act (q : Deque) (op : DOp) : BitVec 9 × Option Nat × Deque :=
  match op with
  | .push _ =>
    if q.count = 2 ^ q.log2 then (Cause.queueFull, none, q)
    else (0, some q.bottom, { q with bottom := (q.bottom + 1) % 2 ^ 64 })
  | .pop =>
    if q.count = 0 then (Cause.queueEmpty, none, q)
    else (0, some ((q.bottom + 2 ^ 64 - 1) % 2 ^ 64), { q with bottom := (q.bottom + 2 ^ 64 - 1) % 2 ^ 64 })
  | .steal =>
    if q.count = 0 then (Cause.queueEmpty, none, q)
    else (0, some q.top, { q with top := (q.top + 1) % 2 ^ 64 })

/-- How a deque operation ends: status and value, or a failed access. -/
inductive DequeOut where
  | done (status x : Word)
  | held (write : Bool) (at_ : Nat)
  | miss (m : Missing)

def Deque.status (q : Deque) (cause : BitVec 9) : Word := doneCause cause ||| BitVec.ofNat 64 (q.count % 2 ^ 32)

/-- BOTTOM and TOP are written back. -/
def putDeque (s : State) (t : Team) (va : Nat) (q : Deque) : State :=
  (writeRow (noteGlobal s t.ctx va 16) t va (leBytes 8 q.bottom ++ leBytes 8 q.top)).1

/-- Touch the entry: written by a push, read by the others. -/
def dequeEntry (s : State) (t : Team) (op : DOp) (va : Nat) : State × Except Missing Nat :=
  match vaCheck va 8 8 with
  | some m => (s, .error m)
  | none =>
    match op with
    | .push v =>
      (match writeRow (noteGlobal s t.ctx va 8) t va (leBytes 8 v.toNat) with
       | (s1, .ok ()) => (s1, .ok 0)
       | (s1, .error m) => (s1, .error m))
    | _ =>
      (match devRead s unitOf t.ctx va 8 with
       | (s1, .ok bs) => (foldAccess s1 t va 8 true false, .ok (leNat bs))
       | (s1, .error m) => (s1, .error m))

/-- The operation at the home of the header line, one step (R284) (DEDUCED, log 62). -/
def dequeAt (s : State) (t : Team) (op : DOp) (va : Nat) : State × DequeOut :=
  match sealedIn s t.ctx va 64 with
  | some v => (s, .miss { va := BitVec.ofNat 64 v, fail := .hard Cause.sealWrite })
  | none =>
    match grantRange s t.ctx va 64 with
    | (s1, .error m) => (s1, .miss m)
    | (s1, .ok ()) =>
      match devRead s1 unitOf t.ctx va 64 with
      | (s2, .error m) => (s2, .miss m)
      | (s2, .ok bs) =>
        let s3 := foldAccess s2 t va 64 true false
        let q := dequeOf bs
        if q.bad then (s3, .done (q.status Cause.badDeque) 0)
        else
          match q.act op with
          | (c, none, _) => (s3, .done (q.status c) 0)
          | (c, some i, q1) =>
            let e := q.entryVa i
            let wr := match op with | .push _ => true | _ => false
            if held s3 t e 8 wr then (s3, .held wr e)
            else match dequeEntry s3 t op e with
              | (s4, .error m) => (s4, .miss m)
              | (s4, .ok x) => (putDeque s4 t va q1, .done (q1.status c) (BitVec.ofNat 64 x))

/-- A deque instruction: the checks of an access, release, the operation, acquire (R284; 14 R265) (DEDUCED, log 62). -/
def dequeOp (op : View → DOp) (a : SIdx) (finish : Nat → Word → Word → State → Done) (sid : Nat) (vw : View) (s : State) : Done :=
  let t := vw.t
  let va := vw.sr a.toNat
  let x : Acc := { a := deviceAccess sid t, o := .strong, sp := .global, size := 64 }
  if regionForbids t then regionTrap s
  else match gate s t x true true false [(0, va)] with
    | some p => .wait s p
    | none =>
      let end_ (s : State) (o : LaneOut) : Done := settle s sid t true (some t.mask) [(0, o)] (fun s => .fall s 1)
      match laneCheck t .global 64 va with
      | some c => end_ s (.bad c va)
      | none =>
        match dequeAt (releaseAt s x.a) t (op vw) va.toNat with
        | (s1, .done st v) => finish sid st v (acquireAt s1 x.a)
        | (s1, .held w e) => .wait s1 (.held w [(e, 8)])
        | (s1, .miss m) => end_ s1 (if pageDenied t m.va then .bad Cause.pageFault m.va else laneOut m.fail m.va)

/-- `dpush` (R284); an immediate is sign-extended (05 R82). -/
def execDpush (h : Hdr) (d a : SIdx) (v : SI) (s : State) : Host.Outcome State Fault Refusal :=
  issueScalar (.dpush h d a v) h s (dequeOp
    (fun vw => .push (match v with | .s n => vw.sr n.toNat | .imm k => k.signExtend 64)) a
    (fun sid st _ s => lockedResult s sid d st))

/-- `dpop` (R284). -/
def execDpop (h : Hdr) (d a : SIdx) (s : State) : Host.Outcome State Fault Refusal :=
  issueScalar (.dpop h d a) h s (dequeOp (fun _ => .pop) a (fun sid st x s => pairResult s sid d st x))

/-- `dsteal` (R284). -/
def execDsteal (h : Hdr) (d a : SIdx) (s : State) : Host.Outcome State Fault Refusal :=
  issueScalar (.dsteal h d a) h s (dequeOp (fun _ => .steal) a (fun sid st x s => pairResult s sid d st x))

end Sys2Proof.Machine
end

