-- ==== Sys2Proof/Machine/Place.lean ====
section
/-! DEFINITION. The phase dispatcher: candidates, where they fit, which is placed, and the state a team starts with (03 R45-R49,
R51; 04 R55-R64; 21 R347, R351). -/

namespace Sys2Proof.Machine

/-! ## Room on a core (04 R61-R63) -/

/-- A team to be placed. -/
structure TeamSpec where
  team  : Nat
  entry : Word
  w     : Nat
  n     : Nat
  g     : Nat

/-- What is in use on a core. -/
structure Occ where
  used   : List Nat             -- slots
  regs   : Nat
  lanes  : Nat
  ranges : List (Nat × Nat)     -- scratchpad ranges: offset, length

def occOf (s : State) (core : Nat) : Occ :=
  let ts := s.teams.filter (fun e => e.2.coreId == core)
  let twins := s.teams.filter (fun e => e.2.twin && e.2.coreId / 2 == core / 2)
  { used := ts.map (fun e => e.2.slot), regs := ts.foldl (fun a e => a + regCharge e.2.w e.2.n e.2.g) 0,
    lanes := ts.foldl (fun a e => a + e.2.w) 0,
    ranges := (ts ++ twins).map (fun e => (e.2.spadOff, e.2.spadLen)) ++ ts.map (fun e => (e.2.privOff, e.2.privLen * e.2.w)) }

def rangeFree (rs : List (Nat × Nat)) (off len : Nat) : Bool :=
  rs.all (fun r => r.2 = 0 || decide (off + len ≤ r.1) || decide (r.1 + r.2 ≤ off))

/-- First fit from offset 0 upward at 4 KiB. -/
def fitUp (rs : List (Nat × Nat)) (len : Nat) : Option Nat :=
  if len = 0 then some 0
  else ((List.range 384).map (fun k => 4096 * k)).find? (fun o => decide (o + len ≤ Config.spadBytes) && rangeFree rs o len)

/-- First fit from the top downward at 512 bytes. -/
def fitDown (rs : List (Nat × Nat)) (len : Nat) : Option Nat :=
  if len = 0 then some 0
  else if Config.spadBytes < len then none
  else ((List.range ((Config.spadBytes - len) / 512 + 1)).map (fun k => (Config.spadBytes - len) / 512 * 512 - 512 * k)).find?
    (fun o => rangeFree rs o len)

/-- Where a team goes. -/
structure Seat where
  spec    : TeamSpec
  core    : Nat
  slot    : Nat
  spadOff : Nat
  privOff : Nat

/-- Seat one team on a core whose SPADG range is chosen. -/
def seatTeam (o : Occ) (core spadOff privPer : Nat) (x : TeamSpec) : Option (Occ × Seat) :=
  match (List.range Config.slotsPerCore).find? (fun k => !o.used.contains k), fitDown o.ranges (privPer * x.w) with
  | some slot, some off =>
    if o.regs + regCharge x.w x.n x.g ≤ Config.regBytes then
      some ({ used := slot :: o.used, regs := o.regs + regCharge x.w x.n x.g, lanes := o.lanes + x.w,
              ranges := (off, privPer * x.w) :: o.ranges },
            { spec := x, core := core, slot := slot, spadOff := spadOff, privOff := off })
    else none
  | _, _ => none

/-- Seat all teams of a list on one core. -/
def seatAll (core spadOff privPer : Nat) : List TeamSpec → Occ → List Seat → Option (List Seat)
  | [], _, acc => some acc
  | x :: r, o, acc =>
    match seatTeam o core spadOff privPer x with
    | some (o1, k) => seatAll core spadOff privPer r o1 (acc ++ [k])
    | none => none

/-- A team, or a core gang as one team, on a core (R61, R63). -/
def seatOnCore (s : State) (core spadLen privPer : Nat) (xs : List TeamSpec) : Option (List Seat) :=
  let o := occOf s core
  match fitUp o.ranges spadLen with
  | none => none
  | some off => seatAll core off privPer xs { o with ranges := (off, spadLen) :: o.ranges } []

/-- A twin gang's teams in ascending number: the even core first (R63). -/
def seatTwinGo (c spadOff privPer : Nat) : List TeamSpec → Occ → Occ → List Seat → Option (List Seat)
  | [], _, _, acc => some acc
  | x :: r, e, o, acc =>
    match seatTeam e c spadOff privPer x with
    | some (e1, k) => seatTwinGo c spadOff privPer r e1 o (acc ++ [k])
    | none =>
      match seatTeam o (c + 1) spadOff privPer x with
      | some (o1, k) => seatTwinGo c spadOff privPer r e o1 (acc ++ [k])
      | none => none

/-- The scratchpad range of a twin gang takes the same place on both cores; a new team counts as the least recently issued of
its core (DEDUCED, log 65). -/
def seatOnTwin (s : State) (c spadLen privPer : Nat) (xs : List TeamSpec) : Option (List Seat) :=
  let e := occOf s c
  let o := occOf s (c + 1)
  match fitUp (e.ranges ++ o.ranges) spadLen with
  | none => none
  | some off =>
    seatTwinGo c off privPer xs { e with ranges := (off, spadLen) :: e.ranges } { o with ranges := (off, spadLen) :: o.ranges } []

/-- The least loaded of the places that hold the teams; ties go to the first. -/
def leastLoaded : List (Nat × List Seat) → Option (List Seat)
  | [] => none
  | (n, x) :: r => some ((r.foldl (fun (a : Nat × List Seat) b => if b.1 < a.1 then b else a) (n, x)).2)

/-- Where a die places a list of teams under a CORES mask (R61, R63). -/
def planSeats (s : State) (die : Nat) (cores : BitVec 32) (twin : Bool) (spadLen privPer : Nat) (xs : List TeamSpec) :
    Option (List Seat) :=
  if twin then
    leastLoaded ((List.range 16).filterMap (fun k =>
      let c := die * 32 + 2 * k
      if cores.getLsbD (2 * k) && cores.getLsbD (2 * k + 1) then
        (seatOnTwin s c spadLen privPer xs).map (fun x => ((occOf s c).lanes + (occOf s (c + 1)).lanes, x))
      else none))
  else
    leastLoaded ((List.range 32).filterMap (fun k =>
      let c := die * 32 + k
      if cores.getLsbD k then (seatOnCore s c spadLen privPer xs).map (fun x => ((occOf s c).lanes, x)) else none))

/-! ## Units -/

def Launch.shpOf (l : Launch) (k : Nat) : Nat := (Tab.get (0 : BitVec 32) l.shp k).toNat

/-- Entry and width of a free team (03 R46). -/
def freeShape (l : Launch) : Word × Nat :=
  match l.buckets.find? (fun b => bucketMatch b.ranges l.shpOf) with
  | some b => (b.entry, b.w)
  | none => (l.entry, l.w)

/-- The teams of a unit (03 R45, R46). A gang's team takes entry and width from its role, also where the record has buckets (DESIGN
CHOICE, log 114). -/
def unitSpecs (l : Launch) (u : Nat) : List TeamSpec :=
  if l.gang then
    (l.roles.flatMap (fun r => List.replicate r.count r)).zipIdx.map (fun r =>
      { team := u * l.teamsPer + r.2, entry := r.1.entry, w := r.1.w, n := r.1.n, g := r.1.g })
  else [{ team := u, entry := (freeShape l).1, w := (freeShape l).2, n := l.n, g := l.g }]

/-- A unit's state: units not yet placed of a cancelled launch have failed (04 R71). -/
def unitState (l : Launch) (u : Nat) : UnitState :=
  match Tab.find l.ustate u with
  | some x => x
  | none => if l.cancelled then .failed Cause.cancelled else .waiting

/-! ## Candidates (R59) -/

inductive CandKind where
  | unit (lid : Nat)
  | phase (lid : Nat) (q : QPhase)
  | call (cls : Nat) (e : GyEntry)

structure Cand where
  kind  : CandKind
  bind  : Nat
  cls   : Nat                   -- CLASS of the governing record
  since : Nat                   -- when it became dispatchable
  hwq   : Nat
  team  : Nat
  ctx   : Nat
  specs : List TeamSpec
  spad  : Nat
  priv  : Nat
  twin  : Bool

/-- Do hulls hold two tasks apart (R67)? -/
def hullsMeet (a b : List Hull) : Bool :=
  a.any (fun x => b.any (fun y => (x.write || y.write) && decide (x.lo < y.hi) && decide (y.lo < x.hi)))

/-- May a launch or task be dispatched (03 R43, R48; 04 R67)? (DEDUCED, log 59). -/
def dispatchable (s : State) (l : Launch) : Bool :=
  if l.task then
    !s.launches.any (fun x => x.task && x.ctx == l.ctx && x.qid == l.qid && decide (x.accepted < l.accepted) && x.refused.isNone
      && hullsMeet x.hulls l.hulls)
  else
    !s.launches.any (fun x => !x.task && x.ctx == l.ctx && x.qid == l.qid && decide (x.accepted < l.accepted) && !x.dispatched
        && x.refused.isNone && !x.cancelled && x.handler.isNone)
      && (match l.pred.bind s.launch? with
          | none => true
          | some p => p.lnext && (p.cancelled || decide (p.units ≤ p.next)))

def unitCand (s : State) (die : Nat) (l : Launch) : Option Cand :=
  if l.cancelled || l.refused.isSome || l.handler.isSome || decide (l.units ≤ l.next) || !dispatchable s l then none
  else match governing s die l with
    | none => none
    | some i =>
      let xs := unitSpecs l l.next
      some { kind := .unit l.lid, bind := i, cls := (bindOf s die i).cls.toNat, since := l.boundAt.getD s.clock, hwq := l.hwq,
             team := (xs.map TeamSpec.team).headD (l.next * l.teamsPer), ctx := l.ctx, specs := xs, spad := l.spadg * 4096,
             priv := l.lpriv * 16, twin := l.twin }

def phaseCands (s : State) (die : Nat) (l : Launch) : List Cand :=
  match governing s die l with
  | none => []
  | some i => (l.phases.filter (fun q => !s.teams.any (fun e => e.2.lid == l.lid && e.2.team == q.team))).filterMap (fun q => q.ready.map (fun at_ =>
      { kind := .phase l.lid q, bind := i, cls := (bindOf s die i).cls.toNat, since := at_, hwq := l.hwq, team := q.team, ctx := l.ctx,
        specs := unitSpecs l q.team, spad := l.spadg * 4096, priv := l.lpriv * 16, twin := false }))

/-- Fields of a handler entry (02 R38). -/
def heEntry (e : BitVec 512) : Word := e.extractLsb' 0 64
def heSpec (e : BitVec 512) : TeamSpec := { team := 0, entry := heEntry e, w := fld e 64 16, n := 8 * fld e 80 5, g := 4 * fld e 85 6 }

/-- The oldest call of each context in a class queue (21 R347) (DEDUCED, log 67). -/
def headCalls (s : State) (die cls : Nat) : List GyEntry :=
  let q := Tab.get [] (s.die die).gyq cls
  q.filter (fun e => match q.find? (fun x => x.ctx == e.ctx) with | some x => x == e | none => false)

/-- Calls of one class and context are candidates oldest first; the handler entry read when a call was judged is the one used
at its placement (DEDUCED, log 67). -/
def callCands (s : State) (die : Nat) : List Cand :=
  (List.range 4).flatMap (fun cls => (headCalls s die cls).filterMap (fun e =>
    (callBind s die e.ctx cls).map (fun i =>
      { kind := .call cls e, bind := i, cls := (bindOf s die i).cls.toNat, since := e.since, hwq := 60 + cls, team := 0, ctx := e.ctx,
        specs := [heSpec e.entry], spad := fld e.entry 128 9 * 4096, priv := fld e.entry 137 9 * 16, twin := false })))

/-- Where a candidate would go now, if it is eligible. -/
def Cand.plan (s : State) (die : Nat) (c : Cand) : Option (List Seat) :=
  let b := bindOf s die c.bind
  if min b.quota.toNat 512 < b.resident + c.specs.length then none
  else planSeats s die b.cores c.twin c.spad c.priv c.specs

/-- Eligible candidates of a die, each with its seats. A call gives way to an eligible call of a lower class of its context
(21 R347). -/
def eligible (s : State) (die : Nat) : List (Cand × List Seat) :=
  let all := s.launches.flatMap (fun l => (unitCand s die l).toList ++ phaseCands s die l) ++ callCands s die
  let ok := all.filterMap (fun c => (c.plan s die).map (fun p => (c, p)))
  ok.filter (fun c => match c.1.kind with
    | .call cls e => !ok.any (fun x => match x.1.kind with | .call k f => decide (k < cls) && f.ctx == e.ctx | _ => false)
    | _ => true)

/-- What names a candidate among the ages of a die: launch, lowest team, and whether it is a queued phase. The next team of a launch is
a candidate of its own (R59). -/
def Cand.ageKey (c : Cand) : Nat × Nat × Bool :=
  match c.kind with
  | .unit lid => (lid, c.team, false)
  | .phase lid q => (lid, q.team, true)
  | .call cls e => (e.call.sref * 64 + e.call.slot.toNat * 4 + cls, 2 ^ 32, false)

/-- The age record of a candidate. -/
def ageRec (s : State) (die : Nat) (c : Cand) : Option AgeRec :=
  s.ages.find? (fun a => a.die == die && (a.lid, a.team, a.phase) == c.ageKey)

/-- The ages of a die's candidates: a candidate that was not eligible begins now (R59, R60). -/
def agesOf (s : State) (die : Nat) : List AgeRec :=
  (eligible s die).map (fun c =>
    (ageRec s die c.1).getD
      { die := die, lid := c.1.ageKey.1, team := c.1.ageKey.2.1, phase := c.1.ageKey.2.2, since := s.clock })

/-- Bring the ages up to date: once in every cycle. -/
def refreshAges (s : State) : State :=
  if s.launches.isEmpty && s.dieTab.all (fun d => d.2.gyq.isEmpty) then { s with ages := [] }
  else { s with ages := (List.range Config.dies).flatMap (agesOf s) }

def ageOf (s : State) (die : Nat) (c : Cand) : Nat :=
  match ageRec s die c with
  | some a => s.clock - a.since
  | none => 0

/-- Does `a` go before `b` by step 3 of R59? -/
def Cand.lower (a b : Cand) : Bool := decide (a.hwq < b.hwq) || (a.hwq == b.hwq && decide (a.team < b.team))

/-- Does `a` go before `b` by steps 2 and 3 of R59? -/
def Cand.before (a b : Cand) : Bool := decide (a.since < b.since) || (a.since == b.since && a.lower b)

/-- The first by an order. -/
def firstBy (lt : Cand → Cand → Bool) : List (Cand × List Seat) → Option (Cand × List Seat)
  | [] => none
  | x :: r => some (r.foldl (fun (a : Cand × List Seat) b => if lt b.1 a.1 then b else a) x)

/-- The candidate R59 selects. -/
def regularPick (s : State) (die : Nat) : Option (Cand × List Seat) :=
  firstBy (fun a b => decide (a.cls < b.cls) || (a.cls == b.cls && a.before b)) (eligible s die)

/-- The starved candidate that the 64th placement goes to: the oldest, then the higher class, then as in step 3 of R59 (R60). -/
def starvedPick (s : State) (die : Nat) : Option (Cand × List Seat) :=
  if (s.die die).placeCount != 62 then none
  else match regularPick s die with
    | none => none
    | some r =>
      firstBy (fun a b => decide (ageOf s die b < ageOf s die a) || (ageOf s die a == ageOf s die b &&
          (decide (a.cls < b.cls) || (a.cls == b.cls && a.lower b))))
        ((eligible s die).filter (fun c => decide (r.1.cls < c.1.cls) && decide (16384 < ageOf s die c.1)))

/-! ## Starting a team (03 R47, R51) -/

/-- A team with nothing in its registers. -/
def blankTeam (key die core slot : Nat) (x : TeamSpec) : Team :=
  { key := key, die := die, core := core, slot := slot, ctx := 0, lid := 0, team := x.team, unit := 0, bind := 0, w := x.w, n := x.n,
    g := x.g, pc := x.entry, s := [], v := [], p := [], mask := lanesBelow x.w, phase := 0, cancel := false, shp := [], cause := 0,
    tpc := 0, tval := 0, fmask := 0, inTrap := false, sbchk := false, keep := [], exc := Exc.reset, nmSigw := 3, nmGrain := 2,
    nmEsc := 2, gang := false, twin := false, spadOff := 0, spadLen := 0, privOff := 0, privLen := 0, readyAt := 0, issued := 0,
    yieldTo := none, fixed := [], sb := [], misses := [], more := none, mem := none, kept := none, keptOut := none, owed := [], doneAt := 0, park := .run, pend := [], replay := none, pf := none, fetched := none, rejects := 0,
    aged := false, exited := false, failed := none, failVal := 0, window := none, region := none, attempts := 0, handler := none, callToks := 0,
    acqToks := 0, slots := [], mwaitHit := false, mwaitKept := false, recordVa := none, pended := none, fenced := 0 }

/-- The lanes active at the start (03 R46). -/
def startMask (l : Launch) (x : TeamSpec) : Mask :=
  let n := l.shpOf 0
  if !l.hasBkt || decide (l.units * x.w ≤ n) then lanesBelow x.w
  else lanesBelow (min x.w (n - x.team * x.w))

/-- A seated team of a launch, under a bind record of a die. -/
def seatedTeam (s : State) (die : Nat) (l : Launch) (unit bind spad priv : Nat) (k : Seat) : Team :=
  { (blankTeam s.order die (k.core % 32) k.slot k.spec) with
    ctx := l.ctx, lid := l.lid, unit := unit, bind := bind, cancel := cancelSeen s l die, shp := l.shp, gang := l.gang, twin := l.twin,
    spadOff := k.spadOff, spadLen := spad, privOff := k.privOff, privLen := priv, readyAt := s.clock }

/-- The state a free team or gang team starts with (03 R47). -/
def freshTeam (l : Launch) (t : Team) (x : TeamSpec) : Team :=
  ((t.setS 1 l.args).setS 2 (l.launchId.setWidth 64)).setMask (startMask l x)

/-- The sender information of a call (21 R351). -/
def senderInfo (c : Call) (spilled : Bool) : Word :=
  (c.steam.setWidth 64 <<< 36) ||| (c.slot.setWidth 64 <<< 32) ||| (c.sctx.setWidth 64 <<< 16) ||| (boolWord spilled <<< 15)
    ||| (boolWord c.reply <<< 14) ||| (c.cls.setWidth 64 <<< 12) ||| c.sdev.setWidth 64

/-- The state a handler team starts with (03 R51). -/
def handlerTeam (t : Team) (h : HandlerInfo) : Team :=
  ((List.range 7).foldl (fun (t : Team) i => t.setS (i + 1) (h.call.args.getD i 0)) { t with handler := some h }).setS 8
    (senderInfo h.call h.spilled)

/-- What the team's scratchpad range and lane-private bytes hold is unpredictable until written (04 R62; 10 R194). -/
def forgetScratch (s : State) (t : Team) : State :=
  let cores := if t.twin then [t.coreId / 2 * 2, t.coreId / 2 * 2 + 1] else [t.coreId]
  (spadForget (cores.foldl (fun s c => spadForget s c t.spadOff t.spadLen) s) t.coreId t.privOff (t.privLen * t.w)).tick1

/-- Put a team in its slot; the start is an acquire (14 R272) (DEDUCED, log 106). -/
def putTeam (s : State) (t : Team) : State :=
  (invalidateClean ((forgetScratch s t).setTeam t.sid t) t.coreId t.ctx).nextOrder

/-- RESIDENT of a bind record moves by a count. -/
def addResident (s : State) (die bind : Nat) (n : Int) : State :=
  s.onDie die (fun d =>
    let b := Tab.get emptyBind d.bind bind
    { d with bind := Tab.set emptyBind d.bind bind { b with resident := (b.resident + n).toNat } })

/-- The first placement of an entry dispatches it (03 R43). -/
def noteDispatched (s : State) (l : Launch) : State :=
  if l.dispatched then s
  else entryDispatched (s.onLaunch l.lid (fun l => { l with dispatched := true })) l.ctx l.qid l.res

/-- Place the lowest unit of a launch. -/
def placeUnit (s : State) (die : Nat) (c : Cand) (seats : List Seat) (l : Launch) : State :=
  let s1 := seats.foldl (fun s k => putTeam s (freshTeam l (seatedTeam s die l l.next c.bind c.spad c.priv k) k.spec)) s
  let u := if seats.isEmpty then UnitState.done else .running seats.length
  let s2 := noteDispatched (s1.onLaunch l.lid (fun l => { l with next := l.next + 1, ustate := Tab.put l.ustate l.next u })) l
  if seats.isEmpty && decide (l.units ≤ l.next + 1) then s2.due (.launchRetire l.lid) else s2

/-- Place a queued phase: the team waits for its record (04 R387). It is the team that pended, with the call slots it holds (21 R343,
R356); the trap state its record does not hold is that of a new team (DESIGN CHOICE, log 116). -/
def placePhase (s : State) (die : Nat) (c : Cand) (seats : List Seat) (l : Launch) (q : QPhase) : State :=
  let s1 := seats.foldl (fun s k => putTeam s
    { (seatedTeam s die l q.team c.bind c.spad c.priv k) with
      key := q.key, slots := q.slots, park := .record, recordVa := some q.va,
      pend := if q.ovf then [{ cause := Cause.barrierOverflow, tval := BitVec.ofNat 64 (q.group * 65536 + q.phase.toNat), engine := true }] else [] }) s
  s1.onLaunch l.lid (fun l => { l with phases := l.phases.filter (fun x => x.team != q.team) })

/-- The launch of a call (03 R51). -/
def callLaunch (s : State) (die cls : Nat) (e : GyEntry) : Launch :=
  let x := heSpec e.entry
  let h : HandlerInfo := { call := e.call, spilled := e.spilled, cls := BitVec.ofNat 2 cls, nocall := e.entry.getLsbD 91, replied := false }
  let b : Barrier := { cur := 0, members := 1, now := { arr := 0, bytes := 0 }, next := { arr := 0, bytes := 0 }, ovf := false, late := 0, narr := [] }
  { (blankLaunch s.order e.ctx die (60 + cls) (0xFFFFFFF0 + cls) 0 false s.order) with
    entry := x.entry, w := x.w, n := x.n, g := x.g, spadg := fld e.entry 128 9, lpriv := fld e.entry 137 9, units := 1, teamsPer := 1,
    groups := [{ members := [0] }], barriers := [(0, b)], next := 1, ustate := [(0, .running 1)], handler := some h, dispatched := true }

/-- Place a call: its handler team starts. -/
def placeCall (s : State) (die : Nat) (c : Cand) (seats : List Seat) (cls : Nat) (e : GyEntry) : State :=
  let l := callLaunch s die cls e
  let s1 := ({ s with launches := s.launches ++ [l] }.onDie die (fun d =>
    { d with gyq := Tab.set [] d.gyq cls ((Tab.get [] d.gyq cls).erase e) })).nextOrder
  match l.handler with
  | some h => seats.foldl (fun s k => putTeam s (handlerTeam (seatedTeam s die l 0 c.bind c.spad c.priv k) h)) s1
  | none => s1

/-- Make one placement. -/
def placeCand (s : State) (die : Nat) (c : Cand) (seats : List Seat) (starved : Bool) : State :=
  let s1 := addResident (s.onDie die (fun d => { d with placeCount := (d.placeCount + 1) % 64, placedAt := some s.clock }))
    die c.bind c.specs.length
  let s2 := match c.kind with
    | .unit lid => (match s1.launch? lid with | some l => placeUnit s1 die c seats l | none => s1)
    | .phase lid q => (match s1.launch? lid with | some l => placePhase s1 die c seats l q | none => s1)
    | .call cls e => placeCall s1 die c seats cls e
  let s3 := pmcCount s2 (.die die) 35 c.ctx 1
  if starved then pmcCount s3 (.die die) 36 c.ctx 1 else s3

/-- May a die place something in this cycle (R59; 24 R385)? -/
def mayPlace (s : State) (die : Nat) : Bool := decide (die < Config.dies) && !s.hot && (s.die die).placedAt != some s.clock

/-- DISPATCH_PLACEMENT (R59). -/
def execDispatchPlacement (die : Nat) (s : State) : Host.Outcome State Fault Refusal :=
  if !mayPlace s die || (starvedPick s die).isSome then notDue "DISPATCH_PLACEMENT"
  else match regularPick s die with
    | none => notDue "DISPATCH_PLACEMENT"
    | some (c, seats) => .next (placeCand s die c seats false)

/-- STARVATION_PLACEMENT (R60). -/
def execStarvationPlacement (die : Nat) (s : State) : Host.Outcome State Fault Refusal :=
  if !mayPlace s die then notDue "STARVATION_PLACEMENT"
  else match starvedPick s die with
    | none => notDue "STARVATION_PLACEMENT"
    | some (c, seats) => .next (placeCand s die c seats true)

end Sys2Proof.Machine
end

