-- ==== Sys2Proof/Machine/Geyser.lean ====
section
/-! DEFINITION. The Fjaram link and geyser calls (21 R337-R355; 11 R237). -/

namespace Sys2Proof.Machine

/-! ## Ports and flits (R337-R339) -/

/-- Put a flit in the replay buffer. -/
def Port.place (p : Port) (f : FlitLoad) : Port := { p with replay := p.replay ++ [(p.nextSeq, f)], nextSeq := p.nextSeq + 1 }

/-- Place waiting flits while the replay buffer of 64 has room: first those of the reply channel, which waits for no call (R350). -/
def fillPort : Nat → Port → Port
  | 0, p => p
  | k + 1, p =>
    if !p.open || decide (64 ≤ p.replay.length) then p
    else match p.replies, p.waiting with
      | f :: r, _ => fillPort k ({ p with replies := r }.place f)
      | [], f :: r => fillPort k ({ p with waiting := r }.place f)
      | [], [] => p
def Port.fill (p : Port) : Port := fillPort (p.replies.length + p.waiting.length) p

/-- Send a call over a port. -/
def sendFlit (s : State) (n : Nat) (f : FlitLoad) : State := s.onPort n (fun p => { p with waiting := p.waiting ++ [f] }.fill)

/-- Send a message to a device on the reply channel of a port; while no route is up, it is kept (R350, R354). -/
def sendBack (s : State) (dev : BitVec 12) (f : FlitLoad) : State :=
  match routeTo s dev with
  | some n => (takeRoute s dev).onPort n (fun p => { p with replies := p.replies ++ [f] }.fill)
  | none => { s with unsent := s.unsent ++ [(dev.toNat, f)] }

/-- Change every call slot: of resident teams, of queued phases, of saved teams. -/
def mapSlots (s : State) (f : CallSlot → CallSlot) : State :=
  let g (x : Tab CallSlot) : Tab CallSlot := x.map (fun (e : Nat × CallSlot) => (e.1, f e.2))
  { s with
    teams := s.teams.map (fun (e : Nat × Team) => (e.1, { e.2 with slots := g e.2.slots }))
    launches := s.launches.map (fun l => { l with phases := l.phases.map (fun q => { q with slots := g q.slots }) })
    ctxs := s.ctxs.map (fun (c : Nat × Ctx) => (c.1, { c.2 with saved := c.2.saved.map (fun w =>
      { w with team := { w.team with slots := g w.team.slots } }) })) }

/-- When a device's last route went down (R354). -/
def noteRoutes (s : State) : State :=
  mapSlots s (fun x =>
    if x.dev == s.devId then x
    else if (portsTo s x.dev).isEmpty then { x with lostAt := some (x.lostAt.getD s.rt) } else { x with lostAt := none })

/-- What a flit tells of its sender's memory and export table holds from now on (11 R237) (DESIGN CHOICE, log 71). -/
def takeNews (s : State) (dev : BitVec 12) (news : PeerNews) : State :=
  { s with peers := s.peers.map (fun p => if p.dev = dev then
      { p with mem := news.mem.foldl (fun m c => memSet m c.1 c.2) p.mem, table := news.table.getD p.table } else p) }

/-- FLIT_RECEIVE (R337, R338): a flit arrives. The one expected is acknowledged, and what it carries holds; after a CRC failure the
port asks for it and all later ones again, and drops those that come meanwhile. A failure is counted to its lane, and ends a repair
that drains (DESIGN CHOICE, log 71 and 101). -/
def execFlitReceive (port lane : Nat) (f : FlitIn) (s : State) : Host.Outcome State Fault Refusal :=
  let p := s.port port
  if !p.up || 2 ≤ lane || decide (2 ^ 20 ≤ p.rxCount) then .fault (.eventNotDue "FLIT_RECEIVE")
  else
    let p1 := { p with rxCount := p.rxCount + 1 }
    if !f.crcOk then
      .next (s.setPort port { p1 with
        crc := Tab.set 0 p.crc lane (Tab.get 0 p.crc lane + 1), answers := p.answers ++ [.replay p.rxNext]
        repair := match p.repair with | .draining _ => .retraining (s.rt + microseconds 100) | r => r })
    else if f.seq = p.rxNext then
      .next (takeNews (s.setPort port { p1 with rxNext := f.seq + 1, answers := p.answers ++ [.ack f.seq] }) p.partner f.news)
    else .next (s.setPort port p1)

/-- FLIT_ACK_RECEIVE (R337): the oldest flit of the replay buffer is acknowledged. -/
def execFlitAckReceive (port : Nat) (s : State) : Host.Outcome State Fault Refusal :=
  let p := s.port port
  match p.replay with
  | [] => .fault (.eventNotDue "FLIT_ACK_RECEIVE")
  | _ :: r =>
    if p.up then .next (s.setPort port { p with replay := r, acked := p.acked + 1 }.fill)
    else .fault (.eventNotDue "FLIT_ACK_RECEIVE")

/-- FLIT_REPLAY_REQUEST (R337): the failed flit and every later one are sent again, in their first order. -/
def execFlitReplayRequest (port seq : Nat) (s : State) : Host.Outcome State Fault Refusal :=
  let p := s.port port
  if p.up && p.replay.any (fun f => f.1 == seq) then
    .next (s.setPort port { p with nacked := p.nacked + 1, resends := p.resends + (p.replay.filter (fun f => decide (seq ≤ f.1))).length })
  else .fault (.eventNotDue "FLIT_REPLAY_REQUEST")

/-- CRC_WINDOW_CLOSE (R338): after 2^20 flits the counts start again (DESIGN CHOICE, log 101). -/
def execCrcWindowClose (port : Nat) (s : State) : Host.Outcome State Fault Refusal :=
  let p := s.port port
  if 2 ^ 20 ≤ p.rxCount then .next (s.setPort port { p with rxCount := 0, crc := [] }) else .fault (.eventNotDue "CRC_WINDOW_CLOSE")

/-- LANE_REPAIR_START (R338, step 1): 16 failures of one lane in a window. -/
def execLaneRepairStart (port lane : Nat) (s : State) : Host.Outcome State Fault Refusal :=
  let p := s.port port
  if p.open && p.lanes == 2 && decide (lane < 2) && decide (16 ≤ Tab.get 0 p.crc lane) then
    .next (s.setPort port { p with repair := .draining lane })
  else .fault (.eventNotDue "LANE_REPAIR_START")

/-- LANE_REPAIR_DRAIN_DONE (R338, step 3): the port goes on over the good lane. -/
def execLaneRepairDrainDone (port : Nat) (s : State) : Host.Outcome State Fault Refusal :=
  let p := s.port port
  match p.repair with
  | .draining lane =>
    if p.up && p.replay.isEmpty then
      .next (s.setPort port { p with lanes := 1, badLane := some lane, repair := .none }.fill)
    else .fault (.eventNotDue "LANE_REPAIR_DRAIN_DONE")
  | _ => .fault (.eventNotDue "LANE_REPAIR_DRAIN_DONE")

/-- A port goes down (R339): its flits go over another up port to the same device, those it had sent before any new one, and the pairs
that used it use that port. While there is none they are kept (R354). -/
def portDown (s : State) (port : Nat) : State :=
  let p := s.port port
  let s1 := s.setPort port { p with up := false, replay := [], replies := [], waiting := [], repair := .none }
  let first := p.replay.map Prod.snd ++ p.replies
  match (portsTo s1 p.partner).head? with
  | some q =>
    let s2 := s1.onPort q (fun x => { x with replies := first ++ x.replies, waiting := p.waiting ++ x.waiting }.fill)
    noteRoutes { s2 with routes := s2.routes.map (fun (r : Nat × Nat × Nat) => if r.2.2 = port then (r.1, r.2.1, q) else r) }
  | none =>
    noteRoutes { s1 with unsent := s1.unsent ++ (first ++ p.waiting).map (fun f => (p.partner.toNat, f)),
                         routes := s1.routes.filter (fun (r : Nat × Nat × Nat) => r.2.2 != port) }

/-- PORT_RETRAIN_TIMEOUT (R339): the port goes down. -/
def execPortRetrainTimeout (port : Nat) (s : State) : Host.Outcome State Fault Refusal :=
  match (s.port port).repair with
  | .retraining deadline =>
    if (s.port port).up && decide (deadline ≤ s.rt) then .next (portDown s port) else .fault (.eventNotDue "PORT_RETRAIN_TIMEOUT")
  | _ => .fault (.eventNotDue "PORT_RETRAIN_TIMEOUT")

/-- A port comes up, over both lanes. One that was down starts anew, with the flits that waited for a route to its partner. -/
def portUp (s : State) (port : Nat) (partner : BitVec 12) : State :=
  let p := s.port port
  let p1 := { p with up := true, partner := partner, lanes := 2, badLane := none, repair := .none, rxCount := 0, crc := [] }
  if p.up then s.setPort port p1.fill
  else
    let mine := s.unsent.filter (fun x => x.1 == partner.toNat)
    { s with unsent := s.unsent.filter (fun x => x.1 != partner.toNat) }.setPort port
      { p1 with replies := mine.map Prod.snd, nextSeq := 0, rxNext := 0, answers := [] }.fill

/-- PORT_TRAINING (R339, R340): a port trains or retrains both lanes. A device without an identifier trains none; a partner
that reports 0xFFF or the device's own identifier is not brought up, and is logged. What the partner exports, and what its
memory holds, come with its link (DESIGN CHOICE, log 71). -/
def execPortTraining (port : Nat) (partner : BitVec 12) (table : List (BitVec 256)) (mem : List Host.Cell) (s : State) :
    Host.Outcome State Fault Refusal :=
  let p := s.port port
  let idle := !p.up || (match p.repair with | .retraining _ => true | _ => false)
  if !idle || decide (128 ≤ port) || s.devId == 0xFFF then .fault (.eventNotDue "PORT_TRAINING")
  else
    let s1 := if p.up && p.partner != partner then portDown s port else s
    if partner == 0xFFF || partner == s.devId then
      .next { s1 with errLog := s1.errLog ++ [.portIds port s.devId.toNat partner.toNat] }
    else
      let cells := mem.foldl (fun (m : List Host.Cell) c => memSet m c.1 c.2) []
      let s2 := { s1 with peers := s1.peers.filter (fun (x : Peer) => x.dev != partner) ++ [({ dev := partner, table := table, mem := cells } : Peer)] }
      .next (noteRoutes (portUp s2 port partner))

/-! ## Peer accesses that arrive (11 R237; R341) -/

/-- The export table (R341). -/
def exportTable (s : State) : List (BitVec 256) :=
  let base := (s.fjExp.extractLsb' 6 46).toNat * 64
  (List.range (s.fjExp.extractLsb' 52 12).toNat).map (fun i =>
    BitVec.ofNat 256 (leNat (memRead s.mem (physKey s (base + 32 * i)) 32)))

def peerReads : PeerOp → Bool
  | .store _ => false
  | _ => true
def peerWrites : PeerOp → Bool
  | .load => false
  | _ => true

/-- The physical lines that bytes lie in. -/
def paLines (pa n : Nat) : List Nat := (List.range ((pa % 64 + n + 63) / 64)).map (fun i => (pa / 64 + i) * 64)

/-- A write of a peer access: the homes' copies go, regions that track a line abort, and the bytes are written (11 R237). -/
def peerWrite (s : State) (pa : Nat) (bs : List Byte) : State :=
  (paLines pa bs.length).foldl (fun s a =>
    let at_ (i : Nat) : Bool := decide (pa ≤ a + i) && decide (a + i < pa + bs.length)
    let mask : ByteMask := BitVec.ofNat 64 ((List.range 64).foldl (fun m i => if at_ i then m + 2 ^ i else m) 0)
    keyWrite (purgePa (externalPa s a) a) (physKey s a) mask (lineOf ((List.range 64).map (fun i => bs.getD (a + i - pa) 0)))) s

/-- What a peer access finds, the homes' copies having been written back: the bytes, unless one is poisoned. -/
def peerRead (s : State) (pa n : Nat) : State × Option (List Byte) :=
  let s1 := (paLines pa n).foldl cleanPa s
  (s1, if (paLines pa n).any (fun a => poisonedKey s1 (physKey s1 a)) then none
    else some ((List.range n).map (fun i => memByte s1.mem (physKey s1 (pa + i)))))

/-- An admitted peer access is performed at the channel that owns the address: what it leaves, and what it answers (11 R232, R237). -/
def peerPerform (s : State) (acc : PeerAcc) : State × FlitLoad :=
  match acc.op with
  | .store data => (peerWrite s acc.pa data, .answer true false [])
  | .load =>
    match peerRead s acc.pa acc.size with
    | (s1, some bs) => (s1, .answer true false bs)
    | (s1, none) => (s1, .answer true true [])
  | .atom ty op v c =>
    match peerRead s acc.pa acc.size with
    | (s1, none) => (s1, .answer true true [])
    | (s1, some bs) =>
      let m := 2 ^ (8 * acc.size)
      match (atomNew ty op (leNat bs) (v.toNat % m) (c.toNat % m)).1 with
      | some n => (peerWrite s1 acc.pa (leBytes acc.size n), .answer true false bs)
      | none => (s1, .answer true false bs)

/-- Is an access one that a device sends: a store has its bytes? -/
def peerWhole (acc : PeerAcc) : Bool :=
  match acc.op with
  | .store data => data.length == acc.size
  | _ => true

/-- PEER_ACCESS_ARRIVAL (R341; 11 R237): an access that the export table admits is performed; either way an answer goes back. -/
def execPeerAccessArrival (port : Nat) (acc : PeerAcc) (s : State) : Host.Outcome State Fault Refusal :=
  if !(s.port port).up || (s.port port).partner != acc.dev || !peerWhole acc then .fault (.eventNotDue "PEER_ACCESS_ARRIVAL")
  else if exportAdmits (exportTable s) acc.dev acc.pa acc.size (peerReads acc.op) (peerWrites acc.op) then
    .next (sendBack (peerPerform s acc).1 acc.dev (peerPerform s acc).2)
  else .next (sendBack s acc.dev (.answer false false []))

/-! ## Tokens and replies (R345, R352-R354) -/

/-- A call token (R345). -/
def callToken (dev : BitVec 12) (cause : BitVec 9) (cls : BitVec 2) (spilled accept : Bool) (value : BitVec 32) : Word :=
  doneCause cause ||| (cls.setWidth 64 <<< 52) ||| (boolWord spilled <<< 51) ||| (boolWord accept <<< 50)
    ||| (dev.setWidth 64 <<< 32) ||| value.setWidth 64

/-- A reply record of a context's reply area (23 R366). -/
def replyRecord (tok : Word) (launchId : BitVec 32) (team reg : Nat) : List Byte :=
  leBytes 8 tok.toNat ++ leBytes 4 launchId.toNat ++ leBytes 3 team ++ leBytes 1 reg ++ leBytes 16 1

/-- The reply area: its VA and its number of records. -/
def replyArea (c : Ctx) : Nat × Nat :=
  let n := (c.ctxReply.extractLsb' 0 6).toNat
  (signVa (c.ctxReply.extractLsb' 0 57 &&& ~~~ 4095#57), if 12 ≤ n ∧ n ≤ 47 then 2 ^ n / 32 else 0)

/-- Write a record in the first free place of the reply area; false where that cannot be done. -/
def putReplyGo (ctx va : Nat) (bs : List Byte) : Nat → Nat → State → State × Bool
  | 0, _, s => (s, false)
  | k + 1, i, s =>
    match readVa hostUnit ctx (va + 32 * i) 32 1 s with
    | (s1, .error _) => (s1, false)
    | (s1, .ok x) =>
      if (x.getD 16 0).getLsbD 0 then putReplyGo ctx va bs k (i + 1) s1
      else match writeVa hostUnit ctx (va + 32 * i) 1 bs s1 with
        | (s2, .ok ()) => (s2, true)
        | (s2, .error _) => (s2, false)

/-- A reply that cannot be stored in a saved context's reply area stays with the saved team (DEDUCED, log 70). -/
def putReply (s : State) (ctx : Nat) (bs : List Byte) : State × Bool :=
  match s.ctx? ctx with
  | some c => putReplyGo ctx (replyArea c).1 bs (replyArea c).2 0 s
  | none => (s, false)

/-- The saved work of a team. -/
def savedOf (s : State) (key : Nat) : Option SavedWork := (s.ctxs.flatMap (fun c => c.2.saved)).find? (fun w => w.team.key == key)
def onSaved (s : State) (key : Nat) (f : SavedWork → SavedWork) : State :=
  { s with ctxs := s.ctxs.map (fun (c : Nat × Ctx) => (c.1, { c.2 with saved := c.2.saved.map (fun w => if w.team.key = key then f w else w) })) }

/-- The launch and the queued phase of a pended team. -/
def phaseOf (s : State) (key : Nat) : Option (Launch × QPhase) :=
  s.launches.findSome? (fun l => (l.phases.find? (fun q => q.key == key)).map (fun q => (l, q)))
def onPhase (s : State) (key : Nat) (f : QPhase → QPhase) : State :=
  { s with launches := s.launches.map (fun l => { l with phases := l.phases.map (fun q => if q.key = key then f q else q) }) }

/-- A call slot, of a resident or saved team, or of one whose phase is queued. -/
def slotOf (s : State) (sref slot : Nat) : Option CallSlot :=
  match s.teamByKey sref, savedOf s sref with
  | some (_, t), _ => Tab.find t.slots slot
  | none, some w => Tab.find w.team.slots slot
  | none, none => (phaseOf s sref).bind (fun x => Tab.find x.2.slots slot)

def onSlot (s : State) (sref : Nat) (f : Tab CallSlot → Tab CallSlot) : State :=
  match s.teamByKey sref, savedOf s sref with
  | some (sid, t), _ => s.setTeam sid { t with slots := f t.slots }
  | none, some _ => onSaved s sref (fun w => { w with team := { w.team with slots := f w.team.slots } })
  | none, none => onPhase s sref (fun q => { q with slots := f q.slots })

/-- A slot after the acknowledgement of its call: freed only where the reply it does not expect has been discarded. -/
def CallSlot.acknowledged (x : CallSlot) : Option CallSlot :=
  if x.gone then none else some { x with acked := true, landed := x.landed || !x.reply }

/-- A slot after its reply, which it does not expect, has been discarded: freed, but not before its acceptance token has landed. -/
def CallSlot.discarded (x : CallSlot) : Option CallSlot := if x.landed then none else some { x with gone := true }

def putSlot (slot : Nat) (x : Option CallSlot) (t : Tab CallSlot) : Tab CallSlot :=
  match x with
  | some y => Tab.put t slot y
  | none => Tab.del t slot

/-- A token lands at its team, or in the reply area while the team is saved (R345; 23 R366) (DEDUCED, log 70). -/
def landCall (s : State) (sref : Nat) (x : CallSlot) (tok : Word) : State :=
  match s.teamByKey sref with
  | some (sid, _) => landAcquire s sid sref x.tok x.reg tok
  | none =>
    match savedOf s sref with
    | none => s
    | some w =>
      if x.reg = 0 then s
      else
        let id := match s.launch? w.team.lid with | some l => l.launchId | none => 0
        match putReply s w.team.ctx (replyRecord tok id w.team.team x.reg) with
        | (s1, true) => s1
        | (s1, false) => onSaved s1 sref (fun w => { w with toks := w.toks ++ [(x.reg, tok)] })

/-- Send a reply or refusal to a call's sender: to a team of this device, or over the reply channel of a port (R343, R350). -/
def sendReply (s : State) (c : Call) (cause : BitVec 9) (cls : BitVec 2) (spilled : Bool) (value : BitVec 32) : State :=
  if c.sdev = s.devId then { s with mail := s.mail ++ [.replyLand c.sref c.slot.toNat cause cls spilled value] }
  else sendBack s c.sdev (.reply c.sref c.slot.toNat cause cls spilled value)

/-- Acknowledge a call (R354). -/
def sendAck (s : State) (c : Call) (spilled : Bool) : State :=
  if c.sdev = s.devId then { s with mail := s.mail ++ [.callAck c.sref c.slot.toNat spilled] }
  else sendBack s c.sdev (.ack c.sref c.slot.toNat spilled)

/-- Is a message in the mail, or does it come from another device, to which the slot's call went? An acknowledgement goes
before its reply. One that finds no slot comes too late and is discarded (R354). -/
def mailFits (s : State) (sref slot : Nat) (i : Instr) : Bool :=
  match s.mail.find? (fun m => match m with
    | .replyLand r k .. => r == sref && k == slot
    | .callAck r k _ => r == sref && k == slot
    | _ => false) with
  | some m => m == i
  | none => (match slotOf s sref slot with | some x => x.dev != s.devId | none => true)

/-- CALL_ACK (R345, R354): the timeout no longer runs; a call sent without REPLY has its acceptance token (DEDUCED, log 68). -/
def execCallAck (sref slot : Nat) (spilled : Bool) (s : State) : Host.Outcome State Fault Refusal :=
  if !mailFits s sref slot (.callAck sref slot spilled) then .fault (.eventNotDue "CALL_ACK")
  else
    let s1 := { s with mail := s.mail.erase (.callAck sref slot spilled) }
    match slotOf s1 sref slot with
    | none => .next s1
    | some x =>
      let s2 := onSlot s1 sref (putSlot slot x.acknowledged)
      .next (if x.reply || x.landed then s2 else landCall s2 sref x (callToken x.dev 0 0 spilled true 0))

/-- REPLY_LAND (R345, R354): the slot is freed; the token lands unless the call has had it (DEDUCED, log 68). -/
def execReplyLand (sref slot : Nat) (cause : BitVec 9) (cls : BitVec 2) (spilled : Bool) (value : BitVec 32) (s : State) :
    Host.Outcome State Fault Refusal :=
  let i : Instr := .replyLand sref slot cause cls spilled value
  if !mailFits s sref slot i then .fault (.eventNotDue "REPLY_LAND")
  else
    let s1 := { s with mail := s.mail.erase i }
    match slotOf s1 sref slot with
    | none => .next s1
    | some x =>
      let s2 := onSlot s1 sref (fun t => Tab.del t slot)
      .next (if x.landed then s2 else landCall s2 sref x (callToken x.dev cause cls spilled false value))

/-- GY.TIMEOUT of a slot's context, in real time. -/
def timeoutOf (s : State) (sref : Nat) : Nat :=
  let ctx := match s.teamByKey sref, savedOf s sref with
    | some (_, t), _ => t.ctx
    | none, some w => w.team.ctx
    | none, none => (match phaseOf s sref with | some x => x.1.ctx | none => 0)
  microseconds (match s.ctx? ctx with | some c => c.gyTimeout.toNat | none => 1000)

/-- Has a call been lost (R354)? -/
def callLost (s : State) (sref : Nat) (x : CallSlot) : Bool :=
  !x.landed && (if x.acked then (match x.lostAt with | some r => decide (r + timeoutOf s sref ≤ s.rt) | none => false)
                else decide (x.issued + timeoutOf s sref ≤ s.rt))

/-- GY_TIMEOUT_EXPIRY (R354): LINK_DOWN lands; the slot waits for the reply that is discarded. -/
def execGyTimeoutExpiry (sref slot : Nat) (s : State) : Host.Outcome State Fault Refusal :=
  match slotOf s sref slot with
  | none => .fault (.eventNotDue "GY_TIMEOUT_EXPIRY")
  | some x =>
    if callLost s sref x then
      .next (landCall (onSlot s sref (fun t => Tab.put t slot { x with landed := true })) sref x
        (callToken x.dev Cause.linkDown 0 false false 0))
    else .fault (.eventNotDue "GY_TIMEOUT_EXPIRY")

/-! ## gcall, gret, gpoll -/

/-- The call of a `gcall` (R343, R344). -/
def callOf (s : State) (t : Team) (vw : View) (a : SIdx) (i : CallImm) (slot : Nat) : Call :=
  { args := (List.range 7).map (fun k => vw.sr (a.toNat + k)), handler := i.handler, cls := i.cls, reply := i.reply, sdev := s.devId,
    sctx := BitVec.ofNat 16 t.ctx, steam := BitVec.ofNat 24 t.team,
    jobtag := (match s.ctx? t.ctx with | some c => c.gyJobtag | none => 0), slot := BitVec.ofNat 4 slot, sref := t.key }

/-- The context that a call's job tag names, for the counters; a tag of none counts for no context. -/
def tagCtx (s : State) (tag : BitVec 16) : Nat :=
  match s.ctxs.find? (fun c => c.2.gyJobtag != 0 && c.2.gyJobtag == tag) with
  | some c => c.1
  | none => 2 ^ 16

/-- A die receives a call (R347; 24 R377). -/
def receiveCall (s : State) (x : Arrival) : State :=
  pmcCount ({ s with arrivals := s.arrivals ++ [x] }.nextOrder) (.die x.die) 37 (tagCtx s x.call.jobtag) 1

/-- Send a call on its way, its slot taken; or land its token at once (R344, R347). -/
def sendCall (s : State) (sid : Nat) (t : Team) (vw : View) (d a : SIdx) (i : CallImm) : State :=
  let slot := ((List.range 16).find? (fun k => (Tab.find t.slots k).isNone)).getD 0
  let dev : BitVec 12 := (vw.sr (a.toNat + 7)).extractLsb' 0 12
  let c := callOf s t vw a i slot
  let x : CallSlot := { reg := d.toNat, tok := s.order, dev := dev, cls := i.cls, reply := i.reply, issued := s.rt, acked := false,
                        lostAt := none, landed := false, gone := false }
  let s1 := s.onTeam sid (fun t => { t.setS d.toNat 0 with
    callToks := if d = 0 then t.callToks else t.callToks ||| (1#64 <<< d.toNat), slots := Tab.put t.slots slot x })
  let s2 := if d = 0 then s1.nextOrder else (addSb s1 sid (.s d.toNat) [] true).1
  let stop (s : State) (cause : BitVec 9) : State :=
    landCall (onSlot s t.key (fun tb => Tab.del tb slot)) t.key x (callToken dev cause 0 false false 0)
  if c.jobtag = 0 then stop s2 Cause.denied
  else if dev = s.devId then
    receiveCall s2 { id := s2.order, port := none, die := t.die, call := c, waiting := none, served := [], denied := [] }
  else match routeOf s2 t.key dev with
    | (s3, none) => stop s3 Cause.linkDown
    | (s3, some p) => sendFlit s3 p (.call c)

/-- `gcall` (R344). -/
def execGcall (h : Hdr) (d a : SIdx) (i : CallImm) (s : State) : Host.Outcome State Fault Refusal :=
  issueScalar (.gcall h d a i) h s (fun sid vw s =>
    let t := vw.t
    if regionForbids t then regionTrap s
    else if (match t.handler with | some x => x.nocall | none => false) then .trap s Cause.denied 0 0 false
    else if 16 ≤ t.slots.length then .wait s .callSlot
    else releaseOr s (systemAccess sid t) (fun s => .fall (sendCall s sid t vw d a i) 1))

def markReplied (s : State) (sid : Nat) (x : HandlerInfo) : State :=
  s.onTeam sid (fun t => { t with handler := some { x with replied := true } })

/-- A handler team ends without having replied: it sends one reply (R353). -/
def replyAtEnd (s : State) (sid : Nat) (x : HandlerInfo) (cause : BitVec 9) : State :=
  sendReply (markReplied s sid x) x.call cause x.cls x.spilled 0

/-- What `gret` sends (R352). With REPLY = 0 nothing is sent: status and value are discarded, and a slot of this device is freed
(R343, R345) (DEDUCED, log 68). -/
def replyOnce (s : State) (sid : Nat) (x : HandlerInfo) (cause : BitVec 9) (value : BitVec 32) : State :=
  let s1 := markReplied s sid x
  if x.call.reply then sendReply s1 x.call cause x.cls x.spilled value
  else if x.call.sdev = s.devId then
    match slotOf s1 x.call.sref x.call.slot.toNat with
    | some k => onSlot s1 x.call.sref (putSlot x.call.slot.toNat k.discarded)
    | none => s1
  else s1

/-- `gret` (R352). -/
def execGret (h : Hdr) (a : SIdx) (st : StatOp) (s : State) : Host.Outcome State Fault Refusal :=
  issueScalar (.gret h a st) h s (fun sid vw s =>
    let t := vw.t
    let status : BitVec 9 := match st with | .s n => (vw.sr n.toNat).extractLsb' 0 9 | .imm k => k
    if regionForbids t then regionTrap s
    else if status != 0 && decide (status.toNat < 0x1E0) then .trap s Cause.illegalOperand (posVal 2 status.toNat) 0 false
    else match t.handler with
      | none => .trap s Cause.gyState 0 0 false
      | some x =>
        if x.replied then .trap s Cause.gyState 0 0 false
        else releaseOr s (systemAccess sid t) (fun s =>
          .fall (replyOnce s sid x status ((vw.sr a.toNat).extractLsb' 0 32)) 1))

/-- `gpoll` (R355): never waits on A; a landed value that a call's token wrote is acquired. -/
def execGpoll (h : Hdr) (d a : SIdx) (s : State) : Host.Outcome State Fault Refusal :=
  issueScalar (.gpoll h d a) h s (fun sid vw s =>
    let t := vw.t
    let landed := !t.sb.any (fun e => e.reg == .s a.toNat)
    let s1 := if landed && t.callToks.getLsbD a.toNat then acquireAt s (systemAccess sid t) else s
    .fall (s1.onTeam sid (fun t => t.setS d.toNat (boolWord landed))) 1)

/-! ## Arrival (R346-R350) -/

def hePolicy (e : BitVec 512) : Nat := fld e 92 2

/-- Is a handler entry present (02 R38)? -/
def hePresent (e : BitVec 512) : Bool := e.getLsbD 94 && hePolicy e != 3 && !(hePolicy e == 2 && !e.getLsbD 91)

/-- Checks 2 to 4 of R346: the cause of the first that fails. -/
def entryCheck (e : BitVec 512) (dev : BitVec 12) : Option (BitVec 9) :=
  let x := heSpec e
  let zero : Load := { slots := 0, regs := 0, lanes := 0 }
  if !hePresent e then some Cause.noHandler
  else if !(e.getLsbD 216 || (decide (fld e 192 12 ≤ dev.toNat) && decide (dev.toNat ≤ fld e 204 12))) then some Cause.denied
  else if badWidth x.w then some Cause.badRecord
  else if badGrans (fld e 80 5) (fld e 85 6) || decide (384 < fld e 128 9) || decide (256 < fld e 137 9) then some Cause.badBudget
  else if !(zero.add x.w x.n x.g).fits (fld e 128 9) (fld e 137 9) then some Cause.badBudget
  else none

/-- GY.QDEPTH of a context and class (R347). -/
def depthOf (s : State) (ctx cls : Nat) : Nat := match s.ctx? ctx with | some c => (Tab.get (512 : BitVec 10) c.gyQdepth cls).toNat | none => 0

/-- Has a class queue of a die room for a context (R347, R348)? -/
def hasRoom (s : State) (die ctx cls : Nat) : Bool :=
  let q := Tab.get [] (s.die die).gyq cls
  decide (q.length < 512) && decide ((q.filter (fun e => e.ctx == ctx)).length < depthOf s ctx cls)

def enqueueCall (s : State) (die cls : Nat) (e : GyEntry) : State :=
  s.onDie die (fun d => { d with gyq := Tab.set [] d.gyq cls (Tab.get [] d.gyq cls ++ [e]) })

/-- A call enters its class queue as an accepted launch of its context (03 R50; 05 R75). -/
def acceptCall (s : State) (die cls : Nat) (e : GyEntry) : State := emptyCode (enqueueCall s die cls e) e.ctx

def ringOf (s : State) (ctx handler : Nat) : Option SpillRing := s.spills.find? (fun r => r.ctx == ctx && r.handler == handler)

def dropArrival (s : State) (x : Arrival) : State := { s with arrivals := s.arrivals.filter (fun y => y.id != x.id) }

/-- A refusal ends a call (R346). -/
def refuseCall (s : State) (x : Arrival) (cause : BitVec 9) : State := sendReply (dropArrival s x) x.call cause 0 false 0

/-- An access that a call's arrival needs was not made: the call waits at the agent, or is answered (R346, R349). -/
def arrivalMiss (s : State) (x : Arrival) (ctx : Nat) (m : Missing) (write : Bool) : State :=
  match missCause x.served x.denied m with
  | some c => refuseCall s x c
  | none =>
    let s1 := { s with arrivals := s.arrivals.map (fun y => if y.id = x.id then { x with waiting := some (missPage m) } else y) }
    askPage s1 (.arrival x.id) ctx m.va.toNat write false (unitOf m.va.toNat)

/-- The bytes of a spilled call (R349). -/
def spillSlot (c : Call) : List Byte :=
  (List.range 7).flatMap (fun i => leBytes 8 (c.args.getD i 0).toNat) ++ leBytes 8 (senderInfo c true).toNat

/-- Write a call to a spill ring: false where the ring is full. -/
def spillWrite (ctx : Nat) (e : BitVec 512) (c : Call) : Dev Bool :=
  let va := fld e 256 64
  let slots := fld e 320 32
  Dev.bind (readHeader ctx va) (fun th =>
    let held := (th.1 + 2 ^ 64 - th.2) % 2 ^ 64
    if slots ≤ held then Dev.pure false
    else Dev.bind (writeVa unitOf ctx (va + 64 + 64 * (th.1 % slots)) 64 (spillSlot c)) (fun _ =>
      Dev.bind (writeVa unitOf ctx va 8 (leBytes 8 (th.1 + 1))) (fun _ => Dev.pure true)))

/-- A call goes to its handler's spill ring (R348, R349). -/
def spillCall (s : State) (x : Arrival) (ctx : Nat) (e : BitVec 512) : State :=
  match spillWrite ctx e x.call s with
  | (s1, .error m) => arrivalMiss s1 x ctx m true
  | (s1, .ok false) => refuseCall s1 x Cause.busy
  | (s1, .ok true) =>
    let h := x.call.handler.toNat
    let r : SpillRing := (ringOf s1 ctx h).getD
      { ctx := ctx, handler := h, va := fld e 256 64, slots := fld e 320 32, calls := [], waiting := none, served := [], denied := [],
        failing := false, retryAt := none }
    let r1 := { r with calls := r.calls ++ [(x.call, e)], retryAt := none }
    let s2 := { s1 with spills := s1.spills.filter (fun y => !(y.ctx == ctx && y.handler == h)) ++ [r1] }
    pmcCount (sendAck (dropArrival s2 x) x.call true) (.die x.die) 38 ctx 1

def stallPort (x : Arrival) : Nat := match x.port with | some p => p | none => 128 + x.die

/-- A call whose entry has been read is taken or refused: checks 2 to 5 (R346, R348). -/
def takeCall (s : State) (x : Arrival) (ctx : Nat) (resident : Bool) (e : BitVec 512) : State :=
  match entryCheck e x.call.sdev with
  | some c => refuseCall s x c
  | none =>
    let cls := x.call.cls.toNat
    let ringed := match ringOf s ctx x.call.handler.toNat with | some r => !r.calls.isEmpty | none => false
    if resident && hasRoom s x.die ctx cls && !ringed then
      sendAck (dropArrival (acceptCall s x.die cls { ctx := ctx, call := x.call, entry := e, spilled := false, since := s.clock }) x) x.call false
    else match hePolicy e with
      | 1 => spillCall s x ctx e
      | 2 =>
        if resident then
          let st : Stalled := { port := stallPort x, die := x.die, ctx := ctx, call := x.call, entry := e }
          sendAck (dropArrival { s with stalls := s.stalls ++ [st] } x) x.call false
        else refuseCall s x Cause.busy
      | _ => refuseCall s x Cause.busy

/-- May an arrival go on? Calls behind a stalled one of the class on the port wait, and so do later calls of one team and
class (R344, R348). -/
def arrivalReady (s : State) (x : Arrival) : Bool :=
  x.waiting.isNone && !s.stalls.any (fun y => y.port == stallPort x && y.call.cls == x.call.cls)
    && !(s.arrivals.takeWhile (fun y => y.id != x.id)).any (fun y => y.call.sdev == x.call.sdev && y.call.sref == x.call.sref
          && y.call.cls == x.call.cls)

/-- Check an arrived call (R346). -/
def judgeCall (s : State) (x : Arrival) : State :=
  match s.ctxs.find? (fun c => c.2.gyJobtag != 0 && c.2.gyJobtag == x.call.jobtag) with
  | none => refuseCall s x Cause.noHandler
  | some (ctx, c) =>
    let va := (signVa (c.gyHtab.extractLsb' 0 57 &&& ~~~ (BitVec.ofNat 57 (2 ^ 18 - 1))) + 64 * x.call.handler.toNat) % 2 ^ 64
    match readVa unitOf ctx va 64 64 s with
    | (s1, .error m) => arrivalMiss s1 x ctx m false
    | (s1, .ok bs) => takeCall s1 x ctx c.resident (BitVec.ofNat 512 (leNat bs))

/-- The die that receives a port's calls (R347). -/
def dieOfPort (p : Nat) : Nat := 2 * (p / 32) + p / 16 % 2

/-- CALL_ARRIVAL (R346-R349): a call from a team of this device, one that waited for a page, or one that a port delivers. -/
def execCallArrival (port : Option Nat) (c : Call) (s : State) : Host.Outcome State Fault Refusal :=
  match s.arrivals.find? (fun x => x.port == port && x.call == c) with
  | some x => if arrivalReady s x then .next (judgeCall s x) else .fault (.eventNotDue "CALL_ARRIVAL")
  | none =>
    match port with
    | none => .fault (.eventNotDue "CALL_ARRIVAL")
    | some p =>
      if !(s.port p).up || c.sdev == s.devId then .fault (.eventNotDue "CALL_ARRIVAL")
      else
        let x : Arrival := { id := s.order, port := some p, die := dieOfPort p, call := c, waiting := none, served := [], denied := [] }
        let s1 := receiveCall s x
        .next (if arrivalReady s1 x then judgeCall s1 x else s1)

/-- The call that is promoted next from a class queue (R347). -/
def promoted (s : State) (die cls : Nat) : Option GyEntry :=
  if cls = 0 then none
  else (Tab.get [] (s.die die).gyq cls).find? (fun e => decide (e.since + 2 ^ 16 < s.clock) && hasRoom s die e.ctx (cls - 1))

/-- CALL_PROMOTION (R347). -/
def execCallPromotion (die cls : Nat) (s : State) : Host.Outcome State Fault Refusal :=
  match promoted s die cls with
  | none => .fault (.eventNotDue "CALL_PROMOTION")
  | some e =>
    let s1 := s.onDie die (fun d => { d with gyq := Tab.set [] d.gyq cls ((Tab.get [] d.gyq cls).erase e) })
    .next (enqueueCall s1 die (cls - 1) { e with since := s.clock })

/-- The lowest die whose class queue can take the oldest call of a ring (R349). -/
def drainDie (s : State) (r : SpillRing) : Option Nat :=
  match r.calls with
  | [] => none
  | (c, _) :: _ =>
    if r.waiting.isSome || r.retryAt.isSome || !(match s.ctx? r.ctx with | some x => x.resident | none => false) then none
    else (List.range Config.dies).find? (fun d => (callBind s d r.ctx c.cls.toNat).isSome && hasRoom s d r.ctx c.cls.toNat)

def setRing (s : State) (r : SpillRing) : State :=
  { s with spills := s.spills.map (fun y => if y.ctx = r.ctx ∧ y.handler = r.handler then r else y) }

/-- Read the oldest slot of a ring and advance HEAD. -/
def spillRead (r : SpillRing) : Dev (List Byte) :=
  Dev.bind (readHeader r.ctx r.va) (fun th =>
    Dev.bind (readVa unitOf r.ctx (r.va + 64 + 64 * (th.2 % max r.slots 1)) 64 64) (fun bs =>
      Dev.bind (writeVa unitOf r.ctx (r.va + 8) 8 (leBytes 8 (th.2 + 1))) (fun _ => Dev.pure bs)))

/-- A drain whose accesses were not made (R349; 03 R386). -/
def drainMiss (s : State) (r : SpillRing) (m : Missing) : State :=
  match missCause r.served r.denied m with
  | none => askPage (setRing s { r with waiting := some (missPage m) }) (.spill r.ctx r.handler) r.ctx m.va.toNat true false (unitOf m.va.toNat)
  | some c =>
    let s1 := if r.failing then s else queueEvent s r.ctx c m.va 0
    setRing s1 { r with failing := true, retryAt := some (s.rt + microseconds 100), served := [], denied := [] }

/-- The call a slot holds; the route of its reply is the device's own (R351) (DEDUCED, log 69). -/
def slotCall (c : Call) (bs : List Byte) : Call :=
  let x : Word := BitVec.ofNat 64 (wordAt bs 56)
  { c with args := (List.range 7).map (fun i => BitVec.ofNat 64 (wordAt bs (8 * i))), reply := x.getLsbD 14, cls := x.extractLsb' 12 2,
           sdev := x.extractLsb' 0 12, sctx := x.extractLsb' 16 16, steam := x.extractLsb' 36 24, slot := x.extractLsb' 32 4 }

/-- SPILL_DRAIN (R349) (DEDUCED, log 69). -/
def execSpillDrain (ctx handler die : Nat) (s : State) : Host.Outcome State Fault Refusal :=
  match ringOf s ctx handler with
  | none => .fault (.eventNotDue "SPILL_DRAIN")
  | some r =>
    if drainDie s r != some die then .fault (.eventNotDue "SPILL_DRAIN")
    else match r.calls with
      | [] => .fault (.eventNotDue "SPILL_DRAIN")
      | (c, e) :: rest =>
        match spillRead r s with
        | (s1, .error m) => .next (drainMiss s1 r m)
        | (s1, .ok bs) =>
          let s2 := if rest.isEmpty then { s1 with spills := s1.spills.filter (fun y => !(y.ctx == ctx && y.handler == handler)) }
            else setRing s1 { r with calls := rest, failing := false, served := [], denied := [] }
          .next (acceptCall s2 die c.cls.toNat { ctx := ctx, call := slotCall c bs, entry := e, spilled := true, since := s.clock })

/-- STALL_BUFFER_RELEASE (R348). -/
def execStallBufferRelease (port cls : Nat) (s : State) : Host.Outcome State Fault Refusal :=
  match s.stalls.find? (fun x => x.port == port && x.call.cls.toNat == cls) with
  | none => .fault (.eventNotDue "STALL_BUFFER_RELEASE")
  | some x =>
    if hasRoom s x.die x.ctx cls && (match s.ctx? x.ctx with | some c => c.resident | none => false) then
      .next (acceptCall { s with stalls := s.stalls.erase x } x.die cls
        { ctx := x.ctx, call := x.call, entry := x.entry, spilled := false, since := s.clock })
    else .fault (.eventNotDue "STALL_BUFFER_RELEASE")

end Sys2Proof.Machine
end

