-- ==== Sys2Proof/Machine/Mask.lean ====
section
/-! DEFINITION. The mask and predicate instructions (06 R120-R123). -/

namespace Sys2Proof.Machine

/-- `msave` (R120). -/
def execMsave (h : Hdr) (d : PIdx) (s : State) : Host.Outcome State Fault Refusal :=
  issueScalar (.msave h d) h s (fun sid vw s => Done.of s sid (vw.t.setP d.toNat vw.mask) 1)

/-- `mset` (R120). -/
def execMset (h : Hdr) (a : PSrc) (s : State) : Host.Outcome State Fault Refusal :=
  issueScalar (.mset h a) h s (fun sid vw s => Done.of s sid (vw.t.setMask (vw.ps a)) 1)

/-- `mand` (R120). -/
def execMand (h : Hdr) (a : PSrc) (s : State) : Host.Outcome State Fault Refusal :=
  issueScalar (.mand h a) h s (fun sid vw s => Done.of s sid (vw.t.setMask (vw.mask &&& vw.ps a)) 1)

/-- `mandn` (R120). -/
def execMandn (h : Hdr) (a : PSrc) (s : State) : Host.Outcome State Fault Refusal :=
  issueScalar (.mandn h a) h s (fun sid vw s => Done.of s sid (vw.t.setMask (vw.mask &&& ~~~ vw.ps a)) 1)

/-- `mcount` (R121). -/
def execMcount (h : Hdr) (d : SIdx) (a : PSrc) (s : State) : Host.Outcome State Fault Refusal :=
  issueScalar (.mcount h d a) h s (fun sid vw s =>
    scalarResult sid vw s d (BitVec.ofNat 64 (popCount (vw.mask &&& vw.ps a))) 0)

/-- `mfirst` (R121). -/
def execMfirst (h : Hdr) (d : SIdx) (a : PSrc) (s : State) : Host.Outcome State Fault Refusal :=
  issueScalar (.mfirst h d a) h s (fun sid vw s =>
    scalarResult sid vw s d (match lowest (vw.mask &&& vw.ps a) with
      | some l => BitVec.ofNat 64 l
      | none => BitVec.allOnes 64) 0)

/-- A predicate operation: one pass over the lanes of the enable (R122). -/
def predLogic (h : Hdr) (d : PIdx) (f : View → Mask) (sid : Nat) (vw : View) (s : State) : Done :=
  let en := vw.enable h
  if en = 0 then emptyEnable s vw.t
  else Done.of s sid (vw.t.setP d.toNat ((vw.t.pr d.toNat &&& ~~~ en) ||| (f vw &&& en))) 1

/-- `pand` (R122). -/
def execPand (h : Hdr) (d : PIdx) (a b : PSrc) (s : State) : Host.Outcome State Fault Refusal :=
  issue (.pand h d a b) s (predLogic h d (fun vw => vw.ps a &&& vw.ps b))

/-- `por` (R122). -/
def execPor (h : Hdr) (d : PIdx) (a b : PSrc) (s : State) : Host.Outcome State Fault Refusal :=
  issue (.por h d a b) s (predLogic h d (fun vw => vw.ps a ||| vw.ps b))

/-- `pxor` (R122). -/
def execPxor (h : Hdr) (d : PIdx) (a b : PSrc) (s : State) : Host.Outcome State Fault Refusal :=
  issue (.pxor h d a b) s (predLogic h d (fun vw => vw.ps a ^^^ vw.ps b))

/-- `pnot` (R122). -/
def execPnot (h : Hdr) (d : PIdx) (a : PSrc) (s : State) : Host.Outcome State Fault Refusal :=
  issue (.pnot h d a) s (predLogic h d (fun vw => ~~~ vw.ps a))

/-- `pmov` (R122). -/
def execPmov (h : Hdr) (d : PIdx) (a : PSrc) (s : State) : Host.Outcome State Fault Refusal :=
  issue (.pmov h d a) s (predLogic h d (fun vw => vw.ps a))

/-- `pbits.get` (R123). -/
def execPbitsGet (h : Hdr) (d : SIdx) (a : PWordSrc) (s : State) : Host.Outcome State Fault Refusal :=
  issueScalar (.pbitsGet h d a) h s (fun sid vw s =>
    scalarResult sid vw s d ((match a with
      | .p x k => maskWord (vw.ps x) k.toNat
      | .mw k => vw.maskWordAt k.toNat).setWidth 64) 0)

/-- `pbits.put`: all 32 lanes of one word (R123). -/
def execPbitsPut (h : Hdr) (d : PWordDst) (a : SIdx) (s : State) : Host.Outcome State Fault Refusal :=
  issueScalar (.pbitsPut h d a) h s (fun sid vw s =>
    let x := (vw.sr a.toNat).setWidth 32
    Done.of s sid (match d with
      | .p n k => vw.t.setP n.toNat (setMaskWord (vw.t.pr n.toNat) k.toNat x)
      | .mw k => vw.t.setMask (setMaskWord vw.t.mask k.toNat x)) 1)

end Sys2Proof.Machine
end

