-- ==== Sys2Proof/Machine/Matrix.lean ====
section
/-! DEFINITION. The matrix engine: the matrix instructions, the queue and its two paths, and the steps of an operation
(13 R238-R259; 08 R166, R167). -/

namespace Sys2Proof.Machine

/-! ## Descriptors (R241, R249) -/

abbrev MDesc := BitVec 128

def mdBkd (d : MDesc) : Nat := (d.extractLsb' 126 2).toNat
def mdXb (d : MDesc) : Nat := (d.extractLsb' 110 16).toNat * 32
def mdXa (d : MDesc) : Nat := (d.extractLsb' 94 16).toNat * 32
def mdBbase (d : MDesc) : Nat := (d.extractLsb' 79 15).toNat * 64
def mdBpitch (d : MDesc) : Nat := (d.extractLsb' 64 15).toNat * 64
def mdVer (d : MDesc) : Nat := (d.extractLsb' 48 16).toNat
def mdAkd (d : MDesc) : Nat := (d.extractLsb' 46 2).toNat
def mdKg (d : MDesc) : Nat := (d.extractLsb' 41 5).toNat
def mdXpitch (d : MDesc) : Nat := (d.extractLsb' 30 11).toNat * 8
def mdAbase (d : MDesc) : Nat := (d.extractLsb' 15 15).toNat * 64
def mdApitch (d : MDesc) : Nat := (d.extractLsb' 0 15).toNat * 64
def mdInt (d : MDesc) : Bool := mdAkd d == 1
/-- Bytes of one operand row. -/
def mdRow (d : MDesc) : Nat := (if mdInt d then 16 else 32) * mdKg d

def tdVer (d : MDesc) : Nat := (d.extractLsb' 112 16).toNat
def tdPitch (d : MDesc) : Nat := (d.extractLsb' 64 32).toNat
def tdAddr (d : MDesc) : Nat := (d.extractLsb' 0 64).toNat

/-- Offset of the A row of index `x`, of B row `j`, and of their exponents (R242). -/
def aRowOff (d : MDesc) (x : Nat) : Nat := mdAbase d + x * mdApitch d
def bRowOff (d : MDesc) (j : Nat) : Nat := mdBbase d + j * mdBpitch d
def aExpOff (d : MDesc) (x : Nat) : Nat := mdXa d + x * mdXpitch d
def bExpOff (d : MDesc) (j : Nat) : Nat := mdXb d + j * mdXpitch d

/-- The byte ranges of A rows with their exponents, for a list of indices. -/
def aRanges (d : MDesc) (idx : List Lane) : List Touch :=
  idx.map (fun x => { off := aRowOff d x.toNat, len := mdRow d })
    ++ (if mdInt d then idx.map (fun x => { off := aExpOff d x.toNat, len := 2 * mdKg d }) else [])

/-- The byte ranges of the B rows with their exponents. -/
def bRanges (d : MDesc) : List Touch :=
  (List.range 64).map (fun j => { off := bRowOff d j, len := mdRow d })
    ++ (if mdInt d then (List.range 64).map (fun j => { off := bExpOff d j, len := 2 * mdKg d }) else [])

/-- The lowest offset of some ranges at or beyond a limit. -/
def lowestBeyond (limit : Nat) (rs : List Touch) : Option Nat :=
  rs.foldl (fun (a : Option Nat) r =>
    if r.len != 0 && decide (limit < r.off + r.len) then
      let o := max limit r.off
      match a with
      | some b => some (min b o)
      | none => some o
    else a) none

/-! ## Issue -/

/-- The checks of R243 (DEDUCED, log 36). -/
def mmaCheck (t : Team) (d : MDesc) (idx : List Lane) : Option (BitVec 9 × Word) :=
  let lo : Word := d.extractLsb' 0 64
  let hi : Word := d.extractLsb' 64 64
  if 1 < mdAkd d then some (Cause.formatInvalid, lo)
  else if 1 < mdBkd d then some (Cause.formatInvalid, hi)
  else if mdKg d = 0 ∨ (if mdInt d then 16 else 4) < mdKg d then some (Cause.formatInvalid, lo)
  else if mdAkd d ≠ mdBkd d then some (Cause.matrixKind, BitVec.ofNat 64 (mdAkd d + 4 * mdBkd d))
  else match lowestBeyond t.spadLen (aRanges d idx ++ bRanges d) with
    | some o => some (Cause.scratchRange, BitVec.ofNat 64 o)
    | none => none

/-- Bytes of a transferred element. -/
def tElem (bf16 : Bool) : Nat := if bf16 then 2 else 4

/-- The address of a transferred row (R249). -/
def tRow (d : MDesc) (i : Nat) : Nat := tdAddr d + i * tdPitch d

/-- The first non-canonical address of a row of `n` bytes: its own, or in a row that runs out of the lower half, the first
beyond it (DEDUCED, log 36). -/
def rowBeyond (a n e : Nat) : Option Nat :=
  if !canonical (BitVec.ofNat 64 a) then some a
  else if !canonical (BitVec.ofNat 64 (a + n - e)) then some (2 ^ 56)
  else none

/-- The checks of R249. -/
def transferCheck (t : Team) (d : MDesc) (bf16 spad : Bool) : Option (BitVec 9 × Word) :=
  let e := tElem bf16
  if d.extractLsb' 96 16 ≠ 0 then some (Cause.formatInvalid, d.extractLsb' 64 64)
  else if tdAddr d % e ≠ 0 then some (Cause.misaligned, d.extractLsb' 0 64)
  else if tdPitch d % e ≠ 0 then some (Cause.misaligned, BitVec.ofNat 64 (tdPitch d))
  else if spad then
    match lowestBeyond t.spadLen ((List.range 64).map (fun i => { off := tRow d i, len := 64 * e })) with
    | some o => some (Cause.scratchRange, BitVec.ofNat 64 o)
    | none => none
  else
    match (List.range 64).findSome? (fun i => rowBeyond (tRow d i) (64 * e) e) with
    | some a => some (Cause.noncanonical, BitVec.ofNat 64 a)
    | none => none

/-- An entry of a matrix queue as an instruction makes it. -/
def newEntry (s : State) (t : Team) (i : Instr) (op : MOp) (tile ver : Nat) (d : MDesc) (idx : List Lane) : MEntry :=
  { id := s.order, sid := t.sid, tkey := t.key, word := (encode i).getD 0, op := op, tile := tile, ver := ver, desc := d,
    idx := idx, odd := false, stage := .waiting, fenced := t.fenced, ticket := none, row := 0, seg := 0, part := [], served := [], events := 0,
    touched := [], rewrote := [] }

/-- Enter the queue, or wait for a place in it (R240); `mma2` enters the queues of both cores (R248). -/
def enterMatrix (s : State) (t : Team) (e : MEntry) : Done :=
  let twin := e.op == .mma2
  if !matrixFree s t.coreId twin then .wait s .matrixFull
  else
    let s1 := s.onCore t.coreId (fun c => { c with matrix := c.matrix ++ [e] })
    .fall (if twin then s1.onCore (t.coreId + 1) (fun c => { c with matrix := c.matrix ++ [{ e with odd := true }] }) else s1) 1

/-- The 128-bit descriptor of a scalar pair, and the index lanes of a register. -/
def pairOf (vw : View) (n : SIdx) : MDesc := vw.sr (n.toNat + 1) ++ vw.sr n.toNat
/-- An index lane of a gathered operation is read at issue; a gather that meets a shape it cannot serve is left ungathered
and the array waits for its turn (DEDUCED, log 40). -/
def indexLanes (vw : View) (n : VIdx) (k : Nat) : List Lane := (List.range k).map (vw.lane n.toNat)

/-- `mma` and `mma2` at issue (R243, R255). -/
def issueMma (i : Instr) (op : MOp) (d : AIdx) (a : VIdx) (b : SIdx) (vw : View) (s : State) : Done :=
  let desc := pairOf vw b
  let idx := indexLanes vw a (if op == .mma2 then 128 else 64)
  match mmaCheck vw.t desc idx with
  | some (c, v) => .trap s c v 0 false
  | none => enterMatrix s vw.t (newEntry s vw.t i op d.toNat (mdVer desc) desc idx)

/-- `mma` (R255). -/
def execMma (h : Hdr) (d : AIdx) (a : VIdx) (b : SIdx) (s : State) : Host.Outcome State Fault Refusal :=
  issueScalar (.mma h d a b) h s (fun _ vw s => issueMma (.mma h d a b) .mma d a b vw s)

/-- `mma2` (R248, R255). -/
def execMma2 (h : Hdr) (d : AIdx) (a : VIdx) (b : SIdx) (s : State) : Host.Outcome State Fault Refusal :=
  issueScalar (.mma2 h d a b) h s (fun _ vw s => issueMma (.mma2 h d a b) .mma2 d a b vw s)

/-- `mzero` (R256). -/
def execMzero (h : Hdr) (d : AIdx) (ver : BitVec 16) (s : State) : Host.Outcome State Fault Refusal :=
  issueScalar (.mzero h d ver) h s (fun _ vw s =>
    enterMatrix s vw.t (newEntry s vw.t (.mzero h d ver) .mzero d.toNat ver.toNat 0 []))

/-- `mload` and `mdrain` at issue (R249, R257; 19 R327). -/
def issueTransfer (i : Instr) (op : MOp) (bf16 spad : Bool) (d : AIdx) (a : SIdx) (vw : View) (s : State) : Done :=
  let desc := pairOf vw a
  if !spad && regionForbids vw.t then regionTrap s
  else match transferCheck vw.t desc bf16 spad with
    | some (c, v) => .trap s c v 0 false
    | none => enterMatrix s vw.t (newEntry s vw.t i op d.toNat (tdVer desc) desc [])

/-- `mload` (R257). -/
def execMload (h : Hdr) (bf16 spad : Bool) (d : AIdx) (a : SIdx) (s : State) : Host.Outcome State Fault Refusal :=
  issueScalar (.mload h bf16 spad d a) h s (fun _ vw s =>
    issueTransfer (.mload h bf16 spad d a) (.mload bf16 spad) bf16 spad d a vw s)

/-- `mdrain` (R251, R257). -/
def execMdrain (h : Hdr) (bf16 add spad : Bool) (d : AIdx) (a : SIdx) (s : State) : Host.Outcome State Fault Refusal :=
  issueScalar (.mdrain h bf16 add spad d a) h s (fun _ vw s =>
    issueTransfer (.mdrain h bf16 add spad d a) (.mdrain bf16 add spad) bf16 spad d a vw s)

/-- The counter of a tile (R238). -/
def counterOf (s : State) (core tile : Nat) : BitVec 16 := Tab.get (0 : BitVec 16) (s.core core).counters tile

/-- `mver` (R258). -/
def execMver (h : Hdr) (d : SIdx) (a : AIdx) (s : State) : Host.Outcome State Fault Refusal :=
  issueScalar (.mver h d a) h s (fun sid vw s =>
    let v := (counterOf s vw.t.coreId a.toNat).setWidth 64
    lockedResult (acquireAt s (deviceAccess sid vw.t)) sid d v)

/-- The version `mwait` waits for. -/
def View.ver (vw : View) : VerOp → BitVec 16
  | .s n => (vw.sr n.toNat).setWidth 16
  | .imm x => x

/-- `mwait` (R258). -/
def execMwait (h : Hdr) (a : AIdx) (b : VerOp) (s : State) : Host.Outcome State Fault Refusal :=
  issueScalar (.mwait h a b) h s (fun sid vw s =>
    let v := vw.ver b
    if counterOf s vw.t.coreId a.toNat == v || vw.t.mwaitHit then .fall (acquireAt s (deviceAccess sid vw.t)) 1
    else .wait s (.version a.toNat v.toNat))

/-- `mfence` (R259): the team's scratchpad stores are performed when it issues. -/
def execMfence (h : Hdr) (s : State) : Host.Outcome State Fault Refusal :=
  issueScalar (.mfence h) h s (fun sid _ s => .fall (s.onTeam sid (fun t => { t with fenced := s.order })) 1)

/-! ## Operands -/

/-- A scratchpad byte as an operation reads it: one whose last write came after the `mfence` before the operation may be
read old (R259) (DESIGN CHOICE, log 39). An `mload` reads after every earlier access of its team (R253). -/
def opByte (s : State) (core : Nat) (e : MEntry) (off : Nat) : Byte :=
  let k := spadKey core off
  let cur := spadByte s k
  match Tab.find s.spadLog k with
  | some x =>
    let own := (match e.op with | .mload .. => true | _ => false) && x.tkey == some e.tkey
    if !own && decide (e.fenced < x.order) && Config.freeBit s.fresh 4200 k then x.old else cur
  | none => cur

def opBytes (s : State) (core : Nat) (e : MEntry) (off n : Nat) : List Byte :=
  (List.range n).map (fun i => opByte s core e (off + i))

/-- Does a range meet one written while the operation was in flight (R244)? (DESIGN CHOICE, log 39). -/
def wasTouched (rs : List Touch) (off n : Nat) : Bool :=
  rs.any (fun r => decide (off < r.off + r.len) && decide (r.off < off + n))

/-! ## Accumulation (08 R166, R167) -/

/-- One K-group of bf16 products: P and its events. -/
def groupBf16 (as bs : List Nat) : FOut :=
  let src := (as ++ bs).foldl (fun (ev : Events) x => ev ||| bf16F.srcEvents x) 0
  let ps := (as.zip bs).map (fun p => mulV (bf16F.val p.1) (bf16F.val p.2))
  let bad := ps.any (fun p => p.isNone)
  let nan := bad || ps.any (fun p => match p with | some v => v.isNan | none => true)
  let pos := ps.any (fun p => match p with | some (.inf false) => true | _ => false)
  let neg := ps.any (fun p => match p with | some (.inf true) => true | _ => false)
  let o : FOut :=
    if nan || (pos && neg) then f32F.nanOut (evIf (bad || (pos && neg)) evInvalid)
    else if pos then f32F.infOut false false
    else if neg then f32F.infOut true false
    else
      let sum := ps.foldl (fun (a : Int) p => match p with
        | some (.fin n m e) => a + inUnits n m e (-300)
        | _ => a) 0
      let allNeg := ps.all (fun p => match p with | some (.fin n m _) => n && m == 0 | _ => false)
      f32F.roundInt .rne sum (-300) allNeg
  (o.1, o.2 ||| src)

/-- One K-group of int-block products: P and its events. -/
def groupInt (as bs : List Byte) (xa xb : BitVec 16) : FOut :=
  if xa = 0x7FFF ∨ xb = 0x7FFF then f32F.nanOut 0
  else
    let d := (as.zip bs).foldl (fun (a : Int) p => a + p.1.toInt * p.2.toInt) 0
    f32F.roundInt .rne d (xa.toInt + xb.toInt - 254) false

/-- acc + P (R166). Its two operands are each a source of it: a subnormal one counts as such (DESIGN CHOICE, log 113). -/
def accAdd (acc : FOut) (p : FOut) : FOut :=
  let o := f32F.addV .rne (f32F.val acc.1) (f32F.val p.1)
  (o.1, acc.2 ||| p.2 ||| o.2 ||| f32F.srcEvents acc.1 ||| f32F.srcEvents p.1)

/-- An operand row: its bytes, and its exponents. -/
structure ORow where
  bytes : List Byte
  exps  : List Byte
  bad   : Bool                  -- written while in flight

def halfAt (bs : List Byte) (i : Nat) : BitVec 16 := bs.getD (2 * i + 1) 0 ++ bs.getD (2 * i) 0

/-- One element of the product added to an accumulator. -/
def accumulate (d : MDesc) (acc : Nat) (a b : ORow) : FOut :=
  (List.range (mdKg d)).foldl (fun (x : FOut) g =>
    accAdd x (if mdInt d then
      groupInt ((a.bytes.drop (16 * g)).take 16) ((b.bytes.drop (16 * g)).take 16) (halfAt a.exps g) (halfAt b.exps g)
    else groupBf16 (elems 2 ((a.bytes.drop (32 * g)).take 32)) (elems 2 ((b.bytes.drop (32 * g)).take 32)))) (acc, 0)

def tileOf (s : State) (core tile : Nat) : List Lane := Tab.get [] (s.core core).tiles tile
def tileElem (xs : List Lane) (i j : Nat) : Lane := xs.getD (64 * i + j) 0
def setTile (s : State) (core tile : Nat) (xs : List Lane) : State :=
  s.onCore core (fun c => { c with tiles := Tab.set ([] : List Lane) c.tiles tile xs })

/-- The A rows of a core, for 64 index lanes. -/
def aRows (s : State) (core base : Nat) (e : MEntry) (idx : List Lane) : List ORow :=
  idx.map (fun x =>
    let o := base + aRowOff e.desc x.toNat
    let q := base + aExpOff e.desc x.toNat
    let n := if mdInt e.desc then 2 * mdKg e.desc else 0
    { bytes := opBytes s core e o (mdRow e.desc), exps := opBytes s core e q n,
      bad := wasTouched e.touched o (mdRow e.desc) || wasTouched e.touched q n })

/-- The B rows of a core. -/
def bRows (s : State) (core base : Nat) (e : MEntry) : List ORow :=
  (List.range 64).map (fun j =>
    let o := base + bRowOff e.desc j
    let q := base + bExpOff e.desc j
    let n := if mdInt e.desc then 2 * mdKg e.desc else 0
    { bytes := opBytes s core e o (mdRow e.desc), exps := opBytes s core e q n,
      bad := wasTouched e.touched o (mdRow e.desc) || wasTouched e.touched q n })

/-- The tile after an `mma`: elements whose products use a byte written in flight are free (R244), and count no event (DESIGN
CHOICE, log 113). -/
def productTile (s : State) (core : Nat) (e : MEntry) (as bs : List ORow) : List Lane × Events :=
  let old := tileOf s core e.tile
  let rows := as.zipIdx.map (fun a => bs.zipIdx.map (fun b =>
    let n := 64 * a.2 + b.2
    if a.1.bad || b.1.bad then ((BitVec.toNat (Config.freeLane s.fresh (core * 4096 + n)), (0 : Events)) : FOut)
    else accumulate e.desc (tileElem old a.2 b.2).toNat a.1 b.1))
  let all := rows.flatten
  (all.map (fun x => BitVec.ofNat 32 x.1), all.foldl (fun (ev : Events) x => ev ||| x.2) 0)

/-! ## The queue and its paths (R240, R246, R248) -/

def arrayOp (e : MEntry) : Bool := e.op == .mma || e.op == .mma2
/-- "started" of a matrix operation means that it was taken from the queue to gather, run or transfer (DESIGN CHOICE, log
42). -/
def isRunning (e : MEntry) : Bool := match e.stage with | .running _ => true | _ => false
/-- "started" of a matrix operation means that it was taken from the queue to gather, run or transfer (DESIGN CHOICE, log
42). -/
def isGathering (e : MEntry) : Bool := match e.stage with | .gathering _ => true | .gathered => true | _ => false
/-- Is a transfer in the middle of its rows, off the path (R254)? -/
def isParked (e : MEntry) : Bool := match e.stage with | .parked _ => true | .served => true | _ => false
def isGlobal (e : MEntry) : Bool := match e.op with | .mload _ sp => !sp | .mdrain _ _ sp => !sp | _ => false

/-- Is an entry held behind an `mma2` that entered an odd core's queue before it (R248)? -/
def heldByTwin (q : List MEntry) (i : Nat) : Bool := (q.take i).any (fun e => e.odd)

/-- The cores an entry concerns. -/
def entryCores (core : Nat) (e : MEntry) : List Nat := if e.op == .mma2 then [core, core + 1] else [core]

/-- Is an entry held behind an `mma2` that is ahead of it, for an `mma2` on either core (R248)? -/
def twinHeld (s : State) (core i : Nat) (e : MEntry) : Bool :=
  heldByTwin (s.core core).matrix i
    || (e.op == .mma2 && match (s.core (core + 1)).matrix.findIdx? (fun x => x.id == e.id) with
        | some k => heldByTwin (s.core (core + 1)).matrix k
        | none => false)

/-- The counter of a tile once the array operations on it that have begun are complete: the array will start an entry of that version
next, and may gather it. -/
def predicted (s : State) (core tile : Nat) : Nat :=
  ((counterOf s core tile).toNat
    + ((s.core core).matrix.filter (fun e => arrayOp e && e.tile == tile && (isRunning e || isGathering e))).length) % 65536

def arrayFree (s : State) (core : Nat) : Bool := !(s.core core).matrix.any (fun e => arrayOp e && isRunning e)
def gatherFree (s : State) (core : Nat) : Bool := !(s.core core).matrix.any isGathering

/-- Does an entry's version match its tile's counter on every core concerned? -/
def versionNow (s : State) (core : Nat) (e : MEntry) : Bool :=
  (entryCores core e).all (fun c => (counterOf s c e.tile).toNat == e.ver)

/-- Is another operation on an entry's tile running, or parked amid its rows (R239)? -/
def tileBusy (s : State) (core : Nat) (e : MEntry) : Bool :=
  (s.core core).matrix.any (fun x => x.id != e.id && x.tile == e.tile && (isRunning x || isParked x))

/-- Is a transfer on a tile running, or parked amid its rows? -/
def transferOn (s : State) (core tile : Nat) : Bool :=
  (s.core core).matrix.any (fun x => !arrayOp x && x.tile == tile && (isRunning x || isParked x))

/-- May an array entry begin its gather? One behind a transfer on its tile may not, for the array may start another first (DEDUCED,
log 40). -/
def canGather (s : State) (core i : Nat) (e : MEntry) : Bool :=
  arrayOp e && !e.odd && e.stage == .waiting && !twinHeld s core i e
    && (entryCores core e).all (fun c => gatherFree s c && predicted s c e.tile == e.ver && !transferOn s c e.tile)

/-! ## The lines of a global transfer (R250, R252) -/

/-- Bytes of a row of a global transfer, and the lines of a row with the bytes that lie in each. -/
def rowLen (e : MEntry) : Nat :=
  match e.op with
  | .mload bf16 _ => 64 * tElem bf16
  | .mdrain bf16 _ _ => 64 * tElem bf16
  | _ => 0
def rowAt (e : MEntry) (i : Nat) : Nat := tRow e.desc i % 2 ^ 64
def rowParts (e : MEntry) (i : Nat) : List (Nat × ByteMask) := rangeLines (rowAt e i) (rowLen e)
def rowLines (e : MEntry) (i : Nat) : List Nat := (rowParts e i).map Prod.fst

def addsOn (e : MEntry) : Bool := match e.op with | .mdrain _ add _ => add | _ => false

/-- The rows from `i` on that have bytes in a line, and the range of those bytes. A line of an add-on-store is done once, with all of
its bytes (R252); a line of another transfer row by row. -/
def linePieces (e : MEntry) (i line : Nat) : List (Nat × Nat × Nat) :=
  ((List.range (if addsOn e then 64 - i else 1)).map (fun k =>
    let lo := max (rowAt e (i + k)) (line * 64)
    (i + k, lo, min (rowAt e (i + k) + rowLen e) (line * 64 + 64) - lo))).filter (fun p => p.2.2 != 0)

/-- Has an earlier row of an add-on-store done a line? -/
def lineDone (e : MEntry) (i line : Nat) : Bool := addsOn e && (List.range i).any (fun k => (rowLines e k).contains line)

/-- The next line of a global transfer. -/
def nextLine (e : MEntry) : Option Nat := (rowLines e e.row)[e.seg]?

/-- The homes that a transfer has still to reach. -/
def homesLeft (e : MEntry) : List Nat :=
  (((rowLines e e.row).drop e.seg ++ (List.range (63 - e.row)).flatMap (fun k => rowLines e (e.row + 1 + k))).map homeOf).eraseDups

/-- An add-on-store with a lower ticket is still to be applied at the home of the next line (R252). -/
def ticketHeld (s : State) (e : MEntry) : Bool :=
  match e.ticket, nextLine e with
  | some k, some l => s.cores.any (fun c => c.2.matrix.any (fun x => match x.ticket with
      | some j => decide (j < k) && (homesLeft x).contains (homeOf l)
      | none => false))
  | _, _ => false

/-- Is the transfer path free for an entry? One whose page has come takes it back from an add-on-store that waits for a lower ticket,
which may be its own (R240, R252, R254) (DEDUCED, log 37). -/
def pathFree (s : State) (core : Nat) (e : MEntry) : Bool :=
  !(s.core core).matrix.any (fun x => !arrayOp x && isRunning x && !(e.stage == .served && ticketHeld s x))

/-- Add-on-stores that wait for a lower ticket leave the path. -/
def clearPath (s : State) (core : Nat) : State :=
  s.onCore core (fun c => { c with matrix := c.matrix.map (fun x => if !arrayOp x && isRunning x then { x with stage := .served } else x) })

/-- May a transfer start, or go on once its page has come? A global one starts only when the team's queued strong writes have drained
(R253) (DEDUCED, log 37). -/
def canTransfer (s : State) (core i : Nat) (e : MEntry) : Bool :=
  !arrayOp e && (e.stage == .waiting || e.stage == .served) && !heldByTwin (s.core core).matrix i && pathFree s core e
    && versionNow s core e && !tileBusy s core e && !(isGlobal e && s.wq.any (fun q => q.sid == e.sid))

/-- The oldest entry of its kind that may start. -/
def firstStart (s : State) (core : Nat) (f : Nat → MEntry → Bool) : Option Nat :=
  ((s.core core).matrix.zipIdx.find? (fun x => f x.2 x.1)).map Prod.snd

/-- Has one of the queues concerned an older array entry of its own for which a test holds (R240)? -/
def olderEntry (s : State) (core : Nat) (e : MEntry) (f : Nat → Nat → MEntry → Bool) : Bool :=
  (entryCores core e).any (fun c => (s.core c).matrix.zipIdx.any (fun x => decide (x.1.id < e.id) && f c x.2 x.1))

/-- Cycles of a gather: the most bank words asked of one bank (R246; 10 R193). -/
def bankCycles (rs : List Touch) : Nat :=
  let ws := (rs.flatMap (fun r => if r.len = 0 then [] else
    (List.range ((r.off + r.len - 1) / 64 - r.off / 64 + 1)).map (fun k => r.off / 64 + k))).dedup
  (List.range 32).foldl (fun a b => max a (ws.filter (fun w => w % 32 == b)).length) 0

/-- The gathers of the matrix unit and the copies of Caldera never delay a team's pass at the scratchpad banks, nor the
reverse (DEDUCED, log 41). -/
def gatherCycles (e : MEntry) : Nat :=
  max (bankCycles (aRanges e.desc (e.idx.take 64) ++ bRanges e.desc)) (bankCycles (aRanges e.desc (e.idx.drop 64)))

def runCycles (e : MEntry) : Nat := (if mdInt e.desc then 4 else 16) * mdKg e.desc

/-- Cycles of a transfer (R250). -/
def transferCycles (e : MEntry) : Nat :=
  match e.op with
  | .mzero => 16
  | .mload bf16 true => if bf16 then 32 else 64
  | .mdrain bf16 _ true => if bf16 then 32 else 64
  | _ => 0

/-- Change an entry, and its twin on the odd core. -/
def onEntry (s : State) (core : Nat) (e : MEntry) (f : MEntry → MEntry) : State :=
  (entryCores core e).foldl (fun s c => s.onCore c (fun k =>
    { k with matrix := k.matrix.map (fun x => if x.id = e.id then f x else x) })) s

/-- Give the array to the gathered entry of a core when it is free and the entry is the oldest that matches; a gathered
entry that cannot start when the array is free gives up its latches (R240, R246). -/
def tryArray (s : State) (core : Nat) : State :=
  match (s.core core).matrix.find? (fun e => e.stage == .gathered && !e.odd) with
  | none => s
  | some e =>
    if !(entryCores core e).all (arrayFree s) then s
    else
      let older := olderEntry s core e (fun c i x =>
        arrayOp x && !x.odd && x.stage == .waiting && versionNow s c x && !twinHeld s c i x)
      let busy := (entryCores core e).any (fun c => tileBusy s c e)
      if versionNow s core e && !older && !busy then
        (entryCores core e).foldl (fun s c => pmcCount s (.core c) 8
            (match s.team? e.sid with | some t => t.ctx | none => 0) (runCycles e))
          (onEntry s core e (fun x => { x with stage := .running (s.clock + runCycles e) }))
      else onEntry s core e (fun x => { x with stage := .waiting })

/-- Both cores a queue's array may share with its twin. -/
def tryArrays (s : State) (core : Nat) : State :=
  let b := core / 2 * 2
  tryArray (tryArray s b) (b + 1)

/-- MATRIX_ENTRY_START (R240): the oldest entry of a path that may start does. An array entry's gather begins; a transfer
runs, and an add-on-store to global memory takes its ticket (R252). -/
def execMatrixEntryStart (core i : Nat) (s : State) : Host.Outcome State Fault Refusal :=
  match (s.core core).matrix[i]? with
  | none => notDue "MATRIX_ENTRY_START"
  | some e =>
    if arrayOp e then
      if firstStart s core (canGather s core) == some i && !olderEntry s core e (canGather s) then
        .next (onEntry s core e (fun x => { x with stage := .gathering (s.clock + gatherCycles e) }))
      else notDue "MATRIX_ENTRY_START"
    else if firstStart s core (canTransfer s core) == some i then
      let takes := match e.op with | .mdrain _ add sp => add && !sp && e.ticket.isNone | _ => false
      let s1 := onEntry (clearPath s core) core e (fun x =>
        { x with stage := .running (s.clock + transferCycles e), ticket := if takes then some s.ticket else x.ticket })
      .next (if takes then { s1 with ticket := s1.ticket + 1 } else s1)
    else notDue "MATRIX_ENTRY_START"

/-- MATRIX_GATHER_DONE (R246). -/
def execMatrixGatherDone (core i : Nat) (s : State) : Host.Outcome State Fault Refusal :=
  match (s.core core).matrix[i]? with
  | none => notDue "MATRIX_GATHER_DONE"
  | some e =>
    match e.stage with
    | .gathering due =>
      if e.odd || decide (s.clock < due) then notDue "MATRIX_GATHER_DONE"
      else .next (tryArrays (onEntry s core e (fun x => { x with stage := .gathered })) core)
    | _ => notDue "MATRIX_GATHER_DONE"

/-! ## Completion -/

/-- Release the teams that wait for the value a counter takes (R258). -/
def wakeVersion (s : State) (core tile : Nat) (v : BitVec 16) : State :=
  { s with teams := s.teams.map (fun (x : Nat × Team) =>
      if x.2.coreId = core ∧ x.2.park = .version tile v.toNat then (x.1, { x.2 with mwaitHit := true }) else x) }

def advanceCounter (s : State) (core tile ver : Nat) : State :=
  let v := BitVec.ofNat 16 (ver + 1)
  wakeVersion (s.onCore core (fun c => { c with counters := Tab.set (0 : BitVec 16) c.counters tile v })) core tile v

/-- An operation completes: its entry leaves, the counter advances on every core concerned, its events are counted once
(R239, R247; 08 R158). -/
def completeEntry (s : State) (core : Nat) (e : MEntry) (ev : Events) : State :=
  let cs := entryCores core e
  let s1 := cs.foldl (fun s c => s.onCore c (fun k => { k with matrix := k.matrix.filter (fun x => x.id != e.id) })) s
  let s2 := cs.foldl (fun s c => advanceCounter s c e.tile e.ver) s1
  let s3 := match s2.team? e.sid with
    | some t => if t.key = e.tkey then countOnce s2 e.sid ev else s2
    | none => s2
  tryArrays s3.tick1 core

/-- The product of an `mma` or `mma2` into its tiles (R255). -/
def runProduct (s : State) (core : Nat) (t : Team) (e : MEntry) : State × Events :=
  let bs := bRows s core t.spadOff e
  (entryCores core e).foldl (fun (a : State × Events) c =>
    let idx := if c = core then e.idx.take 64 else e.idx.drop 64
    let own := match (s.core c).matrix.find? (fun x => x.id == e.id) with | some x => x | none => e
    let (xs, ev) := productTile s c e (aRows s c t.spadOff own idx) bs
    (setTile a.1 c e.tile xs, a.2 ||| ev)) (s, 0)

/-- A loaded element (R257): a NaN becomes the canonical one. -/
def loadElem (bf16 : Bool) (x : Nat) : FOut :=
  let f := if bf16 then bf16F else f32F
  let ev := f.srcEvents x
  if (f.val x).isNan then (f32F.nan, ev ||| evNan) else ((if bf16 then x * 65536 else x), ev)

/-- Replace a row of a tile. -/
def setTileRow (xs : List Lane) (i : Nat) (row : List Lane) : List Lane :=
  (List.range 4096).map (fun n => if n / 64 = i then row.getD (n % 64) 0 else xs.getD n 0)

/-- A row of a tile is loaded: an element whose bytes were written in flight is free (R244) and counts no event (DESIGN CHOICE,
log 113). -/
def loadRow (s : State) (core : Nat) (e : MEntry) (bf16 : Bool) (i : Nat) (bs : List Byte) (touched : Nat → Bool) : State × Events :=
  let os := (elems (tElem bf16) bs).map (loadElem bf16)
  let row := os.zipIdx.map (fun o => if touched o.2 then Config.freeLane s.fresh (core * 4096 + 64 * i + o.2) else BitVec.ofNat 32 o.1.1)
  (setTile s core e.tile (setTileRow (tileOf s core e.tile) i row),
    os.zipIdx.foldl (fun (ev : Events) o => if touched o.2 then ev else ev ||| o.1.2) 0)

/-- A drained element without `.add` (R251). -/
def drainElem (bf16 : Bool) (x : Nat) : FOut :=
  if bf16 then
    let o := f32F.convert bf16F .rne x
    (o.1, o.2 ||| f32F.srcEvents x)
  else (x, 0)

/-- An add-on-store of `a` to the stored element `m` (R251). -/
def addElem (bf16 : Bool) (m a : Nat) : FOut :=
  let f := if bf16 then bf16F else f32F
  let o := f.addV .rne (f.val m) (f32F.val a)
  (o.1, o.2 ||| f.srcEvents m ||| f32F.srcEvents a)

/-- The bytes a drain writes for `n` elements of row `i` from element `j` on, given those stored before. -/
def drainPart (s : State) (core : Nat) (e : MEntry) (bf16 add : Bool) (i j n : Nat) (before : List Byte) : List Byte × Events :=
  let olds := elems (tElem bf16) before
  let tile := tileOf s core e.tile
  let os := (List.range n).map (fun k =>
    let x := (tileElem tile i (j + k)).toNat
    if add then addElem bf16 (olds.getD k 0) x else drainElem bf16 x)
  (unElems (tElem bf16) (os.map Prod.fst), os.foldl (fun (ev : Events) o => ev ||| o.2) 0)

/-- The bytes a drain writes for one row, given those stored before. -/
def drainRow (s : State) (core : Nat) (e : MEntry) (bf16 add : Bool) (i : Nat) (before : List Byte) : List Byte × Events :=
  drainPart s core e bf16 add i 0 64 before

/-- A `.spad` transfer, or `mzero`, in full. An add-on-store's reads, adds and writes are indivisible with respect to atomics and
other add-on-stores: only other writes leave its bytes unpredictable (R244, R251). -/
def runLocal (s : State) (core : Nat) (t : Team) (e : MEntry) : State × Events :=
  match e.op with
  | .mzero => (setTile s core e.tile [], 0)
  | .mload bf16 _ =>
    (List.range 64).foldl (fun (a : State × Events) i =>
      let off := t.spadOff + tRow e.desc i
      let el := tElem bf16
      let r := loadRow a.1 core e bf16 i (opBytes s core e off (64 * el)) (fun j => wasTouched e.touched (off + j * el) el)
      (r.1, a.2 ||| r.2)) (s, 0)
  | .mdrain bf16 add _ =>
    (List.range 64).foldl (fun (a : State × Events) i =>
      let off := t.spadOff + tRow e.desc i
      let n := 64 * tElem bf16
      let r := drainRow s core e bf16 add i (spadRead a.1 core off n)
      let bs := r.1.zipIdx.map (fun b => if wasTouched (if add then e.rewrote else e.touched) (off + b.2) 1 then Config.freeByte s.fresh (off + b.2) else b.1)
      (spadWrite a.1 core off bs (.matrix add), a.2 ||| r.2)) (s, 0)
  | _ => (s, 0)

/-! ## Global transfers (R252-R254) -/

/-- Read a row at the homes, as strong loads at device scope (R253). -/
def readStrong (s : State) (a : Access) (va n : Nat) : State × Except Missing (List Byte) :=
  (rangeLines va n).foldl (fun (acc : State × Except Missing (List Byte)) lm =>
    match acc with
    | (s, .error e) => (s, .error e)
    | (s, .ok bs) =>
      match loadHome s a lm.1 lm.2 with
      | (s1, .error f) => (s1, .error { va := BitVec.ofNat 64 (max va (lm.1 * 64)), fail := f })
      | (s1, .ok d) => (s1, .ok (bs ++ (setBits lm.2).map (lineByte d)))) (s, .ok [])

/-- The row that a drain begins can be written, and that of an add-on-store be read, whole: a row beyond a fault is neither read nor
written (R254). -/
def rowOpen (s : State) (t : Team) (a : Access) (e : MEntry) : State × Except Missing Unit :=
  let va := rowAt e e.row
  if e.seg != 0 then (s, .ok ())
  else match sealedIn s t.ctx va (rowLen e) with
    | some v => (s, .error { va := BitVec.ofNat 64 v, fail := .hard Cause.sealWrite })
    | none =>
      match grantRange s t.ctx va (rowLen e) with
      | (s1, .error m) => (s1, .error m)
      | (s1, .ok ()) =>
        if !addsOn e then (s1, .ok ())
        else match readStrong s1 a va (rowLen e) with
          | (s2, .error m) => (s2, .error m)
          | (s2, .ok _) => (s2, .ok ())

/-- The bytes of a line after the pieces of some rows have been drained into it, with the events. -/
def drainPieces (s : State) (core : Nat) (e : MEntry) (bf16 add : Bool) (line : Nat) (d : LineData) (ps : List (Nat × Nat × Nat)) :
    LineData × Events :=
  ps.foldl (fun (x : LineData × Events) p =>
    let off := p.2.1 - line * 64
    let before := (List.range p.2.2).map (fun k => lineByte x.1 (off + k))
    let r := drainPart s core e bf16 add p.1 ((p.2.1 - rowAt e p.1) / tElem bf16) (p.2.2 / tElem bf16) before
    (mergeLine (byteRange off p.2.2) (placeBytes p.2.1 line (byteRange off p.2.2) r.1) x.1, x.2 ||| r.2)) (d, 0)

/-- A drain writes its bytes of a line at the home, in one step (R251, R252). -/
def drainLine (s : State) (core : Nat) (t : Team) (a : Access) (e : MEntry) (bf16 add : Bool) (line : Nat) : State × Except Missing Events :=
  let ps := linePieces e e.row line
  let mask := ps.foldl (fun (m : ByteMask) p => m ||| byteRange (p.2.1 - line * 64) p.2.2) 0
  let at_ := BitVec.ofNat 64 (max (rowAt e e.row) (line * 64))
  match (if add then loadHome s a line mask else (s, .ok 0)) with
  | (s1, .error f) => (s1, .error { va := at_, fail := f })
  | (s1, .ok d) =>
    let r := drainPieces s1 core e bf16 add line d ps
    if sealedAt s1 t.ctx (line * 64) then (s1, .error { va := at_, fail := .hard Cause.sealWrite })
    else match homeWrite s1 (unitOf (line * 64)) t.ctx line mask r.1 with
      | (s2, .error f) => (s2, .error { va := at_, fail := f })
      | (s2, .ok ()) =>
        (ps.foldl (fun s p => foldAccess s t p.2.1 p.2.2 add true) (updateL1 s2 core t.ctx line mask r.1), .ok r.2)

/-- An entry when its next line is done. -/
def MEntry.advance (e : MEntry) (ev : Events) (part : List Byte) : MEntry :=
  let last := decide ((rowLines e e.row).length ≤ e.seg + 1)
  { e with row := if last then e.row + 1 else e.row, seg := if last then 0 else e.seg + 1, part := if last then [] else part,
           events := e.events ||| ev, served := [] }

/-- The next line of a global transfer (DESIGN CHOICE, log 38). A row that is loaded reaches the tile with the last of its lines. -/
def transferLine (s : State) (core : Nat) (t : Team) (e : MEntry) : State × Except Missing MEntry :=
  let a : Access := { sid := e.sid, core := core, ctx := t.ctx, scope := .device, pol := false }
  match (rowParts e e.row)[e.seg]? with
  | none => (s, .ok (e.advance 0 []))
  | some lm =>
    match e.op with
    | .mload bf16 _ =>
      let lo := max (rowAt e e.row) (lm.1 * 64)
      match loadHome s a lm.1 lm.2 with
      | (s1, .error f) => (s1, .error { va := BitVec.ofNat 64 lo, fail := f })
      | (s1, .ok d) =>
        let s2 := foldAccess s1 t lo (popCount lm.2) true false
        let part := e.part ++ (setBits lm.2).map (lineByte d)
        if (rowLines e e.row).length ≤ e.seg + 1 then
          let r := loadRow s2 core e bf16 e.row part (fun _ => false)
          (r.1, .ok (e.advance r.2 []))
        else (s2, .ok (e.advance 0 part))
    | .mdrain bf16 add _ =>
      if lineDone e e.row lm.1 then (s, .ok (e.advance 0 []))
      else match rowOpen s t a e with
        | (s1, .error m) => (s1, .error m)
        | (s1, .ok ()) =>
          match drainLine s1 core t a e bf16 add lm.1 with
          | (s2, .error m) => (s2, .error m)
          | (s2, .ok ev) => (s2, .ok (e.advance ev []))
    | _ => (s, .ok (e.advance 0 []))

/-- Does a window hold the next line of a global transfer (17 R296, R298, R299), or a peer's link its row (21 R338, R339)? -/
def transferHeld (s : State) (t : Team) (e : MEntry) : Bool :=
  let out := match e.op with | .mdrain .. => true | _ => false
  isGlobal e && (!s.windows.isEmpty || linksBusy s) && (match nextLine e with
    | none => false
    | some l => (linePieces e e.row l).any (fun p => held s t p.2.1 p.2.2 out)
        || linesHeld { s with current := some e.sid } t.ctx (rowLines e e.row) (if out then .write else .read))

/-- Is a running entry's work due? -/
def opDue (s : State) (core : Nat) (t : Team) (e : MEntry) : Bool :=
  (match e.stage with | .running due => decide (due ≤ s.clock) | _ => false) && !e.odd && !ticketHeld s e
    && !transferHeld s t e && decide (core = t.coreId)

/-- The next line of a global transfer, for its team (21 R350). -/
def transferStep (s : State) (core : Nat) (t : Team) (e : MEntry) : State × Except Missing MEntry :=
  let r := transferLine { s with current := some e.sid } core t e
  ({ r.1 with current := s.current }, r.2)

/-- MATRIX_OP_COMPLETE (R239): the operation's effect, and its counter. A global transfer does its next line, and with the last of
them it completes. -/
def execMatrixOpComplete (core i : Nat) (s : State) : Host.Outcome State Fault Refusal :=
  match (s.core core).matrix[i]? with
  | none => notDue "MATRIX_OP_COMPLETE"
  | some e =>
    match s.team? e.sid with
    | none => notDue "MATRIX_OP_COMPLETE"
    | some t =>
      if !opDue s core t e then notDue "MATRIX_OP_COMPLETE"
      else if arrayOp e then let r := runProduct s core t e; .next (completeEntry r.1 core e r.2)
      else if isGlobal e then
        match transferStep s core t e with
        | (s1, .ok e1) =>
          .next (if 64 ≤ e1.row then completeEntry s1 core e e1.events
            else onEntry s1 core e (fun x => { x with row := e1.row, seg := e1.seg, part := e1.part, events := e1.events, served := [] }))
        | _ => notDue "MATRIX_OP_COMPLETE"
      else let r := runLocal s core t e; .next (completeEntry r.1 core e r.2)

/-- The transfer ends on a fault: the counter still advances and the team traps (R254). -/
def failTransfer (s : State) (core : Nat) (e : MEntry) (ev : Events) (c : BitVec 9) (va : Word) : State :=
  raiseEngineTrap (completeEntry s core e ev) e.sid e.tkey c va

/-- TRANSFER_FAULT (R254; 11 R226, R227): the lines before the fault are done; the transfer parks until the host serves
the page, or ends. -/
def execTransferFault (core i : Nat) (s : State) : Host.Outcome State Fault Refusal :=
  match (s.core core).matrix[i]? with
  | none => notDue "TRANSFER_FAULT"
  | some e =>
    match s.team? e.sid with
    | none => notDue "TRANSFER_FAULT"
    | some t =>
      if !opDue s core t e || !isGlobal e then notDue "TRANSFER_FAULT"
      else match transferStep s core t e with
        | (_, .ok _) => notDue "TRANSFER_FAULT"
        | (s1, .error m) =>
          match m.fail with
          | .hard c => .next (failTransfer s1 core e e.events c m.va)
          | .absent prot =>
            if 2 ≤ Tab.get 0 e.served (m.va.toNat / 4096) then
              .next (failTransfer s1 core e e.events (if prot then Cause.accessViolation else Cause.pageFault) m.va)
            else
              let wr := match e.op with | .mdrain .. => true | _ => false
              let s2 := onEntry s1 core e (fun x => { x with stage := .parked (m.va.toNat / 4096) })
              .next (askPage s2 (.transfer core e.id) t.ctx m.va.toNat wr false (unitOf m.va.toNat))

end Sys2Proof.Machine
end

