-- ==== Sys2Proof/Machine/Vent.lean ====
section
/-! DEFINITION. Vents: an attempt's accesses, the entry library and the micro-words, sections and their commit, and the vent
instructions (17 R288-R310). -/

namespace Sys2Proof.Machine

/-! ## An attempt's accesses (R288, R292, R293, R295) -/

/-- Why a call stops. -/
inductive VStop where
  | miss (m : Missing) (write : Bool)
  | cause (c : BitVec 9)
  | full                        -- a 257th buffer line (R298)
  deriving DecidableEq, Repr

/-- What a call does to the machine and to its attempt. -/
abbrev VAct (α : Type) := State × VentRun → (State × VentRun) × Except VStop α

def vPure {α : Type} (x : α) : VAct α := fun p => (p, .ok x)
def vStop {α : Type} (e : VStop) : VAct α := fun p => (p, .error e)
def vBind {α β : Type} (a : VAct α) (f : α → VAct β) : VAct β := fun p =>
  match a p with
  | (q, .error e) => (q, .error e)
  | (q, .ok x) => f x q
def vThen {β : Type} (a : VAct Unit) (b : VAct β) : VAct β := vBind a (fun _ => b)
/-- An action for each element, in order. -/
def vEach {α : Type} : List α → (α → VAct Unit) → VAct Unit
  | [], _ => vPure ()
  | x :: r, f => vThen (f x) (vEach r f)
/-- Carry a value through an action for `n` indices from `i` on, in order. -/
def vCount {β : Type} : Nat → Nat → β → (β → Nat → VAct β) → VAct β
  | 0, _, b, _ => vPure b
  | n + 1, i, b, f => vBind (f b i) (fun c => vCount n (i + 1) c f)
/-- An action for `n` indices from `i` on, in order. -/
def vTimes : Nat → Nat → (Nat → VAct Unit) → VAct Unit
  | 0, _, _ => vPure ()
  | n + 1, i, f => vBind (f i) (fun _ => vTimes n (i + 1) f)

/-- Translate at the vent's own unit; the access must resolve to device memory of the vent's stack. -/
def vPlace (w : Window) (va : Nat) (k : Kind) : VAct Nat := fun (s, r) =>
  let a := BitVec.ofNat 64 va
  if !canonical a then ((s, r), .error (.cause Cause.noncanonical))
  else match translate s w.vent w.ctx a k with
    | (s1, .error (.absent p)) => ((s1, r), .error (.miss { va := a, fail := .absent p } (k == .write)))
    | (s1, .error (.hard c)) => ((s1, r), .error (.cause c))
    | (s1, .ok tr) =>
      let pa := lineAt tr (va / 64)
      match tr.peer, dpaOf s1 pa with
      | none, some d => if d / Config.stackBytes = w.vent / 32 then ((s1, r), .ok pa) else ((s1, r), .error (.cause Cause.nmRemote))
      | _, _ => ((s1, r), .error (.cause Cause.nmRemote))

/-- An access of the call, made once: a call that went on after a page request takes up again what its earlier accesses gave (R300). -/
def vOnce (a : VAct (List Byte)) : VAct (List Byte) := fun (s, r) =>
  match r.todo with
  | bs :: rest => ((s, { r with todo := rest }), .ok bs)
  | [] =>
    match a (s, r) with
    | ((s1, r1), .ok bs) => ((s1, { r1 with got := r1.got ++ [bs] }), .ok bs)
    | x => x

/-- Read `n` bytes within one line: the attempt's own writes over memory. -/
def vReadLine (w : Window) (va n : Nat) : VAct (List Byte) := vOnce (
  vBind (vPlace w va .read) (fun pa (s, r) =>
    let key := physKey s pa
    let need := byteRange (va % 64) n
    let (own, data) := match r.buffer.find? (fun l => l.line == va / 64) with
      | some l => (l.mask, mergeLine l.mask l.data (keyLine s key))
      | none => ((0 : ByteMask), keyLine s key)
    if poisonedKey s key && need &&& ~~~ own != 0 then ((s, r), .error (.cause Cause.poison))
    else ((s, { r with rv := r.rv ||| w.fold va n }), .ok ((setBits need).map (lineByte data)))))

/-- Read a byte range. -/
def vRead (w : Window) (va n : Nat) : VAct (List Byte) :=
  vCount ((va % 64 + n + 63) / 64) 0 [] (fun (bs : List Byte) k =>
    let from_ := max va ((va / 64 + k) * 64)
    let to_ := min (va + n) ((va / 64 + k + 1) * 64)
    vBind (vReadLine w from_ (to_ - from_)) (fun x => vPure (bs ++ x)))

/-- A vent's line reaches memory: the homes' dirty bytes first, then the vent's; every home copy goes, and regions that
track the line abort (R297; 11 R234; 19 R324). -/
def ventDrain (ctx : Nat) (s : State) (l : VentLine) : State :=
  let s1 := purgePa (externalPa (externalWrite s ctx l.line) l.pa) l.pa
  keyWrite s1 (physKey s1 l.pa) l.mask l.data

/-- A buffered line is written straight to memory: under a translation that holds now, and not into a range sealed meanwhile (10
R210). -/
def vDrain (w : Window) (x : VentLine) : VAct Unit :=
  vBind (vPlace w (x.line * 64) .write) (fun pa (s, r) =>
    if sealedAt s w.ctx (x.line * 64) then ((s, r), .error (.cause Cause.sealWrite))
    else ((ventDrain w.ctx s { x with pa := pa },
      { r with buffer := r.buffer.filter (fun l => l.line != x.line), wrote := (r.wrote ++ [x.line]).dedup }), .ok ()))

/-- An escalated attempt that needs a 257th line writes its lines straight to memory from then on (R298). -/
def goDirect (w : Window) : VAct Unit := fun (s, r) => vEach r.buffer (vDrain w) (s, { r with direct := true })

/-- Put bytes into the buffer, or into memory. -/
def vPut (w : Window) (x : VentLine) : VAct Unit := fun (s, r) =>
  if r.direct then vThen (goDirect w) (vDrain w x) (s, r)
  else if r.buffer.any (fun l => l.line == x.line) then
    ((s, { r with buffer := r.buffer.map (fun l => if l.line = x.line then
        { l with mask := l.mask ||| x.mask, data := mergeLine x.mask x.data l.data } else l) }), .ok ())
  else if r.buffer.length < 256 then ((s, { r with buffer := r.buffer ++ [x] }), .ok ())
  else if r.escalated then vThen (goDirect w) (vDrain w x) (s, r)
  else ((s, r), .error .full)

/-- Write bytes of one line. -/
def vWriteLine (w : Window) (va : Nat) (mask : ByteMask) (data : LineData) : VAct Unit := vBind (vOnce (vThen (
  vBind (vPlace w va .write) (fun pa (s, r) =>
    if sealedAt s w.ctx va then ((s, r), .error (.cause Cause.sealWrite))
    else vPut w { line := va / 64, pa := pa, mask := mask, data := data }
      (s, { r with wv := (setBits mask).foldl (fun m i => m ||| w.fold (va / 64 * 64 + i) 1) r.wv })))
  (vPure []))) (fun _ => vPure ())

/-- Write a byte range. -/
def vWrite (w : Window) (va : Nat) (bs : List Byte) : VAct Unit :=
  vEach (rangeLines va bs.length) (fun lm => vWriteLine w (max va (lm.1 * 64)) lm.2 (placeBytes va lm.1 lm.2 bs))

/-- A 32-bit element; its address is a multiple of four (R308). -/
def vLoad (w : Window) (va : Nat) : VAct Nat :=
  let a := va % 2 ^ 64
  if a % 4 ≠ 0 then vStop (.cause Cause.misaligned) else vBind (vRead w a 4) (fun bs => vPure (leNat bs))
def vStore (w : Window) (va x : Nat) : VAct Unit :=
  let a := va % 2 ^ 64
  if a % 4 ≠ 0 then vStop (.cause Cause.misaligned) else vWrite w a (leBytes 4 x)

/-- Note the events of a float result. -/
def vFloat (o : FOut) : VAct Nat := fun (s, r) => ((s, { r with events := r.events ||| o.2 }), .ok o.1)

/-! ## The entry library (R308) -/

def fSrc (xs : List Nat) (o : FOut) : FOut := (o.1, xs.foldl (fun (e : Events) x => e ||| f32F.srcEvents x) o.2)
def fAdd (a b : Nat) : FOut := fSrc [a, b] (f32F.addV .rne (f32F.val a) (f32F.val b))
def fMul (a b : Nat) : FOut := fSrc [a, b] (f32F.mulOut .rne (f32F.val a) (f32F.val b))
def fFma (a b c : Nat) : FOut := fSrc [a, b, c] (f32F.fmaOut .rne (f32F.val a) (f32F.val b) (f32F.val c))
def fDiv (a b : Nat) : FOut := fSrc [a, b] (f32F.divOut .rne (f32F.val a) (f32F.val b))
def fSqrt (a : Nat) : FOut := fSrc [a] (f32F.sqrtOut .rne (f32F.val a))
def fNeg (a : Nat) : Nat := (a + 2 ^ 31) % 2 ^ 32
def fOne : Nat := 0x3F800000

def lo32 (x : Word) : Nat := (x.extractLsb' 0 32).toNat
def hi32 (x : Word) : Nat := (x.extractLsb' 32 32).toNat

/-- The effect of an entry of firmware release 3 (DESIGN CHOICE, log 50). -/
def libraryCall (w : Window) (entry : Nat) (args : List Word) : VAct Unit :=
  let a (i : Nat) : Nat := (args.getD i 0).toNat
  let q (i : Nat) : Word := args.getD i 0
  match entry with
  | 0 => vTimes (a 1) 0 (fun i => vStore w (a 0 + 4 * i) (lo32 (q 2)))
  | 1 => if a 2 = 0 then vPure () else vBind (vRead w (a 1) (a 2)) (fun bs => vWrite w (a 0) bs)
  | 2 => vTimes (a 2) 0 (fun i =>
      vBind (vLoad w (a 1 + 4 * i)) (fun x => vStore w (a 0 + 4 * i) (x * lo32 (q 3) % 2 ^ 32)))
  | 3 => vTimes (a 2) 0 (fun i =>
      vBind (vLoad w (a 1 + 4 * i)) (fun x => vBind (vLoad w (a 0 + 4 * i)) (fun y =>
        vBind (vFloat (fFma (lo32 (q 3)) x y)) (fun z => vStore w (a 0 + 4 * i) z))))
  | 4 => vTimes (a 2) 0 (fun i =>
      let wAt := a 0 + 4 * i
      let hAt := a 0 + 4 * (a 2 + i)
      vBind (vLoad w (a 1 + 4 * i)) (fun g => vBind (vLoad w hAt) (fun h => vBind (vLoad w wAt) (fun x =>
        vBind (vFloat (fFma g g h)) (fun h1 => vBind (vFloat (fSqrt h1)) (fun r =>
          vBind (vFloat (fAdd r (hi32 (q 3)))) (fun d => vBind (vFloat (fDiv g d)) (fun u =>
            vBind (vFloat (fFma (fNeg (lo32 (q 3))) u x)) (fun x1 =>
              vThen (vStore w hAt h1) (vStore w wAt x1))))))))))
  | 5 =>
    let b1 := lo32 (q 4)
    let b2 := hi32 (q 4)
    vBind (vFloat (fAdd fOne (fNeg b1))) (fun o1 => vBind (vFloat (fAdd fOne (fNeg b2))) (fun o2 =>
      vTimes (a 2) 0 (fun i =>
        let wAt := a 0 + 4 * i
        let mAt := a 0 + 4 * (a 2 + i)
        let vAt := a 0 + 4 * (2 * a 2 + i)
        vBind (vLoad w (a 1 + 4 * i)) (fun g => vBind (vLoad w mAt) (fun m => vBind (vLoad w vAt) (fun v =>
          vBind (vLoad w wAt) (fun x =>
            vBind (vFloat (fMul o1 g)) (fun og => vBind (vFloat (fFma b1 m og)) (fun m1 =>
              vBind (vFloat (fMul g g)) (fun gg => vBind (vFloat (fMul o2 gg)) (fun ogg =>
                vBind (vFloat (fFma b2 v ogg)) (fun v1 => vBind (vFloat (fMul v1 (hi32 (q 5)))) (fun vc =>
                  vBind (vFloat (fSqrt vc)) (fun r => vBind (vFloat (fAdd r (hi32 (q 3)))) (fun d =>
                    vBind (vFloat (fMul m1 (lo32 (q 5)))) (fun mc => vBind (vFloat (fDiv mc d)) (fun u =>
                      vBind (vFloat (fFma (fNeg (lo32 (q 3))) u x)) (fun x1 =>
                        vThen (vStore w mAt m1) (vThen (vStore w vAt v1) (vStore w wAt x1))))))))))))))))))))
  | 6 => vTimes (a 4) 0 (fun j =>
      vBind (vCount (a 3) 0 0 (fun sum i =>
        vBind (vLoad w (a 2 + 4 * i)) (fun idx => vBind (vLoad w (a 1 + idx * a 5 + 4 * j)) (fun x => vFloat (fAdd sum x)))))
        (fun sum => vStore w (a 0 + 4 * j) sum))
  | 7 => vTimes (a 2) 0 (fun i =>
      vBind (vLoad w (a 1 + 4 * i)) (fun x =>
        let b := x / 2 ^ ((q 3).extractLsb' 0 5).toNat
        if b < hi32 (q 3) then vBind (vLoad w (a 0 + 4 * b)) (fun n => vStore w (a 0 + 4 * b) ((n + 1) % 2 ^ 32)) else vPure ()))
  | _ => vStop (.cause Cause.nmEntry)

/-! ## Micro-words (R309) -/

/-- A call's registers while its micro-words run. -/
structure Micro where
  m    : List Word
  b    : List (LineData × BitVec 16)
  lc   : Word
  flag : Bool
  at_  : Nat

def mwNext (u : BitVec 128) : Nat := (u.extractLsb' 120 8).toNat
def mwSeq (u : BitVec 128) : Nat := (u.extractLsb' 117 3).toNat
def mwMem (u : BitVec 128) : Nat := (u.extractLsb' 115 2).toNat
def mwMa (u : BitVec 128) : Nat := (u.extractLsb' 111 4).toNat
def mwLd (u : BitVec 128) : Nat := (u.extractLsb' 108 3).toNat
def mwLs1 (u : BitVec 128) : Nat := (u.extractLsb' 105 3).toNat
def mwLs2 (u : BitVec 128) : Nat := (u.extractLsb' 102 3).toNat
def mwVop (u : BitVec 128) : Nat := (u.extractLsb' 97 5).toNat
def mwSop (u : BitVec 128) : Nat := (u.extractLsb' 93 4).toNat
def mwSd (u : BitVec 128) : Nat := (u.extractLsb' 89 4).toNat
def mwSa (u : BitVec 128) : Nat := (u.extractLsb' 85 4).toNat
def mwImm (u : BitVec 128) : Word := (u.extractLsb' 69 16).signExtend 64
def mwMask (u : BitVec 128) : BitVec 16 := u.extractLsb' 53 16

def Micro.mr (x : Micro) (k : Nat) : Word := x.m.getD k 0
def Micro.br (x : Micro) (k : Nat) : LineData × BitVec 16 := x.b.getD k (0, 0)
def Micro.lane (x : Micro) (k l : Nat) : Nat := ((x.br k).1.extractLsb' (32 * l) 32).toNat

/-- Bytes of the valid lanes of a line register. -/
def laneBytes (k : BitVec 16) : ByteMask :=
  BitVec.ofNat 64 ((List.range 16).foldl (fun a l => if k.getLsbD l then a + 15 * 2 ^ (4 * l) else a) 0)

/-- The memory part of a micro-word. After a read, which lanes of the register count as valid is not stated: free, drawn anew at each
place of the call (DEDUCED, log 48). -/
def microMem (w : Window) (u : BitVec 128) (x : Micro) : VAct Micro :=
  let a := (x.mr (mwMa u)).toNat
  match mwMem u with
  | 1 => if a % 64 ≠ 0 then vStop (.cause Cause.misaligned)
    else vBind (vRead w a 64) (fun bs (s, r) =>
      let k : BitVec 16 := BitVec.ofNat 16 (Config.freeLane r.seed (4401 + (r.got.length - r.todo.length))).toNat
      ((s, r), .ok { x with b := x.b.set (mwLd u) (lineOf bs, k) }))
  | 2 => if a % 64 ≠ 0 then vStop (.cause Cause.misaligned)
    else
      let k := laneBytes (x.br (mwLs1 u)).2
      if k = 0 then vPure x else vThen (vWriteLine w a k (x.br (mwLs1 u)).1) (vPure x)
  | 3 => vBind (vLoad w a) (fun n => vPure { x with m := x.m.set (mwSd u) (BitVec.ofNat 64 n) })
  | _ => vPure x

/-- One lane of the vector part. -/
def microLane (u : BitVec 128) (x : Micro) (l : Nat) : FOut :=
  let a := x.lane (mwLs1 u) l
  let b := x.lane (mwLs2 u) l
  match mwVop u with
  | 1 => ((a + b) % 2 ^ 32, 0)
  | 2 => (a * b % 2 ^ 32, 0)
  | 3 => fAdd a b
  | 4 => fMul a b
  | 5 => fFma a b (x.lane (mwLd u) l)
  | 6 => fDiv a b
  | 7 => fSqrt a
  | 8 => (a, 0)
  | 9 => (lo32 (x.mr (mwSa u)), 0)
  | _ => (a / 2 ^ min (x.mr (mwSa u)).toNat 32, 0)

/-- The vector part: the lanes of BMASK are written and marked valid. -/
def microVec (fev : Bool) (u : BitVec 128) (x : Micro) : VAct Micro :=
  if mwVop u = 0 then vPure x
  else if 10 < mwVop u then vStop (.cause Cause.nmEntry)
  else fun (s, r) =>
    let k := mwMask u
    let os := (List.range 16).map (fun l => if k.getLsbD l then microLane u x l else (x.lane (mwLd u) l, (0 : Events)))
    let data : LineData := BitVec.ofNat 512 (os.zipIdx.foldl (fun a o => a + o.1.1 * 2 ^ (32 * o.2)) 0)
    let ev := os.foldl (fun (e : Events) o => e ||| o.2) 0
    ((s, if fev then { r with events := r.events ||| ev } else r), .ok { x with b := x.b.set (mwLd u) (data, k) })

/-- The scalar part. -/
def microSca (u : BitVec 128) (x : Micro) : Except VStop Micro :=
  let d := x.mr (mwSd u)
  let a := if mwSa u = 15 then mwImm u else x.mr (mwSa u)
  let put (v : Word) : Except VStop Micro := .ok { x with m := x.m.set (mwSd u) v }
  match mwSop u with
  | 0 => .ok x
  | 1 => put (d + a)
  | 2 => put (d - a)
  | 3 => put (d <<< a.toNat)
  | 4 => put (d >>> a.toNat)
  | 5 => put (d &&& a)
  | 6 => put (mwImm u)
  | 7 => .ok { x with flag := x.mr (mwSa u) != d }
  | 8 => .ok { x with lc := x.mr (mwSa u) }
  | _ => .error (.cause Cause.nmEntry)

/-- Run micro-words: at most as many as the fuel (R309) (DEDUCED, log 48). -/
def microRun (w : Window) (store : Tab (BitVec 128)) (fev : Bool) : Nat → Micro → VAct Unit
  | 0, _ => vStop (.cause Cause.nmEntry)
  | k + 1, x =>
    let u := Tab.get 0 store x.at_
    if 5 ≤ mwSeq u then vStop (.cause Cause.nmEntry)
    else
      vBind (microMem w u x) (fun x1 => vBind (microVec fev u x1) (fun x2 =>
        match microSca u x2 with
        | .error e => vStop e
        | .ok x3 => vBind (vOnce (fun (s, r) => ((pmcCount s (.vent w.vent) 67 w.ctx 1, r), .ok [])))
          (fun _ => match mwSeq u with
          | 4 => vPure ()
          | 1 => microRun w store fev k { x3 with at_ := mwNext u }
          | 2 =>
            let lc := x3.lc - 1
            microRun w store fev k { x3 with lc := lc, at_ := if lc ≠ 0 then mwNext u else (x3.at_ + 1) % 256 }
          | 3 => microRun w store fev k { x3 with at_ := if x3.flag then mwNext u else (x3.at_ + 1) % 256 }
          | _ => microRun w store fev k { x3 with at_ := (x3.at_ + 1) % 256 })))

/-- A call of a loaded control store. What the line registers, LC and FLAG hold at its start is not stated: free
(DESIGN CHOICE, log 49). -/
def microCall (v : Vent) (w : Window) (entry : Nat) (args : List Word) : VAct Unit := fun (s, r) =>
  let e := Tab.get 0 v.table entry
  if 64 ≤ entry ∨ !e.getLsbD 63 then ((s, r), .error (.cause Cause.nmEntry))
  else
    let line (k : Nat) : LineData × BitVec 16 :=
      (BitVec.ofNat 512 ((List.range 16).foldl (fun a l => a + (Config.freeLane r.seed (16 * k + l)).toNat * 2 ^ (32 * l)) 0),
       BitVec.ofNat 16 (Config.freeLane r.seed (128 + k)).toNat)
    microRun w v.store (e.getLsbD 2) (2 ^ 20)
      { m := (args.take 6) ++ List.replicate (16 - (args.take 6).length) 0, b := (List.range 8).map line,
        lc := (Config.freeLane r.seed 136) ++ (Config.freeLane r.seed 137), flag := Config.freeBit r.seed 4402 0,
        at_ := (e.extractLsb' 40 8).toNat } (s, r)

/-- Count the micro-words of a call to the library: when it ends, and where it stops and does not go on (DEDUCED, log 51). -/
def countWords (w : Window) (a : VAct Unit) : VAct Unit := fun p =>
  match a p with
  | ((s, r), .ok ()) => ((pmcCount s (.vent w.vent) 67 w.ctx (Config.choice r.seed), r), .ok ())
  | ((s, r), .error e) =>
    let goesOn := match e with | .miss .. => r.escalated | _ => false
    ((if goesOn then s else pmcCount s (.vent w.vent) 67 w.ctx (Config.choice (r.seed + 1)), r), .error e)

/-- Run one call of an attempt, from its start or from where a page request stopped it (R300): what it has done by then is not done
again. How many micro-words a library entry takes is not stated: free (DEDUCED, log 51). -/
def runCall (v : Vent) (w : Window) (entry : Nat) (args : List Word) : VAct Unit := fun (s, r) =>
  let p : State × VentRun := if r.got.isEmpty then (s.tick1.tick1, { r with seed := s.fresh }) else (s, { r with todo := r.got })
  vThen (if v.library then countWords w (libraryCall w entry args) else microCall v w entry args)
    (fun (s, r) => ((s, { r with got := [], todo := [] }), .ok ())) p

/-! ## Sections (R295, R301) -/

def isCall : VentItem → Bool
  | .call .. => true
  | .commit .. => false

/-- The calls of a window's first section, and the `nmcommit` that closes it. -/
def secCalls (w : Window) : List VentItem := w.queue.takeWhile isCall
def secCommit (w : Window) : Option (CommitImm × Nat × Nat) :=
  match (w.queue.dropWhile isCall).head? with
  | some (.commit i reg tok) => some (i, reg, tok)
  | _ => none
/-- The calls after the last `nmcommit`. -/
def openCalls (w : Window) : Nat := (w.queue.reverse.takeWhile isCall).length

def statAdd (w : Window) (k n : Nat) : Window := { w with stat := Tab.set 0 w.stat k (Tab.get 0 w.stat k + n) }
def statSet (w : Window) (k n : Nat) : Window := { w with stat := Tab.set 0 w.stat k n }

/-- The commit token (R301). -/
def ventToken (cause : BitVec 9) (replays lines : Nat) : Word :=
  doneCause cause ||| (BitVec.ofNat 64 (replays % 64) <<< 48) ||| BitVec.ofNat 64 (lines % 2 ^ 32)

/-- A token reaches its team, or the saved image of a team that is not resident (R311). -/
def landVent (s : State) (w : Window) (reg tok : Nat) (v : Word) (acq : Bool) : State :=
  match s.teamByKey w.tkey with
  | some (sid, _) => (if acq then landAcquire else landToken) s sid w.tkey tok reg v
  | none => s.onCtx w.ctx (fun c => { c with saved := c.saved.map (fun x =>
      if x.team.key = w.tkey then { x with toks := x.toks ++ [(reg, v)] } else x) })

/-- The end of a window's first section: its token is written and its barrier decremented; CSR writes made meanwhile take
effect (R291, R301). -/
def endOne (s : State) (num : Nat) (cause : BitVec 9) (lines : Nat) : State :=
  match s.window? num with
  | none => s
  | some w =>
    match secCommit w with
    | none => s
    | some (i, reg, tok) =>
      let ok := cause == 0 || cause == Cause.nmEscalated
      let s1 := landVent s w reg tok (ventToken cause w.replays lines) ok
      let s2 := if i.count then sendHub s1 w.lid i.group.toNat (.current (-(i.bytes.toNat : Int))) else s1
      s2.onWindow num (fun w =>
        let w1 := { w with queue := (w.queue.dropWhile isCall).drop 1, replays := 0, consec := 0, escalate := false,
                           failed := none, newCsr := none }
        let w2 := match w.newCsr with
          | some (a, b, c) => { w1 with sigw := a, grain := b, esc := c }
          | none => w1
        if ok then statAdd w2 0 1 else w2)

/-- Empty sections at the head of a window's queue end after the earlier ones, with cause 0 and LINES 0 (R305)
(DEDUCED, log 47). -/
def endEmpties : Nat → State → Nat → State
  | 0, s, _ => s
  | k + 1, s, num =>
    match s.window? num with
    | some w => if (secCalls w).isEmpty && (secCommit w).isSome then endEmpties k (endOne s num 0 0) num else s
    | none => s

def endSection (s : State) (v : Nat) (num : Nat) (cause : BitVec 9) (lines : Nat) : State :=
  let s1 := endOne (s.onVent v (fun x => { x with run := none })) num cause lines
  endEmpties (match s1.window? num with | some w => w.queue.length | none => 0) s1 num

/-- A section fails: it ends with the cause, once its `nmcommit` has been issued (R300) (DEDUCED, log 47). -/
def failSection (s : State) (w : Window) (r : VentRun) (c : BitVec 9) : State :=
  match secCommit w with
  | some _ => endSection s w.vent w.num c r.wrote.length
  | none => (s.onVent w.vent (fun x => { x with run := none })).onWindow w.num (fun w => { w with failed := some (c, r.wrote.length) })

/-! ## Watching cores -/

/-- Cores whose slot for the window holds a set bit, or on which a team of the watching group is resident (R296). -/
def watchingCores (s : State) (w : Window) : List Nat :=
  ((s.cores.filter (fun c => let x := sigOf s c.1 w.num; x.1 != 0 || x.2 != 0)).map Prod.fst
    ++ (s.teams.filter (fun t => t.2.ctx == w.ctx && t.2.lid == w.lid && inGroup s w.lid w.group t.2.team)).map
      (fun t => t.2.coreId)).dedup

def inWindow (w : Window) (line : Nat) : Bool := lineIn w.base w.len line

/-- Dirty bytes of chosen lines of the range are written back to memory by the watching cores, through the homes, and by
the homes. -/
def flushWindow (s : State) (w : Window) (f : Nat → Bool) : State :=
  let cs := watchingCores s w
  let xs := s.l1.filter (fun x => x.ctx == w.ctx && cs.contains x.core && inWindow w x.line && f x.line)
  let s1 := xs.foldl (fun s x => writeBackLine s x.core x.ctx x.line) s
  (s1.homes.filter (fun h => h.ctx == w.ctx && inWindow w h.line && f h.line)).foldl cleanHome s1

/-- Each core's Wc becomes the fold of the lines of the range that it still holds dirty (R297): of every core with such lines. -/
def refoldDirty (s : State) (w : Window) : State :=
  let mine := s.l1.filter (fun x => x.ctx == w.ctx && x.dirty != 0 && inWindow w x.line)
  ((watchingCores s w ++ mine.map (fun x => x.core)).dedup).foldl (fun s c =>
    setSig s c w.num ((sigOf s c w.num).1,
      (mine.filter (fun x => x.core == c)).foldl (fun (m : BitVec 1024) x => m ||| w.fold (x.line * 64) 64) 0)) s

def clearSigs (s : State) (w : Window) (rd : Bool) : State :=
  (watchingCores s w).foldl (fun s c => setSig s c w.num (if rd then 0 else (sigOf s c w.num).1, 0)) s

/-- Watching cores invalidate the clean bytes of their lines that hit Wv (R297). -/
def dropHits (s : State) (w : Window) (wv : BitVec 1024) : State :=
  let cs := watchingCores s w
  let hit (core ctx line : Nat) : Bool := ctx == w.ctx && cs.contains core && inWindow w line && w.hits wv line
  { s with l1 := s.l1.map (fun x => if hit x.core x.ctx x.line then { x with valid := x.dirty } else x)
           fills := s.fills.filter (fun f => f.homeOnly || !hit f.core f.ctx f.line) }

/-! ## The steps of a vent -/

def freshRun (num : Nat) : VentRun :=
  { win := num, calls := 0, rv := 0, wv := 0, buffer := [], escalated := false, direct := false, wrote := [], hold := false,
    events := 0, waiting := none, served := [], got := [], todo := [], seed := 0 }

/-- The window whose section's first call arrived first among those of a vent (R295). -/
def nextSection (s : State) (v : Nat) : Option Window :=
  let first (w : Window) : Option Nat := match w.queue.head? with | some (.call n _ _) => some n | _ => none
  (s.windows.filter (fun w => w.vent == v && w.failed.isNone && (first w).isSome)).foldl (fun (a : Option Window) w =>
    match a with
    | none => some w
    | some b => if (first w).getD 0 < (first b).getD 0 then some w else some b) none

/-- VENT_ATTEMPT_START (R295, R298). -/
def execVentAttemptStart (v : Nat) (s : State) : Host.Outcome State Fault Refusal :=
  match (s.vent v).run, nextSection s v with
  | none, some w =>
    if w.escalate then
      let s1 := clearSigs (flushWindow s w (fun _ => true)) w false
      let s2 := pmcCount (s1.onWindow w.num (fun w => statAdd w 2 1)) (.vent v) 66 w.ctx 1
      .next (s2.onVent v (fun x => { x with run := some { freshRun w.num with escalated := true } }))
    else .next (s.onVent v (fun x => { x with run := some (freshRun w.num) }))
  | _, _ => notDue "VENT_ATTEMPT_START"

/-- The call an attempt runs next. -/
def nextCall (s : State) (v : Nat) : Option (Window × VentRun × Nat × List Word) :=
  match (s.vent v).run with
  | none => none
  | some r =>
    match s.window? r.win with
    | none => none
    | some w =>
      if r.hold || r.waiting.isSome then none
      else match (secCalls w)[r.calls]? with
        | some (.call _ e args) => some (w, r, e, args)
        | _ => none

/-- The running attempt is abandoned and the section escalates (R298). -/
def escalate (s : State) (w : Window) : State :=
  (s.onVent w.vent (fun x => { x with run := none })).onWindow w.num (fun w => { w with escalate := true })

/-- VENT_CALL_EXECUTE (R298, R300, R309). -/
def execVentCallExecute (v : Nat) (s : State) : Host.Outcome State Fault Refusal :=
  match nextCall s v with
  | none => notDue "VENT_CALL_EXECUTE"
  | some (w, r, e, args) =>
    match runCall (s.vent v) w e args (s, r) with
    | ((s1, r1), .ok ()) => .next (s1.onVent v (fun x => { x with run := some { r1 with calls := r1.calls + 1 } }))
    | ((s1, _), .error .full) => .next (escalate s1 w)
    | ((s1, r1), .error (.cause c)) => .next (failSection s1 w r1 c)
    | ((s1, r1), .error (.miss m _)) =>
      if 2 ≤ Tab.get 0 r.served (m.va.toNat / 4096) then
        .next (failSection s1 w r1 (match m.fail with | .absent true => Cause.accessViolation | _ => Cause.pageFault))
      else notDue "VENT_CALL_EXECUTE"

/-- An attempt waits for a page of the host (R300). -/
def askVent (s : State) (v : Nat) (w : Window) (r : VentRun) (m : Missing) (write : Bool) : State :=
  askPage (s.onVent v (fun x => { x with run := some { r with waiting := some (m.va.toNat / 4096) } })) (.vent v) w.ctx m.va.toNat write false v

/-- VENT_TRANSLATION_MISS (R300): the attempt discards, or when escalated parks as it stands; the page is asked for
(DEDUCED, log 51). -/
def execVentTranslationMiss (v : Nat) (s : State) : Host.Outcome State Fault Refusal :=
  match nextCall s v with
  | none => notDue "VENT_TRANSLATION_MISS"
  | some (w, r, e, args) =>
    match runCall (s.vent v) w e args (s, r) with
    | ((s1, r1), .error (.miss m wr)) =>
      let page := m.va.toNat / 4096
      if 2 ≤ Tab.get 0 r.served page then notDue "VENT_TRANSLATION_MISS"
      else
        .next (askVent s1 v w (if r.escalated then r1 else { freshRun w.num with served := r.served }) m wr)
    | _ => notDue "VENT_TRANSLATION_MISS"

/-- The host's answer to a vent's page (R300; 11 R227): the section runs again from its first call, or when escalated goes on, or it
ends; the lines that an escalated attempt has written by then stay. -/
def answerVent (s : State) (v page : Nat) (ok : Bool) : State :=
  match (s.vent v).run with
  | none => s
  | some r =>
    if r.waiting != some page then s
    else
      let r0 := { r with waiting := none, served := Tab.set 0 r.served page (Tab.get 0 r.served page + 1) }
      let s0 := s.onVent v (fun x => { x with run := some r0 })
      if ok then (if r.escalated then s0 else s0.onWindow r.win (fun w => statAdd w 3 1))
      else match s0.window? r.win with
        | some w => failSection s0 w r0 Cause.pageFault
        | none => s0

/-- Has an attempt run its last call, with its `nmcommit` issued? -/
def wantsCommit (s : State) (v : Nat) : Option (Window × VentRun) :=
  match (s.vent v).run with
  | none => none
  | some r =>
    match s.window? r.win with
    | none => none
    | some w =>
      if r.waiting.isNone && (secCommit w).isSome && decide (r.calls = (secCalls w).length) then some (w, r) else none

/-- VENT_COMMIT_REQUEST (R296): the watching cores enter commit hold. -/
def execVentCommitRequest (v : Nat) (s : State) : Host.Outcome State Fault Refusal :=
  match wantsCommit s v with
  | some (_, r) => if r.hold then notDue "VENT_COMMIT_REQUEST"
    else .next (s.onVent v (fun x => { x with run := some { r with hold := true } }))
  | none => notDue "VENT_COMMIT_REQUEST"

/-- The section conflicts (R297, R298). -/
def commitConflict (s : State) (w : Window) (r : VentRun) : State :=
  let sig := r.rv ||| r.wv
  let s1 := refoldDirty (flushWindow s w (w.hits sig)) w
  let s2 := pmcCount (s1.onVent w.vent (fun x => { x with run := none })) (.vent w.vent) 65 w.ctx 1
  s2.onWindow w.num (fun w =>
    let w1 := { w with replays := min (w.replays + 1) 63, consec := w.consec + 1 }
    statAdd { w1 with escalate := decide (w1.esc.toNat ≤ w1.consec) } 1 1)

/-- The section succeeds (R297), its buffer drained. -/
def sectionDone (s : State) (w : Window) (r : VentRun) (lines : Nat) : State :=
  let s2 := clearSigs (dropHits s w r.wv) w true
  let s3 := match s2.teamByKey w.tkey with
    | some (sid, _) => countOnce s2 sid r.events
    | none => s2
  endSection (pmcCount s3 (.vent w.vent) 64 w.ctx 1) w.vent w.num (if r.escalated then Cause.nmEscalated else 0) lines

/-- The buffer drains and the section ends (R297). Its lines are all written or none: one that lies in a range sealed meanwhile (10
R210) ends the section, and one that has no translation any more is asked for, as within a call (R300) (DEDUCED, log 51). -/
def commitSuccess (s : State) (w : Window) (r : VentRun) : State :=
  match vEach r.buffer (vDrain w) (s, r) with
  | ((s1, r1), .ok ()) => sectionDone s1 w r1 r1.wrote.length
  | (_, .error (.cause c)) => failSection s w r c
  | (_, .error (.miss m wr)) =>
    if 2 ≤ Tab.get 0 r.served (m.va.toNat / 4096) then
      failSection s w r (match m.fail with | .absent true => Cause.accessViolation | _ => Cause.pageFault)
    else askVent s w.vent w (if r.escalated then r else { freshRun w.num with served := r.served }) m wr
  | (_, .error .full) => s

/-- VENT_COMMIT_POINT (R297). -/
def execVentCommitPoint (v : Nat) (s : State) : Host.Outcome State Fault Refusal :=
  match wantsCommit s v with
  | none => notDue "VENT_COMMIT_POINT"
  | some (w, r) =>
    if !r.hold then notDue "VENT_COMMIT_POINT"
    else
      let wc := s.cores.foldl (fun (m : BitVec 1024) c => m ||| (sigOf s c.1 w.num).2) 0
      let s1 := s.onWindow w.num (fun w => statSet (statSet (statSet w 5 (popCount wc)) 6 (popCount r.rv)) 7 (popCount r.wv))
      if !r.escalated && (wc &&& (r.rv ||| r.wv)) != 0 then .next (commitConflict s1 w r)
      else .next (commitSuccess s1 w r)

/-! ## The instructions (R303-R307) -/

/-- Checks 1 and 2 of R303 for the instructions that need a window. -/
def needWindow (s : State) (t : Team) (body : Window → Done) : Done :=
  match t.window.bind s.window? with
  | some w => body w
  | none => .trap s Cause.nmState 0 0 false

/-- Close a window (R307): its unclosed section is abandoned and the number of its calls returned. -/
def closeWindow (s : State) (w : Window) : State × Nat :=
  let s1 := match (s.vent w.vent).run with
    | some r => if r.win = w.num then s.onVent w.vent (fun x => { x with run := none }) else s
    | none => s
  let s2 := { s1 with windows := s1.windows.filter (fun x => x.num != w.num) }
  ((s2.teams.filter (fun t => t.2.key == w.tkey)).foldl (fun s t => s.onTeam t.1 (fun t => { t with window := none })) s2,
   queuedCalls w)

/-- Checks 3 to 5 of R303 for `nmopen`. -/
def openCheck (s : State) (t : Team) (g base len : Nat) : Option (BitVec 9 × Word) :=
  let last := base + len - 1
  if groupCount s t.lid ≤ g then some (Cause.illegalOperand, posVal 2 g)
  else if base % 64 ≠ 0 then some (Cause.misaligned, BitVec.ofNat 64 base)
  else if len % 64 ≠ 0 ∨ len = 0 then some (Cause.misaligned, BitVec.ofNat 64 len)
  else if 2 ^ 64 ≤ last ∨ !canonical (BitVec.ofNat 64 last) then
    some (Cause.noncanonical, BitVec.ofNat 64 last)
  else none

/-- Open a window at a vent whose base is device memory. It takes the lowest free number, as program 18 has it (DEDUCED, log 46). -/
def openWindow (s : State) (sid : Nat) (t : Team) (d : SIdx) (g base len vent : Nat) : Done :=
  let num := ((List.range 64).find? (fun n => (s.window? n).isNone)).getD 0
  let s1 := (s.homes.filter (fun h => h.ctx == t.ctx && lineIn base len h.line)).foldl cleanHome s
  let s2 := { s1 with cores := s1.cores.map (fun (c : Nat × Core) => (c.1, { c.2 with sig := Tab.del c.2.sig num })) }
  let w : Window := { num := num, vent := vent, base := base, len := len, lid := t.lid, group := g, sid := sid, tkey := t.key,
                      ctx := t.ctx, sigw := t.nmSigw, grain := t.nmGrain, esc := t.nmEsc, newCsr := none, queue := [],
                      replays := 0, consec := 0, stat := [], escalate := false, failed := none }
  let s3 := { s2 with windows := s2.windows ++ [w] }.onTeam sid (fun t => { t with window := some num })
  lockedResult s3 sid d ((1#64 <<< 63) ||| BitVec.ofNat 64 (vent * 2 ^ 32 + num))

/-- The vent that owns a physical address, where it is device memory of this package. -/
def owningVent (s : State) (base : Nat) (tr : Trans) : Option Nat :=
  match tr.peer, dpaOf s (lineAt tr (base / 64)) with
  | none, some dpa => some (channelOf dpa)
  | _, _ => none

/-- The window that `nmopen` waits for: a number, and one of the owning vent where BASE names one (R304) (DEDUCED, log 52). -/
def windowWait (s : State) (t : Team) (base : Nat) : Option Park :=
  let vent : Option Nat := match translate s (unitOf base) t.ctx (BitVec.ofNat 64 base) .read with
    | (s1, .ok tr) => owningVent s1 base tr
    | (_, .error _) => none
  let own : Nat := match vent with | some v => (s.windows.filter (fun w => w.vent == v)).length | none => 0
  if s.windows.length < 64 ∧ own < 4 then none else some (.window (vent.getD Config.channels))

/-- `nmopen` (R304) (DEDUCED, log 52 and 104). -/
def execNmopen (h : Hdr) (d a : SIdx) (g : SI) (s : State) : Host.Outcome State Fault Refusal :=
  issueScalar (.nmopen h d a g) h s (fun sid vw s =>
    let t := vw.t
    let base := (vw.sr a.toNat).toNat
    let len := (vw.sr (a.toNat + 1)).toNat
    let k := (vw.si g).toNat
    let va := BitVec.ofNat 64 base
    if regionForbids t then regionTrap s
    else if t.window.isSome then .trap s Cause.nmState 0 0 false
    else match openCheck s t k base len with
      | some (c, v) => .trap s c v 0 false
      | none =>
        match windowWait s t base with
        | some p => .wait s p
        | none => releaseOr s (deviceAccess sid t) (fun s =>
          if !canonical va then settle s sid t false (some t.mask) [(0, .bad Cause.noncanonical va)] (fun s => .fall s 1)
          else if pageDenied t va then settle s sid t false (some t.mask) [(0, .bad Cause.pageFault va)] (fun s => .fall s 1)
          else match translate s (unitOf base) t.ctx va .read with
            | (s1, .error f) => settle s1 sid t false (some t.mask) [(0, laneOut f va)] (fun s => .fall s 1)
            | (s1, .ok tr) =>
              match owningVent s1 base tr with
              | some vent => openWindow s1 sid t d k base len vent
              | none => lockedResult s1 sid d (doneCause Cause.nmRemote)))

/-- `nmcall` (R303, R305). -/
def execNmcall (h : Hdr) (a : SIdx) (e : BitVec 32) (s : State) : Host.Outcome State Fault Refusal :=
  issueScalar (.nmcall h a e) h s (fun _ vw s =>
    if regionForbids vw.t then regionTrap s
    else needWindow s vw.t (fun w =>
      if 63 < e.toNat then .trap s Cause.illegalOperand (posVal 2 e.toNat) 0 false
      else if 32 ≤ openCalls w then .trap s Cause.nmSectionFull 32 0 false
      else if 64 ≤ queuedCalls w then .wait s .vent
      else
        let args := (List.range 6).map (fun i => vw.sr (a.toNat + i))
        .fall (s.onWindow w.num (fun w => { w with queue := w.queue ++ [.call s.order e.toNat args] })) 1))

/-- `nmcommit` (R303, R305): a section that had failed, or an empty one with none before it, ends at once. -/
def execNmcommit (h : Hdr) (d : SIdx) (i : CommitImm) (s : State) : Host.Outcome State Fault Refusal :=
  issueScalar (.nmcommit h d i) h s (fun sid vw s =>
    if regionForbids vw.t then regionTrap s
    else needWindow s vw.t (fun w =>
      if i.count ∧ groupCount s vw.t.lid ≤ i.group.toNat then .trap s Cause.illegalOperand (posVal 2 i.group.toNat) 0 false
      else
        let tok := s.order
        let s1 := if d = 0 then s.nextOrder else (addSb s sid (.s d.toNat) [] true).1
        let s2 := s1.onWindow w.num (fun w => { w with queue := w.queue ++ [.commit i d.toNat tok] })
        .fall (match w.failed with
          | some (c, n) => endOne s2 w.num c n
          | none => endEmpties 1 s2 w.num) 1))

/-- `nmstat` (R306). -/
def execNmstat (h : Hdr) (d : SIdx) (k : BitVec 32) (s : State) : Host.Outcome State Fault Refusal :=
  issueScalar (.nmstat h d k) h s (fun sid vw s =>
    needWindow s vw.t (fun w =>
      if 7 < k.toNat then .trap s Cause.illegalOperand (posVal 2 k.toNat) 0 false
      else lockedResult s sid d (BitVec.ofNat 64 (if k.toNat = 4 then queuedCalls w else Tab.get 0 w.stat k.toNat))))

/-- `nmclose` (R307). -/
def execNmclose (h : Hdr) (d : SIdx) (s : State) : Host.Outcome State Fault Refusal :=
  issueScalar (.nmclose h d) h s (fun sid vw s =>
    if regionForbids vw.t then regionTrap s
    else needWindow s vw.t (fun w =>
      if commitQueued w then .wait s .vent
      else let (s1, n) := closeWindow s w; lockedResult s1 sid d (BitVec.ofNat 64 n)))

/-- Is an image that of release 3 of the entry library? Its calls then have the effects that R308 gives (DESIGN CHOICE, log 50). -/
def isLibrary (bs : List Byte) : Bool := (List.range 4608).all (fun i => bs.getD i 0 == Config.libraryImage i)

/-- The image of `wcsld` in a vent (R309, R310). -/
def loadStore (x : Vent) (bs : List Byte) : Vent :=
  { x with
    table := (List.range 64).foldl (fun t i => Tab.set 0 t i (BitVec.ofNat 64 (leNat ((bs.drop (8 * i)).take 8)))) []
    store := (List.range 256).foldl (fun t i => Tab.set 0 t i (BitVec.ofNat 128 (leNat ((bs.drop (512 + 16 * i)).take 16)))) []
    library := isLibrary bs }

/-- `wcsld` (R310). It reads its image as `sld` reads: a window's hold stops it, and the read is folded (R293, R296, R298). -/
def execWcsld (h : Hdr) (d a : SIdx) (s : State) : Host.Outcome State Fault Refusal :=
  issueScalar (.wcsld h d a) h s (fun sid vw s =>
    let t := vw.t
    let va := vw.sr a.toNat
    let v := (vw.sr (a.toNat + 1)).toNat % 512
    let busy := (s.vent v).run.isSome || s.windows.any (fun w => w.vent == v && queuedCalls w != 0)
    if va.toNat % 64 ≠ 0 then .trap s Cause.misaligned va 0 false
    else if (match t.region with | some v => v.ending | none => false) then .wait s .regionEnd
    else if busy then lockedResult s sid d (doneCause Cause.csBusy)
    else
      let all := (List.range 72).map (fun i => va + BitVec.ofNat 64 (64 * i))
      match all.find? (fun x => !canonical x) with
      | some x => settle s sid t false (some t.mask) [(0, .bad Cause.noncanonical x)] (fun s => .fall s 1)
      | none =>
        match all.find? (pageDenied t) with
        | some x => settle s sid t false (some t.mask) [(0, .bad Cause.pageFault x)] (fun s => .fall s 1)
        | none =>
          if held s t va.toNat 4608 false then .wait s (.held false [(va.toNat, 4608)])
          else match readWeak s { sid := sid, core := t.coreId, ctx := t.ctx, scope := .team, pol := false } va.toNat 4608 with
          | (s1, .error m) => settle s1 sid t false (some t.mask) [(0, laneOut m.fail m.va)] (fun s => .fall s 1)
          | (s1, .ok bs) =>
            lockedResult ((foldAccess s1 t va.toNat 4608 true false).onVent v (fun x => loadStore x bs)) sid d ((1#64 <<< 63) ||| 256))

end Sys2Proof.Machine
end

