-- ==== Sys2Proof/Machine/System.lean ====
section
/-! DEFINITION. Control and status registers, the system instructions, and the steps of fetch, selection and traps (23
R358-R373; 24 R376, R377; and the CSR maps of 03, 05, 08, 10, 11, 14, 17, 19, 21). -/

namespace Sys2Proof.Machine

/-! ## Reading (R369) -/

/-- A team's own CSR. -/
def teamCsr (t : Team) (n : Nat) : Word :=
  if n = 0x010 then boolWord t.sbchk
  else if n < 0x028 then (t.exc.thrOf (n - 0x020)).setWidth 64
  else if n = 0x028 then t.exc.winLog.setWidth 64
  else if n = 0x029 then BitVec.ofNat 64 ((List.range 8).foldl (fun a k => a + (t.exc.actOf k).toNat * 4 ^ k) 0)
  else if n < 0x032 then t.exc.wcntOf (n - 0x02A) ++ t.exc.totalOf (n - 0x02A)
  else if n = 0x040 then t.nmSigw.setWidth 64
  else if n = 0x041 then t.nmGrain.setWidth 64
  else if n = 0x042 then t.nmEsc.setWidth 64
  else Tab.get 0 t.keep (n - 0x058)

/-- A context's CSR. -/
def ctxCsr (c : Ctx) (n : Nat) : Word :=
  if n = 0x401 then c.ptlDesc
  else if n = 0x402 then c.ptlRoot
  else if n = 0x403 then c.ptlPasid.setWidth 64
  else if n < 0x414 then (Tab.get (512 : BitVec 10) c.gyQdepth (n - 0x410)).setWidth 64
  else if n = 0x414 then c.gyTimeout.setWidth 64
  else if n = 0x415 then c.gyJobtag.setWidth 64
  else if n = 0x416 then c.gyHtab
  else if n = 0x440 then c.qtBase
  else if n = 0x441 then BitVec.ofNat 64 c.qtLen
  else if n = 0x450 then c.trapEntry
  else if n = 0x451 then c.ctxSave
  else if n = 0x452 then c.ctxReply
  else c.ctxEvq

/-- A device CSR. RG.DEPTH reads 4 (19 R318). -/
def devCsr (s : State) (n : Nat) : Word :=
  if n = 0x043 then 4
  else if n = 0x400 then BitVec.ofNat 64 s.leaseMax
  else if n < 0x40C then Tab.get 0 s.hostIow (n - 0x404)
  else if n = 0x420 then boolWord s.ordMode
  else if n = 0xC00 then s.mgmtSem.setWidth 64
  else if n = 0xC10 then s.fjExp
  else (s.devIdNext.setWidth 64 <<< 16) ||| s.devId.setWidth 64

inductive CsrHome where
  | team | ctx | core | device
  deriving DecidableEq, Repr

/-- Who holds a CSR (R373). -/
def csrHome (n : Nat) : CsrHome :=
  if csrDeviceHeld n then .device
  else if 0x430 ≤ n ∧ n ≤ 0x43F then .core
  else if n < 0x400 then .team else .ctx

/-- A counter CSR of a core: SEL, or CNT. -/
def coreCsr (s : State) (core n : Nat) : Word :=
  let x := pmcOf s (.core core)
  if n < 0x438 then Tab.get 0 x.sel (n - 0x430) else (Tab.get 0 x.cnt (n - 0x438)).setWidth 64

/-- What `csrr` reads. -/
def csrRead (s : State) (t : Team) (n : Nat) : Word :=
  match csrHome n with
  | .team => teamCsr t n
  | .core => coreCsr s t.coreId n
  | .device => devCsr s n
  | .ctx => (match s.ctx? t.ctx with | some c => ctxCsr c n | none => 0)

/-! ## Writing (R369) -/

/-- A write to EXC.WIN clamps LOG2 and clears every WCNT (08 R160). -/
def writeWin (e : Exc) (v : Word) : Exc :=
  let n := (v.extractLsb' 0 6).toNat
  { e with winLog := BitVec.ofNat 6 (if n = 0 then 0 else if n < 10 then 10 else min n 40), wcnt := [] }

/-- A write to EXC.CNT of class `k` clears its WCNT (08 R160). -/
def writeCnt (e : Exc) (k : Nat) (v : Word) : Exc :=
  { e with wcnt := Tab.set 0 e.wcnt k 0, total := Tab.set 0 e.total k (v.extractLsb' 0 32) }

/-- EXC.ACT: a field of 3 stores 0. -/
def writeAct (e : Exc) (v : Word) : Exc :=
  { e with act := (List.range 8).foldl (fun t k =>
      let x : BitVec 2 := v.extractLsb' (2 * k) 2
      Tab.set 0 t k (if x = 3 then 0 else x)) [] }

/-- A write to a team's own CSR. -/
def setTeamCsr (t : Team) (n : Nat) (v : Word) : Team :=
  if n = 0x010 then { t with sbchk := v.getLsbD 0 }
  else if n < 0x028 then { t with exc := { t.exc with thr := Tab.set (0xFFFFFFFF : BitVec 32) t.exc.thr (n - 0x020) (v.extractLsb' 0 32) } }
  else if n = 0x028 then { t with exc := writeWin t.exc v }
  else if n = 0x029 then { t with exc := writeAct t.exc v }
  else if n < 0x032 then { t with exc := writeCnt t.exc (n - 0x02A) v }
  else if n = 0x040 then { t with nmSigw := v.extractLsb' 0 2 }
  else if n = 0x041 then { t with nmGrain := let x : BitVec 2 := v.extractLsb' 0 2; if x = 3 then 2 else x }
  else if n = 0x042 then { t with nmEsc := let x : BitVec 4 := v.extractLsb' 0 4; if x = 0 then 1 else x }
  else { t with keep := Tab.set 0 t.keep (n - 0x058) v }

/-- A vent CSR of a team that holds a window governs it from the next section boundary (17 R291). -/
def noteNm (s : State) (t : Team) (n : Nat) : State :=
  if n < 0x040 || 0x042 < n then s
  else match t.window with
    | some k => s.onWindow k (fun w => { w with newCsr := some (t.nmSigw, t.nmGrain, t.nmEsc) })
    | none => s

def storeTeamCsr (s : State) (sid n : Nat) (v : Word) : State :=
  match s.team? sid with
  | none => s
  | some t => let t1 := setTeamCsr t n v; noteNm (s.setTeam sid t1) t1 n

/-- QT.LEN stores a power of two (03 R39). -/
def lenOf (v : Word) : Nat := if v = 0 then 1 else min (2 ^ Nat.log2 v.toNat) 65536

/-- LOG2 of CTX.EVQ: 1-3 store 4, 21-31 store 20 (R363). -/
def evqOf (v : Word) : Word :=
  let n := (v.extractLsb' 0 5).toNat
  (v &&& 0x01FFFFFFFFFFF000#64) ||| BitVec.ofNat 64 (if n = 0 then 0 else min (max n 4) 20)

/-- A write to a context's CSR. -/
def setCtxCsr (c : Ctx) (n : Nat) (v : Word) : Ctx :=
  if n = 0x401 then { c with ptlDesc := v }
  else if n = 0x402 then { c with ptlRoot := v &&& 0x000FFFFFFFFFF000#64 }
  else if n = 0x403 then { c with ptlPasid := v.extractLsb' 0 20 }
  else if n < 0x414 then
    let x := (v.extractLsb' 0 10).toNat
    { c with gyQdepth := Tab.set (512 : BitVec 10) c.gyQdepth (n - 0x410) (BitVec.ofNat 10 (if x = 0 then 1 else min x 512)) }
  else if n = 0x414 then { c with gyTimeout := let x : BitVec 20 := v.extractLsb' 0 20; if x = 0 then 1 else x }
  else if n = 0x415 then { c with gyJobtag := v.extractLsb' 0 16 }
  else if n = 0x416 then { c with gyHtab := v &&& 0x01FFFFFFFFFC0000#64 }
  else if n = 0x440 then { c with qtBase := v &&& 0x01FFFFFFFFFFFFF0#64 }
  else if n = 0x441 then { c with qtLen := lenOf v }
  else if n = 0x450 then { c with trapEntry := v &&& 0x01FFFFFFFFFFFFFC#64 }
  else if n = 0x451 then { c with ctxSave := v &&& 0x01FFFFFFFFFFF03F#64 }
  else if n = 0x452 then { c with ctxReply := v &&& 0x01FFFFFFFFFFF03F#64 }
  else { c with ctxEvq := evqOf v }

/-- May ORD.MODE become 1 or 0? It is changed only while no team of any context is resident; firmware leaves it at 1 throughout
bring-up (24 R383), and sets it again only while no other context has an accepted launch without its completion record (14 R270)
(DEDUCED, log 136). -/
def ordModeFree (s : State) (mode : Bool) : Bool :=
  s.teams.isEmpty && (if mode then !s.launches.any (fun l => l.ctx != Config.firmwareCtx) else s.bringUp == 7)

/-- A write to ORD.MODE takes effect or is ignored (14 R270). -/
def writeOrdMode (s : State) (v : Word) : State := if ordModeFree s (v.getLsbD 0) then { s with ordMode := v.getLsbD 0 } else s

/-- NEXT of FJ.DEVID goes to the configuration block (21 R340). -/
def writeDevid (s : State) (v : Word) : State := { s with devIdNext := v.extractLsb' 16 12 }

/-- A write to a device CSR. A team is no management port: its writes to MGMT.SEM are ignored (24 R378). -/
def setDevCsr (s : State) (n : Nat) (v : Word) : State :=
  if n = 0x400 then { s with leaseMax := min (max (v.extractLsb' 0 11).toNat 2) 1024 }
  else if 0x404 ≤ n ∧ n ≤ 0x40B then { s with hostIow := Tab.set 0 s.hostIow (n - 0x404) (v &&& 0xFC0FFFFFFFFFF000#64) }
  else if n = 0x420 then writeOrdMode s v
  else if n = 0xC10 then { s with fjExp := v &&& 0xFFFFFFFFFFFFFFC0#64 }
  else if n = 0xC11 then writeDevid s v
  else s

/-- The event sources of a place (24 R376). -/
def eventListed : PmcPlace → Nat → Bool
  | .core _, e => decide (e ≤ 10)
  | .die _, e => e == 0 || (decide (32 ≤ e) && decide (e ≤ 38))
  | .vent _, e => e == 0 || (decide (64 ≤ e) && decide (e ≤ 67))

/-- A write to PMC.SEL: a source not listed for the place stores 0 (24 R376). -/
def writeSel (s : State) (p : PmcPlace) (k : Nat) (v : Word) : State :=
  let e := (v.extractLsb' 0 10).toNat
  let x := pmcOf s p
  setPmc s p { x with sel := Tab.set 0 x.sel k ((v &&& 0xFFFF000000030000#64) ||| BitVec.ofNat 64 (if eventListed p e then e else 0)) }

/-- A write to PMC.CNT; it notes the cycle, in which no increment is counted any more (24 R377). -/
def writeCount (s : State) (p : PmcPlace) (k : Nat) (v : Word) : State :=
  let x := pmcOf s p
  setPmc s p { x with cnt := Tab.set 0 x.cnt k (v.extractLsb' 0 48), wrote := Tab.put x.wrote k s.clock }

/-- Does a place have a counter `k`? -/
def placeHas (p : PmcPlace) (k : Nat) : Bool :=
  decide (k < pmcWidth p) && (match p with
    | .core n => decide (n < Config.dies * Config.coresPerDie)
    | .die n => decide (n < Config.dies)
    | .vent n => decide (n < Config.channels))

/-- What `csrw` stores. The value of PMC.CNT is written after the counts of the same cycle, which are lost (24 R377)
(DEDUCED, log 82). -/
def csrStore (s : State) (sid : Nat) (t : Team) (n : Nat) (v : Word) : State :=
  match csrHome n with
  | .team => storeTeamCsr s sid n v
  | .ctx => s.onCtx t.ctx (fun c => setCtxCsr c n v)
  | .device => setDevCsr s n v
  | .core => if n < 0x438 then writeSel s (.core t.coreId) (n - 0x430) v else s.dueFirst (.pmcCntWrite (.core t.coreId) (n - 0x438) v)

/-- The value of a `csrw` (R369) (DEDUCED, log 82). -/
def csrValue (op : CsrOp) (old a : Word) : Word :=
  match op with
  | .wr => a
  | .set => old ||| a
  | .clr => old &&& ~~~ a

/-! ## The instructions -/

/-- `csrr` (R369). -/
def execCsrr (h : Hdr) (d : SIdx) (csr : BitVec 12) (s : State) : Host.Outcome State Fault Refusal :=
  issueScalar (.csrr h d csr) h s (fun sid vw s => lockedResult s sid d (csrRead s vw.t csr.toNat))

/-- `csrw` (R369). -/
def execCsrw (h : Hdr) (op : CsrOp) (csr : BitVec 12) (a : SIdx) (s : State) : Host.Outcome State Fault Refusal :=
  issueScalar (.csrw h op csr a) h s (fun sid vw s =>
    .fall (csrStore s sid vw.t csr.toNat (csrValue op (csrRead s vw.t csr.toNat) (vw.sr a.toNat))) 1)

/-- `tret` (R370). -/
def execTret (h : Hdr) (b : Option SIdx) (s : State) : Host.Outcome State Fault Refusal :=
  issueScalar (.tret h b) h s (fun _ vw s =>
    if !vw.t.inTrap then .trap s Cause.trapState 0 0 false
    else
      let target := match b with | some n => vw.sr n.toNat | none => vw.t.tpc
      if target.toNat % 4 ≠ 0 then .trap s Cause.misalignedPc target 0 false else .back s target b.isNone)

/-- The leaf of a present page that U refuses: the walk without that check. -/
def leafOf (s : State) (ctx : Nat) (va : Word) : Option Trans :=
  match walk (s.onCtx ctx (fun c => { c with ptlDesc := c.ptlDesc &&& ~~~ 4#64 })) ctx va .read with
  | (_, .ok t) => some t
  | (_, .error _) => none

/-- The walk of a probe: what a load of the address would take, with no A bit set (R371; 11 R237) (DEDUCED, log 83). -/
def probeWalk (s : State) (ctx : Nat) (va : Word) : State × BitVec 9 × Option Trans :=
  if !canonical va then (s, Cause.noncanonical, none)
  else match translate s (unitOf va.toNat) ctx va .read with
    | (s1, .error (.hard c)) => ({ s with tlb := s1.tlb }, c, if c = Cause.accessViolation then leafOf s ctx va else none)
    | (s1, .error (.absent _)) => ({ s with tlb := s1.tlb }, Cause.pageFault, none)
    | (s1, .ok t) =>
      ({ s with tlb := s1.tlb },
       (match t.peer with
        | some d => (match peerFor s d (t.pa + va.toNat % 2 ^ t.size) 4 true false with
          | .error (.hard c) => c
          | _ => 0)
        | none => 0), some t)

/-- The result of a probe (R371). -/
def probeResult (s : State) (ctx : Nat) (va : Word) (c : BitVec 9) (t : Option Trans) : Word :=
  (c.setWidth 64 <<< 55) ||| (boolWord (sealedAt s ctx va.toNat) <<< 5) |||
    (match t with
     | none => 0
     | some t => (boolWord t.peer.isSome <<< 8) ||| (BitVec.ofNat 64 ((t.size - 12) / 9) <<< 6) ||| (boolWord t.x <<< 4)
        ||| (boolWord t.w <<< 3) ||| 4)

/-- `probe` (R371) (DEDUCED, log 83). -/
def execProbe (h : Hdr) (d : SIdx) (m : MemOp) (s : State) : Host.Outcome State Fault Refusal :=
  issueScalar (.probe h d m) h s (fun sid vw s =>
    let va := vw.sr m.base.toNat + m.off.signExtend 64
    let r := probeWalk s vw.t.ctx va
    lockedResult r.1 sid d (probeResult r.1 vw.t.ctx va r.2.1 r.2.2))

/-- An `intr` that needs a page of the ring waits for it, and knows what came of those it waited for before; once the page is known to
fail the record is dropped. -/
def intrPage (s : State) (sid : Nat) (t : Team) (m : Missing) (dropped : State → Done) : Done :=
  match settleMiss t (if pageDenied t m.va then .bad Cause.pageFault m.va else laneOut m.fail m.va) with
  | .bad _ _ => dropped s
  | o =>
    let new := gatherWaits t true [(0, o)]
    let old := match t.pf with | some g => g.waits.filter (fun w => !new.any (fun x => x.page == w.page)) | none => []
    let s1 := parkGroup s sid { fetch := false, waits := new, hard := [] } t.mask t.replay
    .wait (s1.onTeam sid (fun t => { t with pf := some { fetch := false, waits := old ++ new, hard := [] } })) .page

/-- A record of `intr` is dropped: LOST counts, and the vector is signalled unless the ring is disabled. Where LOST cannot be written
nothing else changes (R363). -/
def dropRecord (s : State) (sid : Nat) (t : Team) (signal : Bool) : Done :=
  match bumpLost s t.ctx with
  | (s1, .counted) => .fall (if signal then { s1 with signals := s1.signals ++ [.msix t.ctx] } else s1) 1
  | (s1, .failed) => .fall s1 1
  | (s1, .missing m) => intrPage s1 sid t m (fun s => .fall s 1)

/-- The record of an `intr`: it waits for a page or for a free record, and completes without a trap where its record is
dropped (R363, R372) (DEDUCED, log 81). -/
def writeIntr (s : State) (sid : Nat) (t : Team) (v : Word) (k : Nat) : Done :=
  let id := match s.launch? t.lid with | some l => l.launchId | none => 0
  if (match s.ctx? t.ctx with | some c => ringLog c.ctxEvq == 0 | none => true) then dropRecord s sid t false
  else match ringWrite s t.ctx (eventRecord s.clock v id t.team k 0 1 t.ctx) with
    | (s1, .written) => .fall s1 1
    | (s1, .full) => .wait s1 .evq
    | (s1, .failed) => dropRecord s1 sid t true
    | (s1, .missing m) => intrPage s1 sid t m (fun s => dropRecord s sid t true)

/-- `intr` (R372) (DEDUCED, log 81). -/
def execIntr (h : Hdr) (a : Option SIdx) (k : BitVec 8) (s : State) : Host.Outcome State Fault Refusal :=
  issueScalar (.intr h a k) h s (fun sid vw s =>
    releaseOr s { (deviceAccess sid vw.t) with scope := .system } (fun s =>
      writeIntr s sid vw.t (match a with | some n => vw.sr n.toNat | none => 0) k.toNat))

/-- Does a translation of a line meet a range, rounded outward to 4 KiB? A length of 0 means every translation (R372). -/
def meetsRange (start len line : Nat) (t : Trans) : Bool :=
  let lo := start / 4096 * 4096
  let hi := (start + len + 4095) / 4096 * 4096
  let page := line * 64 / 2 ^ t.size * 2 ^ t.size
  len = 0 || (decide (page < hi) && decide (lo < page + 2 ^ t.size))

/-- `tinv` (R372) (DEDUCED, log 84). -/
def execTinv (h : Hdr) (a : SIdx) (b : SI) (s : State) : Host.Outcome State Fault Refusal :=
  issueScalar (.tinv h a b) h s (fun _ vw s =>
    .fall (dropTranslations s (fun c l t => c == vw.t.ctx && meetsRange (vw.sr a.toNat).toNat (vw.si b).toNat l t)) 1)

/-! ## Steps that write CSRs -/

/-- PMC_CNT_WRITE (24 R377). -/
def execPmcCntWrite (p : PmcPlace) (k : Nat) (v : Word) (s : State) : Host.Outcome State Fault Refusal :=
  if placeHas p k then .next (writeCount s p k v) else notDue "PMC_CNT_WRITE"

/-- PMC_SEL_WRITE (24 R376). -/
def execPmcSelWrite (p : PmcPlace) (k : Nat) (v : Word) (s : State) : Host.Outcome State Fault Refusal :=
  if placeHas p k then .next (writeSel s p k v) else notDue "PMC_SEL_WRITE"

/-- QT_LEN_WRITE (03 R39). -/
def execQtLenWrite (ctx : Nat) (v : Word) (s : State) : Host.Outcome State Fault Refusal :=
  match s.ctx? ctx with
  | some c => .next (s.setCtx ctx { c with qtLen := lenOf v })
  | none => notDue "QT_LEN_WRITE"

/-- EXC_WIN_WRITE (08 R160). -/
def execExcWinWrite (sid : Nat) (v : Word) (s : State) : Host.Outcome State Fault Refusal :=
  match s.team? sid with
  | some t => .next (s.setTeam sid { t with exc := writeWin t.exc v })
  | none => notDue "EXC_WIN_WRITE"

/-- EXC_CNT_WRITE (08 R160). -/
def execExcCntWrite (sid k : Nat) (v : Word) (s : State) : Host.Outcome State Fault Refusal :=
  match s.team? sid with
  | some t => if k < 8 then .next (s.setTeam sid { t with exc := writeCnt t.exc k v }) else notDue "EXC_CNT_WRITE"
  | none => notDue "EXC_CNT_WRITE"

/-- ORD_MODE_WRITE (14 R270). -/
def execOrdModeWrite (v : Word) (s : State) : Host.Outcome State Fault Refusal := .next (writeOrdMode s v)

/-- NM_CSR_WRITE (17 R291). -/
def execNmCsrWrite (sid : Nat) (csr : BitVec 12) (v : Word) (s : State) : Host.Outcome State Fault Refusal :=
  if (s.team? sid).isSome && decide (0x040 ≤ csr.toNat) && decide (csr.toNat ≤ 0x042) then .next (storeTeamCsr s sid csr.toNat v)
  else notDue "NM_CSR_WRITE"

/-- FJ_DEVID_WRITE (21 R340). -/
def execFjDevidWrite (v : Word) (s : State) : Host.Outcome State Fault Refusal := .next (writeDevid s v)

/-- CSRs whose writes are steps of their own. -/
def csrSpecial (n : Nat) : Bool :=
  n == 0x441 || n == 0x420 || n == 0xC11 || n == 0xC00 || n == 0x028 || (0x02A ≤ n && n ≤ 0x031) || (0x040 ≤ n && n ≤ 0x042)
    || (0x430 ≤ n && n ≤ 0x43F)

/-- CSR_WRITE (R369): of a team's, a context's or a device CSR. -/
def execCsrWrite (ctx : Nat) (sid : Option Nat) (csr : BitVec 12) (v : Word) (s : State) : Host.Outcome State Fault Refusal :=
  let n := csr.toNat
  if !csrListed n || csrSpecial n then notDue "CSR_WRITE"
  else match csrHome n, sid with
    | .team, some k => if (s.team? k).isSome then .next (storeTeamCsr s k n v) else notDue "CSR_WRITE"
    | .ctx, _ => if (s.ctx? ctx).isSome then .next (s.onCtx ctx (fun c => setCtxCsr c n v)) else notDue "CSR_WRITE"
    | .device, _ => .next (setDevCsr s n v)
    | _, _ => notDue "CSR_WRITE"

/-- EXC_WINDOW_CLOSE (08 R160). -/
def execExcWindowClose (sid : Nat) (s : State) : Host.Outcome State Fault Refusal :=
  match s.team? sid with
  | some t =>
    if t.exc.winLog != 0 && s.clock % 2 ^ t.exc.winLog.toNat == 0 then .next (s.setTeam sid { t with exc := { t.exc with wcnt := [] } })
    else notDue "EXC_WINDOW_CLOSE"
  | none => notDue "EXC_WINDOW_CLOSE"

/-- A place as the management overflow status names it: cores, then dies, then vents. -/
def placeNumber : PmcPlace → Nat
  | .core n => n
  | .die n => 256 + n
  | .vent n => 264 + n

/-- COUNTER_OVERFLOW (24 R377). -/
def execCounterOverflow (p : PmcPlace) (k : Nat) (s : State) : Host.Outcome State Fault Refusal :=
  let sel := Tab.get 0 (pmcOf s p).sel k
  if !(placeHas p k && sel.getLsbD 16) then notDue "COUNTER_OVERFLOW"
  else match p, sel.getLsbD 17 with
    | .core _, true =>
      let ctx := (sel.extractLsb' 48 16).toNat
      .next (postEvent s ctx (eventRecord s.clock sel 0 0 k 0 6 ctx))
    | _, _ =>
      let x := (placeNumber p, k)
      let s1 := { s with mgmtOvf := if s.mgmtOvf.contains x then s.mgmtOvf else s.mgmtOvf ++ [x] }
      .next (if s.mgmtSem = 0 then s1 else { s1 with signals := s1.signals ++ [.mgmt (s.mgmtSem == 1)] })

/-! ## Fetch, selection, traps -/

/-- INSTRUCTION_FETCH (05 R73). -/
def execInstructionFetch (sid : Nat) (s : State) : Host.Outcome State Fault Refusal :=
  match s.team? sid with
  | none => notDue "INSTRUCTION_FETCH"
  | some t =>
    if !fetchReady s sid t then notDue "INSTRUCTION_FETCH"
    else match fetchFor s sid t with
      | (s1, some i) => .next (s1.onTeam sid (fun t => { t with fetched := some i }))
      | (s1, none) => .next s1

/-- PASS_ISSUE_SELECT (04 R69): a later pass of the selected team's instruction issues at once. -/
def execPassIssueSelect (core : Nat) (s : State) : Host.Outcome State Fault Refusal :=
  match s.current, selectTeam s core with
  | none, some sid =>
    if dequeBehind s core then notDue "PASS_ISSUE_SELECT"
    else
      let s1 := placeYielded s core sid
      if (match s.team? sid with | some t => t.more.isSome | none => false) then .next (nextPass s1 sid)
      else .next { s1 with current := some sid }
  | _, _ => notDue "PASS_ISSUE_SELECT"

/-- PENDING_TRAP_TAKEN (23 R358). -/
def execPendingTrapTaken (sid : Nat) (s : State) : Host.Outcome State Fault Refusal :=
  match s.team? sid with
  | some t => if trapReady s t then .next (takePending s sid) else notDue "PENDING_TRAP_TAKEN"
  | none => notDue "PENDING_TRAP_TAKEN"

end Sys2Proof.Machine
end

