-- ==== Sys2Proof/Machine/Mgmt.lean ====
section
/-! DEFINITION. The management ports and their commands (24 R378, R379). -/

namespace Sys2Proof.Machine

/-- The OWNER value of a port. -/
def ownerOf : MgmtPort → BitVec 2
  | .cxl => 1
  | .sideband => 2

/-- The CXL mailbox exists from bring-up step 5 on (R383). -/
def portOpen (s : State) : MgmtPort → Bool
  | .cxl => decide (5 ≤ s.bringUp)
  | .sideband => true

/-- A command of the owner keeps its hold on the semaphore. -/
def noteCommand (s : State) (p : MgmtPort) : State := if s.mgmtSem = ownerOf p then { s with mgmtLast := s.rt } else s

/-- What a command answers. -/
def reply (s : State) (p : MgmtPort) (status : Nat) (data : List Nat) : State :=
  { s with replies := s.replies ++ [{ cxl := p == .cxl, status := status, data := data }] }

/-- A write of MGMT.SEM (R378): 1 or 2 by the port it names while OWNER is 0; 0 by the owner. -/
def writeSem (s : State) (p : MgmtPort) (v : BitVec 2) : State :=
  if v = 0 then (if s.mgmtSem = ownerOf p then { s with mgmtSem := 0 } else s)
  else if s.mgmtSem = 0 ∧ v = ownerOf p then { s with mgmtSem := v, mgmtLast := s.rt } else s

/-- Does the mailbox write the free semaphore in the same cycle? (DEDUCED, log 93). -/
def mailboxWrites (s : State) : Bool :=
  s.agenda.any (fun i => match i with | .mgmtSemWrite .cxl v => v.extractLsb' 0 2 == (1 : BitVec 2) | _ => false)

/-- MGMT_SEM_WRITE (R378). Where both ports write a free semaphore in one cycle, the mailbox wins (DEDUCED, log 93). -/
def execMgmtSemWrite (p : MgmtPort) (v : Word) (s : State) : Host.Outcome State Fault Refusal :=
  if !portOpen s p then notDue "MGMT_SEM_WRITE"
  else if p == .sideband && s.mgmtSem == 0 && portOpen s .cxl && mailboxWrites s then .next s
  else .next (writeSem (noteCommand s p) p (v.extractLsb' 0 2))

/-- Has the owner sent no command for 5 s? -/
def semTimedOut (s : State) : Bool := s.mgmtSem != 0 && decide (s.mgmtLast + microseconds 5000000 ≤ s.rt)

/-- MGMT_SEM_TIMEOUT (R378). -/
def execMgmtSemTimeout (s : State) : Host.Outcome State Fault Refusal :=
  if semTimedOut s then .next { s with mgmtSem := 0 } else notDue "MGMT_SEM_TIMEOUT"

/-- A read command (R379). -/
def readCommand (what : String) (p : MgmtPort) (s : State) (f : State → Option (List Nat)) : Host.Outcome State Fault Refusal :=
  if !portOpen s p then notDue what
  else
    let s1 := noteCommand s p
    match f s1 with
    | some d => .next (reply s1 p 0 d)
    | none => .next (reply s1 p 2 [])

/-- A command that changes device state (R378, R379): status 1 for lack of the semaphore, 2 where it is refused otherwise. -/
def changeCommand (what : String) (p : MgmtPort) (s : State) (f : State → Option State) : Host.Outcome State Fault Refusal :=
  if !portOpen s p then notDue what
  else
    let s1 := noteCommand s p
    if s.mgmtSem != ownerOf p then .next (reply s1 p 1 [])
    else match f s1 with
      | some s2 => .next (reply s2 p 0 [])
      | none => .next (reply s1 p 2 [])

/-- READ_PMC. -/
def execReadPmc (p : MgmtPort) (pl : PmcPlace) (k : Nat) (s : State) : Host.Outcome State Fault Refusal :=
  readCommand "READ_PMC" p s (fun s =>
    let x := pmcOf s pl
    if placeHas pl k then some [(Tab.get 0 x.sel k).toNat, (Tab.get 0 x.cnt k).toNat] else none)

/-- The number by which the model names a bank: its stack and channel, then the bank. How many banks a channel has is not
stated (DEDUCED, log 90). -/
def bankKey (stack channel bank : Nat) : Nat := (stack * 32 + channel) * 2 ^ 16 + bank

/-- Is there such a stack and channel? -/
def bankOk (stack channel bank : Nat) : Bool := decide (stack < 16 ∧ channel < 32 ∧ bank < 2 ^ 16)

/-- READ_ECS (R381). -/
def execReadEcs (p : MgmtPort) (stack channel bank : Nat) (s : State) : Host.Outcome State Fault Refusal :=
  readCommand "READ_ECS" p s (fun s =>
    if bankOk stack channel bank then some [Tab.get 0 s.ecs (bankKey stack channel bank)] else none)

/-- The layout of the data that READ_LOG answers is the model's (DESIGN CHOICE, log 92). -/
def rowData (r : Nat × Nat × Nat × Nat) : List Nat := [r.1, r.2.1, r.2.2.1, r.2.2.2]

/-- The layout of the data that READ_LOG answers is the model's (DESIGN CHOICE, log 92). -/
def logData : LogEntry → List Nat
  | .portIds port own partner => [0, port, own, partner]
  | .bringUp stage code => [1, stage, code]

/-- READ_LOG: overflow status, rows queued, rows retired, and what bring-up and the ports logged, each list after its
length. -/
def execReadLog (p : MgmtPort) (s : State) : Host.Outcome State Fault Refusal :=
  readCommand "READ_LOG" p s (fun s =>
    some ([s.mgmtOvf.length] ++ s.mgmtOvf.flatMap (fun x => [x.1, x.2]) ++ [s.repairs.length] ++ s.repairs.flatMap rowData
      ++ [s.retired.length] ++ s.retired.flatMap rowData ++ [s.errLog.length] ++ s.errLog.flatMap logData))

/-- A new context: every CSR at its reset value. -/
def newCtx (priv : Priv) (pasid : BitVec 20) : Ctx :=
  { priv := priv, ptlDesc := 0, ptlRoot := 0, ptlPasid := pasid, gyQdepth := [], gyTimeout := 1000, gyJobtag := 0, gyHtab := 0,
    qtBase := 0, qtLen := 1, trapEntry := 0, ctxSave := 0, ctxReply := 0, ctxEvq := 0, seals := [], unseals := [], resident := true, saved := [],
    tiles := [], dump := none, stopping := false, asked := none }

/-- CREATE_CTX: firmware privilege and context 0xFFFF are refused, and so is an identifier in use (DESIGN CHOICE, log 91). -/
def execCreateCtx (p : MgmtPort) (ctx : Nat) (priv : BitVec 2) (pasid : BitVec 20) (s : State) : Host.Outcome State Fault Refusal :=
  changeCommand "CREATE_CTX" p s (fun s =>
    if 2 ≤ priv.toNat || Config.firmwareCtx ≤ ctx || (s.ctx? ctx).isSome then none
    else some (s.setCtx ctx (newCtx (if priv = 0 then .user else .supervisor) pasid)))

/-- WRITE_CSR: a supervisor or firmware CSR. Of a context-held CSR the command names the context, of a core-held one the
core. Firmware's own context is its own (R384) (DESIGN CHOICE, log 91). -/
def execWriteCsr (p : MgmtPort) (ctx : Nat) (csr : BitVec 12) (v : Word) (s : State) : Host.Outcome State Fault Refusal :=
  changeCommand "WRITE_CSR" p s (fun s =>
    let n := csr.toNat
    if !csrListed n || decide (n < 0x400) then none
    else match csrHome n with
      | .device => some (if n = 0xC00 then writeSem s p (v.extractLsb' 0 2) else setDevCsr s n v)
      | .ctx => if ctx = Config.firmwareCtx || (s.ctx? ctx).isNone then none else some (s.onCtx ctx (fun c => setCtxCsr c n v))
      | .core => if Config.dies * Config.coresPerDie ≤ ctx then none
          else some (if n < 0x438 then writeSel s (.core ctx) (n - 0x430) v else writeCount s (.core ctx) (n - 0x438) v)
      | .team => none)

/-- WRITE_PMC: a die or vent counter. -/
def execWritePmc (p : MgmtPort) (pl : PmcPlace) (k : Nat) (sel : Bool) (v : Word) (s : State) : Host.Outcome State Fault Refusal :=
  changeCommand "WRITE_PMC" p s (fun s =>
    if (match pl with | .core _ => true | _ => false) || !placeHas pl k then none
    else some (if sel then writeSel s pl k v else writeCount s pl k v))

/-- FW_UPDATE: the image runs from the next reset (DESIGN CHOICE, log 94). -/
def execFwUpdate (p : MgmtPort) (image : List Byte) (s : State) : Host.Outcome State Fault Refusal :=
  changeCommand "FW_UPDATE" p s (fun s => some { s with spi := image })

/-- What outlasts a reset: SPI flash with its configuration block, fuses, the rows queued for repair, and the host
(DESIGN CHOICE, log 89; DEDUCED, log 112). -/
def resetDevice (s : State) (keepDevice : Bool) : State :=
  { State.reset with
    devId := s.devIdNext, devIdNext := s.devIdNext, spi := s.spi, repairs := s.repairs, retired := s.retired, burnt := s.burnt,
    mem := if keepDevice then s.mem else s.mem.filter (fun c => decide (c.1 < Config.deviceKey)),
    poison := if keepDevice then s.poison else s.poison.filter (fun k => decide (k * 64 < Config.deviceKey)), agenda := s.agenda }

/-- MAINT_RESET: refused while a context has an accepted launch or task without its completion record (DESIGN CHOICE, log 89). -/
def execMaintReset (p : MgmtPort) (s : State) : Host.Outcome State Fault Refusal :=
  changeCommand "MAINT_RESET" p s (fun s => if s.launches.any (fun l => l.handler.isNone) then none else some (resetDevice s true))

end Sys2Proof.Machine
end

