-- ==== Sys2Proof/Machine/Phase.lean ====
section
/-! DEFINITION. Phases: `pend`, the phase record, and its reading when the phase resumes (04 R64-R66, R387; 15 R278, R279). -/

namespace Sys2Proof.Machine

/-! ## The phase record (04 R65) -/

/-- The registers of a carry set. -/
def carried (set : BitVec 128) : List Nat := setBits set

def tagCode (x : VReg) : Nat := x.tag.code

/-- The bytes of a register's value under its tag. -/
def valueBytes (w : Nat) (x : VReg) : List Byte :=
  match x with
  | .u a => leBytes 4 a.toNat
  | .a b st => leBytes 4 b.toNat ++ leBytes 4 st.toNat
  | .g _ => (List.range w).flatMap (fun l => leBytes 4 (x.lane l).toNat)

def padTo4 (bs : List Byte) : List Byte := bs ++ List.replicate ((4 - bs.length % 4) % 4) 0

/-- Tags and values of a list of registers, as phase and save records hold them. -/
def regBytes (t : Team) (rs : List Nat) : List Byte :=
  padTo4 (rs.map (fun n => BitVec.ofNat 8 (tagCode (t.vr n)))) ++ rs.flatMap (fun n => valueBytes t.w (t.vr n))

/-- s1-s63, p0-p30 and the mask words. -/
def sideBytes (t : Team) : List Byte :=
  (List.range 63).flatMap (fun i => leBytes 8 (t.sr (i + 1)).toNat)
    ++ (List.range 31).flatMap (fun i => leBytes (t.w / 8) (t.pr i).toNat) ++ leBytes (t.w / 8) t.mask.toNat

/-- The carry set of an index. -/
def carrySet (s : State) (lid k : Nat) : BitVec 128 :=
  match s.launch? lid with | some l => l.carry.getD k 0 | none => 0

/-- The record a team writes. -/
def phaseRecord (s : State) (t : Team) (g k : Nat) (bphase : BitVec 16) : List Byte :=
  let regs := carried (carrySet s t.lid k)
  let body := sideBytes t ++ regBytes t regs
  let id := match s.launch? t.lid with | some l => l.launchId | none => 0
  let h : BitVec 512 := (t.pc + 12) ++ id ++ BitVec.ofNat 24 t.team ++ BitVec.ofNat 8 g ++ bphase ++ BitVec.ofNat 16 (t.phase + 1)
    ++ BitVec.ofNat 32 (64 + body.length) ++ BitVec.ofNat 16 t.w ++ BitVec.ofNat 8 regs.length ++ BitVec.ofNat 6 k
    ++ BitVec.ofNat 6 (t.g / 4) ++ BitVec.ofNat 5 (t.n / 8) ++ (0 : BitVec 263) ++ (1 : BitVec 16)
  leBytes 64 h.toNat ++ body

/-- LENGTH of that record. -/
def phaseLength (s : State) (t : Team) (k : Nat) : Nat := (phaseRecord s t 0 k 0).length

/-- The bind record of a team's placement. -/
def Team.bindRec (s : State) (t : Team) : BindRec := bindOf s t.die t.bind

/-- The VA of a team's phase record (R64), by the bind record of the team's own placement as it stands at the `pend` (DESIGN CHOICE,
log 116). -/
def phaseVa (s : State) (t : Team) : Nat := ((t.bindRec s).pharea.toNat + t.team * (t.bindRec s).phstride.toNat) % 2 ^ 64

/-- Where the record of a pending team goes: fixed when its phase was queued. -/
def pendVa (s : State) (t : Team) : Nat :=
  match (s.launch? t.lid).bind (fun l => l.phases.find? (fun q => q.team == t.team)) with
  | some q => q.va
  | none => phaseVa s t

/-! ## pend -/

/-- The checks of R278, in order (DEDUCED, log 66). -/
def pendCheck (s : State) (t : Team) (g k : Nat) : Option (BitVec 9 × Word) :=
  let n := match s.launch? t.lid with | some l => l.carry.length | none => 0
  if groupCount s t.lid ≤ g then some (Cause.illegalOperand, posVal 2 g)
  else if n ≤ k then some (Cause.illegalOperand, posVal 2 k)
  else if !inGroup s t.lid g t.team then some (Cause.notMember, BitVec.ofNat 64 g)
  else if (t.bindRec s).phstride.toNat < phaseLength s t k then some (Cause.badBudget, BitVec.ofNat 64 (phaseLength s t k))
  else none

/-- Firmware asks the host for a page of a team's phase record (04 R387). -/
def parkFirmware (s : State) (sid : Nat) (t : Team) (m : Missing) (write : Bool) : State :=
  let waits := (gatherWaits t write [(0, laneOut m.fail m.va)]).map (fun w => { w with port := 0 })
  askPage (s.setTeam sid { t with pf := some { fetch := false, waits := waits, hard := [] } }) (.team sid) t.ctx m.va.toNat write false 512

/-- A team leaves its core: the context's dirty bytes in its L1 are written back (03 R52), its resources freed (R64; 24
R374). -/
def leaveCore (s : State) (sid : Nat) (t : Team) : State :=
  let s1 := addResident ((writeBackAll s t.coreId t.ctx).delTeam sid) t.die t.bind (-1)
  { s1.onCore t.coreId (fun c => { c with agedQ := c.agedQ.filter (· != t.slot) }) with
    wfaults := s1.wfaults.filter (fun f => f.sid != sid)
    far := s1.far.filter (fun f => f.sid != sid) }

/-- The arrival of a pending team, and its queued phase (R64) (DEDUCED, log 66). -/
def pendArrive (s : State) (sid : Nat) (t : Team) (g k : Nat) : State :=
  let p := (barrierOf s t.lid g).narrOf t.team
  let q : QPhase := { team := t.team, key := t.key, slots := t.slots, group := g, phase := p, va := phaseVa s t, carry := k, die := t.die, ready := none, ovf := false }
  ((arriveAt s t g 0 s.order).nextOrder.onLaunch t.lid (fun l => { l with phases := l.phases ++ [q] })).onTeam sid
    (fun t => { t with pended := some (g, p) })

/-- The record is written and the team leaves; a failure ends its unit without a trap (04 R387). -/
def pendWrite (s : State) (sid : Nat) (t : Team) (g k : Nat) (p : BitVec 16) : Done :=
  match t.sb.head? with
  | some e => .wait s (.result e.reg)
  | none =>
    match writeVa hostUnit t.ctx (pendVa s t) 1 (phaseRecord s t g k p) s with
    | (s1, .ok ()) =>
      let s1 := s1.onLaunch t.lid (fun l => { l with phases := l.phases.map (fun q => if q.team = t.team then { q with slots := t.slots } else q) })
      .gone (leaveCore s1 sid t)
    | (s1, .error m) =>
      match missOf t m with
      | some c => .gone (failUnit (s1.onLaunch t.lid (fun l => { l with phases := l.phases.filter (fun q => q.team != t.team) })) t c m.va)
      | none => .wait (parkFirmware s1 sid t m true) .page

/-- `pend` (15 R278, R279; 04 R64). -/
def execPend (h : Hdr) (g : BitVec 8) (k : BitVec 6) (s : State) : Host.Outcome State Fault Refusal :=
  issueScalar (.pend h g k) h s (fun sid vw s =>
    let t := vw.t
    match t.pended with
    | some (_, p) => pendWrite s sid t g.toNat k.toNat p
    | none =>
      if t.gang then .trap s Cause.phaseInGang 0 0 false
      else if regionForbids t then regionTrap s
      else match pendCheck s t g.toNat k.toNat with
        | some (c, v) => .trap s c v 0 false
        | none =>
          if ranAhead s t g.toNat then .wait s (.arrive g.toNat)
          else if ownWork s sid t then .wait s .work
          else if t.region.isSome then .wait s .regionEnd
          else match t.window.bind s.window? with
            | some w =>
              if commitQueued w then .wait s .vent
              else releaseOr (closeWindow s w).1 (deviceAccess sid t) (fun s => .wait (pendArrive s sid t g.toNat k.toNat) .run)
            | none => releaseOr s (deviceAccess sid t) (fun s => .wait (pendArrive s sid t g.toNat k.toNat) .run))

/-! ## Resumption (R66, R387) -/

/-- The registers a record holds: tags, then values. -/
def readRegs (t : Team) (rs : List Nat) (bs : List Byte) : Team :=
  let tags := rs.zipIdx.map (fun r => (r.1, (bs.getD r.2 0).toNat))
  let vals := bs.drop ((rs.length + 3) / 4 * 4)
  (tags.foldl (fun (a : Team × List Byte) r =>
    let word (i : Nat) : Lane := BitVec.ofNat 32 (leNat ((a.2.drop (4 * i)).take 4))
    match r.2 with
    | 0 => (a.1.setV r.1 (.u (word 0)), a.2.drop 4)
    | 1 => (a.1.setV r.1 (.a (word 0) (word 1)), a.2.drop 8)
    | _ => (a.1.setV r.1 (.g ((List.range t.w).map word)), a.2.drop (4 * t.w))) (t, vals)).1

/-- s1-s63, p0-p30 and the mask words from their bytes. -/
def readSide (t : Team) (bs : List Byte) : Team :=
  let t1 := (List.range 63).foldl (fun (t : Team) i => t.setS (i + 1) (BitVec.ofNat 64 (wordAt bs (8 * i)))) t
  let w8 := t.w / 8
  let at_ (i : Nat) : Mask := BitVec.ofNat 1024 (leNat ((bs.drop (504 + w8 * i)).take w8))
  ((List.range 31).foldl (fun (t : Team) i => t.setP i (at_ i)) t1).setMask (at_ 31)

/-- The team a record describes (R66). -/
def resumeTeam (s : State) (t : Team) (h : BitVec 512) (body : List Byte) : Team :=
  let side := 504 + 32 * (t.w / 8)
  let t1 := readRegs (readSide t body) (carried (carrySet s t.lid (fld h 290 6))) (body.drop side)
  { t1 with pc := BitVec.ofNat 64 (fld h 448 64), phase := fld h 352 16, recordVa := none, park := .run, pf := none }

/-- Read a phase record: its header, then its body. -/
def readPhase (ctx va : Nat) : Dev (BitVec 512 × List Byte) :=
  Dev.bind (readVa hostUnit ctx va 64 1) (fun hb =>
    let h : BitVec 512 := BitVec.ofNat 512 (leNat hb)
    Dev.bind (readVa hostUnit ctx ((va + 64) % 2 ^ 64) (fld h 320 32 - 64) 1) (fun body => Dev.pure (h, body)))

/-- PHASE_RECORD_READ (04 R387): the record of a resuming phase is read. -/
def execPhaseRecordRead (sid : Nat) (s : State) : Host.Outcome State Fault Refusal :=
  match s.team? sid with
  | none => notDue "PHASE_RECORD_READ"
  | some t =>
    match t.recordVa with
    | none => notDue "PHASE_RECORD_READ"
    | some va =>
      if t.failed.isSome || (match t.pf with | some g => !g.waits.all (fun w => w.resp.isSome) | none => false) then
        notDue "PHASE_RECORD_READ"
      else match readPhase t.ctx va s with
        | (s1, .ok (h, body)) => .next (invalidateClean (s1.setTeam sid (resumeTeam s1 t h body)) t.coreId t.ctx)
        | (s1, .error m) =>
          match missOf t m with
          | some c => .next (failUnit s1 t c m.va)
          | none => .next (parkFirmware s1 sid t m false)

end Sys2Proof.Machine
end

