-- ==== Sys2Proof/Machine/Power.lean ====
section
/-! DEFINITION. HBM4E maintenance, bring-up, power and cooling (24 R380-R385). -/

namespace Sys2Proof.Machine

/-! ## HBM4E (R380-R382) -/

/-- BANK_REFRESH_DUE (R380): issued, or postponed while accesses wait; a ninth postponement forces an all-bank refresh
(DEDUCED, log 90). -/
def execBankRefreshDue (channel bank : Nat) (waiting : Bool) (s : State) : Host.Outcome State Fault Refusal :=
  if !bankOk (channel / 32) (channel % 32) bank then notDue "BANK_REFRESH_DUE"
  else
    let k := bankKey (channel / 32) (channel % 32) bank
    let n := Tab.get 0 s.postponed k
    if !waiting then .next { s with postponed := Tab.set 0 s.postponed k 0 }
    else if n < 8 then .next { s with postponed := Tab.set 0 s.postponed k (n + 1) }
    else .next { s with postponed := s.postponed.filter (fun x => x.1 / 2 ^ 16 != channel) }

/-- Queue a row for repair, once (R382) (DESIGN CHOICE, log 88). -/
def queueRow (s : State) (r : Nat × Nat × Nat × Nat) : State :=
  if s.repairs.contains r || s.retired.contains r then s else { s with repairs := s.repairs ++ [r] }

/-- Does a line of device memory lie in a channel? -/
def lineInChannel (line stack channel : Nat) : Bool :=
  decide (Config.deviceKey ≤ line * 64) && channelOf (line * 64 - Config.deviceKey) == stack * 32 + channel

/-- ECS_SCRUB_ERROR (R381, R382; 11 R232) (DESIGN CHOICE, log 111). -/
def execEcsScrubError (stack channel bank row : Nat) (correctable : Bool) (line : Nat) (s : State) : Host.Outcome State Fault Refusal :=
  if !bankOk stack channel bank || decide (2 ^ 32 ≤ row) then notDue "ECS_SCRUB_ERROR"
  else if correctable then
    let b := bankKey stack channel bank
    let k := b * 2 ^ 32 + row
    let n := Tab.get 0 s.rowErrs k + 1
    let s1 := { s with ecs := Tab.set 0 s.ecs b (min (Tab.get 0 s.ecs b + 1) 0xFFFF), rowErrs := Tab.set 0 s.rowErrs k n }
    .next (if Config.repairAfter < n then queueRow s1 (stack, channel, bank, row) else s1)
  else if !lineInChannel line stack channel then notDue "ECS_SCRUB_ERROR"
  else
    let s1 := queueRow s (stack, channel, bank, row)
    .next (if s1.poison.contains line then s1 else { s1 with poison := s1.poison ++ [line] })

/-- Burn a spare row for each queued row; one that finds none in its bank is retired (R382) (DESIGN CHOICE, log 88). -/
def repairRows (s : State) : State :=
  s.repairs.foldl (fun s r =>
    let b := bankKey r.1 r.2.1 r.2.2.1
    let n := Tab.get 0 s.burnt b
    if n < Config.spareRows b then { s with burnt := Tab.set 0 s.burnt b (n + 1) } else { s with retired := s.retired ++ [r] })
    { s with repairs := [] }

/-! ## Bring-up (R383, R384) -/

/-- Where HDM bytes of a host port begin: its decoder holds a base only over a link with CXL.mem (11 R222, R233)
(DEDUCED, log 119). -/
def hdmBase (l : HostLink) : Option Nat := if l.full then l.hdm else none

/-- Bring-up through step `n`, at most 5: rows queued for repair are repaired at step 3, and the host links come up at step 5; the bases
that the host commits to the HDM decoders come with them (11 R222) (DESIGN CHOICE, log 87). -/
def bringUpSteps (s : State) (n : Nat) (links : HostLinks) : State :=
  let s1 := if 3 ≤ n then repairRows s else s
  if 5 ≤ n then
    { s1 with bringUp := n, hdm0 := hdmBase links.l0, hdm1 := hdmBase links.l1,
              ioPorts := (if links.l0.full then [] else [0]) ++ (if links.l1.full then [] else [1]) }
  else { s1 with bringUp := n }

/-- Step 6: context 0xFFFF exists, and its launch is in hardware queue 59 of die 0, under bind record 0. Its team loads the vents; with
its retirement bring-up ends (R384). -/
def startStep6 (s : State) (boot : BootLaunch) : State :=
  startFirmware (writeBindRec { s.setCtx Config.firmwareCtx (newCtx .firmware 0) with bringUp := 6 } 0 0 (fwBind boot.bits)) boot.fw

/-- POWER_GOOD (R383): bring-up runs, or stops at the step that fails, which is then in the log with its code. Power that returns finds
no device state (R385) (DESIGN CHOICE, log 87). -/
def execPowerGood (fail : Option (Nat × Nat)) (links : HostLinks) (boot : BootLaunch) (s : State) :
    Host.Outcome State Fault Refusal :=
  if s.powered && s.bringUp != 0 then notDue "POWER_GOOD"
  else
    let s1 := { s with powered := true }
    match fail with
    | none => .next (startStep6 (bringUpSteps s1 5 links) boot)
    | some (k, code) =>
      if k = 0 ∨ 5 < k then notDue "POWER_GOOD"
      else .next { bringUpSteps s1 (k - 1) links with errLog := s1.errLog ++ [.bringUp k code] }

/-! ## Power and cooling (R385) -/

/-- THERMAL_POWER_LIMIT: the core clock falls by 100 MHz, down to 1.2 GHz (DEDUCED, log 95). -/
def execThermalPowerLimit (s : State) : Host.Outcome State Fault Refusal :=
  if 12 < s.clkStep then .next { s with clkStep := s.clkStep - 1 } else notDue "THERMAL_POWER_LIMIT"

/-- JUNCTION_OVER_110C: at 1.2 GHz firmware places no team from now on. -/
def execJunctionOver110c (s : State) : Host.Outcome State Fault Refusal :=
  if s.clkStep = 12 then .next { s with hot := true } else notDue "JUNCTION_OVER_110C"

/-- JUNCTION_BELOW_100C. -/
def execJunctionBelow100c (s : State) : Host.Outcome State Fault Refusal :=
  if s.hot then .next { s with hot := false } else notDue "JUNCTION_BELOW_100C"

/-- INPUT_POWER_LOSS: all device state ends. SPI flash and fuses stay, and the host. -/
def execInputPowerLoss (s : State) : Host.Outcome State Fault Refusal :=
  .next { (resetDevice s false) with powered := false, repairs := [] }

end Sys2Proof.Machine
end

