-- ==== Sys2Proof/Machine/Region.lean ====
section
/-! DEFINITION. Forwarding regions: `rbeg`, `rend`, `rabt`, `rstat` and the commit of a region (19 R312-R333). Their
accesses are in RegionMem and Access. -/

namespace Sys2Proof.Machine

/-- The lowest slot no region holds (20 R336). -/
def freeSlot (s : State) : Nat := ((List.range 256).find? (fun k => (s.region? k).isNone)).getD 0

/-- The identifier of R330. -/
def regionIdent (ticket attempt slot : Nat) (irr : Bool) : Word :=
  BitVec.ofNat 64 ((ticket % 2 ^ 48) * 65536 + (if irr then 2 ^ 14 else 0) + attempt * 256 + slot)

/-- Since when the team's `rbeg.irr` has waited (R329) (DEDUCED, log 72). -/
def irrSince (t : Team) : Option Nat := match t.park with | .irrStart n => some n | _ => none

/-- `rbeg` (R329, R330). -/
def execRbeg (h : Hdr) (irr : Bool) (d : SIdx) (s : State) : Host.Outcome State Fault Refusal :=
  issueScalar (.rbeg h irr d) h s (fun sid vw s =>
    let t := vw.t
    if t.openRegion.isSome then .trap s Cause.regionState 0 0 false
    else if irr && (t.region.isSome || !regionFree s sid irr (irrSince t)) then
      .wait s.nextOrder (.irrStart ((irrSince t).getD s.order))
    else if t.region.isSome then .wait s .regionEnd
    else if !regionFree s sid irr (irrSince t) then .wait s .regionStart
    else
      let slot := freeSlot s
      let k := min (t.attempts + 1) 63
      let r : Region := { slot := slot, ctx := t.ctx, sid := sid, tkey := t.key, core := t.coreId, ticket := s.ticket,
                          irr := irr, ending := false, preds := [], raw := [] }
      let v : RegionView := { slot := slot, live := true, irr := irr, ending := false, doomed := false, attempt := k,
                              cause := 0, value := 0, reg := 0, tok := 0 }
      let s1 := { s with regions := s.regions ++ [r], ticket := s.ticket + 1 }.onTeam sid (fun t => { t with region := some v })
      lockedResult s1 sid d (regionIdent s.ticket k slot irr))

/-- A region's token lands and its team has no region any more; an abort counts as an attempt, a commit clears the count
(R330, R331). -/
def endRegion (s : State) (sid : Nat) (v : RegionView) (cause : BitVec 9) (value : BitVec 32) : State :=
  match s.team? sid with
  | none => s
  | some t =>
    let s1 := s.setTeam sid { t with region := none, attempts := if cause = 0 then 0 else min (t.attempts + 1) 62 }
    (if cause = 0 then landAcquire else landToken) s1 sid t.key v.tok v.reg (regionToken cause v.attempt v.slot value)

/-- `rend` (R320, R329, R331): a doomed region's token is written at once, and so is an irrevocable one's. -/
def execRend (h : Hdr) (d : SIdx) (s : State) : Host.Outcome State Fault Refusal :=
  issueScalar (.rend h d) h s (fun sid vw s =>
    match vw.t.openRegion with
    | none => .trap s Cause.regionState 0 0 false
    | some v0 =>
      let go (s : State) : Done :=
        let v := { v0 with ending := true, reg := d.toNat, tok := s.order }
        let s1 := s.onTeam sid (fun t => { t.setS d.toNat 0 with region := some v })
        let s2 := if d = 0 then s1.nextOrder else (addSb s1 sid (.s d.toNat) [] true).1
        if v.doomed then .fall (endRegion s2 sid v v.cause v.value) 1
        else if v.irr then .fall (endRegion (dropRegion s2 v.slot) sid v 0 0) 1
        else .fall (s2.onRegion v.slot (fun r => { r with ending := true })) 1
      if v0.irr then releaseOr s (deviceAccess sid vw.t) go else go s)

/-- `rabt` (R329, R332). -/
def execRabt (h : Hdr) (k : BitVec 16) (s : State) : Host.Outcome State Fault Refusal :=
  issueScalar (.rabt h k) h s (fun _ vw s =>
    match vw.t.openRegion with
    | none => .trap s Cause.regionState 0 0 false
    | some v =>
      if v.irr then regionTrap s
      else if v.doomed then .fall s 1
      else .fall (abortRegion s v.slot Cause.userAbort (k.setWidth 32)) 1)

/-- The status of R333. The field of DEPTH holds at most 7 (DESIGN CHOICE, log 121). -/
def regionStatus (s : State) (v : RegionView) : Word :=
  (1#64 <<< 63) ||| ((if v.doomed then v.cause else 0).setWidth 64 <<< 54) ||| (BitVec.ofNat 64 (v.attempt % 64) <<< 48)
    ||| (BitVec.ofNat 64 (v.slot % 256) <<< 40) ||| (BitVec.ofNat 64 (if v.live then min (rawDepth s 8 v.slot) 7 else 0) <<< 37)
    ||| (boolWord v.irr <<< 36) ||| (boolWord v.ending <<< 35) ||| (boolWord v.doomed <<< 34)
    ||| BitVec.ofNat 64 (if v.live then (s.spec.filter (fun x => x.slot == v.slot)).length else 0)

/-- `rstat` (R333). -/
def execRstat (h : Hdr) (d : SIdx) (s : State) : Host.Outcome State Fault Refusal :=
  issueScalar (.rstat h d) h s (fun sid vw s =>
    lockedResult s sid d (match vw.t.region with | some v => regionStatus s v | none => 0))

/-- The committed bytes of a line reach the clean copies of it, and the fills of it still in flight, in every L1: a read that returns
a committed write is then an acquire of that region's writes (14 R272; R321) (DEDUCED, log 124). -/
def showCommitted (s : State) (x : SpecLine) : State :=
  { s with
    l1 := s.l1.map (fun y => if y.ctx = x.ctx ∧ y.line = x.line then
        { y with data := mergeLine (x.mask &&& y.valid &&& ~~~ y.dirty) x.data y.data } else y)
    fills := s.fills.map (fun f => if f.ctx = x.ctx ∧ f.line = x.line then
        { f with data := mergeLine (x.mask &&& f.valid) x.data f.data } else f) }

/-- A region's bytes of a line become its committed bytes, and enter the core's write signatures (R321) (DEDUCED, log 124). -/
def commitLine (s : State) (t : Team) (x : SpecLine) : State :=
  let s1 := showCommitted (mergeHome s x.ctx x.line x.mask x.data x.tr true) x
  let s2 := updateL1 s1 x.core x.ctx x.line x.mask x.data
  (setBits x.mask).foldl (fun s i => foldAccess (noteGlobal s x.ctx (x.line * 64 + i) 1) t (x.line * 64 + i) 1 false true) s2

/-- Does a window hold a write of the region's (17 R298)? -/
def commitHeld (s : State) (r : Region) : Bool :=
  !s.windows.isEmpty && (match s.team? r.sid with
    | some t => (s.spec.filter (fun x => x.slot == r.slot)).any (fun x =>
        (setBits x.mask).any (fun i => held s t (x.line * 64 + i) 1 true))
    | none => false)

/-- Is a region eligible to commit? -/
def mayCommit (s : State) (r : Region) : Bool := r.ending && !r.irr && r.preds.isEmpty && !commitHeld s r

/-- The eligible region with the lowest ticket. -/
def nextCommit (s : State) : Option Region :=
  (s.regions.filter (mayCommit s)).foldl (fun (a : Option Region) r =>
    match a with
    | none => some r
    | some b => if r.ticket < b.ticket then some r else some b) none

/-- A write of the region's team to bytes the region has written that is still queued: it was made before, and goes first (14 R262,
R270). -/
def queuedUnder (s : State) (r : Region) (q : QWrite) : Bool :=
  q.sid == r.sid && s.spec.any (fun x => x.slot == r.slot && x.ctx == q.ctx && x.line == q.line && (x.mask &&& q.mask != 0))

/-- REGION_COMMIT (R321): at most one in a cycle. A region with bytes in a range sealed meanwhile aborts: no write reaches a sealed
range (10 R210) (DEDUCED, log 30). -/
def execRegionCommit (s : State) : Host.Outcome State Fault Refusal :=
  match nextCommit s with
  | none => notDue "REGION_COMMIT"
  | some r =>
    if s.committedAt == some s.clock then notDue "REGION_COMMIT"
    else if s.wq.any (queuedUnder s r) then .next (drainAll s (queuedUnder s r))
    else
      let lines := s.spec.filter (fun x => x.slot == r.slot)
      if lines.any (fun x => sealedAt s x.ctx (x.line * 64)) then .next (abortRegion s r.slot Cause.sealWrite 0)
      else match s.team? r.sid with
      | none => notDue "REGION_COMMIT"
      | some t =>
        let s1 := dropRegion (lines.foldl (fun s x => commitLine s t x) s) r.slot
        let s2 := match t.region with
          | some v => endRegion s1 r.sid v 0 (BitVec.ofNat 32 lines.length)
          | none => s1
        .next { s2 with committedAt := some s.clock }

end Sys2Proof.Machine
end

