-- ==== Sys2Proof/Machine/Retire.lean ====
section
/-! DEFINITION. The ends of units, teams and launches: failure, retirement, completion records, and the failures of the device
itself (23 R362, R368; 24 R374, R375; 03 R52, R53; 21 R353). -/

namespace Sys2Proof.Machine

/-! ## Units that fail (23 R362) -/

/-- Has a matrix operation not started (13 R246)? A transfer or product that runs, or that waits for a page, has. -/
def notStarted (e : MEntry) : Bool :=
  match e.stage with
  | .waiting => true
  | .gathering _ => true
  | .gathered => true
  | _ => false

/-- Remove a team's matrix entries that have not started, from every queue that holds them. -/
def dropEntries (s : State) (key : Nat) : State :=
  { s with cores := s.cores.map (fun (c : Nat × Core) =>
      (c.1, { c.2 with matrix := c.2.matrix.filter (fun e => !(e.tkey == key && notStarted e)) })) }

/-- A failed team's region: it aborts with the cause, unless it has requested commit. -/
def failRegion (s : State) (sid : Nat) (cause : BitVec 9) : State :=
  match (s.team? sid).bind Team.region with
  | none => s
  | some v =>
    if v.ending then s
    else
      let s1 := if v.irr then dropRegion s v.slot else if v.live then abortRegion s v.slot cause 0 else s
      s1.onTeam sid (fun t => { t with region := none })

/-- What failure does to one team: it issues no more, and only what had started goes on, the pass of an access at hand among it. -/
def failTeam (s : State) (sid : Nat) (t : Team) (cause : BitVec 9) : State :=
  (failRegion (dropEntries s t.key) sid cause).onTeam sid (fun t =>
    if t.midAccess then { t with pend := [] } else { t with pend := [], park := .run, pf := none, replay := none })

def unitTeams (s : State) (lid unit : Nat) : List (Nat × Team) := s.teams.filter (fun e => e.2.lid == lid && e.2.unit == unit)

/-- UNIT_FAIL (R362). Windows, groups and replies follow as each team retires (R374). -/
def execUnitFail (lid unit : Nat) (cause : BitVec 9) (s : State) : Host.Outcome State Fault Refusal :=
  let ts := unitTeams s lid unit
  if ts.any (fun e => e.2.failed == some cause) then .next (ts.foldl (fun s e => failTeam s e.1 e.2 cause) s)
  else notDue "UNIT_FAIL"

/-! ## Teams that retire (24 R374) -/

/-- Is a team's work over, so that it retires? (DEDUCED, log 106). -/
def retireReady (s : State) (sid : Nat) (t : Team) : Bool :=
  (t.exited || t.failed.isSome) && !t.midAccess && !ownWork s sid t && t.region.isNone
    && (match t.window.bind s.window? with | some w => !commitQueued w | none => true)

/-- The reply of a handler team that ends (21 R353): NO_RETURN, or its cause; one that fails after `gret` reports to the
host (DEDUCED, log 74). -/
def handlerEnd (s : State) (sid : Nat) (t : Team) : State :=
  match t.handler with
  | none => s
  | some x =>
    match x.replied, t.failed with
    | false, f => replyAtEnd s sid x (f.getD Cause.noReturn)
    | true, some c => teamEvent s t t.failVal 0 c 3
    | true, none => s

/-- A unit's count of running teams falls; its last team decides how it ended. -/
def noteEnd (l : Launch) (t : Team) : Launch :=
  match unitState l t.unit with
  | .running n =>
    { l with ustate := Tab.put l.ustate t.unit (if 1 < n then .running (n - 1) else match t.failed with | some c => .failed c | none => .done) }
  | _ => l

/-- TEAM_RETIRE (R374; 15 R276; 17 R307) (DEDUCED, log 74). -/
def execTeamRetire (sid : Nat) (s : State) : Host.Outcome State Fault Refusal :=
  match s.team? sid with
  | none => notDue "TEAM_RETIRE"
  | some t =>
    if !retireReady s sid t then notDue "TEAM_RETIRE"
    else
      let s1 := match t.window.bind s.window? with | some w => (closeWindow s w).1 | none => s
      .next ((handlerEnd (leaveCore (departAll s1 t.lid t.team) sid t) sid t).onLaunch t.lid (fun l => noteEnd l t))

/-! ## Launches that retire (24 R375; 03 R52, R53) -/

def unitFailed : UnitState → Option (BitVec 9)
  | .failed c => some c
  | _ => none

/-- Units that failed, those never placed of a cancelled launch among them (04 R71). -/
def failCount (l : Launch) : Nat :=
  match l.refused with
  | some _ => l.units
  | none => (l.ustate.filter (fun u => (unitFailed u.2).isSome)).length + (if l.cancelled then l.units - l.next else 0)

/-- The lowest-numbered failed unit and its cause. -/
def firstFail (l : Launch) : Option (Nat × BitVec 9) :=
  match l.refused with
  | some (c, _) => some (0, c)
  | none =>
    match l.ustate.findSome? (fun u => (unitFailed u.2).map (fun c => (u.1, c))) with
    | some x => some x
    | none => if l.cancelled ∧ l.next < l.units then some (l.next, Cause.cancelled) else none

/-- Bits 63:0 of the completion record. -/
def completionStatus (l : Launch) : Word :=
  match firstFail l with
  | some (u, c) => doneCause c ||| BitVec.ofNat 64 (u % 2 ^ 24)
  | none => doneCause 0

/-- The completion record (03 R52). -/
def completionRecord (s : State) (l : Launch) : BitVec 256 :=
  BitVec.ofNat 64 s.clock ++ l.launchId ++ l.job ++ BitVec.ofNat 25 (failCount l) ++ BitVec.ofNat 25 (l.units - failCount l)
    ++ (0 : BitVec 14) ++ completionStatus l

/-- Has a launch's last unit been counted (R375)? A refused launch, and a cancelled one that never ran, end at once. -/
def launchEnded (s : State) (l : Launch) : Bool :=
  l.waiting.isNone && (l.refused.isSome || ((l.cancelled || decide (l.units ≤ l.next))
    && l.ustate.all (fun u => match u.2 with | .done => true | .failed _ => true | _ => false)
    && !s.teams.any (fun e => e.2.lid == l.lid)))

/-- Once the team of bring-up step 6 has retired, ORD.MODE is 0 and launches are accepted; one that failed stops bring-up there (24
R383). -/
def endBringUp (s : State) (l : Launch) : State :=
  if s.bringUp = 6 ∧ l.ctx = Config.firmwareCtx then
    match firstFail l with
    | none => { s with bringUp := 7, ordMode := false }
    | some (_, c) => { s with errLog := s.errLog ++ [.bringUp 6 c.toNat] }
  else s

/-- What follows the record: the entry is past, the launch and its barriers are gone, and what waited for it may go on. -/
def dropLaunch (s : State) (l : Launch) : State :=
  let s := endBringUp s l
  let s1 := if l.dispatched then s else entryDispatched s l.ctx l.qid l.res
  let s2 := freeMatcher s1 l.die l.lid
  releaseCancels { s2 with launches := s2.launches.filter (fun x => x.lid != l.lid), hub := s2.hub.filter (fun x => x.lid != l.lid) } l.die

/-- A page of a launch's report: the host is asked. -/
def reportMiss (s : State) (l : Launch) (m : Missing) (unit : Nat) (status : Bool) : State :=
  askPage (s.setLaunch { l with waiting := some (missPage m), onStatus := status }) (.launch l.lid) l.ctx m.va.toNat true false unit

/-- Firmware writes the STATUS of the entry (03 R53); where that fails the report is lost (R386) (DEDUCED, log 57). An entry of
firmware's own context lies in no ring (24 R384). -/
def writeStatus (s : State) (l : Launch) : State :=
  if l.ctx = Config.firmwareCtx then dropLaunch s l
  else match writeVa hostUnit l.ctx (l.entryVa + 8) 8 (leBytes 8 (completionStatus l).toNat) s with
  | (s1, .ok ()) => dropLaunch s1 l
  | (s1, .error m) =>
    match missCause l.served l.denied m with
    | none => reportMiss s1 l m 512 true
    | some c => dropLaunch (queueEvent s1 l.ctx c m.va l.launchId) l

/-- The launch reports and retires (DEDUCED, log 57). -/
def reportLaunch (s : State) (l : Launch) : State :=
  let usable := match l.refused with | some (_, u) => u | none => true
  if l.handler.isSome then dropLaunch s l
  else if !usable then writeStatus s l
  else match writeVa unitOf l.ctx l.compl.toNat 32 (leBytes 32 (completionRecord s l).toNat) s with
    | (s1, .ok ()) => dropLaunch s1 l
    | (s1, .error m) =>
      match missCause l.served l.denied m with
      | none => reportMiss s1 l m (unitOf m.va.toNat) false
      | some _ => writeStatus s1 l

/-- LAUNCH_RETIRE (R375). -/
def execLaunchRetire (lid : Nat) (s : State) : Host.Outcome State Fault Refusal :=
  match s.launch? lid with
  | none => notDue "LAUNCH_RETIRE"
  | some l => if launchEnded s l then .next (reportLaunch s l) else notDue "LAUNCH_RETIRE"

/-! ## The device fails (23 R368) -/

/-- The unit of a team fails, with its event record of KIND 4. -/
def failWithEvent (s : State) (t : Team) (cause : BitVec 9) : State :=
  if t.failed.isSome then s else failUnit (teamEvent s t t.tval 0 cause 4) t cause

/-- The teams whose state holds a place in on-die storage. -/
def holders (s : State) (p : EccPlace) : List (Nat × Team) :=
  s.teams.filter (fun e =>
    match p with
    | .regs sid => e.1 == sid
    | .spad core off =>
      (e.2.coreId == core || (e.2.twin && e.2.coreId / 2 == core / 2))
        && (decide (e.2.spadOff ≤ off ∧ off < e.2.spadOff + e.2.spadLen)
          || (e.2.coreId == core && decide (e.2.privOff ≤ off ∧ off < e.2.privOff + e.2.privLen * e.2.w)))
    | .tile core _ => e.2.coreId == core || (e.2.twin && e.2.coreId / 2 == core / 2))

/-- One team of each unit. -/
def oneOfEach (ts : List (Nat × Team)) : List (Nat × Team) :=
  ts.foldl (fun (a : List (Nat × Team)) e => if a.any (fun x => x.2.lid == e.2.lid && x.2.unit == e.2.unit) then a else a ++ [e]) []

/-- UNCORRECTED_ECC (R368). -/
def execUncorrectedEcc (p : EccPlace) (s : State) : Host.Outcome State Fault Refusal :=
  let ts := oneOfEach (holders s p)
  if ts.isEmpty then notDue "UNCORRECTED_ECC"
  else .next (ts.foldl (fun s e => failWithEvent s e.2 Cause.uncorrectedEcc) s)

/-- Every item in flight that is not part of a unit ends with MACHINE_CHECK: pushes, vent sections, calls (DEDUCED, log 112). -/
def endInFlight (s : State) : State :=
  let c := Cause.machineCheck
  let s1 := s.pushes.foldl (fun s p => endPush s p c 0) s
  let s2 := s1.windows.foldl (fun s w => (w.queue.filter (fun x => !isCall x)).foldl (fun s _ => endSection s w.vent w.num c 0) s) s1
  let s3 := s2.arrivals.foldl (fun s x => refuseCall s x c) s2
  let s4 := (s3.dieTab.flatMap (fun d => d.2.gyq.flatMap (fun q => q.2))).foldl (fun s e => sendReply s e.call c 0 e.spilled 0) s3
  let s5 := { s4 with dieTab := s4.dieTab.map (fun (d : Nat × Die) => (d.1, { d.2 with gyq := [] })) }
  let s6 := (s5.stalls.foldl (fun s x => sendReply s x.call c 0 false 0) s5)
  (s6.spills.flatMap (fun r => r.calls.map Prod.fst)).foldl (fun s x => sendReply s x c 0 true 0) { s6 with stalls := [], spills := [] }

/-- What a launch has that is not resident ends too: an entry with no unit placed is refused with the cause, units not yet
placed have failed, and queued phases leave. -/
def endLaunch (l : Launch) : Launch :=
  let c := Cause.machineCheck
  if l.refused.isSome then l
  else if !l.dispatched then { l with refused := some (c, true) }
  else
    let ended := (List.range (l.units - l.next)).map (fun i => l.next + i) ++ l.phases.map (fun q => q.team)
    { l with next := l.units, phases := [], ustate := ended.foldl (fun t u => Tab.put t u (.failed c)) l.ustate }

/-- A machine check ends units not yet placed, queued phases, pushes, vent commits, calls that are queued, stalled, arriving
or spilled, in one step (DEDUCED, log 75). -/
def endUnplaced (s : State) : State :=
  let s1 := s.launches.foldl (fun s l => l.phases.foldl (fun s q => departAll s l.lid q.team)
    (if l.dispatched && !l.cancelled then departUnplaced s l else s)) s
  { s1 with launches := s1.launches.map endLaunch }

/-- A team in a save area ends: its handler's reply, its region, its groups, its unit. -/
def endSaved (s : State) (w : SavedWork) : State :=
  let t := w.team
  let c := Cause.machineCheck
  let s1 := match t.handler with
    | some x => if x.replied then teamEvent s t t.tval 0 c 3 else sendReply s x.call c x.cls x.spilled 0
    | none => s
  let s2 := match t.region with | some v => if v.irr then dropRegion s1 v.slot else s1 | none => s1
  (departAll s2 t.lid t.team).onLaunch t.lid (fun l => { l with ustate := Tab.put l.ustate t.unit (.failed c) })

/-- The units that pre-emption has saved are in flight too, and end with it, each with an event record of KIND 4. -/
def endSavedUnits (s : State) : State :=
  let ws := s.ctxs.flatMap (fun c => c.2.saved)
  let s1 := (oneOfEach (ws.map (fun w => (w.team.sid, w.team)))).foldl (fun s e => teamEvent s e.2 e.2.tval 0 Cause.machineCheck 4) s
  let s2 := ws.foldl endSaved s1
  { s2 with ctxs := s2.ctxs.map (fun c => (c.1, { c.2 with saved := [], tiles := [], dump := none })) }

/-- MACHINE_CHECK (R368): every resident unit fails, and every other item in flight ends (DEDUCED, log 75). -/
def execMachineCheck (_ : McUnit) (s : State) : Host.Outcome State Fault Refusal :=
  let s1 := (oneOfEach s.teams).foldl (fun s e => failWithEvent s e.2 Cause.machineCheck) s
  .next (endUnplaced (endSavedUnits (endInFlight s1)))

end Sys2Proof.Machine
end

