-- ==== Sys2Proof/Machine/Preempt.lean ====
section
/-! DEFINITION. Pre-emption: at a phase boundary, forced, and resumption; save records and vent dumps (23 R364-R367; 17 R311;
19 R328). -/

namespace Sys2Proof.Machine

/-! ## The save record (R367) -/

/-- A saved matrix instruction: its word, descriptor and index lanes. -/
def matrixBytes (e : MEntry) : List Byte :=
  leBytes 12 e.word.toNat ++ leBytes 16 e.desc.toNat ++ leBytes 4 (e.idx.length / 8) ++ e.idx.flatMap (fun x => leBytes 4 x.toNat)

/-- The entries of a team, in queue order. -/
def teamEntries (s : State) (t : Team) : List MEntry := (s.core t.coreId).matrix.filter (fun e => e.tkey == t.key && !e.odd)

/-- The trap registers of a record: those of a pending trap where one is due. -/
def dueTrap (t : Team) : Bool × BitVec 9 × Word :=
  match nextPending t with
  | some p => (true, p.cause, p.tval)
  | none => (false, t.cause, t.tval)

/-- Does a team's record carry the SPADG range: a free team's, and that of a gang's lowest-numbered team? -/
def carriesSpad (s : State) (t : Team) : Bool :=
  t.spadLen != 0 && !(t.gang && s.teams.any (fun e => e.2.lid == t.lid && e.2.unit == t.unit && decide (e.2.team < t.team)))

/-- The scratchpad contents of a record. A twin gang's range lies on both cores: the even core's comes first. -/
def scratchBytes (s : State) (t : Team) : List Byte :=
  let cores := if t.twin then [t.coreId / 2 * 2, t.coreId / 2 * 2 + 1] else [t.coreId]
  (if carriesSpad s t then cores.flatMap (fun c => spadRead s c t.spadOff t.spadLen) else [])
    ++ spadRead s t.coreId t.privOff (t.privLen * t.w)

def excBytes (e : Exc) : List Byte :=
  (List.range 8).flatMap (fun k => leBytes 4 (e.thrOf k).toNat)
    ++ (List.range 8).flatMap (fun k => leBytes 4 (e.totalOf k).toNat ++ leBytes 4 (e.wcntOf k).toNat)

/-- The body of a record (PRESUMED, log 77). -/
def saveBody (s : State) (t : Team) : List Byte :=
  excBytes t.exc ++ (List.range 4).flatMap (fun k => leBytes 8 (Tab.get (0 : Word) t.keep k).toNat) ++ sideBytes t
    ++ (if t.replay.isSome || t.inTrap then leBytes (t.w / 8) t.fmask.toNat else [])
    ++ regBytes t (List.range t.n) ++ (teamEntries s t).flatMap matrixBytes ++ scratchBytes s t

/-- The header of a record with its body's length. -/
def saveHeader (s : State) (t : Team) (body : Nat) : BitVec 1024 :=
  let d := dueTrap t
  let id := match s.launch? t.lid with | some l => l.launchId | none => 0
  let doomed := match t.region with | some v => v.doomed | none => false
  let rc : BitVec 9 := match t.region with | some v => if v.doomed then v.cause else 0 | none => 0
  let act : BitVec 16 := BitVec.ofNat 16 ((List.range 8).foldl (fun a k => a + (t.exc.actOf k).toNat * 4 ^ k) 0)
  let scratch := t.privLen != 0 || carriesSpad s t
  t.pc ++ t.tpc ++ d.2.2 ++ BitVec.ofNat 32 (128 + body) ++ BitVec.ofNat 24 t.team ++ BitVec.ofNat 8 (teamEntries s t).length ++ id
    ++ BitVec.ofNat 16 t.w ++ d.2.1 ++ BitVec.ofNat 6 (t.g / 4) ++ BitVec.ofNat 5 (t.n / 8) ++ BitVec.ofNat 9 (t.spadLen / 4096)
    ++ BitVec.ofNat 9 (t.privLen / 16) ++ rc ++ BitVec.ofBool doomed ++ BitVec.ofBool d.1 ++ BitVec.ofBool t.replay.isSome
    ++ BitVec.ofBool t.inTrap ++ BitVec.ofBool t.sbchk ++ t.nmEsc ++ t.nmGrain ++ t.nmSigw ++ t.exc.winLog ++ act
    ++ (0 : BitVec 621) ++ BitVec.ofBool scratch ++ (1 : BitVec 16)

/-- The layout of the save record beyond what 23 R367 lists (matrix queue entries, tiles per core, scratch bytes after the
record) is the model's (PRESUMED, log 77). -/
def saveRecord (s : State) (t : Team) : List Byte :=
  let body := saveBody s t
  leBytes 128 (saveHeader s t body.length).toNat ++ body

/-! ## The vent dump (17 R311) -/

/-- The window record. -/
def windowRecord (s : State) (w : Window) : BitVec 512 :=
  let team := match s.team? w.sid with | some t => t.team | none => 0
  BitVec.ofNat 64 w.base ++ BitVec.ofNat 64 w.len ++ (0 : BitVec 224) ++ BitVec.ofNat 8 w.group ++ BitVec.ofNat 8 w.queue.length
    ++ BitVec.ofNat 16 team ++ BitVec.ofNat 32 (Tab.get 0 w.stat 0) ++ BitVec.ofNat 32 (Tab.get 0 w.stat 1) ++ (0 : BitVec 23)
    ++ BitVec.ofNat 9 w.vent ++ BitVec.ofNat 6 w.replays ++ BitVec.ofNat 4 w.consec ++ w.esc ++ w.grain ++ w.sigw ++ (0 : BitVec 8)
    ++ BitVec.ofNat 6 w.num

/-- The record of a queued call or `nmcommit`. -/
def itemRecord : VentItem → List Byte
  | .call _ e args => (List.range 6).flatMap (fun i => leBytes 8 (args.getD i 0).toNat) ++ leBytes 16 (e % 256)
  | .commit i reg _ =>
    leBytes 4 (i.bytes.toNat + i.group.toNat * 2 ^ 16 + (if i.count then 2 ^ 24 else 0)) ++ leBytes 2 (0x100 + reg) ++ List.replicate 43 0
      ++ leBytes 15 1

def dumpBytes (s : State) (ws : List Window) : List Byte :=
  if ws.isEmpty then [] else
  leBytes 64 (1 + ws.length * 2 ^ 16) ++ ws.flatMap (fun w => leBytes 64 (windowRecord s w).toNat)
    ++ ws.flatMap (fun w => w.queue.flatMap itemRecord)

/-! ## Tiles -/

/-- A core's tiles and counters as firmware keeps them: 4,096 KiB, then 512 bytes. Their layout is the model's own. -/
def tileBytes (s : State) (core : Nat) : List Byte :=
  (List.range 256).flatMap (fun a => (List.range 4096).flatMap (fun i => leBytes 4 ((tileOf s core a).getD i 0).toNat))
    ++ (List.range 256).flatMap (fun a => leBytes 2 (counterOf s core a).toNat)

/-- Put them back. -/
def setTiles (s : State) (core : Nat) (bs : List Byte) : State :=
  (List.range 256).foldl (fun s a =>
    let x := (List.range 4096).map (fun i => (BitVec.ofNat 32 (leNat ((bs.drop (16384 * a + 4 * i)).take 4)) : Lane))
    (setTile s core a x).onCore core (fun c =>
      { c with counters := Tab.set (0 : BitVec 16) c.counters a (BitVec.ofNat 16 (leNat ((bs.drop (2 ^ 22 + 2 * a)).take 2))) })) s

/-! ## Areas (R364, R366) -/

/-- CTX.SAVE's area: its VA and its size. -/
def saveArea (c : Ctx) : Nat × Nat :=
  let n := (c.ctxSave.extractLsb' 0 6).toNat
  ((csrVa (c.ctxSave &&& ~~~ 4095#64)).toNat, if 12 ≤ n ∧ n ≤ 47 then 2 ^ n else 0)

def up64 (n : Nat) : Nat := (n + 63) / 64 * 64

/-- A context's resident teams; teams of one unit stand together. -/
def ctxTeams (s : State) (ctx : Nat) : List (Nat × Team) :=
  let ts := s.teams.filter (fun e => e.2.ctx == ctx)
  (oneOfEach ts).flatMap (fun x => ts.filter (fun e => e.2.lid == x.2.lid && e.2.unit == x.2.unit))

def ctxCores (s : State) (ctx : Nat) : List Nat := ((ctxTeams s ctx).map (fun e => e.2.coreId)).dedup
def ctxWindows (s : State) (ctx : Nat) : List Window := s.windows.filter (fun w => w.ctx == ctx)

/-- What goes into the save area, each at a 64-byte boundary: records, the vent dump, the tiles of each core. -/
def savePieces (s : State) (ctx : Nat) : List (List Byte) :=
  (ctxTeams s ctx).map (fun e => saveRecord s e.2)
    ++ (if (ctxWindows s ctx).isEmpty then [] else [dumpBytes s (ctxWindows s ctx)]) ++ (ctxCores s ctx).map (tileBytes s)

/-- Where the pieces go, from an address up. -/
def pieceVas : Nat → List (List Byte) → List Nat
  | _, [] => []
  | va, p :: r => va :: pieceVas (va + up64 p.length) r

/-- Free records of the reply area, up to a number. -/
def freeReplies (ctx va : Nat) : Nat → Nat → Nat → Dev Bool
  | _, _, 0 => Dev.pure true
  | 0, _, _ => Dev.pure false
  | k + 1, i, n + 1 =>
    Dev.bind (readVa hostUnit ctx (va + 32 * i) 32 1) (fun bs =>
      freeReplies ctx va k (i + 1) (if (bs.getD 16 0).getLsbD 0 then n + 1 else n))

/-! ## Forced pre-emption (R365) -/

/-- QUOTA of every bind record of a context becomes 0, also of one that is to come into force (R364). -/
def clearQuotas (s : State) (ctx : Nat) : State :=
  let clear (b : Nat × BindRec) : Nat × BindRec := (b.1, if b.2.ctx.toNat = ctx then { b.2 with quota := 0 } else b.2)
  { s with dieTab := s.dieTab.map (fun (d : Nat × Die) =>
      (d.1, { d.2 with bind := d.2.bind.map clear, bindNext := d.2.bindNext.map clear })) }

/-- A page firmware needs: it waits for the host. A failed access ends the attempt. -/
def firmwareMiss (s : State) (ctx : Nat) (m : Missing) (write : Bool) : State :=
  match m.fail with
  | .absent _ => askPage (s.onCtx ctx (fun c => { c with asked := some (missPage m) })) (.firmware ctx) ctx m.va.toNat write false 512
  | .hard _ => s.onCtx ctx (fun c => { c with stopping := false })

/-- The context stops being resident: no team of it is placed, and what its queues hold undispatched goes back to the rings (R364; 03
R43). -/
def endResidency (s : State) (ctx : Nat) : State :=
  (leaveQueues (clearQuotas s ctx) ctx).onCtx ctx (fun c => { c with resident := false })

/-- Step 1: issue stops, and the context's regions that have not requested commit abort (19 R328). It begins only where both areas are
enabled and large enough (R366) (DESIGN CHOICE, log 76). -/
def beginPreempt (s : State) (ctx : Nat) (c : Ctx) : State :=
  let need := (ctxTeams s ctx).foldl (fun a e => a + e.2.slots.length) 0
  if (saveArea c).2 = 0 ∨ (replyArea c).2 = 0 then s
  else if (saveArea c).2 < ((savePieces s ctx).map (fun p => up64 p.length)).sum then s
  else match freeReplies ctx (replyArea c).1 (replyArea c).2 0 need s with
    | (s1, .error m) => firmwareMiss s1 ctx m false
    | (s1, .ok false) => s1
    | (s1, .ok true) =>
      let s2 := (endResidency s1 ctx).onCtx ctx (fun c => { c with stopping := true })
      (s2.regions.filter (fun r => r.ctx == ctx && !r.ending && !r.irr)).foldl (fun s r => abortRegion s r.slot Cause.preempt 0) s2

/-- Does something of a team still run that must end before it is saved? -/
def stillRuns (s : State) (sid : Nat) (t : Team) : Bool :=
  t.failed.isSome || t.pended.isSome || t.recordVa.isSome || t.midAccess || t.more.isSome || !t.owed.isEmpty || !t.misses.isEmpty
    || (t.mem.isSome && t.park == .run)
    || t.sb.any (fun e => !e.engine) || s.wchecks.any (fun c => c.sid == sid) || s.far.any (fun f => f.sid == sid)
    || s.wq.any (fun q => q.sid == sid) || (s.core t.coreId).copies.any (fun j => j.tkey == t.key)
    || s.cores.any (fun c => c.2.matrix.zipIdx.any (fun x => x.1.tkey == t.key && (x.1.stage != .waiting ||
        (!x.1.odd && versionNow s c.1 x.1 && !twinHeld s c.1 x.2 x.1))))
    || (match t.region with | some v => v.ending | none => false)
    || s.pushes.any (fun p => p.key == t.key && !p.stalled)
    || s.hub.any (fun x => match x.msg with | .arrive _ _ _ k _ _ => k == t.key | _ => false)
    || (match t.window.bind s.window? with
        | some w => (match (s.vent w.vent).run with | some r => r.win == w.num && r.escalated | none => false)
        | none => false)

/-- An attempt that is not escalated is discarded; the window's dirty bytes go to memory, and every Wc is cleared (17 R311). -/
def quietWindow (s : State) (w : Window) : State :=
  let s1 := match (s.vent w.vent).run with
    | some r => if r.win = w.num then (s.onVent w.vent (fun x => { x with run := none })).onWindow w.num (fun w => statAdd w 3 1) else s
    | none => s
  clearSigs (flushWindow s1 w (fun _ => true)) w false

/-- Write the pieces of the save area. -/
def writePieces (ctx : Nat) : List (Nat × List Byte) → Dev Unit
  | [] => Dev.pure ()
  | (va, p) :: r => Dev.bind (writeVa hostUnit ctx va 1 p) (fun _ => writePieces ctx r)

/-- Steps 5 to 7: windows are dumped, records and tiles written, and everything is freed (DESIGN CHOICE, log 76). -/
def saveContext (s : State) (ctx : Nat) (c : Ctx) : State :=
  let s1 := (ctxWindows s ctx).foldl quietWindow s
  let pieces := savePieces s1 ctx
  let vas := pieceVas (saveArea c).1 pieces
  let ts := ctxTeams s1 ctx
  let ws := ctxWindows s1 ctx
  match writePieces ctx (vas.zip pieces) s1 with
  | (s2, .error m) => firmwareMiss s2 ctx m true
  | (s2, .ok ()) =>
    let works : List SavedWork := (ts.zip vas).map (fun (x : (Nat × Team) × Nat) =>
      { team := x.1.2, spad := carriesSpad s1 x.1.2, va := x.2, window := x.1.2.window.bind (fun n => ws.find? (fun w => w.num == n)), toks := [] })
    let rest := vas.drop (ts.length + (if ws.isEmpty then 0 else 1))
    let s3 := ts.foldl (fun s e => leaveCore (dropEntries s e.2.key) e.1 e.2) { s2 with windows := s2.windows.filter (fun w => w.ctx != ctx) }
    let dump := if ws.isEmpty then none else (vas[ts.length]?).map (fun va => (va, (dumpBytes s1 ws).length))
    s3.onCtx ctx (fun c => { c with saved := works, tiles := (ctxCores s1 ctx).zip rest, dump := dump, stopping := false })

/-- FORCED_PREEMPT (R364, R365): it begins where the areas suffice, and it ends once nothing of the context runs. Firmware's
own context is never pre-empted (24 R384). -/
def execForcedPreempt (ctx : Nat) (s : State) : Host.Outcome State Fault Refusal :=
  match s.ctx? ctx with
  | none => notDue "FORCED_PREEMPT"
  | some c =>
    if ctx = Config.firmwareCtx || c.asked.isSome || !c.saved.isEmpty then notDue "FORCED_PREEMPT"
    else if !c.stopping then .next (beginPreempt s ctx c)
    else if (ctxTeams s ctx).any (fun e => stillRuns s e.1 e.2) then notDue "FORCED_PREEMPT"
    else .next (saveContext s ctx c)

/-- PHASE_BOUNDARY_PREEMPT (R364): QUOTA becomes 0, and the teams leave as they pend or retire. -/
def execPhaseBoundaryPreempt (ctx : Nat) (s : State) : Host.Outcome State Fault Refusal :=
  if ctx = Config.firmwareCtx || (s.ctx? ctx).isNone then notDue "PHASE_BOUNDARY_PREEMPT"
  else .next (endResidency s ctx)

/-! ## Resumption (R365, R366) -/

/-- The exception registers of a record, each WCNT as it was saved, whatever window boundary has passed since (DESIGN CHOICE, log
131). -/
def readExc (h : BitVec 1024) (bs : List Byte) : Exc :=
  let w (off : Nat) : BitVec 32 := BitVec.ofNat 32 (leNat ((bs.drop off).take 4))
  let tab {n : Nat} (d : BitVec n) (f : Nat → BitVec n) : Tab (BitVec n) := (List.range 8).foldl (fun t k => Tab.set d t k (f k)) []
  { thr := tab 0xFFFFFFFF (fun k => w (4 * k)), winLog := h.extractLsb' 654 6, act := tab 0 (fun k => h.extractLsb' (638 + 2 * k) 2),
    total := tab 0 (fun k => w (32 + 8 * k)), wcnt := tab 0 (fun k => w (36 + 8 * k)) }

/-- How many bytes the values under a list of tags take. -/
def tagSize (w : Nat) (tag : Byte) : Nat := if tag = 0 then 4 else if tag = 1 then 8 else 4 * w

/-- The matrix instructions of a record: word, descriptor, index lanes; and the bytes that follow them. -/
def readEntries : Nat → List Byte → List (BitVec 96 × BitVec 128 × List Lane) × List Byte
  | 0, bs => ([], bs)
  | k + 1, bs =>
    let n := (bs.getD 28 0).toNat * 8
    let idx : List Lane := (List.range n).map (fun i => BitVec.ofNat 32 (leNat ((bs.drop (32 + 4 * i)).take 4)))
    let r := readEntries k (bs.drop (32 + 4 * n))
    ((BitVec.ofNat 96 (leNat (bs.take 12)), BitVec.ofNat 128 (leNat ((bs.drop 12).take 16)), idx) :: r.1, r.2)

/-- The queue entry a saved instruction makes. -/
def entryOf (s : State) (t : Team) (x : BitVec 96 × BitVec 128 × List Lane) : Option MEntry :=
  match decode x.1 with
  | .ok i =>
    (match i with
     | .mma _ d _ _ => some (MOp.mma, d.toNat, mdVer x.2.1)
     | .mma2 _ d _ _ => some (MOp.mma2, d.toNat, mdVer x.2.1)
     | .mzero _ d v => some (MOp.mzero, d.toNat, v.toNat)
     | .mload _ b sp d _ => some (MOp.mload b sp, d.toNat, tdVer x.2.1)
     | .mdrain _ b a sp d _ => some (MOp.mdrain b a sp, d.toNat, tdVer x.2.1)
     | _ => none).map (fun (o : MOp × Nat × Nat) => newEntry s t i o.1 o.2.1 o.2.2 x.2.1 x.2.2)
  | .error _ => none

/-- What a record restores, from its header and its body: the team, its matrix instructions and its scratchpad contents. -/
def readTeam (t : Team) (h : BitVec 1024) (bs : List Byte) : Team × List (BitVec 96 × BitVec 128 × List Lane) × List Byte :=
  let w8 := t.w / 8
  let rest := bs.drop 128                        -- after EXC and TRAP.KEEP
  let side := 504 + 32 * w8
  let hasF := h.getLsbD 670 || h.getLsbD 669
  let t1 := readSide { t with v := [] } rest
  let after := rest.drop (side + (if hasF then w8 else 0))
  let tags := after.take t.n
  let vals := tags.foldl (fun a b => a + tagSize t.w b) 0
  let t2 := readRegs t1 (List.range t.n) after
  let due := h.getLsbD 671
  let cause : BitVec 9 := h.extractLsb' 711 9
  let tval : Word := h.extractLsb' 832 64
  let pend := match nextPending t with
    | some p => if due then { p with cause := cause, tval := tval } :: t.pend.erase p else t.pend
    | none => t.pend
  let es := readEntries (fld h 768 8) (after.drop ((t.n + 3) / 4 * 4 + vals))
  ({ t2 with
     pc := h.extractLsb' 960 64, tpc := h.extractLsb' 896 64, cause := if due then t.cause else cause, tval := if due then t.tval else tval
     inTrap := h.getLsbD 669, sbchk := h.getLsbD 668, nmEsc := h.extractLsb' 664 4, nmGrain := h.extractLsb' 662 2,
     nmSigw := h.extractLsb' 660 2, exc := readExc h bs, pend := pend,
     keep := (List.range 4).foldl (fun k i => Tab.set 0 k i (BitVec.ofNat 64 (wordAt bs (96 + 8 * i)))) [],
     fmask := if hasF then BitVec.ofNat 1024 (leNat ((rest.drop side).take w8)) &&& t.lanes else t.fmask,
     fixed := [], fetched := none, aged := false, rejects := 0, yieldTo := none }, es)

/-- Seats for the teams of one saved unit, on the cores they left (DESIGN CHOICE, log 78). -/
def resumeSeats (s : State) (ts : List Team) : Option (List Seat) :=
  match ts with
  | [] => some []
  | t0 :: _ =>
    let cores := if t0.twin then [t0.coreId / 2 * 2, t0.coreId / 2 * 2 + 1] else [t0.coreId]
    let spec (t : Team) : TeamSpec := { team := t.team, entry := t.pc, w := t.w, n := t.n, g := t.g }
    match fitUp (cores.flatMap (fun c => (occOf s c).ranges)) t0.spadLen with
    | none => none
    | some off =>
      cores.foldl (fun (a : Option (List Seat)) c =>
        match a with
        | none => none
        | some k =>
          let o := occOf s c
          seatAll c off t0.privLen ((ts.filter (fun t => t.coreId == c)).map spec) { o with ranges := (off, t0.spadLen) :: o.ranges } k)
        (some [])

/-- A queued call or `nmcommit` as its record has it. -/
def readItem (bs : List Byte) : VentItem → VentItem
  | .call at_ _ _ => .call at_ (bs.getD 48 0).toNat ((List.range 6).map (fun i => BitVec.ofNat 64 (wordAt bs (8 * i))))
  | .commit _ _ tok =>
    let x : BitVec 32 := BitVec.ofNat 32 (leNat (bs.take 4))
    .commit { group := x.extractLsb' 16 8, bytes := x.extractLsb' 0 16, count := x.getLsbD 24 } (leNat ((bs.drop 4).take 2) % 256) tok

/-- A window as the vent dump has it (17 R311). -/
def readWindow (x : Window) (rec_ : BitVec 512) (items : List Byte) : Window :=
  { x with
    base := fld rec_ 448 64, len := fld rec_ 384 64, group := fld rec_ 152 8, vent := fld rec_ 32 9, replays := fld rec_ 26 6,
    consec := fld rec_ 22 4, esc := rec_.extractLsb' 18 4, grain := rec_.extractLsb' 16 2, sigw := rec_.extractLsb' 14 2,
    stat := Tab.set 0 (Tab.set 0 x.stat 0 (fld rec_ 96 32)) 1 (fld rec_ 64 32),
    queue := x.queue.zipIdx.map (fun q => readItem ((items.drop (64 * q.2)).take 64) q.1) }

/-- The windows of saved teams, from the dump: the records first, in their order, then the records of their queues. -/
def readDump (bs : List Byte) (ws : List SavedWork) : List SavedWork :=
  let n := (bs.getD 2 0).toNat
  let rec_ (k : Nat) : BitVec 512 := BitVec.ofNat 512 (leNat ((bs.drop (64 + 64 * k)).take 64))
  let from_ (k : Nat) : Nat := 64 + 64 * n + 64 * ((List.range k).map (fun j => fld (rec_ j) 144 8)).sum
  ws.map (fun w => match w.window with
    | none => w
    | some x => match (List.range n).find? (fun k => fld (rec_ k) 0 6 == x.num) with
      | none => w
      | some k => { w with window := some (readWindow x (rec_ k) (bs.drop (from_ k))) })

/-- A resumed team's window (17 R311): the number it had where that is free, else the lowest free one. -/
def reopenWindow (s : State) (sid : Nat) (w : Window) : State :=
  let num := if (s.window? w.num).isNone then w.num else ((List.range 64).find? (fun n => (s.window? n).isNone)).getD 0
  let s1 := { s with windows := s.windows ++ [{ w with num := num, sid := sid }],
                     cores := s.cores.map (fun (c : Nat × Core) => (c.1, { c.2 with sig := Tab.del c.2.sig num })) }
  s1.onTeam sid (fun t => { t with window := some num })

/-- May the windows of saved teams open again? -/
def windowsFit (s : State) (ws : List Window) : Bool :=
  decide (s.windows.length + ws.length ≤ 64)
    && ws.all (fun w => decide ((s.windows ++ ws).countP (fun x => x.vent == w.vent) ≤ 4))

/-- A token that landed meanwhile is written (R366). -/
def landSaved (t : Team) (x : Nat × Word) : Team :=
  let t1 := t.setS x.1 x.2
  { t1 with sb := t1.sb.filter (fun e => e.reg != .s x.1), acqToks := if x.1 = 0 then t1.acqToks else t1.acqToks ||| (1#64 <<< x.1) }

/-- Put one saved team in its seat. -/
def resumeOne (s : State) (w : SavedWork) (k : Seat) (bs : List Byte) : State :=
  let r := readTeam w.team (BitVec.ofNat 1024 (leNat (bs.take 128))) (bs.drop 128)
  let l := s.launch? w.team.lid
  let t : Team := { r.1 with
    slot := k.slot, spadOff := k.spadOff, privOff := k.privOff, readyAt := s.clock, window := none
    cancel := r.1.cancel || (match l with | some l => cancelSeen s l r.1.die && r.1.handler.isNone | none => false) }
  let sid := t.sid
  let s1 := s.setTeam sid (w.toks.foldl landSaved t)
  let s2 := r.2.1.foldl (fun s x => match entryOf s t x with
    | some e =>
      let s' := (s.onCore t.coreId (fun c => { c with matrix := c.matrix ++ [e] })).nextOrder
      if e.op == .mma2 then s'.onCore (t.coreId + 1) (fun c => { c with matrix := c.matrix ++ [{ e with odd := true }] }) else s'
    | none => s) s1
  let cores := if !w.spad then [] else if t.twin then [t.coreId / 2 * 2, t.coreId / 2 * 2 + 1] else [t.coreId]
  let (s3, left) := cores.foldl (fun (a : State × List Byte) c => (spadRestore a.1 c t.spadOff (a.2.take t.spadLen), a.2.drop t.spadLen)) (s2, r.2.2)
  let s4 := spadRestore s3 t.coreId t.privOff (left.take (t.privLen * t.w))
  let s5 := match w.window with | some x => reopenWindow s4 sid x | none => s4
  addResident { s5 with
    pushes := s5.pushes.map (fun p => if p.key = t.key then { p with sid := sid } else p)
    regions := s5.regions.map (fun g => if g.tkey = t.key then { g with sid := sid } else g) } t.die t.bind 1

/-- Each valid record of the reply area that names a resumed team is copied into its register, and freed (R366). -/
def takeReplies (ctx va : Nat) (ids : List (Nat × BitVec 32 × Nat)) : Nat → Nat → Dev Unit
  | 0, _ => Dev.pure ()
  | k + 1, i =>
    Dev.bind (readVa hostUnit ctx (va + 32 * i) 32 1) (fun bs =>
      let id : BitVec 32 := BitVec.ofNat 32 (leNat ((bs.drop 8).take 4))
      match (if (bs.getD 16 0).getLsbD 0 then ids.find? (fun x => x.2.1 == id && x.2.2 == leNat ((bs.drop 12).take 3)) else none) with
      | none => takeReplies ctx va ids k (i + 1)
      | some x =>
        Dev.bind (writeVa hostUnit ctx (va + 32 * i + 16) 1 [0]) (fun _ =>
          Dev.bind (fun s => (s.onTeam x.1 (fun t => landSaved t ((bs.getD 15 0).toNat, BitVec.ofNat 64 (wordAt bs 0))), .ok ()))
            (fun (_ : Unit) => takeReplies ctx va ids k (i + 1))))

/-- Do the matrix queues hold what has been put into them (13 R240)? -/
def queuesFit (s : State) : Bool := s.cores.all (fun c => decide (c.2.matrix.length ≤ 64))

/-- The saved teams of one unit are seated and restored; not where the matrix queues have no room for their entries. -/
def resumeUnit (ctx : Nat) (ws : List SavedWork) : Dev Bool := fun s =>
  match resumeSeats s (ws.map (fun w => w.team)) with
  | none => (s, .ok false)
  | some seats =>
    ws.foldl (fun (a : State × Except Missing Bool) w =>
      match a.2 with
      | .error _ => a
      | .ok _ =>
        match seats.find? (fun k => k.spec.team == w.team.team) with
        | none => (a.1, .ok false)
        | some k =>
          Dev.bind (readVa hostUnit ctx w.va 128 1) (fun hb =>
            Dev.bind (readVa hostUnit ctx w.va (max 128 (fld (BitVec.ofNat 1024 (leNat hb)) 800 32)) 1) (fun bs s =>
              let s1 := resumeOne s w k bs; (s1, .ok (queuesFit s1)))) a.1) (s, .ok true)

def resumeUnits (ctx : Nat) : List (List SavedWork) → Dev Bool
  | [] => Dev.pure true
  | u :: r => Dev.bind (resumeUnit ctx u) (fun ok => if ok then resumeUnits ctx r else Dev.pure false)

/-- The tiles and counters of each core come back first. -/
def restoreTiles (ctx : Nat) : List (Nat × Nat) → Dev Unit
  | [] => Dev.pure ()
  | (core, va) :: r => Dev.bind (readVa hostUnit ctx va (2 ^ 22 + 512) 1) (fun bs s => restoreTiles ctx r (setTiles s core bs))

def savedUnits (ws : List SavedWork) : List (List SavedWork) :=
  (ws.foldl (fun (a : List SavedWork) w => if a.any (fun x => x.team.lid == w.team.lid && x.team.unit == w.team.unit) then a else a ++ [w]) []).map
    (fun x => ws.filter (fun w => w.team.lid == x.team.lid && w.team.unit == x.team.unit))

/-- The whole restoration: the tiles, the vent dump and the records are read back, each walked as a read (11 R221). False where there
is no room yet. -/
def restoreContext (ctx : Nat) (c : Ctx) : Dev Bool :=
  Dev.bind (restoreTiles ctx c.tiles) (fun _ =>
  Dev.bind (match c.dump with | some (va, n) => readVa hostUnit ctx va n 1 | none => Dev.pure []) (fun dump =>
  Dev.bind (resumeUnits ctx (savedUnits (if c.dump.isSome then readDump dump c.saved else c.saved))) (fun ok s =>
    if !ok then (s, .ok false)
    else
      let ids := (c.saved.filterMap (fun w => (s.teamByKey w.team.key).map (fun x =>
        (x.1, (match s.launch? w.team.lid with | some l => l.launchId | none => 0), w.team.team))))
      let pending := c.saved.any (fun w => !w.team.slots.isEmpty || w.team.callToks != 0)
      Dev.bind (if pending then takeReplies ctx (replyArea c).1 ids (replyArea c).2 0 else Dev.pure ()) (fun _ => Dev.pure true) s)))

/-- CONTEXT_RESUME (R365): not while the device is too hot to place a team (24 R385). Everything comes back at once, on the cores it left, or firmware waits. The context is resident
again, and its queues are looked at (03 R386) (DESIGN CHOICE, log 78). -/
def execContextResume (ctx : Nat) (s : State) : Host.Outcome State Fault Refusal :=
  match s.ctx? ctx with
  | none => notDue "CONTEXT_RESUME"
  | some c =>
    if s.hot || c.resident || c.asked.isSome || !windowsFit s (c.saved.filterMap (fun w => w.window)) then notDue "CONTEXT_RESUME"
    else match restoreContext ctx c s with
      | (_, .error m) => .next (firmwareMiss s ctx m false)
      | (_, .ok false) => notDue "CONTEXT_RESUME"
      | (s1, .ok true) =>
        let s2 := s1.onCtx ctx (fun c => { c with saved := [], tiles := [], dump := none, resident := true })
        .next { s2 with watches := s2.watches.map (fun w => if w.ctx = ctx then w.wake else w)
                        spills := s2.spills.map (fun r => if r.ctx = ctx then { r with retryAt := none } else r) }

end Sys2Proof.Machine
end

