-- ==== Sys2Proof/Machine/ScalarInt.lean ====
section
/-! DEFINITION. The scalar integer instructions (07 R127-R140). -/

namespace Sys2Proof.Machine

def sWide : STy → Bool
  | .i32 => false
  | .n32 => false
  | _ => true
def sSigned : STy → Bool
  | .i64 => true
  | .i32 => true
  | _ => false
def sBits (ty : STy) : Nat := if sWide ty then 64 else 32

/-- The exact value of a source under a type (R124). -/
def sExt (ty : STy) (x : Word) : Int := extT (sSigned ty) (sBits ty) x.toNat

/-- A scalar binary operation: `f` gives the exact result of the exact operands, narrowed by SAT (R125, R131). -/
def scalarBin (ty : STy) (sat : Bool) (d : SIdx) (a : Src) (b : SrcB) (f : Int → Int → Int) (sid : Nat) (vw : View)
    (s : State) : Done :=
  let (x, clamped) := narrowT sat (sSigned ty) (sBits ty)
    (f (sExt ty (vw.ssrc s a)) (sExt ty (vw.ssrcB s (sSigned ty) b)))
  scalarResult sid vw s d (extS (sSigned ty) (sWide ty) x) (evIf clamped evOverflow)

/-- `sadd` (R131). -/
def execSadd (h : Hdr) (ty : STy) (sat : Bool) (d : SIdx) (a : Src) (b : SrcB) (s : State) : Host.Outcome State Fault Refusal :=
  issueScalar (.sadd h ty sat d a b) h s (scalarBin ty sat d a b (· + ·))

/-- `ssub` (R131). -/
def execSsub (h : Hdr) (ty : STy) (sat : Bool) (d : SIdx) (a : Src) (b : SrcB) (s : State) : Host.Outcome State Fault Refusal :=
  issueScalar (.ssub h ty sat d a b) h s (scalarBin ty sat d a b (· - ·))

/-- `smul` (R131). -/
def execSmul (h : Hdr) (ty : STy) (sat : Bool) (d : SIdx) (a : Src) (b : SrcB) (s : State) : Host.Outcome State Fault Refusal :=
  issueScalar (.smul h ty sat d a b) h s (scalarBin ty sat d a b (· * ·))

/-- `smulh`: the high half of the product (R131). -/
def execSmulh (h : Hdr) (ty : STy) (d : SIdx) (a : Src) (b : SrcB) (s : State) : Host.Outcome State Fault Refusal :=
  issueScalar (.smulh h ty d a b) h s (scalarBin ty false d a b (fun x y => x * y / (2 ^ sBits ty : Nat)))

/-- The division instructions: quotient, remainder and event (R132). -/
def scalarDiv (rem : Bool) (ty : STy) (d : SIdx) (a : Src) (b : SrcB) (sid : Nat) (vw : View) (s : State) : Done :=
  let (q, r, e) := divT (sSigned ty) (sBits ty) (sExt ty (vw.ssrc s a)) (sExt ty (vw.ssrcB s (sSigned ty) b))
  scalarResult sid vw s d (extS (sSigned ty) (sWide ty) (wrapT (sBits ty) (if rem then r else q)))
    (match e with
     | some 1 => evDivZero
     | some _ => evOverflow
     | none => 0)

/-- `sdiv` (R132). -/
def execSdiv (h : Hdr) (ty : STy) (d : SIdx) (a : Src) (b : SrcB) (s : State) : Host.Outcome State Fault Refusal :=
  issueScalar (.sdiv h ty d a b) h s (scalarDiv false ty d a b)

/-- `srem` (R132). -/
def execSrem (h : Hdr) (ty : STy) (d : SIdx) (a : Src) (b : SrcB) (s : State) : Host.Outcome State Fault Refusal :=
  issueScalar (.srem h ty d a b) h s (scalarDiv true ty d a b)

/-- A bitwise operation on all 64 bits (R133). -/
def scalarLogic (d : SIdx) (a : Src) (b : SrcB) (f : Word → Word → Word) (sid : Nat) (vw : View) (s : State) : Done :=
  scalarResult sid vw s d (f (vw.ssrc s a) (vw.ssrcB s false b)) 0

/-- `sand` (R133). -/
def execSand (h : Hdr) (d : SIdx) (a : Src) (b : SrcB) (s : State) : Host.Outcome State Fault Refusal :=
  issueScalar (.sand h d a b) h s (scalarLogic d a b (· &&& ·))

/-- `sor` (R133). -/
def execSor (h : Hdr) (d : SIdx) (a : Src) (b : SrcB) (s : State) : Host.Outcome State Fault Refusal :=
  issueScalar (.sor h d a b) h s (scalarLogic d a b (· ||| ·))

/-- `sxor` (R133). -/
def execSxor (h : Hdr) (d : SIdx) (a : Src) (b : SrcB) (s : State) : Host.Outcome State Fault Refusal :=
  issueScalar (.sxor h d a b) h s (scalarLogic d a b (· ^^^ ·))

/-- The unsigned shift count: as n32 for 32-bit types, else as n64 (R134). -/
def shiftCount (ty : STy) (x : Word) : Nat := if sWide ty then x.toNat else x.toNat % 2 ^ 32

/-- A scalar shift (R134). -/
def scalarShift (left : Bool) (ty : STy) (sat : Bool) (d : SIdx) (a : Src) (b : SrcB) (sid : Nat) (vw : View) (s : State) : Done :=
  let c := shiftCount ty (vw.ssrcB s (sSigned ty) b)
  let v := sExt ty (vw.ssrc s a)
  let (x, clamped) := narrowT sat (sSigned ty) (sBits ty) (if left then shlT (sBits ty) v c else shrT (sBits ty) v c)
  scalarResult sid vw s d (extS (sSigned ty) (sWide ty) x) (evIf clamped evOverflow)

/-- `sshl` (R134). -/
def execSshl (h : Hdr) (ty : STy) (sat : Bool) (d : SIdx) (a : Src) (b : SrcB) (s : State) : Host.Outcome State Fault Refusal :=
  issueScalar (.sshl h ty sat d a b) h s (scalarShift true ty sat d a b)

/-- `sshr`: zero fill, the types being unsigned (R134). -/
def execSshr (h : Hdr) (ty : STy) (d : SIdx) (a : Src) (b : SrcB) (s : State) : Host.Outcome State Fault Refusal :=
  issueScalar (.sshr h ty d a b) h s (scalarShift false ty false d a b)

/-- `ssar`: sign fill, the types being signed (R134). -/
def execSsar (h : Hdr) (ty : STy) (d : SIdx) (a : Src) (b : SrcB) (s : State) : Host.Outcome State Fault Refusal :=
  issueScalar (.ssar h ty d a b) h s (scalarShift false ty false d a b)

/-- `smin` (R135). -/
def execSmin (h : Hdr) (ty : STy) (d : SIdx) (a : Src) (b : SrcB) (s : State) : Host.Outcome State Fault Refusal :=
  issueScalar (.smin h ty d a b) h s (scalarBin ty false d a b (fun x y => if x ≤ y then x else y))

/-- `smax` (R135). -/
def execSmax (h : Hdr) (ty : STy) (d : SIdx) (a : Src) (b : SrcB) (s : State) : Host.Outcome State Fault Refusal :=
  issueScalar (.smax h ty d a b) h s (scalarBin ty false d a b (fun x y => if x ≤ y then y else x))

/-- A comparison into a scalar register, or into every lane of a predicate (R136). -/
def scalarCmp (ty : STy) (c : Cmp) (d : SPDst) (a : Src) (b : SrcB) (sid : Nat) (vw : View) (s : State) : Done :=
  let r := Cmp.rel c (sExt ty (vw.ssrc s a)) (sExt ty (vw.ssrcB s (sSigned ty) b))
  match d with
  | .s n => scalarResult sid vw s n (boolWord r) 0
  | .p n => Done.of s sid (predFill vw.t n.toNat r) 1

/-- `scmp` (R136). -/
def execScmp (h : Hdr) (ty : STy) (c : Cmp) (d : SPDst) (a : Src) (b : SrcB) (s : State) : Host.Outcome State Fault Refusal :=
  issueScalar (.scmp h ty c d a b) h s (scalarCmp ty c d a b)

/-- `ssel` always executes; GPRED and GNEG choose the source (R137). -/
def execSsel (h : Hdr) (ty : STy) (d : SIdx) (a : Src) (b : SrcB) (s : State) : Host.Outcome State Fault Refusal :=
  issue (.ssel h ty d a b) s (fun sid vw s =>
    scalarResult sid vw s d (if vw.guard h then vw.ssrc s a else vw.ssrcB s (sSigned ty) b) 0)

/-- `smov` (R138). -/
def execSmov (h : Hdr) (ty : STy) (d : SIdx) (b : SrcB) (s : State) : Host.Outcome State Fault Refusal :=
  issueScalar (.smov h ty d b) h s (fun sid vw s =>
    scalarResult sid vw s d (extS (sSigned ty) (sWide ty) (vw.ssrcB s (sSigned ty) b).toNat) 0)

/-- `sli` (R138). -/
def execSli (h : Hdr) (d : SIdx) (a : Src) (imm : BitVec 32) (s : State) : Host.Outcome State Fault Refusal :=
  issueScalar (.sli h d a imm) h s (fun sid vw s =>
    scalarResult sid vw s d ((vw.ssrc s a <<< 32) ||| imm.setWidth 64) 0)

/-- `sclz` (R139). -/
def execSclz (h : Hdr) (ty : STy) (d : SIdx) (a : Src) (s : State) : Host.Outcome State Fault Refusal :=
  issueScalar (.sclz h ty d a) h s (fun sid vw s =>
    let x := vw.ssrc s a
    scalarResult sid vw s d (BitVec.ofNat 64 (if sWide ty then leadingZeros x else leadingZeros (x.setWidth 32))) 0)

/-- `spopc` (R139). -/
def execSpopc (h : Hdr) (ty : STy) (d : SIdx) (a : Src) (s : State) : Host.Outcome State Fault Refusal :=
  issueScalar (.spopc h ty d a) h s (fun sid vw s =>
    let x := vw.ssrc s a
    scalarResult sid vw s d (BitVec.ofNat 64 (if sWide ty then popCount x else popCount (x.setWidth 32))) 0)

/-- `sbfe` (R139). -/
def execSbfe (h : Hdr) (ty : STy) (d : SIdx) (a : Src) (b : SrcB) (s : State) : Host.Outcome State Fault Refusal :=
  issueScalar (.sbfe h ty d a b) h s (fun sid vw s =>
    let c := (vw.ssrcB s (sSigned ty) b).toNat
    let (x, n) := bitField 64 (vw.ssrc s a).toNat (c % 256) (c / 256 % 256)
    scalarResult sid vw s d (BitVec.ofInt 64 (extT (sSigned ty && n != 0) n x)) 0)

/-- `sadc`: carry in from lane 0 of CP, carry out to every lane (R140). -/
def execSadc (h : Hdr) (ty : STy) (cp : PIdx) (d : SIdx) (a : Src) (b : SrcB) (s : State) : Host.Outcome State Fault Refusal :=
  issueScalar (.sadc h ty cp d a b) h s (fun sid vw s =>
    let w := sBits ty
    let x := (vw.ssrc s a).toNat % 2 ^ w + (vw.ssrcB s (sSigned ty) b).toNat % 2 ^ w
      + (if (vw.pr cp.toNat).getLsbD 0 then 1 else 0)
    let t1 := predFill vw.t cp.toNat (decide (2 ^ w ≤ x))
    Done.of s sid (t1.setS d.toNat (extS (sSigned ty) (sWide ty) (x % 2 ^ w))) 1)

end Sys2Proof.Machine
end

