-- ==== Sys2Proof/Machine/Service.lean ====
section
/-! DEFINITION. The host's answer to a page request group (11 R226, R227; 10 R218; 13 R254; 17 R300; 23 R363, R366). -/

namespace Sys2Proof.Machine

/-- A team that waits for a page at a port has its response (R227); the response of a saved team is kept with it (23 R366). -/
def answerTeam (port page : Nat) (ok : Bool) (t : Team) : Team :=
  match t.pf with
  | none => t
  | some g =>
    { t with pf := some { g with waits := g.waits.map (fun w =>
        if w.page = page ∧ w.port = port ∧ w.resp = none then { w with resp := some ok } else w) } }

/-- Every team of the contexts that asked. -/
def answerTeams (s : State) (cs : List Nat) (port page : Nat) (ok : Bool) : State :=
  { s with
    teams := s.teams.map (fun (e : Nat × Team) => (e.1, if cs.contains e.2.ctx then answerTeam port page ok e.2 else e.2))
    ctxs := s.ctxs.map (fun (e : Nat × Ctx) =>
      (e.1, if cs.contains e.1 then { e.2 with saved := e.2.saved.map (fun (w : SavedWork) => { w with team := answerTeam port page ok w.team }) } else e.2)) }

/-- The address at which a row would still miss, where the host has failed its page (DEDUCED, log 86). -/
def copyMissVa (s : State) (core i : Nat) (t : Team) (j : CopyJob) (page : Nat) : Word :=
  match copyAt (copyRow s core i t { j with waiting := none, served := Tab.put j.served page 2 }) core i with
  | some x => (match x.failed with | some (_, v) => v | none => BitVec.ofNat 64 (page * 4096))
  | none => BitVec.ofNat 64 (page * 4096)

/-- A copy goes on, or ends with PAGE_FAULT (10 R218) (DEDUCED, log 86). -/
def answerCopy (s : State) (core id page : Nat) (ok : Bool) : State :=
  match (s.core core).copies.findIdx? (fun j => j.id == id && j.waiting == some page) with
  | none => s
  | some i =>
    match copyAt s core i with
    | none => s
    | some j =>
      let j1 := { j with waiting := none, served := noteServed j.served page ok }
      if ok then setCopy s core i j1
      else match s.team? j.sid with
        | none => setCopy s core i j1
        | some t => setCopy s core i { j1 with failed := some (Cause.pageFault, copyMissVa s core i t j page) }

/-- A transfer goes on where it stopped, when its path is free, or ends with PAGE_FAULT (13 R240, R254). -/
def answerTransfer (s : State) (core id page : Nat) (ok : Bool) : State :=
  match (s.core core).matrix.find? (fun e => e.id == id && e.stage == .parked page) with
  | none => s
  | some e =>
    if ok then onEntry s core e (fun x => { x with stage := .served, served := noteServed x.served page true })
    else
      let va : Word := match s.team? e.sid with
        | some t => (match (transferStep s core t e).2 with | .error m => m.va | .ok _ => BitVec.ofNat 64 (page * 4096))
        | none => BitVec.ofNat 64 (page * 4096)
      failTransfer s core e e.events Cause.pageFault va

/-- The answer as one requester receives it. Teams are answered together. -/
def answerOne (page : Nat) (ok : Bool) (s : State) (who : Requester) : State :=
  match who with
  | .team _ => s
  | .caldera core id => answerCopy s core id page ok
  | .transfer core id => answerTransfer s core id page ok
  | .vent v => answerVent s v page ok
  | .queue ctx qid =>
    { s with watches := s.watches.map (fun w => if w.ctx = ctx ∧ w.qid = qid ∧ w.waiting = some page then
        { w with waiting := none, served := noteServed w.served page ok, denied := noteDenied w.denied page ok } else w) }
  | .push key tok =>
    { s with pushes := s.pushes.map (fun p => if p.key = key ∧ p.tok = tok ∧ p.waiting = some page then
        { p with waiting := none, served := noteServed p.served page ok, denied := noteDenied p.denied page ok } else p) }
  | .launch lid =>
    { s with launches := s.launches.map (fun l => if l.lid = lid ∧ l.waiting = some page then
        { l with waiting := none, served := noteServed l.served page ok, denied := noteDenied l.denied page ok } else l) }
  | .spill ctx handler =>
    { s with spills := s.spills.map (fun r => if r.ctx = ctx ∧ r.handler = handler ∧ r.waiting = some page then
        { r with waiting := none, served := noteServed r.served page ok, denied := noteDenied r.denied page ok } else r) }
  | .arrival id =>
    { s with arrivals := s.arrivals.map (fun x => if x.id = id ∧ x.waiting = some page then
        { x with waiting := none, served := noteServed x.served page ok, denied := noteDenied x.denied page ok } else x) }
  | .ring ctx => retryRecords s ctx ok
  | .firmware ctx => s.onCtx ctx (fun c => { c with asked := none, stopping := c.stopping && ok })

/-- The requests that one answer settles: those of the context for the page at the port, and those that joined them there under its
PASID (R226) (DEDUCED, log 85). -/
def settledBy (s : State) (port ctx page : Nat) : List PageReq :=
  let here := s.preqs.filter (fun r => r.page == page && r.port == port)
  let mine := here.filter (fun r => r.ctx == ctx)
  here.filter (fun r => mine.any (fun m => m.pasid == r.pasid))

/-- PAGE_RESPONSE (R227) (DEDUCED, log 85). -/
def execPageResponse (ctx page : Nat) (a : PageAnswer) (s : State) : Host.Outcome State Fault Refusal :=
  let rs := settledBy s a.port ctx page
  if rs.isEmpty then notDue "PAGE_RESPONSE"
  else
    let s1 := answerTeams { s with preqs := s.preqs.filter (fun r => !rs.contains r) } (rs.map (fun r => r.ctx)) a.port page a.ok
    .next ((rs.map (fun r => r.who)).dedup.foldl (answerOne page a.ok) s1)

end Sys2Proof.Machine
end

