-- ==== Sys2Proof/Machine/VectorInt.lean ====
section
/-! DEFINITION. The vector integer instructions (07 R128-R130, R141-R151). -/

namespace Sys2Proof.Machine

/-- Signed types. -/
def vSigned : VTy → Bool
  | .i32 => true
  | .i16x2 => true
  | .i64 => true
  | _ => false
/-- The width of an element (R124). -/
def vBits : VTy → Nat
  | .i16x2 => 16
  | .n16x2 => 16
  | .i64 => 64
  | .n64 => 64
  | _ => 32
def vPacked : VTy → Bool
  | .i16x2 => true
  | .n16x2 => true
  | _ => false

/-- The elements of a lane, each through `f`: its bits and whether a clamp changed it. -/
def onElems (ty : VTy) (f : Nat → Nat × Bool) : LaneRes :=
  if vPacked ty then
    let lo := f 0
    let hi := f 1
    { v := lo.1 % 2 ^ 16 + hi.1 % 2 ^ 16 * 2 ^ 16, ev := evIf (lo.2 || hi.2) evOverflow, c := false }
  else
    let x := f 0
    { v := x.1, ev := evIf x.2 evOverflow, c := false }

/-- Element `e` of a lane value, exact under the type. -/
def elemOf (ty : VTy) (x e : Nat) : Int := extT (vSigned ty) (vBits ty) (x / 2 ^ (16 * e))

/-- Unsigned element `e`, for shift counts. -/
def elemNat (ty : VTy) (x e : Nat) : Nat := (x / 2 ^ (16 * e)) % 2 ^ (if vPacked ty then 16 else 32)

/-- Rows 4 and 5 of R108 hold for 32-bit wrapping types. -/
def affineTy (ty : VTy) (sat : Bool) : Bool := !sat && (ty == .i32 || ty == .n32)

/-- Base and stride of a U or A shape. -/
def affOf : VReg → Option (Lane × Lane)
  | .u x => some (x, 0)
  | .a b st => some (b, st)
  | .g _ => none

/-- Row 4 of R108: sums and differences of A and U sources. -/
def affSum (sub : Bool) (x y : VReg) : Option (Lane × Lane) :=
  match affOf x, affOf y with
  | some (b1, s1), some (b2, s2) => some (if sub then (b1 - b2, s1 - s2) else (b1 + b2, s1 + s2))
  | _, _ => none

/-- Row 5 of R108: an A source times a U source. -/
def affMul (x y : VReg) : Option (Lane × Lane) :=
  match x, y with
  | .a b st, .u k => some (b * k, st * k)
  | .u k, .a b st => some (b * k, st * k)
  | _, _ => none

/-- Row 5 of R108: an A source shifted by a U count. -/
def affShl (x y : VReg) : Option (Lane × Lane) :=
  match x, y with
  | .a b st, .u k => if 32 ≤ k.toNat then some (0, 0) else some (b <<< k.toNat, st <<< k.toNat)
  | _, _ => none

/-- An elementwise operation of two sources. -/
def vectorBin (h : Hdr) (ty : VTy) (d : VIdx) (a : Src) (b : SrcB) (aff : View → State → Option (Lane × Lane))
    (f : Int → Int → Nat × Bool) (sid : Nat) (vw : View) (s : State) : Done :=
  vectorResult sid vw s (vw.enable h) d
    { wide := ty.wide, srcs := vw.tags s ty.wide a ++ vw.tagsB s ty.wide b, aff := aff vw s,
      f := fun l =>
        let x := vw.num s ty.wide a l
        let y := vw.numB s ty.wide (vSigned ty) b l
        onElems ty (fun e => f (elemOf ty x e) (elemOf ty y e)) }

/-- Narrowing of an exact element by SAT (R125). -/
def vNarrow (ty : VTy) (sat : Bool) (x : Int) : Nat × Bool := narrowT sat (vSigned ty) (vBits ty) x

def noAff (_ : View) (_ : State) : Option (Lane × Lane) := none

/-- `vadd` (R141). -/
def execVadd (h : Hdr) (ty : VTy) (sat : Bool) (d : VIdx) (a : Src) (b : SrcB) (s : State) : Host.Outcome State Fault Refusal :=
  issue (.vadd h ty sat d a b) s (vectorBin h ty d a b
    (fun vw s => if affineTy ty sat then affSum false (vw.shape s a) (vw.shapeB s b) else none)
    (fun x y => vNarrow ty sat (x + y)))

/-- `vsub` (R141). -/
def execVsub (h : Hdr) (ty : VTy) (sat : Bool) (d : VIdx) (a : Src) (b : SrcB) (s : State) : Host.Outcome State Fault Refusal :=
  issue (.vsub h ty sat d a b) s (vectorBin h ty d a b
    (fun vw s => if affineTy ty sat then affSum true (vw.shape s a) (vw.shapeB s b) else none)
    (fun x y => vNarrow ty sat (x - y)))

/-- `vmul` (R141). -/
def execVmul (h : Hdr) (ty : VTy) (sat : Bool) (d : VIdx) (a : Src) (b : SrcB) (s : State) : Host.Outcome State Fault Refusal :=
  issue (.vmul h ty sat d a b) s (vectorBin h ty d a b
    (fun vw s => if affineTy ty sat then affMul (vw.shape s a) (vw.shapeB s b) else none)
    (fun x y => vNarrow ty sat (x * y)))

/-- `vmulh` (R141). -/
def execVmulh (h : Hdr) (ty : VTy) (d : VIdx) (a : Src) (b : SrcB) (s : State) : Host.Outcome State Fault Refusal :=
  issue (.vmulh h ty d a b) s (vectorBin h ty d a b noAff (fun x y => vNarrow ty false (x * y / (2 ^ vBits ty : Nat))))

/-- `vmad`: a × b + d, exact, then SAT (R142). -/
def execVmad (h : Hdr) (ty : VTy) (sat : Bool) (d : VIdx) (a : Src) (b : SrcB) (s : State) : Host.Outcome State Fault Refusal :=
  issue (.vmad h ty sat d a b) s (fun sid vw s =>
    vectorResult sid vw s (vw.enable h) d
      { wide := false, srcs := vw.tags s false (.v d) ++ vw.tags s false a ++ vw.tagsB s false b, aff := none,
        f := fun l =>
          let x := vw.num s false a l
          let y := vw.numB s false (vSigned ty) b l
          let z := vw.num s false (.v d) l
          onElems ty (fun e => vNarrow ty sat (elemOf ty x e * elemOf ty y e + elemOf ty z e)) })

/-- `vmadw`: a 64-bit addend in the pair D (R142). -/
def execVmadw (h : Hdr) (ty : VTy) (d : VIdx) (a : Src) (b : SrcB) (s : State) : Host.Outcome State Fault Refusal :=
  issue (.vmadw h ty d a b) s (fun sid vw s =>
    vectorResult sid vw s (vw.enable h) d
      { wide := true, srcs := vw.tags s true (.v d) ++ vw.tags s false a ++ vw.tagsB s false b, aff := none,
        f := fun l =>
          let x := elemOf ty (vw.num s false a l) 0
          let y := elemOf ty (vw.numB s false (vSigned ty) b l) 0
          { v := wrapT 64 (x * y + (vw.src64 s (.v d) l).toNat), ev := 0, c := false } })

/-- Add or subtract with the carry of each lane (R143). The tag of a carry read early is that of the bits read, old and new (DESIGN
CHOICE, log 118). -/
def vectorCarry (sub : Bool) (h : Hdr) (ty : VTy) (cp : PIdx) (d : VIdx) (a : Src) (b : SrcB) (sid : Nat) (vw : View)
    (s : State) : Done :=
  let en := vw.enable h
  let w := vBits ty
  let cin := vw.prSrc cp.toNat
  let o : VOut :=
    { wide := ty.wide, srcs := [predTag vw.t cin] ++ vw.tags s ty.wide a ++ vw.tagsB s ty.wide b, aff := none,
      f := fun l =>
        let x : Int := (vw.num s ty.wide a l % 2 ^ w : Nat)
        let y : Int := (vw.numB s ty.wide (vSigned ty) b l % 2 ^ w : Nat)
        let c : Int := if cin.getLsbD l then 1 else 0
        let r := if sub then x - y - c else x + y + c
        { v := wrapT w r, ev := 0, c := if sub then decide (r < 0) else decide ((2 ^ w : Nat) ≤ r) } }
  if en = 0 then emptyEnable s vw.t
  else match vectorWrite vw.t en d.toNat o with
    | none => budgetTrap s d
    | some r =>
      let out (l : Nat) : Bool := if r.tag == .u then (r.res.getD 0 LaneRes.none).c else (r.res.getD l LaneRes.none).c
      vectorDone s sid { r with t := predWrite r.t en cp.toNat out }

/-- `vadc` (R143). -/
def execVadc (h : Hdr) (ty : VTy) (cp : PIdx) (d : VIdx) (a : Src) (b : SrcB) (s : State) : Host.Outcome State Fault Refusal :=
  issue (.vadc h ty cp d a b) s (vectorCarry false h ty cp d a b)

/-- `vsbc` (R143). -/
def execVsbc (h : Hdr) (ty : VTy) (cp : PIdx) (d : VIdx) (a : Src) (b : SrcB) (s : State) : Host.Outcome State Fault Refusal :=
  issue (.vsbc h ty cp d a b) s (vectorCarry true h ty cp d a b)

/-- A bitwise operation on 32 or 64 bits (R144). -/
def vectorLogic (h : Hdr) (ty : VTy) (d : VIdx) (a : Src) (b : SrcB) (f : Nat → Nat → Nat) (sid : Nat) (vw : View)
    (s : State) : Done :=
  vectorResult sid vw s (vw.enable h) d
    { wide := ty.wide, srcs := vw.tags s ty.wide a ++ vw.tagsB s ty.wide b, aff := none,
      f := fun l => { v := f (vw.num s ty.wide a l) (vw.numB s ty.wide (vSigned ty) b l), ev := 0, c := false } }

/-- `vand` (R144). -/
def execVand (h : Hdr) (ty : VTy) (d : VIdx) (a : Src) (b : SrcB) (s : State) : Host.Outcome State Fault Refusal :=
  issue (.vand h ty d a b) s (vectorLogic h ty d a b Nat.land)

/-- `vor` (R144). -/
def execVor (h : Hdr) (ty : VTy) (d : VIdx) (a : Src) (b : SrcB) (s : State) : Host.Outcome State Fault Refusal :=
  issue (.vor h ty d a b) s (vectorLogic h ty d a b Nat.lor)

/-- `vxor` (R144). -/
def execVxor (h : Hdr) (ty : VTy) (d : VIdx) (a : Src) (b : SrcB) (s : State) : Host.Outcome State Fault Refusal :=
  issue (.vxor h ty d a b) s (vectorLogic h ty d a b Nat.xor)

/-- The shapes `vmov` copies to the members of D (R144; 06 R108, row 6). -/
def movShapes (vw : View) (s : State) (ty : VTy) (b : SrcB) : List VReg :=
  if ty.wide then
    match b with
    | .r (.v n) => [vw.shapeV n.toNat, vw.shapeV (n.toNat + 1)]
    | y =>
      let x := vw.srcB64 s (vSigned ty) y 0
      [.u (x.setWidth 32), .u (x.extractLsb' 32 32)]
  else [vw.shapeB s b]

/-- `vmov`: under a full enable D takes the source's tag and value (R144). -/
def vectorMov (h : Hdr) (ty : VTy) (d : VIdx) (b : SrcB) (sid : Nat) (vw : View) (s : State) : Done :=
  let en := vw.enable h
  let full := en == vw.t.lanes
  let shapes := movShapes vw s ty b
  let tags := shapes.map (fun x => if full then x.tag else .g)
  let ds := (List.range shapes.length).map (fun i => (d.toNat + i, tags.getD i .g))
  if en = 0 then emptyEnable s vw.t
  else if overBudget vw.t ds then budgetTrap s d
  else
    let lane (i l : Nat) : Lane := BitVec.ofNat 32 (vw.numB s ty.wide (vSigned ty) b l / 2 ^ (32 * i))
    let t1 := (List.range shapes.length).foldl (fun (t : Team) i =>
      let x := shapes.getD i (.u 0)
      t.setV (d.toNat + i) (newReg (vw.t.vr (d.toNat + i)) vw.t.w en (tags.getD i .g)
        (match x with | .a p q => (p, q) | _ => (0, 0))
        (fun l => match x with | .u k => k | _ => lane i l))) vw.t
    Done.of s sid t1 (passCount vw.t en (!tags.contains .g))

/-- `vmov` (R144). -/
def execVmov (h : Hdr) (ty : VTy) (d : VIdx) (b : SrcB) (s : State) : Host.Outcome State Fault Refusal :=
  issue (.vmov h ty d b) s (vectorMov h ty d b)

/-- A shift, each element by its own unsigned count (R145). -/
def vectorShift (left : Bool) (h : Hdr) (ty : VTy) (sat : Bool) (d : VIdx) (a : Src) (b : SrcB) (sid : Nat) (vw : View)
    (s : State) : Done :=
  let affOk := left && !sat && (ty == .i32 || ty == .n32 || ty == .b32)
  vectorResult sid vw s (vw.enable h) d
    { wide := ty.wide, srcs := vw.tags s ty.wide a ++ vw.tagsB s ty.wide b,
      aff := if affOk then affShl (vw.shape s a) (vw.shapeB s b) else none,
      f := fun l =>
        let x := vw.num s ty.wide a l
        let y := vw.numB s ty.wide (vSigned ty) b l
        onElems ty (fun e =>
          let c := elemNat ty y e
          vNarrow ty sat (if left then shlT (vBits ty) (elemOf ty x e) c else shrT (vBits ty) (elemOf ty x e) c)) }

/-- `vshl` (R145). -/
def execVshl (h : Hdr) (ty : VTy) (sat : Bool) (d : VIdx) (a : Src) (b : SrcB) (s : State) : Host.Outcome State Fault Refusal :=
  issue (.vshl h ty sat d a b) s (vectorShift true h ty sat d a b)

/-- `vshr` (R145). -/
def execVshr (h : Hdr) (ty : VTy) (d : VIdx) (a : Src) (b : SrcB) (s : State) : Host.Outcome State Fault Refusal :=
  issue (.vshr h ty d a b) s (vectorShift false h ty false d a b)

/-- `vsar` (R145). -/
def execVsar (h : Hdr) (ty : VTy) (d : VIdx) (a : Src) (b : SrcB) (s : State) : Host.Outcome State Fault Refusal :=
  issue (.vsar h ty d a b) s (vectorShift false h ty false d a b)

/-- `vmin` (R146). -/
def execVmin (h : Hdr) (ty : VTy) (d : VIdx) (a : Src) (b : SrcB) (s : State) : Host.Outcome State Fault Refusal :=
  issue (.vmin h ty d a b) s (vectorBin h ty d a b noAff (fun x y => vNarrow ty false (if x ≤ y then x else y)))

/-- `vmax` (R146). -/
def execVmax (h : Hdr) (ty : VTy) (d : VIdx) (a : Src) (b : SrcB) (s : State) : Host.Outcome State Fault Refusal :=
  issue (.vmax h ty d a b) s (vectorBin h ty d a b noAff (fun x y => vNarrow ty false (if x ≤ y then y else x)))

/-- An operation of one source. -/
def vectorUn (h : Hdr) (ty : VTy) (d : VIdx) (a : Src) (f : Nat → LaneRes) (sid : Nat) (vw : View) (s : State) : Done :=
  vectorResult sid vw s (vw.enable h) d
    { wide := ty.wide, srcs := vw.tags s ty.wide a, aff := none, f := fun l => f (vw.num s ty.wide a l) }

/-- `vabs` (R146). -/
def execVabs (h : Hdr) (ty : VTy) (sat : Bool) (d : VIdx) (a : Src) (s : State) : Host.Outcome State Fault Refusal :=
  issue (.vabs h ty sat d a) s (vectorUn h ty d a (fun x =>
    onElems ty (fun e => vNarrow ty sat (elemOf ty x e).natAbs)))

/-- `vcmp` (R147). -/
def execVcmp (h : Hdr) (ty : VTy) (c : Cmp) (d : PIdx) (a : Src) (b : SrcB) (s : State) : Host.Outcome State Fault Refusal :=
  issue (.vcmp h ty c d a b) s (fun sid vw s =>
    predResult sid vw s (vw.enable h) d false (fun l =>
      (Cmp.rel c (elemOf ty (vw.num s ty.wide a l) 0) (elemOf ty (vw.numB s ty.wide (vSigned ty) b l) 0), 0)))

/-- `vsel`: the guard is the selector and the mask alone enables (R148). -/
def execVsel (h : Hdr) (ty : VTy) (d : VIdx) (a : Src) (b : SrcB) (s : State) : Host.Outcome State Fault Refusal :=
  issue (.vsel h ty d a b) s (fun sid vw s =>
    let sel := vw.guardLanes h
    vectorResult sid vw s vw.active d
      { wide := ty.wide, srcs := [predTag vw.t sel] ++ vw.tags s ty.wide a ++ vw.tagsB s ty.wide b, aff := none,
        f := fun l => { v := if sel.getLsbD l then vw.num s ty.wide a l else vw.numB s ty.wide (vSigned ty) b l, ev := 0, c := false } })

/-- `vclz` (R149). -/
def execVclz (h : Hdr) (ty : VTy) (d : VIdx) (a : Src) (s : State) : Host.Outcome State Fault Refusal :=
  issue (.vclz h ty d a) s (vectorUn h ty d a (fun x =>
    { v := if ty.wide then leadingZeros (BitVec.ofNat 64 x) else leadingZeros (BitVec.ofNat 32 x), ev := 0, c := false }))

/-- `vpopc` (R149). -/
def execVpopc (h : Hdr) (ty : VTy) (d : VIdx) (a : Src) (s : State) : Host.Outcome State Fault Refusal :=
  issue (.vpopc h ty d a) s (vectorUn h ty d a (fun x => { v := popCount (BitVec.ofNat 64 x), ev := 0, c := false }))

/-- `vbfe` (R150). -/
def execVbfe (h : Hdr) (ty : VTy) (d : VIdx) (a : Src) (b : SrcB) (s : State) : Host.Outcome State Fault Refusal :=
  issue (.vbfe h ty d a b) s (fun sid vw s =>
    vectorResult sid vw s (vw.enable h) d
      { wide := false, srcs := vw.tags s false a ++ vw.tagsB s false b, aff := none,
        f := fun l =>
          let c := vw.numB s false (vSigned ty) b l
          let (x, n) := bitField 32 (vw.num s false a l) (c % 256) (c / 256 % 256)
          { v := wrapT 32 (extT (vSigned ty && n != 0) n x), ev := 0, c := false } })

/-- `vbfi` (R150). -/
def execVbfi (h : Hdr) (d : VIdx) (a : Src) (b : SrcB) (s : State) : Host.Outcome State Fault Refusal :=
  issue (.vbfi h d a b) s (fun sid vw s =>
    vectorResult sid vw s (vw.enable h) d
      { wide := false, srcs := vw.tags s false (.v d) ++ vw.tags s false a ++ vw.tagsB s false b, aff := none,
        f := fun l =>
          let c := vw.numB s false false b l
          let pos := c % 256
          let n := min (pos + c / 256 % 256) 32 - pos
          let old := vw.num s false (.v d) l
          let keep := old - old / 2 ^ pos % 2 ^ n * 2 ^ pos
          { v := keep + vw.num s false a l % 2 ^ n * 2 ^ pos, ev := 0, c := false } })

/-- `vdot4`: four byte products and the addend, exact, then SAT (R151). -/
def execVdot4 (h : Hdr) (ty : VTy) (sat : Bool) (d : VIdx) (a : Src) (b : SrcB) (s : State) : Host.Outcome State Fault Refusal :=
  issue (.vdot4 h ty sat d a b) s (fun sid vw s =>
    vectorResult sid vw s (vw.enable h) d
      { wide := false, srcs := vw.tags s false (.v d) ++ vw.tags s false a ++ vw.tagsB s false b, aff := none,
        f := fun l =>
          let x := vw.num s false a l
          let y := vw.numB s false (vSigned ty) b l
          let byte (z k : Nat) : Int := extT (vSigned ty) 8 (z / 2 ^ (8 * k))
          let sum := (List.range 4).foldl (fun (acc : Int) k => acc + byte x k * byte y k)
            (elemOf ty (vw.num s false (.v d) l) 0)
          onElems ty (fun _ => vNarrow ty sat sum) })

end Sys2Proof.Machine
end

