-- ==== Sys2Proof/Machine/Dispatch.lean ====
section
/-! DEFINITION. One arm for every instruction and device step: one call of its meaning. -/

namespace Sys2Proof.Machine

def exec (i : Instr) (s : State) : Host.Outcome State Fault Refusal :=
  match i with
  | .nop h => Sys2Proof.Machine.execNop h s
  | .bra h c off => Sys2Proof.Machine.execBra h c off s
  | .brx h c b => Sys2Proof.Machine.execBrx h c b s
  | .call h c t => Sys2Proof.Machine.execCall h c t s
  | .ret h c => Sys2Proof.Machine.execRet h c s
  | .bdec h d off => Sys2Proof.Machine.execBdec h d off s
  | .exit h => Sys2Proof.Machine.execExit h s
  | .yield h => Sys2Proof.Machine.execYield h s
  | .trap h a k => Sys2Proof.Machine.execTrap h a k s
  | .brk h n => Sys2Proof.Machine.execBrk h n s
  | .msave h d => Sys2Proof.Machine.execMsave h d s
  | .mset h a => Sys2Proof.Machine.execMset h a s
  | .mand h a => Sys2Proof.Machine.execMand h a s
  | .mandn h a => Sys2Proof.Machine.execMandn h a s
  | .mcount h d a => Sys2Proof.Machine.execMcount h d a s
  | .mfirst h d a => Sys2Proof.Machine.execMfirst h d a s
  | .pand h d a b => Sys2Proof.Machine.execPand h d a b s
  | .por h d a b => Sys2Proof.Machine.execPor h d a b s
  | .pxor h d a b => Sys2Proof.Machine.execPxor h d a b s
  | .pnot h d a => Sys2Proof.Machine.execPnot h d a s
  | .pmov h d a => Sys2Proof.Machine.execPmov h d a s
  | .pbitsGet h d a => Sys2Proof.Machine.execPbitsGet h d a s
  | .pbitsPut h d a => Sys2Proof.Machine.execPbitsPut h d a s
  | .sadd h ty sat d a b => Sys2Proof.Machine.execSadd h ty sat d a b s
  | .ssub h ty sat d a b => Sys2Proof.Machine.execSsub h ty sat d a b s
  | .smul h ty sat d a b => Sys2Proof.Machine.execSmul h ty sat d a b s
  | .smulh h ty d a b => Sys2Proof.Machine.execSmulh h ty d a b s
  | .sdiv h ty d a b => Sys2Proof.Machine.execSdiv h ty d a b s
  | .srem h ty d a b => Sys2Proof.Machine.execSrem h ty d a b s
  | .sand h d a b => Sys2Proof.Machine.execSand h d a b s
  | .sor h d a b => Sys2Proof.Machine.execSor h d a b s
  | .sxor h d a b => Sys2Proof.Machine.execSxor h d a b s
  | .sshl h ty sat d a b => Sys2Proof.Machine.execSshl h ty sat d a b s
  | .sshr h ty d a b => Sys2Proof.Machine.execSshr h ty d a b s
  | .ssar h ty d a b => Sys2Proof.Machine.execSsar h ty d a b s
  | .smin h ty d a b => Sys2Proof.Machine.execSmin h ty d a b s
  | .smax h ty d a b => Sys2Proof.Machine.execSmax h ty d a b s
  | .scmp h ty c d a b => Sys2Proof.Machine.execScmp h ty c d a b s
  | .ssel h ty d a b => Sys2Proof.Machine.execSsel h ty d a b s
  | .smov h ty d b => Sys2Proof.Machine.execSmov h ty d b s
  | .sli h d a imm => Sys2Proof.Machine.execSli h d a imm s
  | .sclz h ty d a => Sys2Proof.Machine.execSclz h ty d a s
  | .spopc h ty d a => Sys2Proof.Machine.execSpopc h ty d a s
  | .sbfe h ty d a b => Sys2Proof.Machine.execSbfe h ty d a b s
  | .sadc h ty cp d a b => Sys2Proof.Machine.execSadc h ty cp d a b s
  | .vadd h ty sat d a b => Sys2Proof.Machine.execVadd h ty sat d a b s
  | .vsub h ty sat d a b => Sys2Proof.Machine.execVsub h ty sat d a b s
  | .vmul h ty sat d a b => Sys2Proof.Machine.execVmul h ty sat d a b s
  | .vmulh h ty d a b => Sys2Proof.Machine.execVmulh h ty d a b s
  | .vmad h ty sat d a b => Sys2Proof.Machine.execVmad h ty sat d a b s
  | .vmadw h ty d a b => Sys2Proof.Machine.execVmadw h ty d a b s
  | .vadc h ty cp d a b => Sys2Proof.Machine.execVadc h ty cp d a b s
  | .vsbc h ty cp d a b => Sys2Proof.Machine.execVsbc h ty cp d a b s
  | .vand h ty d a b => Sys2Proof.Machine.execVand h ty d a b s
  | .vor h ty d a b => Sys2Proof.Machine.execVor h ty d a b s
  | .vxor h ty d a b => Sys2Proof.Machine.execVxor h ty d a b s
  | .vshl h ty sat d a b => Sys2Proof.Machine.execVshl h ty sat d a b s
  | .vshr h ty d a b => Sys2Proof.Machine.execVshr h ty d a b s
  | .vsar h ty d a b => Sys2Proof.Machine.execVsar h ty d a b s
  | .vmin h ty d a b => Sys2Proof.Machine.execVmin h ty d a b s
  | .vmax h ty d a b => Sys2Proof.Machine.execVmax h ty d a b s
  | .vabs h ty sat d a => Sys2Proof.Machine.execVabs h ty sat d a s
  | .vcmp h ty c d a b => Sys2Proof.Machine.execVcmp h ty c d a b s
  | .vsel h ty d a b => Sys2Proof.Machine.execVsel h ty d a b s
  | .vmov h ty d b => Sys2Proof.Machine.execVmov h ty d b s
  | .vclz h ty d a => Sys2Proof.Machine.execVclz h ty d a s
  | .vpopc h ty d a => Sys2Proof.Machine.execVpopc h ty d a s
  | .vbfe h ty d a b => Sys2Proof.Machine.execVbfe h ty d a b s
  | .vbfi h d a b => Sys2Proof.Machine.execVbfi h d a b s
  | .vdot4 h ty sat d a b => Sys2Proof.Machine.execVdot4 h ty sat d a b s
  | .vfadd h ty r m d a b => Sys2Proof.Machine.execVfadd h ty r m d a b s
  | .vfsub h ty r m d a b => Sys2Proof.Machine.execVfsub h ty r m d a b s
  | .vfmul h ty r m d a b => Sys2Proof.Machine.execVfmul h ty r m d a b s
  | .vffma h ty r m d a b => Sys2Proof.Machine.execVffma h ty r m d a b s
  | .vfmin h ty m d a b => Sys2Proof.Machine.execVfmin h ty m d a b s
  | .vfmax h ty m d a b => Sys2Proof.Machine.execVfmax h ty m d a b s
  | .vfcmp h c d a b => Sys2Proof.Machine.execVfcmp h c d a b s
  | .vfdiv h ty r m d a b => Sys2Proof.Machine.execVfdiv h ty r m d a b s
  | .vfsqrt h ty r nega absa d a => Sys2Proof.Machine.execVfsqrt h ty r nega absa d a s
  | .vfrcp h ty nega absa d a => Sys2Proof.Machine.execVfrcp h ty nega absa d a s
  | .vfrsq h ty nega absa d a => Sys2Proof.Machine.execVfrsq h ty nega absa d a s
  | .vfexp2 h ty nega absa d a => Sys2Proof.Machine.execVfexp2 h ty nega absa d a s
  | .vflog2 h ty nega absa d a => Sys2Proof.Machine.execVflog2 h ty nega absa d a s
  | .vfsin h ty nega absa d a => Sys2Proof.Machine.execVfsin h ty nega absa d a s
  | .vfcos h ty nega absa d a => Sys2Proof.Machine.execVfcos h ty nega absa d a s
  | .vftanh h ty nega absa d a => Sys2Proof.Machine.execVftanh h ty nega absa d a s
  | .vfcvt h dty sty r d a ssel dsel => Sys2Proof.Machine.execVfcvt h dty sty r d a ssel dsel s
  | .vfrnd h ty r nega absa d a => Sys2Proof.Machine.execVfrnd h ty r nega absa d a s
  | .vfclass h ty nega absa d a => Sys2Proof.Machine.execVfclass h ty nega absa d a s
  | .vfscale h ty r m d a b => Sys2Proof.Machine.execVfscale h ty r m d a b s
  | .vred h ty op d a => Sys2Proof.Machine.execVred h ty op d a s
  | .vredx h ty op d a => Sys2Proof.Machine.execVredx h ty op d a s
  | .vscan h ty op excl d a => Sys2Proof.Machine.execVscan h ty op excl d a s
  | .vshfl h mode d a b => Sys2Proof.Machine.execVshfl h mode d a b s
  | .vbcast h d a b => Sys2Proof.Machine.execVbcast h d a b s
  | .sgetl h d a b => Sys2Proof.Machine.execSgetl h d a b s
  | .vsetl h d a b => Sys2Proof.Machine.execVsetl h d a b s
  | .vsample h d a b => Sys2Proof.Machine.execVsample h d a b s
  | .vrng h d a b => Sys2Proof.Machine.execVrng h d a b s
  | .vtagGet h d a => Sys2Proof.Machine.execVtagGet h d a s
  | .vtagExpand h d a => Sys2Proof.Machine.execVtagExpand h d a s
  | .vtagCompact h d a => Sys2Proof.Machine.execVtagCompact h d a s
  | .vld h ty sp o d m => Sys2Proof.Machine.execVld h ty sp o d m s
  | .vst h ty sp o a m => Sys2Proof.Machine.execVst h ty sp o a m s
  | .sld h ty sp o d m => Sys2Proof.Machine.execSld h ty sp o d m s
  | .sst h ty sp o a m => Sys2Proof.Machine.execSst h ty sp o a m s
  | .vatom h ty op o d a m => Sys2Proof.Machine.execVatom h ty op o d a m s
  | .satom h ty op o d a m => Sys2Proof.Machine.execSatom h ty op o d a m s
  | .fence h sc o => Sys2Proof.Machine.execFence h sc o s
  | .cpy h d a idx => Sys2Proof.Machine.execCpy h d a idx s
  | .cpyout h d a idx => Sys2Proof.Machine.execCpyout h d a idx s
  | .twait h a n => Sys2Proof.Machine.execTwait h a n s
  | .pf h m => Sys2Proof.Machine.execPf h m s
  | .seal h d a b => Sys2Proof.Machine.execSeal h d a b s
  | .unseal h d a => Sys2Proof.Machine.execUnseal h d a s
  | .cflush h m => Sys2Proof.Machine.execCflush h m s
  | .cinval h m => Sys2Proof.Machine.execCinval h m s
  | .mma h d a b => Sys2Proof.Machine.execMma h d a b s
  | .mma2 h d a b => Sys2Proof.Machine.execMma2 h d a b s
  | .mzero h d ver => Sys2Proof.Machine.execMzero h d ver s
  | .mload h bf16 spad d a => Sys2Proof.Machine.execMload h bf16 spad d a s
  | .mdrain h bf16 add spad d a => Sys2Proof.Machine.execMdrain h bf16 add spad d a s
  | .mver h d a => Sys2Proof.Machine.execMver h d a s
  | .mwait h a b => Sys2Proof.Machine.execMwait h a b s
  | .mfence h => Sys2Proof.Machine.execMfence h s
  | .barv h d g => Sys2Proof.Machine.execBarv h d g s
  | .bwait h a => Sys2Proof.Machine.execBwait h a s
  | .bexp h a g => Sys2Proof.Machine.execBexp h a g s
  | .btest h d a => Sys2Proof.Machine.execBtest h d a s
  | .pend h g k => Sys2Proof.Machine.execPend h g k s
  | .qpush h d a q => Sys2Proof.Machine.execQpush h d a q s
  | .qpop h d q => Sys2Proof.Machine.execQpop h d q s
  | .qspawn h d a q => Sys2Proof.Machine.execQspawn h d a q s
  | .qcancel h j => Sys2Proof.Machine.execQcancel h j s
  | .dpush h d a v => Sys2Proof.Machine.execDpush h d a v s
  | .dpop h d a => Sys2Proof.Machine.execDpop h d a s
  | .dsteal h d a => Sys2Proof.Machine.execDsteal h d a s
  | .lnext h => Sys2Proof.Machine.execLnext h s
  | .lwait h => Sys2Proof.Machine.execLwait h s
  | .nmopen h d a g => Sys2Proof.Machine.execNmopen h d a g s
  | .nmcall h a e => Sys2Proof.Machine.execNmcall h a e s
  | .nmcommit h d idx => Sys2Proof.Machine.execNmcommit h d idx s
  | .nmstat h d k => Sys2Proof.Machine.execNmstat h d k s
  | .nmclose h d => Sys2Proof.Machine.execNmclose h d s
  | .rbeg h irr d => Sys2Proof.Machine.execRbeg h irr d s
  | .rend h d => Sys2Proof.Machine.execRend h d s
  | .rabt h k => Sys2Proof.Machine.execRabt h k s
  | .rstat h d => Sys2Proof.Machine.execRstat h d s
  | .gcall h d a idx => Sys2Proof.Machine.execGcall h d a idx s
  | .gret h a st => Sys2Proof.Machine.execGret h a st s
  | .gpoll h d a => Sys2Proof.Machine.execGpoll h d a s
  | .csrr h d csr => Sys2Proof.Machine.execCsrr h d csr s
  | .csrw h op csr a => Sys2Proof.Machine.execCsrw h op csr a s
  | .tret h b => Sys2Proof.Machine.execTret h b s
  | .probe h d m => Sys2Proof.Machine.execProbe h d m s
  | .intr h a k => Sys2Proof.Machine.execIntr h a k s
  | .tinv h a b => Sys2Proof.Machine.execTinv h a b s
  | .wcsld h d a => Sys2Proof.Machine.execWcsld h d a s
  | .instructionFetch sid => Sys2Proof.Machine.execInstructionFetch sid s
  | .passIssueSelect core => Sys2Proof.Machine.execPassIssueSelect core s
  | .resultLand sid tok => Sys2Proof.Machine.execResultLand sid tok s
  | .pendingTrapTaken sid => Sys2Proof.Machine.execPendingTrapTaken sid s
  | .excWindowClose sid => Sys2Proof.Machine.execExcWindowClose sid s
  | .queueAgentWake ctx qid => Sys2Proof.Machine.execQueueAgentWake ctx qid s
  | .entryAccept ctx qid => Sys2Proof.Machine.execEntryAccept ctx qid s
  | .queueAgentPush sid => Sys2Proof.Machine.execQueueAgentPush sid s
  | .queueAccessRetry idx => Sys2Proof.Machine.execQueueAccessRetry idx s
  | .dispatchPlacement die => Sys2Proof.Machine.execDispatchPlacement die s
  | .starvationPlacement die => Sys2Proof.Machine.execStarvationPlacement die s
  | .phaseRecordRead sid => Sys2Proof.Machine.execPhaseRecordRead sid s
  | .bindRecordWrite die idx w => Sys2Proof.Machine.execBindRecordWrite die idx w s
  | .cancelArrival idx => Sys2Proof.Machine.execCancelArrival idx s
  | .passAged sid => Sys2Proof.Machine.execPassAged sid s
  | .l1FillLand idx => Sys2Proof.Machine.execL1FillLand idx s
  | .l1WriteBack core ctx line => Sys2Proof.Machine.execL1WriteBack core ctx line s
  | .writeCheckReturn idx => Sys2Proof.Machine.execWriteCheckReturn idx s
  | .pageResponse ctx page a => Sys2Proof.Machine.execPageResponse ctx page a s
  | .memoryPoison line => Sys2Proof.Machine.execMemoryPoison line s
  | .hostReadSnoop pa => Sys2Proof.Machine.execHostReadSnoop pa s
  | .hostWriteOwnership pa mask data poisoned => Sys2Proof.Machine.execHostWriteOwnership pa mask data poisoned s
  | .hostOwnershipArrival idx => Sys2Proof.Machine.execHostOwnershipArrival idx s
  | .snoopDelayExpiry idx => Sys2Proof.Machine.execSnoopDelayExpiry idx s
  | .ioAtomicResponse idx accepted => Sys2Proof.Machine.execIoAtomicResponse idx accepted s
  | .peerAccessArrival port acc => Sys2Proof.Machine.execPeerAccessArrival port acc s
  | .calderaRowDone core idx => Sys2Proof.Machine.execCalderaRowDone core idx s
  | .calderaCopyEnd core idx => Sys2Proof.Machine.execCalderaCopyEnd core idx s
  | .matrixEntryStart core idx => Sys2Proof.Machine.execMatrixEntryStart core idx s
  | .matrixGatherDone core idx => Sys2Proof.Machine.execMatrixGatherDone core idx s
  | .matrixOpComplete core idx => Sys2Proof.Machine.execMatrixOpComplete core idx s
  | .transferFault core idx => Sys2Proof.Machine.execTransferFault core idx s
  | .ventAttemptStart vent => Sys2Proof.Machine.execVentAttemptStart vent s
  | .ventCallExecute vent => Sys2Proof.Machine.execVentCallExecute vent s
  | .ventCommitRequest vent => Sys2Proof.Machine.execVentCommitRequest vent s
  | .ventCommitPoint vent => Sys2Proof.Machine.execVentCommitPoint vent s
  | .ventTranslationMiss vent => Sys2Proof.Machine.execVentTranslationMiss vent s
  | .callArrival port c => Sys2Proof.Machine.execCallArrival port c s
  | .callAck sref slot spilled => Sys2Proof.Machine.execCallAck sref slot spilled s
  | .callPromotion die cls => Sys2Proof.Machine.execCallPromotion die cls s
  | .spillDrain ctx handler die => Sys2Proof.Machine.execSpillDrain ctx handler die s
  | .stallBufferRelease port cls => Sys2Proof.Machine.execStallBufferRelease port cls s
  | .replyLand sref slot cause cls spilled value => Sys2Proof.Machine.execReplyLand sref slot cause cls spilled value s
  | .gyTimeoutExpiry sref slot => Sys2Proof.Machine.execGyTimeoutExpiry sref slot s
  | .flitReceive port lane f => Sys2Proof.Machine.execFlitReceive port lane f s
  | .flitAckReceive port => Sys2Proof.Machine.execFlitAckReceive port s
  | .crcWindowClose port => Sys2Proof.Machine.execCrcWindowClose port s
  | .laneRepairStart port lane => Sys2Proof.Machine.execLaneRepairStart port lane s
  | .laneRepairDrainDone port => Sys2Proof.Machine.execLaneRepairDrainDone port s
  | .portRetrainTimeout port => Sys2Proof.Machine.execPortRetrainTimeout port s
  | .portTraining port partner table mem => Sys2Proof.Machine.execPortTraining port partner table mem s
  | .phaseBoundaryPreempt ctx => Sys2Proof.Machine.execPhaseBoundaryPreempt ctx s
  | .forcedPreempt ctx => Sys2Proof.Machine.execForcedPreempt ctx s
  | .contextResume ctx => Sys2Proof.Machine.execContextResume ctx s
  | .unitFail lid unit cause => Sys2Proof.Machine.execUnitFail lid unit cause s
  | .uncorrectedEcc p => Sys2Proof.Machine.execUncorrectedEcc p s
  | .machineCheck u => Sys2Proof.Machine.execMachineCheck u s
  | .teamRetire sid => Sys2Proof.Machine.execTeamRetire sid s
  | .launchRetire lid => Sys2Proof.Machine.execLaunchRetire lid s
  | .counterOverflow p k => Sys2Proof.Machine.execCounterOverflow p k s
  | .pmcCntWrite p k v => Sys2Proof.Machine.execPmcCntWrite p k v s
  | .pmcSelWrite p k v => Sys2Proof.Machine.execPmcSelWrite p k v s
  | .qtLenWrite ctx v => Sys2Proof.Machine.execQtLenWrite ctx v s
  | .excWinWrite sid v => Sys2Proof.Machine.execExcWinWrite sid v s
  | .excCntWrite sid k v => Sys2Proof.Machine.execExcCntWrite sid k v s
  | .ordModeWrite v => Sys2Proof.Machine.execOrdModeWrite v s
  | .nmCsrWrite sid csr v => Sys2Proof.Machine.execNmCsrWrite sid csr v s
  | .fjDevidWrite v => Sys2Proof.Machine.execFjDevidWrite v s
  | .mgmtSemWrite port v => Sys2Proof.Machine.execMgmtSemWrite port v s
  | .csrWrite ctx sid csr v => Sys2Proof.Machine.execCsrWrite ctx sid csr v s
  | .readPmc port p k => Sys2Proof.Machine.execReadPmc port p k s
  | .readEcs port stack channel bank => Sys2Proof.Machine.execReadEcs port stack channel bank s
  | .readLog port => Sys2Proof.Machine.execReadLog port s
  | .createCtx port ctx priv pasid => Sys2Proof.Machine.execCreateCtx port ctx priv pasid s
  | .writeCsr port ctx csr v => Sys2Proof.Machine.execWriteCsr port ctx csr v s
  | .writePmc port p k sel v => Sys2Proof.Machine.execWritePmc port p k sel v s
  | .maintReset port => Sys2Proof.Machine.execMaintReset port s
  | .fwUpdate port image => Sys2Proof.Machine.execFwUpdate port image s
  | .bankRefreshDue channel bank waiting => Sys2Proof.Machine.execBankRefreshDue channel bank waiting s
  | .ecsScrubError stack channel bank row correctable line => Sys2Proof.Machine.execEcsScrubError stack channel bank row correctable line s
  | .powerGood fail links boot => Sys2Proof.Machine.execPowerGood fail links boot s
  | .flitReplayRequest port seq => Sys2Proof.Machine.execFlitReplayRequest port seq s
  | .homeWriteQueueDrain sid home => Sys2Proof.Machine.execHomeWriteQueueDrain sid home s
  | .queueResidencyWrite ctx qid resident die hwq => Sys2Proof.Machine.execQueueResidencyWrite ctx qid resident die hwq s
  | .leaseExpiry => Sys2Proof.Machine.execLeaseExpiry s
  | .barrierHubCycle => Sys2Proof.Machine.execBarrierHubCycle s
  | .regionCommit => Sys2Proof.Machine.execRegionCommit s
  | .mgmtSemTimeout => Sys2Proof.Machine.execMgmtSemTimeout s
  | .thermalPowerLimit => Sys2Proof.Machine.execThermalPowerLimit s
  | .junctionOver110c => Sys2Proof.Machine.execJunctionOver110c s
  | .inputPowerLoss => Sys2Proof.Machine.execInputPowerLoss s
  | .junctionBelow100c => Sys2Proof.Machine.execJunctionBelow100c s

end Sys2Proof.Machine
end

