-- ==== Sys2Proof/Machine/Cycle.lean ====
section
/-! DEFINITION. What the device may do next, and the passing of a core cycle (01 R12; 04 R59, R69; 24 R377, R385). -/

namespace Sys2Proof.Machine

/-- Did a step happen? -/
def happens (o : Host.Outcome State Fault Refusal) : Bool :=
  match o with
  | .next _ => true
  | _ => false

/-- The steps a team's own state may give rise to. -/
def teamSteps (e : Nat × Team) : List Instr :=
  [.pendingTrapTaken e.1, .instructionFetch e.1, .passAged e.1, .phaseRecordRead e.1, .teamRetire e.1]
    ++ e.2.misses.map (fun x => .resultLand e.1 x.tok) ++ e.2.sb.map (fun x => .resultLand e.1 x.tok)

/-- Those of a core: issue, copies, the matrix engine. -/
def coreSteps (e : Nat × Core) : List Instr :=
  (List.range e.2.copies.length).flatMap (fun i => [Instr.calderaRowDone e.1 i, .calderaCopyEnd e.1 i])
    ++ (List.range e.2.matrix.length).flatMap (fun i =>
        [Instr.matrixEntryStart e.1 i, .matrixGatherDone e.1 i, .matrixOpComplete e.1 i, .transferFault e.1 i])

/-- Those of a vent. -/
def ventSteps (v : Nat) : List Instr :=
  [.ventAttemptStart v, .ventCallExecute v, .ventTranslationMiss v, .ventCommitRequest v, .ventCommitPoint v]

/-- The caches and the translation units. -/
def cacheSteps (s : State) : List Instr :=
  (List.range s.fills.length).map Instr.l1FillLand ++ s.l1.map (fun x => .l1WriteBack x.core x.ctx x.line)
    ++ (List.range s.wchecks.length).map Instr.writeCheckReturn ++ s.wq.map (fun q => .homeWriteQueueDrain q.sid q.home)

/-- Queues, the dispatcher, launches. -/
def workSteps (s : State) : List Instr :=
  s.watches.flatMap (fun w => [Instr.entryAccept w.ctx w.qid, .queueAgentWake w.ctx w.qid])
    ++ (s.pushes.map (fun p => p.sid)).dedup.map Instr.queueAgentPush
    ++ (if s.launches.isEmpty && s.dieTab.isEmpty then [] else
        (List.range Config.dies).flatMap (fun d => [Instr.starvationPlacement d, .dispatchPlacement d]))
    ++ s.launches.map (fun l => .launchRetire l.lid) ++ (List.range s.casts.length).map Instr.cancelArrival
    ++ (s.ctxs.filter (fun c => c.2.stopping)).map (fun c => .forcedPreempt c.1)

/-- Calls on their way through this device (21). -/
def callSteps (s : State) : List Instr :=
  s.arrivals.map (fun x => .callArrival x.port x.call) ++ s.mail
    ++ s.spills.flatMap (fun r => (List.range Config.dies).map (fun d => Instr.spillDrain r.ctx r.handler d))
    ++ s.stalls.map (fun x => .stallBufferRelease x.port x.call.cls.toNat)

/-- Every step that may happen of itself in a state. Those that are not due are dropped by the step. -/
def candidates (s : State) : List Instr :=
  s.teams.flatMap teamSteps ++ ((s.teams.map (fun e => e.2.coreId)).dedup).map Instr.passIssueSelect ++ s.cores.flatMap coreSteps
    ++ (s.windows.map (fun w => w.vent)).dedup.flatMap ventSteps ++ cacheSteps s ++ workSteps s ++ callSteps s

/-! ## A cycle passes -/

/-- Steps that the clock or real time makes due, each in the cycle in which it falls. Those of higher places come first, so
that a step does not move another's place. -/
def timedSteps (s : State) : List Instr :=
  let back (n : Nat) : List Nat := (List.range n).reverse
  let calls := s.teams.flatMap (fun e => e.2.slots.map (fun x => Instr.gyTimeoutExpiry e.2.key x.1))
    ++ s.ctxs.flatMap (fun c => c.2.saved.flatMap (fun w => w.team.slots.map (fun x => Instr.gyTimeoutExpiry w.team.key x.1)))
    ++ s.launches.flatMap (fun l => l.phases.flatMap (fun q => q.slots.map (fun x => Instr.gyTimeoutExpiry q.key x.1)))
  [.leaseExpiry] ++ (s.teams.filter (fun e => !e.2.exc.wcnt.isEmpty)).map (fun e => .excWindowClose e.1) ++ calls
    ++ s.dieTab.flatMap (fun d => d.2.gyq.map (fun q => Instr.callPromotion d.1 q.1))
    ++ (back s.own.length).map Instr.snoopDelayExpiry ++ [.mgmtSemTimeout]
    ++ (back (s.watches.length + s.spills.length)).map Instr.queueAccessRetry
    ++ s.ports.flatMap (fun p => [Instr.laneRepairStart p.1 0, .laneRepairStart p.1 1, .crcWindowClose p.1, .laneRepairDrainDone p.1,
        .portRetrainTimeout p.1])
    ++ (back s.casts.length).filterMap (fun i =>
        if (match s.casts[i]? with | some b => decide (b.before ≤ s.clock) | none => false) then some (Instr.cancelArrival i) else none)
    ++ [.barrierHubCycle, .regionCommit]

/-- Core cycles are counted (24 R377). A core cycle is an event of no context (DEDUCED, log 96). -/
def countCycles (s : State) : State :=
  s.cores.foldl (fun s c => if c.2.pmc.sel.isEmpty then s else pmcCount s (.core c.1) 1 (2 ^ 16) 1) s

/-- Capacity and replacement are not stated: in a cycle, a translation unit may lose a cached translation, and a home may write
a line back to memory and give it up. Which, if any, is free (DESIGN CHOICE, log 22 and 33). -/
def evictSome (s : State) : State :=
  let s1 : State := if Config.freeBit s.fresh 4003 0 then { s with tlb := s.tlb.eraseIdx (Config.choice s.fresh % s.tlb.length) } else s
  let s2 := s1.tick1
  (if Config.freeBit s2.fresh 4002 0 then
    match s2.homes[Config.choice s2.fresh % s2.homes.length]? with
    | some h => dropHome (cleanHome s2 h) h.ctx h.line
    | none => s2
  else s2).tick1

/-- One core cycle passes: %clock, real time at the present core clock, what the caches lose, the ages of what waits, and what
falls due. -/
def tick (s : State) (due : Instr → State → Bool) : State :=
  let s1 := refreshAges (takeBinds (countCycles (evictSome (countOwed { s with clock := s.clock + 1,
                                                                               rt := s.rt + Config.unitsPerCycle s.clkStep }))))
  { s1 with agenda := s1.agenda ++ (timedSteps s1).filter (fun i => due i s1) }

/-! ## What a step does -/

/-- An input or a due step at the head of the agenda. One that is not due changes nothing. -/
def runAgenda (i : Instr) (s : State) : Host.Outcome State Fault Refusal :=
  if i.fields.isSome then .refused .notAnInput
  else match exec i s with
    | .fault (.eventNotDue _) => .next s
    | o => o

/-- The selected team goes on: its fetched instruction, or the one at its PC (05 R73). -/
def runTeam (s : State) (sid : Nat) : Host.Outcome State Fault Refusal :=
  match s.team? sid with
  | none => .next { s with current := none }
  | some t =>
    match t.fetched with
    | some i => exec i s
    | none =>
      match fetchFor s sid t with
      | (s1, some i) => exec i s1
      | (s1, none) => .next { s1 with current := none }

/-- The steps that can happen now beside the passing of a cycle (DESIGN CHOICE, log 3 and 102). -/
def enabled (s : State) : List Instr := (candidates s).filter (fun i => happens (exec i s))

/-- A step that the cycle does not pass without: a core chooses a pass to issue in each cycle in which it can (04 R69). -/
def holdsCycle (i : Instr) : Bool :=
  match i with
  | .passIssueSelect _ => true
  | _ => false

/-- Something happens: one of the steps that can, or a cycle passes. The choice is free (DESIGN CHOICE, log 3 and 102). -/
def runDevice (s : State) : Host.Outcome State Fault Refusal :=
  let es := enabled s
  let n := if es.any holdsCycle then es.length else es.length + 1
  match (if es.isEmpty then none else es[Config.choice s.fresh % n]?) with
  | some i => exec i s.tick1
  | none => .next (tick s.tick1 (fun i s => happens (exec i s)))

/-! ## Placing an instruction -/

/-- Where a byte of code of the team lies: under the translation its fetch uses, which is given if there is none. -/
def codePage (s : State) (ctx : Nat) (va : Word) : State × Nat :=
  let unit := unitOf va.toNat
  match (tlbFind s unit ctx va.toNat .exec).filter (fun t => t.peer.isNone) with
  | some t => (s, t.pa + va.toNat % 2 ^ t.size)
  | none =>
    let tr : Trans := { pa := va.toNat / 4096 % 2 ^ 40 * 4096, size := 12, w := true, x := true, dset := true, peer := none,
                        expiry := s.rt + s.leaseMax * Config.unitsPerMicro }
    ({ s with tlb := s.tlb.filter (fun e => !(e.unit == unit && e.ctx == ctx && e.vpage == va.toNat / 2 ^ e.tr.size))
                ++ [{ unit := unit, ctx := ctx, vpage := va.toNat / 4096, tr := tr }] }, tr.pa + va.toNat % 4096)

/-- Store one byte of code, in no cache. -/
def placeByte (s : State) (core ctx : Nat) (va : Word) (b : Byte) : State :=
  let r := codePage s ctx va
  let k := physKey r.1 r.2
  let line := va.toNat / 64
  (dropHome { r.1 with mem := memSet r.1.mem k b, poison := r.1.poison.filter (· != k / 64) } ctx line).onCore core (fun c => dropCode c ctx line)

def placeBytesAt (core ctx : Nat) : State → Word → List Byte → State
  | s, _, [] => s
  | s, va, b :: r => placeBytesAt core ctx (placeByte s core ctx va b) (va + 1) r

/-- A team that stands at a place in code, where none is resident (DESIGN CHOICE, log 4). -/
def codeTeam : Team :=
  ({ (blankTeam 0 0 0 0 { team := 0, entry := 0x10000, w := 32, n := 128, g := 128 }) with ctx := 1 }).setMask (lanesBelow 32)

end Sys2Proof.Machine
end

