-- ==== Sys2Proof/Machine/Step.lean ====
section
/-! DEFINITION. One step of the machine, and placing an instruction where the next step fetches it. -/

namespace Sys2Proof.Machine

/-- ONE STEP: what is due or comes from outside, oldest first; then the selected team's instruction; then the device. -/
def step (s : State) : Host.Outcome State Fault Refusal :=
  if !s.powered then
    match s.agenda with
    | .powerGood fail l b :: r => exec (.powerGood fail l b) { s with agenda := r }
    | _ => .fault .powerLost
  else match s.agenda with
    | i :: r => runAgenda i { s with agenda := r }
    | [] =>
      match s.current with
      | some sid => runTeam s sid
      | none => runDevice s

/-- The machine with the instruction `w` stored where its next step fetches (05 R73): the agenda is empty, a team is selected
whose PC names the bytes, and it stands at an instruction boundary with no trap due. The 12 bytes of an instruction are the
whole of it (DESIGN CHOICE, log 4). -/
def State.withFetchWord (s : State) (_nbits w : Nat) : State :=
  let sid := match s.current with
    | some k => if (s.team? k).isSome then k else 0
    | none => 0
  let t : Team := (s.team? sid).getD codeTeam
  let t1 := { t with fetched := none, more := none, mem := none, pend := [], pf := none, park := .run, pc := if canonical t.pc then t.pc / 4 * 4 else 0x10000 }
  let s1 : State := { s with powered := true, agenda := [], current := some sid }
  let s2 := s1.setTeam sid t1
  let s3 := if (s2.ctx? t1.ctx).isSome then s2 else s2.setCtx t1.ctx (newCtx .user 0)
  placeBytesAt t1.coreId t1.ctx s3 t1.pc (leBytes 12 w)

end Sys2Proof.Machine
end

