-- ==== Sys2Proof/Safety.lean ====
section
/-! DEFINITION. What counts as a safe run, and the terms the statements are written in: an instruction that nothing holds
back, what it reads, and what a step leaves as it was. -/

namespace Sys2Proof.Machine

/-- A safe step: the machine goes on. -/
def SafeStep (s : State) : Prop := ∃ s', step s = .next s'

/-- What every run keeps: memory in its canonical form. -/
def State.Inv (s : State) : Prop := Memory.wf s.mem = true

/-- Nothing holds instruction `i` of team `t` back: the team is the one selected, no trap is due before the instruction
(23 R358), the checks of 05 R101 pass, no source or destination waits (05 R88, R89), and at its first pass its sources are
readable where that is checked (05 R87, R90). -/
structure Clear (i : Instr) (s : State) (sid : Nat) (t : Team) : Prop where
  selected : s.current = some sid
  resident : s.team? sid = some t
  noTrap   : trapDue t = false
  checked  : checkWord s t i (uses i) = none
  landed   : pendingReg t i (uses i) = none
  inOrder  : landsInOrder t (uses i) (latency (opcOf i)) ≤ s.clock
  timely   : t.sbchk = true → t.mem = none → checkStall t s.clock (isVector (opcOf i)) (uses i).src = none

/-- The state as the instruction's own effect finds it: an instruction that acts has read its tokens, which acquires (14
R272); else nothing has changed. -/
def atIssue (i : Instr) (s : State) (sid : Nat) (t : Team) : State :=
  if acts i (viewOf s t i (uses i)) then readTokens s sid t (readSrcs i (uses i)) else s

/-- The team in that state. -/
def teamAtIssue (i : Instr) (s : State) (sid : Nat) (t : Team) : Team := ((atIssue i s sid t).team? sid).getD t

/-- What the instruction's sources read as. -/
def viewAtIssue (i : Instr) (s : State) (sid : Nat) (t : Team) : View :=
  viewOf (atIssue i s sid t) (teamAtIssue i s sid t) i (uses i)

/-- The state after an instruction that went on to the next word, from the state its own effect left. -/
def fallen (i : Instr) (s : State) (sid : Nat) (t : Team) (effect : State) (passes : Nat) : State :=
  retire i sid (teamAtIssue i s sid t) (uses i) effect passes ((teamAtIssue i s sid t).pc + 12)

/-- The state after an instruction that transferred control. -/
def jumped (i : Instr) (s : State) (sid : Nat) (t : Team) (effect : State) (target : Word) : State :=
  retire i sid (teamAtIssue i s sid t) (uses i) effect 1 target

/-- The state after a trap that the instruction raised in its issue cycle, taken at it or after it (05 R86; 23 R359). -/
def trapped (i : Instr) (s : State) (sid : Nat) (cause : BitVec 9) (tval : Word) (fmask : Mask) (tpc : Word) : State :=
  { takeTrap (noteTrap i sid s) sid cause tval fmask tpc with current := none }

/-- A scalar-side instruction that nothing holds back and whose guard passes (05 R85). -/
structure Runs (i : Instr) (h : Hdr) (s : State) (sid : Nat) (t : Team) : Prop extends Clear i s sid t where
  guard : (viewAtIssue i s sid t).guard h = true

/-- The 64 bits of scalar source `a`, and of scalar source `b` under a signedness for immediates. -/
def srcA (i : Instr) (s : State) (sid : Nat) (t : Team) (a : Src) : Word :=
  (viewAtIssue i s sid t).ssrc (atIssue i s sid t) a
def srcS (i : Instr) (s : State) (sid : Nat) (t : Team) (signed : Bool) (b : SrcB) : Word :=
  (viewAtIssue i s sid t).ssrcB (atIssue i s sid t) signed b

/-- A scalar result in its register: 64 bits as they are, 32 bits sign- or zero-extended (07 R124). -/
def fitS (ty : STy) (x : Word) : Word :=
  match ty with
  | .i32 => (x.setWidth 32).signExtend 64
  | .n32 => (x.setWidth 32).setWidth 64
  | _ => x

/-- The exact value of a source under a type (07 R124). -/
def exactS (ty : STy) (x : Word) : Int :=
  match ty with
  | .i64 => x.toInt
  | .n64 => x.toNat
  | .i32 => (x.setWidth 32).toInt
  | .n32 => (x.setWidth 32).toNat
  | .b64 => x.toNat

/-- The least and the greatest value of a type. -/
def leastS : STy → Int
  | .i64 => -2 ^ 63
  | .i32 => -2 ^ 31
  | _ => 0
def greatestS : STy → Int
  | .i64 => 2 ^ 63 - 1
  | .i32 => 2 ^ 31 - 1
  | .n32 => 2 ^ 32 - 1
  | _ => 2 ^ 64 - 1

/-- The state after an instruction that wrote team registers and raised the exception events `e`, each once: they count when
its last pass completes (08 R158). -/
def wrote (i : Instr) (s : State) (sid : Nat) (t : Team) (t1 : Team) (e : Events) (passes : Nat) : State :=
  fallen i s sid t (oweEvents ((atIssue i s sid t).setTeam sid t1) sid (oneEach e)) passes

/-- The state after an instruction that wrote `v` to scalar register `d`. -/
def wroteS (i : Instr) (s : State) (sid : Nat) (t : Team) (d : SIdx) (v : Word) (e : Events) : State :=
  wrote i s sid t ((teamAtIssue i s sid t).setS d.toNat v) e 1

/-- SAT (07 R125): the exact result `x` clamped to the type's range; a clamp that changes it raises overflow. -/
def clampedS (i : Instr) (s : State) (sid : Nat) (t : Team) (ty : STy) (d : SIdx) (x : Int) : State :=
  if x < leastS ty then wroteS i s sid t d (BitVec.ofInt 64 (leastS ty)) evOverflow
  else if greatestS ty < x then wroteS i s sid t d (BitVec.ofInt 64 (greatestS ty)) evOverflow
  else wroteS i s sid t d (BitVec.ofInt 64 x) 0

/-- Division (07 R132). -/
def quotientS (i : Instr) (s : State) (sid : Nat) (t : Team) (ty : STy) (d : SIdx) (x y : Int) : State :=
  if y = 0 then wroteS i s sid t d (fitS ty (if leastS ty = 0 then BitVec.allOnes 64 else if x < 0 then -1 else 1)) evDivZero
  else if leastS ty < 0 ∧ x = leastS ty ∧ y = -1 then wroteS i s sid t d (BitVec.ofInt 64 (leastS ty)) evOverflow
  else wroteS i s sid t d (fitS ty (BitVec.ofInt 64 (Int.tdiv x y))) 0

/-- Its remainder (07 R132). -/
def remainderS (i : Instr) (s : State) (sid : Nat) (t : Team) (ty : STy) (d : SIdx) (x y : Int) : State :=
  if y = 0 then wroteS i s sid t d (fitS ty (BitVec.ofInt 64 x)) evDivZero
  else if leastS ty < 0 ∧ x = leastS ty ∧ y = -1 then wroteS i s sid t d 0 evOverflow
  else wroteS i s sid t d (fitS ty (BitVec.ofInt 64 (Int.tmod x y))) 0

/-- Bits `pos` up to `min (pos + len) 64 - 1`, zero- or sign-extended; an empty field is 0 (07 R139). -/
def fieldOf (signed : Bool) (x : Word) (pos len : Nat) : Word :=
  let n := min (pos + len) 64 - pos
  if n = 0 then 0 else if signed then ((x >>> pos) <<< (64 - n)).sshiftRight (64 - n) else ((x >>> pos) <<< (64 - n)) >>> (64 - n)

/-- The same of 32 bits (07 R150). -/
def fieldOf32 (signed : Bool) (x : Lane) (pos len : Nat) : Lane :=
  let n := min (pos + len) 32 - pos
  if n = 0 then 0 else if signed then ((x >>> pos) <<< (32 - n)).sshiftRight (32 - n) else ((x >>> pos) <<< (32 - n)) >>> (32 - n)

/-- The low bits of `x` put into that field of `z` (07 R150). -/
def insertField (z x : Lane) (pos len : Nat) : Lane :=
  let n := min (pos + len) 32 - pos
  let m : Lane := BitVec.ofNat 32 ((2 ^ n - 1) * 2 ^ pos)
  (z &&& ~~~ m) ||| ((x <<< pos) &&& m)

/-! ## What stays as it was -/

/-- Every byte that software can read is as it was: memory, homes, L1s, speculative bytes, scratchpads. -/
structure SameBytes (s s' : State) : Prop where
  mem  : ∀ k, memByte s'.mem k = memByte s.mem k
  spad : ∀ k, spadByte s' k = spadByte s k
  l1   : s'.l1 = s.l1
  home : s'.homes = s.homes
  spec : s'.spec = s.spec

/-- Every register but those named is as it was. -/
structure SameRegs (t t' : Team) (dst : List RegName) : Prop where
  s    : ∀ n, RegName.s n ∉ dst → t'.sr n = t.sr n
  v    : ∀ n, RegName.v n ∉ dst → t'.vr n = t.vr n
  p    : ∀ n, RegName.p n ∉ dst → t'.pr n = t.pr n
  mask : RegName.mask ∉ dst → t'.mask = t.mask

/-- The special and exception registers of a team, and what it holds beside its registers, are as they were; its exception
counters may have counted (08 R159). -/
structure SameHeld (t t' : Team) : Prop where
  trap  : t'.cause = t.cause ∧ t'.tpc = t.tpc ∧ t'.tval = t.tval ∧ t'.fmask = t.fmask ∧ t'.inTrap = t.inTrap ∧ t'.keep = t.keep
  mode  : t'.sbchk = t.sbchk ∧ t'.phase = t.phase ∧ t'.cancel = t.cancel ∧ t'.shp = t.shp ∧ t'.pend = t.pend
  vent  : t'.nmSigw = t.nmSigw ∧ t'.nmGrain = t.nmGrain ∧ t'.nmEsc = t.nmEsc ∧ t'.window = t.window ∧ t'.region = t.region
  shape : t'.w = t.w ∧ t'.n = t.n ∧ t'.g = t.g ∧ t'.key = t.key ∧ t'.ctx = t.ctx ∧ t'.team = t.team ∧ t'.unit = t.unit
  exc   : (∀ k, t'.exc.actOf k = t.exc.actOf k) ∧ (∀ k, t'.exc.thrOf k = t.exc.thrOf k) ∧ t'.exc.winLog = t.exc.winLog

/-- The same, and no exception event was counted. -/
structure SameSpecial (t t' : Team) : Prop extends SameHeld t t' where
  counts : t'.exc = t.exc

/-- The events an instruction raised, class by class, wait for its last pass (08 R158): where there are none, what waited
waits on. -/
def Owes (u t' : Team) (n : Nat → Nat) : Prop :=
  (∀ k, k < 8 → t'.owed.getD k 0 = n k) ∨ ((∀ k, k < 8 → n k = 0) ∧ t'.owed = u.owed)

/-- Nothing changes but one team's registers `dst`, its own issue state and its pc, and its core's account of issuing. -/
structure OnlyRegs (s s' : State) (sid : Nat) (t : Team) (dst : List RegName) : Prop where
  team    : ∃ t', s'.team? sid = some t' ∧ SameRegs t t' dst ∧ SameSpecial t t'
  bytes   : SameBytes s s'
  others  : ∀ k, k ≠ sid → s'.team? k = s.team? k
  tiles   : ∀ c, (s'.core c).tiles = (s.core c).tiles ∧ (s'.core c).counters = (s.core c).counters
  ctxs    : s'.ctxs = s.ctxs
  vents   : s'.vents = s.vents ∧ s'.windows = s.windows
  regions : s'.regions = s.regions ∧ s'.tracked = s.tracked
  work    : s'.launches = s.launches ∧ s'.clock = s.clock ∧ s'.rt = s.rt
  core    : ∀ c, s'.core c = { s.core c with
              busyUntil := (s'.core c).busyUntil, lastKey := (s'.core c).lastKey, run := (s'.core c).run, issues := (s'.core c).issues,
              yielded := (s'.core c).yielded, agedQ := (s'.core c).agedQ, pmc := (s'.core c).pmc }
  rest    : s' = { s with teams := s'.teams, cores := s'.cores, agenda := s'.agenda, current := s'.current, order := s'.order, fresh := s'.fresh }

/-! ## Vector results -/

/-- Lane `l` of a register, or of an even pair with its low member first (05 R79). -/
def laneVal (t : Team) (d : VIdx) (wide : Bool) (l : Nat) : Nat :=
  ((t.vr d.toNat).lane l).toNat + (if wide then ((t.vr (d.toNat + 1)).lane l).toNat * 2 ^ 32 else 0)

/-- The members of a vector destination. -/
def members (d : VIdx) (wide : Bool) : List Nat := if wide then [d.toNat, d.toNat + 1] else [d.toNat]

/-- The lanes a vector instruction acts on (05 R85). -/
def enableOf (i : Instr) (h : Hdr) (s : State) (sid : Nat) (t : Team) : Mask := (viewAtIssue i s sid t).enable h

/-- No threshold of the team can be crossed by one instruction with an action (08 R161). -/
def Quiet (t : Team) : Prop :=
  ∀ k, k < 8 → t.exc.actOf k = 0 ∨ (t.exc.wcntOf k).toNat + 1024 ≤ (t.exc.thrOf k).toNat

/-- A vector instruction that nothing holds back: some lane is enabled, and its result fits the shape budget (06 R111: a
result is U under a full enable with U sources, else counted as G). -/
structure VectorRuns (i : Instr) (h : Hdr) (s : State) (sid : Nat) (t : Team) (en : Mask) (d : VIdx) (wide : Bool) (tags : List Tag) :
    Prop extends Clear i s sid t where
  some  : en ≠ 0
  width : (teamAtIssue i s sid t).w ≤ 1024
  room  : overBudget (teamAtIssue i s sid t)
            ((members d wide).map (fun n => (n, if en = (teamAtIssue i s sid t).lanes ∧ allU tags then Tag.u else Tag.g))) = false

/-- The instruction completes: every enabled lane of D holds `val`, every other lane and register but `more` is as it was,
`also` holds of the team, and it goes on to the next word. -/
def LanesWritten (i : Instr) (s : State) (sid : Nat) (t : Team) (en : Mask) (d : VIdx) (wide : Bool) (val : Nat → Nat)
    (more : List RegName := []) (also : Team → Prop := fun _ => True) : Prop :=
  ∃ s' t', exec i s = .next s' ∧ s'.team? sid = some t' ∧ t'.pc = (teamAtIssue i s sid t).pc + 12 ∧
    (∀ l, l < (teamAtIssue i s sid t).w →
      laneVal t' d wide l = if en.getLsbD l then val l % 2 ^ (if wide then 64 else 32) else laneVal (teamAtIssue i s sid t) d wide l) ∧
    SameRegs (teamAtIssue i s sid t) t' ((members d wide).map RegName.v ++ more) ∧ also t' ∧
    SameSpecial (teamAtIssue i s sid t) t' ∧ SameBytes (atIssue i s sid t) s' ∧
    ∀ k, k ≠ sid → s'.team? k = (atIssue i s sid t).team? k

/-- The same for a predicate destination (06 R109, R113). -/
def PredWritten (i : Instr) (s : State) (sid : Nat) (t : Team) (en : Mask) (d : PIdx) (val : Nat → Bool) : Prop :=
  ∃ s' t', exec i s = .next s' ∧ s'.team? sid = some t' ∧ t'.pc = (teamAtIssue i s sid t).pc + 12 ∧
    (∀ l, l < (teamAtIssue i s sid t).w → d ≠ 31 →
      (t'.pr d.toNat).getLsbD l = if en.getLsbD l then val l else ((teamAtIssue i s sid t).pr d.toNat).getLsbD l) ∧
    SameRegs (teamAtIssue i s sid t) t' [.p d.toNat] ∧ SameSpecial (teamAtIssue i s sid t) t' ∧
    SameBytes (atIssue i s sid t) s' ∧ ∀ k, k ≠ sid → s'.team? k = (atIssue i s sid t).team? k

/-- Source `a` of lane `l`, and source `b`, as numbers of 32 or 64 bits (07 R128). -/
def laneA (i : Instr) (s : State) (sid : Nat) (t : Team) (wide : Bool) (a : Src) (l : Nat) : Nat :=
  (viewAtIssue i s sid t).num (atIssue i s sid t) wide a l
def laneB (i : Instr) (s : State) (sid : Nat) (t : Team) (wide signed : Bool) (b : SrcB) (l : Nat) : Nat :=
  (viewAtIssue i s sid t).numB (atIssue i s sid t) wide signed b l

/-- The tags of the sources of a two-source instruction (06 R108). -/
def tags2 (i : Instr) (s : State) (sid : Nat) (t : Team) (wide : Bool) (a : Src) (b : SrcB) : List Tag :=
  (viewAtIssue i s sid t).tags (atIssue i s sid t) wide a ++ (viewAtIssue i s sid t).tagsB (atIssue i s sid t) wide b
def tags1 (i : Instr) (s : State) (sid : Nat) (t : Team) (wide : Bool) (a : Src) : List Tag :=
  (viewAtIssue i s sid t).tags (atIssue i s sid t) wide a

/-- SAT (07 R125): clamp an exact element to its type's range. -/
def clampV (ty : VTy) (sat : Bool) (x : Int) : Int :=
  if sat then max (minT (vSigned ty) (vBits ty)) (min (maxT (vSigned ty) (vBits ty)) x) else x

/-- A vector instruction that writes a predicate and that nothing holds back. -/
structure PredRuns (i : Instr) (s : State) (sid : Nat) (t : Team) (en : Mask) : Prop extends Clear i s sid t where
  some  : en ≠ 0
  width : (teamAtIssue i s sid t).w ≤ 1024

/-- Element by element of a lane: both halves of a packed type, else the whole lane. -/
def elemwise (ty : VTy) (f : Nat → Int) : Nat :=
  if vPacked ty then (f 0 % 2 ^ 16).toNat + (f 1 % 2 ^ 16).toNat * 2 ^ 16 else (f 0 % 2 ^ vBits ty).toNat

/-! ## Exact numbers -/

/-- The rational value of a finite number. -/
def FVal.rat : FVal → Rat
  | .fin n m e => (if n then -1 else 1) * (m : Rat) * (2 : Rat) ^ e
  | _ => 0

def FVal.finite : FVal → Bool
  | .fin .. => true
  | _ => false

/-- The largest finite magnitude of a format, and the magnitude at and above which rounding to nearest overflows. -/
def Fmt.largest (f : Fmt) : Rat := (2 ^ (f.p + 1) - 1 : Nat) * (2 : Rat) ^ (f.bias - f.p)
def Fmt.brink (f : Fmt) : Rat := (2 ^ (f.p + 2) - 1 : Nat) * (2 : Rat) ^ (f.bias - f.p - 1)

/-- `o` is `x` rounded to `f` under `r` (08 R155): the nearest finite value on the side that the mode allows, the even one at
a tie; past the largest magnitude, the infinity or the largest finite value of the mode. `x` is rational, or real. -/
def CorrectlyRounded {K : Type} [Field K] [LinearOrder K] (f : Fmt) (r : Rnd) (x : K) (o : Nat) : Prop :=
  match f.val o with
  | .nan _ => False
  | .inf n =>
    n = decide (x < 0) ∧
    (match r with
     | .rne => (f.brink : K) ≤ |x|
     | .rz => False
     | .ru => (f.largest : K) < x
     | .rd => x < -(f.largest : K))
  | .fin n m e =>
    let y : K := (FVal.rat (.fin n m e) : K)
    let all (p : K → Prop) : Prop := ∀ c, c < 2 ^ f.width → (f.val c).finite = true → p ((f.val c).rat : K)
    match r with
    | .rne => |x| < (f.brink : K) ∧ all (fun z => |y - x| ≤ |z - x|) ∧ all (fun z => |y - x| = |z - x| → z ≠ y → o % 2 = 0)
    | .rz => |y| ≤ |x| ∧ 0 ≤ y * x ∧ all (fun z => 0 ≤ z * x → |z| ≤ |x| → |z| ≤ |y|)
    | .ru => x ≤ y ∧ all (fun z => x ≤ z → y ≤ z)
    | .rd => y ≤ x ∧ all (fun z => z ≤ x → z ≤ y)

/-- `z` is `x` rounded to an integer under `r` (08 R156; 09 R177). -/
def IntRounded (r : Rnd) (x : Rat) (z : Int) : Prop :=
  match r with
  | .rne => ∀ c : Int, |(z : Rat) - x| ≤ |(c : Rat) - x| ∧ (|(z : Rat) - x| = |(c : Rat) - x| → c ≠ z → z % 2 = 0)
  | .rz => |(z : Rat)| ≤ |x| ∧ |x| < |(z : Rat)| + 1 ∧ 0 ≤ (z : Rat) * x
  | .ru => x ≤ z ∧ (z : Rat) < x + 1
  | .rd => (z : Rat) ≤ x ∧ x < z + 1

/-- The order of values that are no NaN: a zero has no sign in it (09 R172). -/
def FVal.below (v w : FVal) : Bool :=
  match v, w with
  | .inf a, .inf b => a && !b
  | .inf a, _ => a
  | _, .inf b => !b
  | v, w => decide (v.rat < w.rat)

/-- The order in which -0 is below +0 (09 R171). -/
def FVal.atMost (v w : FVal) : Bool := v.below w || (!w.below v && (v.neg || !w.neg))

/-- The bits of 1. -/
def Fmt.one (f : Fmt) : Nat := (2 ^ (f.eb - 1) - 1) * 2 ^ f.p

/-- What an approximate function computes (09 R174): `y` is its exact value at `x`. -/
def FnExact (fn : Fn) (x y : ℝ) : Prop :=
  match fn with
  | .rcp => y * x = 1
  | .rsq => 0 < y ∧ y * y * x = 1
  | .exp2 => y = (2 : ℝ) ^ x
  | .log2 => 0 < x ∧ (2 : ℝ) ^ y = x
  | .sin => y = Real.sin (Real.pi * x)
  | .cos => y = Real.cos (Real.pi * x)
  | .tanh => y = Real.tanh x

/-- How far an f32 result may lie from the exact value `y` (09 R174): in units in the last place of `y`, of which the exponent
is `max (k - 23) (-149)` for the binade `k` of `y`; absolute for a small sine or cosine. -/
def WithinBound (fn : Fn) (y o : ℝ) : Prop :=
  match fn with
  | .rcp => ulps 1
  | .rsq => ulps 1
  | .exp2 => ulps 2
  | .log2 => ulps 2
  | .tanh => ulps 2
  | .sin => if (2 : ℝ) ^ (-8 : Int) ≤ |y| then ulps 2 else |o - y| ≤ (2 : ℝ) ^ (-31 : Int)
  | .cos => if (2 : ℝ) ^ (-8 : Int) ≤ |y| then ulps 2 else |o - y| ≤ (2 : ℝ) ^ (-31 : Int)
where
  ulps (n : Nat) : Prop := ∀ k : Int, (2 : ℝ) ^ k ≤ |y| → |y| < (2 : ℝ) ^ (k + 1) → |o - y| ≤ n * (2 : ℝ) ^ max (k - 23) (-149)

/-! ## Float lanes -/

/-- Each class counts the enabled lanes that raised it (08 R158). -/
def OwesLanes (u t' : Team) (en : Mask) (ev : Nat → Events) : Prop :=
  Owes u t' (fun k => (List.range u.w).countP (fun l => en.getLsbD l && (ev l).getLsbD k))

/-- The instruction completes with lane results that hold both a value and events. -/
def FloatLanes (i : Instr) (s : State) (sid : Nat) (t : Team) (en : Mask) (d : VIdx) (f : Nat → LaneRes) : Prop :=
  LanesWritten i s sid t en d false (fun l => (f l).v) [] (fun t' => OwesLanes (teamAtIssue i s sid t) t' en (fun l => (f l).ev))

/-- A two-source float operation on each element, the modifiers first (09 R168); what the sources raise comes with it. -/
def float2 (ty : FTy) (m : FMod) (op : Fmt → Nat → Nat → FOut) (x y : Nat) : LaneRes :=
  onFloats ty (fun e =>
    let a := signMod (fFmt ty) m.nega m.absa (fElem ty x e)
    let b := signMod (fFmt ty) m.negb false (fElem ty y e)
    ((op (fFmt ty) a b).1, (op (fFmt ty) a b).2 ||| (fFmt ty).srcEvents a ||| (fFmt ty).srcEvents b))

/-- The same with an addend that no modifier changes. -/
def float3 (ty : FTy) (m : FMod) (op : Fmt → Nat → Nat → Nat → FOut) (x y z : Nat) : LaneRes :=
  onFloats ty (fun e =>
    let a := signMod (fFmt ty) m.nega m.absa (fElem ty x e)
    let b := signMod (fFmt ty) m.negb false (fElem ty y e)
    let c := fElem ty z e
    ((op (fFmt ty) a b c).1,
      (op (fFmt ty) a b c).2 ||| (fFmt ty).srcEvents a ||| (fFmt ty).srcEvents b ||| (fFmt ty).srcEvents c))

/-- A one-source float operation. -/
def float1 (ty : FTy) (nega absa : Bool) (op : Fmt → Nat → FOut) (x : Nat) : LaneRes :=
  onFloats ty (fun e =>
    let a := signMod (fFmt ty) nega absa (fElem ty x e)
    ((op (fFmt ty) a).1, (op (fFmt ty) a).2 ||| (fFmt ty).srcEvents a))

/-! ## Scalar results of cross-lane instructions -/

/-- The instruction completes: scalar `d` holds `v` (05 R77: s0 takes nothing), and nothing else of the team changed. -/
def ScalarWritten (i : Instr) (s : State) (sid : Nat) (t : Team) (d : SIdx) (v : Word) : Prop :=
  ∃ s' t', exec i s = .next s' ∧ s'.team? sid = some t' ∧ t'.pc = (teamAtIssue i s sid t).pc + 12 ∧
    t'.sr d.toNat = (if d = 0 then 0 else v) ∧ SameRegs (teamAtIssue i s sid t) t' [.s d.toNat] ∧
    SameSpecial (teamAtIssue i s sid t) t' ∧ SameBytes (atIssue i s sid t) s' ∧
    ∀ k, k ≠ sid → s'.team? k = (atIssue i s sid t).team? k

/-- A cross-lane instruction with a scalar result: it needs no enabled lane (09 R180). -/
structure CrossRuns (i : Instr) (s : State) (sid : Nat) (t : Team) : Prop extends Clear i s sid t where
  width : (teamAtIssue i s sid t).w ≤ 1024

/-- The lanes of an enable, ascending. -/
def lanesOf (i : Instr) (s : State) (sid : Nat) (t : Team) (en : Mask) : List Nat :=
  (List.range (teamAtIssue i s sid t).w).filter (fun l => en.getLsbD l)

/-- An integer reduction of exact or bitwise values (09 R181). -/
def combineInt (ty : XTy) (op : ROp) (x y : Nat) : Nat :=
  match op with
  | .add => (x + y) % 2 ^ 32
  | .min => if extT (xSigned ty) 32 x ≤ extT (xSigned ty) 32 y then x else y
  | .max => if extT (xSigned ty) 32 x ≤ extT (xSigned ty) 32 y then y else x
  | .and => x &&& y
  | .or => x ||| y
  | .xor => x ^^^ y

/-- A reduction of f32 values in ascending order, each step rounded once (09 R181). -/
def combineFloat (op : ROp) (x y : Nat) : Nat :=
  match op with
  | .min => (f32F.minmax false x y).1
  | .max => (f32F.minmax true x y).1
  | _ => (f32F.addV .rne (f32F.val x) (f32F.val y)).1

/-! ## Memory -/

/-- Nothing of the team is left over from earlier instructions, no lane of a pass waits to be performed, no region or vent window has
a say in its accesses, no link is being repaired (21 R338), and no earlier `.sc` access is still to be performed (14 R267). -/
structure Settled (u : Team) (s : State) (sid : Nat) : Prop where
  group  : u.pf = none
  lanes  : u.replay = none
  aged   : u.aged = false
  region : u.region = none
  open_  : s.windows = []
  links  : linksBusy s = false
  queue  : ∀ q ∈ s.wq, q.sid ≠ sid
  checks : ∀ f ∈ s.wfaults, f.sid ≠ sid
  whole  : u.midPass = false
  ticket : scAhead s sid = false

/-- The address of a lane of a memory operand (05 R83). -/
def laneAddr (i : Instr) (s : State) (sid : Nat) (t : Team) (m : MemOp) (l : Nat) : Word := (viewAtIssue i s sid t).addr m l

/-- A lane's address passes the checks of 10 R196. -/
def fits (u : Team) (sp : Space) (n : Nat) (a : Word) : Prop :=
  a.toNat % n = 0 ∧
    match sp with
    | .global => a.toNat < 2 ^ 56 ∨ 2 ^ 64 - 2 ^ 56 ≤ a.toNat
    | .spad => a.toNat < u.spadLen
    | .lpriv => a.toNat < u.privLen

/-- Where a memory instruction stands: before its first pass, or between two of its passes (06 R104). -/
def runOf (u : Team) (en : Mask) : MemRun := u.mem.getD { en := en, left := en, got := [], after := [], due := 0, held := none }

/-- The lanes of its next pass: those of the lowest mask word that are still to be performed. -/
def passOf (r : MemRun) : List Nat :=
  ((List.range 32).map (fun k => 32 * ((lowest r.left).getD 0 / 32) + k)).filter (fun l => r.left.getLsbD l)

/-- The lanes left after it. -/
def restOf (r : MemRun) : Mask := r.left &&& ~~~ laneMask (passOf r)

/-- What a lane brings back by the end of its pass: from an earlier pass, or from this one. -/
def broughtBack (r : MemRun) (raw : Nat → Nat) (l : Nat) : Option Nat :=
  match Tab.find (valsOf r.got) l with
  | some x => some x
  | none => if l ∈ passOf r then some (raw l) else none

/-- A memory instruction that nothing holds back, some lane enabled. -/
structure MemIssues (i : Instr) (h : Hdr) (s : State) (sid : Nat) (t : Team) : Prop extends Clear i s sid t where
  ok      : i.wf = true
  some    : enableOf i h s sid t ≠ 0
  width   : (teamAtIssue i s sid t).w ≤ 1024
  settled : Settled (teamAtIssue i s sid t) (atIssue i s sid t) sid

/-- The same, each lane of its earlier passes performed. -/
structure MemRuns (i : Instr) (h : Hdr) (s : State) (sid : Nat) (t : Team) : Prop extends MemIssues i h s sid t where
  earlier : ∀ e ∈ (runOf (teamAtIssue i s sid t) (enableOf i h s sid t)).got, ∃ x, e.2 = .val x

/-- A scalar-side access that nothing holds back: one pass. -/
structure ScalarMem (i : Instr) (h : Hdr) (s : State) (sid : Nat) (t : Team) : Prop extends Runs i h s sid t where
  ok      : i.wf = true
  first   : (teamAtIssue i s sid t).mem = none
  settled : Settled (teamAtIssue i s sid t) (atIssue i s sid t) sid

/-- Every byte of memory and of the scratchpads is as it was. -/
def SameMemory (s s' : State) : Prop :=
  (∀ k, memByte s'.mem k = memByte s.mem k) ∧ ∀ k, spadByte s' k = spadByte s k

/-- The registers of a vector access. -/
def regsOf (d : VIdx) (n : Nat) : List RegName := (List.range n).map (fun k => .v (d.toNat + k))

/-- A pass of a memory instruction whose lanes give `res` (06 R104). With the last of its lanes the instruction completes: registers
outside `dst` are as they were, and `result` holds of the team. Else it goes on with its next pass, no register written. Either way
`stored` holds of the state. -/
def MemPass (i : Instr) (s : State) (sid : Nat) (t : Team) (en : Mask) (dst : List RegName) (res : Nat → LaneGot)
    (stored : State → Prop) (result : Team → Prop) : Prop :=
  let u := teamAtIssue i s sid t
  let r := runOf u en
  (restOf r = 0 → ∃ s' t', exec i s = .next s' ∧ s'.team? sid = some t' ∧ t'.pc = u.pc + 12 ∧ t'.mem = none ∧ stored s' ∧ result t' ∧
    SameRegs u t' dst ∧ SameHeld u t') ∧
  (restOf r ≠ 0 → ∃ s' t' r', exec i s = .next s' ∧ s'.team? sid = some t' ∧ t'.pc = u.pc ∧ t'.park = .run ∧ t'.mem = some r' ∧
    r'.en = r.en ∧ r'.left = restOf r ∧ r'.got = r.got ++ (passOf r).map (fun l => (l, res l)) ∧ stored s' ∧
    SameRegs u t' [] ∧ SameHeld u t')

/-- A pass of a load: with the last, the lanes of D hold what they brought back, word by word and extended to 32 bits (10 R205),
and the registers stay locked until the result lands (05 R88). No byte of memory and no other team changes. -/
def LanesLoaded (i : Instr) (s : State) (sid : Nat) (t : Team) (en : Mask) (d : VIdx) (ty : MTy) (raw : Nat → Nat) : Prop :=
  let u := teamAtIssue i s sid t
  MemPass i s sid t en (regsOf d (mRegs ty)) (fun l => .val (raw l))
    (fun s' => SameMemory (atIssue i s sid t) s' ∧ ∀ k, k ≠ sid → s'.team? k = (atIssue i s sid t).team? k)
    (fun t' => (∀ l k, l < u.w → k < mRegs ty → (t'.vr (d.toNat + k)).lane l =
        match broughtBack (runOf u en) raw l with
        | some x => BitVec.ofNat 32 (mExtend ty 32 x / 2 ^ (32 * k))
        | none => (u.vr (d.toNat + k)).lane l) ∧
      ∀ k, k < mRegs ty → ∃ e ∈ t'.sb, e.reg = .v (d.toNat + k))

/-- A load whose address is one for all lanes, all of them enabled: one access, and D becomes U with its value (06 R108; 10 R205); in
lane-private space the access is that of some lane. -/
def UniformLoaded (i : Instr) (s : State) (sid : Nat) (t : Team) (sp : Space) (d : VIdx) (ty : MTy) (raw : Nat → Nat) : Prop :=
  let u := teamAtIssue i s sid t
  ∃ s' t', exec i s = .next s' ∧ s'.team? sid = some t' ∧ t'.pc = u.pc + 12 ∧
    (∃ l, l < u.w ∧ (sp ≠ .lpriv → l = 0) ∧ ∀ k, k < mRegs ty → t'.vr (d.toNat + k) = .u (BitVec.ofNat 32 (mExtend ty 32 (raw l) / 2 ^ (32 * k)))) ∧
    (∀ k, k < mRegs ty → ∃ e ∈ t'.sb, e.reg = .v (d.toNat + k)) ∧
    SameRegs u t' (regsOf d (mRegs ty)) ∧ SameHeld u t' ∧ SameMemory (atIssue i s sid t) s' ∧
    ∀ k, k ≠ sid → s'.team? k = (atIssue i s sid t).team? k

/-- The same for a scalar load: a scalar, an even pair of scalars, or vector registers that become U. -/
def ScalarLoaded (i : Instr) (s : State) (sid : Nat) (t : Team) (ty : MTy) (d : SVDst) (x : Nat) : Prop :=
  ∃ s' t', exec i s = .next s' ∧ s'.team? sid = some t' ∧ t'.pc = (teamAtIssue i s sid t).pc + 12 ∧
    (match d with
     | .s n => t'.sr n.toNat = (if n = 0 then 0 else BitVec.ofNat 64 (mExtend ty 64 x)) ∧
        (ty = .b128 → t'.sr (n.toNat + 1) = BitVec.ofNat 64 (x / 2 ^ 64))
     | .v n => ∀ k, k < mRegs ty → t'.vr (n.toNat + k) = .u (BitVec.ofNat 32 (mExtend ty 32 x / 2 ^ (32 * k)))) ∧
    (∀ r ∈ scalarDsts ty d, ∃ e ∈ t'.sb, e.reg = r) ∧
    SameRegs (teamAtIssue i s sid t) t' (scalarDsts ty d) ∧ SameHeld (teamAtIssue i s sid t) t' ∧
    SameMemory (atIssue i s sid t) s' ∧ ∀ k, k ≠ sid → s'.team? k = (atIssue i s sid t).team? k

/-- The key in the scratchpads of byte `j` of a lane's access (10 R192, R194). -/
def laneKey (u : Team) (sp : Space) (l : Nat) (a : Word) (j : Nat) : Nat := spadKey u.coreId (bankOff u sp l a + j)

/-- A pass of a store into scratchpad or lane-private bytes: each lane's bytes are there unless a higher lane of the pass wrote
them too (10 R201), and no other byte of memory changes. -/
def SpadStored (i : Instr) (s : State) (sid : Nat) (t : Team) (sp : Space) (en : Mask) (n : Nat) (addr : Nat → Word)
    (val : Nat → Nat) : Prop :=
  let u := teamAtIssue i s sid t
  let s0 := atIssue i s sid t
  let now := passOf (runOf u en)
  let key (l j : Nat) : Nat := laneKey u sp l (addr l) j
  MemPass i s sid t en [] (fun _ => .val 0)
    (fun s' =>
      (∀ l ∈ now, ∀ j, j < n → (∀ k ∈ now, l < k → ∀ b, b < n → key k b ≠ key l j) →
        spadByte s' (key l j) = BitVec.ofNat 8 (val l / 2 ^ (8 * j))) ∧
      (∀ a, (∀ l ∈ now, ∀ j, j < n → key l j ≠ a) → spadByte s' a = spadByte s0 a) ∧
      (∀ k, memByte s'.mem k = memByte s0.mem k) ∧ s'.l1 = s0.l1 ∧ s'.homes = s0.homes ∧ ∀ k, k ≠ sid → s'.team? k = s0.team? k)
    (fun _ => True)

/-- The value of a vector store's lane, and of a scalar store (10 R205). -/
def storeVal (i : Instr) (s : State) (sid : Nat) (t : Team) (ty : MTy) (a : VIdx) (l : Nat) : Nat :=
  ((List.range (mRegs ty)).foldl
    (fun x k => x + ((viewAtIssue i s sid t).lane (a.toNat + k) l).toNat * 2 ^ (32 * k)) 0) % 2 ^ (8 * mBytes ty)
def storeValS (i : Instr) (s : State) (sid : Nat) (t : Team) (ty : MTy) (a : SIdx) : Nat :=
  ((viewAtIssue i s sid t).sr a.toNat).toNat % 2 ^ (8 * min (mBytes ty) 8) +
    (if ty = .b128 then ((viewAtIssue i s sid t).sr (a.toNat + 1)).toNat * 2 ^ 64 else 0)

/-- A valid byte of a line in a core's L1, by its virtual address. -/
def l1Byte (s : State) (core ctx va : Nat) : Option Byte :=
  match s.l1? core ctx (va / 64) with
  | some x => if x.valid.getLsbD (va % 64) then some (lineByte x.data (va % 64)) else none
  | none => none

/-- The value of `n` bytes that the L1 holds. -/
def l1Val (s : State) (core ctx va n : Nat) : Nat :=
  match s.l1? core ctx (va / 64) with
  | some x => lineNat x.data (va % 64) n
  | none => 0

/-- The L1 holds all of the bytes of an access. -/
def inL1 (s : State) (core ctx va n : Nat) : Prop :=
  ∃ x, s.l1? core ctx (va / 64) = some x ∧ byteRange (va % 64) n &&& ~~~ x.valid = 0

/-- The home holds all of the bytes of an access, and the core no dirty byte of the line (10 R200). -/
def atHome (s : State) (core ctx va n : Nat) : Prop :=
  (∃ h, s.home? ctx (va / 64) = some h ∧ byteRange (va % 64) n &&& ~~~ h.valid = 0) ∧
    ∀ x, s.l1? core ctx (va / 64) = some x → x.dirty = 0

def homeVal (s : State) (ctx va n : Nat) : Nat :=
  match s.home? ctx (va / 64) with
  | some h => lineNat h.data (va % 64) n
  | none => 0

/-- A weak store finds its line in the L1 with a translation that grants the write (11 R229), and no seal (10 R210). -/
def mayStore (s : State) (core ctx va : Nat) : Prop :=
  sealedAt s ctx va = false ∧ ∃ x tr, s.l1? core ctx (va / 64) = some x ∧ x.tr = some tr ∧ tr.grants s.rt = true

/-- A pass of a store in the L1 (10 R198): each lane's bytes are valid and dirty there unless a higher lane of the pass wrote them
too; every other byte of the core's L1 and all of memory and the homes are as they were. -/
def L1Stored (i : Instr) (s : State) (sid : Nat) (t : Team) (en : Mask) (n : Nat) (addr : Nat → Word) (val : Nat → Nat) : Prop :=
  let u := teamAtIssue i s sid t
  let s0 := atIssue i s sid t
  let now := passOf (runOf u en)
  let at_ (l j : Nat) : Nat := (addr l).toNat + j
  MemPass i s sid t en [] (fun _ => .val 0)
    (fun s' =>
      (∀ l ∈ now, ∀ j, j < n → (∀ k ∈ now, l < k → ∀ b, b < n → at_ k b ≠ at_ l j) →
        l1Byte s' u.coreId u.ctx (at_ l j) = some (BitVec.ofNat 8 (val l / 2 ^ (8 * j))) ∧
        ∃ x, s'.l1? u.coreId u.ctx (at_ l j / 64) = some x ∧ x.dirty.getLsbD (at_ l j % 64) = true) ∧
      (∀ a, (∀ l ∈ now, ∀ j, j < n → at_ l j ≠ a) → l1Byte s' u.coreId u.ctx a = l1Byte s0 u.coreId u.ctx a) ∧
      SameMemory s0 s' ∧ s'.homes = s0.homes)
    (fun _ => True)

/-- The team in its handler (23 R359): what the trap saved, and where it went. -/
structure InHandler (t' : Team) (entry : Word) (cause : BitVec 9) (tval : Word) (fmask : Mask) (tpc : Word) : Prop where
  cause : t'.cause = cause
  tval  : t'.tval = tval
  fmask : t'.fmask = fmask
  tpc   : t'.tpc = tpc
  mode  : t'.inTrap = true
  pc    : t'.pc = (entry.extractLsb' 0 57).signExtend 64

/-- The context's trap entry, where it has one; the team's unit has not failed (23 R361, R362). -/
def HasHandler (s : State) (u : Team) (entry : Word) : Prop :=
  u.failed = none ∧ ∃ c, s.ctx? u.ctx = some c ∧ c.trapEntry = entry ∧ entry ≠ 0

/-! ## Write-backs that arrive -/

/-- The homes have room for what write-backs bring: none gives up a line (10 R199; 11 R234). -/
def HomesRoom (s : State) : Prop := s.homes.length + s.l1.length + s.wq.length ≤ Config.sliceLines

/-- A dirty line of an L1 that belongs at the physical line its home holds, if it holds one, with nothing queued for it. -/
structure MayArrive (s : State) (x : L1Line) : Prop where
  held   : s.l1? x.core x.ctx x.line = some x
  dirty  : x.dirty ≠ 0
  place  : ∃ tr, x.tr = some tr ∧ ∀ h, s.home? x.ctx x.line = some h → h.pa = lineAt tr x.line
  queued : ∀ q ∈ s.wq, q.line ≠ x.line

/-- Its dirty bytes are at the home (10 R200, R201); those that an atomic of narrow scope dirtied need not be (14 R271). -/
def Arrived (s' : State) (x : L1Line) : Prop :=
  ∃ h, s'.home? x.ctx x.line = some h ∧ ∀ b, b < 64 → x.dirty.getLsbD b = true → x.narrow.getLsbD b = false →
    h.valid.getLsbD b = true ∧ lineByte h.data b = lineByte x.data b

/-- No other line that the device holds lies over 64 bytes of memory. -/
structure Apart (s : State) (key ctx line : Nat) : Prop where
  l1    : ∀ y ∈ s.l1, ∀ tr, y.tr = some tr → ¬(y.ctx = ctx ∧ y.line = line) →
            physKey s (lineAt tr y.line) + 64 ≤ key ∨ key + 64 ≤ physKey s (lineAt tr y.line)
  homes : ∀ g ∈ s.homes, ¬(g.ctx = ctx ∧ g.line = line) → physKey s g.pa + 64 ≤ key ∨ key + 64 ≤ physKey s g.pa
  wq    : ∀ q ∈ s.wq, physKey s (lineAt q.tr q.line) + 64 ≤ key ∨ key + 64 ≤ physKey s (lineAt q.tr q.line)

/-- The same in memory. -/
def InMemory (s' : State) (x : L1Line) : Prop :=
  ∀ tr b, x.tr = some tr → b < 64 → x.dirty.getLsbD b = true → x.narrow.getLsbD b = false →
    memByte s'.mem (physKey s' (lineAt tr x.line) + b) = lineByte x.data b

/-- A release at a wide scope: the core's L1 holds no dirty byte of the team's context, and those it held are at their homes (14 R265;
10 R200). -/
def WrittenBack (s s' : State) (u : Team) : Prop :=
  (∀ x ∈ s'.l1, x.core = u.coreId → x.ctx = u.ctx → x.tr ≠ none → x.dirty = 0) ∧
    (HomesRoom s → ∀ x, x.core = u.coreId → x.ctx = u.ctx → MayArrive s x → Arrived s' x)

/-- The bytes of a context at the homes outside some ranges, the homes of other contexts, memory and the scratchpads are as they
were. -/
def HomesKept (s s' : State) (ctx : Nat) (rs : List (Nat × Nat)) : Prop :=
  (∀ x, (∀ r ∈ rs, x < r.1 ∨ r.1 + r.2 ≤ x) → homeVal s' ctx x 1 = homeVal s ctx x 1) ∧
    (∀ c l, c ≠ ctx → s'.home? c l = s.home? c l) ∧ SameMemory s s'

/-! ## Event rings (23 R363) -/

/-- TAIL of a ring, and where the next record goes. -/
def ringTail (s : State) (ctx : Nat) (c : Ctx) : Nat := homeVal s ctx (ringBase c.ctxEvq) 8
def ringSlot (s : State) (ctx : Nat) (c : Ctx) : Nat := ringBase c.ctxEvq + 64 + 32 * (ringTail s ctx c % 2 ^ ringLog c.ctxEvq)

/-- The ring of a context is enabled and not full, and its header and next record lie at homes that may be written. -/
structure RingReady (s : State) (ctx : Nat) (c : Ctx) : Prop where
  found : s.ctx? ctx = some c
  sized : 4 ≤ ringLog c.ctxEvq ∧ ringLog c.ctxEvq ≤ 20
  homes : ∀ l ∈ [ringBase c.ctxEvq / 64, ringSlot s ctx c / 64], ∃ g, s.home? ctx l = some g ∧ g.tr.grants s.rt = true ∧
            g.valid = BitVec.allOnes 64
  room  : (ringTail s ctx c + 2 ^ 64 - homeVal s ctx (ringBase c.ctxEvq + 8) 8) % 2 ^ 64 ≠ 2 ^ ringLog c.ctxEvq
  quiet : s.tracked = []

/-- The bits of a record by the table of R363. -/
def recordBits (clock : Nat) (value : Word) (launch : BitVec 32) (team code : Nat) (cause : BitVec 9) (kind ctx : Nat) : Nat :=
  ctx % 2 ^ 16 + kind % 2 ^ 3 * 2 ^ 52 + cause.toNat * 2 ^ 55 + code % 2 ^ 8 * 2 ^ 64 + team % 2 ^ 24 * 2 ^ 72 +
    launch.toNat * 2 ^ 96 + value.toNat * 2 ^ 128 + clock % 2 ^ 64 * 2 ^ 192

/-- The record stands at TAIL, TAIL has advanced, the host is told, and nothing else at a home or in memory has changed. -/
structure Recorded (s s' : State) (ctx : Nat) (c : Ctx) (bits : Nat) : Prop where
  record : homeVal s' ctx (ringSlot s ctx c) 32 = bits
  tail   : homeVal s' ctx (ringBase c.ctxEvq) 8 = (ringTail s ctx c + 1) % 2 ^ 64
  told   : s'.signals = s.signals ++ [.msix ctx]
  kept   : HomesKept s s' ctx [(ringSlot s ctx c, 32), (ringBase c.ctxEvq, 8)]

/-! ## Matrix operands -/

/-- No byte of an operand of a matrix operation was written while it was in flight (13 R244), and every write to the scratchpads
concerned came before the `mfence` that it follows (R259); the copies of its entry agree. -/
def OperandsStill (s : State) (core : Nat) (e : MEntry) : Prop :=
  (∀ c ∈ s.cores, ∀ x ∈ c.2.matrix, x.id = e.id → x.touched = [] ∧ x.rewrote = [] ∧ x.fenced = e.fenced ∧ x.desc = e.desc) ∧
    ∀ c ∈ entryCores core e, ∀ o x, Tab.find s.spadLog (spadKey c o) = some x → x.order ≤ e.fenced

/-- `n` bytes of a scratchpad. -/
def spadBytesAt (s : State) (core off n : Nat) : List Byte := (List.range n).map (fun k => spadByte s (spadKey core (off + k)))

/-- P of K-group `g` of a row of A and a row of B, from the places of their bytes and of their exponents (08 R166). -/
def groupProduct (s : State) (d : MDesc) (ca cb aOff bOff aExp bExp g : Nat) : Nat :=
  if mdInt d then
    (groupInt (spadBytesAt s ca (aOff + 16 * g) 16) (spadBytesAt s cb (bOff + 16 * g) 16)
      (halfAt (spadBytesAt s ca (aExp + 2 * g) 2) 0) (halfAt (spadBytesAt s cb (bExp + 2 * g) 2) 0)).1
  else (groupBf16 (elems 2 (spadBytesAt s ca (aOff + 32 * g) 32)) (elems 2 (spadBytesAt s cb (bOff + 32 * g) 32))).1

/-- An element that a transfer loads (13 R257), and one that it stores (13 R251): over `m` when it adds. -/
def loadedElement (bf16 : Bool) (x : Nat) : Nat :=
  if ((if bf16 then bf16F else f32F).val x).isNan then 0x7FC00000 else if bf16 then x * 2 ^ 16 else x
def storedElement (bf16 add : Bool) (m x : Nat) : Nat :=
  let f := if bf16 then bf16F else f32F
  if add then (f.addV .rne (f.val m) (f32F.val x)).1 else if bf16 then (f32F.convert bf16F .rne x).1 else x

/-- The tiles of a core but one are as they were. -/
def SameTiles (s s' : State) (core tile : Nat) : Prop :=
  ∀ c k, ¬(c = core ∧ k = tile) → tileOf s' c k = tileOf s c k

/-! ## Completing, waiting, trapping -/

/-- The instruction completes and its team goes on to the next word: registers outside `dst`, and what the team holds beside
its registers but for its region and its vent window, are as they were, and `P` holds. -/
def Goes (i : Instr) (s : State) (sid : Nat) (t : Team) (dst : List RegName) (P : State → Team → Prop) : Prop :=
  let u := teamAtIssue i s sid t
  ∃ s' t', exec i s = .next s' ∧ s'.team? sid = some t' ∧ t'.pc = u.pc + 12 ∧ SameRegs u t' dst ∧
    SameHeld { u with region := t'.region, window := t'.window } t' ∧ P s' t'

/-- It is not complete: its team waits at it, and nothing the team holds and no byte of memory has changed. -/
def Waits (i : Instr) (s : State) (sid : Nat) (t : Team) (w : Park) : Prop :=
  let u := teamAtIssue i s sid t
  ∃ s' t', exec i s = .next s' ∧ s'.team? sid = some t' ∧ t'.pc = u.pc ∧ t'.park = w ∧ SameRegs u t' [] ∧ SameHeld u t' ∧
    SameMemory (atIssue i s sid t) s'

/-- It raises a trap of its own and has no other effect, but that an open region of the team aborts (23 R359; 19 R326). -/
def Traps (i : Instr) (s : State) (sid : Nat) (t : Team) (cause : BitVec 9) (tval : Word) : Prop :=
  let u := teamAtIssue i s sid t
  let s0 := atIssue i s sid t
  ∀ entry, HasHandler s0 u entry → u.inTrap = false → (∀ r ∈ s0.regions, r.sid = sid → r.ending = false) →
    ∃ s' t', exec i s = .next s' ∧ s'.team? sid = some t' ∧ InHandler t' entry cause tval 0 u.pc ∧ SameRegs u t' [] ∧
      SameMemory s0 s' ∧ (u.region = none → SameBytes s0 s')

/-- An engine's token is to come in a scalar register (05 R88). -/
def Awaited (t' : Team) (d : SIdx) : Prop := d ≠ 0 → ∃ e ∈ t'.sb, e.reg = .s d.toNat ∧ e.engine = true

/-- Scalar `d` holds a value, unless it is s0. -/
def Holds (t' : Team) (d : SIdx) (v : Word) : Prop := t'.sr d.toNat = if d = 0 then 0 else v

/-- The `n` consecutive scalars from `a`, the first in the low bits. -/
def scalars (i : Instr) (s : State) (sid : Nat) (t : Team) (a : SIdx) : Nat → Nat
  | 0 => 0
  | n + 1 => scalars i s sid t a n + ((viewAtIssue i s sid t).sr (a.toNat + n)).toNat * 2 ^ (64 * n)

/-- The L1 of a core holds no dirty byte of a context: nothing is to be released. -/
def Released (s : State) (u : Team) : Prop := ∀ x ∈ s.l1, x.core = u.coreId → x.ctx = u.ctx → x.dirty = 0

/-- A line whose whole contents the home holds, with a translation that grants writing, and that nothing else concerns. -/
def Owned (s : State) (u : Team) (line : Nat) : Prop :=
  (∃ g, s.home? u.ctx line = some g ∧ g.tr.grants s.rt = true ∧ g.tr.peer = none ∧ g.valid = BitVec.allOnes 64) ∧
    s.l1? u.coreId u.ctx line = none ∧ sealedAt s u.ctx (line * 64) = false

/-- What a `csrw` leaves a register reading as, from the value that was read and the value written (23 R369; the registers'
own tables). -/
def csrKept (old v : Word) (n : Nat) : Word :=
  let low (k : Nat) : Word := BitVec.ofNat 64 (v.toNat % 2 ^ k)
  if n = 0x010 then low 1
  else if n < 0x028 then low 32
  else if n = 0x028 then (if low 6 = 0 then 0 else if (low 6).toNat < 10 then 10 else if 40 < (low 6).toNat then 40 else low 6)
  else if n = 0x029 then BitVec.ofNat 64 ((List.range 8).foldl (fun a k =>
    a + (if v.toNat / 4 ^ k % 4 = 3 then 0 else v.toNat / 4 ^ k % 4) * 4 ^ k) 0)
  else if n < 0x032 then low 32
  else if n = 0x040 then low 2
  else if n = 0x041 then (if low 2 = 3 then 2 else low 2)
  else if n = 0x042 then (if low 4 = 0 then 1 else low 4)
  else if n = 0x043 then old
  else if n < 0x05C then v
  else if n = 0x400 then (if (low 11).toNat < 2 then 2 else if 1024 < (low 11).toNat then 1024 else low 11)
  else if n = 0x401 then v
  else if n = 0x402 then v &&& 0x000FFFFFFFFFF000#64
  else if n = 0x403 then low 20
  else if n < 0x40C then v &&& 0xFC0FFFFFFFFFF000#64
  else if n < 0x414 then (if low 10 = 0 then 1 else if 512 < (low 10).toNat then 512 else low 10)
  else if n = 0x414 then (if low 20 = 0 then 1 else low 20)
  else if n = 0x415 then low 16
  else if n = 0x416 then v &&& 0x01FFFFFFFFFC0000#64
  else if n = 0x420 then old
  else if n = 0x440 then v &&& 0x01FFFFFFFFFFFFF0#64
  else if n = 0x441 then BitVec.ofNat 64 (if v = 0 then 1 else if 65536 ≤ v.toNat then 65536 else 2 ^ Nat.log2 v.toNat)
  else if n = 0x450 then v &&& 0x01FFFFFFFFFFFFFC#64
  else if n = 0x451 ∨ n = 0x452 then v &&& 0x01FFFFFFFFFFF03F#64
  else if n = 0x453 then (v &&& 0x01FFFFFFFFFFF000#64) |||
    (if low 5 = 0 then 0 else if (low 5).toNat < 4 then 4 else if 20 < (low 5).toNat then 20 else low 5)
  else if n = 0xC00 then old
  else if n = 0xC10 then v &&& 0xFFFFFFFFFFFFFFC0#64
  else (old &&& 0xFFF#64) ||| (v &&& 0xFFF0000#64)

/-! ## Vent calls (17 R308, R309) -/

/-- The vent's unit holds the translation of each byte of a range, to memory of the vent's stack, and nothing stops an access of kind
`k` there (17 R288, R295; 10 R210). -/
def VentReaches (s : State) (w : Window) (k : Kind) (lo n : Nat) : Prop :=
  lo + n ≤ 2 ^ 64 ∧ ∀ a, lo ≤ a → a < lo + n → canonical (BitVec.ofNat 64 a) = true ∧
    ∃ tr d, tlbFind s w.vent w.ctx a k = some tr ∧ tr.peer = none ∧ dpaOf s (lineAt tr (a / 64)) = some d ∧
      d / Config.stackBytes = w.vent / 32 ∧ (k = .write → sealedAt s w.ctx a = false) ∧
      (k = .read → poisonedKey s (physKey s (lineAt tr (a / 64))) = false)

/-- A byte as an attempt reads it: its own write of it, else memory's (17 R292). -/
def ventByte (s : State) (w : Window) (r : VentRun) (a : Nat) : Byte :=
  let held : Byte := match tlbFind s w.vent w.ctx a .read with
    | some tr => lineByte (keyLine s (physKey s (lineAt tr (a / 64)))) (a % 64)
    | none => 0
  match r.buffer.find? (fun l => l.line == a / 64) with
  | some l => if l.mask.getLsbD (a % 64) then lineByte l.data (a % 64) else held
  | none => held
def ventWord (s : State) (w : Window) (r : VentRun) (a : Nat) : Nat := leNat ((List.range 4).map (fun k => ventByte s w r (a + k)))

/-- No access of the call has been made yet, the attempt's writes stay in its buffer, and there is room for `n` bytes more. -/
def VentRoom (r : VentRun) (n : Nat) : Prop :=
  r.got = [] ∧ r.todo = [] ∧ r.direct = false ∧ r.buffer.length + (n / 64 + 2) ≤ 256

/-- An action of an attempt completes: the attempt reads `f a` at each address that `f` gives and at every other what it read before, it
raised the events `ev`, and memory is as it was. -/
def AttemptWrites {α : Type} (s : State) (w : Window) (r : VentRun) (act : VAct α) (out : α) (ev : Events) (f : Nat → Option Byte) : Prop :=
  ∃ s1 r1, act (s, r) = ((s1, r1), .ok out) ∧ s1.mem = s.mem ∧ r1.events = r.events ||| ev ∧
    ∀ a, ventByte s1 w r1 a = (f a).getD (ventByte s w r a)

/-- `n` words from `base` on. -/
def wordsAt (base n : Nat) (f : Nat → Nat) (a : Nat) : Option Byte :=
  if base ≤ a ∧ a < base + 4 * n then some (BitVec.ofNat 8 (f ((a - base) / 4) / 2 ^ (8 * ((a - base) % 4)))) else none

def allEvents (n : Nat) (f : Nat → Events) : Events := (List.range n).foldl (fun e i => e ||| f i) 0

/-- Two ranges have no byte in common. -/
def Separate (a n b m : Nat) : Prop := a + n ≤ b ∨ b + m ≤ a

/-- One element of ROWUPD_ADAGRAD (17 R308): the new weight and the new state, each with what it raised. -/
def adagrad (lr eps g h x : Nat) : FOut × FOut :=
  let h1 := fFma g g h
  let q := fSqrt h1.1
  let d := fAdd q.1 eps
  let u := fDiv g d.1
  let x1 := fFma (fNeg lr) u.1 x
  ((x1.1, x1.2 ||| u.2 ||| d.2 ||| q.2), h1)

/-- One element of ROWUPD_ADAM (17 R308): the new weight, first and second moment, each with what it raised. -/
def adam (lr eps b1 b2 c1 c2 g x m v : Nat) : FOut × FOut × FOut :=
  let og := fMul (fAdd fOne (fNeg b1)).1 g
  let m1 := fFma b1 m og.1
  let gg := fMul g g
  let ogg := fMul (fAdd fOne (fNeg b2)).1 gg.1
  let v1 := fFma b2 v ogg.1
  let vc := fMul v1.1 c2
  let q := fSqrt vc.1
  let d := fAdd q.1 eps
  let mc := fMul m1.1 c1
  let u := fDiv mc.1 d.1
  let x1 := fFma (fNeg lr) u.1 x
  ((x1.1, x1.2 ||| u.2 ||| mc.2 ||| d.2 ||| q.2 ||| vc.2), (m1.1, m1.2 ||| og.2), (v1.1, v1.2 ||| ogg.2 ||| gg.2))

/-! ## Instruction words -/

/-- Instructions whose only effect is on their team's registers and predicates (06, 07, 09). -/
def registerOnly (opc : Nat) : Bool :=
  (0x010 ≤ opc && opc ≤ 0x01B) || (0x040 ≤ opc && opc ≤ 0x055) || (0x0C0 ≤ opc && opc ≤ 0x0D8) || (0x140 ≤ opc && opc ≤ 0x153)
    || (0x1C0 ≤ opc && opc ≤ 0x1C9)

/-- Before its own effect, an instruction ends in a trap of cause `c` (23 R359): the handler runs, or the unit fails (R360, R361). -/
def TrapsAt (i : Instr) (s : State) (sid : Nat) (t : Team) (c : BitVec 9) (v : Word) : Prop :=
  ∃ s' t', exec i s = .next s' ∧ s'.team? sid = some t' ∧ s'.current = none ∧
    (∀ entry, HasHandler s t entry → t.inTrap = false → t.region = none → InHandler t' entry c v 0 t.pc ∧ SameRegs t t' [] ∧ SameBytes s s') ∧
    (t.inTrap = true → t.failed = none → t'.failed = some c ∧ s'.agenda = .unitFail t.lid t.unit c :: s.agenda ∧ SameBytes s s')

end Sys2Proof.Machine
end

