-- ==== Sys2Proof/Certificates/Slice0/Obligations.lean ====
section
/-! DEFINITION. The statements about this machine, from the numbered rules of the spec. -/

open Sys2Proof Sys2Proof.Machine

/-- R124, R125, R131, R134: without SAT, `sadd`, `ssub` and `smul` give the low bits of the exact result and `smulh` the high half of the exact product;
32-bit results are extended, and no event arises. With SAT, which `sshl` has too, the exact result is clamped to the type's range, and a clamp that
changes it raises overflow. -/
def Obligations.ScalarArithmetic : Prop :=
  ∀ (h : Hdr) (ty : STy) (d : SIdx) (a : Src) (b : SrcB) (s : State) (sid : Nat) (t : Team),
    (let i := Instr.sadd h ty false d a b
     let x := srcA i s sid t a
     let y := srcS i s sid t (sSigned ty) b
     Runs i h s sid t → exec i s = .next (wroteS i s sid t d (fitS ty (x + y)) 0)) ∧
    (let i := Instr.ssub h ty false d a b
     let x := srcA i s sid t a
     let y := srcS i s sid t (sSigned ty) b
     Runs i h s sid t → exec i s = .next (wroteS i s sid t d (fitS ty (x - y)) 0)) ∧
    (let i := Instr.smul h ty false d a b
     let x := srcA i s sid t a
     let y := srcS i s sid t (sSigned ty) b
     Runs i h s sid t → exec i s = .next (wroteS i s sid t d (fitS ty (x * y)) 0)) ∧
    (let i := Instr.smulh h ty d a b
     let x := srcA i s sid t a
     let y := srcS i s sid t (sSigned ty) b
     Runs i h s sid t → exec i s = .next (wroteS i s sid t d (fitS ty (BitVec.ofInt 64 (exactS ty x * exactS ty y / (2 ^ sBits ty : Nat)))) 0)) ∧
    (let i := Instr.sadd h ty true d a b
     let x := srcA i s sid t a
     let y := srcS i s sid t (sSigned ty) b
     Runs i h s sid t → exec i s = .next (clampedS i s sid t ty d (exactS ty x + exactS ty y))) ∧
    (let i := Instr.ssub h ty true d a b
     let x := srcA i s sid t a
     let y := srcS i s sid t (sSigned ty) b
     Runs i h s sid t → exec i s = .next (clampedS i s sid t ty d (exactS ty x - exactS ty y))) ∧
    (let i := Instr.smul h ty true d a b
     let x := srcA i s sid t a
     let y := srcS i s sid t (sSigned ty) b
     Runs i h s sid t → exec i s = .next (clampedS i s sid t ty d (exactS ty x * exactS ty y))) ∧
    (let i := Instr.sshl h ty true d a b
     let x := srcA i s sid t a
     let y := srcS i s sid t (sSigned ty) b
     Runs i h s sid t → exec i s = .next (clampedS i s sid t ty d (exactS ty x * 2 ^ shiftCount ty y)))

/-- R132: division truncates toward zero and the remainder takes the sign of the dividend; division by zero and the one overflow give the values of the
rule and raise their events. -/
def Obligations.ScalarDivision : Prop :=
  ∀ (h : Hdr) (ty : STy) (d : SIdx) (a : Src) (b : SrcB) (s : State) (sid : Nat) (t : Team),
    (let i := Instr.sdiv h ty d a b
     let x := srcA i s sid t a
     let y := srcS i s sid t (sSigned ty) b
     Runs i h s sid t → exec i s = .next (quotientS i s sid t ty d (exactS ty x) (exactS ty y))) ∧
    (let i := Instr.srem h ty d a b
     let x := srcA i s sid t a
     let y := srcS i s sid t (sSigned ty) b
     Runs i h s sid t → exec i s = .next (remainderS i s sid t ty d (exactS ty x) (exactS ty y)))

/-- R133, R138: bitwise operations on all 64 bits, `smov` and `sli`. -/
def Obligations.ScalarLogic : Prop :=
  ∀ (h : Hdr) (ty : STy) (d : SIdx) (a : Src) (b : SrcB) (s : State) (sid : Nat) (t : Team) (k : BitVec 32),
    (let i := Instr.sand h d a b
     let x := srcA i s sid t a
     let y := srcS i s sid t false b
     Runs i h s sid t → exec i s = .next (wroteS i s sid t d (x &&& y) 0)) ∧
    (let i := Instr.sor h d a b
     let x := srcA i s sid t a
     let y := srcS i s sid t false b
     Runs i h s sid t → exec i s = .next (wroteS i s sid t d (x ||| y) 0)) ∧
    (let i := Instr.sxor h d a b
     let x := srcA i s sid t a
     let y := srcS i s sid t false b
     Runs i h s sid t → exec i s = .next (wroteS i s sid t d (x ^^^ y) 0)) ∧
    (let i := Instr.smov h ty d b
     Runs i h s sid t → exec i s = .next (wroteS i s sid t d (fitS ty (srcS i s sid t (sSigned ty) b)) 0)) ∧
    (let i := Instr.sli h d a k
     Runs i h s sid t → exec i s = .next (wroteS i s sid t d ((srcA i s sid t a <<< 32) ||| k.setWidth 64) 0))

/-- R134: the count is unsigned; `sshl` multiplies by a power of two, the right shifts round toward minus infinity. -/
def Obligations.ScalarShifts : Prop :=
  ∀ (h : Hdr) (ty : STy) (d : SIdx) (a : Src) (b : SrcB) (s : State) (sid : Nat) (t : Team),
    (let i := Instr.sshl h ty false d a b
     let x := srcA i s sid t a
     let y := srcS i s sid t (sSigned ty) b
     Runs i h s sid t → exec i s = .next (wroteS i s sid t d (fitS ty (BitVec.ofInt 64 (exactS ty x * 2 ^ shiftCount ty y))) 0)) ∧
    (let i := Instr.sshr h ty d a b
     let x := srcA i s sid t a
     let y := srcS i s sid t (sSigned ty) b
     Runs i h s sid t → exec i s = .next (wroteS i s sid t d (fitS ty (BitVec.ofInt 64 (exactS ty x / 2 ^ shiftCount ty y))) 0)) ∧
    (let i := Instr.ssar h ty d a b
     let x := srcA i s sid t a
     let y := srcS i s sid t (sSigned ty) b
     Runs i h s sid t → exec i s = .next (wroteS i s sid t d (fitS ty (BitVec.ofInt 64 (exactS ty x / 2 ^ shiftCount ty y))) 0))

/-- R135, R136, R137: minimum, maximum, comparison into a scalar or into every lane of a predicate, and selection, which always executes. -/
def Obligations.ScalarSelection : Prop :=
  ∀ (h : Hdr) (ty : STy) (d : SIdx) (a : Src) (b : SrcB) (s : State) (sid : Nat) (t : Team) (c : Cmp) (p : PIdx),
    (let i := Instr.smin h ty d a b
     let x := srcA i s sid t a
     let y := srcS i s sid t (sSigned ty) b
     Runs i h s sid t → exec i s = .next (wroteS i s sid t d (fitS ty (BitVec.ofInt 64 (min (exactS ty x) (exactS ty y)))) 0)) ∧
    (let i := Instr.smax h ty d a b
     let x := srcA i s sid t a
     let y := srcS i s sid t (sSigned ty) b
     Runs i h s sid t → exec i s = .next (wroteS i s sid t d (fitS ty (BitVec.ofInt 64 (max (exactS ty x) (exactS ty y)))) 0)) ∧
    (let i := Instr.scmp h ty c (.s d) a b
     let x := srcA i s sid t a
     let y := srcS i s sid t (sSigned ty) b
     Runs i h s sid t → exec i s = .next (wroteS i s sid t d (if Cmp.rel c (exactS ty x) (exactS ty y) then 1 else 0) 0)) ∧
    (let i := Instr.scmp h ty c (.p p) a b
     let x := srcA i s sid t a
     let y := srcS i s sid t (sSigned ty) b
     Runs i h s sid t → exec i s = .next (wrote i s sid t ((teamAtIssue i s sid t).setP p.toNat (if Cmp.rel c (exactS ty x) (exactS ty y) then (teamAtIssue i s sid t).lanes else 0)) 0 1)) ∧
    (let i := Instr.ssel h ty d a b
     let x := srcA i s sid t a
     let y := srcS i s sid t (sSigned ty) b
     Clear i s sid t → exec i s = .next (wroteS i s sid t d (if (viewAtIssue i s sid t).guard h then x else y) 0))

/-- R139, R140: leading zeros, one bits, a field of A, and addition with a carry that is read from lane 0 and written to every lane. -/
def Obligations.ScalarBits : Prop :=
  ∀ (h : Hdr) (ty : STy) (d : SIdx) (a : Src) (b : SrcB) (s : State) (sid : Nat) (t : Team) (cp : PIdx),
    (let i := Instr.sclz h ty d a
     let x := srcA i s sid t a
     Runs i h s sid t → exec i s = .next (wroteS i s sid t d
      (if sWide ty then BitVec.ofNat 64 (leadingZeros x) else BitVec.ofNat 64 (leadingZeros (x.setWidth 32))) 0)) ∧
    (let i := Instr.spopc h ty d a
     let x := srcA i s sid t a
     Runs i h s sid t → exec i s = .next (wroteS i s sid t d
      (BitVec.ofNat 64 ((List.range (sBits ty)).countP (fun k => x.getLsbD k))) 0)) ∧
    (let i := Instr.sbfe h ty d a b
     let x := srcA i s sid t a
     let y := srcS i s sid t (sSigned ty) b
     Runs i h s sid t → exec i s = .next (wroteS i s sid t d (fieldOf (sSigned ty) x (y.toNat % 256) (y.toNat / 256 % 256)) 0)) ∧
    (let i := Instr.sadc h ty cp d a b
     let x := (srcA i s sid t a).toNat % 2 ^ sBits ty
     let y := (srcS i s sid t (sSigned ty) b).toNat % 2 ^ sBits ty
     let c := if ((viewAtIssue i s sid t).pr cp.toNat).getLsbD 0 then 1 else 0
     let u := teamAtIssue i s sid t
     Runs i h s sid t → exec i s = .next (wrote i s sid t
      ((u.setP cp.toNat (if 2 ^ sBits ty ≤ x + y + c then u.lanes else 0)).setS d.toNat (fitS ty (BitVec.ofNat 64 (x + y + c)))) 0 1))

/-- R74, R84, R116: a taken transfer goes to its target, counted in whole instructions from the branch or read from a register; a target that is no
multiple of 4 traps with MISALIGNED_PC and does not happen; `call` leaves the next address in s63. -/
def Obligations.ControlTransfers : Prop :=
  ∀ (h : Hdr) (c : BrCond) (off : BitVec 32) (b : SIdx) (s : State) (sid : Nat) (t : Team),
    (let i := Instr.bra h c off
     Runs i h s sid t →
     ((viewAtIssue i s sid t).cond c = true → (let g := (teamAtIssue i s sid t).pc + off.signExtend 64 * 12
      g.toNat % 4 = 0 → exec i s = .next (jumped i s sid t (atIssue i s sid t) g)) ∧
     (let g := (teamAtIssue i s sid t).pc + off.signExtend 64 * 12
      g.toNat % 4 ≠ 0 → exec i s = .next (trapped i (atIssue i s sid t) sid Cause.misalignedPc g 0 (teamAtIssue i s sid t).pc))) ∧
     ((viewAtIssue i s sid t).cond c = false → exec i s = .next (fallen i s sid t (atIssue i s sid t) 1))) ∧
    (let i := Instr.brx h c b
     Runs i h s sid t →
     ((viewAtIssue i s sid t).cond c = true → (let g := (viewAtIssue i s sid t).sr b.toNat
      g.toNat % 4 = 0 → exec i s = .next (jumped i s sid t (atIssue i s sid t) g)) ∧
     (let g := (viewAtIssue i s sid t).sr b.toNat
      g.toNat % 4 ≠ 0 → exec i s = .next (trapped i (atIssue i s sid t) sid Cause.misalignedPc g 0 (teamAtIssue i s sid t).pc))) ∧
     ((viewAtIssue i s sid t).cond c = false → exec i s = .next (fallen i s sid t (atIssue i s sid t) 1))) ∧
    (let i := Instr.call h c (.rel off)
     Runs i h s sid t →
     ((viewAtIssue i s sid t).cond c = true → (let g := (teamAtIssue i s sid t).pc + off.signExtend 64 * 12
      g.toNat % 4 = 0 → exec i s = .next (jumped i s sid t ((atIssue i s sid t).setTeam sid ((teamAtIssue i s sid t).setS 63 ((teamAtIssue i s sid t).pc + 12))) g)) ∧
     (let g := (teamAtIssue i s sid t).pc + off.signExtend 64 * 12
      g.toNat % 4 ≠ 0 → exec i s = .next (trapped i (atIssue i s sid t) sid Cause.misalignedPc g 0 (teamAtIssue i s sid t).pc))) ∧
     ((viewAtIssue i s sid t).cond c = false → exec i s = .next (fallen i s sid t (pmcCount ((atIssue i s sid t).onCore (teamAtIssue i s sid t).coreId (fun c => { c with issues := c.issues + 1 }))
        (.core (teamAtIssue i s sid t).coreId) 2 (teamAtIssue i s sid t).ctx 1) 0))) ∧
    (let i := Instr.call h c (.reg b)
     Runs i h s sid t →
     ((viewAtIssue i s sid t).cond c = true → (let g := (viewAtIssue i s sid t).sr b.toNat
      g.toNat % 4 = 0 → exec i s = .next (jumped i s sid t ((atIssue i s sid t).setTeam sid ((teamAtIssue i s sid t).setS 63 ((teamAtIssue i s sid t).pc + 12))) g)) ∧
     (let g := (viewAtIssue i s sid t).sr b.toNat
      g.toNat % 4 ≠ 0 → exec i s = .next (trapped i (atIssue i s sid t) sid Cause.misalignedPc g 0 (teamAtIssue i s sid t).pc))) ∧
     ((viewAtIssue i s sid t).cond c = false → exec i s = .next (fallen i s sid t (pmcCount ((atIssue i s sid t).onCore (teamAtIssue i s sid t).coreId (fun c => { c with issues := c.issues + 1 }))
        (.core (teamAtIssue i s sid t).coreId) 2 (teamAtIssue i s sid t).ctx 1) 0))) ∧
    (let i := Instr.ret h c
     Runs i h s sid t →
     ((viewAtIssue i s sid t).cond c = true → (let g := (viewAtIssue i s sid t).sr 63
      g.toNat % 4 = 0 → exec i s = .next (jumped i s sid t (atIssue i s sid t) g)) ∧
     (let g := (viewAtIssue i s sid t).sr 63
      g.toNat % 4 ≠ 0 → exec i s = .next (trapped i (atIssue i s sid t) sid Cause.misalignedPc g 0 (teamAtIssue i s sid t).pc))) ∧
     ((viewAtIssue i s sid t).cond c = false → exec i s = .next (fallen i s sid t (atIssue i s sid t) 1)))

/-- R117: `bdec` decrements its register and branches while the result is not zero; when its guard fails it does neither. -/
def Obligations.CountedLoop : Prop :=
  ∀ (h : Hdr) (off : BitVec 32) (d : SIdx) (s : State) (sid : Nat) (t : Team),
    (let i := Instr.bdec h d off
     let x := (viewAtIssue i s sid t).sr d.toNat - 1
     let s1 := (atIssue i s sid t).setTeam sid ((teamAtIssue i s sid t).setS d.toNat x)
     Runs i h s sid t →
      exec i s = .next (if x = 0 then fallen i s sid t s1 1 else jumped i s sid t s1 ((teamAtIssue i s sid t).pc + off.signExtend 64 * 12))) ∧
    (let i := Instr.bdec h d off
     Clear i s sid t → (viewAtIssue i s sid t).guard h = false → exec i s = .next (fallen i s sid t (atIssue i s sid t) 0))

/-- R115, R118, R119, R359, R360, R370: `nop` only goes on; `yield` also ends the team's run and waits for another ready team; `exit` ends the team;
`trap` and `brk` take their traps with %tpc at the next instruction. `tret` leaves the handler for %tpc or its own register, and where it names no
register the lanes of %fmask are replayed; outside a handler it traps; a target that is no multiple of 4 is a trap in the handler, which ends the
unit. Where the spec leaves a choice it rests on the model's, log 14 and 80. -/
def Obligations.PlainControl : Prop :=
  ∀ (h : Hdr) (a b : Option SIdx) (k : BitVec 5) (n : Option (BitVec 16)) (s : State) (sid : Nat) (t : Team),
    (let i := Instr.nop h
     Runs i h s sid t → exec i s = .next (fallen i s sid t (atIssue i s sid t) 1)) ∧
    (let i := Instr.yield h
     let s1 := atIssue i s sid t
     let u := teamAtIssue i s sid t
     Runs i h s sid t → exec i s = .next (fallen i s sid t
      (if otherReady s1 sid u then s1.setTeam sid { u with yieldTo := some ((s1.core u.coreId).issues + 1, s.clock + 16) } else s1) 1)) ∧
    (let i := Instr.exit h
     let u := teamAtIssue i s sid t
     Runs i h s sid t → u.openRegion = none → u.inTrap = false →
      exec i s = .next (fallen i s sid t ((atIssue i s sid t).setTeam sid { u with exited := true }) 1)) ∧
    (let i := Instr.trap h a k
     Runs i h s sid t → exec i s = .next (trapped i (atIssue i s sid t) sid (BitVec.ofNat 9 (0x1E0 + k.toNat))
      (match a with | some n => (viewAtIssue i s sid t).sr n.toNat | none => 0) 0 ((teamAtIssue i s sid t).pc + 12))) ∧
    (let i := Instr.brk h n
     Runs i h s sid t → exec i s = .next (trapped i (atIssue i s sid t) sid 0x00B ((n.getD 0).setWidth 64) 0 ((teamAtIssue i s sid t).pc + 12))) ∧
    (let i := Instr.tret h b
     let u := teamAtIssue i s sid t
     let s0 := atIssue i s sid t
     let target := match b with | some n => (viewAtIssue i s sid t).sr n.toNat | none => u.tpc
     Runs i h s sid t → u.inTrap = true → target.toNat % 4 = 0 →
      ∃ s' t', exec i s = .next s' ∧ s'.team? sid = some t' ∧ t'.pc = target ∧ t'.inTrap = false ∧ SameRegs u t' [] ∧ SameBytes s0 s' ∧
        t'.replay = (if b = none ∧ u.fmask ≠ 0 then some u.fmask else none) ∧ t'.cause = u.cause ∧ t'.tpc = u.tpc ∧ t'.tval = u.tval ∧
        t'.fmask = u.fmask ∧ t'.keep = u.keep ∧ ∀ k, k ≠ sid → s'.team? k = s0.team? k) ∧
    (let i := Instr.tret h b
     let u := teamAtIssue i s sid t
     Runs i h s sid t → u.inTrap = false → Traps i s sid t Cause.trapState 0) ∧
    (let i := Instr.tret h b
     let u := teamAtIssue i s sid t
     let s0 := atIssue i s sid t
     let target := match b with | some n => (viewAtIssue i s sid t).sr n.toNat | none => u.tpc
     Runs i h s sid t → u.inTrap = true → target.toNat % 4 ≠ 0 → u.failed = none →
      ∃ s' t', exec i s = .next s' ∧ s'.team? sid = some t' ∧ t'.failed = some Cause.misalignedPc ∧ SameBytes s0 s' ∧
        ∃ later, s'.agenda = .unitFail u.lid u.unit Cause.misalignedPc :: s0.agenda ++ later)

/-- R120, R121: the mask is saved, set, narrowed to or away from a predicate, counted, and searched for its lowest lane. -/
def Obligations.MaskInstructions : Prop :=
  ∀ (h : Hdr) (a : PSrc) (d : PIdx) (n : SIdx) (s : State) (sid : Nat) (t : Team),
    (let i := Instr.msave h d
     let u := teamAtIssue i s sid t
     let m := (viewAtIssue i s sid t).mask
     Runs i h s sid t → exec i s = .next (wrote i s sid t (u.setP d.toNat m) 0 1)) ∧
    (let i := Instr.mset h a
     let u := teamAtIssue i s sid t
     let p := (viewAtIssue i s sid t).ps a
     Runs i h s sid t → exec i s = .next (wrote i s sid t (u.setMask p) 0 1)) ∧
    (let i := Instr.mand h a
     let u := teamAtIssue i s sid t
     let m := (viewAtIssue i s sid t).mask
     let p := (viewAtIssue i s sid t).ps a
     Runs i h s sid t → exec i s = .next (wrote i s sid t (u.setMask (m &&& p)) 0 1)) ∧
    (let i := Instr.mandn h a
     let u := teamAtIssue i s sid t
     let m := (viewAtIssue i s sid t).mask
     let p := (viewAtIssue i s sid t).ps a
     Runs i h s sid t → exec i s = .next (wrote i s sid t (u.setMask (m &&& ~~~ p)) 0 1)) ∧
    (let i := Instr.mcount h n a
     let u := teamAtIssue i s sid t
     let m := (viewAtIssue i s sid t).mask
     let p := (viewAtIssue i s sid t).ps a
     Runs i h s sid t → exec i s = .next (wrote i s sid t (u.setS n.toNat (BitVec.ofNat 64 ((List.range 1024).countP (fun l => (m &&& p).getLsbD l)))) 0 1)) ∧
    (let i := Instr.mfirst h n a
     let u := teamAtIssue i s sid t
     let m := (viewAtIssue i s sid t).mask
     let p := (viewAtIssue i s sid t).ps a
     Runs i h s sid t → exec i s = .next (wrote i s sid t (u.setS n.toNat (match (List.range 1024).find? (fun l => (m &&& p).getLsbD l) with | some l => BitVec.ofNat 64 l | none => BitVec.allOnes 64)) 0 1))

/-- R122, R123: predicate operations act on the enabled lanes and leave the others; `pbits` moves 32 lanes to or from a scalar. -/
def Obligations.PredicateInstructions : Prop :=
  ∀ (h : Hdr) (a b : PSrc) (d : PIdx) (n : SIdx) (k : BitVec 32) (s : State) (sid : Nat) (t : Team),
    (let i := Instr.pand h d a b
     let vw := viewAtIssue i s sid t
     PredRuns i s sid t (enableOf i h s sid t) →
      PredWritten i s sid t (enableOf i h s sid t) d (fun l => (vw.ps a).getLsbD l && (vw.ps b).getLsbD l)) ∧
    (let i := Instr.por h d a b
     let vw := viewAtIssue i s sid t
     PredRuns i s sid t (enableOf i h s sid t) →
      PredWritten i s sid t (enableOf i h s sid t) d (fun l => (vw.ps a).getLsbD l || (vw.ps b).getLsbD l)) ∧
    (let i := Instr.pxor h d a b
     let vw := viewAtIssue i s sid t
     PredRuns i s sid t (enableOf i h s sid t) →
      PredWritten i s sid t (enableOf i h s sid t) d (fun l => (vw.ps a).getLsbD l != (vw.ps b).getLsbD l)) ∧
    (let i := Instr.pnot h d a
     let vw := viewAtIssue i s sid t
     PredRuns i s sid t (enableOf i h s sid t) →
      PredWritten i s sid t (enableOf i h s sid t) d (fun l => !(vw.ps a).getLsbD l)) ∧
    (let i := Instr.pmov h d a
     let vw := viewAtIssue i s sid t
     PredRuns i s sid t (enableOf i h s sid t) →
      PredWritten i s sid t (enableOf i h s sid t) d (fun l => (vw.ps a).getLsbD l)) ∧
    (let i := Instr.pbitsGet h n (.p a k)
     Runs i h s sid t → exec i s = .next (wroteS i s sid t n ((((viewAtIssue i s sid t).ps a).extractLsb' (32 * k.toNat) 32).setWidth 64) 0)) ∧
    (let i := Instr.pbitsGet h n (.mw d)
     Runs i h s sid t → exec i s = .next (wroteS i s sid t n ((((viewAtIssue i s sid t).mask).extractLsb' (32 * d.toNat) 32).setWidth 64) 0)) ∧
    (let i := Instr.pbitsPut h (.p d k) n
     let u := teamAtIssue i s sid t
     Runs i h s sid t → exec i s = .next (wrote i s sid t
      (u.setP d.toNat (setMaskWord (u.pr d.toNat) k.toNat (((viewAtIssue i s sid t).sr n.toNat).setWidth 32))) 0 1)) ∧
    (let i := Instr.pbitsPut h (.mw d) n
     let u := teamAtIssue i s sid t
     Runs i h s sid t → exec i s = .next (wrote i s sid t
      (u.setMask (setMaskWord u.mask d.toNat (((viewAtIssue i s sid t).sr n.toNat).setWidth 32))) 0 1))

/-- R108, R125, R141, R146: lane by lane and element by element, exact and then wrapped or clamped; the shape under which a result is held never changes a
lane. -/
def Obligations.VectorArithmetic : Prop :=
  ∀ (h : Hdr) (ty : VTy) (sat : Bool) (d : VIdx) (a : Src) (b : SrcB) (s : State) (sid : Nat) (t : Team),
    (let i := Instr.vadd h ty sat d a b
     let x (l : Nat) := laneA i s sid t ty.wide a l
     let y (l : Nat) := laneB i s sid t ty.wide (vSigned ty) b l
     VectorRuns i h s sid t (enableOf i h s sid t) d ty.wide (tags2 i s sid t ty.wide a b) →
      LanesWritten i s sid t (enableOf i h s sid t) d ty.wide (fun l => elemwise ty (fun e => clampV ty sat (elemOf ty (x l) e + elemOf ty (y l) e)))) ∧
    (let i := Instr.vsub h ty sat d a b
     let x (l : Nat) := laneA i s sid t ty.wide a l
     let y (l : Nat) := laneB i s sid t ty.wide (vSigned ty) b l
     VectorRuns i h s sid t (enableOf i h s sid t) d ty.wide (tags2 i s sid t ty.wide a b) →
      LanesWritten i s sid t (enableOf i h s sid t) d ty.wide (fun l => elemwise ty (fun e => clampV ty sat (elemOf ty (x l) e - elemOf ty (y l) e)))) ∧
    (let i := Instr.vmul h ty sat d a b
     let x (l : Nat) := laneA i s sid t ty.wide a l
     let y (l : Nat) := laneB i s sid t ty.wide (vSigned ty) b l
     VectorRuns i h s sid t (enableOf i h s sid t) d ty.wide (tags2 i s sid t ty.wide a b) →
      LanesWritten i s sid t (enableOf i h s sid t) d ty.wide (fun l => elemwise ty (fun e => clampV ty sat (elemOf ty (x l) e * elemOf ty (y l) e)))) ∧
    (let i := Instr.vmulh h ty d a b
     let x (l : Nat) := laneA i s sid t ty.wide a l
     let y (l : Nat) := laneB i s sid t ty.wide (vSigned ty) b l
     VectorRuns i h s sid t (enableOf i h s sid t) d ty.wide (tags2 i s sid t ty.wide a b) →
      LanesWritten i s sid t (enableOf i h s sid t) d ty.wide (fun l => elemwise ty (fun e => elemOf ty (x l) e * elemOf ty (y l) e / 2 ^ vBits ty))) ∧
    (let i := Instr.vmin h ty d a b
     let x (l : Nat) := laneA i s sid t ty.wide a l
     let y (l : Nat) := laneB i s sid t ty.wide (vSigned ty) b l
     VectorRuns i h s sid t (enableOf i h s sid t) d ty.wide (tags2 i s sid t ty.wide a b) →
      LanesWritten i s sid t (enableOf i h s sid t) d ty.wide (fun l => elemwise ty (fun e => min (elemOf ty (x l) e) (elemOf ty (y l) e)))) ∧
    (let i := Instr.vmax h ty d a b
     let x (l : Nat) := laneA i s sid t ty.wide a l
     let y (l : Nat) := laneB i s sid t ty.wide (vSigned ty) b l
     VectorRuns i h s sid t (enableOf i h s sid t) d ty.wide (tags2 i s sid t ty.wide a b) →
      LanesWritten i s sid t (enableOf i h s sid t) d ty.wide (fun l => elemwise ty (fun e => max (elemOf ty (x l) e) (elemOf ty (y l) e)))) ∧
    (let i := Instr.vabs h ty sat d a
     let x (l : Nat) := laneA i s sid t ty.wide a l
     VectorRuns i h s sid t (enableOf i h s sid t) d ty.wide (tags1 i s sid t ty.wide a) →
      LanesWritten i s sid t (enableOf i h s sid t) d ty.wide (fun l => elemwise ty (fun e => clampV ty sat (|elemOf ty (x l) e|))))

/-- R144, R145: bitwise operations, `vmov`, and shifts of each element by its own unsigned count. -/
def Obligations.VectorLogicAndShifts : Prop :=
  ∀ (h : Hdr) (ty : VTy) (sat : Bool) (d : VIdx) (a : Src) (b : SrcB) (s : State) (sid : Nat) (t : Team),
    (let i := Instr.vand h ty d a b
     let x (l : Nat) := laneA i s sid t ty.wide a l
     let y (l : Nat) := laneB i s sid t ty.wide (vSigned ty) b l
     VectorRuns i h s sid t (enableOf i h s sid t) d ty.wide (tags2 i s sid t ty.wide a b) →
      LanesWritten i s sid t (enableOf i h s sid t) d ty.wide (fun l => x l &&& y l)) ∧
    (let i := Instr.vor h ty d a b
     let x (l : Nat) := laneA i s sid t ty.wide a l
     let y (l : Nat) := laneB i s sid t ty.wide (vSigned ty) b l
     VectorRuns i h s sid t (enableOf i h s sid t) d ty.wide (tags2 i s sid t ty.wide a b) →
      LanesWritten i s sid t (enableOf i h s sid t) d ty.wide (fun l => x l ||| y l)) ∧
    (let i := Instr.vxor h ty d a b
     let x (l : Nat) := laneA i s sid t ty.wide a l
     let y (l : Nat) := laneB i s sid t ty.wide (vSigned ty) b l
     VectorRuns i h s sid t (enableOf i h s sid t) d ty.wide (tags2 i s sid t ty.wide a b) →
      LanesWritten i s sid t (enableOf i h s sid t) d ty.wide (fun l => x l ^^^ y l)) ∧
    (let i := Instr.vmov h ty d b
     let y (l : Nat) := laneB i s sid t ty.wide (vSigned ty) b l
     VectorRuns i h s sid t (enableOf i h s sid t) d ty.wide ((viewAtIssue i s sid t).tagsB (atIssue i s sid t) ty.wide b) →
      LanesWritten i s sid t (enableOf i h s sid t) d ty.wide (fun l => y l)) ∧
    (let i := Instr.vshl h ty sat d a b
     let x (l : Nat) := laneA i s sid t ty.wide a l
     let y (l : Nat) := laneB i s sid t ty.wide (vSigned ty) b l
     VectorRuns i h s sid t (enableOf i h s sid t) d ty.wide (tags2 i s sid t ty.wide a b) →
      LanesWritten i s sid t (enableOf i h s sid t) d ty.wide (fun l => elemwise ty (fun e => clampV ty sat (elemOf ty (x l) e * 2 ^ elemNat ty (y l) e)))) ∧
    (let i := Instr.vshr h ty d a b
     let x (l : Nat) := laneA i s sid t ty.wide a l
     let y (l : Nat) := laneB i s sid t ty.wide (vSigned ty) b l
     VectorRuns i h s sid t (enableOf i h s sid t) d ty.wide (tags2 i s sid t ty.wide a b) →
      LanesWritten i s sid t (enableOf i h s sid t) d ty.wide (fun l => elemwise ty (fun e => elemOf ty (x l) e / 2 ^ elemNat ty (y l) e))) ∧
    (let i := Instr.vsar h ty d a b
     let x (l : Nat) := laneA i s sid t ty.wide a l
     let y (l : Nat) := laneB i s sid t ty.wide (vSigned ty) b l
     VectorRuns i h s sid t (enableOf i h s sid t) d ty.wide (tags2 i s sid t ty.wide a b) →
      LanesWritten i s sid t (enableOf i h s sid t) d ty.wide (fun l => elemwise ty (fun e => elemOf ty (x l) e / 2 ^ elemNat ty (y l) e)))

/-- R142, R143: the addend is D, exact before SAT; carries and borrows go lane by lane through CP. -/
def Obligations.VectorMultiplyAddAndCarry : Prop :=
  ∀ (h : Hdr) (ty : VTy) (sat : Bool) (d : VIdx) (a : Src) (b : SrcB) (s : State) (sid : Nat) (t : Team) (cp : PIdx),
    (let i := Instr.vmad h ty sat d a b
     let x (l : Nat) := laneA i s sid t false a l
     let y (l : Nat) := laneB i s sid t false (vSigned ty) b l
     let z (l : Nat) := laneA i s sid t false (.v d) l
     ty.mad → VectorRuns i h s sid t (enableOf i h s sid t) d false (tags1 i s sid t false (.v d) ++ tags2 i s sid t false a b) →
      LanesWritten i s sid t (enableOf i h s sid t) d false (fun l => elemwise ty (fun e => clampV ty sat (elemOf ty (x l) e * elemOf ty (y l) e + elemOf ty (z l) e)))) ∧
    (let i := Instr.vmadw h ty d a b
     let x (l : Nat) := laneA i s sid t false a l
     let y (l : Nat) := laneB i s sid t false (vSigned ty) b l
     let z (l : Nat) := laneA i s sid t true (.v d) l
     VectorRuns i h s sid t (enableOf i h s sid t) d true (tags1 i s sid t true (.v d) ++ tags2 i s sid t false a b) →
      LanesWritten i s sid t (enableOf i h s sid t) d true (fun l => ((elemOf ty (x l) 0 * elemOf ty (y l) 0 + (z l : Int)) % 2 ^ 64).toNat)) ∧
    (let i := Instr.vadc h ty cp d a b
     let x (l : Nat) := laneA i s sid t ty.wide a l
     let y (l : Nat) := laneB i s sid t ty.wide (vSigned ty) b l
     let c (l : Nat) := if ((viewAtIssue i s sid t).pr cp.toNat).getLsbD l then 1 else 0
     ty.carry → VectorRuns i h s sid t (enableOf i h s sid t) d ty.wide
        (predTag (teamAtIssue i s sid t) ((viewAtIssue i s sid t).pr cp.toNat) :: tags2 i s sid t ty.wide a b) →
      LanesWritten i s sid t (enableOf i h s sid t) d ty.wide (fun l => x l + y l + c l) [.p cp.toNat]
        (fun t' => ∀ l, l < t'.w → cp ≠ 31 → (t'.pr cp.toNat).getLsbD l =
          if (enableOf i h s sid t).getLsbD l then decide (2 ^ vBits ty ≤ x l + y l + c l)
          else ((teamAtIssue i s sid t).pr cp.toNat).getLsbD l)) ∧
    (let i := Instr.vsbc h ty cp d a b
     let x (l : Nat) := laneA i s sid t ty.wide a l
     let y (l : Nat) := laneB i s sid t ty.wide (vSigned ty) b l
     let c (l : Nat) := if ((viewAtIssue i s sid t).pr cp.toNat).getLsbD l then 1 else 0
     ty.carry → VectorRuns i h s sid t (enableOf i h s sid t) d ty.wide
        (predTag (teamAtIssue i s sid t) ((viewAtIssue i s sid t).pr cp.toNat) :: tags2 i s sid t ty.wide a b) →
      LanesWritten i s sid t (enableOf i h s sid t) d ty.wide (fun l => x l + 2 ^ vBits ty - y l - c l + 2 ^ vBits ty) [.p cp.toNat]
        (fun t' => ∀ l, l < t'.w → cp ≠ 31 → (t'.pr cp.toNat).getLsbD l =
          if (enableOf i h s sid t).getLsbD l then decide (x l < y l + c l)
          else ((teamAtIssue i s sid t).pr cp.toNat).getLsbD l))

/-- R147-R151: comparison, selection by the guard, counts of bits, fields taken and inserted, and byte products. -/
def Obligations.VectorBitsAndSelection : Prop :=
  ∀ (h : Hdr) (ty : VTy) (sat : Bool) (d : VIdx) (a : Src) (b : SrcB) (s : State) (sid : Nat) (t : Team) (c : Cmp) (p : PIdx),
    (let i := Instr.vcmp h ty c p a b
     let x (l : Nat) := laneA i s sid t ty.wide a l
     let y (l : Nat) := laneB i s sid t ty.wide (vSigned ty) b l
     PredRuns i s sid t (enableOf i h s sid t) →
      PredWritten i s sid t (enableOf i h s sid t) p (fun l => Cmp.rel c (elemOf ty (x l) 0) (elemOf ty (y l) 0))) ∧
    (let i := Instr.vsel h ty d a b
     let x (l : Nat) := laneA i s sid t ty.wide a l
     let y (l : Nat) := laneB i s sid t ty.wide (vSigned ty) b l
     let g := (viewAtIssue i s sid t).guardLanes h
     let en := (viewAtIssue i s sid t).active
     VectorRuns i h s sid t en d ty.wide (predTag (teamAtIssue i s sid t) g :: tags2 i s sid t ty.wide a b) →
      LanesWritten i s sid t en d ty.wide (fun l => if g.getLsbD l then x l else y l)) ∧
    (let i := Instr.vclz h ty d a
     let x (l : Nat) := laneA i s sid t ty.wide a l
     VectorRuns i h s sid t (enableOf i h s sid t) d ty.wide (tags1 i s sid t ty.wide a) →
      LanesWritten i s sid t (enableOf i h s sid t) d ty.wide (fun l => if ty.wide then leadingZeros (BitVec.ofNat 64 (x l)) else leadingZeros (BitVec.ofNat 32 (x l)))) ∧
    (let i := Instr.vpopc h ty d a
     let x (l : Nat) := laneA i s sid t ty.wide a l
     VectorRuns i h s sid t (enableOf i h s sid t) d ty.wide (tags1 i s sid t ty.wide a) →
      LanesWritten i s sid t (enableOf i h s sid t) d ty.wide (fun l => (List.range 64).countP (fun k => (x l).testBit k))) ∧
    (let i := Instr.vbfe h ty d a b
     let x (l : Nat) := laneA i s sid t false a l
     let y (l : Nat) := laneB i s sid t false (vSigned ty) b l
     VectorRuns i h s sid t (enableOf i h s sid t) d false (tags2 i s sid t false a b) →
      LanesWritten i s sid t (enableOf i h s sid t) d false (fun l => (fieldOf32 (vSigned ty) (BitVec.ofNat 32 (x l)) (y l % 256) (y l / 256 % 256)).toNat)) ∧
    (let i := Instr.vbfi h d a b
     let x (l : Nat) := laneA i s sid t false a l
     let y (l : Nat) := laneB i s sid t false false b l
     let z (l : Nat) := laneA i s sid t false (.v d) l
     VectorRuns i h s sid t (enableOf i h s sid t) d false (tags1 i s sid t false (.v d) ++ tags2 i s sid t false a b) →
      LanesWritten i s sid t (enableOf i h s sid t) d false (fun l => (insertField (BitVec.ofNat 32 (z l)) (BitVec.ofNat 32 (x l)) (y l % 256) (y l / 256 % 256)).toNat)) ∧
    (let i := Instr.vdot4 h ty sat d a b
     let x (l : Nat) := laneA i s sid t false a l
     let y (l : Nat) := laneB i s sid t false (vSigned ty) b l
     let z (l : Nat) := laneA i s sid t false (.v d) l
     (ty = .i32 ∨ ty = .n32) → VectorRuns i h s sid t (enableOf i h s sid t) d false (tags1 i s sid t false (.v d) ++ tags2 i s sid t false a b) →
      LanesWritten i s sid t (enableOf i h s sid t) d false (fun l => elemwise ty (fun _ => clampV ty sat (elemOf ty (z l) 0 + (List.range 4).foldl (fun r k => r + extT (vSigned ty) 8 (x l / 2 ^ (8 * k)) * extT (vSigned ty) 8 (y l / 2 ^ (8 * k))) 0))))

/-- R154, R158, R168, R170, R171, R173, R179: element by element, the modifiers first; the operation on the two source values (and the element of D, for
`vffma`) gives the element, and each class counts the lanes that raised it. What each operation computes is stated by the statements on results
rounded once and on special values. Where the spec leaves a choice it rests on the model's, log 15, 16 and 18. -/
def Obligations.FloatArithmetic : Prop :=
  ∀ (h : Hdr) (ty : FTy) (r : Rnd) (m : FMod) (d : VIdx) (a : Src) (b : SrcB) (s : State) (sid : Nat) (t : Team),
    (let i := Instr.vfadd h ty r m d a b
     let x (l : Nat) := laneA i s sid t false a l
     let y (l : Nat) := laneB i s sid t false false b l
     VectorRuns i h s sid t (enableOf i h s sid t) d false (tags2 i s sid t false a b) →
      FloatLanes i s sid t (enableOf i h s sid t) d (fun l => float2 ty m (fun f x y => Fmt.addV f r (f.val x) (f.val y)) (x l) (y l))) ∧
    (let i := Instr.vfsub h ty r m d a b
     let x (l : Nat) := laneA i s sid t false a l
     let y (l : Nat) := laneB i s sid t false false b l
     VectorRuns i h s sid t (enableOf i h s sid t) d false (tags2 i s sid t false a b) →
      FloatLanes i s sid t (enableOf i h s sid t) d (fun l => float2 ty m (fun f x y => Fmt.addV f r (f.val x) (negV (f.val y))) (x l) (y l))) ∧
    (let i := Instr.vfmul h ty r m d a b
     let x (l : Nat) := laneA i s sid t false a l
     let y (l : Nat) := laneB i s sid t false false b l
     VectorRuns i h s sid t (enableOf i h s sid t) d false (tags2 i s sid t false a b) →
      FloatLanes i s sid t (enableOf i h s sid t) d (fun l => float2 ty m (fun f x y => Fmt.mulOut f r (f.val x) (f.val y)) (x l) (y l))) ∧
    (let i := Instr.vffma h ty r m d a b
     let x (l : Nat) := laneA i s sid t false a l
     let y (l : Nat) := laneB i s sid t false false b l
     let z (l : Nat) := laneA i s sid t false (.v d) l
     VectorRuns i h s sid t (enableOf i h s sid t) d false (tags1 i s sid t false (.v d) ++ tags2 i s sid t false a b) →
      FloatLanes i s sid t (enableOf i h s sid t) d
        (fun l => float3 ty m (fun f x y z => Fmt.fmaOut f r (f.val x) (f.val y) (f.val z)) (x l) (y l) (z l))) ∧
    (let i := Instr.vfmin h ty m d a b
     let x (l : Nat) := laneA i s sid t false a l
     let y (l : Nat) := laneB i s sid t false false b l
     VectorRuns i h s sid t (enableOf i h s sid t) d false (tags2 i s sid t false a b) →
      FloatLanes i s sid t (enableOf i h s sid t) d (fun l => float2 ty m (fun f x y => Fmt.minmax f false x y) (x l) (y l))) ∧
    (let i := Instr.vfmax h ty m d a b
     let x (l : Nat) := laneA i s sid t false a l
     let y (l : Nat) := laneB i s sid t false false b l
     VectorRuns i h s sid t (enableOf i h s sid t) d false (tags2 i s sid t false a b) →
      FloatLanes i s sid t (enableOf i h s sid t) d (fun l => float2 ty m (fun f x y => Fmt.minmax f true x y) (x l) (y l))) ∧
    (let i := Instr.vfdiv h ty r m d a b
     let x (l : Nat) := laneA i s sid t false a l
     let y (l : Nat) := laneB i s sid t false false b l
     VectorRuns i h s sid t (enableOf i h s sid t) d false (tags2 i s sid t false a b) →
      FloatLanes i s sid t (enableOf i h s sid t) d (fun l => float2 ty m (fun f x y => Fmt.divOut f r (f.val x) (f.val y)) (x l) (y l))) ∧
    (let i := Instr.vfscale h ty r m d a b
     let x (l : Nat) := laneA i s sid t false a l
     let y (l : Nat) := laneB i s sid t false false b l
     VectorRuns i h s sid t (enableOf i h s sid t) d false (tags2 i s sid t false a b) →
      FloatLanes i s sid t (enableOf i h s sid t) d (fun l => onFloats ty (fun e =>
        let f := fFmt ty
        let p := signMod f m.nega m.absa (fElem ty (x l) e)
        let n := extT true f.width (y l / 2 ^ (16 * e))
        let o := Fmt.scaleOut f r p (if m.negb then -n else n)
        (o.1, o.2 ||| f.srcEvents p))))

/-- R172-R178: square root, the approximate functions, rounding to an integral value, classification (which raises no event), comparison into a predicate,
and conversion of one part of each lane. What each computes of an element is stated by the statements on results rounded once, on special values and
on the approximate functions. Where the spec leaves a choice it rests on the model's, log 17 and 18. -/
def Obligations.FloatFunctions : Prop :=
  ∀ (h : Hdr) (ty : FTy) (r : Rnd) (nega absa : Bool) (d : VIdx) (a : Src) (b : SrcB) (s : State) (sid : Nat) (t : Team)
    (c : FCmp) (p : PIdx) (dty sty : CvtTy) (ssel dsel : BitVec 2),
    (let i := Instr.vfsqrt h ty r nega absa d a
     let x (l : Nat) := laneA i s sid t false a l
     VectorRuns i h s sid t (enableOf i h s sid t) d false (tags1 i s sid t false a) →
      FloatLanes i s sid t (enableOf i h s sid t) d (fun l => float1 ty nega absa (fun f x => Fmt.sqrtOut f r (f.val x)) (x l))) ∧
    (let i := Instr.vfrcp h ty nega absa d a
     let x (l : Nat) := laneA i s sid t false a l
     VectorRuns i h s sid t (enableOf i h s sid t) d false (tags1 i s sid t false a) →
      FloatLanes i s sid t (enableOf i h s sid t) d (fun l => float1 ty nega absa (fun f x => fnOut f .rcp x) (x l))) ∧
    (let i := Instr.vfrsq h ty nega absa d a
     let x (l : Nat) := laneA i s sid t false a l
     VectorRuns i h s sid t (enableOf i h s sid t) d false (tags1 i s sid t false a) →
      FloatLanes i s sid t (enableOf i h s sid t) d (fun l => float1 ty nega absa (fun f x => fnOut f .rsq x) (x l))) ∧
    (let i := Instr.vfexp2 h ty nega absa d a
     let x (l : Nat) := laneA i s sid t false a l
     VectorRuns i h s sid t (enableOf i h s sid t) d false (tags1 i s sid t false a) →
      FloatLanes i s sid t (enableOf i h s sid t) d (fun l => float1 ty nega absa (fun f x => fnOut f .exp2 x) (x l))) ∧
    (let i := Instr.vflog2 h ty nega absa d a
     let x (l : Nat) := laneA i s sid t false a l
     VectorRuns i h s sid t (enableOf i h s sid t) d false (tags1 i s sid t false a) →
      FloatLanes i s sid t (enableOf i h s sid t) d (fun l => float1 ty nega absa (fun f x => fnOut f .log2 x) (x l))) ∧
    (let i := Instr.vfsin h ty nega absa d a
     let x (l : Nat) := laneA i s sid t false a l
     VectorRuns i h s sid t (enableOf i h s sid t) d false (tags1 i s sid t false a) →
      FloatLanes i s sid t (enableOf i h s sid t) d (fun l => float1 ty nega absa (fun f x => fnOut f .sin x) (x l))) ∧
    (let i := Instr.vfcos h ty nega absa d a
     let x (l : Nat) := laneA i s sid t false a l
     VectorRuns i h s sid t (enableOf i h s sid t) d false (tags1 i s sid t false a) →
      FloatLanes i s sid t (enableOf i h s sid t) d (fun l => float1 ty nega absa (fun f x => fnOut f .cos x) (x l))) ∧
    (let i := Instr.vftanh h ty nega absa d a
     let x (l : Nat) := laneA i s sid t false a l
     VectorRuns i h s sid t (enableOf i h s sid t) d false (tags1 i s sid t false a) →
      FloatLanes i s sid t (enableOf i h s sid t) d (fun l => float1 ty nega absa (fun f x => fnOut f .tanh x) (x l))) ∧
    (let i := Instr.vfrnd h ty r nega absa d a
     let x (l : Nat) := laneA i s sid t false a l
     VectorRuns i h s sid t (enableOf i h s sid t) d false (tags1 i s sid t false a) →
      FloatLanes i s sid t (enableOf i h s sid t) d (fun l => float1 ty nega absa (fun f x => Fmt.integral f r x) (x l))) ∧
    (let i := Instr.vfclass h ty nega absa d a
     let x (l : Nat) := laneA i s sid t false a l
     VectorRuns i h s sid t (enableOf i h s sid t) d false (tags1 i s sid t false a) →
      FloatLanes i s sid t (enableOf i h s sid t) d (fun l => onFloats ty (fun e =>
        (2 ^ Fmt.classBit (fFmt ty) (signMod (fFmt ty) nega absa (fElem ty (x l) e)), 0)))) ∧
    (let i := Instr.vfcmp h c p a b
     let x (l : Nat) := laneA i s sid t false a l
     let y (l : Nat) := laneB i s sid t false false b l
     PredRuns i s sid t (enableOf i h s sid t) →
      PredWritten i s sid t (enableOf i h s sid t) p (fun l => (Fmt.cmpOut f32F c (x l) (y l)).1)) ∧
    (let i := Instr.vfcvt h dty sty r d a ssel dsel
     let x (l : Nat) := laneA i s sid t false a l
     let z (l : Nat) := laneA i s sid t false (.v d) l
     let w := cvtBits dty
     let part (l : Nat) := x l / 2 ^ (cvtBits sty * ssel.toNat) % 2 ^ cvtBits sty
     let o (l : Nat) := cvtOut dty sty r (part l)
     i.wf = true → VectorRuns i h s sid t (enableOf i h s sid t) d false ((if w = 32 then [] else tags1 i s sid t false (.v d)) ++ tags1 i s sid t false a) →
      FloatLanes i s sid t (enableOf i h s sid t) d (fun l => ⟨if w = 32 then (o l).1 else
        ((BitVec.ofNat 32 (z l) &&& ~~~ (BitVec.ofNat 32 ((2 ^ w - 1) * 2 ^ (w * dsel.toNat)))) |||
          (BitVec.ofNat 32 ((o l).1 % 2 ^ w) <<< (w * dsel.toNat))).toNat, (o l).2, false⟩))

/-- R155, R156, R166, R167, R170, R173, R176, R177, R179: sums, products, fused products, quotients by a divisor that is not zero, square roots, scaled
values and conversions of finite values are the exact result rounded once under the mode, in every format; a conversion to an integer and `vfrnd`
round to the integer of the mode, and the former clamps; a K-group of a matrix product is its exact sum rounded to nearest. Where the spec leaves a
choice it rests on the model's, log 18. -/
def Obligations.RoundedOnce : Prop :=
  ∀ (f : Fmt) (r : Rnd) (x y z : Nat) (n : Int) (dty sty : CvtTy) (as bs : List Nat) (us vs : List Byte) (xa xb : BitVec 16),
    (f ∈ [f32F, bf16F, f16F] → (f.val x).finite = true → (f.val y).finite = true →
      CorrectlyRounded f r ((f.val x).rat + (f.val y).rat) (f.addV r (f.val x) (f.val y)).1 ∧
      CorrectlyRounded f r ((f.val x).rat - (f.val y).rat) (f.addV r (f.val x) (negV (f.val y))).1 ∧
      CorrectlyRounded f r ((f.val x).rat * (f.val y).rat) (f.mulOut r (f.val x) (f.val y)).1 ∧
      ((f.val z).finite = true →
        CorrectlyRounded f r ((f.val x).rat * (f.val y).rat + (f.val z).rat) (f.fmaOut r (f.val x) (f.val y) (f.val z)).1) ∧
      ((f.val y).rat ≠ 0 →
        CorrectlyRounded f r ((f.val x).rat / (f.val y).rat) (f.divOut r (f.val x) (f.val y)).1)) ∧
    (f ∈ [f32F, bf16F, f16F] → (f.val x).finite = true → 0 ≤ (f.val x).rat →
      CorrectlyRounded f r (Real.sqrt ((f.val x).rat : ℝ)) (f.sqrtOut r (f.val x)).1) ∧
    (f ∈ [f32F, bf16F, f16F] → (f.val x).finite = true → CorrectlyRounded f r ((f.val x).rat * (2 : Rat) ^ n) (f.scaleOut r x n).1) ∧
    (f ∈ [f32F, bf16F, f16F] → (f.val x).finite = true → ∃ k : Int, IntRounded r (f.val x).rat k ∧ (f.val (f.integral r x).1).finite = true ∧
      (f.val (f.integral r x).1).rat = k ∧ (f.val (f.integral r x).1).neg = (f.val x).neg ∧
      (f.integral r x).2 = (if (k : Rat) = (f.val x).rat then 0 else evInexact) ∧ ((k : Rat) = (f.val x).rat → (f.integral r x).1 = x)) ∧
    (∀ g, cvtKind dty = .float g → cvtKind sty = .float f → (f.val x).finite = true →
      CorrectlyRounded g r (f.val x).rat (cvtOut dty sty r x).1) ∧
    (∀ g sg w, cvtKind dty = .float g → cvtKind sty = .int sg w → CorrectlyRounded g r ((extT sg w x : Int) : Rat) (cvtOut dty sty r x).1) ∧
    (∀ sg w, cvtKind dty = .int sg w → cvtKind sty = .float f → (f.val x).finite = true → ∃ k : Int, IntRounded r (f.val x).rat k ∧
      cvtOut dty sty r x = (wrapT w (max (minT sg w) (min (maxT sg w) k)), (f.srcEvents x) |||
        (if k < minT sg w ∨ maxT sg w < k then evInvalid else if (k : Rat) = (f.val x).rat then 0 else evInexact))) ∧
    ((∀ c ∈ as ++ bs, (bf16F.val c).finite = true) →
      CorrectlyRounded f32F .rne ((as.zip bs).map (fun q => (bf16F.val q.1).rat * (bf16F.val q.2).rat)).sum (groupBf16 as bs).1) ∧
    (xa ≠ 0x7FFF → xb ≠ 0x7FFF → CorrectlyRounded f32F .rne
      ((((us.zip vs).map (fun q => q.1.toInt * q.2.toInt)).sum : Int) * (2 : Rat) ^ (xa.toInt + xb.toInt - 254)) (groupInt us vs xa xb).1)

/-- R174: the approximate functions. A packed element is the exact value rounded to nearest; an f32 result lies within the bound of its function, and is
an infinity only where the exact value rounds past the format. Where the spec leaves a choice it rests on the model's, log 17. -/
def Obligations.ApproximateFunctions : Prop :=
  ∀ (f : Fmt) (fn : Fn) (x : Nat) (y : ℝ),
    (f ∈ [bf16F, f16F] → (f.val x).finite = true → FnExact fn ((f.val x).rat : ℝ) y →
      CorrectlyRounded f .rne y (fnOut f fn x).1) ∧
    ((f32F.val x).finite = true → FnExact fn ((f32F.val x).rat : ℝ) y →
      match f32F.val (fnOut f32F fn x).1 with
      | .nan _ => False
      | .inf n => (f32F.brink : ℝ) ≤ |y| ∧ (n = true ↔ y < 0)
      | .fin g m e => WithinBound fn y ((FVal.fin g m e).rat : ℝ)) ∧
    ((f32F.val x).finite = true → FnExact fn ((f32F.val x).rat : ℝ) y →
      ((fnOut f32F fn x).2 &&& evInexact ≠ 0 ↔
        ((f32F.val (fnOut f32F fn x).1).finite = true → ((f32F.val (fnOut f32F fn x).1).rat : ℝ) ≠ y)))

/-- R153, R156, R170-R173, R175-R179: a NaN source gives the canonical NaN; so do infinity minus infinity, zero times infinity, zero by zero, infinity by
infinity and the root of a negative number, in a fused product too, and these raise invalid; a finite value by zero is an infinity. The minimum and
maximum put -0 below +0 and pass over one NaN; the comparisons hold the two zeros equal; the class of a value is one bit of ten; the approximate
functions have the special and exact values of their table. Where the spec leaves a choice it rests on the model's, log 15, 16, 17 and 18. -/
def Obligations.FloatSpecialValues : Prop :=
  ∀ (f : Fmt) (r : Rnd) (u v w : FVal) (n k : Bool) (m x y : Nat) (e g : Int) (c : FCmp) (fn : Fn) (dty sty : CvtTy),
    (f ∈ [f32F, bf16F, f16F] → v.isNan = true ∨ w.isNan = true →
      (f.addV r v w).1 = f.nan ∧ (f.mulOut r v w).1 = f.nan ∧ (f.divOut r v w).1 = f.nan) ∧
    (f ∈ [f32F, bf16F, f16F] → v.isNan = true → (f.sqrtOut r v).1 = f.nan) ∧
    (f.addV r (.inf true) (.inf false) = (f.nan, evNan ||| evInvalid) ∧ f.addV r (.inf false) (.inf true) = (f.nan, evNan ||| evInvalid)) ∧
    (f.mulOut r (.inf n) (.fin k 0 e) = (f.nan, evNan ||| evInvalid) ∧ f.mulOut r (.fin k 0 e) (.inf n) = (f.nan, evNan ||| evInvalid)) ∧
    (f.divOut r (.inf n) (.inf k) = (f.nan, evNan ||| evInvalid) ∧ f.divOut r (.fin n 0 e) (.fin k 0 g) = (f.nan, evNan ||| evInvalid)) ∧
    (m ≠ 0 → f.divOut r (.fin n m e) (.fin k 0 g) = (f.signed (n != k) f.inf, evDivZero ||| evInf)) ∧
    (m ≠ 0 → f.sqrtOut r (.fin true m e) = (f.nan, evNan ||| evInvalid)) ∧
    (f.sqrtOut r (.inf true) = (f.nan, evNan ||| evInvalid) ∧ f.sqrtOut r (.fin true 0 e) = (f.sign, 0)) ∧
    (f ∈ [f32F, bf16F, f16F] → v.isNan = true ∨ w.isNan = true ∨ u.isNan = true → (f.fmaOut r v w u).1 = f.nan) ∧
    (f.fmaOut r (.inf n) (.fin k 0 e) u = (f.nan, evNan ||| evInvalid) ∧ f.fmaOut r (.fin k 0 e) (.inf n) u = (f.nan, evNan ||| evInvalid)) ∧
    (m ≠ 0 → (∀ j, f.fmaOut r (.inf n) (.inf j) (.inf (n == j)) = (f.nan, evNan ||| evInvalid)) ∧
      f.fmaOut r (.inf n) (.fin k m e) (.inf (n == k)) = (f.nan, evNan ||| evInvalid) ∧
      f.fmaOut r (.fin k m e) (.inf n) (.inf (n == k)) = (f.nan, evNan ||| evInvalid)) ∧
    (f ∈ [f32F, bf16F, f16F] → x < 2 ^ f.width → y < 2 ^ f.width → (f.val x).isNan = false → (f.val y).isNan = false →
      ((f.minmax k x y) = (x, 0) ∨ (f.minmax k x y) = (y, 0)) ∧
      (if k then (f.val x).atMost (f.val (f.minmax k x y).1) && (f.val y).atMost (f.val (f.minmax k x y).1)
       else (f.val (f.minmax k x y).1).atMost (f.val x) && (f.val (f.minmax k x y).1).atMost (f.val y)) = true) ∧
    ((f.val x).isNan = true → ((f.val y).isNan = false → f.minmax k x y = (y, 0) ∧ f.minmax k y x = (y, 0)) ∧
      ((f.val y).isNan = true → f.minmax k x y = (f.nan, evNan))) ∧
    (f ∈ [f32F, bf16F, f16F] → (f.val x).isNan = false → (f.val y).isNan = false →
      f.cmpOut c x y = (match c with
        | .eq => !(f.val x).below (f.val y) && !(f.val y).below (f.val x)
        | .ne => (f.val x).below (f.val y) || (f.val y).below (f.val x)
        | .lt => (f.val x).below (f.val y)
        | .le => !(f.val y).below (f.val x)
        | .gt => (f.val y).below (f.val x)
        | .ge => !(f.val x).below (f.val y)
        | .uno => false
        | .ord => true, 0)) ∧
    ((f.val x).isNan = true ∨ (f.val y).isNan = true → f.cmpOut c x y = (c == .ne || c == .uno,
      if c ∈ [FCmp.lt, .le, .gt, .ge] ∨ (f.val x).snan = true ∨ (f.val y).snan = true then evInvalid else 0)) ∧
    (match f.val x with
      | .nan sn => f.classBit x = if sn then 8 else 9
      | .inf g => f.classBit x = if g then 0 else 7
      | .fin g m' e' => (m' = 0 → f.classBit x = if g then 3 else 4) ∧
        (f ∈ [f32F, bf16F, f16F] → 0 < |(FVal.fin g m' e').rat| → |(FVal.fin g m' e').rat| < (2 : Rat) ^ f.emin → f.classBit x = if g then 2 else 5) ∧
        (f ∈ [f32F, bf16F, f16F] → (2 : Rat) ^ f.emin ≤ |(FVal.fin g m' e').rat| → f.classBit x = if g then 1 else 6)) ∧
    (f ∈ [f32F, bf16F, f16F] → (f.val x).isNan = true → (f.integral r x).1 = f.nan ∧ (f.scaleOut r x e).1 = f.nan ∧ ∀ fn, (fnOut f fn x) = (f.nan, evNan)) ∧
    ((f.val x).isInf = true → f.integral r x = (x, 0) ∧ f.scaleOut r x e = (x, 0)) ∧
    (∀ h, cvtKind dty = .float h → cvtKind sty = .float f → ((f.val x).isNan = true → (cvtOut dty sty r x).1 = h.nan) ∧
      (∀ g, f.val x = .inf g → cvtOut dty sty r x = (h.signed g h.inf, 0))) ∧
    (∀ sg w, cvtKind dty = .int sg w → cvtKind sty = .float f → ((f.val x).isNan = true → cvtOut dty sty r x = (0, evInvalid)) ∧
      (∀ g, f.val x = .inf g → cvtOut dty sty r x = (wrapT w (if g then minT sg w else maxT sg w), evInvalid))) ∧
    (f ∈ [f32F, bf16F, f16F] → f.val x = .inf n → (match fn with
      | .rcp => fnOut f fn x = (f.signed n 0, 0)
      | .rsq => fnOut f fn x = if n then (f.nan, evNan ||| evInvalid) else (0, 0)
      | .exp2 => fnOut f fn x = if n then (0, 0) else (f.inf, 0)
      | .log2 => fnOut f fn x = if n then (f.nan, evNan ||| evInvalid) else (f.inf, 0)
      | .sin => fnOut f fn x = (f.nan, evNan ||| evInvalid)
      | .cos => fnOut f fn x = (f.nan, evNan ||| evInvalid)
      | .tanh => fnOut f fn x = (f.signed n f.one, 0))) ∧
    (f ∈ [f32F, bf16F, f16F] → f.val x = .fin n 0 e → (match fn with
      | .rcp => fnOut f fn x = (f.signed n f.inf, evDivZero ||| evInf)
      | .rsq => fnOut f fn x = (f.signed n f.inf, evDivZero ||| evInf)
      | .exp2 => fnOut f fn x = (f.one, 0)
      | .log2 => fnOut f fn x = (f.signed true f.inf, evDivZero ||| evInf)
      | .sin => fnOut f fn x = (f.signed n 0, 0)
      | .cos => fnOut f fn x = (f.one, 0)
      | .tanh => fnOut f fn x = (f.signed n 0, 0))) ∧
    (f ∈ [f32F, bf16F, f16F] → (f.val x).finite = true → (f.val x).rat < 0 → fnOut f .rsq x = (f.nan, evNan ||| evInvalid) ∧ fnOut f .log2 x = (f.nan, evNan ||| evInvalid)) ∧
    (f ∈ [f32F, bf16F, f16F] → (f.val x).finite = true → (f.val y).finite = true → y < 2 ^ f.width →
      ((f.val y).rat * (f.val x).rat = 1 → fnOut f .rcp x = (y, 0)) ∧
      (∀ j : Int, (f.val x).rat = j → (f.val y).rat = (2 : Rat) ^ j → fnOut f .exp2 x = (y, 0)) ∧
      (∀ j : Int, (f.val x).rat = (4 : Rat) ^ j → (f.val y).rat = (2 : Rat) ^ (-j) → fnOut f .rsq x = (y, 0)) ∧
      (∀ j : Int, (f.val x).rat = (2 : Rat) ^ j → (f.val y).rat = j → (j = 0 → y = 0) → fnOut f .log2 x = (y, 0))) ∧
    (∀ j : Int, f ∈ [f32F, bf16F, f16F] → (f.val x).finite = true →
      ((f.val x).rat = j → fnOut f .sin x = (f.signed (f.val x).neg 0, 0) ∧ fnOut f .cos x = (f.signed (j % 2 == 1) f.one, 0)) ∧
      ((f.val x).rat = j + 1 / 2 → fnOut f .sin x = (f.signed (j % 2 == 1) f.one, 0) ∧ fnOut f .cos x = (0, 0)))

/-- R180-R183, R189: a reduction writes its scalar even under an empty enable; integers and bits combine in any order from the identity, f32 values in
ascending order; `vredx` finds the best value and the lowest lane that holds it; `vsample` chooses the first lane whose prefix sum exceeds its
threshold. Where the spec leaves a choice it rests on the model's, log 15. -/
def Obligations.LaneReductions : Prop :=
  ∀ (h : Hdr) (ty : XTy) (op : ROp) (a : Src) (b : SrcB) (s : State) (sid : Nat) (t : Team)
    (n : SIdx) (v : VIdx),
    (let i := Instr.vred h ty op n a
     let en := enableOf i h s sid t
     let vals := (lanesOf i s sid t en).map (laneA i s sid t false a)
     CrossRuns i s sid t → ty ≠ .f32 → i.wf = true →
      ScalarWritten i s sid t n (extS (xSigned ty) false (vals.foldl (combineInt ty op) (redIdentity ty op)))) ∧
    (let i := Instr.vred h .f32 op n a
     let en := enableOf i h s sid t
     let vals := (lanesOf i s sid t en).map (laneA i s sid t false a)
     CrossRuns i s sid t → i.wf = true → ScalarWritten i s sid t n (BitVec.ofNat 64 (match vals with
      | [] => redIdentity .f32 op
      | x :: rest => rest.foldl (combineFloat op) (if (f32F.val x).isNan then f32F.nan else x)))) ∧
    (let i := Instr.vredx h ty op n a
     let en := enableOf i h s sid t
     CrossRuns i s sid t → lanesOf i s sid t en = [] →
      ScalarWritten i s sid t n (BitVec.ofNat 64 (0xFFFFFFFF * 2 ^ 32 + redIdentity ty op))) ∧
    (let i := Instr.vredx h ty op n a
     let en := enableOf i h s sid t
     let x (l : Nat) := laneA i s sid t false a l
     let nan (l : Nat) : Bool := ty == .f32 && (f32F.val (x l)).isNan
     ∀ l, CrossRuns i s sid t → (lanesOf i s sid t en).head? = some l → (∀ k ∈ lanesOf i s sid t en, nan k = true) →
      ScalarWritten i s sid t n (BitVec.ofNat 64 (l * 2 ^ 32 + 0x7FC00000))) ∧
    (let i := Instr.vredx h ty op n a
     let en := enableOf i h s sid t
     let x (l : Nat) := laneA i s sid t false a l
     let nan (l : Nat) : Bool := ty == .f32 && (f32F.val (x l)).isNan
     let key (l : Nat) : Int := if ty = .f32 then fltKey f32F (x l) else extT (xSigned ty) 32 (x l)
     ∀ l, CrossRuns i s sid t → i.wf = true → l ∈ lanesOf i s sid t en → nan l = false →
      (∀ k ∈ lanesOf i s sid t en, nan k = false →
        (if op = .max then key k < key l else key l < key k) ∨ (key k = key l ∧ l ≤ k)) →
      ScalarWritten i s sid t n (BitVec.ofNat 64 (l * 2 ^ 32 + x l))) ∧
    (let i := Instr.vsample h n v b
     let en := enableOf i h s sid t
     let run := sampleRun 0 ((lanesOf i s sid t en).map (fun l => (l, laneA i s sid t false (.v v) l)))
     let total := (run.getLast?.map (fun e => e.2.1)).getD 0
     let scaled := match f32F.val (f32F.ofInt .rne ((laneB i s sid t false false b 0 : Nat) : Int)).1 with | .fin g m e => FVal.fin g m (e - 32) | w => w
     let u := (f32F.mulOut .rne scaled (f32F.val total)).1
     CrossRuns i s sid t → ScalarWritten i s sid t n (if total = 0 ∨ total = f32F.inf then BitVec.allOnes 64 else
      match run.find? (fun e => f32F.order e.2.1 u == 1) with
      | some e => BitVec.ofNat 64 e.1
      | none => match (run.filter (fun e => e.2.2.1)).getLast? with
        | some e => BitVec.ofNat 64 e.1
        | none => BitVec.allOnes 64))

/-- R153, R184-R188, R190, R191: scans, shuffles, broadcasts, single lanes and random words; `vsetl` and `vtag` act whatever the mask, and the tags of
their results are those of the rules. A NaN that the first enabled lane of an f32 scan brings is written as the canonical NaN (R153; log 15, which
departs from the copy of R184). Where the spec leaves a choice it rests on the model's, log 15. -/
def Obligations.LaneMoves : Prop :=
  ∀ (h : Hdr) (ty : XTy) (op : ROp) (excl : Bool) (mode : SMode) (d : VIdx) (a : Src) (b : SrcB) (s : State) (sid : Nat) (t : Team)
    (n : SIdx) (v : VIdx),
    (let i := Instr.vscan h ty op excl d a
     let en := enableOf i h s sid t
     let x (l : Nat) := laneA i s sid t false a l
     let before (l : Nat) := (lanesOf i s sid t en).filter (fun k => decide (k < l))
     ty ≠ .f32 → i.wf = true → VectorRuns i h s sid t en d false [.g] → LanesWritten i s sid t en d false (fun l =>
      ((before l ++ if excl then [] else [l]).map x).foldl (combineInt ty op) (redIdentity ty op)) [] (fun t' => (t'.vr d.toNat).tag = .g)) ∧
    (let i := Instr.vscan h .f32 op excl d a
     let en := enableOf i h s sid t
     let x (l : Nat) := laneA i s sid t false a l
     let before (l : Nat) := (lanesOf i s sid t en).filter (fun k => decide (k < l))
     let total (vs : List Nat) : Nat := match vs with
      | [] => redIdentity .f32 op
      | z :: rest => rest.foldl (combineFloat op) (if (f32F.val z).isNan then f32F.nan else z)
     i.wf = true → VectorRuns i h s sid t en d false [.g] → LanesWritten i s sid t en d false (fun l =>
      total ((before l ++ if excl then [] else [l]).map x)) [] (fun t' => (t'.vr d.toNat).tag = .g)) ∧
    (let i := Instr.vshfl h mode d a b
     let en := enableOf i h s sid t
     let x (l : Nat) := laneA i s sid t false a l
     let y (l : Nat) := laneB i s sid t false false b l
     let w := (teamAtIssue i s sid t).w
     let src (l : Nat) := match mode with
      | .idx => if y l < w then y l else l
      | .up => if y l ≤ l then l - y l else l
      | .down => if l + y l < w then l + y l else l
      | .xor => if l ^^^ y l < w then l ^^^ y l else l
     VectorRuns i h s sid t en d false (tags1 i s sid t false a) → LanesWritten i s sid t en d false (fun l => x (src l))) ∧
    (let i := Instr.vbcast h d v b
     let en := enableOf i h s sid t
     let k := laneB i s sid t false false b 0
     VectorRuns i h s sid t en d false [.u] → LanesWritten i s sid t en d false
      (fun _ => if k < (teamAtIssue i s sid t).w then laneA i s sid t false (.v v) k else 0)) ∧
    (let i := Instr.vrng h d a b
     let en := enableOf i h s sid t
     VectorRuns i h s sid t en d false ((viewAtIssue i s sid t).tagsB (atIssue i s sid t) false b) →
      LanesWritten i s sid t en d false (fun l => (rngVal (srcA i s sid t a) (BitVec.ofNat 32 (laneB i s sid t false false b l))).toNat)) ∧
    (let i := Instr.sgetl h n v b
     let k := (srcS i s sid t false b).toNat % 2 ^ 32
     Runs i h s sid t → exec i s = .next (wroteS i s sid t n
      (if k < (teamAtIssue i s sid t).w then BitVec.ofNat 64 (laneA i s sid t false (.v v) k) else 0) 0)) ∧
    (let i := Instr.vsetl h d a b
     let k := (srcS i s sid t false b).toNat % 2 ^ 32
     let u := teamAtIssue i s sid t
     Runs i h s sid t → u.w ≤ 1024 → k < u.w → overBudget (teamAtIssue i s sid t) [(d.toNat, .g)] = false →
      LanesWritten i s sid t (1#1024 <<< k) d false (fun _ => (srcA i s sid t a).toNat) [] (fun t' => (t'.vr d.toNat).tag = .g)) ∧
    (let i := Instr.vsetl h d a b
     let k := (srcS i s sid t false b).toNat % 2 ^ 32
     Runs i h s sid t → (teamAtIssue i s sid t).w ≤ k → ∃ s' t', exec i s = .next s' ∧ s'.team? sid = some t' ∧
      t'.pc = (teamAtIssue i s sid t).pc + 12 ∧ SameRegs (teamAtIssue i s sid t) t' [] ∧ SameBytes (atIssue i s sid t) s') ∧
    (let i := Instr.vtagGet h n v
     Runs i h s sid t → exec i s = .next (wroteS i s sid t n
      (match (teamAtIssue i s sid t).vr v.toNat with | .u _ => 0 | .a _ _ => 1 | .g _ => 2) 0)) ∧
    (let i := Instr.vtagExpand h d v
     let u := teamAtIssue i s sid t
     Runs i h s sid t → u.w ≤ 1024 → overBudget (teamAtIssue i s sid t) [(d.toNat, .g)] = false →
      LanesWritten i s sid t u.lanes d false (fun l => laneA i s sid t false (.v v) l) [] (fun t' => (t'.vr d.toNat).tag = .g)) ∧
    (let i := Instr.vtagCompact h d v
     let u := teamAtIssue i s sid t
     let x (l : Nat) : Lane := BitVec.ofNat 32 (laneA i s sid t false (.v v) l)
     Runs i h s sid t → u.w ≤ 1024 → overBudget (teamAtIssue i s sid t) [(d.toNat, .g)] = false →
      LanesWritten i s sid t u.lanes d false (fun l => (x l).toNat) [] (fun t' => (t'.vr d.toNat).tag =
        (if ∀ l, l < u.w → x l = x 0 then Tag.u else if ∀ l, l < u.w → x l = x 0 + BitVec.ofNat 32 l * (x 1 - x 0) then Tag.a else Tag.g)))

/-- R104, R192-R196, R201, R205: scratchpad and lane-private loads and stores, under every ORD and SCOPE they may have, pass by pass: a lane's bytes lie
in the team's range or in the lane's own area; narrow values are extended; one access serves a U result; a scalar load may fill vector registers with
U values. Where the spec leaves a choice it rests on the model's, log 19 and 20. -/
def Obligations.ScratchpadAccesses : Prop :=
  ∀ (h : Hdr) (ty : MTy) (sp : Space) (o : Ord) (d : VIdx) (sd : SVDst) (a : SIdx) (m : MemOp) (s : State) (sid : Nat) (t : Team),
    (let i := Instr.vld h ty sp o d m
     let en := enableOf i h s sid t
     let u := teamAtIssue i s sid t
     let s0 := atIssue i s sid t
     let ad (l : Nat) := laneAddr i s sid t m l
     MemRuns i h s sid t → sp ≠ .global → ¬(en = u.lanes ∧ uniformAddr u m = true) →
      (∀ l ∈ passOf (runOf u en), fits u sp (mBytes ty) (ad l)) →
      overBudget u ((List.range (mRegs ty)).map (fun k => (d.toNat + k, Tag.g))) = false →
      LanesLoaded i s sid t en d ty (fun l => leNat (spadRead s0 u.coreId (bankOff u sp l (ad l)) (mBytes ty)))) ∧
    (let i := Instr.vld h ty sp o d m
     let u := teamAtIssue i s sid t
     let s0 := atIssue i s sid t
     let ad (l : Nat) := laneAddr i s sid t m l
     MemRuns i h s sid t → u.mem = none → sp ≠ .global → enableOf i h s sid t = u.lanes → uniformAddr u m = true →
      (∀ l, l < u.w → fits u sp (mBytes ty) (ad l)) →
      overBudget u ((List.range (mRegs ty)).map (fun k => (d.toNat + k, Tag.u))) = false →
      UniformLoaded i s sid t sp d ty (fun l => leNat (spadRead s0 u.coreId (bankOff u sp l (ad l)) (mBytes ty)))) ∧
    (let i := Instr.vst h ty sp o d m
     let en := enableOf i h s sid t
     let u := teamAtIssue i s sid t
     let ad (l : Nat) := laneAddr i s sid t m l
     MemRuns i h s sid t → sp ≠ .global → (∀ l ∈ passOf (runOf u en), fits u sp (mBytes ty) (ad l)) →
      SpadStored i s sid t sp en (mBytes ty) ad (storeVal i s sid t ty d)) ∧
    (let i := Instr.sld h ty .spad o sd m
     let u := teamAtIssue i s sid t
     let s0 := atIssue i s sid t
     let va := laneAddr i s sid t m 0
     ScalarMem i h s sid t → fits u .spad (mBytes ty) va →
      ScalarLoaded i s sid t ty sd (leNat (spadRead s0 u.coreId (bankOff u .spad 0 va) (mBytes ty)))) ∧
    (let i := Instr.sst h ty .spad o a m
     let u := teamAtIssue i s sid t
     let va := laneAddr i s sid t m 0
     ScalarMem i h s sid t → fits u .spad (mBytes ty) va →
      SpadStored i s sid t .spad 1 (mBytes ty) (fun _ => va) (fun _ => storeValS i s sid t ty a))

/-- R104, R198, R200, R205: a weak load, or one at team or core scope, is served by the L1 bytes; a strong load at a wider scope by the home's bytes; a
weak load of a line that nothing holds by memory, through the cached translation. Where the spec leaves a choice it rests on the model's, log 20 and
27. -/
def Obligations.GlobalLoads : Prop :=
  ∀ (h : Hdr) (ty : MTy) (o : Ord) (d : VIdx) (sd : SVDst) (a : SIdx) (m : MemOp) (s : State) (sid : Nat) (t : Team),
    (let i := Instr.vld h ty .global o d m
     let en := enableOf i h s sid t
     let u := teamAtIssue i s sid t
     let s0 := atIssue i s sid t
     let ad (l : Nat) := laneAddr i s sid t m l
     MemRuns i h s sid t → (o = .weak ∨ scopeWide m.scope = false) → ¬(en = u.lanes ∧ uniformAddr u m = true) →
      (∀ l ∈ passOf (runOf u en), fits u .global (mBytes ty) (ad l) ∧ inL1 s0 u.coreId u.ctx (ad l).toNat (mBytes ty)) →
      overBudget u ((List.range (mRegs ty)).map (fun k => (d.toNat + k, Tag.g))) = false →
      LanesLoaded i s sid t en d ty (fun l => l1Val s0 u.coreId u.ctx (ad l).toNat (mBytes ty))) ∧
    (let i := Instr.vld h ty .global o d m
     let u := teamAtIssue i s sid t
     let s0 := atIssue i s sid t
     let va := laneAddr i s sid t m 0
     MemRuns i h s sid t → u.mem = none → (o = .weak ∨ scopeWide m.scope = false) → enableOf i h s sid t = u.lanes → uniformAddr u m = true →
      fits u .global (mBytes ty) va → inL1 s0 u.coreId u.ctx va.toNat (mBytes ty) →
      overBudget u ((List.range (mRegs ty)).map (fun k => (d.toNat + k, Tag.u))) = false →
      UniformLoaded i s sid t .global d ty (fun _ => l1Val s0 u.coreId u.ctx va.toNat (mBytes ty))) ∧
    (let i := Instr.sld h ty .global o sd m
     let u := teamAtIssue i s sid t
     let s0 := atIssue i s sid t
     let va := laneAddr i s sid t m 0
     ScalarMem i h s sid t → (o = .weak ∨ scopeWide m.scope = false) → fits u .global (mBytes ty) va →
      inL1 s0 u.coreId u.ctx va.toNat (mBytes ty) →
      ScalarLoaded i s sid t ty sd (l1Val s0 u.coreId u.ctx va.toNat (mBytes ty))) ∧
    (let i := Instr.sld h ty .global o sd m
     let u := teamAtIssue i s sid t
     let s0 := atIssue i s sid t
     let va := laneAddr i s sid t m 0
     ScalarMem i h s sid t → o ≠ .weak → scopeWide m.scope = true → (o = .sc → Released s0 u) → fits u .global (mBytes ty) va →
      atHome s0 u.coreId u.ctx va.toNat (mBytes ty) → heldEntries s0 u.coreId < Config.generalMshr →
      ScalarLoaded i s sid t ty sd (homeVal s0 u.ctx va.toNat (mBytes ty))) ∧
    (let i := Instr.sld h ty .global .weak (.s a) m
     let u := teamAtIssue i s sid t
     let s0 := atIssue i s sid t
     let va := laneAddr i s sid t m 0
     ∀ tr, ScalarMem i h s sid t → a ≠ 0 → fits u .global (mBytes ty) va → s0.l1? u.coreId u.ctx (lineNo va) = none →
      s0.home? u.ctx (lineNo va) = none → (∀ f ∈ s0.fills, f.line ≠ lineNo va) →
      tlbFind s0 (unitOf (lineNo va * 64)) u.ctx (lineNo va * 64) .read = some tr → tr.peer = none →
      poisonedKey s0 (physKey s0 (lineAt tr (lineNo va))) = false → heldEntries s0 u.coreId < Config.generalMshr →
      ∃ s' t', exec i s = .next s' ∧ s'.team? sid = some t' ∧ t'.pc = u.pc + 12 ∧
        t'.sr a.toNat = BitVec.ofNat 64 (mExtend ty 64 (leNat (memRead s0.mem (physKey s0 (lineAt tr (lineNo va)) + lineOff va) (mBytes ty)))))

/-- R104, R198-R201, R205: a store of a team, weak or at team or core scope, whose line the L1 holds with a translation that grants it writes the L1 and
nothing else, pass by pass. -/
def Obligations.GlobalStores : Prop :=
  ∀ (h : Hdr) (ty : MTy) (o : Ord) (d : VIdx) (a : SIdx) (m : MemOp) (s : State) (sid : Nat) (t : Team),
    (let i := Instr.vst h ty .global o d m
     let en := enableOf i h s sid t
     let u := teamAtIssue i s sid t
     let s0 := atIssue i s sid t
     let ad (l : Nat) := laneAddr i s sid t m l
     MemRuns i h s sid t → (o = .weak ∨ scopeWide m.scope = false) →
      (∀ l ∈ passOf (runOf u en), fits u .global (mBytes ty) (ad l) ∧ mayStore s0 u.coreId u.ctx (ad l).toNat) →
      L1Stored i s sid t en (mBytes ty) ad (storeVal i s sid t ty d)) ∧
    (let i := Instr.sst h ty .global o a m
     let u := teamAtIssue i s sid t
     let s0 := atIssue i s sid t
     let va := laneAddr i s sid t m 0
     ScalarMem i h s sid t → (o = .weak ∨ scopeWide m.scope = false) → fits u .global (mBytes ty) va →
      mayStore s0 u.coreId u.ctx va.toNat →
      L1Stored i s sid t 1 (mBytes ty) (fun _ => va) (fun _ => storeValS i s sid t ty a))

/-- R104, R196, R197, R205, R359: lanes that fail a check are not performed; when the last pass is done the trap holds the lowest cause, the address of
the lowest lane that has it and every faulting lane; a scalar-side access faults with the active mask. Where the spec leaves a choice it rests on the
model's, log 103. -/
def Obligations.LaneFaults : Prop :=
  ∀ (h : Hdr) (ty : MTy) (sp : Space) (d : VIdx) (a : SIdx) (m : MemOp) (s : State) (sid : Nat) (t : Team) (entry : Word),
    (let i := Instr.vld h ty sp .weak d m
     let en := enableOf i h s sid t
     let u := teamAtIssue i s sid t
     let s0 := atIssue i s sid t
     let ad (l : Nat) := laneAddr i s sid t m l
     let res (l : Nat) : LaneGot := match laneCheck u sp (mBytes ty) (ad l) with
       | some c => .out (.bad c (ad l))
       | none => .val (leNat (spadRead s0 u.coreId (bankOff u sp l (ad l)) (mBytes ty)))
     let r := runOf u en
     let all := r.got ++ (passOf r).map (fun l => (l, res l))
     ∀ f c a, MemIssues i h s sid t → sp ≠ .global → ¬(en = u.lanes ∧ uniformAddr u m = true) →
      overBudget u ((List.range (mRegs ty)).map (fun k => (d.toNat + k, Tag.g))) = false →
      HasHandler s0 u entry → u.inTrap = false → restOf r = 0 → (all.map Prod.fst).Nodup →
      (∀ e ∈ all, (∃ x, e.2 = .val x) ∨ ∃ k b, e.2 = .out (.bad k b)) → (f, LaneGot.out (.bad c a)) ∈ all →
      (∀ l k b, (l, LaneGot.out (.bad k b)) ∈ all → c.toNat < k.toNat ∨ (c = k ∧ f ≤ l)) →
      ∃ s' t', exec i s = .next s' ∧ s'.team? sid = some t' ∧ InHandler t' entry c a t'.fmask u.pc ∧
        (∀ l, l < u.w → (t'.fmask.getLsbD l = true ↔ ∃ k b, (l, LaneGot.out (.bad k b)) ∈ all)) ∧
        (∀ l k, l < u.w → k < mRegs ty → (t'.vr (d.toNat + k)).lane l =
          match Tab.find (valsOf all) l with
          | some x => BitVec.ofNat 32 (mExtend ty 32 x / 2 ^ (32 * k))
          | none => (u.vr (d.toNat + k)).lane l)) ∧
    (let i := Instr.vld h ty sp .weak d m
     let en := enableOf i h s sid t
     let u := teamAtIssue i s sid t
     let s0 := atIssue i s sid t
     let ad (l : Nat) := laneAddr i s sid t m l
     let res (l : Nat) : LaneGot := match laneCheck u sp (mBytes ty) (ad l) with
       | some c => .out (.bad c (ad l))
       | none => .val (leNat (spadRead s0 u.coreId (bankOff u sp l (ad l)) (mBytes ty)))
     MemIssues i h s sid t → sp ≠ .global → ¬(en = u.lanes ∧ uniformAddr u m = true) →
      overBudget u ((List.range (mRegs ty)).map (fun k => (d.toNat + k, Tag.g))) = false → restOf (runOf u en) ≠ 0 →
      MemPass i s sid t en [] res (SameMemory s0) (fun _ => True)) ∧
    (let i := Instr.sst h ty .global .weak a m
     let u := teamAtIssue i s sid t
     let s0 := atIssue i s sid t
     let va := laneAddr i s sid t m 0
     ScalarMem i h s sid t → HasHandler s0 u entry → u.inTrap = false → va.toNat % mBytes ty ≠ 0 →
      (va.toNat < 2 ^ 56 ∨ 2 ^ 64 - 2 ^ 56 ≤ va.toNat) →
      ∃ s' t', exec i s = .next s' ∧ s'.team? sid = some t' ∧ InHandler t' entry Cause.misaligned va (u.mask &&& u.lanes) u.pc ∧
        SameRegs u t' [] ∧ SameBytes s0 s') ∧
    (let i := Instr.sst h ty .global .weak a m
     let u := teamAtIssue i s sid t
     let s0 := atIssue i s sid t
     let va := laneAddr i s sid t m 0
     ScalarMem i h s sid t → HasHandler s0 u entry → u.inTrap = false → 2 ^ 56 ≤ va.toNat → va.toNat < 2 ^ 64 - 2 ^ 56 →
      ∃ s' t', exec i s = .next s' ∧ s'.team? sid = some t' ∧ InHandler t' entry Cause.noncanonical va (u.mask &&& u.lanes) u.pc ∧
        SameRegs u t' [] ∧ SameBytes s0 s')

/-- R104, R199, R286, R287: an atomic returns the old value and leaves the new one, which a failed `cas` does not; lanes of a pass that name one location
go in ascending order; a scratchpad atomic changes the bank's bytes, one at die scope or wider the home's. Where the spec leaves a choice it rests on
the model's, log 19 and 27. -/
def Obligations.Atomics : Prop :=
  ∀ (h : Hdr) (ty : ATy) (op : AOp) (o : AOrd) (d : VIdx) (sd sa : SIdx) (a : Src) (m : MemOp) (s : State) (sid : Nat) (t : Team),
    (let i := Instr.vatom h ty op o d a m
     let en := enableOf i h s sid t
     let u := teamAtIssue i s sid t
     let s0 := atIssue i s sid t
     let r := runOf u en
     let ad (l : Nat) := laneAddr i s sid t m l
     let n := aBits ty / 8
     let x (l : Nat) := laneA i s sid t (aWide ty) a l
     let c (l : Nat) := laneA i s sid t (aWide ty) (.v d) l
     let old (l : Nat) := leNat (spadRead s0 u.coreId (bankOff u .spad l (ad l)) n)
     MemRuns i h s sid t → m.pol = true → Quiet u → r.got.length ≤ 992 → (∀ l ∈ passOf r, fits u .spad n (ad l)) →
      overBudget u ((List.range (n / 4)).map (fun k => (d.toNat + k, Tag.g))) = false →
      (∀ l ∈ passOf r, ∀ k ∈ passOf r, l ≠ k → ad l ≠ ad k) →
      MemPass i s sid t en (regsOf d (n / 4)) (fun l => .val (old l))
        (fun s' =>
          (∀ l ∈ passOf r, leNat (spadRead s' u.coreId (bankOff u .spad l (ad l)) n) =
            ((atomNew ty op (old l) (x l) (c l)).1.getD (old l)) % 2 ^ aBits ty) ∧
          (∀ b, (∀ l ∈ passOf r, ∀ j, j < n → laneKey u .spad l (ad l) j ≠ b) → spadByte s' b = spadByte s0 b) ∧
          ∀ b, memByte s'.mem b = memByte s0.mem b)
        (fun t' => ∀ l k, l < u.w → k < n / 4 → (t'.vr (d.toNat + k)).lane l =
          match broughtBack r old l with
          | some v => BitVec.ofNat 32 (v / 2 ^ (32 * k))
          | none => (u.vr (d.toNat + k)).lane l)) ∧
    (let i := Instr.vatom h ty op o d a m
     let en := enableOf i h s sid t
     let u := teamAtIssue i s sid t
     let s0 := atIssue i s sid t
     let r := runOf u en
     let n := aBits ty / 8
     let at_ := laneAddr i s sid t m ((passOf r).headD 0)
     let x (l : Nat) := laneA i s sid t (aWide ty) a l
     let c (l : Nat) := laneA i s sid t (aWide ty) (.v d) l
     let run (ls : List Nat) : Nat := ls.foldl (fun w l => ((atomNew ty op w (x l) (c l)).1.getD w) % 2 ^ aBits ty)
      (leNat (spadRead s0 u.coreId (bankOff u .spad 0 at_) n))
     let old (l : Nat) : Nat := run ((passOf r).filter (fun j => decide (j < l)))
     MemRuns i h s sid t → m.pol = true → Quiet u → r.got.length ≤ 992 → fits u .spad n at_ →
      overBudget u ((List.range (n / 4)).map (fun k => (d.toNat + k, Tag.g))) = false →
      (∀ l ∈ passOf r, laneAddr i s sid t m l = at_) →
      MemPass i s sid t en (regsOf d (n / 4)) (fun l => .val (old l))
        (fun s' => leNat (spadRead s' u.coreId (bankOff u .spad 0 at_) n) = run (passOf r))
        (fun t' => ∀ l k, l < u.w → k < n / 4 → (t'.vr (d.toNat + k)).lane l =
          match broughtBack r old l with
          | some v => BitVec.ofNat 32 (v / 2 ^ (32 * k))
          | none => (u.vr (d.toNat + k)).lane l)) ∧
    (let i := Instr.satom h ty op o sd sa m
     let u := teamAtIssue i s sid t
     let s0 := atIssue i s sid t
     let va := laneAddr i s sid t m 0
     let n := aBits ty / 8
     let old := leNat (spadRead s0 u.coreId (bankOff u .spad 0 va) n)
     let x := (srcA i s sid t (.s sa)).toNat % 2 ^ aBits ty
     let c := (srcA i s sid t (.s sd)).toNat % 2 ^ aBits ty
     ScalarMem i h s sid t → m.pol = true → Quiet u → fits u .spad n va →
      ∃ s' t', exec i s = .next s' ∧ s'.team? sid = some t' ∧ t'.pc = u.pc + 12 ∧ SameRegs u t' [.s sd.toNat] ∧
        (sd ≠ 0 → t'.sr sd.toNat = extS (aSigned ty) (aWide ty) old) ∧
        leNat (spadRead s' u.coreId (bankOff u .spad 0 va) n) = ((atomNew ty op old x c).1.getD old) % 2 ^ aBits ty) ∧
    (let i := Instr.satom h ty op o sd sa m
     let u := teamAtIssue i s sid t
     let s0 := atIssue i s sid t
     let va := laneAddr i s sid t m 0
     let n := aBits ty / 8
     let old := homeVal s0 u.ctx va.toNat n
     let x := (srcA i s sid t (.s sa)).toNat % 2 ^ aBits ty
     let c := (srcA i s sid t (.s sd)).toNat % 2 ^ aBits ty
     ∀ g, ScalarMem i h s sid t → m.pol = false → m.scope = .die ∨ m.scope = .device → o = .rlx → Quiet u → fits u .global n va →
      s0.home? u.ctx (lineNo va) = some g → g.tr.grants s0.rt = true → byteRange (lineOff va) n &&& ~~~ g.valid = 0 →
      s0.l1? u.coreId u.ctx (lineNo va) = none → s0.tracked = [] → sealedAt s0 u.ctx va.toNat = false →
      (∀ f ∈ s0.far, f.sid ≠ sid) → heldEntries s0 u.coreId < Config.generalMshr →
      ∃ s' t', exec i s = .next s' ∧ s'.team? sid = some t' ∧ t'.pc = u.pc + 12 ∧ SameRegs u t' [.s sd.toNat] ∧
        (sd ≠ 0 → t'.sr sd.toNat = extS (aSigned ty) (aWide ty) old) ∧
        homeVal s' u.ctx va.toNat n = ((atomNew ty op old x c).1.getD old) % 2 ^ aBits ty)

/-- R200, R201, R206-R208, R220, R265, R267, R296: a fence that releases at a wide scope leaves no dirty byte of the context in the L1, and the dirty
bytes it held are at their homes; one that acquires leaves no clean byte; `fence.sc` takes a ticket; `cflush` leaves the lanes' lines clean, their
bytes at the home, and at system scope in memory, and `cinval` removes them besides, at system scope from the home too; `pf` changes no register; each
of these three waits while a commit holds a line it names; `twait` waits for its registers and goes on once they have landed, having read them. Where
the spec leaves a choice it rests on the model's, log 53. -/
def Obligations.FencesAndLines : Prop :=
  ∀ (h : Hdr) (sc : Scope) (o : FOrd) (m : MemOp) (a : SIdx) (n : Option (BitVec 32)) (s : State) (sid : Nat) (t : Team),
    (let i := Instr.fence h sc o
     let u := teamAtIssue i s sid t
     let s0 := atIssue i s sid t
     Runs i h s sid t → u.region = none → (∀ q ∈ s0.wq, q.sid ≠ sid) → ∃ s' t', exec i s = .next s' ∧ s'.team? sid = some t' ∧ t'.pc = u.pc + 12 ∧ SameRegs u t' [] ∧ SameHeld u t' ∧
        (scopeWide sc = true → fenceRel o = true → WrittenBack s0 s' u) ∧
        (scopeWide sc = true → fenceAcq o = true → ∀ x ∈ s'.l1, x.core = u.coreId → x.ctx = u.ctx → x.valid = x.dirty) ∧
        s'.ticket = s0.ticket + (if o = .sc then 1 else 0)) ∧
    (let i := Instr.cflush h m
     let en := enableOf i h s sid t
     let u := teamAtIssue i s sid t
     Clear i s sid t → en ≠ 0 → u.region = none →
      (activeLines (viewAtIssue i s sid t) h m).any (fun l => held (atIssue i s sid t) u (l * 64) 64 false) = false →
      ∃ s' t', exec i s = .next s' ∧ s'.team? sid = some t' ∧ t'.pc = u.pc + 12 ∧ SameRegs u t' [] ∧ SameHeld u t' ∧
        (∀ l ∈ lanesOf i s sid t en, ∀ x, s'.l1? u.coreId u.ctx (lineNo (laneAddr i s sid t m l)) = some x → x.tr ≠ none →
          canonical (laneAddr i s sid t m l) = true → x.dirty = 0) ∧
        (HomesRoom (atIssue i s sid t) → ∀ l ∈ lanesOf i s sid t en, canonical (laneAddr i s sid t m l) = true →
          ∀ x, x.core = u.coreId → x.ctx = u.ctx → x.line = lineNo (laneAddr i s sid t m l) → MayArrive (atIssue i s sid t) x →
          Arrived s' x ∧ (m.scope = .system → (∀ tr, x.tr = some tr → Apart (atIssue i s sid t) (physKey (atIssue i s sid t) (lineAt tr x.line)) x.ctx x.line) → InMemory s' x))) ∧
    (let i := Instr.cinval h m
     let en := enableOf i h s sid t
     let u := teamAtIssue i s sid t
     Clear i s sid t → en ≠ 0 → u.region = none →
      (activeLines (viewAtIssue i s sid t) h m).any (fun l => held (atIssue i s sid t) u (l * 64) 64 false) = false →
      ∃ s' t', exec i s = .next s' ∧ s'.team? sid = some t' ∧ t'.pc = u.pc + 12 ∧ SameRegs u t' [] ∧ SameHeld u t' ∧
        (∀ l ∈ lanesOf i s sid t en, canonical (laneAddr i s sid t m l) = true →
          s'.l1? u.coreId u.ctx (lineNo (laneAddr i s sid t m l)) = none) ∧
        (HomesRoom (atIssue i s sid t) → ∀ l ∈ lanesOf i s sid t en, canonical (laneAddr i s sid t m l) = true →
          ∀ x, x.core = u.coreId → x.ctx = u.ctx → x.line = lineNo (laneAddr i s sid t m l) → MayArrive (atIssue i s sid t) x →
          (m.scope ≠ .system → Arrived s' x) ∧
          (m.scope = .system → s'.home? u.ctx x.line = none ∧ ((∀ tr, x.tr = some tr → Apart (atIssue i s sid t) (physKey (atIssue i s sid t) (lineAt tr x.line)) x.ctx x.line) → InMemory s' x)))) ∧
    (let i := Instr.pf h m
     let en := enableOf i h s sid t
     let u := teamAtIssue i s sid t
     Clear i s sid t → en ≠ 0 →
      (activeLines (viewAtIssue i s sid t) h m).any (fun l => held (atIssue i s sid t) u (l * 64) 64 false) = false →
      ∃ s' t', exec i s = .next s' ∧ s'.team? sid = some t' ∧ t'.pc = u.pc + 12 ∧ SameRegs u t' [] ∧ SameHeld u t') ∧
    (let i := Instr.twait h a n
     let u := teamAtIssue i s sid t
     let regs := (List.range (n.getD 1).toNat).map (fun k => RegName.s (a.toNat + k))
     Runs i h s sid t → (∀ r ∈ regs, ∀ e ∈ u.sb, e.reg ≠ r) →
      exec i s = .next (fallen i s sid t (readTokens (atIssue i s sid t) sid u regs) 1)) ∧
    (let i := Instr.twait h a n
     let u := teamAtIssue i s sid t
     ∀ k, Runs i h s sid t → k < (n.getD 1).toNat → (∃ e ∈ u.sb, e.reg = .s (a.toNat + k)) →
      (∀ j, j < k → ∀ e ∈ u.sb, e.reg ≠ .s (a.toNat + j)) →
      Waits i s sid t (.result (.s (a.toNat + k)))) ∧
    (let i := Instr.pf h m
     let lines := activeLines (viewAtIssue i s sid t) h m
     Clear i s sid t → enableOf i h s sid t ≠ 0 →
      lines.any (fun l => held (atIssue i s sid t) (teamAtIssue i s sid t) (l * 64) 64 false) = true →
      Waits i s sid t (.held false (lines.map (fun l => (l * 64, 64))))) ∧
    (let i := Instr.cflush h m
     let lines := activeLines (viewAtIssue i s sid t) h m
     Clear i s sid t → enableOf i h s sid t ≠ 0 →
      lines.any (fun l => held (atIssue i s sid t) (teamAtIssue i s sid t) (l * 64) 64 false) = true →
      Waits i s sid t (.held false (lines.map (fun l => (l * 64, 64))))) ∧
    (let i := Instr.cinval h m
     let lines := activeLines (viewAtIssue i s sid t) h m
     Clear i s sid t → enableOf i h s sid t ≠ 0 →
      lines.any (fun l => held (atIssue i s sid t) (teamAtIssue i s sid t) (l * 64) 64 false) = true →
      Waits i s sid t (.held false (lines.map (fun l => (l * 64, 64)))))

/-- R209-R211: a range that is misaligned, empty, not canonical, overlapping or one too many is refused with its status and no other effect; a sealed
range joins the context's, and every dirty byte of it in any cache has been written back to memory, with what is queued for it; `unseal` of one
answers 0, and the range stays sealed until that status lands (the landing is stated with the caches' steps). Where the spec leaves a choice it rests
on the model's, log 30. -/
def Obligations.Sealing : Prop :=
  ∀ (h : Hdr) (d a : SIdx) (b : SI) (s : State) (sid : Nat) (t : Team),
    (let i := Instr.seal h d a b
     let u := teamAtIssue i s sid t
     let s0 := atIssue i s sid t
     let start := (srcA i s sid t (.s a)).toNat
     let len := ((viewAtIssue i s sid t).si b).toNat
     let within (ctx line : Nat) : Bool := ctx == u.ctx && lineIn start len line
     ∀ c, Runs i h s sid t → u.region = none → s0.ctx? u.ctx = some c →
      let ends (status : Word) (P : State → Ctx → Prop) : Prop :=
        ∃ s' t' c', exec i s = .next s' ∧ s'.team? sid = some t' ∧ t'.pc = u.pc + 12 ∧ Holds t' d status ∧ SameRegs u t' [.s d.toNat] ∧
          s'.ctx? u.ctx = some c' ∧ P s' c'
      let refused (status : Word) : Prop := ends status (fun s' c' => c'.seals = c.seals ∧ SameBytes s0 s')
      if start % 4096 ≠ 0 ∨ len = 0 ∨ len % 4096 ≠ 0 ∨ ¬(start + len ≤ 2 ^ 56 ∨ (2 ^ 64 - 2 ^ 56 ≤ start ∧ start + len ≤ 2 ^ 64)) then refused 3
      else if ∃ r ∈ c.seals, start < r.1 + r.2 ∧ r.1 < start + len then refused 2
      else if 32 ≤ c.seals.length then refused 1
      else (∀ q ∈ s0.wq, q.sid ≠ sid) → ends 0 (fun s' c' => c'.seals = c.seals ++ [(start, len)] ∧
        (∀ x ∈ s'.l1, within x.ctx x.line = true → x.tr ≠ none → x.dirty = 0) ∧ (∀ g ∈ s'.homes, within g.ctx g.line = true → g.dirty = 0) ∧
        (∀ q ∈ s'.wq, within q.ctx q.line = false) ∧
        (HomesRoom s0 → ∀ x, within x.ctx x.line = true → MayArrive s0 x → (∀ y ∈ s0.l1, y.ctx = x.ctx → y.line = x.line → y.core ≠ x.core → y.dirty = 0) →
          (∀ tr, x.tr = some tr → Apart s0 (physKey s0 (lineAt tr x.line)) x.ctx x.line) → InMemory s' x) ∧
        (HomesRoom s0 → ∀ g ∈ s0.homes, within g.ctx g.line = true → (∀ y ∈ s0.l1, y.ctx = g.ctx → y.line = g.line → y.dirty = 0) →
          (∀ q ∈ s0.wq, q.line ≠ g.line) → Apart s0 (physKey s0 g.pa) g.ctx g.line → (∀ g' ∈ s0.homes, g'.ctx = g.ctx → g'.line = g.line → g' = g) →
          ∀ b, b < 64 → g.dirty.getLsbD b = true → memByte s'.mem (physKey s0 g.pa + b) = lineByte g.data b))) ∧
    (let i := Instr.unseal h d a
     let u := teamAtIssue i s sid t
     let s0 := atIssue i s sid t
     ∀ c, Runs i h s sid t → u.openRegion = none → s0.ctx? u.ctx = some c →
      (∀ r ∈ c.seals, r.1 ≠ (srcA i s sid t (.s a)).toNat) →
      ∃ s' t' c', exec i s = .next s' ∧ s'.team? sid = some t' ∧ t'.pc = u.pc + 12 ∧ t'.sr d.toNat = (if d = 0 then 0 else 4) ∧ SameRegs u t' [.s d.toNat] ∧
        s'.ctx? u.ctx = some c' ∧ c'.seals = c.seals ∧ SameBytes s0 s') ∧
    (let i := Instr.unseal h d a
     let u := teamAtIssue i s sid t
     let s0 := atIssue i s sid t
     ∀ c r, Runs i h s sid t → u.openRegion = none → s0.ctx? u.ctx = some c →
      c.seals.find? (fun r => r.1 == (srcA i s sid t (.s a)).toNat) = some r →
      ∃ s' t' c' e, exec i s = .next s' ∧ s'.team? sid = some t' ∧ t'.pc = u.pc + 12 ∧ t'.sr d.toNat = (if d = 0 then 0 else 0) ∧ SameRegs u t' [.s d.toNat] ∧
        e ∈ t'.sb ∧ e.reg = .s d.toNat ∧ s'.ctx? u.ctx = some c' ∧ c'.seals = c.seals ∧ c'.unseals = c.unseals ++ [(e.tok, r.1, r.2)] ∧ SameBytes s0 s')

/-- R212, R213, R215, R217-R219: a copy that passes its checks is queued with its descriptor and its token is to come in D; a gather table that is
misaligned is its failure, no row made; a format error traps with the immediate; at the limit of copies in flight the team waits. -/
def Obligations.Copies : Prop :=
  ∀ (h : Hdr) (d a : SIdx) (k : CpyImm) (s : State) (sid : Nat) (t : Team),
    (let i := Instr.cpy h d a k
     let u := teamAtIssue i s sid t
     let s0 := atIssue i s sid t
     let c := u.coreId
     let D : BitVec 256 := BitVec.ofNat 256 (scalars i s sid t a 4)
     Runs i h s sid t → u.region = none → (s0.core c).copies.length < 32 →
      (∀ j : CopyJob, j.out = false → j.imm = k → j.desc = D → copyCheck s0 u j = none) →
      Goes i s sid t [.s d.toNat] (fun s' t' =>
        (∃ j : CopyJob, (s'.core c).copies = (s0.core c).copies ++ [j] ∧ j.out = false ∧ j.imm = k ∧ j.desc = D ∧ j.sid = sid ∧ j.tkey = u.key ∧
          j.reg = d.toNat ∧ j.row = 0 ∧ j.rows = 0 ∧ j.bytes = 0 ∧
          (j.failed = none ↔ (D.extractLsb' 192 64).toNat % 4 = 0)) ∧ Awaited t' d ∧ SameBytes s0 s')) ∧
    (let i := Instr.cpyout h d a k
     let u := teamAtIssue i s sid t
     let s0 := atIssue i s sid t
     let c := u.coreId
     let D : BitVec 256 := BitVec.ofNat 256 (scalars i s sid t a 4)
     Runs i h s sid t → u.region = none → (s0.core c).copies.length < 32 →
      (∀ j : CopyJob, j.out = true → j.imm = k → j.desc = D → copyCheck s0 u j = none) →
      Goes i s sid t [.s d.toNat] (fun s' t' =>
        (∃ j : CopyJob, (s'.core c).copies = (s0.core c).copies ++ [j] ∧ j.out = true ∧ j.imm = k ∧ j.desc = D ∧ j.sid = sid ∧ j.tkey = u.key ∧
          j.reg = d.toNat ∧ j.row = 0 ∧ j.rows = 0 ∧ j.bytes = 0 ∧
          (j.failed = none ↔ (D.extractLsb' 192 64).toNat % 4 = 0)) ∧ Awaited t' d ∧ SameBytes s0 s')) ∧
    (let i := Instr.cpy h d a k
     Runs i h s sid t → (teamAtIssue i s sid t).region = none → (scalars i s sid t a 3).testBit 191 = true ∨ (k.kind = 2 ∧ k.fmt ≠ 8) →
      Traps i s sid t Cause.formatInvalid
        (BitVec.ofNat 64 (k.fmt.toNat + k.kind.toNat * 2 ^ 4 + k.group.toNat * 2 ^ 8 + (if k.count then 2 ^ 16 else 0)))) ∧
    (let i := Instr.cpyout h d a k
     Runs i h s sid t → (teamAtIssue i s sid t).region = none → (scalars i s sid t a 3).testBit 191 = true ∨ (k.kind = 2 ∧ k.fmt ≠ 8) →
      Traps i s sid t Cause.formatInvalid
        (BitVec.ofNat 64 (k.fmt.toNat + k.kind.toNat * 2 ^ 4 + k.group.toNat * 2 ^ 8 + (if k.count then 2 ^ 16 else 0)))) ∧
    (let i := Instr.cpy h d a k
     let u := teamAtIssue i s sid t
     let s0 := atIssue i s sid t
     Runs i h s sid t → u.region = none → 32 ≤ (s0.core u.coreId).copies.length →
      (∀ j : CopyJob, j.out = false → j.imm = k → j.desc = BitVec.ofNat 256 (scalars i s sid t a 4) → copyCheck s0 u j = none) →
      Waits i s sid t .calderaFull) ∧
    (let i := Instr.cpyout h d a k
     let u := teamAtIssue i s sid t
     let s0 := atIssue i s sid t
     Runs i h s sid t → u.region = none → 32 ≤ (s0.core u.coreId).copies.length →
      (∀ j : CopyJob, j.out = true → j.imm = k → j.desc = BitVec.ofNat 256 (scalars i s sid t a 4) → copyCheck s0 u j = none) →
      Waits i s sid t .calderaFull)

/-- R240, R243, R248, R249, R255-R257: a matrix instruction that passes its checks enters its core's queue, `mma2` those of both cores of its twin, with
its tile, version, descriptor and index lanes; operands of two kinds trap. Where the spec leaves a choice it rests on the model's, log 36 and 40. -/
def Obligations.MatrixOperations : Prop :=
  ∀ (h : Hdr) (d : AIdx) (a : SIdx) (x : VIdx) (bf add spad : Bool) (v : BitVec 16) (s : State) (sid : Nat) (t : Team),
    (let i := Instr.mma h d x a
     let u := teamAtIssue i s sid t
     let s0 := atIssue i s sid t
     let c := u.coreId
     let D : MDesc := BitVec.ofNat 128 (scalars i s sid t a 2)
     let I := (List.range 64).map ((viewAtIssue i s sid t).lane x.toNat)
     Runs i h s sid t → mdAkd D ≤ 1 → mdBkd D = mdAkd D → 1 ≤ mdKg D → mdKg D ≤ (if mdAkd D = 1 then 16 else 4) →
      (∀ r ∈ aRanges D I ++ bRanges D, r.len = 0 ∨ r.off + r.len ≤ u.spadLen) → matrixFree s0 c false = true →
      Goes i s sid t [] (fun s' _ =>
        (∃ e : MEntry, (s'.core c).matrix = (s0.core c).matrix ++ [e] ∧ e.op = .mma ∧ e.tile = d.toNat ∧ e.desc = D ∧ e.stage = .waiting ∧
          e.sid = sid ∧ e.tkey = u.key ∧ e.ver = mdVer D ∧ e.idx = I) ∧
          (∀ k, (s'.core k).tiles = (s0.core k).tiles ∧ (s'.core k).counters = (s0.core k).counters) ∧ SameBytes s0 s')) ∧
    (let i := Instr.mma2 h d x a
     let u := teamAtIssue i s sid t
     let s0 := atIssue i s sid t
     let c := u.coreId
     let D : MDesc := BitVec.ofNat 128 (scalars i s sid t a 2)
     let I := (List.range 128).map ((viewAtIssue i s sid t).lane x.toNat)
     Runs i h s sid t → mdAkd D ≤ 1 → mdBkd D = mdAkd D → 1 ≤ mdKg D → mdKg D ≤ (if mdAkd D = 1 then 16 else 4) →
      (∀ r ∈ aRanges D I ++ bRanges D, r.len = 0 ∨ r.off + r.len ≤ u.spadLen) → matrixFree s0 c true = true →
      Goes i s sid t [] (fun s' _ =>
        (∃ e : MEntry, (s'.core c).matrix = (s0.core c).matrix ++ [e] ∧ (s'.core (c + 1)).matrix = (s0.core (c + 1)).matrix ++ [{ e with odd := true }] ∧ e.op = .mma2 ∧ e.tile = d.toNat ∧ e.desc = D ∧ e.stage = .waiting ∧
          e.sid = sid ∧ e.tkey = u.key ∧ e.ver = mdVer D ∧ e.idx = I) ∧
          (∀ k, (s'.core k).tiles = (s0.core k).tiles ∧ (s'.core k).counters = (s0.core k).counters) ∧ SameBytes s0 s')) ∧
    (let i := Instr.mma h d x a
     let D : MDesc := BitVec.ofNat 128 (scalars i s sid t a 2)
     Runs i h s sid t → mdAkd D ≤ 1 → mdBkd D ≤ 1 → mdAkd D ≠ mdBkd D → 1 ≤ mdKg D → mdKg D ≤ 4 →
      Traps i s sid t Cause.matrixKind (BitVec.ofNat 64 (mdAkd D + 4 * mdBkd D))) ∧
    (let i := Instr.mma2 h d x a
     let D : MDesc := BitVec.ofNat 128 (scalars i s sid t a 2)
     Runs i h s sid t → mdAkd D ≤ 1 → mdBkd D ≤ 1 → mdAkd D ≠ mdBkd D → 1 ≤ mdKg D → mdKg D ≤ 4 →
      Traps i s sid t Cause.matrixKind (BitVec.ofNat 64 (mdAkd D + 4 * mdBkd D))) ∧
    (let i := Instr.mzero h d v
     let u := teamAtIssue i s sid t
     let s0 := atIssue i s sid t
     let c := u.coreId
     Runs i h s sid t → matrixFree s0 c false = true →
      Goes i s sid t [] (fun s' _ =>
        ∃ e : MEntry, (s'.core c).matrix = (s0.core c).matrix ++ [e] ∧ e.op = .mzero ∧ e.tile = d.toNat ∧ e.ver = v.toNat ∧ e.stage = .waiting ∧
          e.sid = sid ∧ e.tkey = u.key ∧ SameBytes s0 s')) ∧
    (let i := Instr.mzero h d v
     let u := teamAtIssue i s sid t
     let s0 := atIssue i s sid t
     Runs i h s sid t → matrixFree s0 u.coreId false = false → Waits i s sid t .matrixFull) ∧
    (let i := Instr.mload h bf spad d a
     let u := teamAtIssue i s sid t
     let s0 := atIssue i s sid t
     let c := u.coreId
     let D : MDesc := BitVec.ofNat 128 (scalars i s sid t a 2)
     let e := if bf then 2 else 4
     Runs i h s sid t → (spad = true ∨ u.region = none) → D.extractLsb' 96 16 = 0 → tdAddr D % e = 0 → tdPitch D % e = 0 →
      (∀ r, r < 64 → if spad then tdAddr D + r * tdPitch D + 64 * e ≤ u.spadLen
        else canonical (BitVec.ofNat 64 (tdAddr D + r * tdPitch D)) = true ∧
          canonical (BitVec.ofNat 64 (tdAddr D + r * tdPitch D + 63 * e)) = true) →
      matrixFree s0 c false = true →
      Goes i s sid t [] (fun s' _ =>
        (∃ e : MEntry, (s'.core c).matrix = (s0.core c).matrix ++ [e] ∧ e.op = .mload bf spad ∧ e.tile = d.toNat ∧ e.desc = D ∧ e.stage = .waiting ∧
          e.sid = sid ∧ e.tkey = u.key ∧ e.ver = tdVer D) ∧
          (∀ k, (s'.core k).tiles = (s0.core k).tiles ∧ (s'.core k).counters = (s0.core k).counters) ∧ SameBytes s0 s')) ∧
    (let i := Instr.mdrain h bf add spad d a
     let u := teamAtIssue i s sid t
     let s0 := atIssue i s sid t
     let c := u.coreId
     let D : MDesc := BitVec.ofNat 128 (scalars i s sid t a 2)
     let e := if bf then 2 else 4
     Runs i h s sid t → (spad = true ∨ u.region = none) → D.extractLsb' 96 16 = 0 → tdAddr D % e = 0 → tdPitch D % e = 0 →
      (∀ r, r < 64 → if spad then tdAddr D + r * tdPitch D + 64 * e ≤ u.spadLen
        else canonical (BitVec.ofNat 64 (tdAddr D + r * tdPitch D)) = true ∧
          canonical (BitVec.ofNat 64 (tdAddr D + r * tdPitch D + 63 * e)) = true) →
      matrixFree s0 c false = true →
      Goes i s sid t [] (fun s' _ =>
        (∃ e : MEntry, (s'.core c).matrix = (s0.core c).matrix ++ [e] ∧ e.op = .mdrain bf add spad ∧ e.tile = d.toNat ∧ e.desc = D ∧ e.stage = .waiting ∧
          e.sid = sid ∧ e.tkey = u.key ∧ e.ver = tdVer D) ∧
          (∀ k, (s'.core k).tiles = (s0.core k).tiles ∧ (s'.core k).counters = (s0.core k).counters) ∧ SameBytes s0 s'))

/-- R238, R258, R259: `mver` reads a tile's counter; `mwait` goes on while the counter equals its version, compared for equality alone, or has equalled it
since it began to wait, and else waits; a matrix operation that follows an `mfence` reads each byte of the scratchpad as the stores before it have
left it (how a store is told to be before it is log 39). -/
def Obligations.MatrixCounters : Prop :=
  ∀ (h : Hdr) (d : SIdx) (x : AIdx) (b : VerOp) (s : State) (sid : Nat) (t : Team),
    (let i := Instr.mver h d x
     let u := teamAtIssue i s sid t
     let s0 := atIssue i s sid t
     Runs i h s sid t →
      Goes i s sid t [.s d.toNat] (fun s' t' =>
        Holds t' d ((counterOf s0 u.coreId x.toNat).setWidth 64) ∧ SameMemory s0 s' ∧ s'.homes = s0.homes)) ∧
    (let i := Instr.mwait h x b
     let u := teamAtIssue i s sid t
     let s0 := atIssue i s sid t
     let v : BitVec 16 := (match b with | .s n => (viewAtIssue i s sid t).sr n.toNat | .imm k => k.setWidth 64).setWidth 16
     Runs i h s sid t → counterOf s0 u.coreId x.toNat = v ∨ u.mwaitHit = true →
      Goes i s sid t [] (fun s' _ =>
        SameMemory s0 s' ∧ s'.homes = s0.homes)) ∧
    (let i := Instr.mwait h x b
     let u := teamAtIssue i s sid t
     let s0 := atIssue i s sid t
     let v : BitVec 16 := (match b with | .s n => (viewAtIssue i s sid t).sr n.toNat | .imm k => k.setWidth 64).setWidth 16
     Runs i h s sid t → counterOf s0 u.coreId x.toNat ≠ v → u.mwaitHit = false → Waits i s sid t (.version x.toNat v.toNat)) ∧
    (let i := Instr.mfence h
     let s0 := atIssue i s sid t
     Runs i h s sid t →
      Goes i s sid t [] (fun s' t' =>
        t'.fenced = s0.order ∧ SameBytes s0 s' ∧
          ∀ (e : MEntry) o, e.fenced = t'.fenced → (∀ x, Tab.find s0.spadLog (spadKey (teamAtIssue i s sid t).coreId o) = some x → x.order ≤ s0.order) →
            opByte s' (teamAtIssue i s sid t).coreId e o = spadByte s0 (spadKey (teamAtIssue i s sid t).coreId o)))

/-- R274, R277-R279: `barv` releases, sends the member's arrival for its own phase, which then advances, and its token is to come; it waits for the team's
queued writes; `bexp` adds to that phase's byte counter; a token whose phase has been left lets `bwait` go on and `btest` read 1, one of the current
phase waits or reads 0, one that names no phase or group traps; for `barv` and `bexp`, a group that is not declared, or that the team is not in,
traps. Where the spec leaves a choice it rests on the model's, log 43 and 44. -/
def Obligations.Barriers : Prop :=
  ∀ (h : Hdr) (d a : SIdx) (g : GrpOp) (s : State) (sid : Nat) (t : Team),
    (let i := Instr.barv h d g
     let u := teamAtIssue i s sid t
     let s0 := atIssue i s sid t
     let k : Nat := match g with | .s n => ((viewAtIssue i s sid t).sr n.toNat).toNat | .imm x => x.toNat
     let p := (barrierOf s0 u.lid k).narrOf u.team
     Runs i h s sid t → u.region = none → k < groupCount s0 u.lid → inGroup s0 u.lid k u.team = true → p ≠ (barrierOf s0 u.lid k).cur + 1 → (∀ q ∈ s0.wq, q.sid ≠ sid) →
      Goes i s sid t [.s d.toNat] (fun s' t' =>
        (∃ tok, s'.hub = s0.hub ++ [{ lid := u.lid, group := k, msg := .arrive u.team p sid u.key d.toNat tok }]) ∧
          (barrierOf s' u.lid k).narrOf u.team = p + 1 ∧ (barrierOf s' u.lid k).cur = (barrierOf s0 u.lid k).cur ∧ Awaited t' d ∧ WrittenBack s0 s' u)) ∧
    (let i := Instr.barv h d g
     let u := teamAtIssue i s sid t
     let s0 := atIssue i s sid t
     let k : Nat := match g with | .s n => ((viewAtIssue i s sid t).sr n.toNat).toNat | .imm x => x.toNat
     Runs i h s sid t → u.region = none → k < groupCount s0 u.lid → inGroup s0 u.lid k u.team = true → (barrierOf s0 u.lid k).narrOf u.team = (barrierOf s0 u.lid k).cur + 1 →
      Waits i s sid t (.arrive k)) ∧
    (let i := Instr.barv h d g
     let u := teamAtIssue i s sid t
     let s0 := atIssue i s sid t
     let k : Nat := match g with | .s n => ((viewAtIssue i s sid t).sr n.toNat).toNat | .imm x => x.toNat
     Runs i h s sid t → u.region = none → groupCount s0 u.lid ≤ k → Traps i s sid t Cause.illegalOperand (posVal 2 k)) ∧
    (let i := Instr.barv h d g
     let u := teamAtIssue i s sid t
     let s0 := atIssue i s sid t
     let k : Nat := match g with | .s n => ((viewAtIssue i s sid t).sr n.toNat).toNat | .imm x => x.toNat
     Runs i h s sid t → u.region = none → k < groupCount s0 u.lid → inGroup s0 u.lid k u.team = false →
      Traps i s sid t Cause.notMember (BitVec.ofNat 64 k)) ∧
    (let i := Instr.bexp h a g
     let u := teamAtIssue i s sid t
     let s0 := atIssue i s sid t
     let k : Nat := match g with | .s n => ((viewAtIssue i s sid t).sr n.toNat).toNat | .imm x => x.toNat
     let n : Nat := ((viewAtIssue i s sid t).sr a.toNat).toNat % 2 ^ 32
     let p := (barrierOf s0 u.lid k).narrOf u.team
     Runs i h s sid t → u.region = none → k < groupCount s0 u.lid → inGroup s0 u.lid k u.team = true → bytesToward s0 u.lid k p + n < 2 ^ 47 →
      Goes i s sid t [] (fun s' _ =>
        s'.hub = s0.hub ++ [{ lid := u.lid, group := k, msg := .post p n }] ∧ SameBytes s0 s')) ∧
    (let i := Instr.bexp h a g
     let u := teamAtIssue i s sid t
     let s0 := atIssue i s sid t
     let k : Nat := match g with | .s n => ((viewAtIssue i s sid t).sr n.toNat).toNat | .imm x => x.toNat
     let n : Nat := ((viewAtIssue i s sid t).sr a.toNat).toNat % 2 ^ 32
     let p := (barrierOf s0 u.lid k).narrOf u.team
     Runs i h s sid t → u.region = none → k < groupCount s0 u.lid → inGroup s0 u.lid k u.team = true → 2 ^ 47 ≤ bytesToward s0 u.lid k p + n →
      Traps i s sid t Cause.barrierOverflow (BitVec.ofNat 64 k)) ∧
    (let i := Instr.bwait h a
     let u := teamAtIssue i s sid t
     let s0 := atIssue i s sid t
     let x := (viewAtIssue i s sid t).sr a.toNat
     let k := (x.extractLsb' 16 8).toNat
     let b := barrierOf s0 u.lid k
     Runs i h s sid t → x.extractLsb' 24 40 = 0 → k < groupCount s0 u.lid → 32768 ≤ (x.extractLsb' 0 16 - b.cur).toNat → (b.ovf = false ∨ x.extractLsb' 0 16 ≠ b.cur - 1) →
      Goes i s sid t [] (fun s' _ =>
        SameMemory s0 s' ∧ s'.homes = s0.homes)) ∧
    (let i := Instr.bwait h a
     let u := teamAtIssue i s sid t
     let s0 := atIssue i s sid t
     let x := (viewAtIssue i s sid t).sr a.toNat
     let k := (x.extractLsb' 16 8).toNat
     let b := barrierOf s0 u.lid k
     Runs i h s sid t → x.extractLsb' 24 40 = 0 → k < groupCount s0 u.lid → x.extractLsb' 0 16 = b.cur →
      Waits i s sid t (.phase k (x.extractLsb' 0 16).toNat)) ∧
    (let i := Instr.bwait h a
     let u := teamAtIssue i s sid t
     let s0 := atIssue i s sid t
     let x := (viewAtIssue i s sid t).sr a.toNat
     let k := (x.extractLsb' 16 8).toNat
     let b := barrierOf s0 u.lid k
     Runs i h s sid t → (x.extractLsb' 24 40 ≠ 0 ∨ groupCount s0 u.lid ≤ k ∨
        (1 ≤ (x.extractLsb' 0 16 - b.cur).toNat ∧ (x.extractLsb' 0 16 - b.cur).toNat ≤ 32767)) →
      Traps i s sid t Cause.badToken x) ∧
    (let i := Instr.bwait h a
     let u := teamAtIssue i s sid t
     let s0 := atIssue i s sid t
     let x := (viewAtIssue i s sid t).sr a.toNat
     let k := (x.extractLsb' 16 8).toNat
     let b := barrierOf s0 u.lid k
     Runs i h s sid t → x.extractLsb' 24 40 = 0 → k < groupCount s0 u.lid → b.ovf = true → x.extractLsb' 0 16 = b.cur - 1 →
      Traps i s sid t Cause.barrierOverflow x) ∧
    (let i := Instr.btest h d a
     let u := teamAtIssue i s sid t
     let s0 := atIssue i s sid t
     let x := (viewAtIssue i s sid t).sr a.toNat
     let k := (x.extractLsb' 16 8).toNat
     let b := barrierOf s0 u.lid k
     Runs i h s sid t → x.extractLsb' 24 40 = 0 → k < groupCount s0 u.lid → 32768 ≤ (x.extractLsb' 0 16 - b.cur).toNat → (b.ovf = false ∨ x.extractLsb' 0 16 ≠ b.cur - 1) →
      Goes i s sid t [.s d.toNat] (fun s' t' =>
        Holds t' d 1 ∧ SameMemory s0 s' ∧ s'.homes = s0.homes)) ∧
    (let i := Instr.btest h d a
     let u := teamAtIssue i s sid t
     let s0 := atIssue i s sid t
     let x := (viewAtIssue i s sid t).sr a.toNat
     let k := (x.extractLsb' 16 8).toNat
     let b := barrierOf s0 u.lid k
     Runs i h s sid t → x.extractLsb' 24 40 = 0 → k < groupCount s0 u.lid → x.extractLsb' 0 16 = b.cur →
      Goes i s sid t [.s d.toNat] (fun s' t' =>
        Holds t' d 0 ∧ SameBytes s0 s')) ∧
    (let i := Instr.btest h d a
     let u := teamAtIssue i s sid t
     let s0 := atIssue i s sid t
     let x := (viewAtIssue i s sid t).sr a.toNat
     let k := (x.extractLsb' 16 8).toNat
     let b := barrierOf s0 u.lid k
     Runs i h s sid t → (x.extractLsb' 24 40 ≠ 0 ∨ groupCount s0 u.lid ≤ k ∨
        (1 ≤ (x.extractLsb' 0 16 - b.cur).toNat ∧ (x.extractLsb' 0 16 - b.cur).toNat ≤ 32767)) →
      Traps i s sid t Cause.badToken x) ∧
    (let i := Instr.btest h d a
     let u := teamAtIssue i s sid t
     let s0 := atIssue i s sid t
     let x := (viewAtIssue i s sid t).sr a.toNat
     let k := (x.extractLsb' 16 8).toNat
     let b := barrierOf s0 u.lid k
     Runs i h s sid t → x.extractLsb' 24 40 = 0 → k < groupCount s0 u.lid → b.ovf = true → x.extractLsb' 0 16 = b.cur - 1 →
      Traps i s sid t Cause.barrierOverflow x) ∧
    (let i := Instr.bexp h a g
     let u := teamAtIssue i s sid t
     let s0 := atIssue i s sid t
     let k : Nat := match g with | .s n => ((viewAtIssue i s sid t).sr n.toNat).toNat | .imm x => x.toNat
     Runs i h s sid t → u.region = none → groupCount s0 u.lid ≤ k → Traps i s sid t Cause.illegalOperand (posVal 2 k)) ∧
    (let i := Instr.bexp h a g
     let u := teamAtIssue i s sid t
     let s0 := atIssue i s sid t
     let k : Nat := match g with | .s n => ((viewAtIssue i s sid t).sr n.toNat).toNat | .imm x => x.toNat
     Runs i h s sid t → u.region = none → k < groupCount s0 u.lid → inGroup s0 u.lid k u.team = false →
      Traps i s sid t Cause.notMember (BitVec.ofNat 64 k)) ∧
    (let i := Instr.barv h d g
     let u := teamAtIssue i s sid t
     let s0 := atIssue i s sid t
     let k : Nat := match g with | .s n => ((viewAtIssue i s sid t).sr n.toNat).toNat | .imm x => x.toNat
     Runs i h s sid t → u.region = none → k < groupCount s0 u.lid → inGroup s0 u.lid k u.team = true →
      (barrierOf s0 u.lid k).narrOf u.team ≠ (barrierOf s0 u.lid k).cur + 1 → (∃ q ∈ s0.wq, q.sid = sid) → Waits i s sid t .drain)

/-- R64, R65, R278, R279: `pend` arrives like `barv` and queues the team's next phase with the place of its record; while a result of the team is to land
it waits; then its record is written where the phase was queued and the team leaves its core, memory, homes and scratchpads as that write left them; a
gang's team traps. Where the spec leaves a choice it rests on the model's, log 66. -/
def Obligations.PendingTeams : Prop :=
  ∀ (h : Hdr) (g : BitVec 8) (k : BitVec 6) (s : State) (sid : Nat) (t : Team),
    (let i := Instr.pend h g k
     let u := teamAtIssue i s sid t
     let s0 := atIssue i s sid t
     let p := (barrierOf s0 u.lid g.toNat).narrOf u.team
     Runs i h s sid t → u.pended = none → u.gang = false → u.region = none → u.window = none → pendCheck s0 u g.toNat k.toNat = none →
      p ≠ (barrierOf s0 u.lid g.toNat).cur + 1 → ownWork s0 sid u = false →
      ∀ l, s0.launch? u.lid = some l →
      ∃ s' t' l', exec i s = .next s' ∧ s'.team? sid = some t' ∧ t'.pc = u.pc ∧ t'.pended = some (g.toNat, p) ∧ SameRegs u t' [] ∧
        s'.launch? u.lid = some l' ∧ (∃ q : QPhase, l'.phases = l.phases ++ [q] ∧ q.team = u.team ∧ q.group = g.toNat ∧ q.phase = p ∧
          q.carry = k.toNat ∧ q.ready = none ∧ q.va = ((u.bindRec s0).pharea.toNat + u.team * (u.bindRec s0).phstride.toNat) % 2 ^ 64) ∧
        (∃ tok, s'.hub = s0.hub ++ [{ lid := u.lid, group := g.toNat, msg := .arrive u.team p sid u.key 0 tok }])) ∧
    (let i := Instr.pend h g k
     let u := teamAtIssue i s sid t
     let s0 := atIssue i s sid t
     ∀ q p s1, Runs i h s sid t → u.pended = some (q, p) → u.sb = [] →
      writeVa hostUnit u.ctx (pendVa s0 u) 1 (phaseRecord s0 u g.toNat k.toNat p) s0 = (s1, .ok ()) → Released s1 u →
      ∃ s', exec i s = .next s' ∧ s'.team? sid = none ∧ s'.current = none ∧ s'.hub = s1.hub ∧
        (∀ a, memByte s'.mem a = memByte s1.mem a) ∧ s'.homes = s1.homes ∧ s'.l1 = s1.l1 ∧ (∀ a, spadByte s' a = spadByte s1 a) ∧
        ∀ n, n ≠ sid → s'.team? n = s1.team? n) ∧
    (let i := Instr.pend h g k
     let u := teamAtIssue i s sid t
     Runs i h s sid t → u.pended = none → u.gang = true → Traps i s sid t Cause.phaseInGang 0) ∧
    (let i := Instr.pend h g k
     let u := teamAtIssue i s sid t
     let s0 := atIssue i s sid t
     ∀ q p e l, Runs i h s sid t → u.pended = some (q, p) → u.sb = e :: l → Waits i s sid t (.result e.reg) ∧
      (∀ s', exec i s = .next s' → s'.hub = s0.hub))

/-- R48, R49, R71, R280-R283, R285: a push releases and is on its way to the queue agent, its token to come; `qpop` removes the entry at HEAD, storing
HEAD as a release once earlier writes are performed, and answers its sequence, kind and launch record, or the cause; `qcancel` sends its pair to every
die; `lnext` lets the next launch start, and `lwait` goes on once the previous one has left. Where the spec leaves a choice it rests on the model's,
log 60, 61 and 105. -/
def Obligations.Queues : Prop :=
  ∀ (h : Hdr) (d a : SIdx) (q : SI) (s : State) (sid : Nat) (t : Team),
    (let i := Instr.qpush h d a q
     let u := teamAtIssue i s sid t
     let s0 := atIssue i s sid t
     Runs i h s sid t → u.region = none → (∀ q ∈ s0.wq, q.sid ≠ sid) →
      Goes i s sid t [.s d.toNat] (fun s' t' =>
        (∃ p : Push, s'.pushes = s0.pushes ++ [p] ∧ p.task = false ∧ p.ctx = u.ctx ∧ p.sid = sid ∧ p.key = u.key ∧ p.reg = d.toNat ∧ p.slot = none ∧
          p.qid = ((viewAtIssue i s sid t).si q).toNat % 2 ^ 32 ∧ p.lrec = (viewAtIssue i s sid t).sr a.toNat ∧
          p.regions = 0) ∧ Awaited t' d)) ∧
    (let i := Instr.qspawn h d a q
     let u := teamAtIssue i s sid t
     let s0 := atIssue i s sid t
     Runs i h s sid t → u.region = none → (∀ q ∈ s0.wq, q.sid ≠ sid) →
      Goes i s sid t [.s d.toNat] (fun s' t' =>
        (∃ p : Push, s'.pushes = s0.pushes ++ [p] ∧ p.task = true ∧ p.ctx = u.ctx ∧ p.sid = sid ∧ p.key = u.key ∧ p.reg = d.toNat ∧ p.slot = none ∧
          p.qid = ((viewAtIssue i s sid t).si q).toNat % 2 ^ 32 ∧ p.lrec = (viewAtIssue i s sid t).sr a.toNat ∧
          p.regions = (viewAtIssue i s sid t).sr (a.toNat + 1)) ∧ Awaited t' d)) ∧
    (let i := Instr.qpop h d q
     let u := teamAtIssue i s sid t
     let s0 := atIssue i s sid t
     ∀ s1 s2 va x k n, Runs i h s sid t → u.region = none →
      popEntry u.ctx (((viewAtIssue i s sid t).si q).toNat % 2 ^ 32) s0 = (s1, .ok (.ok (va, x, k, n))) → (∀ q ∈ s1.wq, q.sid ≠ sid) →
      writeVa unitOf u.ctx (va + 8) 8 (leBytes 8 (n + 1)) (releaseAt s1 (systemAccess sid u)) = (s2, .ok ()) → s2.team? sid = some u → k < 2 ^ 8 →
      Goes i s sid t [.s d.toNat, .s (d.toNat + 1)] (fun s' t' =>
        Holds t' d (BitVec.ofNat 64 (2 ^ 63 + k * 2 ^ 32 + n % 2 ^ 32)) ∧ t'.sr (d.toNat + 1) = BitVec.ofNat 64 x ∧ s'.mem = s2.mem ∧ s'.homes = s2.homes)) ∧
    (let i := Instr.qpop h d q
     let u := teamAtIssue i s sid t
     let s0 := atIssue i s sid t
     ∀ s1 c, Runs i h s sid t → u.region = none → popEntry u.ctx (((viewAtIssue i s sid t).si q).toNat % 2 ^ 32) s0 = (s1, .ok (.error c)) →
      s1.teams = s0.teams →
      Goes i s sid t [.s d.toNat, .s (d.toNat + 1)] (fun s' t' =>
        Holds t' d (BitVec.ofNat 64 (2 ^ 63 + c.toNat * 2 ^ 54)) ∧ t'.sr (d.toNat + 1) = 0 ∧ SameBytes s1 s')) ∧
    (let i := Instr.qcancel h q
     let u := teamAtIssue i s sid t
     let s0 := atIssue i s sid t
     Runs i h s sid t → u.region = none → (s0.die u.die).cancels.length < 64 →
      Goes i s sid t [] (fun s' _ =>
        (∃ cs : List Broadcast, s'.casts = s0.casts ++ cs ∧ cs.length = Config.dies ∧ ∀ k, k < Config.dies → ∃ b, cs[k]? = some b ∧ b.die = k ∧ b.ctx = u.ctx ∧
          b.job = BitVec.ofNat 32 ((viewAtIssue i s sid t).si q).toNat) ∧ SameBytes s0 s')) ∧
    (let i := Instr.lnext h
     let u := teamAtIssue i s sid t
     let s0 := atIssue i s sid t
     ∀ l, Runs i h s sid t → u.region = none → s0.launch? u.lid = some l →
      Goes i s sid t [] (fun s' _ =>
        s'.launch? u.lid = some { l with lnext := true } ∧ (∀ k, k ≠ u.lid → s'.launch? k = s0.launch? k) ∧ SameBytes s0 s')) ∧
    (let i := Instr.lwait h
     let u := teamAtIssue i s sid t
     let s0 := atIssue i s sid t
     Runs i h s sid t → u.region = none → predecessorLeft s0 u = true →
      Goes i s sid t [] (fun s' _ =>
        SameMemory s0 s' ∧ s'.homes = s0.homes)) ∧
    (let i := Instr.lwait h
     let u := teamAtIssue i s sid t
     let s0 := atIssue i s sid t
     Runs i h s sid t → u.region = none → predecessorLeft s0 u = false → Waits i s sid t .predecessor) ∧
    (let i := Instr.qpop h d q
     let u := teamAtIssue i s sid t
     let s0 := atIssue i s sid t
     ∀ s1 x, Runs i h s sid t → u.region = none → popEntry u.ctx (((viewAtIssue i s sid t).si q).toNat % 2 ^ 32) s0 = (s1, .ok (.ok x)) →
      s1.teams = s0.teams → (∃ q ∈ s1.wq, q.sid = sid) → s1.mem = s0.mem → s1.spad = s0.spad →
      Waits i s sid t .drain)

/-- R284: at the home of the header, in one step, a push writes the entry at BOTTOM and advances it, a pop takes the entry before BOTTOM, a steal the one
at TOP; a full or empty deque answers its cause and changes nothing; so does a bad header, for each of the three; no other byte at the homes or in
memory changes. The status holds the number of entries after the operation. Where the spec leaves a choice it rests on the model's, log 62. -/
def Obligations.Deques : Prop :=
  ∀ (h : Hdr) (d a : SIdx) (v : SI) (s : State) (sid : Nat) (t : Team),
    (let i := Instr.dpush h d a v
     let u := teamAtIssue i s sid t
     let s0 := atIssue i s sid t
     let va := ((viewAtIssue i s sid t).sr a.toNat).toNat
     let q := dequeOf (leBytes 64 (homeVal s0 u.ctx va 64))
     let n := (q.bottom + 2 ^ 64 - q.top) % 2 ^ 64
     let e := (q.buf + 8 * (q.bottom % 2 ^ q.log2)) % 2 ^ 64
     ScalarMem i h s sid t → fits u .global 64 (BitVec.ofNat 64 va) → Owned s0 u (va / 64) → Released s0 u → s0.tracked = [] → q.bad = false →
      n < 2 ^ q.log2 → e / 64 ≠ va / 64 → fits u .global 8 (BitVec.ofNat 64 e) → Owned s0 u (e / 64) →
      Goes i s sid t [.s d.toNat] (fun s' t' =>
        Holds t' d (BitVec.ofNat 64 (2 ^ 63 + 0 * 2 ^ 54 + (n + 1) % 2 ^ 32)) ∧ homeVal s' u.ctx va 8 = (q.bottom + 1) % 2 ^ 64 ∧ homeVal s' u.ctx (va + 8) 8 = q.top ∧
          homeVal s' u.ctx e 8 = (match v with | .s n => (viewAtIssue i s sid t).sr n.toNat | .imm k => k.signExtend 64).toNat ∧
          HomesKept s0 s' u.ctx [(va, 16), (e, 8)])) ∧
    (let i := Instr.dpush h d a v
     let u := teamAtIssue i s sid t
     let s0 := atIssue i s sid t
     let va := ((viewAtIssue i s sid t).sr a.toNat).toNat
     let q := dequeOf (leBytes 64 (homeVal s0 u.ctx va 64))
     let n := (q.bottom + 2 ^ 64 - q.top) % 2 ^ 64
     ScalarMem i h s sid t → fits u .global 64 (BitVec.ofNat 64 va) → Owned s0 u (va / 64) → Released s0 u → s0.tracked = [] → q.bad = false →
      n = 2 ^ q.log2 →
      Goes i s sid t [.s d.toNat] (fun s' t' =>
        Holds t' d (BitVec.ofNat 64 (2 ^ 63 + Cause.queueFull.toNat * 2 ^ 54 + n % 2 ^ 32)) ∧ HomesKept s0 s' u.ctx [])) ∧
    (let i := Instr.dpop h d a
     let u := teamAtIssue i s sid t
     let s0 := atIssue i s sid t
     let va := ((viewAtIssue i s sid t).sr a.toNat).toNat
     let q := dequeOf (leBytes 64 (homeVal s0 u.ctx va 64))
     let n := (q.bottom + 2 ^ 64 - q.top) % 2 ^ 64
     let e := (q.buf + 8 * (((q.bottom + 2 ^ 64 - 1) % 2 ^ 64) % 2 ^ q.log2)) % 2 ^ 64
     ScalarMem i h s sid t → fits u .global 64 (BitVec.ofNat 64 va) → Owned s0 u (va / 64) → Released s0 u → s0.tracked = [] → q.bad = false →
      0 < n → e / 64 ≠ va / 64 → fits u .global 8 (BitVec.ofNat 64 e) → Owned s0 u (e / 64) →
      Goes i s sid t [.s d.toNat, .s (d.toNat + 1)] (fun s' t' =>
        Holds t' d (BitVec.ofNat 64 (2 ^ 63 + 0 * 2 ^ 54 + (n - 1) % 2 ^ 32)) ∧ t'.sr (d.toNat + 1) = BitVec.ofNat 64 (homeVal s0 u.ctx e 8) ∧
          homeVal s' u.ctx va 8 = (q.bottom + 2 ^ 64 - 1) % 2 ^ 64 ∧ homeVal s' u.ctx (va + 8) 8 = q.top ∧ HomesKept s0 s' u.ctx [(va, 16)])) ∧
    (let i := Instr.dpop h d a
     let u := teamAtIssue i s sid t
     let s0 := atIssue i s sid t
     let va := ((viewAtIssue i s sid t).sr a.toNat).toNat
     let q := dequeOf (leBytes 64 (homeVal s0 u.ctx va 64))
     let n := (q.bottom + 2 ^ 64 - q.top) % 2 ^ 64
     ScalarMem i h s sid t → fits u .global 64 (BitVec.ofNat 64 va) → Owned s0 u (va / 64) → Released s0 u → s0.tracked = [] → q.bad = false →
      n = 0 →
      Goes i s sid t [.s d.toNat, .s (d.toNat + 1)] (fun s' t' =>
        Holds t' d (BitVec.ofNat 64 (2 ^ 63 + Cause.queueEmpty.toNat * 2 ^ 54 + n % 2 ^ 32)) ∧ t'.sr (d.toNat + 1) = 0 ∧ HomesKept s0 s' u.ctx [])) ∧
    (let i := Instr.dsteal h d a
     let u := teamAtIssue i s sid t
     let s0 := atIssue i s sid t
     let va := ((viewAtIssue i s sid t).sr a.toNat).toNat
     let q := dequeOf (leBytes 64 (homeVal s0 u.ctx va 64))
     let n := (q.bottom + 2 ^ 64 - q.top) % 2 ^ 64
     let e := (q.buf + 8 * (q.top % 2 ^ q.log2)) % 2 ^ 64
     ScalarMem i h s sid t → fits u .global 64 (BitVec.ofNat 64 va) → Owned s0 u (va / 64) → Released s0 u → s0.tracked = [] → q.bad = false →
      0 < n → e / 64 ≠ va / 64 → fits u .global 8 (BitVec.ofNat 64 e) → Owned s0 u (e / 64) →
      Goes i s sid t [.s d.toNat, .s (d.toNat + 1)] (fun s' t' =>
        Holds t' d (BitVec.ofNat 64 (2 ^ 63 + 0 * 2 ^ 54 + (n - 1) % 2 ^ 32)) ∧ t'.sr (d.toNat + 1) = BitVec.ofNat 64 (homeVal s0 u.ctx e 8) ∧
          homeVal s' u.ctx va 8 = q.bottom ∧ homeVal s' u.ctx (va + 8) 8 = (q.top + 1) % 2 ^ 64 ∧ HomesKept s0 s' u.ctx [(va, 16)])) ∧
    (let i := Instr.dsteal h d a
     let u := teamAtIssue i s sid t
     let s0 := atIssue i s sid t
     let va := ((viewAtIssue i s sid t).sr a.toNat).toNat
     let q := dequeOf (leBytes 64 (homeVal s0 u.ctx va 64))
     let n := (q.bottom + 2 ^ 64 - q.top) % 2 ^ 64
     ScalarMem i h s sid t → fits u .global 64 (BitVec.ofNat 64 va) → Owned s0 u (va / 64) → Released s0 u → s0.tracked = [] → q.bad = false →
      n = 0 →
      Goes i s sid t [.s d.toNat, .s (d.toNat + 1)] (fun s' t' =>
        Holds t' d (BitVec.ofNat 64 (2 ^ 63 + Cause.queueEmpty.toNat * 2 ^ 54 + n % 2 ^ 32)) ∧ t'.sr (d.toNat + 1) = 0 ∧ HomesKept s0 s' u.ctx [])) ∧
    (let i := Instr.dsteal h d a
     let u := teamAtIssue i s sid t
     let s0 := atIssue i s sid t
     let va := ((viewAtIssue i s sid t).sr a.toNat).toNat
     let q := dequeOf (leBytes 64 (homeVal s0 u.ctx va 64))
     let n := (q.bottom + 2 ^ 64 - q.top) % 2 ^ 64
     ScalarMem i h s sid t → fits u .global 64 (BitVec.ofNat 64 va) → Owned s0 u (va / 64) → Released s0 u → s0.tracked = [] → q.bad = true →
      
      Goes i s sid t [.s d.toNat, .s (d.toNat + 1)] (fun s' t' =>
        Holds t' d (BitVec.ofNat 64 (2 ^ 63 + Cause.badDeque.toNat * 2 ^ 54 + n % 2 ^ 32)) ∧ t'.sr (d.toNat + 1) = 0 ∧ HomesKept s0 s' u.ctx [])) ∧
    (let i := Instr.dpop h d a
     let u := teamAtIssue i s sid t
     let s0 := atIssue i s sid t
     let va := ((viewAtIssue i s sid t).sr a.toNat).toNat
     let q := dequeOf (leBytes 64 (homeVal s0 u.ctx va 64))
     let n := (q.bottom + 2 ^ 64 - q.top) % 2 ^ 64
     ScalarMem i h s sid t → fits u .global 64 (BitVec.ofNat 64 va) → Owned s0 u (va / 64) → Released s0 u → s0.tracked = [] → q.bad = true →
      
      Goes i s sid t [.s d.toNat, .s (d.toNat + 1)] (fun s' t' =>
        Holds t' d (BitVec.ofNat 64 (2 ^ 63 + Cause.badDeque.toNat * 2 ^ 54 + n % 2 ^ 32)) ∧ t'.sr (d.toNat + 1) = 0 ∧ HomesKept s0 s' u.ctx [])) ∧
    (let i := Instr.dpush h d a v
     let u := teamAtIssue i s sid t
     let s0 := atIssue i s sid t
     let va := ((viewAtIssue i s sid t).sr a.toNat).toNat
     let q := dequeOf (leBytes 64 (homeVal s0 u.ctx va 64))
     let n := (q.bottom + 2 ^ 64 - q.top) % 2 ^ 64
     ScalarMem i h s sid t → fits u .global 64 (BitVec.ofNat 64 va) → Owned s0 u (va / 64) → Released s0 u → s0.tracked = [] → q.bad = true →
      
      Goes i s sid t [.s d.toNat] (fun s' t' =>
        Holds t' d (BitVec.ofNat 64 (2 ^ 63 + Cause.badDeque.toNat * 2 ^ 54 + n % 2 ^ 32)) ∧ HomesKept s0 s' u.ctx []))

/-- R295, R296, R298, R303-R307, R310: `nmopen` waits for a free window, releases, and opens a window at the vent that owns its base, under the team's own
signature CSRs, or answers NM_REMOTE, and its release stands also where its base faults; calls and the commit enter the window's queue in order;
`nmstat` reads a statistic; `nmclose` abandons the section and answers the number of its calls; without a window the team traps; `wcsld` waits while
the team's region ends and while a window holds its image, puts a dispatch table and a control store into an idle vent, and answers that a busy one is
busy. Where the spec leaves a choice it rests on the model's, log 46, 47 and 52. -/
def Obligations.VentWindows : Prop :=
  ∀ (h : Hdr) (d a : SIdx) (b : SI) (e : BitVec 32) (k : CommitImm) (s : State) (sid : Nat) (t : Team),
    (let i := Instr.nmopen h d a b
     let u := teamAtIssue i s sid t
     let s0 := atIssue i s sid t
     let base := ((viewAtIssue i s sid t).sr a.toNat).toNat
     let len := ((viewAtIssue i s sid t).sr (a.toNat + 1)).toNat
     let g := ((viewAtIssue i s sid t).si b).toNat
     ∀ s1 tr dpa, Runs i h s sid t → u.region = none → u.window = none → u.pf = none → g < groupCount s0 u.lid → base % 64 = 0 → len % 64 = 0 → len ≠ 0 →
      canonical (BitVec.ofNat 64 base) = true → base + len - 1 < 2 ^ 64 → canonical (BitVec.ofNat 64 (base + len - 1)) = true → (∀ q ∈ s0.wq, q.sid ≠ sid) →
      windowWait s0 u base = none →
      translate (releaseAt s0 (deviceAccess sid u)) (unitOf base) u.ctx (BitVec.ofNat 64 base) .read = (s1, .ok tr) → s1.team? sid = some u → s1.windows = s0.windows →
      tr.peer = none → dpaOf s1 (lineAt tr (base / 64)) = some dpa → s0.windows.length < 64 →
      Goes i s sid t [.s d.toNat] (fun s' t' =>
        ∃ w : Window, s'.windows = s0.windows ++ [w] ∧ s0.window? w.num = none ∧ w.num < 64 ∧ (∀ k, k < w.num → s0.window? k ≠ none) ∧ w.base = base ∧ w.len = len ∧ w.vent = channelOf dpa ∧
          w.lid = u.lid ∧ w.group = g ∧ w.sigw = u.nmSigw ∧ w.grain = u.nmGrain ∧ w.esc = u.nmEsc ∧ w.queue = [] ∧ t'.window = some w.num ∧
          Holds t' d (BitVec.ofNat 64 (2 ^ 63 + channelOf dpa * 2 ^ 32 + w.num)))) ∧
    (let i := Instr.nmopen h d a b
     let u := teamAtIssue i s sid t
     let s0 := atIssue i s sid t
     let base := ((viewAtIssue i s sid t).sr a.toNat).toNat
     let len := ((viewAtIssue i s sid t).sr (a.toNat + 1)).toNat
     let g := ((viewAtIssue i s sid t).si b).toNat
     ∀ s1 tr, Runs i h s sid t → u.region = none → u.window = none → u.pf = none → g < groupCount s0 u.lid → base % 64 = 0 → len % 64 = 0 → len ≠ 0 →
      canonical (BitVec.ofNat 64 base) = true → base + len - 1 < 2 ^ 64 → canonical (BitVec.ofNat 64 (base + len - 1)) = true → (∀ q ∈ s0.wq, q.sid ≠ sid) →
      windowWait s0 u base = none →
      translate (releaseAt s0 (deviceAccess sid u)) (unitOf base) u.ctx (BitVec.ofNat 64 base) .read = (s1, .ok tr) → s1.team? sid = some u → s1.windows = s0.windows →
      tr.peer ≠ none ∨ dpaOf s1 (lineAt tr (base / 64)) = none →
      Goes i s sid t [.s d.toNat] (fun s' t' =>
        Holds t' d (BitVec.ofNat 64 (2 ^ 63 + Cause.nmRemote.toNat * 2 ^ 54)) ∧ s'.windows = s0.windows)) ∧
    (let i := Instr.nmopen h d a b
     let u := teamAtIssue i s sid t
     Runs i h s sid t → u.region = none → u.window ≠ none →
      Traps i s sid t Cause.nmState 0) ∧
    (let i := Instr.nmcall h a e
     let u := teamAtIssue i s sid t
     let s0 := atIssue i s sid t
     ∀ k w, Runs i h s sid t → u.region = none → u.window = some k → s0.window? k = some w → w.num = k →
      e.toNat ≤ 63 → openCalls w < 32 → queuedCalls w < 64 →
      Goes i s sid t [] (fun s' _ =>
        (∃ n, s'.window? k = some { w with queue := w.queue ++ [.call n e.toNat ((List.range 6).map (fun j => (viewAtIssue i s sid t).sr (a.toNat + j)))] }) ∧ SameBytes s0 s')) ∧
    (let i := Instr.nmcall h a e
     let u := teamAtIssue i s sid t
     let s0 := atIssue i s sid t
     ∀ k w, Runs i h s sid t → u.region = none → u.window = some k → s0.window? k = some w → w.num = k →
      e.toNat ≤ 63 → 32 ≤ openCalls w →
      Traps i s sid t Cause.nmSectionFull 32) ∧
    (let i := Instr.nmcall h a e
     let u := teamAtIssue i s sid t
     Runs i h s sid t → u.region = none → u.window = none →
      Traps i s sid t Cause.nmState 0) ∧
    (let i := Instr.nmcommit h d k
     let u := teamAtIssue i s sid t
     let s0 := atIssue i s sid t
     ∀ n w, Runs i h s sid t → u.region = none → u.window = some n → s0.window? n = some w → w.num = n →
      (k.count = true → k.group.toNat < groupCount s0 u.lid) → w.failed = none → secCalls w ≠ [] →
      Goes i s sid t [.s d.toNat] (fun s' t' =>
        (∃ tok, s'.window? n = some { w with queue := w.queue ++ [.commit k d.toNat tok] }) ∧ Awaited t' d ∧ SameBytes s0 s')) ∧
    (let i := Instr.nmcommit h d k
     let u := teamAtIssue i s sid t
     Runs i h s sid t → u.region = none → u.window = none →
      Traps i s sid t Cause.nmState 0) ∧
    (let i := Instr.nmstat h d e
     let u := teamAtIssue i s sid t
     let s0 := atIssue i s sid t
     ∀ k w, Runs i h s sid t → u.window = some k → s0.window? k = some w → w.num = k →
      e.toNat ≤ 7 →
      Goes i s sid t [.s d.toNat] (fun s' t' =>
        Holds t' d (BitVec.ofNat 64 (if e.toNat = 4 then queuedCalls w else Tab.get 0 w.stat e.toNat)) ∧ s'.windows = s0.windows ∧ SameBytes s0 s')) ∧
    (let i := Instr.nmstat h d e
     let u := teamAtIssue i s sid t
     let s0 := atIssue i s sid t
     ∀ k w, Runs i h s sid t → u.window = some k → s0.window? k = some w → w.num = k →
      7 < e.toNat →
      Traps i s sid t Cause.illegalOperand (posVal 2 e.toNat)) ∧
    (let i := Instr.nmclose h d
     let u := teamAtIssue i s sid t
     let s0 := atIssue i s sid t
     ∀ k w, Runs i h s sid t → u.region = none → u.window = some k → s0.window? k = some w → w.num = k →
      u.key = w.tkey → commitQueued w = false →
      Goes i s sid t [.s d.toNat] (fun s' t' =>
        t'.window = none ∧ s'.window? k = none ∧ Holds t' d (BitVec.ofNat 64 (queuedCalls w)) ∧ SameBytes s0 s')) ∧
    (let i := Instr.nmclose h d
     let u := teamAtIssue i s sid t
     let s0 := atIssue i s sid t
     ∀ k w, Runs i h s sid t → u.region = none → u.window = some k → s0.window? k = some w → w.num = k →
      commitQueued w = true →
      Waits i s sid t .vent) ∧
    (let i := Instr.wcsld h d a
     let u := teamAtIssue i s sid t
     let s0 := atIssue i s sid t
     let va := (viewAtIssue i s sid t).sr a.toNat
     let v := ((viewAtIssue i s sid t).sr (a.toNat + 1)).toNat % 512
     ∀ s1 bs, Runs i h s sid t → u.pf = none → (∀ r, u.region = some r → r.ending = false) → va.toNat % 64 = 0 → (∀ j, j < 72 → canonical (va + BitVec.ofNat 64 (64 * j)) = true) →
      (s0.vent v).run = none → (∀ w ∈ s0.windows, w.vent = v → queuedCalls w = 0) → held s0 u va.toNat 4608 false = false →
      readWeak s0 { sid := sid, core := u.coreId, ctx := u.ctx, scope := .team, pol := false } va.toNat 4608 = (s1, .ok bs) → s1.teams = s0.teams →
      Goes i s sid t [.s d.toNat] (fun s' t' =>
        (s'.vent v).library = isLibrary bs ∧ (∀ j, j < 64 → Tab.get 0 (s'.vent v).table j = BitVec.ofNat 64 (leNat ((bs.drop (8 * j)).take 8))) ∧
          (∀ j, j < 256 → Tab.get 0 (s'.vent v).store j = BitVec.ofNat 128 (leNat ((bs.drop (512 + 16 * j)).take 16))) ∧
          Holds t' d (BitVec.ofNat 64 (2 ^ 63 + 256)))) ∧
    (let i := Instr.wcsld h d a
     let u := teamAtIssue i s sid t
     let s0 := atIssue i s sid t
     let v := ((viewAtIssue i s sid t).sr (a.toNat + 1)).toNat % 512
     Runs i h s sid t → ((viewAtIssue i s sid t).sr a.toNat).toNat % 64 = 0 → (∀ r, u.region = some r → r.ending = false) → (s0.vent v).run ≠ none →
      Goes i s sid t [.s d.toNat] (fun s' t' =>
        Holds t' d (BitVec.ofNat 64 (2 ^ 63 + Cause.csBusy.toNat * 2 ^ 54)) ∧ s'.vents = s0.vents ∧ SameBytes s0 s')) ∧
    (let i := Instr.wcsld h d a
     let u := teamAtIssue i s sid t
     ∀ r, Runs i h s sid t → ((viewAtIssue i s sid t).sr a.toNat).toNat % 64 = 0 → u.region = some r → r.ending = true →
      Waits i s sid t .regionEnd) ∧
    (let i := Instr.nmopen h d a b
     let u := teamAtIssue i s sid t
     let s0 := atIssue i s sid t
     let base := ((viewAtIssue i s sid t).sr a.toNat).toNat
     let len := ((viewAtIssue i s sid t).sr (a.toNat + 1)).toNat
     Runs i h s sid t → u.region = none → u.window = none → openCheck s0 u (((viewAtIssue i s sid t).si b).toNat) base len = none →
      64 ≤ s0.windows.length → ∃ v, Waits i s sid t (.window v)) ∧
    (let i := Instr.nmopen h d a b
     let u := teamAtIssue i s sid t
     let s0 := atIssue i s sid t
     let base := ((viewAtIssue i s sid t).sr a.toNat).toNat
     let len := ((viewAtIssue i s sid t).sr (a.toNat + 1)).toNat
     ∀ s1 f, Runs i h s sid t → u.region = none → u.window = none → u.pf = none → openCheck s0 u (((viewAtIssue i s sid t).si b).toNat) base len = none →
      canonical (BitVec.ofNat 64 base) = true → (∀ q ∈ s0.wq, q.sid ≠ sid) → windowWait s0 u base = none →
      translate (releaseAt s0 (deviceAccess sid u)) (unitOf base) u.ctx (BitVec.ofNat 64 base) .read = (s1, .error f) →
      ∃ s', exec i s = .next s' ∧ s'.windows = s1.windows ∧ ∀ x ∈ s'.l1, x.core = u.coreId → x.ctx = u.ctx → x.tr ≠ none → x.dirty = 0) ∧
    (let i := Instr.wcsld h d a
     let u := teamAtIssue i s sid t
     let s0 := atIssue i s sid t
     let va := (viewAtIssue i s sid t).sr a.toNat
     let v := ((viewAtIssue i s sid t).sr (a.toNat + 1)).toNat % 512
     Runs i h s sid t → u.pf = none → (∀ r, u.region = some r → r.ending = false) → va.toNat % 64 = 0 → (∀ j, j < 72 → canonical (va + BitVec.ofNat 64 (64 * j)) = true) →
      (s0.vent v).run = none → (∀ w ∈ s0.windows, w.vent = v → queuedCalls w = 0) → held s0 u va.toNat 4608 false = true →
      Waits i s sid t (.held false [(va.toNat, 4608)]))

/-- R292, R308, R309: what a call does to the attempt. The entries of the library fill, copy, scale, add, update rows and sums and count, word by word and
rounded once; an entry from 8 on and a misaligned address end the call. A micro-word does its memory part, its vector part on the lanes of its mask
and its scalar part, and goes on by its SEQ; a reserved value, and a call past 2^20 micro-words, end the call. Where the spec leaves a choice it rests
on the model's, log 48, 49, 50 and 51. -/
def Obligations.VentCalls : Prop :=
  ∀ (s : State) (x : Vent) (w : Window) (r : VentRun) (a0 a1 a2 a3 a4 a5 : Word) (u : BitVec 128) (m : Micro),
    (x.library = true → VentRoom r (4 * a1.toNat) → a0.toNat % 4 = 0 → VentReaches s w .write a0.toNat (4 * a1.toNat) →
      AttemptWrites s w r (runCall x w 0 [a0, a1, a2, a3, a4, a5]) () 0
        (wordsAt a0.toNat a1.toNat (fun _ => lo32 a2))) ∧
    (x.library = true → VentRoom r a2.toNat → VentReaches s w .write a0.toNat a2.toNat → VentReaches s w .read a1.toNat a2.toNat →
      AttemptWrites s w r (runCall x w 1 [a0, a1, a2, a3, a4, a5]) () 0
        (fun a => if a0.toNat ≤ a ∧ a < a0.toNat + a2.toNat then some (ventByte s w r (a1.toNat + (a - a0.toNat))) else none)) ∧
    (x.library = true → VentRoom r (4 * a2.toNat) → a0.toNat % 4 = 0 → a1.toNat % 4 = 0 → VentReaches s w .write a0.toNat (4 * a2.toNat) →
      VentReaches s w .read a1.toNat (4 * a2.toNat) → a0 = a1 ∨ Separate a0.toNat (4 * a2.toNat) a1.toNat (4 * a2.toNat) →
      AttemptWrites s w r (runCall x w 2 [a0, a1, a2, a3, a4, a5]) () 0
        (wordsAt a0.toNat a2.toNat (fun i => ventWord s w r (a1.toNat + 4 * i) * lo32 a3 % 2 ^ 32))) ∧
    (let z (i : Nat) := fFma (lo32 a3) (ventWord s w r (a1.toNat + 4 * i)) (ventWord s w r (a0.toNat + 4 * i))
     x.library = true → VentRoom r (4 * a2.toNat) → a0.toNat % 4 = 0 → a1.toNat % 4 = 0 → VentReaches s w .write a0.toNat (4 * a2.toNat) → VentReaches s w .read a0.toNat (4 * a2.toNat) →
      VentReaches s w .read a1.toNat (4 * a2.toNat) → a0 = a1 ∨ Separate a0.toNat (4 * a2.toNat) a1.toNat (4 * a2.toNat) →
      AttemptWrites s w r (runCall x w 3 [a0, a1, a2, a3, a4, a5]) () (allEvents a2.toNat (fun i => (z i).2))
        (wordsAt a0.toNat a2.toNat (fun i => (z i).1))) ∧
    (let n := a2.toNat
     let z (i : Nat) := adagrad (lo32 a3) (hi32 a3) (ventWord s w r (a1.toNat + 4 * i)) (ventWord s w r (a0.toNat + 4 * (n + i))) (ventWord s w r (a0.toNat + 4 * i))
     x.library = true → VentRoom r (8 * n) → a0.toNat % 4 = 0 → a1.toNat % 4 = 0 → VentReaches s w .write a0.toNat (8 * n) → VentReaches s w .read a0.toNat (8 * n) →
      VentReaches s w .read a1.toNat (4 * n) → Separate a0.toNat (8 * n) a1.toNat (4 * n) →
      AttemptWrites s w r (runCall x w 4 [a0, a1, a2, a3, a4, a5]) () (allEvents n (fun i => (z i).1.2 ||| (z i).2.2))
        (fun a => (wordsAt a0.toNat n (fun i => (z i).1.1) a) <|> (wordsAt (a0.toNat + 4 * n) n (fun i => (z i).2.1) a))) ∧
    (let n := a2.toNat
     let z (i : Nat) := adam (lo32 a3) (hi32 a3) (lo32 a4) (hi32 a4) (lo32 a5) (hi32 a5) (ventWord s w r (a1.toNat + 4 * i)) (ventWord s w r (a0.toNat + 4 * i))
        (ventWord s w r (a0.toNat + 4 * (n + i))) (ventWord s w r (a0.toNat + 4 * (2 * n + i)))
     x.library = true → VentRoom r (12 * n) → a0.toNat % 4 = 0 → a1.toNat % 4 = 0 → VentReaches s w .write a0.toNat (12 * n) → VentReaches s w .read a0.toNat (12 * n) →
      VentReaches s w .read a1.toNat (4 * n) → Separate a0.toNat (12 * n) a1.toNat (4 * n) →
      AttemptWrites s w r (runCall x w 5 [a0, a1, a2, a3, a4, a5]) () ((fAdd fOne (fNeg (lo32 a4))).2 ||| (fAdd fOne (fNeg (hi32 a4))).2 ||| allEvents n (fun i => (z i).1.2 ||| (z i).2.1.2 ||| (z i).2.2.2))
        (fun a => (wordsAt a0.toNat n (fun i => (z i).1.1) a) <|> (wordsAt (a0.toNat + 4 * n) n (fun i => (z i).2.1.1) a) <|> (wordsAt (a0.toNat + 8 * n) n (fun i => (z i).2.2.1) a))) ∧
    (let n := a4.toNat
     let row (i : Nat) := a1.toNat + ventWord s w r (a2.toNat + 4 * i) * a5.toNat
     let z (j : Nat) := (List.range a3.toNat).foldl (fun (acc : FOut) i =>
        ((fAdd acc.1 (ventWord s w r (row i + 4 * j))).1, acc.2 ||| (fAdd acc.1 (ventWord s w r (row i + 4 * j))).2)) (0, 0)
     x.library = true → VentRoom r (4 * n) → a0.toNat % 4 = 0 → a2.toNat % 4 = 0 → VentReaches s w .write a0.toNat (4 * n) → VentReaches s w .read a2.toNat (4 * a3.toNat) →
      Separate a0.toNat (4 * n) a2.toNat (4 * a3.toNat) →
      (∀ i, i < a3.toNat → row i % 4 = 0 ∧ VentReaches s w .read (row i) (4 * n) ∧ Separate a0.toNat (4 * n) (row i) (4 * n)) →
      AttemptWrites s w r (runCall x w 6 [a0, a1, a2, a3, a4, a5]) () (allEvents n (fun j => (z j).2))
        (wordsAt a0.toNat n (fun j => (z j).1))) ∧
    (let n := hi32 a3
     let bin (i : Nat) := ventWord s w r (a1.toNat + 4 * i) / 2 ^ (a3.extractLsb' 0 5).toNat
     x.library = true → VentRoom r (4 * n) → a0.toNat % 4 = 0 → a1.toNat % 4 = 0 → VentReaches s w .write a0.toNat (4 * n) → VentReaches s w .read a0.toNat (4 * n) →
      VentReaches s w .read a1.toNat (4 * a2.toNat) → Separate a0.toNat (4 * n) a1.toNat (4 * a2.toNat) →
      AttemptWrites s w r (runCall x w 7 [a0, a1, a2, a3, a4, a5]) () (0)
        (wordsAt a0.toNat n (fun b => (ventWord s w r (a0.toNat + 4 * b) + (List.range a2.toNat).countP (fun i => bin i == b)) % 2 ^ 32))) ∧
    (∀ e args, x.library = true → 8 ≤ e → ∃ p, runCall x w e args (s, r) = (p, .error (.cause Cause.nmEntry)) ∧ p.2.buffer = r.buffer ∧ p.1.mem = s.mem) ∧
    (∀ e : Word, x.library = true → (e.toNat = 0 ∧ a1 ≠ 0 ∧ a0.toNat % 4 ≠ 0) ∨ (e.toNat ∈ [2, 3, 4, 5, 7] ∧ a2 ≠ 0 ∧ a1.toNat % 4 ≠ 0) ∨
        (e.toNat = 6 ∧ a3 ≠ 0 ∧ a4 ≠ 0 ∧ a2.toNat % 4 ≠ 0) →
      ∃ p, runCall x w e.toNat [a0, a1, a2, a3, a4, a5] (s, r) = (p, .error (.cause Cause.misaligned)) ∧ p.2.buffer = r.buffer ∧ p.1.mem = s.mem) ∧
    (∀ l, l < 16 →
      let a := m.lane (u.extractLsb' 105 3).toNat l
      let b := m.lane (u.extractLsb' 102 3).toNat l
      let sa := m.mr (u.extractLsb' 85 4).toNat
      match (u.extractLsb' 97 5).toNat with
      | 1 => microLane u m l = ((a + b) % 2 ^ 32, 0)
      | 2 => microLane u m l = (a * b % 2 ^ 32, 0)
      | 3 => microLane u m l = fAdd a b
      | 4 => microLane u m l = fMul a b
      | 5 => microLane u m l = fFma a b (m.lane (u.extractLsb' 108 3).toNat l)
      | 6 => microLane u m l = fDiv a b
      | 7 => microLane u m l = fSqrt a
      | 8 => microLane u m l = (a, 0)
      | 9 => microLane u m l = (sa.toNat % 2 ^ 32, 0)
      | 10 => microLane u m l = (a / 2 ^ sa.toNat, 0)
      | _ => True) ∧
    (∀ fev, m.b.length = 8 →
      if (u.extractLsb' 97 5).toNat = 0 then microVec fev u m (s, r) = ((s, r), .ok m)
      else if 10 < (u.extractLsb' 97 5).toNat then microVec fev u m (s, r) = ((s, r), .error (.cause Cause.nmEntry))
      else ∃ r1 m1, microVec fev u m (s, r) = ((s, r1), .ok m1) ∧ r1.buffer = r.buffer ∧ m1.m = m.m ∧ m1.lc = m.lc ∧ m1.flag = m.flag ∧ m1.at_ = m.at_ ∧
        r1.events = (if fev then r.events ||| allEvents 16 (fun l => if u.getLsbD (53 + l) then (microLane u m l).2 else 0) else r.events) ∧
        (∀ l, l < 16 → m1.lane (u.extractLsb' 108 3).toNat l = (if u.getLsbD (53 + l) then (microLane u m l).1 else m.lane (u.extractLsb' 108 3).toNat l) ∧
          (m1.br (u.extractLsb' 108 3).toNat).2.getLsbD l = u.getLsbD (53 + l)) ∧
        ∀ k, k ≠ (u.extractLsb' 108 3).toNat → m1.br k = m.br k) ∧
    (let d := m.mr (u.extractLsb' 89 4).toNat
     let imm : Word := (u.extractLsb' 69 16).signExtend 64
     let a := if (u.extractLsb' 85 4).toNat = 15 then imm else m.mr (u.extractLsb' 85 4).toNat
     let put (v : Word) : Micro := { m with m := m.m.set (u.extractLsb' 89 4).toNat v }
     microSca u m = (match (u.extractLsb' 93 4).toNat with
      | 0 => .ok m
      | 1 => .ok (put (d + a))
      | 2 => .ok (put (d - a))
      | 3 => .ok (put (d <<< a.toNat))
      | 4 => .ok (put (d >>> a.toNat))
      | 5 => .ok (put (d &&& a))
      | 6 => .ok (put imm)
      | 7 => .ok { m with flag := decide (m.mr (u.extractLsb' 85 4).toNat ≠ d) }
      | 8 => .ok { m with lc := m.mr (u.extractLsb' 85 4).toNat }
      | _ => .error (.cause Cause.nmEntry))) ∧
    (let a := (m.mr (u.extractLsb' 111 4).toNat).toNat
     (u.extractLsb' 115 2).toNat = 1 → a % 64 = 0 → VentRoom r 0 → VentReaches s w .read a 64 → m.b.length = 8 →
      ∃ m1 : Micro, AttemptWrites s w r (microMem w u m) m1 0 (fun _ => none) ∧ m1.m = m.m ∧ (∀ k, k ≠ (u.extractLsb' 108 3).toNat → m1.br k = m.br k) ∧
      ∀ k, k < 64 → lineByte (m1.br (u.extractLsb' 108 3).toNat).1 k = ventByte s w r (a + k)) ∧
    (let a := (m.mr (u.extractLsb' 111 4).toNat).toNat
     let src := m.br (u.extractLsb' 105 3).toNat
     (u.extractLsb' 115 2).toNat = 2 → a % 64 = 0 → VentRoom r 64 → VentReaches s w .write a 64 →
      AttemptWrites s w r (microMem w u m) m 0
        (fun b => if a ≤ b ∧ b < a + 64 ∧ src.2.getLsbD ((b - a) / 4) = true then some (lineByte src.1 (b - a)) else none)) ∧
    (let a := (m.mr (u.extractLsb' 111 4).toNat).toNat
     (u.extractLsb' 115 2).toNat = 3 → a % 4 = 0 → VentRoom r 0 → VentReaches s w .read a 4 →
      AttemptWrites s w r (microMem w u m) { m with m := m.m.set (u.extractLsb' 89 4).toNat (BitVec.ofNat 64 (ventWord s w r a)) } 0 (fun _ => none)) ∧
    (∀ st fev n p p1 p2 m1 m2 m3, Tab.get 0 st m.at_ = u → (u.extractLsb' 117 3).toNat < 5 → microMem w u m p = (p1, .ok m1) → microVec fev u m1 p1 = (p2, .ok m2) →
      microSca u m2 = .ok m3 → p2.2.todo = [] →
      let q : State × VentRun := (pmcCount p2.1 (.vent w.vent) 67 w.ctx 1, { p2.2 with got := p2.2.got ++ [[]] })
      let next := (m.at_ + 1) % 256
      let far := (u.extractLsb' 120 8).toNat
      m3.at_ = m.at_ ∧ microRun w st fev (n + 1) m p = (match (u.extractLsb' 117 3).toNat with
      | 0 => microRun w st fev n { m3 with at_ := next } q
      | 1 => microRun w st fev n { m3 with at_ := far } q
      | 2 => microRun w st fev n { m3 with lc := m3.lc - 1, at_ := if m3.lc - 1 ≠ 0 then far else next } q
      | 3 => microRun w st fev n { m3 with at_ := if m3.flag then far else next } q
      | _ => (q, .ok ()))) ∧
    (∀ st fev n p, (Tab.get 0 st m.at_ = u → 5 ≤ (u.extractLsb' 117 3).toNat → microRun w st fev n m p = (p, .error (.cause Cause.nmEntry))) ∧
      microRun w st fev 0 m p = (p, .error (.cause Cause.nmEntry))) ∧
    (∀ e args p, let g := Tab.get 0 x.table e
      args.length = 6 → if e < 64 ∧ g.getLsbD 63 = true then ∃ m0 : Micro, microCall x w e args p = microRun w x.store (g.getLsbD 2) (2 ^ 20) m0 p ∧
          m0.at_ = (g.extractLsb' 40 8).toNat ∧ m0.b.length = 8 ∧ ∀ k, k < 16 → m0.mr k = if k < 6 then args.getD k 0 else 0
        else microCall x w e args p = (p, .error (.cause Cause.nmEntry)))

/-- R312, R329-R333: `rbeg` opens a region in a free slot under the next ticket and answers its identifier; in an open region it traps, and while no
region may open it waits; `rend` ends the region, whose token is to come, or comes at once where the region is doomed or irrevocable; `rabt` aborts it
with its own code, and drops its bytes; `rstat` reads 0 outside a region, and inside the region's status. Where the spec leaves a choice it rests on
the model's, log 72. -/
def Obligations.Regions : Prop :=
  ∀ (h : Hdr) (irr : Bool) (d : SIdx) (n : BitVec 16) (s : State) (sid : Nat) (t : Team),
    (let i := Instr.rbeg h irr d
     let u := teamAtIssue i s sid t
     let s0 := atIssue i s sid t
     let at_ := min (u.attempts + 1) 63
     Runs i h s sid t → u.region = none → regionFree s0 sid irr (irrSince u) = true →
      Goes i s sid t [.s d.toNat] (fun s' t' =>
        ∃ r : Region, ∃ v : RegionView, s'.regions = s0.regions ++ [r] ∧ s0.region? r.slot = none ∧ r.ticket = s0.ticket ∧ s'.ticket = s0.ticket + 1 ∧ r.irr = irr ∧
          r.ending = false ∧ r.preds = [] ∧ r.sid = sid ∧ t'.region = some v ∧ v.slot = r.slot ∧ v.live = true ∧ v.irr = irr ∧ v.attempt = at_ ∧
          v.ending = false ∧ v.doomed = false ∧ SameBytes s0 s' ∧
          Holds t' d (BitVec.ofNat 64 (s0.ticket % 2 ^ 48 * 2 ^ 16 + (if irr then 2 ^ 14 else 0) + at_ * 2 ^ 8 + r.slot)))) ∧
    (let i := Instr.rbeg h irr d
     let u := teamAtIssue i s sid t
     Runs i h s sid t → u.openRegion ≠ none →
      Traps i s sid t Cause.regionState 0) ∧
    (let i := Instr.rbeg h false d
     let u := teamAtIssue i s sid t
     let s0 := atIssue i s sid t
     Runs i h s sid t → u.region = none → regionFree s0 sid false (irrSince u) = false →
      Waits i s sid t .regionStart) ∧
    (let i := Instr.rbeg h true d
     let u := teamAtIssue i s sid t
     let s0 := atIssue i s sid t
     Runs i h s sid t → u.region = none → irrSince u = none → regionFree s0 sid true none = false →
      Waits i s sid t (.irrStart s0.order)) ∧
    (let i := Instr.rend h d
     let u := teamAtIssue i s sid t
     let s0 := atIssue i s sid t
     ∀ v, Runs i h s sid t → u.openRegion = some v →
      v.irr = false → v.doomed = false → ∀ r, s0.region? v.slot = some r →
      Goes i s sid t [.s d.toNat] (fun s' t' =>
        (∃ w, t'.region = some w ∧ w.ending = true ∧ w.slot = v.slot ∧ w.reg = d.toNat) ∧ (∃ r', s'.region? v.slot = some r' ∧ r'.ending = true ∧
          r'.ticket = r.ticket ∧ r'.preds = r.preds) ∧ Awaited t' d ∧ SameBytes s0 s')) ∧
    (let i := Instr.rend h d
     let u := teamAtIssue i s sid t
     let s0 := atIssue i s sid t
     ∀ v, Runs i h s sid t → u.openRegion = some v →
      v.doomed = true → v.irr = false →
      Goes i s sid t [.s d.toNat] (fun s' t' =>
        t'.region = none ∧ SameBytes s0 s' ∧
          Holds t' d (BitVec.ofNat 64 (2 ^ 63 + v.cause.toNat * 2 ^ 54 + v.attempt % 64 * 2 ^ 48 + v.slot % 256 * 2 ^ 40 + v.value.toNat)))) ∧
    (let i := Instr.rend h d
     let u := teamAtIssue i s sid t
     let s0 := atIssue i s sid t
     ∀ v, Runs i h s sid t → u.openRegion = some v →
      v.irr = true → v.doomed = false → (∀ q ∈ s0.wq, q.sid ≠ sid) → Released s0 u →
      Goes i s sid t [.s d.toNat] (fun s' t' =>
        t'.region = none ∧ t'.attempts = 0 ∧ s'.region? v.slot = none ∧
          Holds t' d (BitVec.ofNat 64 (2 ^ 63 + v.attempt % 64 * 2 ^ 48 + v.slot % 256 * 2 ^ 40)))) ∧
    (let i := Instr.rend h d
     let u := teamAtIssue i s sid t
     Runs i h s sid t → u.openRegion = none →
      Traps i s sid t Cause.regionState 0) ∧
    (let i := Instr.rabt h n
     let u := teamAtIssue i s sid t
     let s0 := atIssue i s sid t
     ∀ v, Runs i h s sid t → u.openRegion = some v →
      v.irr = false → v.doomed = false → (∀ r ∈ s0.regions, r.sid = sid → r.slot = v.slot) →
      ∀ r, s0.region? v.slot = some r → r.sid = sid → r.tkey = u.key → r.ending = false → r.irr = false →
      Goes i s sid t [] (fun s' t' =>
        t'.region = some { v with live := false, doomed := true, cause := Cause.userAbort, value := n.setWidth 32 } ∧
          s'.region? v.slot = none ∧ (∀ x ∈ s'.spec, x.slot ≠ v.slot) ∧ SameMemory s0 s')) ∧
    (let i := Instr.rabt h n
     let u := teamAtIssue i s sid t
     let s0 := atIssue i s sid t
     ∀ v, Runs i h s sid t → u.openRegion = some v →
      v.irr = false → v.doomed = true →
      Goes i s sid t [] (fun s' t' =>
        t'.region = u.region ∧ SameBytes s0 s' ∧ s'.regions = s0.regions)) ∧
    (let i := Instr.rabt h n
     let u := teamAtIssue i s sid t
     ∀ v, Runs i h s sid t → u.openRegion = some v →
      v.irr = true →
      Traps i s sid t Cause.regionIllegalOp 0) ∧
    (let i := Instr.rabt h n
     let u := teamAtIssue i s sid t
     Runs i h s sid t → u.openRegion = none →
      Traps i s sid t Cause.regionState 0) ∧
    (let i := Instr.rstat h d
     let u := teamAtIssue i s sid t
     let s0 := atIssue i s sid t
     Runs i h s sid t →
      Goes i s sid t [.s d.toNat] (fun s' t' =>
        SameBytes s0 s' ∧ s'.regions = s0.regions ∧ t'.region = u.region ∧
          Holds t' d (match u.region with | none => 0 | some v => regionStatus s0 v)))

/-- R343-R345, R347, R350: `gcall` releases, takes a slot and sends its seven arguments with what identifies the sender, to a die of its own device or in
order over a port to the other; without a job tag, or without a port to the device, its token says so at once; it waits for earlier writes, and at
sixteen calls for a slot; a handler that may not call out traps. Where the spec leaves a choice it rests on the model's, log 68, 70 and 105. -/
def Obligations.GeyserCalls : Prop :=
  ∀ (h : Hdr) (d a : SIdx) (k : CallImm) (s : State) (sid : Nat) (t : Team),
    (let i := Instr.gcall h d a k
     let u := teamAtIssue i s sid t
     let s0 := atIssue i s sid t
     let dev : BitVec 12 := ((viewAtIssue i s sid t).sr (a.toNat + 7)).extractLsb' 0 12
     let slot := ((List.range 16).find? (fun k => (Tab.find u.slots k).isNone)).getD 0
     let jt : BitVec 16 := (match s0.ctx? u.ctx with | some c => c.gyJobtag | none => 0)
     Runs i h s sid t → u.region = none → (∀ x, u.handler = some x → x.nocall = false) → u.slots.length < 16 →
      (∀ q ∈ s0.wq, q.sid ≠ sid) → jt ≠ 0 → dev = s0.devId →
      Goes i s sid t [.s d.toNat] (fun s' t' =>
        (∃ x : Arrival, ∃ y : Call, s'.arrivals = s0.arrivals ++ [x] ∧ x.call = y ∧ x.die = u.die ∧ x.port = none ∧ y.args = (List.range 7).map (fun j => (viewAtIssue i s sid t).sr (a.toNat + j)) ∧ y.handler = k.handler ∧ y.cls = k.cls ∧ y.reply = k.reply ∧ y.sdev = s0.devId ∧
          y.sctx = BitVec.ofNat 16 u.ctx ∧ y.steam = BitVec.ofNat 24 u.team ∧ y.jobtag = jt ∧ y.slot = BitVec.ofNat 4 slot) ∧
          (∃ x, Tab.find t'.slots slot = some x ∧ x.reg = d.toNat ∧ x.dev = dev ∧ x.reply = k.reply ∧ x.issued = s0.rt ∧ x.acked = false) ∧ Awaited t' d)) ∧
    (let i := Instr.gcall h d a k
     let u := teamAtIssue i s sid t
     let s0 := atIssue i s sid t
     let dev : BitVec 12 := ((viewAtIssue i s sid t).sr (a.toNat + 7)).extractLsb' 0 12
     let slot := ((List.range 16).find? (fun k => (Tab.find u.slots k).isNone)).getD 0
     let jt : BitVec 16 := (match s0.ctx? u.ctx with | some c => c.gyJobtag | none => 0)
     Runs i h s sid t → u.region = none → (∀ x, u.handler = some x → x.nocall = false) → u.slots.length < 16 →
      (∀ q ∈ s0.wq, q.sid ≠ sid) → jt ≠ 0 → dev ≠ s0.devId → portsTo s0 dev ≠ [] →
      Goes i s sid t [.s d.toNat] (fun s' t' =>
        (∃ p, ∃ y : Call, p ∈ portsTo s0 dev ∧ (s'.port p).replay.map Prod.snd ++ (s'.port p).replies ++ (s'.port p).waiting =
            (s0.port p).replay.map Prod.snd ++ (s0.port p).replies ++ (s0.port p).waiting ++ [.call y] ∧ y.args = (List.range 7).map (fun j => (viewAtIssue i s sid t).sr (a.toNat + j)) ∧ y.handler = k.handler ∧ y.cls = k.cls ∧ y.reply = k.reply ∧ y.sdev = s0.devId ∧
          y.sctx = BitVec.ofNat 16 u.ctx ∧ y.steam = BitVec.ofNat 24 u.team ∧ y.jobtag = jt ∧ y.slot = BitVec.ofNat 4 slot) ∧
          (∃ x, Tab.find t'.slots slot = some x ∧ x.reg = d.toNat ∧ x.dev = dev ∧ x.reply = k.reply ∧ x.issued = s0.rt ∧ x.acked = false) ∧ Awaited t' d)) ∧
    (let i := Instr.gcall h d a k
     let u := teamAtIssue i s sid t
     let s0 := atIssue i s sid t
     let dev : BitVec 12 := ((viewAtIssue i s sid t).sr (a.toNat + 7)).extractLsb' 0 12
     let slot := ((List.range 16).find? (fun k => (Tab.find u.slots k).isNone)).getD 0
     let jt : BitVec 16 := (match s0.ctx? u.ctx with | some c => c.gyJobtag | none => 0)
     Runs i h s sid t → u.region = none → (∀ x, u.handler = some x → x.nocall = false) → u.slots.length < 16 →
      (∀ q ∈ s0.wq, q.sid ≠ sid) → s0.teamByKey u.key = some (sid, u) → jt = 0 →
      Goes i s sid t [.s d.toNat] (fun _ t' =>
        Holds t' d (BitVec.ofNat 64 (2 ^ 63 + Cause.denied.toNat * 2 ^ 54 + dev.toNat * 2 ^ 32)) ∧ (Tab.find t'.slots slot).isNone)) ∧
    (let i := Instr.gcall h d a k
     let u := teamAtIssue i s sid t
     let s0 := atIssue i s sid t
     let dev : BitVec 12 := ((viewAtIssue i s sid t).sr (a.toNat + 7)).extractLsb' 0 12
     let slot := ((List.range 16).find? (fun k => (Tab.find u.slots k).isNone)).getD 0
     let jt : BitVec 16 := (match s0.ctx? u.ctx with | some c => c.gyJobtag | none => 0)
     Runs i h s sid t → u.region = none → (∀ x, u.handler = some x → x.nocall = false) → u.slots.length < 16 →
      (∀ q ∈ s0.wq, q.sid ≠ sid) → s0.teamByKey u.key = some (sid, u) → jt ≠ 0 → dev ≠ s0.devId → portsTo s0 dev = [] →
      Goes i s sid t [.s d.toNat] (fun _ t' =>
        Holds t' d (BitVec.ofNat 64 (2 ^ 63 + Cause.linkDown.toNat * 2 ^ 54 + dev.toNat * 2 ^ 32)) ∧ (Tab.find t'.slots slot).isNone)) ∧
    (let i := Instr.gcall h d a k
     let u := teamAtIssue i s sid t
     Runs i h s sid t → u.region = none → (∀ x, u.handler = some x → x.nocall = false) → 16 ≤ u.slots.length →
      Waits i s sid t .callSlot) ∧
    (let i := Instr.gcall h d a k
     let u := teamAtIssue i s sid t
     ∀ x, Runs i h s sid t → u.region = none → u.handler = some x → x.nocall = true →
      Traps i s sid t Cause.denied 0) ∧
    (let i := Instr.gcall h d a k
     let u := teamAtIssue i s sid t
     let s0 := atIssue i s sid t
     Runs i h s sid t → u.region = none → (∀ x, u.handler = some x → x.nocall = false) → u.slots.length < 16 →
      (∀ q ∈ s0.wq, q.sid ≠ sid) →
      Goes i s sid t [.s d.toNat] (fun s' t' => (d ≠ 0 → t'.callToks.getLsbD d.toNat = true) ∧ WrittenBack s0 s' u)) ∧
    (let i := Instr.gcall h d a k
     let u := teamAtIssue i s sid t
     let s0 := atIssue i s sid t
     Runs i h s sid t → u.region = none → (∀ x, u.handler = some x → x.nocall = false) → u.slots.length < 16 →
      (∃ q ∈ s0.wq, q.sid = sid) →
      Waits i s sid t .drain)

/-- R343, R350, R352-R355: `gret` answers the handler's call once, with a status of 0 or from 0x1E0 up: to a team of its own device, over the reply
channel of a port, or kept while no route is up and given its place before the calls that wait (R354; log 71); where the call asked for no reply
nothing is sent, and a slot whose token has landed is freed; another status, and a second answer, trap. `gpoll` reads whether a register's value has
landed, and acquires only a landed call token. Where the spec leaves a choice it rests on the model's, log 68 and 71. -/
def Obligations.GeyserReplies : Prop :=
  ∀ (h : Hdr) (d a : SIdx) (c : StatOp) (s : State) (sid : Nat) (t : Team),
    (let i := Instr.gret h a c
     let u := teamAtIssue i s sid t
     let s0 := atIssue i s sid t
     let st : BitVec 9 := match c with | .s n => ((viewAtIssue i s sid t).sr n.toNat).extractLsb' 0 9 | .imm k => k
     ∀ x, Runs i h s sid t → u.region = none → u.handler = some x → x.replied = false → (∀ q ∈ s0.wq, q.sid ≠ sid) →
      st = 0 ∨ 0x1E0 ≤ st.toNat → x.call.reply = true → x.call.sdev = s0.devId →
      Goes i s sid t [] (fun s' t' =>
        t'.handler = some { x with replied := true } ∧ s'.mail = s0.mail ++ [.replyLand x.call.sref x.call.slot.toNat st x.cls x.spilled (((viewAtIssue i s sid t).sr a.toNat).extractLsb' 0 32)])) ∧
    (let i := Instr.gret h a c
     let u := teamAtIssue i s sid t
     let s0 := atIssue i s sid t
     let st : BitVec 9 := match c with | .s n => ((viewAtIssue i s sid t).sr n.toNat).extractLsb' 0 9 | .imm k => k
     ∀ x, Runs i h s sid t → u.region = none → u.handler = some x → x.replied = false → (∀ q ∈ s0.wq, q.sid ≠ sid) →
      st = 0 ∨ 0x1E0 ≤ st.toNat → x.call.reply = true → x.call.sdev ≠ s0.devId → portsTo s0 x.call.sdev ≠ [] →
      Goes i s sid t [] (fun s' t' =>
        t'.handler = some { x with replied := true } ∧ s'.mail = s0.mail ∧
          ∃ p ∈ portsTo s0 x.call.sdev, (s'.port p).replay.map Prod.snd ++ (s'.port p).replies ++ (s'.port p).waiting =
            (s0.port p).replay.map Prod.snd ++ (s0.port p).replies ++ [.reply x.call.sref x.call.slot.toNat st x.cls x.spilled (((viewAtIssue i s sid t).sr a.toNat).extractLsb' 0 32)] ++ (s0.port p).waiting)) ∧
    (let i := Instr.gret h a c
     let u := teamAtIssue i s sid t
     let s0 := atIssue i s sid t
     let st : BitVec 9 := match c with | .s n => ((viewAtIssue i s sid t).sr n.toNat).extractLsb' 0 9 | .imm k => k
     ∀ x, Runs i h s sid t → u.region = none → u.handler = some x → x.replied = false → (∀ q ∈ s0.wq, q.sid ≠ sid) →
      st = 0 ∨ 0x1E0 ≤ st.toNat → x.call.reply = true → x.call.sdev ≠ s0.devId → portsTo s0 x.call.sdev = [] →
      Goes i s sid t [] (fun s' t' =>
        t'.handler = some { x with replied := true } ∧ s'.mail = s0.mail ∧ s'.ports = s0.ports ∧
          s'.unsent = s0.unsent ++ [(x.call.sdev.toNat, .reply x.call.sref x.call.slot.toNat st x.cls x.spilled (((viewAtIssue i s sid t).sr a.toNat).extractLsb' 0 32))])) ∧
    (let i := Instr.gret h a c
     let u := teamAtIssue i s sid t
     let s0 := atIssue i s sid t
     let st : BitVec 9 := match c with | .s n => ((viewAtIssue i s sid t).sr n.toNat).extractLsb' 0 9 | .imm k => k
     ∀ x, Runs i h s sid t → u.region = none → u.handler = some x → x.replied = false → (∀ q ∈ s0.wq, q.sid ≠ sid) →
      st = 0 ∨ 0x1E0 ≤ st.toNat → x.call.reply = false →
      Goes i s sid t [] (fun s' t' =>
        t'.handler = some { x with replied := true } ∧ s'.mail = s0.mail ∧ s'.ports = s0.ports ∧ s'.unsent = s0.unsent ∧
          ∀ n v y, x.call.sdev = s0.devId → s0.teamByKey x.call.sref = some (n, v) → n ≠ sid → u.key ≠ x.call.sref →
            Tab.find v.slots x.call.slot.toNat = some y → y.landed = true →
            ∃ v', s'.team? n = some v' ∧ Tab.find v'.slots x.call.slot.toNat = none)) ∧
    (let i := Instr.gret h a c
     let u := teamAtIssue i s sid t
     let s0 := atIssue i s sid t
     let st : BitVec 9 := match c with | .s n => ((viewAtIssue i s sid t).sr n.toNat).extractLsb' 0 9 | .imm k => k
     ∀ x, Runs i h s sid t → u.region = none → u.handler = some x → x.replied = false → (∃ q ∈ s0.wq, q.sid = sid) →
      st = 0 ∨ 0x1E0 ≤ st.toNat → Waits i s sid t .drain) ∧
    (let i := Instr.gret h a c
     let u := teamAtIssue i s sid t
     let s0 := atIssue i s sid t
     let st : BitVec 9 := match c with | .s n => ((viewAtIssue i s sid t).sr n.toNat).extractLsb' 0 9 | .imm k => k
     ∀ x, Runs i h s sid t → u.region = none → u.handler = some x → x.replied = false → (∀ q ∈ s0.wq, q.sid ≠ sid) →
      st ≠ 0 → st.toNat < 0x1E0 →
      Traps i s sid t Cause.illegalOperand (posVal 2 st.toNat)) ∧
    (let i := Instr.gret h a c
     let u := teamAtIssue i s sid t
     let st : BitVec 9 := match c with | .s n => ((viewAtIssue i s sid t).sr n.toNat).extractLsb' 0 9 | .imm k => k
     Runs i h s sid t → u.region = none → (st = 0 ∨ 0x1E0 ≤ st.toNat) → (∀ x, u.handler = some x → x.replied = true) →
      Traps i s sid t Cause.gyState 0) ∧
    (let i := Instr.gpoll h d a
     let u := teamAtIssue i s sid t
     let s0 := atIssue i s sid t
     Runs i h s sid t →
      Goes i s sid t [.s d.toNat] (fun s' t' =>
        Holds t' d (if ∃ e ∈ u.sb, e.reg = .s a.toNat then 0 else 1) ∧ SameMemory s0 s' ∧ s'.homes = s0.homes ∧
          ((∃ e ∈ u.sb, e.reg = .s a.toNat) ∨ u.callToks.getLsbD a.toNat = false → SameBytes s0 s')))

/-- R369, R373, R376, and the registers' own tables: `csrr` reads a register; `csrw` leaves what its table says of the value written, and every other
register as it was, but that a write to EXC.WIN clears the windows' counts; writes to PMC.CNT are due at once. Where the spec leaves a choice it rests
on the model's, log 82. -/
def Obligations.SpecialRegisters : Prop :=
  ∀ (h : Hdr) (d a : SIdx) (op : CsrOp) (n : BitVec 12) (s : State) (sid : Nat) (t : Team),
    (let i := Instr.csrr h d n
     let u := teamAtIssue i s sid t
     let s0 := atIssue i s sid t
     Runs i h s sid t →
      Goes i s sid t [.s d.toNat] (fun s' t' =>
        Holds t' d (csrRead s0 u n.toNat) ∧ SameBytes s0 s')) ∧
    (let i := Instr.csrw h op n a
     let u := teamAtIssue i s sid t
     let s0 := atIssue i s sid t
     let v := csrValue op (csrRead s0 u n.toNat) ((viewAtIssue i s sid t).sr a.toNat)
     Runs i h s sid t → csrListed n.toNat = true → n.toNat < 0x430 ∨ 0x43F < n.toNat → s0.ctx? u.ctx ≠ none →
      ∃ s' t', exec i s = .next s' ∧ s'.team? sid = some t' ∧ t'.pc = u.pc + 12 ∧ SameRegs u t' [] ∧ SameBytes s0 s' ∧
        csrRead s' t' n.toNat = csrKept (csrRead s0 u n.toNat) v n.toNat ∧
        ∀ m, csrListed m = true → m ≠ n.toNat → m < 0x430 ∨ 0x43F < m → (n.toNat = 0x028 → m < 0x02A ∨ 0x031 < m) →
          csrRead s' t' m = csrRead s0 u m) ∧
    (let i := Instr.csrw h op n a
     let u := teamAtIssue i s sid t
     let s0 := atIssue i s sid t
     let v := csrValue op (csrRead s0 u n.toNat) ((viewAtIssue i s sid t).sr a.toNat)
     Runs i h s sid t → 0x430 ≤ n.toNat → n.toNat ≤ 0x437 →
      Goes i s sid t [] (fun s' t' =>
        csrRead s' t' n.toNat = (v &&& 0xFFFF000000030000#64) ||| (if (v &&& 0x3FF#64).toNat ≤ 10 then v &&& 0x3FF#64 else 0))) ∧
    (let i := Instr.csrw h op n a
     let u := teamAtIssue i s sid t
     let s0 := atIssue i s sid t
     let v := csrValue op (csrRead s0 u n.toNat) ((viewAtIssue i s sid t).sr a.toNat)
     Runs i h s sid t → 0x438 ≤ n.toNat → n.toNat ≤ 0x43F →
      Goes i s sid t [] (fun s' _ =>
        (∃ later, s'.agenda = .pmcCntWrite (.core u.coreId) (n.toNat - 0x438) v :: s0.agenda ++ later) ∧ SameBytes s0 s'))

/-- R363, R371, R372: `probe` answers what a load of its address would find, of a peer's page whether the peer is reached and admits it, or the cause it
would take, with the page where U alone refuses it, and changes nothing but a cached translation; `intr` writes a record of KIND 1 at TAIL of its
context's ring, which then advances, with the fields of the record's table, and completes; at once where the ring is disabled; after `tinv` no
translation of the context that meets its range is held, no line filled or being filled under one, and no write queued under one. Where the spec
leaves a choice it rests on the model's, log 81, 83 and 84. -/
def Obligations.SystemInstructions : Prop :=
  ∀ (h : Hdr) (d a : SIdx) (o : Option SIdx) (b : SI) (m : MemOp) (k : BitVec 8) (s : State) (sid : Nat) (t : Team),
    (let i := Instr.probe h d m
     let u := teamAtIssue i s sid t
     let s0 := atIssue i s sid t
     let va := (viewAtIssue i s sid t).sr m.base.toNat + m.off.signExtend 64
     ∀ s1 tr, Runs i h s sid t → canonical va = true → translate s0 (unitOf va.toNat) u.ctx va .read = (s1, .ok tr) → tr.peer = none → tr.size ≤ 30 →
      Goes i s sid t [.s d.toNat] (fun s' t' =>
        Holds t' d (BitVec.ofNat 64 (2 ^ 2 + (if tr.w then 2 ^ 3 else 0) + (if tr.x then 2 ^ 4 else 0) +
          (if sealedAt s0 u.ctx va.toNat then 2 ^ 5 else 0) + (tr.size - 12) / 9 % 4 * 2 ^ 6)) ∧ SameBytes s0 s')) ∧
    (let i := Instr.probe h d m
     let u := teamAtIssue i s sid t
     let s0 := atIssue i s sid t
     let va := (viewAtIssue i s sid t).sr m.base.toNat + m.off.signExtend 64
     Runs i h s sid t → canonical va = false → sealedAt s0 u.ctx va.toNat = false →
      Goes i s sid t [.s d.toNat] (fun s' t' =>
        Holds t' d (Cause.noncanonical.setWidth 64 <<< 55) ∧ SameBytes s0 s')) ∧
    (let i := Instr.probe h d m
     let u := teamAtIssue i s sid t
     let s0 := atIssue i s sid t
     let va := (viewAtIssue i s sid t).sr m.base.toNat + m.off.signExtend 64
     ∀ s1 f, Runs i h s sid t → canonical va = true → translate s0 (unitOf va.toNat) u.ctx va .read = (s1, .error f) → f ≠ .hard Cause.accessViolation →
      Goes i s sid t [.s d.toNat] (fun s' t' =>
        Holds t' d ((BitVec.setWidth 64 (match f with | .hard c => c | .absent _ => Cause.pageFault : BitVec 9)) <<< (55 : Nat) ||| (if sealedAt s0 u.ctx va.toNat then 32#64 else 0#64)) ∧
          SameBytes s0 s')) ∧
    (let i := Instr.intr h o k
     let u := teamAtIssue i s sid t
     let s0 := atIssue i s sid t
     let v := match o with | some n => (viewAtIssue i s sid t).sr n.toNat | none => 0
     let rec_ := eventRecord s0.clock v (match s0.launch? u.lid with | some l => l.launchId | none => 0) u.team k.toNat 0 1 u.ctx
     ∀ c s3, Runs i h s sid t → u.region = none → (∀ q ∈ s0.wq, q.sid ≠ sid) → Released s0 u → s0.ctx? u.ctx = some c → ringLog c.ctxEvq ≠ 0 →
      ringWrite s0 u.ctx rec_ = (s3, .written) → s3.teams = s0.teams →
      Goes i s sid t [] (fun s' _ =>
        s'.mem = s3.mem ∧ s'.homes = s3.homes ∧ s'.signals = s3.signals)) ∧
    (let i := Instr.intr h o k
     let u := teamAtIssue i s sid t
     let s0 := atIssue i s sid t
     ∀ c, Runs i h s sid t → u.region = none → (∀ q ∈ s0.wq, q.sid ≠ sid) → Released s0 u → s0.ctx? u.ctx = some c → ringLog c.ctxEvq = 0 → (bumpLost s0 u.ctx).1.teams = s0.teams → (∀ m, (bumpLost s0 u.ctx).2 ≠ .missing m) →
      Goes i s sid t [] (fun s' _ =>
        s'.signals = (bumpLost s0 u.ctx).1.signals ∧ s'.mem = (bumpLost s0 u.ctx).1.mem)) ∧
    (let i := Instr.tinv h a b
     let u := teamAtIssue i s sid t
     let s0 := atIssue i s sid t
     let lo := ((viewAtIssue i s sid t).sr a.toNat).toNat
     let n := ((viewAtIssue i s sid t).si b).toNat
     Runs i h s sid t → u.region = none → s0.spec = [] →
      Goes i s sid t [] (fun s' _ =>
        (∀ e ∈ s'.tlb, e.ctx = u.ctx → meetsRange lo n (e.vpage * 2 ^ e.tr.size / 64) e.tr = false) ∧
          (∀ x ∈ s'.l1, ∀ tr, x.ctx = u.ctx → x.tr = some tr → meetsRange lo n x.line tr = false) ∧
          (∀ x ∈ s'.homes, x.ctx = u.ctx → meetsRange lo n x.line x.tr = false) ∧
          (∀ x ∈ s'.fills, ∀ tr, x.ctx = u.ctx → x.tr = some tr → meetsRange lo n x.line tr = false) ∧
          (∀ x ∈ s'.wq, x.ctx = u.ctx → meetsRange lo n x.line x.tr = false))) ∧
    (let i := Instr.probe h d m
     let u := teamAtIssue i s sid t
     let s0 := atIssue i s sid t
     let va := (viewAtIssue i s sid t).sr m.base.toNat + m.off.signExtend 64
     ∀ s1 tr dev, Runs i h s sid t → canonical va = true → translate s0 (unitOf va.toNat) u.ctx va .read = (s1, .ok tr) → tr.peer = some dev → tr.size ≤ 30 →
      (∀ x, u.handler = some x → x.nocall = false) →
      let cause : BitVec 9 := if portsTo s0 dev = [] then Cause.peerUnreachable else match s0.peers.find? (fun p => p.dev == dev) with
        | none => Cause.peerUnreachable
        | some p => if exportAdmits p.table s0.devId (tr.pa + va.toNat % 2 ^ tr.size) 4 true false then 0 else Cause.accessViolation
      Goes i s sid t [.s d.toNat] (fun s' t' =>
        Holds t' d (BitVec.ofNat 64 (2 ^ 2 + (if tr.w then 2 ^ 3 else 0) + (if tr.x then 2 ^ 4 else 0) +
          (if sealedAt s0 u.ctx va.toNat then 2 ^ 5 else 0) + (tr.size - 12) / 9 % 4 * 2 ^ 6 + 2 ^ 8 + cause.toNat * 2 ^ 55)) ∧ SameBytes s0 s')) ∧
    (let i := Instr.probe h d m
     let u := teamAtIssue i s sid t
     let s0 := atIssue i s sid t
     let va := (viewAtIssue i s sid t).sr m.base.toNat + m.off.signExtend 64
     ∀ s1 s2 tr, Runs i h s sid t → canonical va = true → translate s0 (unitOf va.toNat) u.ctx va .read = (s1, .error (.hard Cause.accessViolation)) →
      walk (s0.onCtx u.ctx (fun c => { c with ptlDesc := c.ptlDesc &&& ~~~ 4#64 })) u.ctx va .read = (s2, .ok tr) → tr.peer = none → tr.size ≤ 30 →
      Goes i s sid t [.s d.toNat] (fun s' t' =>
        Holds t' d (BitVec.ofNat 64 (2 ^ 2 + (if tr.w then 2 ^ 3 else 0) + (if tr.x then 2 ^ 4 else 0) +
          (if sealedAt s0 u.ctx va.toNat then 2 ^ 5 else 0) + (tr.size - 12) / 9 % 4 * 2 ^ 6 + Cause.accessViolation.toNat * 2 ^ 55)) ∧ SameBytes s0 s')) ∧
    (let i := Instr.intr h o k
     let u := teamAtIssue i s sid t
     let s0 := atIssue i s sid t
     let v := match o with | some n => (viewAtIssue i s sid t).sr n.toNat | none => 0
     ∀ c, Runs i h s sid t → u.region = none → (∀ q ∈ s0.wq, q.sid ≠ sid) → Released s0 u → RingReady s0 u.ctx c →
      Goes i s sid t [] (fun s' _ =>
        Recorded s0 s' u.ctx c (recordBits s0.clock v (match s0.launch? u.lid with | some l => l.launchId | none => 0) u.team k.toNat 0 1 u.ctx)))

/-- R88, R200-R201, R203, R204, R211, R229, R230, R232, R234, R235, R263, R270: a response frees the miss-status entries of its pass, and a result lands
once its responses and its banks are there; when that of `unseal` lands the range is sealed no more and no cache holds a copy of it; an aged pass
joins its core's queue; a fill brings its bytes to those of its line that are not dirty, unless its lease has ended; a written-back line is clean, and
its dirty bytes are at its home; a write check that answers ends its wait, with its translation or its cause; queued writes drain, to the home and the
copy of their core; translations whose lease ends are gone, and the bytes and writes under them; poison stays; the host reads what the homes hold,
poison with it, and its writes leave no home's copy, every byte of memory but those of their mask as it was; its snoops of a line that a home owns for
atomics wait. Where the spec leaves a choice it rests on the model's, log 22, 23, 27, 31 and 32. -/
def Obligations.CacheSteps : Prop :=
  ∀ (s : State),
    (∀ sid tok t, s.team? sid = some t → (∀ m ∈ t.misses, m.tok ≠ tok) →
      (∃ e ∈ t.sb, e.tok = tok ∧ e.engine = false ∧ e.due ≤ s.clock ∧ ∀ m ∈ t.misses, m.tok ∉ e.after) →
      (∀ c, s.ctx? t.ctx = some c → ∀ x ∈ c.unseals, x.1 ≠ tok) →
      exec (.resultLand sid tok) s = .next (s.setTeam sid { t with sb := t.sb.filter (fun e => e.tok != tok) })) ∧
    (∀ sid tok t, s.team? sid = some t → (∃ m ∈ t.misses, m.tok = tok) →
      exec (.resultLand sid tok) s = .next (s.setTeam sid { t with misses := t.misses.filter (fun m => m.tok != tok) })) ∧
    (∀ sid tok t c x, s.team? sid = some t → (∀ m ∈ t.misses, m.tok ≠ tok) →
      (∃ e ∈ t.sb, e.tok = tok ∧ e.engine = false ∧ e.due ≤ s.clock ∧ ∀ m ∈ t.misses, m.tok ∉ e.after) →
      s.ctx? t.ctx = some c → c.unseals.find? (fun u => u.1 == tok) = some x →
      ∃ s' c', exec (.resultLand sid tok) s = .next s' ∧ s'.team? sid = some { t with sb := t.sb.filter (fun e => e.tok != tok) } ∧
        s'.ctx? t.ctx = some c' ∧ c'.seals = c.seals.erase x.2 ∧ c'.unseals = c.unseals.erase x ∧ SameMemory s s' ∧
        (∀ y ∈ s'.l1, y.ctx = t.ctx → x.2.1 ≤ y.line * 64 → x.2.1 + x.2.2 ≤ y.line * 64) ∧
        (∀ y ∈ s'.homes, y.ctx = t.ctx → x.2.1 ≤ y.line * 64 → x.2.1 + x.2.2 ≤ y.line * 64) ∧
        (∀ y ∈ s'.fills, y.ctx = t.ctx → x.2.1 ≤ y.line * 64 → x.2.1 + x.2.2 ≤ y.line * 64)) ∧
    (∀ sid t, s.team? sid = some t → t.park = .aged → t.aged = false → 
      ∃ s' t', exec (.passAged sid) s = .next s' ∧ s'.team? sid = some t' ∧ t' = { t with aged := true } ∧
        (s'.core t.coreId).agedQ = (s.core t.coreId).agedQ ++ [t.slot] ∧ SameBytes s s') ∧
    (∀ i f, s.fills[i]? = some f → f.homeOnly = false → (∀ tr, f.tr = some tr → s.rt < tr.expiry) →
      s.l1? f.core f.ctx f.line = none → (s.l1.filter (fun y => y.core == f.core)).length < Config.l1Lines →
      ∃ s' x, exec (.l1FillLand i) s = .next s' ∧ s'.fills = s.fills.eraseIdx i ∧ s'.l1? f.core f.ctx f.line = some x ∧ x.valid = f.valid ∧
        x.data = f.data ∧ x.dirty = 0 ∧ x.tr = f.tr ∧ SameMemory s s' ∧ s'.homes = s.homes) ∧
    (∀ i f y, s.fills[i]? = some f → f.homeOnly = false → (∀ tr, f.tr = some tr → s.rt < tr.expiry) → s.l1? f.core f.ctx f.line = some y →
      (∀ a b, y.tr = some a → f.tr = some b → lineAt a y.line = lineAt b y.line) →
      ∃ s' x, exec (.l1FillLand i) s = .next s' ∧ s'.fills = s.fills.eraseIdx i ∧ s'.l1? f.core f.ctx f.line = some x ∧
        x.valid = y.valid ||| (f.valid &&& ~~~ y.dirty) ∧ x.dirty = y.dirty ∧ SameMemory s s' ∧ s'.homes = s.homes ∧
        (∀ n, n < 64 → lineByte x.data n = if f.valid.getLsbD n && !y.dirty.getLsbD n then lineByte f.data n else lineByte y.data n)) ∧
    (∀ i f tr, s.fills[i]? = some f → f.tr = some tr → tr.expiry ≤ s.rt → 
      exec (.l1FillLand i) s = .next { s with fills := s.fills.eraseIdx i }) ∧
    (∀ core ctx line x, s.l1? core ctx line = some x → x.tr ≠ none → 
      ∃ s', exec (.l1WriteBack core ctx line) s = .next s' ∧ (∀ y, s'.l1? core ctx line = some y → y.dirty = 0) ∧
        (HomesRoom s → x.core = core → x.ctx = ctx → x.line = line → MayArrive s x → Arrived s' x)) ∧
    (∀ i k, s.wchecks[i]? = some k → 
      ∃ s', exec (.writeCheckReturn i) s = .next s' ∧ s'.wchecks = s.wchecks.eraseIdx i ∧
        (s.team? k.sid = none → s' = { s with wchecks := s.wchecks.eraseIdx i }) ∧
        (∀ t s1 c, s.team? k.sid = some t → walk { s with wchecks := s.wchecks.eraseIdx i } k.ctx (lineVa k.line) .write = (s1, .error (.hard c)) →
          s'.wfaults = s1.wfaults ++ [{ sid := k.sid, line := k.line, cause := c, absent := false }]) ∧
        (∀ t s1 tr, s.team? k.sid = some t → walk { s with wchecks := s.wchecks.eraseIdx i } k.ctx (lineVa k.line) .write = (s1, .ok tr) →
          tr.peer = none → overIo s1 k.line (lineAt tr k.line) = false → k.toHome = false →
          ∃ y, s'.l1? t.coreId k.ctx k.line = some y ∧ y.tr = some tr)) ∧
    (∀ sid home q, s.wq.find? (fun x => x.sid == sid && x.home == home) = some q →
      ∃ s', exec (.homeWriteQueueDrain sid home) s = .next s' ∧ s'.wq = s.wq.erase q ∧
        (∀ g, s.tracked = [] → s.home? q.ctx q.line = some g → lineAt q.tr q.line = g.pa →
          ∃ g', s'.home? q.ctx q.line = some g' ∧ g'.data = mergeLine q.mask q.data g.data ∧ g'.valid = g.valid ||| q.mask) ∧
        (∀ x, s.l1? q.core q.ctx q.line = some x →
          ∃ x', s'.l1? q.core q.ctx q.line = some x' ∧ x'.dirty = x.dirty ∧ x'.data = mergeLine (q.mask &&& ~~~ x.dirty) q.data x.data)) ∧
    (leaseDue s = true → s.spec = [] →
      ∃ s', exec .leaseExpiry s = .next s' ∧ (∀ e ∈ s'.tlb, leaseLimit s < e.tr.expiry) ∧ (∀ g ∈ s'.homes, leaseLimit s < g.tr.expiry) ∧
        (∀ x ∈ s'.l1, ∀ tr, x.tr = some tr → leaseLimit s < tr.expiry) ∧ (∀ q ∈ s'.wq, leaseLimit s < q.tr.expiry) ∧
        (∀ x ∈ s'.l1, x.clean ≤ leaseLimit s → x.valid = x.dirty) ∧ (∀ g ∈ s'.homes, g.clean ≤ leaseLimit s → g.valid = g.dirty)) ∧
    (∀ line, 
      ∃ s', exec (.memoryPoison line) s = .next s' ∧ s'.poison = (if line ∈ s.poison then s.poison else s.poison ++ [line]) ∧ s' = { s with poison := s'.poison }) ∧
    (∀ pa, (∀ o ∈ s.own, o.line = pa / 64 → o.owned = none) →
      ∃ s' d, exec (.hostReadSnoop pa) s = .next s' ∧ (∀ g ∈ s'.homes, g.pa / 64 = pa / 64 → g.dirty = 0) ∧ s'.l1 = s.l1 ∧
        s'.signals = s.signals ++ [.hostRead pa d (poisonedKey s' (physKey s (pa / 64 * 64)))] ∧
        ∀ n, n < 64 → lineByte d n = memByte s'.mem (physKey s (pa / 64 * 64) + n)) ∧
    (∀ pa mask data bad, (∀ o ∈ s.own, o.line = pa / 64 → o.owned = none) → 
      ∃ s', exec (.hostWriteOwnership pa mask data bad) s = .next s' ∧ (∀ g ∈ s'.homes, g.pa / 64 ≠ pa / 64) ∧
        (∀ k, k < 64 → mask.getLsbD k = true → memByte s'.mem (physKey s (pa / 64 * 64) + k) = lineByte data k) ∧
        (mask ≠ 0 → bad = true → poisonedKey s' (physKey s (pa / 64 * 64)) = true) ∧
        ((∀ g ∈ s.homes, g.pa / 64 = pa / 64 → g.pa % 64 = 0) →
          (∀ k, (∀ b, b < 64 → k ≠ physKey s (pa / 64 * 64) + b) → memByte s'.mem k = memByte s.mem k) ∧
          (∀ b, b < 64 → mask.getLsbD b = false → (∀ g ∈ s.homes, g.pa / 64 = pa / 64 → g.dirty.getLsbD b = false) →
            memByte s'.mem (physKey s (pa / 64 * 64) + b) = memByte s.mem (physKey s (pa / 64 * 64) + b)) ∧
          (∀ g ∈ s.homes, g.pa / 64 = pa / 64 → (∀ g' ∈ s.homes, g'.pa / 64 = pa / 64 → g' = g) → ∀ b, b < 64 → mask.getLsbD b = false → g.dirty.getLsbD b = true →
            memByte s'.mem (physKey s (pa / 64 * 64) + b) = lineByte g.data b)) ∧
        (∀ g ∈ s.homes, g.pa / 64 ≠ pa / 64 → (∀ g' ∈ s.homes, g'.ctx = g.ctx → g'.line = g.line → g' = g) → g ∈ s'.homes) ∧
        s'.l1 = s.l1 ∧ ∀ k, spadByte s' k = spadByte s k) ∧
    (∀ pa (o : OwnLine), o ∈ s.own → o.line = pa / 64 → o.owned ≠ none →
      ∃ s', exec (.hostReadSnoop pa) s = .next s' ∧ s' = { s with own := s'.own } ∧ s'.own.length = s.own.length ∧
        ∀ (n : Nat) (o : OwnLine), s.own[n]? = some o → s'.own[n]? = some (if o.line = pa / 64 ∧ o.owned.isSome then { o with snoops := o.snoops ++ [.hostReadSnoop pa] } else o)) ∧
    (∀ pa (o : OwnLine) mask data bad, o ∈ s.own → o.line = pa / 64 → o.owned ≠ none →
      ∃ s', exec (.hostWriteOwnership pa mask data bad) s = .next s' ∧ s' = { s with own := s'.own } ∧ s'.own.length = s.own.length ∧
        ∀ (n : Nat) (o : OwnLine), s.own[n]? = some o → s'.own[n]? = some (if o.line = pa / 64 ∧ o.owned.isSome then { o with snoops := o.snoops ++ [.hostWriteOwnership pa mask data bad] } else o))

/-- R226, R227, R232, R235-R237, R341, R350: an answer settles every request of its page at its port, and the teams and queues that waited for it have it;
a line whose ownership arrives has up to sixteen of its atomics performed, and with none left its waiting snoops are answered, else after 256 cycles;
the host performs an atomic, or a step of its compare-and-swap loop, or rejects it, which is HOST_ATOMIC_FAIL, and poison fails it; an access from a
peer that the export table admits loads, stores or updates the bytes it names and no others, and it is answered either way. Where the spec leaves a
choice it rests on the model's, log 6, 71, 85 and 98. -/
def Obligations.HostAndPeerSteps : Prop :=
  ∀ (s : State),
    (∀ port ctx page ok, settledBy s port ctx page ≠ [] →
      ∃ s', exec (.pageResponse ctx page ⟨port, ok⟩) s = .next s' ∧
        ((∀ r ∈ settledBy s port ctx page, ∃ n, r.who = .team n) → s'.preqs = s.preqs.filter (fun r => !(settledBy s port ctx page).contains r) ∧
          ∀ sid t g, s.team? sid = some t → t.ctx = ctx → t.pf = some g → s'.team? sid = some { t with pf := some { g with waits := g.waits.map (fun w =>
            if w.page = page ∧ w.port = port ∧ w.resp = none then { w with resp := some ok } else w) } })) ∧
    (∀ port ctx page ok qid w, (settledBy s port ctx page).map (fun r => r.who) = [.queue ctx qid] → w ∈ s.watches → w.ctx = ctx → w.qid = qid →
      w.waiting = some page →
      ∃ s', exec (.pageResponse ctx page ⟨port, ok⟩) s = .next s' ∧
        { w with waiting := none, served := noteServed w.served page ok, denied := if ok then w.denied else w.denied ++ [page] } ∈ s'.watches) ∧
    (∀ port ctx page ok, settledBy s port ctx page = [] →
      exec (.pageResponse ctx page ⟨port, ok⟩) s = .fault (.eventNotDue "PAGE_RESPONSE")) ∧
    (∀ i o, s.own[i]? = some o → o.owned = none →
      ∃ s', exec (.hostOwnershipArrival i) s = .next s' ∧
        (∀ j ∈ (ownWaiting s o.line).take 16, ∃ f, s'.far[j]? = some f ∧ (f.done ≠ none ∨ f.failed ≠ none)) ∧
        (∀ j, j ∉ (ownWaiting s o.line).take 16 → s'.far[j]? = s.far[j]?) ∧
        ((ownWaiting s o.line).length ≤ 16 → s'.own = s.own.eraseIdx i ∧ ∃ more, s'.agenda = s.agenda ++ more ++ o.snoops) ∧
        (16 < (ownWaiting s o.line).length → s'.own = s.own.set i { o with owned := some s.clock })) ∧
    (∀ i o j f t, s.own[i]? = some o → o.owned = none → ownWaiting s o.line = [j] → s.far[j]? = some f → s.homes = [] → s.tracked = [] → poisonedKey s (physKey s f.pa) = false → s.team? f.sid = some t → sealedAt s t.ctx f.va.toNat = false →
      ∃ s' f', exec (.hostOwnershipArrival i) s = .next s' ∧ s'.far[j]? = some f' ∧ f'.done = some (BitVec.ofNat 64 (leNat (memRead s.mem (physKey s f.pa) (farBytes f)))) ∧
        (∀ n, (atomNew f.ty f.op (leNat (memRead s.mem (physKey s f.pa) (farBytes f))) f.v.toNat f.c.toNat).1 = some n →
          leNat (memRead s'.mem (physKey s f.pa) (farBytes f)) = n % 2 ^ (8 * farBytes f))) ∧
    (∀ i o n, s.own[i]? = some o → o.owned = some n → n + 256 ≤ s.clock →
      exec (.snoopDelayExpiry i) s = .next { s with
        own := if ownWaiting s o.line = [] then s.own.eraseIdx i else s.own.set i { o with owned := none, snoops := [] }
        agenda := s.agenda ++ o.snoops }) ∧
    (∀ i o n, s.own[i]? = some o → o.owned = some n → s.clock < n + 256 →
      exec (.snoopDelayExpiry i) s = .fault (.eventNotDue "SNOOP_DELAY_EXPIRY")) ∧
    (∀ i f, s.far[i]? = some f → f.done = none → f.failed = none → overIo s (lineNo f.va) f.pa = true → farBlocked s i f = false → 
      exec (.ioAtomicResponse i false) s = .next { s with far := s.far.set i { f with failed := some Cause.hostAtomicFail } }) ∧
    (∀ i f t, s.far[i]? = some f → f.done = none → f.failed = none → overIo s (lineNo f.va) f.pa = true → farBlocked s i f = false → oneAtomicOp f = true → s.homes = [] → s.tracked = [] → poisonedKey s (physKey s f.pa) = false → s.team? f.sid = some t → sealedAt s t.ctx f.va.toNat = false →
      ∃ s' f', exec (.ioAtomicResponse i true) s = .next s' ∧ s'.far[i]? = some f' ∧ f'.done = some (BitVec.ofNat 64 (leNat (memRead s.mem (physKey s f.pa) (farBytes f)))) ∧
        (∀ n, (atomNew f.ty f.op (leNat (memRead s.mem (physKey s f.pa) (farBytes f))) f.v.toNat f.c.toNat).1 = some n →
          leNat (memRead s'.mem (physKey s f.pa) (farBytes f)) = n % 2 ^ (8 * farBytes f))) ∧
    (∀ i f, s.far[i]? = some f → f.done = none → f.failed = none → overIo s (lineNo f.va) f.pa = true → farBlocked s i f = false → oneAtomicOp f = true → poisonedKey s (physKey s f.pa) = true →
      exec (.ioAtomicResponse i true) s = .next { s with far := s.far.set i { f with failed := some Cause.poison } }) ∧
    (∀ i f, s.far[i]? = some f → f.done = none → f.failed = none → overIo s (lineNo f.va) f.pa = true → farBlocked s i f = false → oneAtomicOp f = false → s.homes = [] → let old : Word := BitVec.ofNat 64 (leNat (memRead s.mem (physKey s f.pa) (farBytes f)))
      (f.tries = 0 → exec (.ioAtomicResponse i true) s = .next { s with far := s.far.set i { f with expect := old, tries := 1 } }) ∧
      (1 ≤ f.tries → f.tries < 64 → old ≠ f.expect →
        exec (.ioAtomicResponse i true) s = .next { s with far := s.far.set i { f with expect := old, tries := f.tries + 1 } }) ∧
      (64 ≤ f.tries → old ≠ f.expect →
        exec (.ioAtomicResponse i true) s = .next { s with far := s.far.set i { f with failed := some Cause.hostAtomicFail } })) ∧
    (∀ port acc, (s.port port).up = true → (s.port port).partner = acc.dev → peerWhole acc = true → exportAdmits (exportTable s) acc.dev acc.pa acc.size (peerReads acc.op) (peerWrites acc.op) = false →
      ∃ s', exec (.peerAccessArrival port acc) s = .next s' ∧ SameBytes s s' ∧
        ∃ p ∈ portsTo s acc.dev, (s'.port p).replay.map Prod.snd ++ (s'.port p).replies ++ (s'.port p).waiting =
          (s.port p).replay.map Prod.snd ++ (s.port p).replies ++ [.answer false false []] ++ (s.port p).waiting) ∧
    (∀ port acc, (s.port port).up = true → (s.port port).partner = acc.dev → acc.op = .load → exportAdmits (exportTable s) acc.dev acc.pa acc.size (peerReads acc.op) (peerWrites acc.op) = true → s.homes = [] →
      ∃ s', exec (.peerAccessArrival port acc) s = .next s' ∧ SameBytes s s' ∧
        ∃ p ∈ portsTo s acc.dev, (s'.port p).replay.map Prod.snd ++ (s'.port p).replies ++ (s'.port p).waiting =
          (s.port p).replay.map Prod.snd ++ (s.port p).replies ++ [if (paLines acc.pa acc.size).any (fun a => poisonedKey s (physKey s a)) then .answer true true []
            else .answer true false ((List.range acc.size).map (fun k => memByte s.mem (physKey s (acc.pa + k))))] ++ (s.port p).waiting) ∧
    (∀ port acc data, (s.port port).up = true → (s.port port).partner = acc.dev → acc.op = .store data → data.length = acc.size → exportAdmits (exportTable s) acc.dev acc.pa acc.size (peerReads acc.op) (peerWrites acc.op) = true →
      acc.pa % 64 + acc.size ≤ 64 → 0 < acc.size → s.homes = [] → s.tracked = [] →
      ∃ s', exec (.peerAccessArrival port acc) s = .next s' ∧
        (∀ j b, data[j]? = some b → memByte s'.mem (physKey s (acc.pa / 64 * 64) + acc.pa % 64 + j) = b) ∧
        (∀ k, (∀ j, j < acc.size → k ≠ physKey s (acc.pa / 64 * 64) + acc.pa % 64 + j) → memByte s'.mem k = memByte s.mem k) ∧
        ∃ p ∈ portsTo s acc.dev, (s'.port p).replay.map Prod.snd ++ (s'.port p).replies ++ (s'.port p).waiting =
          (s.port p).replay.map Prod.snd ++ (s.port p).replies ++ [.answer true false []] ++ (s.port p).waiting) ∧
    (∀ port acc ty op v c, (s.port port).up = true → (s.port port).partner = acc.dev → acc.op = .atom ty op v c → exportAdmits (exportTable s) acc.dev acc.pa acc.size (peerReads acc.op) (peerWrites acc.op) = true →
      acc.pa % 64 + acc.size ≤ 64 → 0 < acc.size → s.homes = [] → s.tracked = [] → poisonedKey s (physKey s (acc.pa / 64 * 64)) = false →
      let bs := (List.range acc.size).map (fun k => memByte s.mem (physKey s (acc.pa + k)))
      let x := (atomNew ty op (leNat bs) (v.toNat % 2 ^ (8 * acc.size)) (c.toNat % 2 ^ (8 * acc.size))).1
      ∃ s', exec (.peerAccessArrival port acc) s = .next s' ∧
        (∀ n j, x = some n → j < acc.size → memByte s'.mem (physKey s (acc.pa / 64 * 64) + acc.pa % 64 + j) = BitVec.ofNat 8 (n / 2 ^ (8 * j))) ∧
        (x = none → SameBytes s s') ∧
        (∀ k, (∀ j, j < acc.size → k ≠ physKey s (acc.pa / 64 * 64) + acc.pa % 64 + j) → memByte s'.mem k = memByte s.mem k) ∧
        ∃ p ∈ portsTo s acc.dev, (s'.port p).replay.map Prod.snd ++ (s'.port p).replies ++ (s'.port p).waiting =
          (s.port p).replay.map Prod.snd ++ (s.port p).replies ++ [.answer true false bs] ++ (s.port p).waiting)

/-- R166, R210, R216-R218, R239, R240-R242, R246, R250-R258, R275, R277, R297-R301, R321: a copy's row reaches its place, its row count and its byte count
advance by one row, and its end writes the token; a page that is absent is asked for, a cause ends the copy; matrix entries start, gather and
complete, a global transfer line by line, which advances the tile's counter; an `mma` adds to each element of its tile the product of a row of A and a
row of B, K-group by K-group, `mzero` clears its tile, `mload` brings the elements of memory or the scratchpad into it and `mdrain` stores them,
converted or added, nothing else changed; a barrier whose members have all arrived and whose bytes are delivered advances; a vent starts the section
whose first call came first, runs its calls, asks to commit, and on success drains its buffer and writes the token; one region commits in a cycle, the
eligible one with the lowest ticket. Where the spec leaves a choice it rests on the model's, log 6, 28, 30, 34, 35, 37, 38, 39, 42, 43, 54 and 113. -/
def Obligations.EngineSteps : Prop :=
  ∀ (s : State),
    (∀ core i j t s1 va s2 bs, copyAt s core i = some j → copyFinished j = false → j.waiting = none → copyHead s core i j = true → s.team? j.sid = some t → (∀ q ∈ s.wq, q.sid ≠ j.sid) →
      rowHeld s core t j = false → j.out = false →
      rowVa { s with current := some j.sid } { sid := j.sid, core := core, ctx := t.ctx, scope := .team, pol := false, engine := true } j = (s1, .ok va) → rowCheck j va = none →
      readWeak (foldTable s1 t j) { sid := j.sid, core := core, ctx := t.ctx, scope := .team, pol := false, engine := true } va j.stored = (s2, .ok bs) → 
      ∃ s' j', exec (.calderaRowDone core i) s = .next s' ∧ copyAt s' core i = some j' ∧ j'.row = j.row + 1 ∧ j'.rows = j.rows + 1 ∧ j'.bytes = j.bytes + j.rowBytes ∧
        j'.events = j.events ||| (rowIn j.kind j.fmt bs).2.2 ∧ j'.waiting = none ∧ j'.failed = none ∧
        (j.kind ≠ 1 → ∀ k, k < (rowIn j.kind j.fmt bs).1.length →
          spadByte s' (spadKey core (t.spadOff + j.spoff + j.row * j.cpitch + k)) = (rowIn j.kind j.fmt bs).1.getD k 0) ∧
        (j.imm.count = true → s'.hub.getLast? = some { lid := j.lid, group := j.imm.group.toNat, msg := .post (BitVec.ofNat 16 j.target) (-(j.rowBytes : Int)) })) ∧
    (∀ core i j t s1 va s2, copyAt s core i = some j → copyFinished j = false → j.waiting = none → copyHead s core i j = true → s.team? j.sid = some t → (∀ q ∈ s.wq, q.sid ≠ j.sid) →
      rowHeld s core t j = false → j.out = true →
      rowVa { s with current := some j.sid } { sid := j.sid, core := core, ctx := t.ctx, scope := .team, pol := false, engine := true } j = (s1, .ok va) → rowCheck j va = none →
      writeRow (foldTable s1 t j).tick1 t va (rowOut j.kind j.fmt (copySource (foldTable s1 t j) core (t.spadOff + j.spoff + j.row * j.cpitch) j)).1 = (s2, .ok ()) → 
      ∃ s' j', exec (.calderaRowDone core i) s = .next s' ∧ copyAt s' core i = some j' ∧ j'.row = j.row + 1 ∧ j'.rows = j.rows + 1 ∧ j'.bytes = j.bytes + j.rowBytes ∧
        s'.mem = s2.mem ∧ s'.homes = s2.homes ∧
        (j.imm.count = true → s'.hub.getLast? = some { lid := j.lid, group := j.imm.group.toNat, msg := .post (BitVec.ofNat 16 j.target) (-(j.rowBytes : Int)) })) ∧
    (∀ core i j t s1 m, copyAt s core i = some j → copyFinished j = false → j.waiting = none → copyHead s core i j = true → s.team? j.sid = some t → (∀ q ∈ s.wq, q.sid ≠ j.sid) →
      rowHeld s core t j = false → rowVa { s with current := some j.sid } { sid := j.sid, core := core, ctx := t.ctx, scope := .team, pol := false, engine := true } j = (s1, .error m) → 
      ∃ s' j', exec (.calderaRowDone core i) s = .next s' ∧ copyAt s' core i = some j' ∧ j'.row = j.row ∧ j'.bytes = j.bytes ∧
        (∀ c, m.fail = .hard c → j'.failed = some (c, m.va)) ∧
        (∀ b, m.fail = .absent b → Tab.get 0 j.served (m.va.toNat / 4096) < 2 → j'.waiting = some (m.va.toNat / 4096) ∧
          ∃ q, s'.preqs = s1.preqs ++ [q] ∧ q.who = .caldera core j.id ∧ q.ctx = t.ctx ∧ q.page = m.va.toNat / 4096 ∧ q.write = false) ∧
        (∀ b, m.fail = .absent b → 2 ≤ Tab.get 0 j.served (m.va.toNat / 4096) →
          j'.failed = some (if b then Cause.accessViolation else Cause.pageFault, m.va))) ∧
    (∀ core i j t s1 va c v, copyAt s core i = some j → copyFinished j = false → j.waiting = none → copyHead s core i j = true → s.team? j.sid = some t → (∀ q ∈ s.wq, q.sid ≠ j.sid) →
      rowHeld s core t j = false → rowVa { s with current := some j.sid } { sid := j.sid, core := core, ctx := t.ctx, scope := .team, pol := false, engine := true } j = (s1, .ok va) →
      rowCheck j va = some (c, v) → 
      ∃ s', exec (.calderaRowDone core i) s = .next s' ∧ copyAt s' core i = some { j with failed := some (c, BitVec.ofNat 64 v) }) ∧
    (∀ core i j t, copyAt s core i = some j → copyFinished j = true → copyHead s core i j = true → j.failed = none → j.clobbered = [] → s.team? j.sid = some t → t.key = j.tkey → j.reg ≠ 0 → j.reg < 64 → 
      ∃ s' t', exec (.calderaCopyEnd core i) s = .next s' ∧ (s'.core core).copies = (s.core core).copies.eraseIdx i ∧ s'.team? j.sid = some t' ∧
        t'.sr j.reg = BitVec.ofNat 64 (2 ^ 63 + j.rows % 2 ^ 22 * 2 ^ 32 + j.bytes % 2 ^ 32) ∧ (∀ e ∈ t'.sb, e.tok ≠ j.tok) ∧ (Quiet t → SameBytes s s')) ∧
    (∀ core i j t c v, copyAt s core i = some j → copyFinished j = true → copyHead s core i j = true → j.failed = some (c, v) → j.clobbered = [] → s.team? j.sid = some t → t.key = j.tkey → j.events = 0 →
      t.inTrap = false → t.exited = false → j.reg ≠ 0 → j.reg < 64 → 
      ∃ s' t', exec (.calderaCopyEnd core i) s = .next s' ∧ s'.team? j.sid = some t' ∧ t'.pend = t.pend ++ [{ cause := c, tval := v, engine := true }] ∧
        t'.sr j.reg = BitVec.ofNat 64 (2 ^ 63 + c.toNat * 2 ^ 54 + j.rows % 2 ^ 22 * 2 ^ 32 + j.bytes % 2 ^ 32) ∧ SameBytes s s') ∧
    (∀ core i e, (s.core core).matrix[i]? = some e → arrayOp e = true → firstStart s core (canGather s core) = some i → olderEntry s core e (canGather s) = false → 
      ∃ s', exec (.matrixEntryStart core i) s = .next s' ∧ SameBytes s s' ∧
        ∀ x, x ∈ (s'.core core).matrix → x.id = e.id → x.stage = .gathering (s.clock + gatherCycles e)) ∧
    (∀ core i e, (s.core core).matrix[i]? = some e → arrayOp e = false → firstStart s core (canTransfer s core) = some i → 
      ∃ s', exec (.matrixEntryStart core i) s = .next s' ∧ SameBytes s s' ∧
        ∀ x, x ∈ (s'.core core).matrix → x.id = e.id → x.stage = .running (s.clock + transferCycles e)) ∧
    (∀ core i e n, (s.core core).matrix[i]? = some e → e.stage = .gathering n → n ≤ s.clock → e.odd = false → 
      ∃ s', exec (.matrixGatherDone core i) s = .next s' ∧ SameBytes s s') ∧
    (∀ core i e t, (s.core core).matrix[i]? = some e → s.team? e.sid = some t → opDue s core t e = true → (arrayOp e = true ∨ isGlobal e = false) → 
      ∃ s', exec (.matrixOpComplete core i) s = .next s' ∧ (∀ x ∈ (s'.core core).matrix, x.id ≠ e.id) ∧ counterOf s' core e.tile = BitVec.ofNat 16 (e.ver + 1)) ∧
    (∀ core i e t s1 e1, (s.core core).matrix[i]? = some e → s.team? e.sid = some t → opDue s core t e = true → arrayOp e = false → isGlobal e = true → e.row < 64 →
      transferStep s core t e = (s1, .ok e1) → 
      ∃ s', exec (.matrixOpComplete core i) s = .next s' ∧ ((e1.row = e.row ∧ e1.seg = e.seg + 1) ∨ (e1.row = e.row + 1 ∧ e1.seg = 0)) ∧
        (e1.row < 64 → s'.mem = s1.mem ∧ s'.homes = s1.homes ∧ counterOf s' core e.tile = counterOf s1 core e.tile ∧
          ∀ x ∈ (s'.core core).matrix, x.id = e.id → x.row = e1.row ∧ x.seg = e1.seg ∧ x.part = e1.part ∧ x.events = e1.events) ∧
        (64 ≤ e1.row → (∀ x ∈ (s'.core core).matrix, x.id ≠ e.id) ∧ counterOf s' core e.tile = BitVec.ofNat 16 (e.ver + 1))) ∧
    (∀ core i e t s1 m k u, (s.core core).matrix[i]? = some e → s.team? e.sid = some t → opDue s core t e = true → arrayOp e = false → isGlobal e = true →
      transferStep s core t e = (s1, .error m) → m.fail = .hard k →
      (completeEntry s1 core e e.events).team? e.sid = some u → u.key = e.tkey → u.inTrap = false → u.exited = false → 
      ∃ s' t', exec (.transferFault core i) s = .next s' ∧ s'.team? e.sid = some t' ∧ t'.pend = u.pend ++ [{ cause := k, tval := m.va, engine := true }] ∧
        (∀ x ∈ (s'.core core).matrix, x.id ≠ e.id) ∧ counterOf s' core e.tile = BitVec.ofNat 16 (e.ver + 1)) ∧
    (∀ core i e t s1 m b, (s.core core).matrix[i]? = some e → s.team? e.sid = some t → opDue s core t e = true → arrayOp e = false → isGlobal e = true →
      transferStep s core t e = (s1, .error m) → m.fail = .absent b → Tab.get 0 e.served (m.va.toNat / 4096) < 2 → 
      ∃ s', exec (.transferFault core i) s = .next s' ∧
        (∀ x ∈ (s'.core core).matrix, x.id = e.id → x.stage = .parked (m.va.toNat / 4096) ∧ x.row = e.row ∧ x.seg = e.seg ∧ x.events = e.events) ∧
        ∃ q, s'.preqs = s1.preqs ++ [q] ∧ q.who = .transfer core e.id ∧ q.ctx = t.ctx ∧ q.page = m.va.toNat / 4096) ∧
    (s.hub = [] → (barrierKeys s).any (fun k => (barrierOf s k.1 k.2).meets) = true → (s.launches.map Launch.lid).Nodup → 
      ∃ s', exec .barrierHubCycle s = .next s' ∧ ∀ lid g l, s.launch? lid = some l → g < l.groups.length →
        (barrierOf s' lid g).cur = (barrierOf s lid g).cur +
          (if 1 ≤ (barrierOf s lid g).members ∧ (barrierOf s lid g).now.arr = (barrierOf s lid g).members ∧ (barrierOf s lid g).now.bytes ≤ 0 then 1 else 0)) ∧
    (∀ v w, (s.vent v).run = none → nextSection s v = some w → w.escalate = false → 
      exec (.ventAttemptStart v) s = .next (s.onVent v (fun x => { x with run := some (freshRun w.num) }))) ∧
    (∀ v w r e args s1 r1, nextCall s v = some (w, r, e, args) → runCall (s.vent v) w e args (s, r) = ((s1, r1), .ok ()) → 
      exec (.ventCallExecute v) s = .next (s1.onVent v (fun x => { x with run := some { r1 with calls := r1.calls + 1 } }))) ∧
    (∀ v w r e args s1 r1 m wr, nextCall s v = some (w, r, e, args) → runCall (s.vent v) w e args (s, r) = ((s1, r1), .error (.miss m wr)) → Tab.get 0 r.served (m.va.toNat / 4096) < 2 → 
      ∃ s' r2, exec (.ventTranslationMiss v) s = .next s' ∧ (s'.vent v).run = some r2 ∧ r2.waiting = some (m.va.toNat / 4096) ∧ r2.served = (if r.escalated then r1.served else r.served) ∧
        (r.escalated = false → r2.calls = 0 ∧ r2.buffer = [] ∧ r2.rv = 0 ∧ r2.wv = 0 ∧ (r.direct = false → s'.mem = s.mem ∧ s'.homes = s.homes)) ∧
        (r.escalated = true → r2 = { r1 with waiting := some (m.va.toNat / 4096) }) ∧ s'.mem = s1.mem ∧ s'.homes = s1.homes ∧
        ∃ q, s'.preqs = s1.preqs ++ [q] ∧ q.who = .vent v ∧ q.ctx = w.ctx ∧ q.page = m.va.toNat / 4096 ∧ q.write = wr) ∧
    (∀ v w r, wantsCommit s v = some (w, r) → r.hold = false → 
      exec (.ventCommitRequest v) s = .next (s.onVent v (fun x => { x with run := some { r with hold := true } }))) ∧
    (∀ v w r, wantsCommit s v = some (w, r) → r.hold = true → 
      ∃ s', exec (.ventCommitPoint v) s = .next s' ∧ (r.escalated = false →
        s.cores.foldl (fun (m : BitVec 1024) c => m ||| (sigOf s c.1 w.num).2) 0 &&& (r.rv ||| r.wv) ≠ 0 → (s'.vent w.vent).run = none)) ∧
    (∀ v w r imm reg tok sid t p, wantsCommit s v = some (w, r) → r.hold = true → secCommit w = some (imm, reg, tok) → (w.queue.dropWhile isCall).drop 1 = [] → w.newCsr = none →
      (r.escalated = true ∨ s.cores.foldl (fun (m : BitVec 1024) c => m ||| (sigOf s c.1 w.num).2) 0 &&& (r.rv ||| r.wv) = 0) →
      let wc := s.cores.foldl (fun (m : BitVec 1024) c => m ||| (sigOf s c.1 w.num).2) 0
      let s1 := s.onWindow w.num (fun w => statSet (statSet (statSet w 5 (popCount wc)) 6 (popCount r.rv)) 7 (popCount r.wv))
      vEach r.buffer (vDrain w) (s1, r) = (p, .ok ()) → p.1.teamByKey w.tkey = some (sid, t) → p.1.team? sid = some t → t.key = w.tkey → 0 < reg → reg < 64 → 
      ∃ s' t', exec (.ventCommitPoint v) s = .next s' ∧ p.2.buffer = [] ∧ (∀ x ∈ r.buffer, x.line ∈ p.2.wrote) ∧ (s'.vent w.vent).run = none ∧
        (r.events = 0 → s'.mem = p.1.mem ∧ s'.homes = p.1.homes) ∧ s'.team? sid = some t' ∧
        t'.sr reg = ventToken (if r.escalated then Cause.nmEscalated else 0) w.replays p.2.wrote.length ∧ (∀ e ∈ t'.sb, e.tok ≠ tok)) ∧
    (∀ v w r p x, wantsCommit s v = some (w, r) → r.hold = true →
      (r.escalated = true ∨ s.cores.foldl (fun (m : BitVec 1024) c => m ||| (sigOf s c.1 w.num).2) 0 &&& (r.rv ||| r.wv) = 0) →
      let wc := s.cores.foldl (fun (m : BitVec 1024) c => m ||| (sigOf s c.1 w.num).2) 0
      let s1 := s.onWindow w.num (fun w => statSet (statSet (statSet w 5 (popCount wc)) 6 (popCount r.rv)) 7 (popCount r.wv))
      vEach r.buffer (vDrain w) (s1, r) = (p, .error x) →
      (∀ c, x = .cause c → ∃ s', exec (.ventCommitPoint v) s = .next s' ∧ (s'.vent w.vent).run = none ∧ s'.mem = s.mem ∧ s'.homes = s.homes) ∧
      (∀ m wr, x = .miss m wr → 2 ≤ Tab.get 0 r.served (m.va.toNat / 4096) →
        ∃ s', exec (.ventCommitPoint v) s = .next s' ∧ (s'.vent w.vent).run = none ∧ s'.mem = s.mem ∧ s'.homes = s.homes) ∧
      (∀ m wr, x = .miss m wr → Tab.get 0 r.served (m.va.toNat / 4096) < 2 →
        ∃ s' r2, exec (.ventCommitPoint v) s = .next s' ∧ (s'.vent w.vent).run = some r2 ∧ r2.waiting = some (m.va.toNat / 4096) ∧ s'.mem = s.mem ∧ s'.homes = s.homes ∧
          (r.escalated = true → r2 = { r with waiting := some (m.va.toNat / 4096) }) ∧ (r.escalated = false → r2.calls = 0 ∧ r2.buffer = [] ∧ r2.served = r.served) ∧
          ∃ q, s'.preqs = s.preqs ++ [q] ∧ q.who = .vent w.vent ∧ q.ctx = w.ctx ∧ q.page = m.va.toNat / 4096 ∧ q.write = wr)) ∧
    (∀ r t, nextCommit s = some r → s.committedAt ≠ some s.clock → s.wq.any (queuedUnder s r) = false → s.team? r.sid = some t → (∀ x ∈ s.spec, x.slot = r.slot → sealedAt s x.ctx (x.line * 64) = false) → 
      ∃ s', exec .regionCommit s = .next s' ∧ s'.region? r.slot = none ∧ s'.committedAt = some s.clock ∧ (∀ x ∈ s'.spec, x.slot ≠ r.slot) ∧
        r.preds = [] ∧ (∀ q ∈ s.regions, mayCommit s q = true → r.ticket ≤ q.ticket) ∧
        (∀ x h, s.spec.filter (fun y => y.slot == r.slot) = [x] → s.home? x.ctx x.line = some h → lineAt x.tr x.line = h.pa →
          ∃ h', s'.home? x.ctx x.line = some h' ∧ ∀ b, b < 64 → lineByte h'.data b = if x.mask.getLsbD b then lineByte x.data b else lineByte h.data b) ∧
        (∀ v, t.region = some v → v.reg ≠ 0 → v.reg < 64 → 
          ∃ t', s'.team? r.sid = some t' ∧ t'.region = none ∧
            t'.sr v.reg = regionToken 0 v.attempt v.slot (BitVec.ofNat 32 (s.spec.filter (fun y => y.slot == r.slot)).length))) ∧
    (∀ r x, nextCommit s = some r → s.committedAt ≠ some s.clock → s.wq.any (queuedUnder s r) = false → x ∈ s.spec → x.slot = r.slot → sealedAt s x.ctx (x.line * 64) = true → 
      exec .regionCommit s = .next (abortRegion s r.slot Cause.sealWrite 0)) ∧
    (s.committedAt = some s.clock → 
      exec .regionCommit s = .fault (.eventNotDue "REGION_COMMIT")) ∧
    (∀ r, nextCommit s = some r → s.committedAt ≠ some s.clock → s.wq.any (queuedUnder s r) = true →
      ∃ s', exec .regionCommit s = .next s' ∧ (∀ q ∈ s'.wq, queuedUnder s r q = false) ∧ s'.committedAt = s.committedAt ∧ (s.tracked = [] → s'.regions = s.regions ∧ s'.spec = s.spec)) ∧
    (∀ core i e t, (s.core core).matrix[i]? = some e → s.team? e.sid = some t → opDue s core t e = true → arrayOp e = true → OperandsStill s core e → e.idx.length = (if e.op = .mma2 then 128 else 64) →
      ∃ s', exec (.matrixOpComplete core i) s = .next s' ∧ SameBytes s s' ∧
        (∀ c k, ¬(c ∈ entryCores core e ∧ k = e.tile) → tileOf s' c k = tileOf s c k) ∧
        ∀ c ∈ entryCores core e, ∀ r k, r < 64 → k < 64 →
          let x := ((if c = core then e.idx else e.idx.drop 64).getD r 0).toNat
          tileElem (tileOf s' c e.tile) r k = BitVec.ofNat 32 ((List.range (mdKg e.desc)).foldl (fun acc g =>
            (f32F.addV .rne (f32F.val acc) (f32F.val (groupProduct s e.desc c core (t.spadOff + aRowOff e.desc x) (t.spadOff + bRowOff e.desc k)
              (t.spadOff + aExpOff e.desc x) (t.spadOff + bExpOff e.desc k) g))).1) (tileElem (tileOf s c e.tile) r k).toNat)) ∧
    (∀ core i e t, (s.core core).matrix[i]? = some e → s.team? e.sid = some t → opDue s core t e = true → e.op = .mzero →
      ∃ s', exec (.matrixOpComplete core i) s = .next s' ∧ SameBytes s s' ∧ SameTiles s s' core e.tile ∧ ∀ r k, tileElem (tileOf s' core e.tile) r k = 0) ∧
    (∀ core i e t bf, (s.core core).matrix[i]? = some e → s.team? e.sid = some t → opDue s core t e = true → e.op = .mload bf true → OperandsStill s core e →
      ∃ s', exec (.matrixOpComplete core i) s = .next s' ∧ SameBytes s s' ∧ SameTiles s s' core e.tile ∧
        ∀ r k, r < 64 → k < 64 → tileElem (tileOf s' core e.tile) r k =
          BitVec.ofNat 32 (loadedElement bf (leNat (spadBytesAt s core (t.spadOff + tRow e.desc r + k * tElem bf) (tElem bf))))) ∧
    (∀ core i e t bf plus, (s.core core).matrix[i]? = some e → s.team? e.sid = some t → opDue s core t e = true → e.op = .mdrain bf plus true → OperandsStill s core e →
      (∀ r r' k k', r < 64 → r' < 64 → k < 64 * tElem bf → k' < 64 * tElem bf → spadKey core (t.spadOff + tRow e.desc r + k) = spadKey core (t.spadOff + tRow e.desc r' + k') → r = r' ∧ k = k') →
      ∃ s', exec (.matrixOpComplete core i) s = .next s' ∧ (∀ c k, tileOf s' c k = tileOf s c k) ∧ s'.mem = s.mem ∧ s'.homes = s.homes ∧
        (∀ r k n, r < 64 → k < 64 → n < tElem bf → spadByte s' (spadKey core (t.spadOff + tRow e.desc r + k * tElem bf + n)) =
          BitVec.ofNat 8 (storedElement bf plus (leNat (spadBytesAt s core (t.spadOff + tRow e.desc r + k * tElem bf) (tElem bf)))
            (tileElem (tileOf s core e.tile) r k).toNat / 2 ^ (8 * n))) ∧
        ∀ a, (∀ r k, r < 64 → k < 64 * tElem bf → spadKey core (t.spadOff + tRow e.desc r + k) ≠ a) → spadByte s' a = spadByte s a) ∧
    (∀ core i e t bf l mask h, (s.core core).matrix[i]? = some e → s.team? e.sid = some t → opDue s core t e = true → e.op = .mload bf false → e.row < 64 → (rowParts e e.row)[e.seg]? = some (l, mask) →
      s.home? t.ctx l = some h → mask &&& ~~~ h.valid = 0 → (∀ x, s.l1? core t.ctx l = some x → x.dirty = 0) → (∀ q ∈ s.wq, q.sid ≠ e.sid) →
      let bs := e.part ++ (setBits mask).map (lineByte h.data)
      ∃ s', exec (.matrixOpComplete core i) s = .next s' ∧ SameTiles s s' core e.tile ∧ SameMemory s s' ∧
        (e.seg + 1 < (rowParts e e.row).length → tileOf s' core e.tile = tileOf s core e.tile ∧ ∀ x ∈ (s'.core core).matrix, x.id = e.id → x.part = bs ∧ x.row = e.row) ∧
        ((rowParts e e.row).length ≤ e.seg + 1 → ∀ r k, r < 64 → k < 64 → tileElem (tileOf s' core e.tile) r k =
          if r = e.row then BitVec.ofNat 32 (loadedElement bf (leNat ((bs.drop (k * tElem bf)).take (tElem bf)))) else tileElem (tileOf s core e.tile) r k)) ∧
    (∀ core i e t bf plus l mask, (s.core core).matrix[i]? = some e → s.team? e.sid = some t → opDue s core t e = true → e.op = .mdrain bf plus false → e.row < 64 → (rowParts e e.row)[e.seg]? = some (l, mask) → lineDone e e.row l = false →
      (∀ k ∈ rowLines e e.row, Owned s t k) → (∀ q ∈ s.wq, q.sid ≠ e.sid) → s.tracked = [] → tdAddr e.desc % tElem bf = 0 → 64 * tElem bf ≤ tdPitch e.desc →
      tdPitch e.desc % tElem bf = 0 → tdAddr e.desc + 64 * tdPitch e.desc ≤ 2 ^ 64 →
      ∃ s' h h', exec (.matrixOpComplete core i) s = .next s' ∧ s.home? t.ctx l = some h ∧ s'.home? t.ctx l = some h' ∧ SameMemory s s' ∧
        (∀ c k, tileOf s' c k = tileOf s c k) ∧ (∀ c k, ¬(c = t.ctx ∧ k = l) → s'.home? c k = s.home? c k) ∧
        (∀ r k n, e.row ≤ r → r < 64 → (plus = true ∨ r = e.row) → k < 64 → n < tElem bf → (rowAt e r + k * tElem bf) / 64 = l →
          let o := (rowAt e r + k * tElem bf) % 64
          lineByte h'.data (o + n) = BitVec.ofNat 8 (storedElement bf plus (lineNat h.data o (tElem bf)) (tileElem (tileOf s core e.tile) r k).toNat / 2 ^ (8 * n))) ∧
        ∀ b, b < 64 → (∀ r, e.row ≤ r → r < 64 → (plus = true ∨ r = e.row) → l * 64 + b < rowAt e r ∨ rowAt e r + 64 * tElem bf ≤ l * 64 + b) →
          lineByte h'.data b = lineByte h.data b)

/-- R41-R44, R52, R53, R56, R58-R60, R66, R71, R362, R368, R374, R375, R386: the queue agents accept entries, refuse those that fail a check, and perform
pushes, whose entry and TAIL are written; a bind record is in force from the dispatcher's next cycle, but for RESIDENT; a die makes one placement in a
cycle, the one that its order selects; a resumed phase has its record; a cancel reaches a die; a unit that fails, a team that is done and a launch
whose units are all counted end, the launch with its completion record. Where the spec leaves a choice it rests on the model's, log 6, 55, 57, 58, 59,
60, 61, 63, 64, 74, 75 and 102. -/
def Obligations.WorkSteps : Prop :=
  ∀ (s : State),
    (∀ ctx qid w, s.watch? ctx qid = some w → acceptDue s w = true → 
      ∃ s', exec (.entryAccept ctx qid) s = .next s') ∧
    (∀ ctx qid w c e s1 s2 bs, s.watch? ctx qid = some w → acceptDue s w = true → w.owed = [] → w.passed = [] → w.forwarded = [] → w.failing = [] → w.head = some c →
      lookupQueue ctx qid s = (s1, .ok e) → e.names qid = true → readVa unitOf ctx (slotVa e.ring e.rlog w.next) 64 64 s1 = (s2, .ok bs) → wordAt bs 0 ≠ 2 ^ 64 - 1 → wordAt bs 0 ≠ (w.next + 1) % 2 ^ 64 → 
      ∃ s' w', exec (.entryAccept ctx qid) s = .next s' ∧ s'.launches = s2.launches ∧ s'.watch? ctx qid = some w' ∧ w'.asleep = true ∧ w'.next = w.next) ∧
    (∀ ctx qid w c e s1 s2 bs s3 r s4 x s5, s.watch? ctx qid = some w → acceptDue s w = true → w.owed = [] → w.passed = [] → w.forwarded = [] → w.failing = [] → w.head = some c →
      lookupQueue ctx qid s = (s1, .ok e) → e.names qid = true → readVa unitOf ctx (slotVa e.ring e.rlog w.next) 64 64 s1 = (s2, .ok bs) → wordAt bs 0 ≠ 2 ^ 64 - 1 → wordAt bs 0 = (w.next + 1) % 2 ^ 64 →
      let kind := leNat ((bs.drop 16).take 1)
      let nreg := if kind = 2 then leNat ((bs.drop 40).take 1) % 8 else 0
      (kind = 1 ∨ (kind = 2 ∧ matcherFull s2 w.die = false)) → wordAt bs 24 % 128 = 0 →
      readRecord ctx (wordAt bs 24) (s2.setWatch { w with ring := e.ring, rlog := e.rlog }) = (s3, .ok r) → readLaunch ctx r (wordAt bs 32) nreg s3 = (s4, .ok x) →
      mayWrite unitOf ctx (fld x.lr 576 64) 32 s4 = (s5, .ok ()) → acceptCheck x (wordAt bs 32) nreg true = none → 
      ∃ s' w' l, exec (.entryAccept ctx qid) s = .next s' ∧ s'.watch? ctx qid = some w' ∧ w'.next = w.next + 1 ∧ l ∈ s'.launches ∧ l.ctx = ctx ∧ l.qid = qid ∧ l.res = w.next ∧
        l.task = decide (kind = 2) ∧ l.refused = none ∧ l.launchId = BitVec.ofNat 32 (fld x.lr 736 32) ∧ l.job = BitVec.ofNat 32 (fld x.lr 704 32) ∧
        l.entry = BitVec.ofNat 64 (fld x.lr 0 64) ∧ l.units = fld x.lr 104 24 + 1 ∧
        Tab.get [] (s'.die w.die).hwq w.hwq = Tab.get [] (s5.die w.die).hwq w.hwq ++ [{ ctx := ctx, qid := qid, res := w.next, lid := l.lid }] ∧
        ∀ k, ∀ y ∈ (s'.core k).icache, y.1 ≠ ctx) ∧
    (∀ ctx qid w c e s1 s2 bs s3 r s4 x s5 k usable, s.watch? ctx qid = some w → acceptDue s w = true → w.owed = [] → w.passed = [] → w.forwarded = [] → w.failing = [] → w.head = some c →
      lookupQueue ctx qid s = (s1, .ok e) → e.names qid = true → readVa unitOf ctx (slotVa e.ring e.rlog w.next) 64 64 s1 = (s2, .ok bs) → wordAt bs 0 ≠ 2 ^ 64 - 1 → wordAt bs 0 = (w.next + 1) % 2 ^ 64 →
      let kind := leNat ((bs.drop 16).take 1)
      let nreg := if kind = 2 then leNat ((bs.drop 40).take 1) % 8 else 0
      (kind = 1 ∨ (kind = 2 ∧ matcherFull s2 w.die = false)) → wordAt bs 24 % 128 = 0 →
      readRecord ctx (wordAt bs 24) (s2.setWatch { w with ring := e.ring, rlog := e.rlog }) = (s3, .ok r) → readLaunch ctx r (wordAt bs 32) nreg s3 = (s4, .ok x) →
      mayWrite unitOf ctx (fld x.lr 576 64) 32 s4 = (s5, .ok ()) → acceptCheck x (wordAt bs 32) nreg true = some (k, usable) → 
      ∃ s' w' l, exec (.entryAccept ctx qid) s = .next s' ∧ s'.watch? ctx qid = some w' ∧ w'.next = w.next + 1 ∧ l ∈ s'.launches ∧ l.ctx = ctx ∧ l.qid = qid ∧ l.res = w.next ∧
        l.refused = some (k, usable) ∧ Instr.launchRetire l.lid ∈ s'.agenda ∧ Tab.get [] (s'.die w.die).hwq w.hwq = Tab.get [] (s5.die w.die).hwq w.hwq) ∧
    (∀ ctx qid w, s.watch? ctx qid = some w → (w.asleep = true ∨ w.retryAt ≠ none) → 
      exec (.queueAgentWake ctx qid) s = .next (s.setWatch { w with asleep := false, retryAt := none })) ∧
    (∀ i w n, s.watches[i]? = some w → w.retryAt = some n → n ≤ s.rt → 
      exec (.queueAccessRetry i) s = .next (s.setWatch { w with retryAt := none })) ∧
    (∀ sid p, pushOf s sid = some p → pushReady s p = true → 
      ∃ s', exec (.queueAgentPush sid) s = .next s') ∧
    (∀ sid p, pushOf s sid = some p → pushReady s p = true → p.slot = none → 0xFFFFFFF0 ≤ p.qid → p.qid ≤ 0xFFFFFFF3 → p.task = false → 
      exec (.queueAgentPush sid) s = .next (endPush s p Cause.noQueue 0)) ∧
    (∀ sid p e s1 s2 tail head, pushOf s sid = some p → pushReady s p = true → p.slot = none → p.task = false → p.qid < 0xFFFFFFF0 → lookupQueue p.ctx p.qid s = (s1, .ok e) → e.names p.qid = true →
      readHeader p.ctx e.ring s1 = (s2, .ok (tail, head)) → 2 ^ e.rlog ≤ (tail + 2 ^ 64 - head) % 2 ^ 64 → 
      exec (.queueAgentPush sid) s = .next (endPush s2 p Cause.queueFull 0)) ∧
    (∀ sid p e s1 s2 s3 s4 tail head t, pushOf s sid = some p → pushReady s p = true → p.slot = none → p.task = false → p.qid < 0xFFFFFFF0 → lookupQueue p.ctx p.qid s = (s1, .ok e) → e.names p.qid = true →
      readHeader p.ctx e.ring s1 = (s2, .ok (tail, head)) → (tail + 2 ^ 64 - head) % 2 ^ 64 < 2 ^ e.rlog → writeVa unitOf p.ctx e.ring 8 (leBytes 8 (tail + 1)) s2 = (s3, .ok ()) →
      writeVa unitOf p.ctx (slotVa e.ring e.rlog tail) 64 (pushEntry p tail) s3 = (s4, .ok ()) → (∀ w, s4.watch? p.ctx p.qid = some w → w.live = false) →
      s4.team? p.sid = some t → t.key = p.key → 0 < p.reg → p.reg < 64 → 
      ∃ s' t', exec (.queueAgentPush sid) s = .next s' ∧ s'.mem = s4.mem ∧ s'.homes = s4.homes ∧ (∀ x ∈ s'.pushes, x.same p = false) ∧
        s'.team? p.sid = some t' ∧ t'.sr p.reg = BitVec.ofNat 64 (2 ^ 63 + tail % 2 ^ 32) ∧ (∀ x ∈ t'.sb, x.tok ≠ p.tok)) ∧
    (∀ sid p e s1 s2 s3 s4 tail head w, pushOf s sid = some p → pushReady s p = true → p.slot = none → p.task = false → p.qid < 0xFFFFFFF0 → lookupQueue p.ctx p.qid s = (s1, .ok e) → e.names p.qid = true →
      readHeader p.ctx e.ring s1 = (s2, .ok (tail, head)) → (tail + 2 ^ 64 - head) % 2 ^ 64 < 2 ^ e.rlog → writeVa unitOf p.ctx e.ring 8 (leBytes 8 (tail + 1)) s2 = (s3, .ok ()) →
      writeVa unitOf p.ctx (slotVa e.ring e.rlog tail) 64 (pushEntry p tail) s3 = (s4, .ok ()) → s4.watch? p.ctx p.qid = some w → w.live = true → ctxResident s4 p.ctx = true →
      skipPassed w.passed w.next ≠ tail → 
      ∃ s' w', exec (.queueAgentPush sid) s = .next s' ∧ s'.mem = s4.mem ∧ s'.watch? p.ctx p.qid = some w' ∧ Tab.find w'.forwarded tail = some (pushEntry p tail) ∧ w'.asleep = false) ∧
    (∀ ctx qid res d q, (d < Config.dies ∧ q < 60 ∧ ¬ (d = 0 ∧ q = 59)) → s.ctx? ctx ≠ none → 
      ∃ s', exec (.queueResidencyWrite ctx qid res d q) s = .next s') ∧
    (∀ ctx qid res d q c s1 s2 bs, (d < Config.dies ∧ q < 60 ∧ ¬ (d = 0 ∧ q = 59)) → s.ctx? ctx = some c → readVa hostUnit ctx (qEntryVa c qid) 16 16 s = (s1, .ok bs) →
      (qEntryOf (BitVec.ofNat 128 (leNat bs))).names qid = true →
      writeVa hostUnit ctx (qEntryVa c qid) 4 (leBytes 4 (leNat (bs.take 4) % 2 ^ 21 + q * 2 ^ 21 + d * 2 ^ 27 + (if res then 2 ^ 30 else 0) + 2 ^ 31)) s1 = (s2, .ok ()) → 
      ∃ s' w', exec (.queueResidencyWrite ctx qid res d q) s = .next s' ∧ s'.mem = s2.mem ∧ s'.homes = s2.homes ∧ s'.watch? ctx qid = some w' ∧ w'.live = res ∧ w'.die = d ∧ w'.hwq = q ∧
        w'.head = none ∧ ∀ w, s2.watch? ctx qid = some w → w.live = true → ∀ l ∈ s'.launches, l.ctx = ctx → l.qid = qid → l.dispatched = true ∨ l.cancelled = true ∨ l.refused ≠ none) ∧
    (∀ d i r, d < Config.dies → i < 64 → bindsFwQueue d (bindFields r) = false →
      ∃ s', exec (.bindRecordWrite d i ⟨r, none⟩) s = .next s' ∧ bindOf s' d i = bindOf s d i ∧
        (s'.die d).bindNext = (s.die d).bindNext ++
          [(i, { pharea := r.extractLsb' 192 64, phstride := r.extractLsb' 160 32, launchId := r.extractLsb' 128 32, cores := r.extractLsb' 96 32, ctx := r.extractLsb' 80 16, quota := r.extractLsb' 70 10, hwq := r.extractLsb' 64 6, resident := 0, cls := r.extractLsb' 52 2, matchq := r.getLsbD 51, valid := r.getLsbD 50 })]) ∧
    (∀ d i (b : BindRec), (s.die d).bindNext = [(i, b)] → 
      bindOf (takeBinds s) d i = { b with resident := (bindOf s d i).resident } ∧ ((takeBinds s).die d).bindNext = []) ∧
    (∀ i r x, i < 64 → s.bringUp = 7 → hwqLen s 0 59 < 256 → 
      ∃ s' b, exec (.bindRecordWrite 0 i ⟨r, some x⟩) s = .next s' ∧ bindOf s' 0 i = bindOf s 0 i ∧
        (s'.die 0).bindNext = (s.die 0).bindNext ++ [(i, b)] ∧ b.matchq = false ∧ b.ctx = 0xFFFF ∧ b.cores = 1 ∧ b.quota = 1 ∧ b.valid = true ∧ b.hwq = r.extractLsb' 64 6) ∧
    (∀ d x seats, mayPlace s d = true → starvedPick s d = none → regularPick s d = some (x, seats) → 
      ∃ s', exec (.dispatchPlacement d) s = .next s' ∧ (s'.die d).placedAt = some s.clock ∧ s'.hot = s.hot ∧ (x, seats) ∈ eligible s d ∧
        ∀ y ∈ eligible s d, x.cls ≤ y.1.cls ∧ (y.1.cls = x.cls → x.since ≤ y.1.since ∧ (y.1.since = x.since → x.hwq ≤ y.1.hwq ∧ (y.1.hwq = x.hwq → x.team ≤ y.1.team)))) ∧
    (∀ d x seats lid l, mayPlace s d = true → starvedPick s d = none → regularPick s d = some (x, seats) → x.kind = .unit lid → s.launch? lid = some l →
      (seats.map (fun k => (seatedTeam s d l l.next x.bind x.spad x.priv k).sid)).Nodup → 
      ∃ s' l', exec (.dispatchPlacement d) s = .next s' ∧ s'.launch? lid = some l' ∧ l'.next = l.next + 1 ∧
        ∀ k ∈ seats, ∃ t', s'.team? (seatedTeam s d l l.next x.bind x.spad x.priv k).sid = some t' ∧ t'.ctx = l.ctx ∧ t'.lid = l.lid ∧ t'.unit = l.next ∧ t'.team = k.spec.team ∧
          t'.pc = k.spec.entry ∧ t'.w = k.spec.w ∧ t'.sr 1 = l.args ∧ t'.sr 2 = l.launchId.setWidth 64) ∧
    (∀ d x seats, mayPlace s d = true → starvedPick s d = some (x, seats) → 
      ∃ s', exec (.starvationPlacement d) s = .next s' ∧ (s'.die d).placedAt = some s.clock ∧ exec (.dispatchPlacement d) s = .fault (.eventNotDue "DISPATCH_PLACEMENT")) ∧
    (∀ d, (s.hot = true ∨ (s.die d).placedAt = some s.clock) → 
      exec (.dispatchPlacement d) s = .fault (.eventNotDue "DISPATCH_PLACEMENT") ∧ exec (.starvationPlacement d) s = .fault (.eventNotDue "STARVATION_PLACEMENT")) ∧
    (∀ sid t va s1 h body, s.team? sid = some t → t.recordVa = some va → t.failed = none → t.pf = none → readPhase t.ctx va s = (s1, .ok (h, body)) → 
      ∃ s' t', exec (.phaseRecordRead sid) s = .next s' ∧ s'.team? sid = some t' ∧ t'.pc = h.extractLsb' 448 64 ∧ t'.phase = h.extractLsb' 352 16 ∧ t'.recordVa = none ∧ t'.park = .run) ∧
    (∀ i b, s.casts[i]? = some b → castFits s b = true → 
      ∃ s', exec (.cancelArrival i) s = .next s' ∧ s'.casts = s.casts.eraseIdx i ∧
        (∀ sid t l, s.team? sid = some t → t.die = b.die → s.launch? t.lid = some l → l.ctx = b.ctx → l.job = b.job → l.handler = none → l.refused = none →
          ∃ t', s'.team? sid = some t' ∧ t'.cancel = true) ∧
        (∀ lid l, s.launch? lid = some l → l.die = b.die → l.ctx = b.ctx → l.job = b.job → l.handler = none → l.refused = none →
          (∃ l', s'.launch? lid = some l' ∧ l'.cancelled = true) ∧ (l.cancelled = false → l.dispatched = false → Instr.launchRetire l.lid ∈ s'.agenda))) ∧
    (∀ lid u k, (∃ e ∈ unitTeams s lid u, e.2.failed = some k) → 
      ∃ s', exec (.unitFail lid u k) s = .next s' ∧ ∀ sid t, s.team? sid = some t → t.lid = lid → t.unit = u →
        (∃ t', s'.team? sid = some t' ∧ t'.pend = [] ∧ (t.midAccess = false → t'.park = .run ∧ t'.pf = none ∧ t'.replay = none) ∧
          ((t.park = .checks ∨ t.park = .atomics ∨ t.midPass = true) → t.region = none → t'.pf = t.pf ∧ t'.mem = t.mem ∧ t'.replay = t.replay) ∧ (∀ v, t.region = some v → v.ending = false → t'.region = none)) ∧
        ∀ c, ∀ x ∈ (s'.core c).matrix, x.tkey = t.key → notStarted x = false) ∧
    (∀ sid t, s.team? sid = some t → retireReady s sid t = true → t.handler = none → 
      ∃ s', exec (.teamRetire sid) s = .next s' ∧ s'.team? sid = none) ∧
    (∀ lid l, s.launch? lid = some l → launchEnded s l = true → l.handler ≠ none → 
      exec (.launchRetire lid) s = .next (dropLaunch s l)) ∧
    (∀ lid l, s.launch? lid = some l → launchEnded s l = true → 
      ∃ s', exec (.launchRetire lid) s = .next s') ∧
    (∀ lid l usable s1, s.launch? lid = some l → launchEnded s l = true → l.handler = none → usable = (match l.refused with | some (_, u) => u | none => true) → usable = true →
      writeVa unitOf l.ctx l.compl.toNat 32 (leBytes 32 (completionRecord s l).toNat) s = (s1, .ok ()) → 
      exec (.launchRetire lid) s = .next (dropLaunch s1 l) ∧ (l.dispatched = true → (dropLaunch s1 l).launch? lid = none ∧ (dropLaunch s1 l).mem = s1.mem ∧ (dropLaunch s1 l).homes = s1.homes) ∧
        (completionRecord s l).extractLsb' 192 64 = BitVec.ofNat 64 s.clock ∧ (completionRecord s l).extractLsb' 160 32 = l.launchId ∧ (completionRecord s l).extractLsb' 128 32 = l.job ∧
        (completionRecord s l).extractLsb' 103 25 = BitVec.ofNat 25 (failCount l) ∧ (completionRecord s l).extractLsb' 78 25 = BitVec.ofNat 25 (l.units - failCount l) ∧
        (completionRecord s l).getLsbD 63 = true ∧ (∀ u k, firstFail l = some (u, k) → (completionRecord s l).extractLsb' 54 9 = k)) ∧
    (∀ lid l k s1, s.launch? lid = some l → launchEnded s l = true → l.handler = none → l.refused = some (k, false) → l.ctx ≠ Config.firmwareCtx →
      writeVa hostUnit l.ctx (l.entryVa + 8) 8 (leBytes 8 (completionStatus l).toNat) s = (s1, .ok ()) → 
      exec (.launchRetire lid) s = .next (dropLaunch s1 l)) ∧
    (∀ p, holders s p ≠ [] → 
      ∃ s', exec (.uncorrectedEcc p) s = .next s' ∧ ∀ e ∈ holders s p, (∀ x ∈ s.teams, x.2.lid = e.2.lid → x.2.unit = e.2.unit → x.2.ctx = e.2.ctx ∧ x.2.failed = none) →
        Instr.unitFail e.2.lid e.2.unit Cause.uncorrectedEcc ∈ s'.agenda ∧
        ∀ sid t, s.team? sid = some t → t.lid = e.2.lid → t.unit = e.2.unit → ∃ t', s'.team? sid = some t' ∧ t'.failed = some Cause.uncorrectedEcc) ∧
    (∀ u,
      ∃ s', exec (.machineCheck u) s = .next s' ∧ s'.arrivals = [] ∧ s'.stalls = [] ∧ s'.spills = [] ∧ s'.pushes = [] ∧ (∀ w ∈ s'.windows, w.queue.all isCall = true) ∧
        (∀ d, (s'.die d).gyq = []) ∧ (∀ k c, s'.ctx? k = some c → c.saved = []) ∧
        (∀ sid t, s.team? sid = some t → (∀ x ∈ s.teams, x.2.lid = t.lid → x.2.unit = t.unit → x.2.ctx = t.ctx ∧ x.2.failed = none) →
          Instr.unitFail t.lid t.unit Cause.machineCheck ∈ s'.agenda ∧ ∃ t', s'.team? sid = some t' ∧ t'.failed = some Cause.machineCheck) ∧
        (∀ lid l, s.launch? lid = some l → l.refused = none →
          ∃ l', s'.launch? lid = some l' ∧
            (l.dispatched = false → l'.refused = some (Cause.machineCheck, true)) ∧
            (l.dispatched = true → l'.next = l.units ∧ l'.phases = [] ∧
              (∀ n, l.next ≤ n → n < l.units → Tab.find l'.ustate n = some (.failed Cause.machineCheck)) ∧
              (∀ q ∈ l.phases, Tab.find l'.ustate q.team = some (.failed Cause.machineCheck)) ∧
              ∀ k c w, s.ctx? k = some c → w ∈ c.saved → w.team.lid = lid → Tab.find l'.ustate w.team.unit = some (.failed Cause.machineCheck)))) ∧
    (∀ i r, r.getLsbD 50 = true → r.getLsbD 51 = true → r.extractLsb' 64 6 = 59 → r.extractLsb' 80 16 ≠ 0xFFFF → exec (.bindRecordWrite 0 i ⟨r, none⟩) s = .fault (.eventNotDue "BIND_RECORD_WRITE"))

/-- R337-R340, R345-R349, R354: a call that arrives is checked, and enters its class queue, is refused, or stalls; a call in a class queue is promoted
after 65,536 cycles; spilled and stalled calls enter the queue when it has room; an acknowledgement stops the timeout, and a reply frees the slot and
lands its token; flits that are received are acknowledged in order, or asked for again; a lane with sixteen failures is repaired; a port whose
retraining fails is down, and a port trains only with another device's identifier. Where the spec leaves a choice it rests on the model's, log 67, 68,
69, 70, 71 and 101. -/
def Obligations.CallSteps : Prop :=
  ∀ (s : State),
    (∀ q k x, s.arrivals.find? (fun y => y.port == q && y.call == k) = some x → arrivalReady s x = true → s.ctxs.find? (fun c => c.2.gyJobtag != 0 && c.2.gyJobtag == x.call.jobtag) = none → 
      ∃ s', exec (.callArrival q k) s = .next s' ∧ (∀ y ∈ s'.arrivals, y.id ≠ x.id) ∧ (x.call.sdev = s.devId → s'.mail = s.mail ++ [.replyLand x.call.sref x.call.slot.toNat Cause.noHandler 0 false 0])) ∧
    (∀ q k x ctx c s1 bs, s.arrivals.find? (fun y => y.port == q && y.call == k) = some x → arrivalReady s x = true →
      s.ctxs.find? (fun c => c.2.gyJobtag != 0 && c.2.gyJobtag == x.call.jobtag) = some (ctx, c) →
      readVa unitOf ctx ((signVa (c.gyHtab.extractLsb' 0 57 &&& ~~~ (BitVec.ofNat 57 (2 ^ 18 - 1))) + 64 * x.call.handler.toNat) % 2 ^ 64) 64 64 s = (s1, .ok bs) → hePresent (BitVec.ofNat 512 (leNat bs)) = false → 
      ∃ s', exec (.callArrival q k) s = .next s' ∧ (∀ y ∈ s'.arrivals, y.id ≠ x.id) ∧ (x.call.sdev = s1.devId → s'.mail = s1.mail ++ [.replyLand x.call.sref x.call.slot.toNat Cause.noHandler 0 false 0])) ∧
    (∀ q k x ctx c s1 bs, s.arrivals.find? (fun y => y.port == q && y.call == k) = some x → arrivalReady s x = true →
      s.ctxs.find? (fun c => c.2.gyJobtag != 0 && c.2.gyJobtag == x.call.jobtag) = some (ctx, c) →
      readVa unitOf ctx ((signVa (c.gyHtab.extractLsb' 0 57 &&& ~~~ (BitVec.ofNat 57 (2 ^ 18 - 1))) + 64 * x.call.handler.toNat) % 2 ^ 64) 64 64 s = (s1, .ok bs) → 
      let e : BitVec 512 := BitVec.ofNat 512 (leNat bs)
      hePresent e = true → e.getLsbD 216 = false → (x.call.sdev.toNat < fld e 192 12 ∨ fld e 204 12 < x.call.sdev.toNat) → 
      ∃ s', exec (.callArrival q k) s = .next s' ∧ (∀ y ∈ s'.arrivals, y.id ≠ x.id) ∧ (x.call.sdev = s1.devId → s'.mail = s1.mail ++ [.replyLand x.call.sref x.call.slot.toNat Cause.denied 0 false 0])) ∧
    (∀ q k x ctx c s1 bs, s.arrivals.find? (fun y => y.port == q && y.call == k) = some x → arrivalReady s x = true →
      s.ctxs.find? (fun c => c.2.gyJobtag != 0 && c.2.gyJobtag == x.call.jobtag) = some (ctx, c) →
      readVa unitOf ctx ((signVa (c.gyHtab.extractLsb' 0 57 &&& ~~~ (BitVec.ofNat 57 (2 ^ 18 - 1))) + 64 * x.call.handler.toNat) % 2 ^ 64) 64 64 s = (s1, .ok bs) → 
      let e : BitVec 512 := BitVec.ofNat 512 (leNat bs)
      hePresent e = true → (e.getLsbD 216 = true ∨ (fld e 192 12 ≤ x.call.sdev.toNat ∧ x.call.sdev.toNat ≤ fld e 204 12)) → badWidth (fld e 64 16) = true → 
      ∃ s', exec (.callArrival q k) s = .next s' ∧ (∀ y ∈ s'.arrivals, y.id ≠ x.id) ∧ (x.call.sdev = s1.devId → s'.mail = s1.mail ++ [.replyLand x.call.sref x.call.slot.toNat Cause.badRecord 0 false 0])) ∧
    (∀ q k x ctx c s1 bs, s.arrivals.find? (fun y => y.port == q && y.call == k) = some x → arrivalReady s x = true →
      s.ctxs.find? (fun c => c.2.gyJobtag != 0 && c.2.gyJobtag == x.call.jobtag) = some (ctx, c) →
      readVa unitOf ctx ((signVa (c.gyHtab.extractLsb' 0 57 &&& ~~~ (BitVec.ofNat 57 (2 ^ 18 - 1))) + 64 * x.call.handler.toNat) % 2 ^ 64) 64 64 s = (s1, .ok bs) → 
      let e : BitVec 512 := BitVec.ofNat 512 (leNat bs)
      hePresent e = true → (e.getLsbD 216 = true ∨ (fld e 192 12 ≤ x.call.sdev.toNat ∧ x.call.sdev.toNat ≤ fld e 204 12)) → badWidth (fld e 64 16) = false →
      (badGrans (fld e 80 5) (fld e 85 6) = true ∨ 384 < fld e 128 9 ∨ 256 < fld e 137 9) → 
      ∃ s', exec (.callArrival q k) s = .next s' ∧ (∀ y ∈ s'.arrivals, y.id ≠ x.id) ∧ (x.call.sdev = s1.devId → s'.mail = s1.mail ++ [.replyLand x.call.sref x.call.slot.toNat Cause.badBudget 0 false 0])) ∧
    (∀ q k x ctx c s1 bs, s.arrivals.find? (fun y => y.port == q && y.call == k) = some x → arrivalReady s x = true →
      s.ctxs.find? (fun c => c.2.gyJobtag != 0 && c.2.gyJobtag == x.call.jobtag) = some (ctx, c) →
      readVa unitOf ctx ((signVa (c.gyHtab.extractLsb' 0 57 &&& ~~~ (BitVec.ofNat 57 (2 ^ 18 - 1))) + 64 * x.call.handler.toNat) % 2 ^ 64) 64 64 s = (s1, .ok bs) → 
      let e : BitVec 512 := BitVec.ofNat 512 (leNat bs)
      entryCheck e x.call.sdev = none → c.resident = true → hasRoom s1 x.die ctx x.call.cls.toNat = true → (∀ r, ringOf s1 ctx x.call.handler.toNat = some r → r.calls = []) → 
      ∃ s', exec (.callArrival q k) s = .next s' ∧ (∀ y ∈ s'.arrivals, y.id ≠ x.id) ∧ (x.call.sdev = s1.devId → s'.mail = s1.mail ++ [.callAck x.call.sref x.call.slot.toNat false]) ∧
        (∃ g, (Tab.get [] (s'.die x.die).gyq x.call.cls.toNat).getLast? = some g ∧ g.ctx = ctx ∧ g.call = x.call ∧ g.entry = e ∧ g.spilled = false ∧ g.since = s1.clock) ∧
        ∀ i, ∀ y ∈ (s'.core i).icache, y.1 ≠ ctx) ∧
    (∀ q k x ctx c s1 bs, s.arrivals.find? (fun y => y.port == q && y.call == k) = some x → arrivalReady s x = true →
      s.ctxs.find? (fun c => c.2.gyJobtag != 0 && c.2.gyJobtag == x.call.jobtag) = some (ctx, c) →
      readVa unitOf ctx ((signVa (c.gyHtab.extractLsb' 0 57 &&& ~~~ (BitVec.ofNat 57 (2 ^ 18 - 1))) + 64 * x.call.handler.toNat) % 2 ^ 64) 64 64 s = (s1, .ok bs) → 
      let e : BitVec 512 := BitVec.ofNat 512 (leNat bs)
      entryCheck e x.call.sdev = none → c.resident = true → hasRoom s1 x.die ctx x.call.cls.toNat = false → hePolicy e = 0 → 
      ∃ s', exec (.callArrival q k) s = .next s' ∧ (∀ y ∈ s'.arrivals, y.id ≠ x.id) ∧ (x.call.sdev = s1.devId → s'.mail = s1.mail ++ [.replyLand x.call.sref x.call.slot.toNat Cause.busy 0 false 0])) ∧
    (∀ q k x ctx c s1 bs, s.arrivals.find? (fun y => y.port == q && y.call == k) = some x → arrivalReady s x = true →
      s.ctxs.find? (fun c => c.2.gyJobtag != 0 && c.2.gyJobtag == x.call.jobtag) = some (ctx, c) →
      readVa unitOf ctx ((signVa (c.gyHtab.extractLsb' 0 57 &&& ~~~ (BitVec.ofNat 57 (2 ^ 18 - 1))) + 64 * x.call.handler.toNat) % 2 ^ 64) 64 64 s = (s1, .ok bs) → 
      let e : BitVec 512 := BitVec.ofNat 512 (leNat bs)
      entryCheck e x.call.sdev = none → c.resident = true → hasRoom s1 x.die ctx x.call.cls.toNat = false → hePolicy e = 2 → 
      ∃ s', exec (.callArrival q k) s = .next s' ∧ (∀ y ∈ s'.arrivals, y.id ≠ x.id) ∧ s'.stalls = s1.stalls ++ [{ port := stallPort x, die := x.die, ctx := ctx, call := x.call, entry := e }]) ∧
    (∀ sref slot sp x, mailFits s sref slot (.callAck sref slot sp) = true → slotOf s sref slot = some x → x.reply = true → x.gone = false → 
      ∃ s', exec (.callAck sref slot sp) s = .next s' ∧ s'.mail = s.mail.erase (.callAck sref slot sp) ∧
        s' = onSlot { s with mail := s'.mail } sref (fun t => Tab.put t slot { x with acked := true })) ∧
    (∀ sref slot sp x sid t, mailFits s sref slot (.callAck sref slot sp) = true → s.teamByKey sref = some (sid, t) → t.key = sref → Tab.find t.slots slot = some x → x.reply = false → x.gone = false →
      x.landed = false → x.reg ≠ 0 → x.reg < 64 → 
      ∃ s' t' y, exec (.callAck sref slot sp) s = .next s' ∧ s'.team? sid = some t' ∧ Tab.find t'.slots slot = some y ∧ y.acked = true ∧ y.landed = true ∧
        t'.sr x.reg = callToken x.dev 0 0 sp true 0) ∧
    (∀ sref slot sp, mailFits s sref slot (.callAck sref slot sp) = true → slotOf s sref slot = none → 
      exec (.callAck sref slot sp) s = .next { s with mail := s.mail.erase (.callAck sref slot sp) }) ∧
    (∀ sref slot k cls sp v x sid t, mailFits s sref slot (.replyLand sref slot k cls sp v) = true → s.teamByKey sref = some (sid, t) → t.key = sref → Tab.find t.slots slot = some x → x.landed = false → x.reg ≠ 0 → x.reg < 64 → 
      ∃ s' t', exec (.replyLand sref slot k cls sp v) s = .next s' ∧ s'.team? sid = some t' ∧ Tab.find t'.slots slot = none ∧ t'.sr x.reg = callToken x.dev k cls sp false v) ∧
    (∀ sref slot k cls sp v, mailFits s sref slot (.replyLand sref slot k cls sp v) = true → slotOf s sref slot = none → 
      exec (.replyLand sref slot k cls sp v) s = .next { s with mail := s.mail.erase (.replyLand sref slot k cls sp v) }) ∧
    (∀ sref slot x sid t, s.teamByKey sref = some (sid, t) → t.key = sref → Tab.find t.slots slot = some x → callLost s sref x = true → x.reg ≠ 0 → x.reg < 64 → 
      ∃ s' t', exec (.gyTimeoutExpiry sref slot) s = .next s' ∧ s'.team? sid = some t' ∧ t'.sr x.reg = callToken x.dev Cause.linkDown 0 false false 0) ∧
    (∀ d cls e, promoted s d cls = some e → 
      ∃ s', exec (.callPromotion d cls) s = .next s' ∧ cls ≠ 0 ∧ e.since + 2 ^ 16 < s.clock ∧ { e with since := s.clock } ∈ Tab.get [] (s'.die d).gyq (cls - 1)) ∧
    (∀ ctx n d r k e rest s1 bs, ringOf s ctx n = some r → drainDie s r = some d → r.calls = (k, e) :: rest → spillRead r s = (s1, .ok bs) → 
      ∃ s', exec (.spillDrain ctx n d) s = .next s' ∧
        ∃ g, (Tab.get [] (s'.die d).gyq k.cls.toNat).getLast? = some g ∧ g.call = slotCall k bs ∧ g.entry = e ∧ g.spilled = true ∧ g.since = s.clock) ∧
    (∀ q cls x y, s.stalls.find? (fun z => z.port == q && z.call.cls.toNat == cls) = some x → hasRoom s x.die x.ctx cls = true → s.ctx? x.ctx = some y → y.resident = true → 
      ∃ s', exec (.stallBufferRelease q cls) s = .next s' ∧ s'.stalls = s.stalls.erase x ∧
        (∃ g, (Tab.get [] (s'.die x.die).gyq cls).getLast? = some g ∧ g.ctx = x.ctx ∧ g.call = x.call ∧ g.entry = x.entry ∧ g.spilled = false ∧ g.since = s.clock) ∧
        ∀ i, ∀ y ∈ (s'.core i).icache, y.1 ≠ x.ctx) ∧
    (∀ q lane n news, (s.port q).up = true → lane < 2 → (s.port q).rxCount < 2 ^ 20 → 
      ∃ s', exec (.flitReceive q lane ⟨n, false, news⟩) s = .next s' ∧ (s'.port q).rxCount = (s.port q).rxCount + 1 ∧ (s'.port q).rxNext = (s.port q).rxNext ∧
        (s'.port q).answers = (s.port q).answers ++ [.replay (s.port q).rxNext] ∧ Tab.get 0 (s'.port q).crc lane = Tab.get 0 (s.port q).crc lane + 1 ∧
        ∀ k, (s.port q).repair = .draining k → (s'.port q).repair = .retraining (s.rt + microseconds 100)) ∧
    (∀ q lane news, (s.port q).up = true → lane < 2 → (s.port q).rxCount < 2 ^ 20 → 
      ∃ s', exec (.flitReceive q lane ⟨(s.port q).rxNext, true, news⟩) s = .next s' ∧ (s'.port q).rxCount = (s.port q).rxCount + 1 ∧ (s'.port q).rxNext = (s.port q).rxNext + 1 ∧
        (s'.port q).answers = (s.port q).answers ++ [.ack (s.port q).rxNext] ∧ (s'.port q).crc = (s.port q).crc) ∧
    (∀ q lane n news, (s.port q).up = true → lane < 2 → (s.port q).rxCount < 2 ^ 20 → n ≠ (s.port q).rxNext → 
      exec (.flitReceive q lane ⟨n, true, news⟩) s = .next (s.setPort q { s.port q with rxCount := (s.port q).rxCount + 1 })) ∧
    (∀ p f r, (s.port p).replay = f :: r → (s.port p).up = true → 
      ∃ s', exec (.flitAckReceive p) s = .next s' ∧ (s'.port p).acked = (s.port p).acked + 1 ∧
        (s'.port p).replay.map Prod.snd ++ (s'.port p).replies ++ (s'.port p).waiting = r.map Prod.snd ++ (s.port p).replies ++ (s.port p).waiting) ∧
    (∀ p n, (s.port p).up = true → (∃ f ∈ (s.port p).replay, f.1 = n) → 
      ∃ s', exec (.flitReplayRequest p n) s = .next s' ∧ (s'.port p).nacked = (s.port p).nacked + 1 ∧ (s'.port p).replay = (s.port p).replay) ∧
    (∀ p, 2 ^ 20 ≤ (s.port p).rxCount → 
      exec (.crcWindowClose p) s = .next (s.setPort p { s.port p with rxCount := 0, crc := [] })) ∧
    (∀ p lane, (s.port p).open = true → (s.port p).lanes = 2 → lane < 2 → 16 ≤ Tab.get 0 (s.port p).crc lane → 
      exec (.laneRepairStart p lane) s = .next (s.setPort p { s.port p with repair := .draining lane })) ∧
    (∀ p lane, (s.port p).repair = .draining lane → (s.port p).up = true → (s.port p).replay = [] → 
      ∃ s', exec (.laneRepairDrainDone p) s = .next s' ∧ (s'.port p).lanes = 1 ∧ (s'.port p).badLane = some lane ∧ (s'.port p).repair = .none) ∧
    (∀ p n, (s.port p).repair = .retraining n → (s.port p).up = true → n ≤ s.rt → 
      ∃ s', exec (.portRetrainTimeout p) s = .next s' ∧ (s'.port p).up = false ∧ (s'.port p).replay = []) ∧
    (∀ p dev tb m, (s.port p).up = false → p < 128 → s.devId ≠ 0xFFF → dev ≠ 0xFFF → dev ≠ s.devId → 
      ∃ s', exec (.portTraining p dev tb m) s = .next s' ∧ (s'.port p).up = true ∧ (s'.port p).partner = dev ∧ (s'.port p).lanes = 2) ∧
    (∀ p n dev tb m, (s.port p).up = true → (s.port p).repair = .retraining n → (s.port p).partner = dev → p < 128 → s.devId ≠ 0xFFF → dev ≠ 0xFFF → dev ≠ s.devId → 
      ∃ s', exec (.portTraining p dev tb m) s = .next s' ∧ (s'.port p).up = true ∧ (s'.port p).lanes = 2 ∧ (s'.port p).badLane = none ∧ (s'.port p).repair = .none ∧
        (s'.port p).replay.map Prod.snd ++ (s'.port p).replies ++ (s'.port p).waiting = (s.port p).replay.map Prod.snd ++ (s.port p).replies ++ (s.port p).waiting) ∧
    (∀ p dev tb m, (s.port p).up = false → p < 128 → s.devId ≠ 0xFFF → (dev = 0xFFF ∨ dev = s.devId) → 
      ∃ s', exec (.portTraining p dev tb m) s = .next s' ∧ (s'.port p).up = false ∧ s'.errLog = s.errLog ++ [.portIds p s.devId.toNat dev.toNat])

/-- R39, R160, R270, R291, R340, R369, R376, R377: each step that writes a register leaves what the register's table says; an exception window closes at
its multiple of cycles; an overflow of a core's counter goes to the context's event ring, as a record of KIND 6, or to the management status; that the
firmware's discipline on ORD.MODE is a condition of the write is log 136. Where the spec leaves a choice it rests on the model's, log 82, 91 and 136. -/
def Obligations.RegisterSteps : Prop :=
  ∀ (s : State),
    (∀ sid t, s.team? sid = some t → t.exc.winLog ≠ 0 → s.clock % 2 ^ t.exc.winLog.toNat = 0 → 
      exec (.excWindowClose sid) s = .next (s.setTeam sid { t with exc := { t.exc with wcnt := [] } })) ∧
    (∀ sid v t, s.team? sid = some t → 
      ∃ s' t', exec (.excWinWrite sid v) s = .next s' ∧ s'.team? sid = some t' ∧ teamCsr t' 0x028 = csrKept 0 v 0x028 ∧ (∀ k, t'.exc.wcntOf k = 0) ∧
        ∀ k, t'.exc.totalOf k = t.exc.totalOf k) ∧
    (∀ sid k v t, s.team? sid = some t → k < 8 → 
      ∃ s' t', exec (.excCntWrite sid k v) s = .next s' ∧ s'.team? sid = some t' ∧ t'.exc.totalOf k = v.extractLsb' 0 32 ∧ t'.exc.wcntOf k = 0 ∧
        ∀ j, j ≠ k → t'.exc.totalOf j = t.exc.totalOf j ∧ t'.exc.wcntOf j = t.exc.wcntOf j) ∧
    (∀ ctx v x, s.ctx? ctx = some x → 
      ∃ s' x', exec (.qtLenWrite ctx v) s = .next s' ∧ s'.ctx? ctx = some x' ∧ ctxCsr x' 0x441 = csrKept 0 v 0x441 ∧ x' = { x with qtLen := x'.qtLen }) ∧
    (∀ v, 
      exec (.ordModeWrite v) s = .next (if s.teams = [] ∧ (if v.getLsbD 0 then ∀ l ∈ s.launches, l.ctx = 0xFFFF else s.bringUp = 7) then { s with ordMode := v.getLsbD 0 } else s)) ∧
    (∀ sid k v t, s.team? sid = some t → 0x040 ≤ k.toNat → k.toNat ≤ 0x042 → 
      ∃ s' t', exec (.nmCsrWrite sid k v) s = .next s' ∧ s'.team? sid = some t' ∧ teamCsr t' k.toNat = csrKept 0 v k.toNat) ∧
    (∀ v, 
      exec (.fjDevidWrite v) s = .next { s with devIdNext := v.extractLsb' 16 12 }) ∧
    (∀ ctx k v x, s.ctx? ctx = some x → csrListed k.toNat = true → csrSpecial k.toNat = false → csrHome k.toNat = .ctx → 
      ∃ s' x', exec (.csrWrite ctx none k v) s = .next s' ∧ s'.ctx? ctx = some x' ∧ ctxCsr x' k.toNat = csrKept 0 v k.toNat) ∧
    (∀ ctx sid k v t, s.team? sid = some t → csrListed k.toNat = true → csrSpecial k.toNat = false → csrHome k.toNat = .team → 
      ∃ s' t', exec (.csrWrite ctx (some sid) k v) s = .next s' ∧ s'.team? sid = some t' ∧ teamCsr t' k.toNat = csrKept 0 v k.toNat) ∧
    (∀ p k v, placeHas p k = true → 
      ∃ s', exec (.pmcCntWrite p k v) s = .next s' ∧ Tab.get 0 (pmcOf s' p).cnt k = v.extractLsb' 0 48 ∧ (∀ j, j ≠ k → Tab.get 0 (pmcOf s' p).cnt j = Tab.get 0 (pmcOf s p).cnt j) ∧
        (pmcOf s' p).sel = (pmcOf s p).sel) ∧
    (∀ p k v, placeHas p k = true → 
      ∃ s', exec (.pmcSelWrite p k v) s = .next s' ∧ Tab.get 0 (pmcOf s' p).sel k = (v &&& 0xFFFF000000030000#64) |||
        (if eventListed p (v.toNat % 1024) then BitVec.ofNat 64 (v.toNat % 1024) else 0)) ∧
    (∀ p k, placeHas p k = true → (Tab.get 0 (pmcOf s p).sel k).getLsbD 16 = true → ((Tab.get 0 (pmcOf s p).sel k).getLsbD 17 = false ∨ ∀ n, p ≠ .core n) → 
      ∃ s', exec (.counterOverflow p k) s = .next s' ∧ (placeNumber p, k) ∈ s'.mgmtOvf ∧ SameBytes s s') ∧
    (∀ n k c, s.cores.any (fun e => e.1 == n) = true → k < 8 → let sel := Tab.get 0 (pmcOf s (.core n)).sel k
      let ctx := (sel.extractLsb' 48 16).toNat
      placeHas (.core n) k = true → sel.getLsbD 16 = true → sel.getLsbD 17 = true → (∀ e ∈ s.evPend, e.ctx ≠ ctx) → RingReady s ctx c →
      ∃ s', exec (.counterOverflow (.core n) k) s = .next s' ∧ s'.mgmtOvf = s.mgmtOvf ∧ Recorded s s' ctx c (recordBits s.clock sel 0 0 k 0 6 ctx))

/-- R378, R379: the semaphore goes to the port that writes its own value while it is free, back when its owner writes 0, and back after 5 s without a
command; a command that changes the device needs the semaphore and is else refused with status 1; read commands need none; ORD.MODE changes only while
no team is resident, and as the firmware's discipline has it (log 136). Where the spec leaves a choice it rests on the model's, log 89, 91, 92, 93 and
136. -/
def Obligations.ManagementSteps : Prop :=
  ∀ (s : State),
    (∀ p, portOpen s p = true → s.mgmtSem = 0 → mailboxWrites s = false → 
      ∃ s', exec (.mgmtSemWrite p ((ownerOf p).setWidth 64)) s = .next s' ∧ s'.mgmtSem = ownerOf p ∧ s'.mgmtLast = s.rt) ∧
    (∀ p, portOpen s p = true → s.mgmtSem = ownerOf p → 
      ∃ s', exec (.mgmtSemWrite p 0) s = .next s' ∧ s'.mgmtSem = 0) ∧
    (∀ p v, portOpen s p = true → s.mgmtSem ≠ 0 → s.mgmtSem ≠ ownerOf p → 
      exec (.mgmtSemWrite p v) s = .next s) ∧
    (s.mgmtSem ≠ 0 → s.mgmtLast + microseconds 5000000 ≤ s.rt → 
      exec .mgmtSemTimeout s = .next { s with mgmtSem := 0 }) ∧
    (∀ p pl k, portOpen s p = true → placeHas pl k = true → 
      ∃ s', exec (.readPmc p pl k) s = .next s' ∧ s'.replies = s.replies ++ [{ cxl := p == .cxl, status := 0, data :=
        [(Tab.get 0 (pmcOf s pl).sel k).toNat, (Tab.get 0 (pmcOf s pl).cnt k).toNat] }] ∧ s' = { s with replies := s'.replies, mgmtLast := s'.mgmtLast }) ∧
    (∀ p a b n, portOpen s p = true → bankOk a b n = true → 
      ∃ s', exec (.readEcs p a b n) s = .next s' ∧ s'.replies = s.replies ++ [{ cxl := p == .cxl, status := 0, data := [Tab.get 0 s.ecs (bankKey a b n)] }]) ∧
    (∀ p, portOpen s p = true → 
      ∃ s' d, exec (.readLog p) s = .next s' ∧ s'.replies = s.replies ++ [{ cxl := p == .cxl, status := 0, data := d }]) ∧
    (∀ p ctx pr ps img k v pl n b, portOpen s p = true → s.mgmtSem ≠ ownerOf p → 
      let no := Host.Outcome.next (reply s p 1 [])
      exec (.createCtx p ctx pr ps) s = no ∧ exec (.writeCsr p ctx k v) s = no ∧ exec (.writePmc p pl n b v) s = no ∧ exec (.fwUpdate p img) s = no ∧
        exec (.maintReset p) s = no) ∧
    (∀ p ctx pr ps, portOpen s p = true → s.mgmtSem = ownerOf p → pr.toNat < 2 → ctx < 0xFFFF → s.ctx? ctx = none → 
      ∃ s' x, exec (.createCtx p ctx pr ps) s = .next s' ∧ s'.ctx? ctx = some x ∧ x.priv = (if pr = 0 then .user else .supervisor) ∧ x.ptlPasid = ps ∧ x.trapEntry = 0 ∧
        x.gyTimeout = 1000 ∧ x.seals = []) ∧
    (∀ p ctx k v x, portOpen s p = true → s.mgmtSem = ownerOf p → csrListed k.toNat = true → 0x400 ≤ k.toNat → csrHome k.toNat = .ctx → ctx ≠ 0xFFFF → s.ctx? ctx = some x → 
      ∃ s' x', exec (.writeCsr p ctx k v) s = .next s' ∧ s'.ctx? ctx = some x' ∧ ctxCsr x' k.toNat = csrKept 0 v k.toNat) ∧
    (∀ p pl k v, portOpen s p = true → s.mgmtSem = ownerOf p → placeHas pl k = true → (∀ n, pl ≠ .core n) → 
      ∃ s', exec (.writePmc p pl k false v) s = .next s' ∧ Tab.get 0 (pmcOf s' pl).cnt k = v.extractLsb' 0 48) ∧
    (∀ p img, portOpen s p = true → s.mgmtSem = ownerOf p → 
      ∃ s', exec (.fwUpdate p img) s = .next s' ∧ s'.spi = img) ∧
    (∀ p, portOpen s p = true → s.mgmtSem = ownerOf p → (∃ l ∈ s.launches, l.handler = none) → 
      ∃ s', exec (.maintReset p) s = .next s' ∧ s' = { s with replies := s'.replies, mgmtLast := s'.mgmtLast } ∧ (s'.replies.getLast?).map (fun r => r.status) = some 2) ∧
    (∀ p, portOpen s p = true → s.mgmtSem = ownerOf p → (∀ l ∈ s.launches, l.handler ≠ none) → 
      ∃ s', exec (.maintReset p) s = .next s' ∧ s'.teams = [] ∧ s'.ctxs = [] ∧ s'.mem = s.mem ∧ s'.devId = s.devIdNext ∧ s'.spi = s.spi ∧ s'.repairs = s.repairs ∧ s'.retired = s.retired) ∧
    (∀ p ctx v, portOpen s p = true → s.mgmtSem = ownerOf p →
      ∃ s', exec (.writeCsr p ctx 0x420 v) s = .next s' ∧
        s'.ordMode = (if s.teams = [] ∧ (if v.getLsbD 0 then ∀ l ∈ s.launches, l.ctx = 0xFFFF else s.bringUp = 7) then v.getLsbD 0 else s.ordMode))

/-- R69, R73, R284, R358, R364, R365, R380-R385: a refresh may be postponed eight times; a correctable error counts to its bank and row, an uncorrectable
one poisons its line; bring-up makes firmware's context and its launch, repairs rows, and stops at a step that fails, which is logged; the core clock
falls by 100 MHz to no less than 1.2 GHz, where an overheated device places no team; power that is lost takes the device's state; forced pre-emption
stops a context's issue and saves its teams, and its resumption makes it resident; a fetched word is decoded, a core issues the team it selects, pass
by pass, and a pending trap is taken. Where the spec leaves a choice it rests on the model's, log 3, 5, 62, 76, 78, 87, 88, 89, 90 and 95. -/
def Obligations.DeviceSteps : Prop :=
  ∀ (s : State),
    (∀ ch b w, bankOk (ch / 32) (ch % 32) b = true → 
      let k := bankKey (ch / 32) (ch % 32) b
      let n := Tab.get 0 s.postponed k
      ∃ s', exec (.bankRefreshDue ch b w) s = .next s' ∧ Tab.get 0 s'.postponed k = (if w = true ∧ n < 8 then n + 1 else 0) ∧ s' = { s with postponed := s'.postponed }) ∧
    (∀ a b n row line, bankOk a b n = true → row < 2 ^ 32 → 
      ∃ s', exec (.ecsScrubError a b n row true line) s = .next s' ∧ SameBytes s s' ∧ Tab.get 0 s'.ecs (bankKey a b n) = min (Tab.get 0 s.ecs (bankKey a b n) + 1) 0xFFFF) ∧
    (∀ a b n row line, bankOk a b n = true → row < 2 ^ 32 → lineInChannel line a b = true → 
      ∃ s', exec (.ecsScrubError a b n row false line) s = .next s' ∧ line ∈ s'.poison ∧ ((a, b, n, row) ∈ s'.repairs ∨ (a, b, n, row) ∈ s'.retired)) ∧
    (∀ l0 l1 r fw, (s.powered = false ∨ s.bringUp = 0) → 
      ∃ s' f, exec (.powerGood none ⟨l0, l1⟩ ⟨r, fw⟩) s = .next s' ∧ s'.powered = true ∧ s'.bringUp = 6 ∧ s'.repairs = [] ∧ s'.hdm0 = (if l0.full then l0.hdm else none) ∧
        s'.hdm1 = (if l1.full then l1.hdm else none) ∧ s'.ioPorts = (if l0.full then [] else [0]) ++ (if l1.full then [] else [1]) ∧
        s'.ctx? 0xFFFF = some f ∧ f.priv = .firmware ∧ f.ptlDesc = fw.desc ∧ f.ptlRoot = fw.root ∧ ∃ b, (s'.die 0).bindNext = (s.die 0).bindNext ++ [(0, b)] ∧ b.matchq = false ∧ b.ctx = 0xFFFF ∧ b.cores = 1 ∧ b.quota = 1 ∧ b.valid = true) ∧
    (∀ k code l0 l1 r fw, (s.powered = false ∨ s.bringUp = 0) → 1 ≤ k → k ≤ 5 → 
      ∃ s', exec (.powerGood (some (k, code)) ⟨l0, l1⟩ ⟨r, fw⟩) s = .next s' ∧ s'.powered = true ∧ s'.bringUp = k - 1 ∧ s'.errLog = s.errLog ++ [.bringUp k code] ∧ s'.launches = s.launches ∧
        s'.ctxs = s.ctxs ∧ s'.hdm0 = s.hdm0 ∧ s'.hdm1 = s.hdm1 ∧ (k ≤ 3 → s'.repairs = s.repairs) ∧ (3 < k → s'.repairs = [])) ∧
    (∀ l, s.bringUp = 6 → l.ctx = 0xFFFF → l.dispatched = true → 
      (firstFail l = none → (dropLaunch s l).bringUp = 7 ∧ (dropLaunch s l).ordMode = false) ∧
      ∀ u k, firstFail l = some (u, k) → (dropLaunch s l).bringUp = 6 ∧ (dropLaunch s l).errLog = s.errLog ++ [.bringUp 6 k.toNat]) ∧
    (12 < s.clkStep → 
      exec .thermalPowerLimit s = .next { s with clkStep := s.clkStep - 1 }) ∧
    (s.clkStep = 12 → 
      exec .junctionOver110c s = .next { s with hot := true } ∧ ∀ d ctx,
        exec (.dispatchPlacement d) { s with hot := true } = .fault (.eventNotDue "DISPATCH_PLACEMENT") ∧
        exec (.starvationPlacement d) { s with hot := true } = .fault (.eventNotDue "STARVATION_PLACEMENT") ∧
        exec (.contextResume ctx) { s with hot := true } = .fault (.eventNotDue "CONTEXT_RESUME")) ∧
    (s.hot = true → 
      exec .junctionBelow100c s = .next { s with hot := false }) ∧
    (
      ∃ s', exec .inputPowerLoss s = .next s' ∧ s'.powered = false ∧ s'.teams = [] ∧ s'.ctxs = [] ∧ s'.repairs = [] ∧ s'.spi = s.spi ∧ s'.retired = s.retired ∧
        ∀ k, k < Config.deviceKey → memByte s'.mem k = memByte s.mem k) ∧
    (∀ ctx x, s.ctx? ctx = some x → ctx ≠ 0xFFFF → 
      ∃ s' x', exec (.phaseBoundaryPreempt ctx) s = .next s' ∧ s'.ctx? ctx = some x' ∧ x'.resident = false ∧ SameBytes s s' ∧ (∀ l ∈ s'.launches, l.ctx = ctx → (∃ w ∈ s.watches, w.ctx = ctx ∧ w.qid = l.qid) → l.dispatched = true ∨ l.cancelled = true ∨ l.refused ≠ none) ∧
        (∀ d i, (bindOf s' d i).ctx.toNat = ctx → (bindOf s' d i).quota = 0)) ∧
    (∀ ctx x s1, s.ctx? ctx = some x → ctx ≠ 0xFFFF → x.asked = none → x.saved = [] → x.stopping = false → (replyArea x).2 ≠ 0 → (saveArea x).2 ≠ 0 →
      ((savePieces s ctx).map (fun q => up64 q.length)).sum ≤ (saveArea x).2 →
      freeReplies ctx (replyArea x).1 (replyArea x).2 0 ((ctxTeams s ctx).foldl (fun a e => a + e.2.slots.length) 0) s = (s1, .ok true) → s1.ctx? ctx ≠ none → 
      ∃ s' x', exec (.forcedPreempt ctx) s = .next s' ∧ s'.ctx? ctx = some x' ∧ x'.stopping = true ∧ x'.resident = false ∧
        ∀ sid t, s'.team? sid = some t → t.ctx = ctx → t.pended = none → t.more = none → t.mem = none → t.midAccess = false →
          teamReady s' sid t = false ∧ fetchReady s' sid t = false) ∧
    (∀ ctx x, s.ctx? ctx = some x → ctx ≠ 0xFFFF → x.asked = none → x.saved = [] → x.stopping = false → ((replyArea x).2 = 0 ∨ (saveArea x).2 = 0) → 
      exec (.forcedPreempt ctx) s = .next s) ∧
    (∀ ctx x s1, s.ctx? ctx = some x → ctx ≠ 0xFFFF → x.asked = none → x.saved = [] → x.stopping = true → (ctxTeams s ctx).any (fun e => stillRuns s e.1 e.2) = false → ctxWindows s ctx = [] →
      writePieces ctx ((pieceVas (saveArea x).1 (savePieces s ctx)).zip (savePieces s ctx)) s = (s1, .ok ()) → s1.ctx? ctx ≠ none → 
      ∃ s' x', exec (.forcedPreempt ctx) s = .next s' ∧ s'.ctx? ctx = some x' ∧ x'.stopping = false ∧ x'.saved.length = (ctxTeams s ctx).length ∧ ∀ e ∈ s.teams, e.2.ctx = ctx → s'.team? e.1 = none) ∧
    (∀ ctx x s1, s.ctx? ctx = some x → x.resident = false → x.asked = none → s.hot = false → windowsFit s (x.saved.filterMap (fun w => w.window)) = true → restoreContext ctx x s = (s1, .ok true) → s1.ctx? ctx ≠ none → 
      ∃ s' x', exec (.contextResume ctx) s = .next s' ∧ s'.ctx? ctx = some x' ∧ x'.resident = true ∧ x'.saved = []) ∧
    (∀ sid t s1 i, s.team? sid = some t → fetchReady s sid t = true → fetchFor s sid t = (s1, some i) → s1.team? sid ≠ none → 
      ∃ s' t', exec (.instructionFetch sid) s = .next s' ∧ s'.team? sid = some t' ∧ t'.fetched = some i) ∧
    (∀ k sid t, s.current = none → selectTeam s k = some sid → dequeBehind s k = false → s.team? sid = some t → t.more = none → 
      exec (.passIssueSelect k) s = .next { placeYielded s k sid with current := some sid }) ∧
    (∀ k sid t m, s.current = none → selectTeam s k = some sid → dequeBehind s k = false → s.team? sid = some t → t.more = some m → 
      ∃ s' t', exec (.passIssueSelect k) s = .next s' ∧ s'.current = none ∧ s'.team? sid = some t' ∧ t'.more = (if m.left ≤ 1 then none else some { m with left := m.left - 1 }) ∧
        SameRegs t t' [] ∧ t'.pc = t.pc ∧ SameBytes s s' ∧ (s'.core t.coreId).busyUntil = s.clock + m.cycles) ∧
    (∀ k, dequeBehind s k = true → 
      exec (.passIssueSelect k) s = .fault (.eventNotDue "PASS_ISSUE_SELECT")) ∧
    (∀ k sid, selectTeam s k = some sid → 
      (s.core k).busyUntil ≤ s.clock ∧ ∃ t, (sid, t) ∈ s.teams ∧ t.coreId = k ∧ teamReady s sid t = true ∧
        (((s.core k).lastKey = some t.key ∧ (s.core k).run + nextCycles t ≤ 16) ∨
          ∀ e ∈ s.teams, e.2.coreId = k → teamReady s e.1 e.2 = true → ¬ ((s.core k).lastKey = some e.2.key ∧ (s.core k).run + nextCycles e.2 ≤ 16) ∧ t.issued ≤ e.2.issued)) ∧
    (∀ sid t p entry, s.team? sid = some t → trapReady s t = true → nextPending t = some p → HasHandler s t entry → t.region = none → 
      ∃ s' t', exec (.pendingTrapTaken sid) s = .next s' ∧ s'.team? sid = some t' ∧ InHandler t' entry p.cause p.tval 0 t.pc ∧
        t'.pend = t.pend.erase p ∧ SameRegs t t' [] ∧ SameBytes s s')

/-- R85, R86, R88-R90, R101, R104, R110, R111, R358: before its own effect an instruction meets, in this order, a pending trap, the checks of its word,
the results it waits for and the latency check; a guard that fails leaves a scalar-side instruction its issue cycle alone, and an empty enable a
vector instruction; each lane of a read too early finds the old value or the new one where the check is off; a result past the shape budget traps, be
it G by a partial enable, by a G source or by its own entry. Where the spec leaves a choice it rests on the model's, log 5, 7, 9 and 11. -/
def Obligations.InstructionIssue : Prop :=
  ∀ (i : Instr) (f : Fields) (s : State) (sid : Nat) (t : Team),
    (i.fields = some f → s.current = some sid → s.team? sid = some t → trapDue t = true →
      exec i s = .next { takePending s sid with current := none }) ∧
    (∀ c v, i.fields = some f → s.current = some sid → s.team? sid = some t → trapDue t = false → checkWord s t i (uses i) = some (c, v) → TrapsAt i s sid t c v) ∧
    (∀ r, i.fields = some f → s.current = some sid → s.team? sid = some t → trapDue t = false → checkWord s t i (uses i) = none → pendingReg t i (uses i) = some r →
      ∃ s', exec i s = .next s' ∧ s'.team? sid = some { t with park := .result r } ∧ SameBytes s s' ∧ s'.current = none) ∧
    (i.fields = some f → s.current = some sid → s.team? sid = some t → trapDue t = false → checkWord s t i (uses i) = none → pendingReg t i (uses i) = none →
      s.clock < landsInOrder t (uses i) (latency (opcOf i)) →
      ∃ s', exec i s = .next s' ∧ s'.team? sid = some { t with readyAt := landsInOrder t (uses i) (latency (opcOf i)), park := .run } ∧ SameBytes s s') ∧
    (∀ v, i.fields = some f → s.current = some sid → s.team? sid = some t → trapDue t = false → checkWord s t i (uses i) = none → pendingReg t i (uses i) = none →
      landsInOrder t (uses i) (latency (opcOf i)) ≤ s.clock → t.sbchk = true → t.mem = none →
      checkStall t s.clock (isVector (opcOf i)) (uses i).src = some v → TrapsAt i s sid t Cause.stallShort v) ∧
    (i.fields = some f → isVector f.opc.toNat = false → (∀ h ty d a b, i ≠ .ssel h ty d a b) → Clear i s sid t →
      (viewAtIssue i s sid t).guard (hdrOf f) = false → exec i s = .next (fallen i s sid t (atIssue i s sid t) 0)) ∧
    (i.fields = some f → isVector f.opc.toNat = true → f.opc.toNat < 0x1C0 ∨ 0x1CF < f.opc.toNat → (0x200 ≤ f.opc.toNat → t.mem = none) → Clear i s sid t →
      (match i with | .vsel .. => (viewAtIssue i s sid t).active | _ => enableOf i (hdrOf f) s sid t) = 0 → ∃ s' t', exec i s = .next s' ∧ s'.team? sid = some t' ∧ t'.pc = (teamAtIssue i s sid t).pc + 12 ∧
        SameRegs (teamAtIssue i s sid t) t' [] ∧ SameSpecial (teamAtIssue i s sid t) t' ∧ SameBytes (atIssue i s sid t) s') ∧
    (∀ e p x n, t.sbchk = false → e ∈ t.fixed → e.reg = .s n → (∀ e' ∈ t.fixed, e'.reg = .s n → e' = e) → n ≠ 0 →
      (p, x, RegName.s n) ∈ (uses i).src → e.early (atIssue i s sid t).clock (isVector (opcOf i)) = true → ∀ o l, e.old = .s o → s.team? sid = some t →
      (viewAtIssue i s sid t).sAt n l = o ∨ (viewAtIssue i s sid t).sAt n l = t.sr n) ∧
    (∀ h ty sat d a b, i = Instr.vadd h ty sat d a b → Clear i s sid t → enableOf i h s sid t ≠ 0 →
      overBudget (teamAtIssue i s sid t) ((members d ty.wide).map (fun n => (n, if enableOf i h s sid t = (teamAtIssue i s sid t).lanes ∧
        allU (tags2 i s sid t ty.wide a b) then Tag.u else Tag.g))) = true → Tag.a ∉ tags2 i s sid t ty.wide a b →
      Traps i s sid t Cause.shapeBudget ((specV d).setWidth 64)) ∧
    (∀ d ds, i.fields = some f → isVector f.opc.toNat = true → (0x200 ≤ f.opc.toNat → t.mem = none) → Clear i s sid t →
      (match i with | .vsel .. => (viewAtIssue i s sid t).active | _ => enableOf i (hdrOf f) s sid t) ∉ [0, (teamAtIssue i s sid t).lanes] →
      ((uses i).dst.filterMap fun | .v n => some n | _ => none) = d :: ds →
      overBudget (teamAtIssue i s sid t) ((d :: ds).map (·, Tag.g)) = true → Traps i s sid t Cause.shapeBudget (BitVec.ofNat 64 d)) ∧
    (∀ d ds p x n, i.fields = some f → (0x0C0 ≤ f.opc.toNat ∧ f.opc.toNat ≤ 0x0D8) ∨ (0x140 ≤ f.opc.toNat ∧ f.opc.toNat ≤ 0x153) → (∀ h ty v b, i ≠ .vmov h ty v b) →
      Clear i s sid t → (match i with | .vsel .. => (viewAtIssue i s sid t).active | _ => enableOf i (hdrOf f) s sid t) ≠ 0 →
      (p, x, RegName.v n) ∈ (uses i).src → ((teamAtIssue i s sid t).vr n).tag = .g →
      ((uses i).dst.filterMap fun | .v n => some n | _ => none) = d :: ds →
      overBudget (teamAtIssue i s sid t) ((d :: ds).map (·, Tag.g)) = true → Traps i s sid t Cause.shapeBudget (BitVec.ofNat 64 d)) ∧
    (∀ h d a, i = .vtagExpand h d a ∨ i = .vtagCompact h d a → Clear i s sid t → (viewAtIssue i s sid t).guard h = true →
      overBudget (teamAtIssue i s sid t) [(d.toNat, Tag.g)] = true → Traps i s sid t Cause.shapeBudget ((specV d).setWidth 64)) ∧
    (∀ h d a b, i = .vsetl h d a b → Clear i s sid t → (viewAtIssue i s sid t).guard h = true →
      (viewAtIssue i s sid t).laneNum (atIssue i s sid t) b < (teamAtIssue i s sid t).w →
      overBudget (teamAtIssue i s sid t) [(d.toNat, Tag.g)] = true → Traps i s sid t Cause.shapeBudget ((specV d).setWidth 64))

/-- R158, R160, R161: the events of an instruction are counted when its last pass completes, and not before: a class's total and its window count grow by
what was raised, held at 2^32 - 1; a window count that goes beyond its threshold becomes 0, and where the class's action is to trap, the trap is due;
a cycle that passes counts what completes in it. Where the spec leaves a choice it rests on the model's, log 107. -/
def Obligations.EventsCounted : Prop :=
  ∀ (s : State) (sid : Nat) (t : Team),
    ((s.teams.map Prod.fst).Nodup → s.team? sid = some t → t.owed ≠ [] → t.more = none → t.doneAt ≤ s.clock → 
      ∃ t', (countOwed s).team? sid = some t' ∧ t'.owed = [] ∧ ∀ k, k < 8 → t'.exc.totalOf k = satAdd32 (t.exc.totalOf k) (t.owed.getD k 0) ∧
        t'.exc.wcntOf k = (if t.exc.wcntOf k ≤ t.exc.thrOf k ∧ t.exc.thrOf k < satAdd32 (t.exc.wcntOf k) (t.owed.getD k 0) then 0 else satAdd32 (t.exc.wcntOf k) (t.owed.getD k 0))) ∧
    (∀ k, (s.teams.map Prod.fst).Nodup → s.team? sid = some t → t.owed ≠ [] → t.more = none → t.doneAt ≤ s.clock → k < 8 → t.exc.actOf k = 1 → t.exited = false → t.inTrap = false →
      t.exc.wcntOf k ≤ t.exc.thrOf k → t.exc.thrOf k < satAdd32 (t.exc.wcntOf k) (t.owed.getD k 0) → 
      ∃ t', (countOwed s).team? sid = some t' ∧
        { cause := BitVec.ofNat 9 (0x040 + k), tval := (satAdd32 (t.exc.wcntOf k) (t.owed.getD k 0)).setWidth 64, engine := false } ∈ t'.pend) ∧
    ((s.teams.map Prod.fst).Nodup → s.team? sid = some t → (s.clock < t.doneAt ∨ t.more ≠ none) → 
      ∃ t', (countOwed s).team? sid = some t' ∧ t'.owed = t.owed ∧ t'.exc = t.exc) ∧
    (∀ due, (tick s due).teams = (countOwed { s with clock := s.clock + 1, rt := s.rt + Config.unitsPerCycle s.clkStep }).teams)

/-- R85, R106, R124, R168, R180: an instruction on registers that completes changes the registers it names as its destinations, its team's own issue state
and its core's account, and nothing else. Where the spec leaves a choice it rests on the model's, log 5. -/
def Obligations.RegisterInstructionsFrame : Prop :=
  ∀ (i : Instr) (f : Fields) (s : State) (sid : Nat) (t : Team) (s' : State),
    (i.fields = some f → registerOnly f.opc.toNat = true → Clear i s sid t → exec i s = .next s' →
      (∀ t', s'.team? sid = some t' → t'.inTrap = t.inTrap ∧ t'.failed = t.failed) →
      OnlyRegs (atIssue i s sid t) s' sid (teamAtIssue i s sid t) (uses i).dst)

/-- R76-R83, R99-R102: decoding the word of a well-formed instruction gives it back, every operand at every value. -/
def Obligations.DecodeEncode : Prop :=
  ∀ (i : Instr),
    (i.wf = true → i.fields ≠ none → ∃ w, encode i = some w ∧ decode w = .ok i)

/-- R76-R83, R99-R102: a word that decodes is the word of the instruction it decodes to, and that instruction is well-formed: no word has two meanings,
and no bit of it is dropped. -/
def Obligations.EncodeDecode : Prop :=
  ∀ (w : BitVec 96) (i : Instr),
    (decode w = .ok i → i.wf = true ∧ encode i = some w)

/-- R73, R76, R101: a step runs the selected team's fetched instruction, or the one its twelve bytes decode to; a word that does not decode traps at the
instruction; bytes that nothing caches are those of memory under the team's translation. Where the spec leaves a choice it rests on the model's, log
4, 12, 13 and 27. -/
def Obligations.StepRunsDecoded : Prop :=
  ∀ (s : State) (sid : Nat) (t : Team),
    (∀ i, s.powered = true → s.agenda = [] → s.current = some sid → s.team? sid = some t → t.fetched = some i → step s = exec i s) ∧
    (∀ s1 w i, s.powered = true → s.agenda = [] → s.current = some sid → s.team? sid = some t → t.fetched = none → t.pf = none → trapDue t = false →
      fetchWord s sid t = (s1, .word w) → decode w = .ok i → s1.team? sid = some t → step s = exec i (s1.setTeam sid t)) ∧
    (∀ s1 w e, s.powered = true → s.agenda = [] → s.current = some sid → s.team? sid = some t → t.fetched = none → t.pf = none → trapDue t = false →
      fetchWord s sid t = (s1, .word w) → decode w = .error e →
      step s = .next { (takeTrap s1 sid (decodeTrap e).1 (decodeTrap e).2 0 t.pc) with current := none }) ∧
    (∀ tr, let a := t.pc.toNat
      canonical t.pc = true → t.pf = none → a % 64 ≤ 52 → (∀ x ∈ (s.core t.coreId).icache, x.1 ≠ t.ctx ∨ x.2.1 ≠ a / 64) → s.home? t.ctx (a / 64) = none →
      tlbFind s (unitOf a) t.ctx a .exec = some tr → tlbFind s (unitOf a) t.ctx (a / 64 * 64) .read = some tr → tr.peer = none → 6 ≤ tr.size →
      poisonedKey s (physKey s (lineAt tr (a / 64))) = false →
      ∃ s1, fetchWord s sid t = (s1, .word (BitVec.ofNat 96 (leNat (memRead s.mem (physKey s (lineAt tr (a / 64)) + a % 64) 12)))))

/-- Log 1 (the model's own form of memory): every step keeps memory in its canonical form, so that equal memories are equal data. -/
def Obligations.MemoryInvariant : Prop :=
  ∀ (s s' : State),
    (s.Inv → step s = .next s' → s'.Inv)

/-- R38, R73, R230, R238, R270, R291, R340, R385: after reset %clock is 0, bank-drain ordering is set, leases are 64 µs, the core clock is at 2.4 GHz, no
team, launch or context exists, tiles' counters read 0, the device has no identifier before one is configured, and memory is in its canonical form.
Where the spec leaves a choice it rests on the model's, log 1 and 2. -/
def Obligations.ResetState : Prop :=
  ∀ (n c k : Nat),
    (State.reset.clock = 0 ∧ State.reset.ordMode = true ∧ State.reset.leaseMax = 64 ∧ State.reset.clkStep = 24 ∧ State.reset.devId = 0xFFF) ∧
    (State.reset.teams = [] ∧ State.reset.launches = [] ∧ State.reset.ctxs = [] ∧ State.reset.agenda = [] ∧ State.reset.current = none) ∧
    (counterOf State.reset c k = 0 ∧ bindOf State.reset c k = emptyBind ∧ State.reset.team? n = none ∧ (State.reset.port n).up = false) ∧
    (State.reset.Inv)

/-- The words the spec writes out (02, 05, 06, 07, 09, 10, 12, 13, 15, 17, 19, 21, 23), one of each family, decode to the instructions it writes beside
them. -/
def Obligations.DecodeWords : Prop :=
  ∀ (h : Hdr),
    (h.gneg = false → h.gp = 31 → h.stall = 0 → h.yld = false → decode 0x00001F000000000000000000 = .ok (.nop h) ∧ decode 0x00701F000031FC0000000002 = .ok (.bra h (.none (.p 31)) 2)) ∧
    (h.gneg = false → h.gp = 31 → h.stall = 0 → h.yld = false → decode 0x80209F000240085608000010 = .ok (.vld h .b32 .global .strong 9 ⟨5, .device, false, some 8, 16⟩) ∧
      decode 0x80201F00024008A008000000 = .ok (.vld h .b32 .global .weak 9 ⟨10, .team, false, some 8, 0⟩) ∧
      decode 0x81C01F004510840000010107 = .ok (.cpy h 20 8 ⟨true, 1, 0, 7⟩)) ∧
    (h.gneg = false → h.gp = 31 → h.stall = 0 → h.yld = false → decode 0x98001F0081C040000000010C = .ok (.mma h 7 4 12) ∧ decode 0xA8001F004180040000000001 = .ok (.barv h 6 (.imm 1)) ∧
      decode 0xB0401F000010A40000000002 = .ok (.nmcall h 10 2) ∧ decode 0xB8201F004180000000000000 = .ok (.rbeg h true 6)) ∧
    (h.gneg = false → h.gp = 31 → h.stall = 0 → h.yld = false → decode 0xBC001F004510840000006011 = .ok (.gcall h 20 8 ⟨0x11, 2, true⟩) ∧ decode 0xC0401F000010040000000040 = .ok (.csrw h .wr 0x40 0) ∧
      decode 0xC0801F000000000000000000 = .ok (.tret h none)) ∧
    (decode 0x300203300100400000000107 = .ok (.vadd ⟨false, 3, 3, false⟩ .i32 true 4 (.v 4) (.r (.s 7))) ∧
      decode 0x31891F300240000000000005 = .ok (.vadc ⟨false, 31, 3, false⟩ .n32 4 9 (.v 0) (.r (.v 5))) ∧
      decode 0x50CA5F400180200000000003 = .ok (.vffma ⟨false, 31, 4, false⟩ .bf16x2 .rz ⟨false, false, true⟩ 6 (.v 2) (.r (.v 3))) ∧
      decode 0x70491F904300A00000000000 = .ok (.vredx ⟨false, 31, 9, false⟩ .n32 .min 12 (.v 10)))
end

