-- ==== Sys2Proof/Laws/State.lean ====
section
/-! SUPPORT. What each update of the state and of a team leaves unchanged: one lemma per field per update. -/

namespace Sys2Proof.Machine

/-! ## `setTeam` -/

@[simp] theorem State.setTeam_clock (s : State) (k : Nat) (x : Team) : (s.setTeam k x).clock = s.clock := rfl
@[simp] theorem State.setTeam_rt (s : State) (k : Nat) (x : Team) : (s.setTeam k x).rt = s.rt := rfl
@[simp] theorem State.setTeam_clkStep (s : State) (k : Nat) (x : Team) : (s.setTeam k x).clkStep = s.clkStep := rfl
@[simp] theorem State.setTeam_hot (s : State) (k : Nat) (x : Team) : (s.setTeam k x).hot = s.hot := rfl
@[simp] theorem State.setTeam_powered (s : State) (k : Nat) (x : Team) : (s.setTeam k x).powered = s.powered := rfl
@[simp] theorem State.setTeam_bringUp (s : State) (k : Nat) (x : Team) : (s.setTeam k x).bringUp = s.bringUp := rfl
@[simp] theorem State.setTeam_devId (s : State) (k : Nat) (x : Team) : (s.setTeam k x).devId = s.devId := rfl
@[simp] theorem State.setTeam_devIdNext (s : State) (k : Nat) (x : Team) : (s.setTeam k x).devIdNext = s.devIdNext := rfl
@[simp] theorem State.setTeam_fjExp (s : State) (k : Nat) (x : Team) : (s.setTeam k x).fjExp = s.fjExp := rfl
@[simp] theorem State.setTeam_ordMode (s : State) (k : Nat) (x : Team) : (s.setTeam k x).ordMode = s.ordMode := rfl
@[simp] theorem State.setTeam_leaseMax (s : State) (k : Nat) (x : Team) : (s.setTeam k x).leaseMax = s.leaseMax := rfl
@[simp] theorem State.setTeam_hostIow (s : State) (k : Nat) (x : Team) : (s.setTeam k x).hostIow = s.hostIow := rfl
@[simp] theorem State.setTeam_ticket (s : State) (k : Nat) (x : Team) : (s.setTeam k x).ticket = s.ticket := rfl
@[simp] theorem State.setTeam_mgmtSem (s : State) (k : Nat) (x : Team) : (s.setTeam k x).mgmtSem = s.mgmtSem := rfl
@[simp] theorem State.setTeam_mgmtLast (s : State) (k : Nat) (x : Team) : (s.setTeam k x).mgmtLast = s.mgmtLast := rfl
@[simp] theorem State.setTeam_mgmtOvf (s : State) (k : Nat) (x : Team) : (s.setTeam k x).mgmtOvf = s.mgmtOvf := rfl
@[simp] theorem State.setTeam_errLog (s : State) (k : Nat) (x : Team) : (s.setTeam k x).errLog = s.errLog := rfl
@[simp] theorem State.setTeam_replies (s : State) (k : Nat) (x : Team) : (s.setTeam k x).replies = s.replies := rfl
@[simp] theorem State.setTeam_signals (s : State) (k : Nat) (x : Team) : (s.setTeam k x).signals = s.signals := rfl
@[simp] theorem State.setTeam_spi (s : State) (k : Nat) (x : Team) : (s.setTeam k x).spi = s.spi := rfl
@[simp] theorem State.setTeam_repairs (s : State) (k : Nat) (x : Team) : (s.setTeam k x).repairs = s.repairs := rfl
@[simp] theorem State.setTeam_retired (s : State) (k : Nat) (x : Team) : (s.setTeam k x).retired = s.retired := rfl
@[simp] theorem State.setTeam_burnt (s : State) (k : Nat) (x : Team) : (s.setTeam k x).burnt = s.burnt := rfl
@[simp] theorem State.setTeam_rowErrs (s : State) (k : Nat) (x : Team) : (s.setTeam k x).rowErrs = s.rowErrs := rfl
@[simp] theorem State.setTeam_ecs (s : State) (k : Nat) (x : Team) : (s.setTeam k x).ecs = s.ecs := rfl
@[simp] theorem State.setTeam_postponed (s : State) (k : Nat) (x : Team) : (s.setTeam k x).postponed = s.postponed := rfl
@[simp] theorem State.setTeam_mem (s : State) (k : Nat) (x : Team) : (s.setTeam k x).mem = s.mem := rfl
@[simp] theorem State.setTeam_poison (s : State) (k : Nat) (x : Team) : (s.setTeam k x).poison = s.poison := rfl
@[simp] theorem State.setTeam_hdm0 (s : State) (k : Nat) (x : Team) : (s.setTeam k x).hdm0 = s.hdm0 := rfl
@[simp] theorem State.setTeam_hdm1 (s : State) (k : Nat) (x : Team) : (s.setTeam k x).hdm1 = s.hdm1 := rfl
@[simp] theorem State.setTeam_ioPorts (s : State) (k : Nat) (x : Team) : (s.setTeam k x).ioPorts = s.ioPorts := rfl
@[simp] theorem State.setTeam_hostHeld (s : State) (k : Nat) (x : Team) : (s.setTeam k x).hostHeld = s.hostHeld := rfl
@[simp] theorem State.setTeam_own (s : State) (k : Nat) (x : Team) : (s.setTeam k x).own = s.own := rfl
@[simp] theorem State.setTeam_far (s : State) (k : Nat) (x : Team) : (s.setTeam k x).far = s.far := rfl
@[simp] theorem State.setTeam_peers (s : State) (k : Nat) (x : Team) : (s.setTeam k x).peers = s.peers := rfl
@[simp] theorem State.setTeam_tlb (s : State) (k : Nat) (x : Team) : (s.setTeam k x).tlb = s.tlb := rfl
@[simp] theorem State.setTeam_preqs (s : State) (k : Nat) (x : Team) : (s.setTeam k x).preqs = s.preqs := rfl
@[simp] theorem State.setTeam_wchecks (s : State) (k : Nat) (x : Team) : (s.setTeam k x).wchecks = s.wchecks := rfl
@[simp] theorem State.setTeam_wfaults (s : State) (k : Nat) (x : Team) : (s.setTeam k x).wfaults = s.wfaults := rfl
@[simp] theorem State.setTeam_evPend (s : State) (k : Nat) (x : Team) : (s.setTeam k x).evPend = s.evPend := rfl
@[simp] theorem State.setTeam_l1 (s : State) (k : Nat) (x : Team) : (s.setTeam k x).l1 = s.l1 := rfl
@[simp] theorem State.setTeam_homes (s : State) (k : Nat) (x : Team) : (s.setTeam k x).homes = s.homes := rfl
@[simp] theorem State.setTeam_fills (s : State) (k : Nat) (x : Team) : (s.setTeam k x).fills = s.fills := rfl
@[simp] theorem State.setTeam_wq (s : State) (k : Nat) (x : Team) : (s.setTeam k x).wq = s.wq := rfl
@[simp] theorem State.setTeam_spad (s : State) (k : Nat) (x : Team) : (s.setTeam k x).spad = s.spad := rfl
@[simp] theorem State.setTeam_spadBase (s : State) (k : Nat) (x : Team) : (s.setTeam k x).spadBase = s.spadBase := rfl
@[simp] theorem State.setTeam_spadLog (s : State) (k : Nat) (x : Team) : (s.setTeam k x).spadLog = s.spadLog := rfl
@[simp] theorem State.setTeam_ctxs (s : State) (k : Nat) (x : Team) : (s.setTeam k x).ctxs = s.ctxs := rfl
@[simp] theorem State.setTeam_cores (s : State) (k : Nat) (x : Team) : (s.setTeam k x).cores = s.cores := rfl
@[simp] theorem State.setTeam_dieTab (s : State) (k : Nat) (x : Team) : (s.setTeam k x).dieTab = s.dieTab := rfl
@[simp] theorem State.setTeam_launches (s : State) (k : Nat) (x : Team) : (s.setTeam k x).launches = s.launches := rfl
@[simp] theorem State.setTeam_watches (s : State) (k : Nat) (x : Team) : (s.setTeam k x).watches = s.watches := rfl
@[simp] theorem State.setTeam_pushes (s : State) (k : Nat) (x : Team) : (s.setTeam k x).pushes = s.pushes := rfl
@[simp] theorem State.setTeam_spawned (s : State) (k : Nat) (x : Team) : (s.setTeam k x).spawned = s.spawned := rfl
@[simp] theorem State.setTeam_ages (s : State) (k : Nat) (x : Team) : (s.setTeam k x).ages = s.ages := rfl
@[simp] theorem State.setTeam_casts (s : State) (k : Nat) (x : Team) : (s.setTeam k x).casts = s.casts := rfl
@[simp] theorem State.setTeam_spills (s : State) (k : Nat) (x : Team) : (s.setTeam k x).spills = s.spills := rfl
@[simp] theorem State.setTeam_stalls (s : State) (k : Nat) (x : Team) : (s.setTeam k x).stalls = s.stalls := rfl
@[simp] theorem State.setTeam_arrivals (s : State) (k : Nat) (x : Team) : (s.setTeam k x).arrivals = s.arrivals := rfl
@[simp] theorem State.setTeam_mail (s : State) (k : Nat) (x : Team) : (s.setTeam k x).mail = s.mail := rfl
@[simp] theorem State.setTeam_hub (s : State) (k : Nat) (x : Team) : (s.setTeam k x).hub = s.hub := rfl
@[simp] theorem State.setTeam_windows (s : State) (k : Nat) (x : Team) : (s.setTeam k x).windows = s.windows := rfl
@[simp] theorem State.setTeam_vents (s : State) (k : Nat) (x : Team) : (s.setTeam k x).vents = s.vents := rfl
@[simp] theorem State.setTeam_ventPmc (s : State) (k : Nat) (x : Team) : (s.setTeam k x).ventPmc = s.ventPmc := rfl
@[simp] theorem State.setTeam_regions (s : State) (k : Nat) (x : Team) : (s.setTeam k x).regions = s.regions := rfl
@[simp] theorem State.setTeam_tracked (s : State) (k : Nat) (x : Team) : (s.setTeam k x).tracked = s.tracked := rfl
@[simp] theorem State.setTeam_spec (s : State) (k : Nat) (x : Team) : (s.setTeam k x).spec = s.spec := rfl
@[simp] theorem State.setTeam_ports (s : State) (k : Nat) (x : Team) : (s.setTeam k x).ports = s.ports := rfl
@[simp] theorem State.setTeam_routes (s : State) (k : Nat) (x : Team) : (s.setTeam k x).routes = s.routes := rfl
@[simp] theorem State.setTeam_unsent (s : State) (k : Nat) (x : Team) : (s.setTeam k x).unsent = s.unsent := rfl
@[simp] theorem State.setTeam_committedAt (s : State) (k : Nat) (x : Team) : (s.setTeam k x).committedAt = s.committedAt := rfl
@[simp] theorem State.setTeam_agenda (s : State) (k : Nat) (x : Team) : (s.setTeam k x).agenda = s.agenda := rfl
@[simp] theorem State.setTeam_current (s : State) (k : Nat) (x : Team) : (s.setTeam k x).current = s.current := rfl
@[simp] theorem State.setTeam_order (s : State) (k : Nat) (x : Team) : (s.setTeam k x).order = s.order := rfl
@[simp] theorem State.setTeam_fresh (s : State) (k : Nat) (x : Team) : (s.setTeam k x).fresh = s.fresh := rfl

/-! ## `delTeam` -/

@[simp] theorem State.delTeam_clock (s : State) (k : Nat) : (s.delTeam k).clock = s.clock := rfl
@[simp] theorem State.delTeam_rt (s : State) (k : Nat) : (s.delTeam k).rt = s.rt := rfl
@[simp] theorem State.delTeam_clkStep (s : State) (k : Nat) : (s.delTeam k).clkStep = s.clkStep := rfl
@[simp] theorem State.delTeam_hot (s : State) (k : Nat) : (s.delTeam k).hot = s.hot := rfl
@[simp] theorem State.delTeam_powered (s : State) (k : Nat) : (s.delTeam k).powered = s.powered := rfl
@[simp] theorem State.delTeam_bringUp (s : State) (k : Nat) : (s.delTeam k).bringUp = s.bringUp := rfl
@[simp] theorem State.delTeam_devId (s : State) (k : Nat) : (s.delTeam k).devId = s.devId := rfl
@[simp] theorem State.delTeam_devIdNext (s : State) (k : Nat) : (s.delTeam k).devIdNext = s.devIdNext := rfl
@[simp] theorem State.delTeam_fjExp (s : State) (k : Nat) : (s.delTeam k).fjExp = s.fjExp := rfl
@[simp] theorem State.delTeam_ordMode (s : State) (k : Nat) : (s.delTeam k).ordMode = s.ordMode := rfl
@[simp] theorem State.delTeam_leaseMax (s : State) (k : Nat) : (s.delTeam k).leaseMax = s.leaseMax := rfl
@[simp] theorem State.delTeam_hostIow (s : State) (k : Nat) : (s.delTeam k).hostIow = s.hostIow := rfl
@[simp] theorem State.delTeam_ticket (s : State) (k : Nat) : (s.delTeam k).ticket = s.ticket := rfl
@[simp] theorem State.delTeam_mgmtSem (s : State) (k : Nat) : (s.delTeam k).mgmtSem = s.mgmtSem := rfl
@[simp] theorem State.delTeam_mgmtLast (s : State) (k : Nat) : (s.delTeam k).mgmtLast = s.mgmtLast := rfl
@[simp] theorem State.delTeam_mgmtOvf (s : State) (k : Nat) : (s.delTeam k).mgmtOvf = s.mgmtOvf := rfl
@[simp] theorem State.delTeam_errLog (s : State) (k : Nat) : (s.delTeam k).errLog = s.errLog := rfl
@[simp] theorem State.delTeam_replies (s : State) (k : Nat) : (s.delTeam k).replies = s.replies := rfl
@[simp] theorem State.delTeam_signals (s : State) (k : Nat) : (s.delTeam k).signals = s.signals := rfl
@[simp] theorem State.delTeam_spi (s : State) (k : Nat) : (s.delTeam k).spi = s.spi := rfl
@[simp] theorem State.delTeam_repairs (s : State) (k : Nat) : (s.delTeam k).repairs = s.repairs := rfl
@[simp] theorem State.delTeam_retired (s : State) (k : Nat) : (s.delTeam k).retired = s.retired := rfl
@[simp] theorem State.delTeam_burnt (s : State) (k : Nat) : (s.delTeam k).burnt = s.burnt := rfl
@[simp] theorem State.delTeam_rowErrs (s : State) (k : Nat) : (s.delTeam k).rowErrs = s.rowErrs := rfl
@[simp] theorem State.delTeam_ecs (s : State) (k : Nat) : (s.delTeam k).ecs = s.ecs := rfl
@[simp] theorem State.delTeam_postponed (s : State) (k : Nat) : (s.delTeam k).postponed = s.postponed := rfl
@[simp] theorem State.delTeam_mem (s : State) (k : Nat) : (s.delTeam k).mem = s.mem := rfl
@[simp] theorem State.delTeam_poison (s : State) (k : Nat) : (s.delTeam k).poison = s.poison := rfl
@[simp] theorem State.delTeam_hdm0 (s : State) (k : Nat) : (s.delTeam k).hdm0 = s.hdm0 := rfl
@[simp] theorem State.delTeam_hdm1 (s : State) (k : Nat) : (s.delTeam k).hdm1 = s.hdm1 := rfl
@[simp] theorem State.delTeam_ioPorts (s : State) (k : Nat) : (s.delTeam k).ioPorts = s.ioPorts := rfl
@[simp] theorem State.delTeam_hostHeld (s : State) (k : Nat) : (s.delTeam k).hostHeld = s.hostHeld := rfl
@[simp] theorem State.delTeam_own (s : State) (k : Nat) : (s.delTeam k).own = s.own := rfl
@[simp] theorem State.delTeam_far (s : State) (k : Nat) : (s.delTeam k).far = s.far := rfl
@[simp] theorem State.delTeam_peers (s : State) (k : Nat) : (s.delTeam k).peers = s.peers := rfl
@[simp] theorem State.delTeam_tlb (s : State) (k : Nat) : (s.delTeam k).tlb = s.tlb := rfl
@[simp] theorem State.delTeam_preqs (s : State) (k : Nat) : (s.delTeam k).preqs = s.preqs := rfl
@[simp] theorem State.delTeam_wchecks (s : State) (k : Nat) : (s.delTeam k).wchecks = s.wchecks := rfl
@[simp] theorem State.delTeam_wfaults (s : State) (k : Nat) : (s.delTeam k).wfaults = s.wfaults := rfl
@[simp] theorem State.delTeam_evPend (s : State) (k : Nat) : (s.delTeam k).evPend = s.evPend := rfl
@[simp] theorem State.delTeam_l1 (s : State) (k : Nat) : (s.delTeam k).l1 = s.l1 := rfl
@[simp] theorem State.delTeam_homes (s : State) (k : Nat) : (s.delTeam k).homes = s.homes := rfl
@[simp] theorem State.delTeam_fills (s : State) (k : Nat) : (s.delTeam k).fills = s.fills := rfl
@[simp] theorem State.delTeam_wq (s : State) (k : Nat) : (s.delTeam k).wq = s.wq := rfl
@[simp] theorem State.delTeam_spad (s : State) (k : Nat) : (s.delTeam k).spad = s.spad := rfl
@[simp] theorem State.delTeam_spadBase (s : State) (k : Nat) : (s.delTeam k).spadBase = s.spadBase := rfl
@[simp] theorem State.delTeam_spadLog (s : State) (k : Nat) : (s.delTeam k).spadLog = s.spadLog := rfl
@[simp] theorem State.delTeam_ctxs (s : State) (k : Nat) : (s.delTeam k).ctxs = s.ctxs := rfl
@[simp] theorem State.delTeam_cores (s : State) (k : Nat) : (s.delTeam k).cores = s.cores := rfl
@[simp] theorem State.delTeam_dieTab (s : State) (k : Nat) : (s.delTeam k).dieTab = s.dieTab := rfl
@[simp] theorem State.delTeam_launches (s : State) (k : Nat) : (s.delTeam k).launches = s.launches := rfl
@[simp] theorem State.delTeam_watches (s : State) (k : Nat) : (s.delTeam k).watches = s.watches := rfl
@[simp] theorem State.delTeam_pushes (s : State) (k : Nat) : (s.delTeam k).pushes = s.pushes := rfl
@[simp] theorem State.delTeam_spawned (s : State) (k : Nat) : (s.delTeam k).spawned = s.spawned := rfl
@[simp] theorem State.delTeam_ages (s : State) (k : Nat) : (s.delTeam k).ages = s.ages := rfl
@[simp] theorem State.delTeam_casts (s : State) (k : Nat) : (s.delTeam k).casts = s.casts := rfl
@[simp] theorem State.delTeam_spills (s : State) (k : Nat) : (s.delTeam k).spills = s.spills := rfl
@[simp] theorem State.delTeam_stalls (s : State) (k : Nat) : (s.delTeam k).stalls = s.stalls := rfl
@[simp] theorem State.delTeam_arrivals (s : State) (k : Nat) : (s.delTeam k).arrivals = s.arrivals := rfl
@[simp] theorem State.delTeam_mail (s : State) (k : Nat) : (s.delTeam k).mail = s.mail := rfl
@[simp] theorem State.delTeam_hub (s : State) (k : Nat) : (s.delTeam k).hub = s.hub := rfl
@[simp] theorem State.delTeam_windows (s : State) (k : Nat) : (s.delTeam k).windows = s.windows := rfl
@[simp] theorem State.delTeam_vents (s : State) (k : Nat) : (s.delTeam k).vents = s.vents := rfl
@[simp] theorem State.delTeam_ventPmc (s : State) (k : Nat) : (s.delTeam k).ventPmc = s.ventPmc := rfl
@[simp] theorem State.delTeam_regions (s : State) (k : Nat) : (s.delTeam k).regions = s.regions := rfl
@[simp] theorem State.delTeam_tracked (s : State) (k : Nat) : (s.delTeam k).tracked = s.tracked := rfl
@[simp] theorem State.delTeam_spec (s : State) (k : Nat) : (s.delTeam k).spec = s.spec := rfl
@[simp] theorem State.delTeam_ports (s : State) (k : Nat) : (s.delTeam k).ports = s.ports := rfl
@[simp] theorem State.delTeam_routes (s : State) (k : Nat) : (s.delTeam k).routes = s.routes := rfl
@[simp] theorem State.delTeam_unsent (s : State) (k : Nat) : (s.delTeam k).unsent = s.unsent := rfl
@[simp] theorem State.delTeam_committedAt (s : State) (k : Nat) : (s.delTeam k).committedAt = s.committedAt := rfl
@[simp] theorem State.delTeam_agenda (s : State) (k : Nat) : (s.delTeam k).agenda = s.agenda := rfl
@[simp] theorem State.delTeam_current (s : State) (k : Nat) : (s.delTeam k).current = s.current := rfl
@[simp] theorem State.delTeam_order (s : State) (k : Nat) : (s.delTeam k).order = s.order := rfl
@[simp] theorem State.delTeam_fresh (s : State) (k : Nat) : (s.delTeam k).fresh = s.fresh := rfl

/-! ## `setCore` -/

@[simp] theorem State.setCore_clock (s : State) (k : Nat) (x : Core) : (s.setCore k x).clock = s.clock := rfl
@[simp] theorem State.setCore_rt (s : State) (k : Nat) (x : Core) : (s.setCore k x).rt = s.rt := rfl
@[simp] theorem State.setCore_clkStep (s : State) (k : Nat) (x : Core) : (s.setCore k x).clkStep = s.clkStep := rfl
@[simp] theorem State.setCore_hot (s : State) (k : Nat) (x : Core) : (s.setCore k x).hot = s.hot := rfl
@[simp] theorem State.setCore_powered (s : State) (k : Nat) (x : Core) : (s.setCore k x).powered = s.powered := rfl
@[simp] theorem State.setCore_bringUp (s : State) (k : Nat) (x : Core) : (s.setCore k x).bringUp = s.bringUp := rfl
@[simp] theorem State.setCore_devId (s : State) (k : Nat) (x : Core) : (s.setCore k x).devId = s.devId := rfl
@[simp] theorem State.setCore_devIdNext (s : State) (k : Nat) (x : Core) : (s.setCore k x).devIdNext = s.devIdNext := rfl
@[simp] theorem State.setCore_fjExp (s : State) (k : Nat) (x : Core) : (s.setCore k x).fjExp = s.fjExp := rfl
@[simp] theorem State.setCore_ordMode (s : State) (k : Nat) (x : Core) : (s.setCore k x).ordMode = s.ordMode := rfl
@[simp] theorem State.setCore_leaseMax (s : State) (k : Nat) (x : Core) : (s.setCore k x).leaseMax = s.leaseMax := rfl
@[simp] theorem State.setCore_hostIow (s : State) (k : Nat) (x : Core) : (s.setCore k x).hostIow = s.hostIow := rfl
@[simp] theorem State.setCore_ticket (s : State) (k : Nat) (x : Core) : (s.setCore k x).ticket = s.ticket := rfl
@[simp] theorem State.setCore_mgmtSem (s : State) (k : Nat) (x : Core) : (s.setCore k x).mgmtSem = s.mgmtSem := rfl
@[simp] theorem State.setCore_mgmtLast (s : State) (k : Nat) (x : Core) : (s.setCore k x).mgmtLast = s.mgmtLast := rfl
@[simp] theorem State.setCore_mgmtOvf (s : State) (k : Nat) (x : Core) : (s.setCore k x).mgmtOvf = s.mgmtOvf := rfl
@[simp] theorem State.setCore_errLog (s : State) (k : Nat) (x : Core) : (s.setCore k x).errLog = s.errLog := rfl
@[simp] theorem State.setCore_replies (s : State) (k : Nat) (x : Core) : (s.setCore k x).replies = s.replies := rfl
@[simp] theorem State.setCore_signals (s : State) (k : Nat) (x : Core) : (s.setCore k x).signals = s.signals := rfl
@[simp] theorem State.setCore_spi (s : State) (k : Nat) (x : Core) : (s.setCore k x).spi = s.spi := rfl
@[simp] theorem State.setCore_repairs (s : State) (k : Nat) (x : Core) : (s.setCore k x).repairs = s.repairs := rfl
@[simp] theorem State.setCore_retired (s : State) (k : Nat) (x : Core) : (s.setCore k x).retired = s.retired := rfl
@[simp] theorem State.setCore_burnt (s : State) (k : Nat) (x : Core) : (s.setCore k x).burnt = s.burnt := rfl
@[simp] theorem State.setCore_rowErrs (s : State) (k : Nat) (x : Core) : (s.setCore k x).rowErrs = s.rowErrs := rfl
@[simp] theorem State.setCore_ecs (s : State) (k : Nat) (x : Core) : (s.setCore k x).ecs = s.ecs := rfl
@[simp] theorem State.setCore_postponed (s : State) (k : Nat) (x : Core) : (s.setCore k x).postponed = s.postponed := rfl
@[simp] theorem State.setCore_mem (s : State) (k : Nat) (x : Core) : (s.setCore k x).mem = s.mem := rfl
@[simp] theorem State.setCore_poison (s : State) (k : Nat) (x : Core) : (s.setCore k x).poison = s.poison := rfl
@[simp] theorem State.setCore_hdm0 (s : State) (k : Nat) (x : Core) : (s.setCore k x).hdm0 = s.hdm0 := rfl
@[simp] theorem State.setCore_hdm1 (s : State) (k : Nat) (x : Core) : (s.setCore k x).hdm1 = s.hdm1 := rfl
@[simp] theorem State.setCore_ioPorts (s : State) (k : Nat) (x : Core) : (s.setCore k x).ioPorts = s.ioPorts := rfl
@[simp] theorem State.setCore_hostHeld (s : State) (k : Nat) (x : Core) : (s.setCore k x).hostHeld = s.hostHeld := rfl
@[simp] theorem State.setCore_own (s : State) (k : Nat) (x : Core) : (s.setCore k x).own = s.own := rfl
@[simp] theorem State.setCore_far (s : State) (k : Nat) (x : Core) : (s.setCore k x).far = s.far := rfl
@[simp] theorem State.setCore_peers (s : State) (k : Nat) (x : Core) : (s.setCore k x).peers = s.peers := rfl
@[simp] theorem State.setCore_tlb (s : State) (k : Nat) (x : Core) : (s.setCore k x).tlb = s.tlb := rfl
@[simp] theorem State.setCore_preqs (s : State) (k : Nat) (x : Core) : (s.setCore k x).preqs = s.preqs := rfl
@[simp] theorem State.setCore_wchecks (s : State) (k : Nat) (x : Core) : (s.setCore k x).wchecks = s.wchecks := rfl
@[simp] theorem State.setCore_wfaults (s : State) (k : Nat) (x : Core) : (s.setCore k x).wfaults = s.wfaults := rfl
@[simp] theorem State.setCore_evPend (s : State) (k : Nat) (x : Core) : (s.setCore k x).evPend = s.evPend := rfl
@[simp] theorem State.setCore_l1 (s : State) (k : Nat) (x : Core) : (s.setCore k x).l1 = s.l1 := rfl
@[simp] theorem State.setCore_homes (s : State) (k : Nat) (x : Core) : (s.setCore k x).homes = s.homes := rfl
@[simp] theorem State.setCore_fills (s : State) (k : Nat) (x : Core) : (s.setCore k x).fills = s.fills := rfl
@[simp] theorem State.setCore_wq (s : State) (k : Nat) (x : Core) : (s.setCore k x).wq = s.wq := rfl
@[simp] theorem State.setCore_spad (s : State) (k : Nat) (x : Core) : (s.setCore k x).spad = s.spad := rfl
@[simp] theorem State.setCore_spadBase (s : State) (k : Nat) (x : Core) : (s.setCore k x).spadBase = s.spadBase := rfl
@[simp] theorem State.setCore_spadLog (s : State) (k : Nat) (x : Core) : (s.setCore k x).spadLog = s.spadLog := rfl
@[simp] theorem State.setCore_ctxs (s : State) (k : Nat) (x : Core) : (s.setCore k x).ctxs = s.ctxs := rfl
@[simp] theorem State.setCore_teams (s : State) (k : Nat) (x : Core) : (s.setCore k x).teams = s.teams := rfl
@[simp] theorem State.setCore_dieTab (s : State) (k : Nat) (x : Core) : (s.setCore k x).dieTab = s.dieTab := rfl
@[simp] theorem State.setCore_launches (s : State) (k : Nat) (x : Core) : (s.setCore k x).launches = s.launches := rfl
@[simp] theorem State.setCore_watches (s : State) (k : Nat) (x : Core) : (s.setCore k x).watches = s.watches := rfl
@[simp] theorem State.setCore_pushes (s : State) (k : Nat) (x : Core) : (s.setCore k x).pushes = s.pushes := rfl
@[simp] theorem State.setCore_spawned (s : State) (k : Nat) (x : Core) : (s.setCore k x).spawned = s.spawned := rfl
@[simp] theorem State.setCore_ages (s : State) (k : Nat) (x : Core) : (s.setCore k x).ages = s.ages := rfl
@[simp] theorem State.setCore_casts (s : State) (k : Nat) (x : Core) : (s.setCore k x).casts = s.casts := rfl
@[simp] theorem State.setCore_spills (s : State) (k : Nat) (x : Core) : (s.setCore k x).spills = s.spills := rfl
@[simp] theorem State.setCore_stalls (s : State) (k : Nat) (x : Core) : (s.setCore k x).stalls = s.stalls := rfl
@[simp] theorem State.setCore_arrivals (s : State) (k : Nat) (x : Core) : (s.setCore k x).arrivals = s.arrivals := rfl
@[simp] theorem State.setCore_mail (s : State) (k : Nat) (x : Core) : (s.setCore k x).mail = s.mail := rfl
@[simp] theorem State.setCore_hub (s : State) (k : Nat) (x : Core) : (s.setCore k x).hub = s.hub := rfl
@[simp] theorem State.setCore_windows (s : State) (k : Nat) (x : Core) : (s.setCore k x).windows = s.windows := rfl
@[simp] theorem State.setCore_vents (s : State) (k : Nat) (x : Core) : (s.setCore k x).vents = s.vents := rfl
@[simp] theorem State.setCore_ventPmc (s : State) (k : Nat) (x : Core) : (s.setCore k x).ventPmc = s.ventPmc := rfl
@[simp] theorem State.setCore_regions (s : State) (k : Nat) (x : Core) : (s.setCore k x).regions = s.regions := rfl
@[simp] theorem State.setCore_tracked (s : State) (k : Nat) (x : Core) : (s.setCore k x).tracked = s.tracked := rfl
@[simp] theorem State.setCore_spec (s : State) (k : Nat) (x : Core) : (s.setCore k x).spec = s.spec := rfl
@[simp] theorem State.setCore_ports (s : State) (k : Nat) (x : Core) : (s.setCore k x).ports = s.ports := rfl
@[simp] theorem State.setCore_routes (s : State) (k : Nat) (x : Core) : (s.setCore k x).routes = s.routes := rfl
@[simp] theorem State.setCore_unsent (s : State) (k : Nat) (x : Core) : (s.setCore k x).unsent = s.unsent := rfl
@[simp] theorem State.setCore_committedAt (s : State) (k : Nat) (x : Core) : (s.setCore k x).committedAt = s.committedAt := rfl
@[simp] theorem State.setCore_agenda (s : State) (k : Nat) (x : Core) : (s.setCore k x).agenda = s.agenda := rfl
@[simp] theorem State.setCore_current (s : State) (k : Nat) (x : Core) : (s.setCore k x).current = s.current := rfl
@[simp] theorem State.setCore_order (s : State) (k : Nat) (x : Core) : (s.setCore k x).order = s.order := rfl
@[simp] theorem State.setCore_fresh (s : State) (k : Nat) (x : Core) : (s.setCore k x).fresh = s.fresh := rfl

/-! ## `setDie` -/

@[simp] theorem State.setDie_clock (s : State) (k : Nat) (x : Die) : (s.setDie k x).clock = s.clock := rfl
@[simp] theorem State.setDie_rt (s : State) (k : Nat) (x : Die) : (s.setDie k x).rt = s.rt := rfl
@[simp] theorem State.setDie_clkStep (s : State) (k : Nat) (x : Die) : (s.setDie k x).clkStep = s.clkStep := rfl
@[simp] theorem State.setDie_hot (s : State) (k : Nat) (x : Die) : (s.setDie k x).hot = s.hot := rfl
@[simp] theorem State.setDie_powered (s : State) (k : Nat) (x : Die) : (s.setDie k x).powered = s.powered := rfl
@[simp] theorem State.setDie_bringUp (s : State) (k : Nat) (x : Die) : (s.setDie k x).bringUp = s.bringUp := rfl
@[simp] theorem State.setDie_devId (s : State) (k : Nat) (x : Die) : (s.setDie k x).devId = s.devId := rfl
@[simp] theorem State.setDie_devIdNext (s : State) (k : Nat) (x : Die) : (s.setDie k x).devIdNext = s.devIdNext := rfl
@[simp] theorem State.setDie_fjExp (s : State) (k : Nat) (x : Die) : (s.setDie k x).fjExp = s.fjExp := rfl
@[simp] theorem State.setDie_ordMode (s : State) (k : Nat) (x : Die) : (s.setDie k x).ordMode = s.ordMode := rfl
@[simp] theorem State.setDie_leaseMax (s : State) (k : Nat) (x : Die) : (s.setDie k x).leaseMax = s.leaseMax := rfl
@[simp] theorem State.setDie_hostIow (s : State) (k : Nat) (x : Die) : (s.setDie k x).hostIow = s.hostIow := rfl
@[simp] theorem State.setDie_ticket (s : State) (k : Nat) (x : Die) : (s.setDie k x).ticket = s.ticket := rfl
@[simp] theorem State.setDie_mgmtSem (s : State) (k : Nat) (x : Die) : (s.setDie k x).mgmtSem = s.mgmtSem := rfl
@[simp] theorem State.setDie_mgmtLast (s : State) (k : Nat) (x : Die) : (s.setDie k x).mgmtLast = s.mgmtLast := rfl
@[simp] theorem State.setDie_mgmtOvf (s : State) (k : Nat) (x : Die) : (s.setDie k x).mgmtOvf = s.mgmtOvf := rfl
@[simp] theorem State.setDie_errLog (s : State) (k : Nat) (x : Die) : (s.setDie k x).errLog = s.errLog := rfl
@[simp] theorem State.setDie_replies (s : State) (k : Nat) (x : Die) : (s.setDie k x).replies = s.replies := rfl
@[simp] theorem State.setDie_signals (s : State) (k : Nat) (x : Die) : (s.setDie k x).signals = s.signals := rfl
@[simp] theorem State.setDie_spi (s : State) (k : Nat) (x : Die) : (s.setDie k x).spi = s.spi := rfl
@[simp] theorem State.setDie_repairs (s : State) (k : Nat) (x : Die) : (s.setDie k x).repairs = s.repairs := rfl
@[simp] theorem State.setDie_retired (s : State) (k : Nat) (x : Die) : (s.setDie k x).retired = s.retired := rfl
@[simp] theorem State.setDie_burnt (s : State) (k : Nat) (x : Die) : (s.setDie k x).burnt = s.burnt := rfl
@[simp] theorem State.setDie_rowErrs (s : State) (k : Nat) (x : Die) : (s.setDie k x).rowErrs = s.rowErrs := rfl
@[simp] theorem State.setDie_ecs (s : State) (k : Nat) (x : Die) : (s.setDie k x).ecs = s.ecs := rfl
@[simp] theorem State.setDie_postponed (s : State) (k : Nat) (x : Die) : (s.setDie k x).postponed = s.postponed := rfl
@[simp] theorem State.setDie_mem (s : State) (k : Nat) (x : Die) : (s.setDie k x).mem = s.mem := rfl
@[simp] theorem State.setDie_poison (s : State) (k : Nat) (x : Die) : (s.setDie k x).poison = s.poison := rfl
@[simp] theorem State.setDie_hdm0 (s : State) (k : Nat) (x : Die) : (s.setDie k x).hdm0 = s.hdm0 := rfl
@[simp] theorem State.setDie_hdm1 (s : State) (k : Nat) (x : Die) : (s.setDie k x).hdm1 = s.hdm1 := rfl
@[simp] theorem State.setDie_ioPorts (s : State) (k : Nat) (x : Die) : (s.setDie k x).ioPorts = s.ioPorts := rfl
@[simp] theorem State.setDie_hostHeld (s : State) (k : Nat) (x : Die) : (s.setDie k x).hostHeld = s.hostHeld := rfl
@[simp] theorem State.setDie_own (s : State) (k : Nat) (x : Die) : (s.setDie k x).own = s.own := rfl
@[simp] theorem State.setDie_far (s : State) (k : Nat) (x : Die) : (s.setDie k x).far = s.far := rfl
@[simp] theorem State.setDie_peers (s : State) (k : Nat) (x : Die) : (s.setDie k x).peers = s.peers := rfl
@[simp] theorem State.setDie_tlb (s : State) (k : Nat) (x : Die) : (s.setDie k x).tlb = s.tlb := rfl
@[simp] theorem State.setDie_preqs (s : State) (k : Nat) (x : Die) : (s.setDie k x).preqs = s.preqs := rfl
@[simp] theorem State.setDie_wchecks (s : State) (k : Nat) (x : Die) : (s.setDie k x).wchecks = s.wchecks := rfl
@[simp] theorem State.setDie_wfaults (s : State) (k : Nat) (x : Die) : (s.setDie k x).wfaults = s.wfaults := rfl
@[simp] theorem State.setDie_evPend (s : State) (k : Nat) (x : Die) : (s.setDie k x).evPend = s.evPend := rfl
@[simp] theorem State.setDie_l1 (s : State) (k : Nat) (x : Die) : (s.setDie k x).l1 = s.l1 := rfl
@[simp] theorem State.setDie_homes (s : State) (k : Nat) (x : Die) : (s.setDie k x).homes = s.homes := rfl
@[simp] theorem State.setDie_fills (s : State) (k : Nat) (x : Die) : (s.setDie k x).fills = s.fills := rfl
@[simp] theorem State.setDie_wq (s : State) (k : Nat) (x : Die) : (s.setDie k x).wq = s.wq := rfl
@[simp] theorem State.setDie_spad (s : State) (k : Nat) (x : Die) : (s.setDie k x).spad = s.spad := rfl
@[simp] theorem State.setDie_spadBase (s : State) (k : Nat) (x : Die) : (s.setDie k x).spadBase = s.spadBase := rfl
@[simp] theorem State.setDie_spadLog (s : State) (k : Nat) (x : Die) : (s.setDie k x).spadLog = s.spadLog := rfl
@[simp] theorem State.setDie_ctxs (s : State) (k : Nat) (x : Die) : (s.setDie k x).ctxs = s.ctxs := rfl
@[simp] theorem State.setDie_teams (s : State) (k : Nat) (x : Die) : (s.setDie k x).teams = s.teams := rfl
@[simp] theorem State.setDie_cores (s : State) (k : Nat) (x : Die) : (s.setDie k x).cores = s.cores := rfl
@[simp] theorem State.setDie_launches (s : State) (k : Nat) (x : Die) : (s.setDie k x).launches = s.launches := rfl
@[simp] theorem State.setDie_watches (s : State) (k : Nat) (x : Die) : (s.setDie k x).watches = s.watches := rfl
@[simp] theorem State.setDie_pushes (s : State) (k : Nat) (x : Die) : (s.setDie k x).pushes = s.pushes := rfl
@[simp] theorem State.setDie_spawned (s : State) (k : Nat) (x : Die) : (s.setDie k x).spawned = s.spawned := rfl
@[simp] theorem State.setDie_ages (s : State) (k : Nat) (x : Die) : (s.setDie k x).ages = s.ages := rfl
@[simp] theorem State.setDie_casts (s : State) (k : Nat) (x : Die) : (s.setDie k x).casts = s.casts := rfl
@[simp] theorem State.setDie_spills (s : State) (k : Nat) (x : Die) : (s.setDie k x).spills = s.spills := rfl
@[simp] theorem State.setDie_stalls (s : State) (k : Nat) (x : Die) : (s.setDie k x).stalls = s.stalls := rfl
@[simp] theorem State.setDie_arrivals (s : State) (k : Nat) (x : Die) : (s.setDie k x).arrivals = s.arrivals := rfl
@[simp] theorem State.setDie_mail (s : State) (k : Nat) (x : Die) : (s.setDie k x).mail = s.mail := rfl
@[simp] theorem State.setDie_hub (s : State) (k : Nat) (x : Die) : (s.setDie k x).hub = s.hub := rfl
@[simp] theorem State.setDie_windows (s : State) (k : Nat) (x : Die) : (s.setDie k x).windows = s.windows := rfl
@[simp] theorem State.setDie_vents (s : State) (k : Nat) (x : Die) : (s.setDie k x).vents = s.vents := rfl
@[simp] theorem State.setDie_ventPmc (s : State) (k : Nat) (x : Die) : (s.setDie k x).ventPmc = s.ventPmc := rfl
@[simp] theorem State.setDie_regions (s : State) (k : Nat) (x : Die) : (s.setDie k x).regions = s.regions := rfl
@[simp] theorem State.setDie_tracked (s : State) (k : Nat) (x : Die) : (s.setDie k x).tracked = s.tracked := rfl
@[simp] theorem State.setDie_spec (s : State) (k : Nat) (x : Die) : (s.setDie k x).spec = s.spec := rfl
@[simp] theorem State.setDie_ports (s : State) (k : Nat) (x : Die) : (s.setDie k x).ports = s.ports := rfl
@[simp] theorem State.setDie_routes (s : State) (k : Nat) (x : Die) : (s.setDie k x).routes = s.routes := rfl
@[simp] theorem State.setDie_unsent (s : State) (k : Nat) (x : Die) : (s.setDie k x).unsent = s.unsent := rfl
@[simp] theorem State.setDie_committedAt (s : State) (k : Nat) (x : Die) : (s.setDie k x).committedAt = s.committedAt := rfl
@[simp] theorem State.setDie_agenda (s : State) (k : Nat) (x : Die) : (s.setDie k x).agenda = s.agenda := rfl
@[simp] theorem State.setDie_current (s : State) (k : Nat) (x : Die) : (s.setDie k x).current = s.current := rfl
@[simp] theorem State.setDie_order (s : State) (k : Nat) (x : Die) : (s.setDie k x).order = s.order := rfl
@[simp] theorem State.setDie_fresh (s : State) (k : Nat) (x : Die) : (s.setDie k x).fresh = s.fresh := rfl

/-! ## `setCtx` -/

@[simp] theorem State.setCtx_clock (s : State) (k : Nat) (x : Ctx) : (s.setCtx k x).clock = s.clock := rfl
@[simp] theorem State.setCtx_rt (s : State) (k : Nat) (x : Ctx) : (s.setCtx k x).rt = s.rt := rfl
@[simp] theorem State.setCtx_clkStep (s : State) (k : Nat) (x : Ctx) : (s.setCtx k x).clkStep = s.clkStep := rfl
@[simp] theorem State.setCtx_hot (s : State) (k : Nat) (x : Ctx) : (s.setCtx k x).hot = s.hot := rfl
@[simp] theorem State.setCtx_powered (s : State) (k : Nat) (x : Ctx) : (s.setCtx k x).powered = s.powered := rfl
@[simp] theorem State.setCtx_bringUp (s : State) (k : Nat) (x : Ctx) : (s.setCtx k x).bringUp = s.bringUp := rfl
@[simp] theorem State.setCtx_devId (s : State) (k : Nat) (x : Ctx) : (s.setCtx k x).devId = s.devId := rfl
@[simp] theorem State.setCtx_devIdNext (s : State) (k : Nat) (x : Ctx) : (s.setCtx k x).devIdNext = s.devIdNext := rfl
@[simp] theorem State.setCtx_fjExp (s : State) (k : Nat) (x : Ctx) : (s.setCtx k x).fjExp = s.fjExp := rfl
@[simp] theorem State.setCtx_ordMode (s : State) (k : Nat) (x : Ctx) : (s.setCtx k x).ordMode = s.ordMode := rfl
@[simp] theorem State.setCtx_leaseMax (s : State) (k : Nat) (x : Ctx) : (s.setCtx k x).leaseMax = s.leaseMax := rfl
@[simp] theorem State.setCtx_hostIow (s : State) (k : Nat) (x : Ctx) : (s.setCtx k x).hostIow = s.hostIow := rfl
@[simp] theorem State.setCtx_ticket (s : State) (k : Nat) (x : Ctx) : (s.setCtx k x).ticket = s.ticket := rfl
@[simp] theorem State.setCtx_mgmtSem (s : State) (k : Nat) (x : Ctx) : (s.setCtx k x).mgmtSem = s.mgmtSem := rfl
@[simp] theorem State.setCtx_mgmtLast (s : State) (k : Nat) (x : Ctx) : (s.setCtx k x).mgmtLast = s.mgmtLast := rfl
@[simp] theorem State.setCtx_mgmtOvf (s : State) (k : Nat) (x : Ctx) : (s.setCtx k x).mgmtOvf = s.mgmtOvf := rfl
@[simp] theorem State.setCtx_errLog (s : State) (k : Nat) (x : Ctx) : (s.setCtx k x).errLog = s.errLog := rfl
@[simp] theorem State.setCtx_replies (s : State) (k : Nat) (x : Ctx) : (s.setCtx k x).replies = s.replies := rfl
@[simp] theorem State.setCtx_signals (s : State) (k : Nat) (x : Ctx) : (s.setCtx k x).signals = s.signals := rfl
@[simp] theorem State.setCtx_spi (s : State) (k : Nat) (x : Ctx) : (s.setCtx k x).spi = s.spi := rfl
@[simp] theorem State.setCtx_repairs (s : State) (k : Nat) (x : Ctx) : (s.setCtx k x).repairs = s.repairs := rfl
@[simp] theorem State.setCtx_retired (s : State) (k : Nat) (x : Ctx) : (s.setCtx k x).retired = s.retired := rfl
@[simp] theorem State.setCtx_burnt (s : State) (k : Nat) (x : Ctx) : (s.setCtx k x).burnt = s.burnt := rfl
@[simp] theorem State.setCtx_rowErrs (s : State) (k : Nat) (x : Ctx) : (s.setCtx k x).rowErrs = s.rowErrs := rfl
@[simp] theorem State.setCtx_ecs (s : State) (k : Nat) (x : Ctx) : (s.setCtx k x).ecs = s.ecs := rfl
@[simp] theorem State.setCtx_postponed (s : State) (k : Nat) (x : Ctx) : (s.setCtx k x).postponed = s.postponed := rfl
@[simp] theorem State.setCtx_mem (s : State) (k : Nat) (x : Ctx) : (s.setCtx k x).mem = s.mem := rfl
@[simp] theorem State.setCtx_poison (s : State) (k : Nat) (x : Ctx) : (s.setCtx k x).poison = s.poison := rfl
@[simp] theorem State.setCtx_hdm0 (s : State) (k : Nat) (x : Ctx) : (s.setCtx k x).hdm0 = s.hdm0 := rfl
@[simp] theorem State.setCtx_hdm1 (s : State) (k : Nat) (x : Ctx) : (s.setCtx k x).hdm1 = s.hdm1 := rfl
@[simp] theorem State.setCtx_ioPorts (s : State) (k : Nat) (x : Ctx) : (s.setCtx k x).ioPorts = s.ioPorts := rfl
@[simp] theorem State.setCtx_hostHeld (s : State) (k : Nat) (x : Ctx) : (s.setCtx k x).hostHeld = s.hostHeld := rfl
@[simp] theorem State.setCtx_own (s : State) (k : Nat) (x : Ctx) : (s.setCtx k x).own = s.own := rfl
@[simp] theorem State.setCtx_far (s : State) (k : Nat) (x : Ctx) : (s.setCtx k x).far = s.far := rfl
@[simp] theorem State.setCtx_peers (s : State) (k : Nat) (x : Ctx) : (s.setCtx k x).peers = s.peers := rfl
@[simp] theorem State.setCtx_tlb (s : State) (k : Nat) (x : Ctx) : (s.setCtx k x).tlb = s.tlb := rfl
@[simp] theorem State.setCtx_preqs (s : State) (k : Nat) (x : Ctx) : (s.setCtx k x).preqs = s.preqs := rfl
@[simp] theorem State.setCtx_wchecks (s : State) (k : Nat) (x : Ctx) : (s.setCtx k x).wchecks = s.wchecks := rfl
@[simp] theorem State.setCtx_wfaults (s : State) (k : Nat) (x : Ctx) : (s.setCtx k x).wfaults = s.wfaults := rfl
@[simp] theorem State.setCtx_evPend (s : State) (k : Nat) (x : Ctx) : (s.setCtx k x).evPend = s.evPend := rfl
@[simp] theorem State.setCtx_l1 (s : State) (k : Nat) (x : Ctx) : (s.setCtx k x).l1 = s.l1 := rfl
@[simp] theorem State.setCtx_homes (s : State) (k : Nat) (x : Ctx) : (s.setCtx k x).homes = s.homes := rfl
@[simp] theorem State.setCtx_fills (s : State) (k : Nat) (x : Ctx) : (s.setCtx k x).fills = s.fills := rfl
@[simp] theorem State.setCtx_wq (s : State) (k : Nat) (x : Ctx) : (s.setCtx k x).wq = s.wq := rfl
@[simp] theorem State.setCtx_spad (s : State) (k : Nat) (x : Ctx) : (s.setCtx k x).spad = s.spad := rfl
@[simp] theorem State.setCtx_spadBase (s : State) (k : Nat) (x : Ctx) : (s.setCtx k x).spadBase = s.spadBase := rfl
@[simp] theorem State.setCtx_spadLog (s : State) (k : Nat) (x : Ctx) : (s.setCtx k x).spadLog = s.spadLog := rfl
@[simp] theorem State.setCtx_teams (s : State) (k : Nat) (x : Ctx) : (s.setCtx k x).teams = s.teams := rfl
@[simp] theorem State.setCtx_cores (s : State) (k : Nat) (x : Ctx) : (s.setCtx k x).cores = s.cores := rfl
@[simp] theorem State.setCtx_dieTab (s : State) (k : Nat) (x : Ctx) : (s.setCtx k x).dieTab = s.dieTab := rfl
@[simp] theorem State.setCtx_launches (s : State) (k : Nat) (x : Ctx) : (s.setCtx k x).launches = s.launches := rfl
@[simp] theorem State.setCtx_watches (s : State) (k : Nat) (x : Ctx) : (s.setCtx k x).watches = s.watches := rfl
@[simp] theorem State.setCtx_pushes (s : State) (k : Nat) (x : Ctx) : (s.setCtx k x).pushes = s.pushes := rfl
@[simp] theorem State.setCtx_spawned (s : State) (k : Nat) (x : Ctx) : (s.setCtx k x).spawned = s.spawned := rfl
@[simp] theorem State.setCtx_ages (s : State) (k : Nat) (x : Ctx) : (s.setCtx k x).ages = s.ages := rfl
@[simp] theorem State.setCtx_casts (s : State) (k : Nat) (x : Ctx) : (s.setCtx k x).casts = s.casts := rfl
@[simp] theorem State.setCtx_spills (s : State) (k : Nat) (x : Ctx) : (s.setCtx k x).spills = s.spills := rfl
@[simp] theorem State.setCtx_stalls (s : State) (k : Nat) (x : Ctx) : (s.setCtx k x).stalls = s.stalls := rfl
@[simp] theorem State.setCtx_arrivals (s : State) (k : Nat) (x : Ctx) : (s.setCtx k x).arrivals = s.arrivals := rfl
@[simp] theorem State.setCtx_mail (s : State) (k : Nat) (x : Ctx) : (s.setCtx k x).mail = s.mail := rfl
@[simp] theorem State.setCtx_hub (s : State) (k : Nat) (x : Ctx) : (s.setCtx k x).hub = s.hub := rfl
@[simp] theorem State.setCtx_windows (s : State) (k : Nat) (x : Ctx) : (s.setCtx k x).windows = s.windows := rfl
@[simp] theorem State.setCtx_vents (s : State) (k : Nat) (x : Ctx) : (s.setCtx k x).vents = s.vents := rfl
@[simp] theorem State.setCtx_ventPmc (s : State) (k : Nat) (x : Ctx) : (s.setCtx k x).ventPmc = s.ventPmc := rfl
@[simp] theorem State.setCtx_regions (s : State) (k : Nat) (x : Ctx) : (s.setCtx k x).regions = s.regions := rfl
@[simp] theorem State.setCtx_tracked (s : State) (k : Nat) (x : Ctx) : (s.setCtx k x).tracked = s.tracked := rfl
@[simp] theorem State.setCtx_spec (s : State) (k : Nat) (x : Ctx) : (s.setCtx k x).spec = s.spec := rfl
@[simp] theorem State.setCtx_ports (s : State) (k : Nat) (x : Ctx) : (s.setCtx k x).ports = s.ports := rfl
@[simp] theorem State.setCtx_routes (s : State) (k : Nat) (x : Ctx) : (s.setCtx k x).routes = s.routes := rfl
@[simp] theorem State.setCtx_unsent (s : State) (k : Nat) (x : Ctx) : (s.setCtx k x).unsent = s.unsent := rfl
@[simp] theorem State.setCtx_committedAt (s : State) (k : Nat) (x : Ctx) : (s.setCtx k x).committedAt = s.committedAt := rfl
@[simp] theorem State.setCtx_agenda (s : State) (k : Nat) (x : Ctx) : (s.setCtx k x).agenda = s.agenda := rfl
@[simp] theorem State.setCtx_current (s : State) (k : Nat) (x : Ctx) : (s.setCtx k x).current = s.current := rfl
@[simp] theorem State.setCtx_order (s : State) (k : Nat) (x : Ctx) : (s.setCtx k x).order = s.order := rfl
@[simp] theorem State.setCtx_fresh (s : State) (k : Nat) (x : Ctx) : (s.setCtx k x).fresh = s.fresh := rfl

/-! ## `setVent` -/

@[simp] theorem State.setVent_clock (s : State) (k : Nat) (x : Vent) : (s.setVent k x).clock = s.clock := rfl
@[simp] theorem State.setVent_rt (s : State) (k : Nat) (x : Vent) : (s.setVent k x).rt = s.rt := rfl
@[simp] theorem State.setVent_clkStep (s : State) (k : Nat) (x : Vent) : (s.setVent k x).clkStep = s.clkStep := rfl
@[simp] theorem State.setVent_hot (s : State) (k : Nat) (x : Vent) : (s.setVent k x).hot = s.hot := rfl
@[simp] theorem State.setVent_powered (s : State) (k : Nat) (x : Vent) : (s.setVent k x).powered = s.powered := rfl
@[simp] theorem State.setVent_bringUp (s : State) (k : Nat) (x : Vent) : (s.setVent k x).bringUp = s.bringUp := rfl
@[simp] theorem State.setVent_devId (s : State) (k : Nat) (x : Vent) : (s.setVent k x).devId = s.devId := rfl
@[simp] theorem State.setVent_devIdNext (s : State) (k : Nat) (x : Vent) : (s.setVent k x).devIdNext = s.devIdNext := rfl
@[simp] theorem State.setVent_fjExp (s : State) (k : Nat) (x : Vent) : (s.setVent k x).fjExp = s.fjExp := rfl
@[simp] theorem State.setVent_ordMode (s : State) (k : Nat) (x : Vent) : (s.setVent k x).ordMode = s.ordMode := rfl
@[simp] theorem State.setVent_leaseMax (s : State) (k : Nat) (x : Vent) : (s.setVent k x).leaseMax = s.leaseMax := rfl
@[simp] theorem State.setVent_hostIow (s : State) (k : Nat) (x : Vent) : (s.setVent k x).hostIow = s.hostIow := rfl
@[simp] theorem State.setVent_ticket (s : State) (k : Nat) (x : Vent) : (s.setVent k x).ticket = s.ticket := rfl
@[simp] theorem State.setVent_mgmtSem (s : State) (k : Nat) (x : Vent) : (s.setVent k x).mgmtSem = s.mgmtSem := rfl
@[simp] theorem State.setVent_mgmtLast (s : State) (k : Nat) (x : Vent) : (s.setVent k x).mgmtLast = s.mgmtLast := rfl
@[simp] theorem State.setVent_mgmtOvf (s : State) (k : Nat) (x : Vent) : (s.setVent k x).mgmtOvf = s.mgmtOvf := rfl
@[simp] theorem State.setVent_errLog (s : State) (k : Nat) (x : Vent) : (s.setVent k x).errLog = s.errLog := rfl
@[simp] theorem State.setVent_replies (s : State) (k : Nat) (x : Vent) : (s.setVent k x).replies = s.replies := rfl
@[simp] theorem State.setVent_signals (s : State) (k : Nat) (x : Vent) : (s.setVent k x).signals = s.signals := rfl
@[simp] theorem State.setVent_spi (s : State) (k : Nat) (x : Vent) : (s.setVent k x).spi = s.spi := rfl
@[simp] theorem State.setVent_repairs (s : State) (k : Nat) (x : Vent) : (s.setVent k x).repairs = s.repairs := rfl
@[simp] theorem State.setVent_retired (s : State) (k : Nat) (x : Vent) : (s.setVent k x).retired = s.retired := rfl
@[simp] theorem State.setVent_burnt (s : State) (k : Nat) (x : Vent) : (s.setVent k x).burnt = s.burnt := rfl
@[simp] theorem State.setVent_rowErrs (s : State) (k : Nat) (x : Vent) : (s.setVent k x).rowErrs = s.rowErrs := rfl
@[simp] theorem State.setVent_ecs (s : State) (k : Nat) (x : Vent) : (s.setVent k x).ecs = s.ecs := rfl
@[simp] theorem State.setVent_postponed (s : State) (k : Nat) (x : Vent) : (s.setVent k x).postponed = s.postponed := rfl
@[simp] theorem State.setVent_mem (s : State) (k : Nat) (x : Vent) : (s.setVent k x).mem = s.mem := rfl
@[simp] theorem State.setVent_poison (s : State) (k : Nat) (x : Vent) : (s.setVent k x).poison = s.poison := rfl
@[simp] theorem State.setVent_hdm0 (s : State) (k : Nat) (x : Vent) : (s.setVent k x).hdm0 = s.hdm0 := rfl
@[simp] theorem State.setVent_hdm1 (s : State) (k : Nat) (x : Vent) : (s.setVent k x).hdm1 = s.hdm1 := rfl
@[simp] theorem State.setVent_ioPorts (s : State) (k : Nat) (x : Vent) : (s.setVent k x).ioPorts = s.ioPorts := rfl
@[simp] theorem State.setVent_hostHeld (s : State) (k : Nat) (x : Vent) : (s.setVent k x).hostHeld = s.hostHeld := rfl
@[simp] theorem State.setVent_own (s : State) (k : Nat) (x : Vent) : (s.setVent k x).own = s.own := rfl
@[simp] theorem State.setVent_far (s : State) (k : Nat) (x : Vent) : (s.setVent k x).far = s.far := rfl
@[simp] theorem State.setVent_peers (s : State) (k : Nat) (x : Vent) : (s.setVent k x).peers = s.peers := rfl
@[simp] theorem State.setVent_tlb (s : State) (k : Nat) (x : Vent) : (s.setVent k x).tlb = s.tlb := rfl
@[simp] theorem State.setVent_preqs (s : State) (k : Nat) (x : Vent) : (s.setVent k x).preqs = s.preqs := rfl
@[simp] theorem State.setVent_wchecks (s : State) (k : Nat) (x : Vent) : (s.setVent k x).wchecks = s.wchecks := rfl
@[simp] theorem State.setVent_wfaults (s : State) (k : Nat) (x : Vent) : (s.setVent k x).wfaults = s.wfaults := rfl
@[simp] theorem State.setVent_evPend (s : State) (k : Nat) (x : Vent) : (s.setVent k x).evPend = s.evPend := rfl
@[simp] theorem State.setVent_l1 (s : State) (k : Nat) (x : Vent) : (s.setVent k x).l1 = s.l1 := rfl
@[simp] theorem State.setVent_homes (s : State) (k : Nat) (x : Vent) : (s.setVent k x).homes = s.homes := rfl
@[simp] theorem State.setVent_fills (s : State) (k : Nat) (x : Vent) : (s.setVent k x).fills = s.fills := rfl
@[simp] theorem State.setVent_wq (s : State) (k : Nat) (x : Vent) : (s.setVent k x).wq = s.wq := rfl
@[simp] theorem State.setVent_spad (s : State) (k : Nat) (x : Vent) : (s.setVent k x).spad = s.spad := rfl
@[simp] theorem State.setVent_spadBase (s : State) (k : Nat) (x : Vent) : (s.setVent k x).spadBase = s.spadBase := rfl
@[simp] theorem State.setVent_spadLog (s : State) (k : Nat) (x : Vent) : (s.setVent k x).spadLog = s.spadLog := rfl
@[simp] theorem State.setVent_ctxs (s : State) (k : Nat) (x : Vent) : (s.setVent k x).ctxs = s.ctxs := rfl
@[simp] theorem State.setVent_teams (s : State) (k : Nat) (x : Vent) : (s.setVent k x).teams = s.teams := rfl
@[simp] theorem State.setVent_cores (s : State) (k : Nat) (x : Vent) : (s.setVent k x).cores = s.cores := rfl
@[simp] theorem State.setVent_dieTab (s : State) (k : Nat) (x : Vent) : (s.setVent k x).dieTab = s.dieTab := rfl
@[simp] theorem State.setVent_launches (s : State) (k : Nat) (x : Vent) : (s.setVent k x).launches = s.launches := rfl
@[simp] theorem State.setVent_watches (s : State) (k : Nat) (x : Vent) : (s.setVent k x).watches = s.watches := rfl
@[simp] theorem State.setVent_pushes (s : State) (k : Nat) (x : Vent) : (s.setVent k x).pushes = s.pushes := rfl
@[simp] theorem State.setVent_spawned (s : State) (k : Nat) (x : Vent) : (s.setVent k x).spawned = s.spawned := rfl
@[simp] theorem State.setVent_ages (s : State) (k : Nat) (x : Vent) : (s.setVent k x).ages = s.ages := rfl
@[simp] theorem State.setVent_casts (s : State) (k : Nat) (x : Vent) : (s.setVent k x).casts = s.casts := rfl
@[simp] theorem State.setVent_spills (s : State) (k : Nat) (x : Vent) : (s.setVent k x).spills = s.spills := rfl
@[simp] theorem State.setVent_stalls (s : State) (k : Nat) (x : Vent) : (s.setVent k x).stalls = s.stalls := rfl
@[simp] theorem State.setVent_arrivals (s : State) (k : Nat) (x : Vent) : (s.setVent k x).arrivals = s.arrivals := rfl
@[simp] theorem State.setVent_mail (s : State) (k : Nat) (x : Vent) : (s.setVent k x).mail = s.mail := rfl
@[simp] theorem State.setVent_hub (s : State) (k : Nat) (x : Vent) : (s.setVent k x).hub = s.hub := rfl
@[simp] theorem State.setVent_windows (s : State) (k : Nat) (x : Vent) : (s.setVent k x).windows = s.windows := rfl
@[simp] theorem State.setVent_ventPmc (s : State) (k : Nat) (x : Vent) : (s.setVent k x).ventPmc = s.ventPmc := rfl
@[simp] theorem State.setVent_regions (s : State) (k : Nat) (x : Vent) : (s.setVent k x).regions = s.regions := rfl
@[simp] theorem State.setVent_tracked (s : State) (k : Nat) (x : Vent) : (s.setVent k x).tracked = s.tracked := rfl
@[simp] theorem State.setVent_spec (s : State) (k : Nat) (x : Vent) : (s.setVent k x).spec = s.spec := rfl
@[simp] theorem State.setVent_ports (s : State) (k : Nat) (x : Vent) : (s.setVent k x).ports = s.ports := rfl
@[simp] theorem State.setVent_routes (s : State) (k : Nat) (x : Vent) : (s.setVent k x).routes = s.routes := rfl
@[simp] theorem State.setVent_unsent (s : State) (k : Nat) (x : Vent) : (s.setVent k x).unsent = s.unsent := rfl
@[simp] theorem State.setVent_committedAt (s : State) (k : Nat) (x : Vent) : (s.setVent k x).committedAt = s.committedAt := rfl
@[simp] theorem State.setVent_agenda (s : State) (k : Nat) (x : Vent) : (s.setVent k x).agenda = s.agenda := rfl
@[simp] theorem State.setVent_current (s : State) (k : Nat) (x : Vent) : (s.setVent k x).current = s.current := rfl
@[simp] theorem State.setVent_order (s : State) (k : Nat) (x : Vent) : (s.setVent k x).order = s.order := rfl
@[simp] theorem State.setVent_fresh (s : State) (k : Nat) (x : Vent) : (s.setVent k x).fresh = s.fresh := rfl

/-! ## `setPort` -/

@[simp] theorem State.setPort_clock (s : State) (k : Nat) (x : Port) : (s.setPort k x).clock = s.clock := rfl
@[simp] theorem State.setPort_rt (s : State) (k : Nat) (x : Port) : (s.setPort k x).rt = s.rt := rfl
@[simp] theorem State.setPort_clkStep (s : State) (k : Nat) (x : Port) : (s.setPort k x).clkStep = s.clkStep := rfl
@[simp] theorem State.setPort_hot (s : State) (k : Nat) (x : Port) : (s.setPort k x).hot = s.hot := rfl
@[simp] theorem State.setPort_powered (s : State) (k : Nat) (x : Port) : (s.setPort k x).powered = s.powered := rfl
@[simp] theorem State.setPort_bringUp (s : State) (k : Nat) (x : Port) : (s.setPort k x).bringUp = s.bringUp := rfl
@[simp] theorem State.setPort_devId (s : State) (k : Nat) (x : Port) : (s.setPort k x).devId = s.devId := rfl
@[simp] theorem State.setPort_devIdNext (s : State) (k : Nat) (x : Port) : (s.setPort k x).devIdNext = s.devIdNext := rfl
@[simp] theorem State.setPort_fjExp (s : State) (k : Nat) (x : Port) : (s.setPort k x).fjExp = s.fjExp := rfl
@[simp] theorem State.setPort_ordMode (s : State) (k : Nat) (x : Port) : (s.setPort k x).ordMode = s.ordMode := rfl
@[simp] theorem State.setPort_leaseMax (s : State) (k : Nat) (x : Port) : (s.setPort k x).leaseMax = s.leaseMax := rfl
@[simp] theorem State.setPort_hostIow (s : State) (k : Nat) (x : Port) : (s.setPort k x).hostIow = s.hostIow := rfl
@[simp] theorem State.setPort_ticket (s : State) (k : Nat) (x : Port) : (s.setPort k x).ticket = s.ticket := rfl
@[simp] theorem State.setPort_mgmtSem (s : State) (k : Nat) (x : Port) : (s.setPort k x).mgmtSem = s.mgmtSem := rfl
@[simp] theorem State.setPort_mgmtLast (s : State) (k : Nat) (x : Port) : (s.setPort k x).mgmtLast = s.mgmtLast := rfl
@[simp] theorem State.setPort_mgmtOvf (s : State) (k : Nat) (x : Port) : (s.setPort k x).mgmtOvf = s.mgmtOvf := rfl
@[simp] theorem State.setPort_errLog (s : State) (k : Nat) (x : Port) : (s.setPort k x).errLog = s.errLog := rfl
@[simp] theorem State.setPort_replies (s : State) (k : Nat) (x : Port) : (s.setPort k x).replies = s.replies := rfl
@[simp] theorem State.setPort_signals (s : State) (k : Nat) (x : Port) : (s.setPort k x).signals = s.signals := rfl
@[simp] theorem State.setPort_spi (s : State) (k : Nat) (x : Port) : (s.setPort k x).spi = s.spi := rfl
@[simp] theorem State.setPort_repairs (s : State) (k : Nat) (x : Port) : (s.setPort k x).repairs = s.repairs := rfl
@[simp] theorem State.setPort_retired (s : State) (k : Nat) (x : Port) : (s.setPort k x).retired = s.retired := rfl
@[simp] theorem State.setPort_burnt (s : State) (k : Nat) (x : Port) : (s.setPort k x).burnt = s.burnt := rfl
@[simp] theorem State.setPort_rowErrs (s : State) (k : Nat) (x : Port) : (s.setPort k x).rowErrs = s.rowErrs := rfl
@[simp] theorem State.setPort_ecs (s : State) (k : Nat) (x : Port) : (s.setPort k x).ecs = s.ecs := rfl
@[simp] theorem State.setPort_postponed (s : State) (k : Nat) (x : Port) : (s.setPort k x).postponed = s.postponed := rfl
@[simp] theorem State.setPort_mem (s : State) (k : Nat) (x : Port) : (s.setPort k x).mem = s.mem := rfl
@[simp] theorem State.setPort_poison (s : State) (k : Nat) (x : Port) : (s.setPort k x).poison = s.poison := rfl
@[simp] theorem State.setPort_hdm0 (s : State) (k : Nat) (x : Port) : (s.setPort k x).hdm0 = s.hdm0 := rfl
@[simp] theorem State.setPort_hdm1 (s : State) (k : Nat) (x : Port) : (s.setPort k x).hdm1 = s.hdm1 := rfl
@[simp] theorem State.setPort_ioPorts (s : State) (k : Nat) (x : Port) : (s.setPort k x).ioPorts = s.ioPorts := rfl
@[simp] theorem State.setPort_hostHeld (s : State) (k : Nat) (x : Port) : (s.setPort k x).hostHeld = s.hostHeld := rfl
@[simp] theorem State.setPort_own (s : State) (k : Nat) (x : Port) : (s.setPort k x).own = s.own := rfl
@[simp] theorem State.setPort_far (s : State) (k : Nat) (x : Port) : (s.setPort k x).far = s.far := rfl
@[simp] theorem State.setPort_peers (s : State) (k : Nat) (x : Port) : (s.setPort k x).peers = s.peers := rfl
@[simp] theorem State.setPort_tlb (s : State) (k : Nat) (x : Port) : (s.setPort k x).tlb = s.tlb := rfl
@[simp] theorem State.setPort_preqs (s : State) (k : Nat) (x : Port) : (s.setPort k x).preqs = s.preqs := rfl
@[simp] theorem State.setPort_wchecks (s : State) (k : Nat) (x : Port) : (s.setPort k x).wchecks = s.wchecks := rfl
@[simp] theorem State.setPort_wfaults (s : State) (k : Nat) (x : Port) : (s.setPort k x).wfaults = s.wfaults := rfl
@[simp] theorem State.setPort_evPend (s : State) (k : Nat) (x : Port) : (s.setPort k x).evPend = s.evPend := rfl
@[simp] theorem State.setPort_l1 (s : State) (k : Nat) (x : Port) : (s.setPort k x).l1 = s.l1 := rfl
@[simp] theorem State.setPort_homes (s : State) (k : Nat) (x : Port) : (s.setPort k x).homes = s.homes := rfl
@[simp] theorem State.setPort_fills (s : State) (k : Nat) (x : Port) : (s.setPort k x).fills = s.fills := rfl
@[simp] theorem State.setPort_wq (s : State) (k : Nat) (x : Port) : (s.setPort k x).wq = s.wq := rfl
@[simp] theorem State.setPort_spad (s : State) (k : Nat) (x : Port) : (s.setPort k x).spad = s.spad := rfl
@[simp] theorem State.setPort_spadBase (s : State) (k : Nat) (x : Port) : (s.setPort k x).spadBase = s.spadBase := rfl
@[simp] theorem State.setPort_spadLog (s : State) (k : Nat) (x : Port) : (s.setPort k x).spadLog = s.spadLog := rfl
@[simp] theorem State.setPort_ctxs (s : State) (k : Nat) (x : Port) : (s.setPort k x).ctxs = s.ctxs := rfl
@[simp] theorem State.setPort_teams (s : State) (k : Nat) (x : Port) : (s.setPort k x).teams = s.teams := rfl
@[simp] theorem State.setPort_cores (s : State) (k : Nat) (x : Port) : (s.setPort k x).cores = s.cores := rfl
@[simp] theorem State.setPort_dieTab (s : State) (k : Nat) (x : Port) : (s.setPort k x).dieTab = s.dieTab := rfl
@[simp] theorem State.setPort_launches (s : State) (k : Nat) (x : Port) : (s.setPort k x).launches = s.launches := rfl
@[simp] theorem State.setPort_watches (s : State) (k : Nat) (x : Port) : (s.setPort k x).watches = s.watches := rfl
@[simp] theorem State.setPort_pushes (s : State) (k : Nat) (x : Port) : (s.setPort k x).pushes = s.pushes := rfl
@[simp] theorem State.setPort_spawned (s : State) (k : Nat) (x : Port) : (s.setPort k x).spawned = s.spawned := rfl
@[simp] theorem State.setPort_ages (s : State) (k : Nat) (x : Port) : (s.setPort k x).ages = s.ages := rfl
@[simp] theorem State.setPort_casts (s : State) (k : Nat) (x : Port) : (s.setPort k x).casts = s.casts := rfl
@[simp] theorem State.setPort_spills (s : State) (k : Nat) (x : Port) : (s.setPort k x).spills = s.spills := rfl
@[simp] theorem State.setPort_stalls (s : State) (k : Nat) (x : Port) : (s.setPort k x).stalls = s.stalls := rfl
@[simp] theorem State.setPort_arrivals (s : State) (k : Nat) (x : Port) : (s.setPort k x).arrivals = s.arrivals := rfl
@[simp] theorem State.setPort_mail (s : State) (k : Nat) (x : Port) : (s.setPort k x).mail = s.mail := rfl
@[simp] theorem State.setPort_hub (s : State) (k : Nat) (x : Port) : (s.setPort k x).hub = s.hub := rfl
@[simp] theorem State.setPort_windows (s : State) (k : Nat) (x : Port) : (s.setPort k x).windows = s.windows := rfl
@[simp] theorem State.setPort_vents (s : State) (k : Nat) (x : Port) : (s.setPort k x).vents = s.vents := rfl
@[simp] theorem State.setPort_ventPmc (s : State) (k : Nat) (x : Port) : (s.setPort k x).ventPmc = s.ventPmc := rfl
@[simp] theorem State.setPort_regions (s : State) (k : Nat) (x : Port) : (s.setPort k x).regions = s.regions := rfl
@[simp] theorem State.setPort_tracked (s : State) (k : Nat) (x : Port) : (s.setPort k x).tracked = s.tracked := rfl
@[simp] theorem State.setPort_spec (s : State) (k : Nat) (x : Port) : (s.setPort k x).spec = s.spec := rfl
@[simp] theorem State.setPort_routes (s : State) (k : Nat) (x : Port) : (s.setPort k x).routes = s.routes := rfl
@[simp] theorem State.setPort_unsent (s : State) (k : Nat) (x : Port) : (s.setPort k x).unsent = s.unsent := rfl
@[simp] theorem State.setPort_committedAt (s : State) (k : Nat) (x : Port) : (s.setPort k x).committedAt = s.committedAt := rfl
@[simp] theorem State.setPort_agenda (s : State) (k : Nat) (x : Port) : (s.setPort k x).agenda = s.agenda := rfl
@[simp] theorem State.setPort_current (s : State) (k : Nat) (x : Port) : (s.setPort k x).current = s.current := rfl
@[simp] theorem State.setPort_order (s : State) (k : Nat) (x : Port) : (s.setPort k x).order = s.order := rfl
@[simp] theorem State.setPort_fresh (s : State) (k : Nat) (x : Port) : (s.setPort k x).fresh = s.fresh := rfl

/-! ## `setLaunch` -/

@[simp] theorem State.setLaunch_clock (s : State) (x : Launch) : (s.setLaunch x).clock = s.clock := rfl
@[simp] theorem State.setLaunch_rt (s : State) (x : Launch) : (s.setLaunch x).rt = s.rt := rfl
@[simp] theorem State.setLaunch_clkStep (s : State) (x : Launch) : (s.setLaunch x).clkStep = s.clkStep := rfl
@[simp] theorem State.setLaunch_hot (s : State) (x : Launch) : (s.setLaunch x).hot = s.hot := rfl
@[simp] theorem State.setLaunch_powered (s : State) (x : Launch) : (s.setLaunch x).powered = s.powered := rfl
@[simp] theorem State.setLaunch_bringUp (s : State) (x : Launch) : (s.setLaunch x).bringUp = s.bringUp := rfl
@[simp] theorem State.setLaunch_devId (s : State) (x : Launch) : (s.setLaunch x).devId = s.devId := rfl
@[simp] theorem State.setLaunch_devIdNext (s : State) (x : Launch) : (s.setLaunch x).devIdNext = s.devIdNext := rfl
@[simp] theorem State.setLaunch_fjExp (s : State) (x : Launch) : (s.setLaunch x).fjExp = s.fjExp := rfl
@[simp] theorem State.setLaunch_ordMode (s : State) (x : Launch) : (s.setLaunch x).ordMode = s.ordMode := rfl
@[simp] theorem State.setLaunch_leaseMax (s : State) (x : Launch) : (s.setLaunch x).leaseMax = s.leaseMax := rfl
@[simp] theorem State.setLaunch_hostIow (s : State) (x : Launch) : (s.setLaunch x).hostIow = s.hostIow := rfl
@[simp] theorem State.setLaunch_ticket (s : State) (x : Launch) : (s.setLaunch x).ticket = s.ticket := rfl
@[simp] theorem State.setLaunch_mgmtSem (s : State) (x : Launch) : (s.setLaunch x).mgmtSem = s.mgmtSem := rfl
@[simp] theorem State.setLaunch_mgmtLast (s : State) (x : Launch) : (s.setLaunch x).mgmtLast = s.mgmtLast := rfl
@[simp] theorem State.setLaunch_mgmtOvf (s : State) (x : Launch) : (s.setLaunch x).mgmtOvf = s.mgmtOvf := rfl
@[simp] theorem State.setLaunch_errLog (s : State) (x : Launch) : (s.setLaunch x).errLog = s.errLog := rfl
@[simp] theorem State.setLaunch_replies (s : State) (x : Launch) : (s.setLaunch x).replies = s.replies := rfl
@[simp] theorem State.setLaunch_signals (s : State) (x : Launch) : (s.setLaunch x).signals = s.signals := rfl
@[simp] theorem State.setLaunch_spi (s : State) (x : Launch) : (s.setLaunch x).spi = s.spi := rfl
@[simp] theorem State.setLaunch_repairs (s : State) (x : Launch) : (s.setLaunch x).repairs = s.repairs := rfl
@[simp] theorem State.setLaunch_retired (s : State) (x : Launch) : (s.setLaunch x).retired = s.retired := rfl
@[simp] theorem State.setLaunch_burnt (s : State) (x : Launch) : (s.setLaunch x).burnt = s.burnt := rfl
@[simp] theorem State.setLaunch_rowErrs (s : State) (x : Launch) : (s.setLaunch x).rowErrs = s.rowErrs := rfl
@[simp] theorem State.setLaunch_ecs (s : State) (x : Launch) : (s.setLaunch x).ecs = s.ecs := rfl
@[simp] theorem State.setLaunch_postponed (s : State) (x : Launch) : (s.setLaunch x).postponed = s.postponed := rfl
@[simp] theorem State.setLaunch_mem (s : State) (x : Launch) : (s.setLaunch x).mem = s.mem := rfl
@[simp] theorem State.setLaunch_poison (s : State) (x : Launch) : (s.setLaunch x).poison = s.poison := rfl
@[simp] theorem State.setLaunch_hdm0 (s : State) (x : Launch) : (s.setLaunch x).hdm0 = s.hdm0 := rfl
@[simp] theorem State.setLaunch_hdm1 (s : State) (x : Launch) : (s.setLaunch x).hdm1 = s.hdm1 := rfl
@[simp] theorem State.setLaunch_ioPorts (s : State) (x : Launch) : (s.setLaunch x).ioPorts = s.ioPorts := rfl
@[simp] theorem State.setLaunch_hostHeld (s : State) (x : Launch) : (s.setLaunch x).hostHeld = s.hostHeld := rfl
@[simp] theorem State.setLaunch_own (s : State) (x : Launch) : (s.setLaunch x).own = s.own := rfl
@[simp] theorem State.setLaunch_far (s : State) (x : Launch) : (s.setLaunch x).far = s.far := rfl
@[simp] theorem State.setLaunch_peers (s : State) (x : Launch) : (s.setLaunch x).peers = s.peers := rfl
@[simp] theorem State.setLaunch_tlb (s : State) (x : Launch) : (s.setLaunch x).tlb = s.tlb := rfl
@[simp] theorem State.setLaunch_preqs (s : State) (x : Launch) : (s.setLaunch x).preqs = s.preqs := rfl
@[simp] theorem State.setLaunch_wchecks (s : State) (x : Launch) : (s.setLaunch x).wchecks = s.wchecks := rfl
@[simp] theorem State.setLaunch_wfaults (s : State) (x : Launch) : (s.setLaunch x).wfaults = s.wfaults := rfl
@[simp] theorem State.setLaunch_evPend (s : State) (x : Launch) : (s.setLaunch x).evPend = s.evPend := rfl
@[simp] theorem State.setLaunch_l1 (s : State) (x : Launch) : (s.setLaunch x).l1 = s.l1 := rfl
@[simp] theorem State.setLaunch_homes (s : State) (x : Launch) : (s.setLaunch x).homes = s.homes := rfl
@[simp] theorem State.setLaunch_fills (s : State) (x : Launch) : (s.setLaunch x).fills = s.fills := rfl
@[simp] theorem State.setLaunch_wq (s : State) (x : Launch) : (s.setLaunch x).wq = s.wq := rfl
@[simp] theorem State.setLaunch_spad (s : State) (x : Launch) : (s.setLaunch x).spad = s.spad := rfl
@[simp] theorem State.setLaunch_spadBase (s : State) (x : Launch) : (s.setLaunch x).spadBase = s.spadBase := rfl
@[simp] theorem State.setLaunch_spadLog (s : State) (x : Launch) : (s.setLaunch x).spadLog = s.spadLog := rfl
@[simp] theorem State.setLaunch_ctxs (s : State) (x : Launch) : (s.setLaunch x).ctxs = s.ctxs := rfl
@[simp] theorem State.setLaunch_teams (s : State) (x : Launch) : (s.setLaunch x).teams = s.teams := rfl
@[simp] theorem State.setLaunch_cores (s : State) (x : Launch) : (s.setLaunch x).cores = s.cores := rfl
@[simp] theorem State.setLaunch_dieTab (s : State) (x : Launch) : (s.setLaunch x).dieTab = s.dieTab := rfl
@[simp] theorem State.setLaunch_watches (s : State) (x : Launch) : (s.setLaunch x).watches = s.watches := rfl
@[simp] theorem State.setLaunch_pushes (s : State) (x : Launch) : (s.setLaunch x).pushes = s.pushes := rfl
@[simp] theorem State.setLaunch_spawned (s : State) (x : Launch) : (s.setLaunch x).spawned = s.spawned := rfl
@[simp] theorem State.setLaunch_ages (s : State) (x : Launch) : (s.setLaunch x).ages = s.ages := rfl
@[simp] theorem State.setLaunch_casts (s : State) (x : Launch) : (s.setLaunch x).casts = s.casts := rfl
@[simp] theorem State.setLaunch_spills (s : State) (x : Launch) : (s.setLaunch x).spills = s.spills := rfl
@[simp] theorem State.setLaunch_stalls (s : State) (x : Launch) : (s.setLaunch x).stalls = s.stalls := rfl
@[simp] theorem State.setLaunch_arrivals (s : State) (x : Launch) : (s.setLaunch x).arrivals = s.arrivals := rfl
@[simp] theorem State.setLaunch_mail (s : State) (x : Launch) : (s.setLaunch x).mail = s.mail := rfl
@[simp] theorem State.setLaunch_hub (s : State) (x : Launch) : (s.setLaunch x).hub = s.hub := rfl
@[simp] theorem State.setLaunch_windows (s : State) (x : Launch) : (s.setLaunch x).windows = s.windows := rfl
@[simp] theorem State.setLaunch_vents (s : State) (x : Launch) : (s.setLaunch x).vents = s.vents := rfl
@[simp] theorem State.setLaunch_ventPmc (s : State) (x : Launch) : (s.setLaunch x).ventPmc = s.ventPmc := rfl
@[simp] theorem State.setLaunch_regions (s : State) (x : Launch) : (s.setLaunch x).regions = s.regions := rfl
@[simp] theorem State.setLaunch_tracked (s : State) (x : Launch) : (s.setLaunch x).tracked = s.tracked := rfl
@[simp] theorem State.setLaunch_spec (s : State) (x : Launch) : (s.setLaunch x).spec = s.spec := rfl
@[simp] theorem State.setLaunch_ports (s : State) (x : Launch) : (s.setLaunch x).ports = s.ports := rfl
@[simp] theorem State.setLaunch_routes (s : State) (x : Launch) : (s.setLaunch x).routes = s.routes := rfl
@[simp] theorem State.setLaunch_unsent (s : State) (x : Launch) : (s.setLaunch x).unsent = s.unsent := rfl
@[simp] theorem State.setLaunch_committedAt (s : State) (x : Launch) : (s.setLaunch x).committedAt = s.committedAt := rfl
@[simp] theorem State.setLaunch_agenda (s : State) (x : Launch) : (s.setLaunch x).agenda = s.agenda := rfl
@[simp] theorem State.setLaunch_current (s : State) (x : Launch) : (s.setLaunch x).current = s.current := rfl
@[simp] theorem State.setLaunch_order (s : State) (x : Launch) : (s.setLaunch x).order = s.order := rfl
@[simp] theorem State.setLaunch_fresh (s : State) (x : Launch) : (s.setLaunch x).fresh = s.fresh := rfl

/-! ## `onLaunch` -/

@[simp] theorem State.onLaunch_clock (s : State) (k : Nat) (f : Launch → Launch) : (s.onLaunch k f).clock = s.clock := rfl
@[simp] theorem State.onLaunch_rt (s : State) (k : Nat) (f : Launch → Launch) : (s.onLaunch k f).rt = s.rt := rfl
@[simp] theorem State.onLaunch_clkStep (s : State) (k : Nat) (f : Launch → Launch) : (s.onLaunch k f).clkStep = s.clkStep := rfl
@[simp] theorem State.onLaunch_hot (s : State) (k : Nat) (f : Launch → Launch) : (s.onLaunch k f).hot = s.hot := rfl
@[simp] theorem State.onLaunch_powered (s : State) (k : Nat) (f : Launch → Launch) : (s.onLaunch k f).powered = s.powered := rfl
@[simp] theorem State.onLaunch_bringUp (s : State) (k : Nat) (f : Launch → Launch) : (s.onLaunch k f).bringUp = s.bringUp := rfl
@[simp] theorem State.onLaunch_devId (s : State) (k : Nat) (f : Launch → Launch) : (s.onLaunch k f).devId = s.devId := rfl
@[simp] theorem State.onLaunch_devIdNext (s : State) (k : Nat) (f : Launch → Launch) : (s.onLaunch k f).devIdNext = s.devIdNext := rfl
@[simp] theorem State.onLaunch_fjExp (s : State) (k : Nat) (f : Launch → Launch) : (s.onLaunch k f).fjExp = s.fjExp := rfl
@[simp] theorem State.onLaunch_ordMode (s : State) (k : Nat) (f : Launch → Launch) : (s.onLaunch k f).ordMode = s.ordMode := rfl
@[simp] theorem State.onLaunch_leaseMax (s : State) (k : Nat) (f : Launch → Launch) : (s.onLaunch k f).leaseMax = s.leaseMax := rfl
@[simp] theorem State.onLaunch_hostIow (s : State) (k : Nat) (f : Launch → Launch) : (s.onLaunch k f).hostIow = s.hostIow := rfl
@[simp] theorem State.onLaunch_ticket (s : State) (k : Nat) (f : Launch → Launch) : (s.onLaunch k f).ticket = s.ticket := rfl
@[simp] theorem State.onLaunch_mgmtSem (s : State) (k : Nat) (f : Launch → Launch) : (s.onLaunch k f).mgmtSem = s.mgmtSem := rfl
@[simp] theorem State.onLaunch_mgmtLast (s : State) (k : Nat) (f : Launch → Launch) : (s.onLaunch k f).mgmtLast = s.mgmtLast := rfl
@[simp] theorem State.onLaunch_mgmtOvf (s : State) (k : Nat) (f : Launch → Launch) : (s.onLaunch k f).mgmtOvf = s.mgmtOvf := rfl
@[simp] theorem State.onLaunch_errLog (s : State) (k : Nat) (f : Launch → Launch) : (s.onLaunch k f).errLog = s.errLog := rfl
@[simp] theorem State.onLaunch_replies (s : State) (k : Nat) (f : Launch → Launch) : (s.onLaunch k f).replies = s.replies := rfl
@[simp] theorem State.onLaunch_signals (s : State) (k : Nat) (f : Launch → Launch) : (s.onLaunch k f).signals = s.signals := rfl
@[simp] theorem State.onLaunch_spi (s : State) (k : Nat) (f : Launch → Launch) : (s.onLaunch k f).spi = s.spi := rfl
@[simp] theorem State.onLaunch_repairs (s : State) (k : Nat) (f : Launch → Launch) : (s.onLaunch k f).repairs = s.repairs := rfl
@[simp] theorem State.onLaunch_retired (s : State) (k : Nat) (f : Launch → Launch) : (s.onLaunch k f).retired = s.retired := rfl
@[simp] theorem State.onLaunch_burnt (s : State) (k : Nat) (f : Launch → Launch) : (s.onLaunch k f).burnt = s.burnt := rfl
@[simp] theorem State.onLaunch_rowErrs (s : State) (k : Nat) (f : Launch → Launch) : (s.onLaunch k f).rowErrs = s.rowErrs := rfl
@[simp] theorem State.onLaunch_ecs (s : State) (k : Nat) (f : Launch → Launch) : (s.onLaunch k f).ecs = s.ecs := rfl
@[simp] theorem State.onLaunch_postponed (s : State) (k : Nat) (f : Launch → Launch) : (s.onLaunch k f).postponed = s.postponed := rfl
@[simp] theorem State.onLaunch_mem (s : State) (k : Nat) (f : Launch → Launch) : (s.onLaunch k f).mem = s.mem := rfl
@[simp] theorem State.onLaunch_poison (s : State) (k : Nat) (f : Launch → Launch) : (s.onLaunch k f).poison = s.poison := rfl
@[simp] theorem State.onLaunch_hdm0 (s : State) (k : Nat) (f : Launch → Launch) : (s.onLaunch k f).hdm0 = s.hdm0 := rfl
@[simp] theorem State.onLaunch_hdm1 (s : State) (k : Nat) (f : Launch → Launch) : (s.onLaunch k f).hdm1 = s.hdm1 := rfl
@[simp] theorem State.onLaunch_ioPorts (s : State) (k : Nat) (f : Launch → Launch) : (s.onLaunch k f).ioPorts = s.ioPorts := rfl
@[simp] theorem State.onLaunch_hostHeld (s : State) (k : Nat) (f : Launch → Launch) : (s.onLaunch k f).hostHeld = s.hostHeld := rfl
@[simp] theorem State.onLaunch_own (s : State) (k : Nat) (f : Launch → Launch) : (s.onLaunch k f).own = s.own := rfl
@[simp] theorem State.onLaunch_far (s : State) (k : Nat) (f : Launch → Launch) : (s.onLaunch k f).far = s.far := rfl
@[simp] theorem State.onLaunch_peers (s : State) (k : Nat) (f : Launch → Launch) : (s.onLaunch k f).peers = s.peers := rfl
@[simp] theorem State.onLaunch_tlb (s : State) (k : Nat) (f : Launch → Launch) : (s.onLaunch k f).tlb = s.tlb := rfl
@[simp] theorem State.onLaunch_preqs (s : State) (k : Nat) (f : Launch → Launch) : (s.onLaunch k f).preqs = s.preqs := rfl
@[simp] theorem State.onLaunch_wchecks (s : State) (k : Nat) (f : Launch → Launch) : (s.onLaunch k f).wchecks = s.wchecks := rfl
@[simp] theorem State.onLaunch_wfaults (s : State) (k : Nat) (f : Launch → Launch) : (s.onLaunch k f).wfaults = s.wfaults := rfl
@[simp] theorem State.onLaunch_evPend (s : State) (k : Nat) (f : Launch → Launch) : (s.onLaunch k f).evPend = s.evPend := rfl
@[simp] theorem State.onLaunch_l1 (s : State) (k : Nat) (f : Launch → Launch) : (s.onLaunch k f).l1 = s.l1 := rfl
@[simp] theorem State.onLaunch_homes (s : State) (k : Nat) (f : Launch → Launch) : (s.onLaunch k f).homes = s.homes := rfl
@[simp] theorem State.onLaunch_fills (s : State) (k : Nat) (f : Launch → Launch) : (s.onLaunch k f).fills = s.fills := rfl
@[simp] theorem State.onLaunch_wq (s : State) (k : Nat) (f : Launch → Launch) : (s.onLaunch k f).wq = s.wq := rfl
@[simp] theorem State.onLaunch_spad (s : State) (k : Nat) (f : Launch → Launch) : (s.onLaunch k f).spad = s.spad := rfl
@[simp] theorem State.onLaunch_spadBase (s : State) (k : Nat) (f : Launch → Launch) : (s.onLaunch k f).spadBase = s.spadBase := rfl
@[simp] theorem State.onLaunch_spadLog (s : State) (k : Nat) (f : Launch → Launch) : (s.onLaunch k f).spadLog = s.spadLog := rfl
@[simp] theorem State.onLaunch_ctxs (s : State) (k : Nat) (f : Launch → Launch) : (s.onLaunch k f).ctxs = s.ctxs := rfl
@[simp] theorem State.onLaunch_teams (s : State) (k : Nat) (f : Launch → Launch) : (s.onLaunch k f).teams = s.teams := rfl
@[simp] theorem State.onLaunch_cores (s : State) (k : Nat) (f : Launch → Launch) : (s.onLaunch k f).cores = s.cores := rfl
@[simp] theorem State.onLaunch_dieTab (s : State) (k : Nat) (f : Launch → Launch) : (s.onLaunch k f).dieTab = s.dieTab := rfl
@[simp] theorem State.onLaunch_watches (s : State) (k : Nat) (f : Launch → Launch) : (s.onLaunch k f).watches = s.watches := rfl
@[simp] theorem State.onLaunch_pushes (s : State) (k : Nat) (f : Launch → Launch) : (s.onLaunch k f).pushes = s.pushes := rfl
@[simp] theorem State.onLaunch_spawned (s : State) (k : Nat) (f : Launch → Launch) : (s.onLaunch k f).spawned = s.spawned := rfl
@[simp] theorem State.onLaunch_ages (s : State) (k : Nat) (f : Launch → Launch) : (s.onLaunch k f).ages = s.ages := rfl
@[simp] theorem State.onLaunch_casts (s : State) (k : Nat) (f : Launch → Launch) : (s.onLaunch k f).casts = s.casts := rfl
@[simp] theorem State.onLaunch_spills (s : State) (k : Nat) (f : Launch → Launch) : (s.onLaunch k f).spills = s.spills := rfl
@[simp] theorem State.onLaunch_stalls (s : State) (k : Nat) (f : Launch → Launch) : (s.onLaunch k f).stalls = s.stalls := rfl
@[simp] theorem State.onLaunch_arrivals (s : State) (k : Nat) (f : Launch → Launch) : (s.onLaunch k f).arrivals = s.arrivals := rfl
@[simp] theorem State.onLaunch_mail (s : State) (k : Nat) (f : Launch → Launch) : (s.onLaunch k f).mail = s.mail := rfl
@[simp] theorem State.onLaunch_hub (s : State) (k : Nat) (f : Launch → Launch) : (s.onLaunch k f).hub = s.hub := rfl
@[simp] theorem State.onLaunch_windows (s : State) (k : Nat) (f : Launch → Launch) : (s.onLaunch k f).windows = s.windows := rfl
@[simp] theorem State.onLaunch_vents (s : State) (k : Nat) (f : Launch → Launch) : (s.onLaunch k f).vents = s.vents := rfl
@[simp] theorem State.onLaunch_ventPmc (s : State) (k : Nat) (f : Launch → Launch) : (s.onLaunch k f).ventPmc = s.ventPmc := rfl
@[simp] theorem State.onLaunch_regions (s : State) (k : Nat) (f : Launch → Launch) : (s.onLaunch k f).regions = s.regions := rfl
@[simp] theorem State.onLaunch_tracked (s : State) (k : Nat) (f : Launch → Launch) : (s.onLaunch k f).tracked = s.tracked := rfl
@[simp] theorem State.onLaunch_spec (s : State) (k : Nat) (f : Launch → Launch) : (s.onLaunch k f).spec = s.spec := rfl
@[simp] theorem State.onLaunch_ports (s : State) (k : Nat) (f : Launch → Launch) : (s.onLaunch k f).ports = s.ports := rfl
@[simp] theorem State.onLaunch_routes (s : State) (k : Nat) (f : Launch → Launch) : (s.onLaunch k f).routes = s.routes := rfl
@[simp] theorem State.onLaunch_unsent (s : State) (k : Nat) (f : Launch → Launch) : (s.onLaunch k f).unsent = s.unsent := rfl
@[simp] theorem State.onLaunch_committedAt (s : State) (k : Nat) (f : Launch → Launch) : (s.onLaunch k f).committedAt = s.committedAt := rfl
@[simp] theorem State.onLaunch_agenda (s : State) (k : Nat) (f : Launch → Launch) : (s.onLaunch k f).agenda = s.agenda := rfl
@[simp] theorem State.onLaunch_current (s : State) (k : Nat) (f : Launch → Launch) : (s.onLaunch k f).current = s.current := rfl
@[simp] theorem State.onLaunch_order (s : State) (k : Nat) (f : Launch → Launch) : (s.onLaunch k f).order = s.order := rfl
@[simp] theorem State.onLaunch_fresh (s : State) (k : Nat) (f : Launch → Launch) : (s.onLaunch k f).fresh = s.fresh := rfl

/-! ## `onWindow` -/

@[simp] theorem State.onWindow_clock (s : State) (k : Nat) (f : Window → Window) : (s.onWindow k f).clock = s.clock := rfl
@[simp] theorem State.onWindow_rt (s : State) (k : Nat) (f : Window → Window) : (s.onWindow k f).rt = s.rt := rfl
@[simp] theorem State.onWindow_clkStep (s : State) (k : Nat) (f : Window → Window) : (s.onWindow k f).clkStep = s.clkStep := rfl
@[simp] theorem State.onWindow_hot (s : State) (k : Nat) (f : Window → Window) : (s.onWindow k f).hot = s.hot := rfl
@[simp] theorem State.onWindow_powered (s : State) (k : Nat) (f : Window → Window) : (s.onWindow k f).powered = s.powered := rfl
@[simp] theorem State.onWindow_bringUp (s : State) (k : Nat) (f : Window → Window) : (s.onWindow k f).bringUp = s.bringUp := rfl
@[simp] theorem State.onWindow_devId (s : State) (k : Nat) (f : Window → Window) : (s.onWindow k f).devId = s.devId := rfl
@[simp] theorem State.onWindow_devIdNext (s : State) (k : Nat) (f : Window → Window) : (s.onWindow k f).devIdNext = s.devIdNext := rfl
@[simp] theorem State.onWindow_fjExp (s : State) (k : Nat) (f : Window → Window) : (s.onWindow k f).fjExp = s.fjExp := rfl
@[simp] theorem State.onWindow_ordMode (s : State) (k : Nat) (f : Window → Window) : (s.onWindow k f).ordMode = s.ordMode := rfl
@[simp] theorem State.onWindow_leaseMax (s : State) (k : Nat) (f : Window → Window) : (s.onWindow k f).leaseMax = s.leaseMax := rfl
@[simp] theorem State.onWindow_hostIow (s : State) (k : Nat) (f : Window → Window) : (s.onWindow k f).hostIow = s.hostIow := rfl
@[simp] theorem State.onWindow_ticket (s : State) (k : Nat) (f : Window → Window) : (s.onWindow k f).ticket = s.ticket := rfl
@[simp] theorem State.onWindow_mgmtSem (s : State) (k : Nat) (f : Window → Window) : (s.onWindow k f).mgmtSem = s.mgmtSem := rfl
@[simp] theorem State.onWindow_mgmtLast (s : State) (k : Nat) (f : Window → Window) : (s.onWindow k f).mgmtLast = s.mgmtLast := rfl
@[simp] theorem State.onWindow_mgmtOvf (s : State) (k : Nat) (f : Window → Window) : (s.onWindow k f).mgmtOvf = s.mgmtOvf := rfl
@[simp] theorem State.onWindow_errLog (s : State) (k : Nat) (f : Window → Window) : (s.onWindow k f).errLog = s.errLog := rfl
@[simp] theorem State.onWindow_replies (s : State) (k : Nat) (f : Window → Window) : (s.onWindow k f).replies = s.replies := rfl
@[simp] theorem State.onWindow_signals (s : State) (k : Nat) (f : Window → Window) : (s.onWindow k f).signals = s.signals := rfl
@[simp] theorem State.onWindow_spi (s : State) (k : Nat) (f : Window → Window) : (s.onWindow k f).spi = s.spi := rfl
@[simp] theorem State.onWindow_repairs (s : State) (k : Nat) (f : Window → Window) : (s.onWindow k f).repairs = s.repairs := rfl
@[simp] theorem State.onWindow_retired (s : State) (k : Nat) (f : Window → Window) : (s.onWindow k f).retired = s.retired := rfl
@[simp] theorem State.onWindow_burnt (s : State) (k : Nat) (f : Window → Window) : (s.onWindow k f).burnt = s.burnt := rfl
@[simp] theorem State.onWindow_rowErrs (s : State) (k : Nat) (f : Window → Window) : (s.onWindow k f).rowErrs = s.rowErrs := rfl
@[simp] theorem State.onWindow_ecs (s : State) (k : Nat) (f : Window → Window) : (s.onWindow k f).ecs = s.ecs := rfl
@[simp] theorem State.onWindow_postponed (s : State) (k : Nat) (f : Window → Window) : (s.onWindow k f).postponed = s.postponed := rfl
@[simp] theorem State.onWindow_mem (s : State) (k : Nat) (f : Window → Window) : (s.onWindow k f).mem = s.mem := rfl
@[simp] theorem State.onWindow_poison (s : State) (k : Nat) (f : Window → Window) : (s.onWindow k f).poison = s.poison := rfl
@[simp] theorem State.onWindow_hdm0 (s : State) (k : Nat) (f : Window → Window) : (s.onWindow k f).hdm0 = s.hdm0 := rfl
@[simp] theorem State.onWindow_hdm1 (s : State) (k : Nat) (f : Window → Window) : (s.onWindow k f).hdm1 = s.hdm1 := rfl
@[simp] theorem State.onWindow_ioPorts (s : State) (k : Nat) (f : Window → Window) : (s.onWindow k f).ioPorts = s.ioPorts := rfl
@[simp] theorem State.onWindow_hostHeld (s : State) (k : Nat) (f : Window → Window) : (s.onWindow k f).hostHeld = s.hostHeld := rfl
@[simp] theorem State.onWindow_own (s : State) (k : Nat) (f : Window → Window) : (s.onWindow k f).own = s.own := rfl
@[simp] theorem State.onWindow_far (s : State) (k : Nat) (f : Window → Window) : (s.onWindow k f).far = s.far := rfl
@[simp] theorem State.onWindow_peers (s : State) (k : Nat) (f : Window → Window) : (s.onWindow k f).peers = s.peers := rfl
@[simp] theorem State.onWindow_tlb (s : State) (k : Nat) (f : Window → Window) : (s.onWindow k f).tlb = s.tlb := rfl
@[simp] theorem State.onWindow_preqs (s : State) (k : Nat) (f : Window → Window) : (s.onWindow k f).preqs = s.preqs := rfl
@[simp] theorem State.onWindow_wchecks (s : State) (k : Nat) (f : Window → Window) : (s.onWindow k f).wchecks = s.wchecks := rfl
@[simp] theorem State.onWindow_wfaults (s : State) (k : Nat) (f : Window → Window) : (s.onWindow k f).wfaults = s.wfaults := rfl
@[simp] theorem State.onWindow_evPend (s : State) (k : Nat) (f : Window → Window) : (s.onWindow k f).evPend = s.evPend := rfl
@[simp] theorem State.onWindow_l1 (s : State) (k : Nat) (f : Window → Window) : (s.onWindow k f).l1 = s.l1 := rfl
@[simp] theorem State.onWindow_homes (s : State) (k : Nat) (f : Window → Window) : (s.onWindow k f).homes = s.homes := rfl
@[simp] theorem State.onWindow_fills (s : State) (k : Nat) (f : Window → Window) : (s.onWindow k f).fills = s.fills := rfl
@[simp] theorem State.onWindow_wq (s : State) (k : Nat) (f : Window → Window) : (s.onWindow k f).wq = s.wq := rfl
@[simp] theorem State.onWindow_spad (s : State) (k : Nat) (f : Window → Window) : (s.onWindow k f).spad = s.spad := rfl
@[simp] theorem State.onWindow_spadBase (s : State) (k : Nat) (f : Window → Window) : (s.onWindow k f).spadBase = s.spadBase := rfl
@[simp] theorem State.onWindow_spadLog (s : State) (k : Nat) (f : Window → Window) : (s.onWindow k f).spadLog = s.spadLog := rfl
@[simp] theorem State.onWindow_ctxs (s : State) (k : Nat) (f : Window → Window) : (s.onWindow k f).ctxs = s.ctxs := rfl
@[simp] theorem State.onWindow_teams (s : State) (k : Nat) (f : Window → Window) : (s.onWindow k f).teams = s.teams := rfl
@[simp] theorem State.onWindow_cores (s : State) (k : Nat) (f : Window → Window) : (s.onWindow k f).cores = s.cores := rfl
@[simp] theorem State.onWindow_dieTab (s : State) (k : Nat) (f : Window → Window) : (s.onWindow k f).dieTab = s.dieTab := rfl
@[simp] theorem State.onWindow_launches (s : State) (k : Nat) (f : Window → Window) : (s.onWindow k f).launches = s.launches := rfl
@[simp] theorem State.onWindow_watches (s : State) (k : Nat) (f : Window → Window) : (s.onWindow k f).watches = s.watches := rfl
@[simp] theorem State.onWindow_pushes (s : State) (k : Nat) (f : Window → Window) : (s.onWindow k f).pushes = s.pushes := rfl
@[simp] theorem State.onWindow_spawned (s : State) (k : Nat) (f : Window → Window) : (s.onWindow k f).spawned = s.spawned := rfl
@[simp] theorem State.onWindow_ages (s : State) (k : Nat) (f : Window → Window) : (s.onWindow k f).ages = s.ages := rfl
@[simp] theorem State.onWindow_casts (s : State) (k : Nat) (f : Window → Window) : (s.onWindow k f).casts = s.casts := rfl
@[simp] theorem State.onWindow_spills (s : State) (k : Nat) (f : Window → Window) : (s.onWindow k f).spills = s.spills := rfl
@[simp] theorem State.onWindow_stalls (s : State) (k : Nat) (f : Window → Window) : (s.onWindow k f).stalls = s.stalls := rfl
@[simp] theorem State.onWindow_arrivals (s : State) (k : Nat) (f : Window → Window) : (s.onWindow k f).arrivals = s.arrivals := rfl
@[simp] theorem State.onWindow_mail (s : State) (k : Nat) (f : Window → Window) : (s.onWindow k f).mail = s.mail := rfl
@[simp] theorem State.onWindow_hub (s : State) (k : Nat) (f : Window → Window) : (s.onWindow k f).hub = s.hub := rfl
@[simp] theorem State.onWindow_vents (s : State) (k : Nat) (f : Window → Window) : (s.onWindow k f).vents = s.vents := rfl
@[simp] theorem State.onWindow_ventPmc (s : State) (k : Nat) (f : Window → Window) : (s.onWindow k f).ventPmc = s.ventPmc := rfl
@[simp] theorem State.onWindow_regions (s : State) (k : Nat) (f : Window → Window) : (s.onWindow k f).regions = s.regions := rfl
@[simp] theorem State.onWindow_tracked (s : State) (k : Nat) (f : Window → Window) : (s.onWindow k f).tracked = s.tracked := rfl
@[simp] theorem State.onWindow_spec (s : State) (k : Nat) (f : Window → Window) : (s.onWindow k f).spec = s.spec := rfl
@[simp] theorem State.onWindow_ports (s : State) (k : Nat) (f : Window → Window) : (s.onWindow k f).ports = s.ports := rfl
@[simp] theorem State.onWindow_routes (s : State) (k : Nat) (f : Window → Window) : (s.onWindow k f).routes = s.routes := rfl
@[simp] theorem State.onWindow_unsent (s : State) (k : Nat) (f : Window → Window) : (s.onWindow k f).unsent = s.unsent := rfl
@[simp] theorem State.onWindow_committedAt (s : State) (k : Nat) (f : Window → Window) : (s.onWindow k f).committedAt = s.committedAt := rfl
@[simp] theorem State.onWindow_agenda (s : State) (k : Nat) (f : Window → Window) : (s.onWindow k f).agenda = s.agenda := rfl
@[simp] theorem State.onWindow_current (s : State) (k : Nat) (f : Window → Window) : (s.onWindow k f).current = s.current := rfl
@[simp] theorem State.onWindow_order (s : State) (k : Nat) (f : Window → Window) : (s.onWindow k f).order = s.order := rfl
@[simp] theorem State.onWindow_fresh (s : State) (k : Nat) (f : Window → Window) : (s.onWindow k f).fresh = s.fresh := rfl

/-! ## `onRegion` -/

@[simp] theorem State.onRegion_clock (s : State) (k : Nat) (f : Region → Region) : (s.onRegion k f).clock = s.clock := rfl
@[simp] theorem State.onRegion_rt (s : State) (k : Nat) (f : Region → Region) : (s.onRegion k f).rt = s.rt := rfl
@[simp] theorem State.onRegion_clkStep (s : State) (k : Nat) (f : Region → Region) : (s.onRegion k f).clkStep = s.clkStep := rfl
@[simp] theorem State.onRegion_hot (s : State) (k : Nat) (f : Region → Region) : (s.onRegion k f).hot = s.hot := rfl
@[simp] theorem State.onRegion_powered (s : State) (k : Nat) (f : Region → Region) : (s.onRegion k f).powered = s.powered := rfl
@[simp] theorem State.onRegion_bringUp (s : State) (k : Nat) (f : Region → Region) : (s.onRegion k f).bringUp = s.bringUp := rfl
@[simp] theorem State.onRegion_devId (s : State) (k : Nat) (f : Region → Region) : (s.onRegion k f).devId = s.devId := rfl
@[simp] theorem State.onRegion_devIdNext (s : State) (k : Nat) (f : Region → Region) : (s.onRegion k f).devIdNext = s.devIdNext := rfl
@[simp] theorem State.onRegion_fjExp (s : State) (k : Nat) (f : Region → Region) : (s.onRegion k f).fjExp = s.fjExp := rfl
@[simp] theorem State.onRegion_ordMode (s : State) (k : Nat) (f : Region → Region) : (s.onRegion k f).ordMode = s.ordMode := rfl
@[simp] theorem State.onRegion_leaseMax (s : State) (k : Nat) (f : Region → Region) : (s.onRegion k f).leaseMax = s.leaseMax := rfl
@[simp] theorem State.onRegion_hostIow (s : State) (k : Nat) (f : Region → Region) : (s.onRegion k f).hostIow = s.hostIow := rfl
@[simp] theorem State.onRegion_ticket (s : State) (k : Nat) (f : Region → Region) : (s.onRegion k f).ticket = s.ticket := rfl
@[simp] theorem State.onRegion_mgmtSem (s : State) (k : Nat) (f : Region → Region) : (s.onRegion k f).mgmtSem = s.mgmtSem := rfl
@[simp] theorem State.onRegion_mgmtLast (s : State) (k : Nat) (f : Region → Region) : (s.onRegion k f).mgmtLast = s.mgmtLast := rfl
@[simp] theorem State.onRegion_mgmtOvf (s : State) (k : Nat) (f : Region → Region) : (s.onRegion k f).mgmtOvf = s.mgmtOvf := rfl
@[simp] theorem State.onRegion_errLog (s : State) (k : Nat) (f : Region → Region) : (s.onRegion k f).errLog = s.errLog := rfl
@[simp] theorem State.onRegion_replies (s : State) (k : Nat) (f : Region → Region) : (s.onRegion k f).replies = s.replies := rfl
@[simp] theorem State.onRegion_signals (s : State) (k : Nat) (f : Region → Region) : (s.onRegion k f).signals = s.signals := rfl
@[simp] theorem State.onRegion_spi (s : State) (k : Nat) (f : Region → Region) : (s.onRegion k f).spi = s.spi := rfl
@[simp] theorem State.onRegion_repairs (s : State) (k : Nat) (f : Region → Region) : (s.onRegion k f).repairs = s.repairs := rfl
@[simp] theorem State.onRegion_retired (s : State) (k : Nat) (f : Region → Region) : (s.onRegion k f).retired = s.retired := rfl
@[simp] theorem State.onRegion_burnt (s : State) (k : Nat) (f : Region → Region) : (s.onRegion k f).burnt = s.burnt := rfl
@[simp] theorem State.onRegion_rowErrs (s : State) (k : Nat) (f : Region → Region) : (s.onRegion k f).rowErrs = s.rowErrs := rfl
@[simp] theorem State.onRegion_ecs (s : State) (k : Nat) (f : Region → Region) : (s.onRegion k f).ecs = s.ecs := rfl
@[simp] theorem State.onRegion_postponed (s : State) (k : Nat) (f : Region → Region) : (s.onRegion k f).postponed = s.postponed := rfl
@[simp] theorem State.onRegion_mem (s : State) (k : Nat) (f : Region → Region) : (s.onRegion k f).mem = s.mem := rfl
@[simp] theorem State.onRegion_poison (s : State) (k : Nat) (f : Region → Region) : (s.onRegion k f).poison = s.poison := rfl
@[simp] theorem State.onRegion_hdm0 (s : State) (k : Nat) (f : Region → Region) : (s.onRegion k f).hdm0 = s.hdm0 := rfl
@[simp] theorem State.onRegion_hdm1 (s : State) (k : Nat) (f : Region → Region) : (s.onRegion k f).hdm1 = s.hdm1 := rfl
@[simp] theorem State.onRegion_ioPorts (s : State) (k : Nat) (f : Region → Region) : (s.onRegion k f).ioPorts = s.ioPorts := rfl
@[simp] theorem State.onRegion_hostHeld (s : State) (k : Nat) (f : Region → Region) : (s.onRegion k f).hostHeld = s.hostHeld := rfl
@[simp] theorem State.onRegion_own (s : State) (k : Nat) (f : Region → Region) : (s.onRegion k f).own = s.own := rfl
@[simp] theorem State.onRegion_far (s : State) (k : Nat) (f : Region → Region) : (s.onRegion k f).far = s.far := rfl
@[simp] theorem State.onRegion_peers (s : State) (k : Nat) (f : Region → Region) : (s.onRegion k f).peers = s.peers := rfl
@[simp] theorem State.onRegion_tlb (s : State) (k : Nat) (f : Region → Region) : (s.onRegion k f).tlb = s.tlb := rfl
@[simp] theorem State.onRegion_preqs (s : State) (k : Nat) (f : Region → Region) : (s.onRegion k f).preqs = s.preqs := rfl
@[simp] theorem State.onRegion_wchecks (s : State) (k : Nat) (f : Region → Region) : (s.onRegion k f).wchecks = s.wchecks := rfl
@[simp] theorem State.onRegion_wfaults (s : State) (k : Nat) (f : Region → Region) : (s.onRegion k f).wfaults = s.wfaults := rfl
@[simp] theorem State.onRegion_evPend (s : State) (k : Nat) (f : Region → Region) : (s.onRegion k f).evPend = s.evPend := rfl
@[simp] theorem State.onRegion_l1 (s : State) (k : Nat) (f : Region → Region) : (s.onRegion k f).l1 = s.l1 := rfl
@[simp] theorem State.onRegion_homes (s : State) (k : Nat) (f : Region → Region) : (s.onRegion k f).homes = s.homes := rfl
@[simp] theorem State.onRegion_fills (s : State) (k : Nat) (f : Region → Region) : (s.onRegion k f).fills = s.fills := rfl
@[simp] theorem State.onRegion_wq (s : State) (k : Nat) (f : Region → Region) : (s.onRegion k f).wq = s.wq := rfl
@[simp] theorem State.onRegion_spad (s : State) (k : Nat) (f : Region → Region) : (s.onRegion k f).spad = s.spad := rfl
@[simp] theorem State.onRegion_spadBase (s : State) (k : Nat) (f : Region → Region) : (s.onRegion k f).spadBase = s.spadBase := rfl
@[simp] theorem State.onRegion_spadLog (s : State) (k : Nat) (f : Region → Region) : (s.onRegion k f).spadLog = s.spadLog := rfl
@[simp] theorem State.onRegion_ctxs (s : State) (k : Nat) (f : Region → Region) : (s.onRegion k f).ctxs = s.ctxs := rfl
@[simp] theorem State.onRegion_teams (s : State) (k : Nat) (f : Region → Region) : (s.onRegion k f).teams = s.teams := rfl
@[simp] theorem State.onRegion_cores (s : State) (k : Nat) (f : Region → Region) : (s.onRegion k f).cores = s.cores := rfl
@[simp] theorem State.onRegion_dieTab (s : State) (k : Nat) (f : Region → Region) : (s.onRegion k f).dieTab = s.dieTab := rfl
@[simp] theorem State.onRegion_launches (s : State) (k : Nat) (f : Region → Region) : (s.onRegion k f).launches = s.launches := rfl
@[simp] theorem State.onRegion_watches (s : State) (k : Nat) (f : Region → Region) : (s.onRegion k f).watches = s.watches := rfl
@[simp] theorem State.onRegion_pushes (s : State) (k : Nat) (f : Region → Region) : (s.onRegion k f).pushes = s.pushes := rfl
@[simp] theorem State.onRegion_spawned (s : State) (k : Nat) (f : Region → Region) : (s.onRegion k f).spawned = s.spawned := rfl
@[simp] theorem State.onRegion_ages (s : State) (k : Nat) (f : Region → Region) : (s.onRegion k f).ages = s.ages := rfl
@[simp] theorem State.onRegion_casts (s : State) (k : Nat) (f : Region → Region) : (s.onRegion k f).casts = s.casts := rfl
@[simp] theorem State.onRegion_spills (s : State) (k : Nat) (f : Region → Region) : (s.onRegion k f).spills = s.spills := rfl
@[simp] theorem State.onRegion_stalls (s : State) (k : Nat) (f : Region → Region) : (s.onRegion k f).stalls = s.stalls := rfl
@[simp] theorem State.onRegion_arrivals (s : State) (k : Nat) (f : Region → Region) : (s.onRegion k f).arrivals = s.arrivals := rfl
@[simp] theorem State.onRegion_mail (s : State) (k : Nat) (f : Region → Region) : (s.onRegion k f).mail = s.mail := rfl
@[simp] theorem State.onRegion_hub (s : State) (k : Nat) (f : Region → Region) : (s.onRegion k f).hub = s.hub := rfl
@[simp] theorem State.onRegion_windows (s : State) (k : Nat) (f : Region → Region) : (s.onRegion k f).windows = s.windows := rfl
@[simp] theorem State.onRegion_vents (s : State) (k : Nat) (f : Region → Region) : (s.onRegion k f).vents = s.vents := rfl
@[simp] theorem State.onRegion_ventPmc (s : State) (k : Nat) (f : Region → Region) : (s.onRegion k f).ventPmc = s.ventPmc := rfl
@[simp] theorem State.onRegion_tracked (s : State) (k : Nat) (f : Region → Region) : (s.onRegion k f).tracked = s.tracked := rfl
@[simp] theorem State.onRegion_spec (s : State) (k : Nat) (f : Region → Region) : (s.onRegion k f).spec = s.spec := rfl
@[simp] theorem State.onRegion_ports (s : State) (k : Nat) (f : Region → Region) : (s.onRegion k f).ports = s.ports := rfl
@[simp] theorem State.onRegion_routes (s : State) (k : Nat) (f : Region → Region) : (s.onRegion k f).routes = s.routes := rfl
@[simp] theorem State.onRegion_unsent (s : State) (k : Nat) (f : Region → Region) : (s.onRegion k f).unsent = s.unsent := rfl
@[simp] theorem State.onRegion_committedAt (s : State) (k : Nat) (f : Region → Region) : (s.onRegion k f).committedAt = s.committedAt := rfl
@[simp] theorem State.onRegion_agenda (s : State) (k : Nat) (f : Region → Region) : (s.onRegion k f).agenda = s.agenda := rfl
@[simp] theorem State.onRegion_current (s : State) (k : Nat) (f : Region → Region) : (s.onRegion k f).current = s.current := rfl
@[simp] theorem State.onRegion_order (s : State) (k : Nat) (f : Region → Region) : (s.onRegion k f).order = s.order := rfl
@[simp] theorem State.onRegion_fresh (s : State) (k : Nat) (f : Region → Region) : (s.onRegion k f).fresh = s.fresh := rfl

/-! ## `due` -/

@[simp] theorem State.due_clock (s : State) (i : Instr) : (s.due i).clock = s.clock := rfl
@[simp] theorem State.due_rt (s : State) (i : Instr) : (s.due i).rt = s.rt := rfl
@[simp] theorem State.due_clkStep (s : State) (i : Instr) : (s.due i).clkStep = s.clkStep := rfl
@[simp] theorem State.due_hot (s : State) (i : Instr) : (s.due i).hot = s.hot := rfl
@[simp] theorem State.due_powered (s : State) (i : Instr) : (s.due i).powered = s.powered := rfl
@[simp] theorem State.due_bringUp (s : State) (i : Instr) : (s.due i).bringUp = s.bringUp := rfl
@[simp] theorem State.due_devId (s : State) (i : Instr) : (s.due i).devId = s.devId := rfl
@[simp] theorem State.due_devIdNext (s : State) (i : Instr) : (s.due i).devIdNext = s.devIdNext := rfl
@[simp] theorem State.due_fjExp (s : State) (i : Instr) : (s.due i).fjExp = s.fjExp := rfl
@[simp] theorem State.due_ordMode (s : State) (i : Instr) : (s.due i).ordMode = s.ordMode := rfl
@[simp] theorem State.due_leaseMax (s : State) (i : Instr) : (s.due i).leaseMax = s.leaseMax := rfl
@[simp] theorem State.due_hostIow (s : State) (i : Instr) : (s.due i).hostIow = s.hostIow := rfl
@[simp] theorem State.due_ticket (s : State) (i : Instr) : (s.due i).ticket = s.ticket := rfl
@[simp] theorem State.due_mgmtSem (s : State) (i : Instr) : (s.due i).mgmtSem = s.mgmtSem := rfl
@[simp] theorem State.due_mgmtLast (s : State) (i : Instr) : (s.due i).mgmtLast = s.mgmtLast := rfl
@[simp] theorem State.due_mgmtOvf (s : State) (i : Instr) : (s.due i).mgmtOvf = s.mgmtOvf := rfl
@[simp] theorem State.due_errLog (s : State) (i : Instr) : (s.due i).errLog = s.errLog := rfl
@[simp] theorem State.due_replies (s : State) (i : Instr) : (s.due i).replies = s.replies := rfl
@[simp] theorem State.due_signals (s : State) (i : Instr) : (s.due i).signals = s.signals := rfl
@[simp] theorem State.due_spi (s : State) (i : Instr) : (s.due i).spi = s.spi := rfl
@[simp] theorem State.due_repairs (s : State) (i : Instr) : (s.due i).repairs = s.repairs := rfl
@[simp] theorem State.due_retired (s : State) (i : Instr) : (s.due i).retired = s.retired := rfl
@[simp] theorem State.due_burnt (s : State) (i : Instr) : (s.due i).burnt = s.burnt := rfl
@[simp] theorem State.due_rowErrs (s : State) (i : Instr) : (s.due i).rowErrs = s.rowErrs := rfl
@[simp] theorem State.due_ecs (s : State) (i : Instr) : (s.due i).ecs = s.ecs := rfl
@[simp] theorem State.due_postponed (s : State) (i : Instr) : (s.due i).postponed = s.postponed := rfl
@[simp] theorem State.due_mem (s : State) (i : Instr) : (s.due i).mem = s.mem := rfl
@[simp] theorem State.due_poison (s : State) (i : Instr) : (s.due i).poison = s.poison := rfl
@[simp] theorem State.due_hdm0 (s : State) (i : Instr) : (s.due i).hdm0 = s.hdm0 := rfl
@[simp] theorem State.due_hdm1 (s : State) (i : Instr) : (s.due i).hdm1 = s.hdm1 := rfl
@[simp] theorem State.due_ioPorts (s : State) (i : Instr) : (s.due i).ioPorts = s.ioPorts := rfl
@[simp] theorem State.due_hostHeld (s : State) (i : Instr) : (s.due i).hostHeld = s.hostHeld := rfl
@[simp] theorem State.due_own (s : State) (i : Instr) : (s.due i).own = s.own := rfl
@[simp] theorem State.due_far (s : State) (i : Instr) : (s.due i).far = s.far := rfl
@[simp] theorem State.due_peers (s : State) (i : Instr) : (s.due i).peers = s.peers := rfl
@[simp] theorem State.due_tlb (s : State) (i : Instr) : (s.due i).tlb = s.tlb := rfl
@[simp] theorem State.due_preqs (s : State) (i : Instr) : (s.due i).preqs = s.preqs := rfl
@[simp] theorem State.due_wchecks (s : State) (i : Instr) : (s.due i).wchecks = s.wchecks := rfl
@[simp] theorem State.due_wfaults (s : State) (i : Instr) : (s.due i).wfaults = s.wfaults := rfl
@[simp] theorem State.due_evPend (s : State) (i : Instr) : (s.due i).evPend = s.evPend := rfl
@[simp] theorem State.due_l1 (s : State) (i : Instr) : (s.due i).l1 = s.l1 := rfl
@[simp] theorem State.due_homes (s : State) (i : Instr) : (s.due i).homes = s.homes := rfl
@[simp] theorem State.due_fills (s : State) (i : Instr) : (s.due i).fills = s.fills := rfl
@[simp] theorem State.due_wq (s : State) (i : Instr) : (s.due i).wq = s.wq := rfl
@[simp] theorem State.due_spad (s : State) (i : Instr) : (s.due i).spad = s.spad := rfl
@[simp] theorem State.due_spadBase (s : State) (i : Instr) : (s.due i).spadBase = s.spadBase := rfl
@[simp] theorem State.due_spadLog (s : State) (i : Instr) : (s.due i).spadLog = s.spadLog := rfl
@[simp] theorem State.due_ctxs (s : State) (i : Instr) : (s.due i).ctxs = s.ctxs := rfl
@[simp] theorem State.due_teams (s : State) (i : Instr) : (s.due i).teams = s.teams := rfl
@[simp] theorem State.due_cores (s : State) (i : Instr) : (s.due i).cores = s.cores := rfl
@[simp] theorem State.due_dieTab (s : State) (i : Instr) : (s.due i).dieTab = s.dieTab := rfl
@[simp] theorem State.due_launches (s : State) (i : Instr) : (s.due i).launches = s.launches := rfl
@[simp] theorem State.due_watches (s : State) (i : Instr) : (s.due i).watches = s.watches := rfl
@[simp] theorem State.due_pushes (s : State) (i : Instr) : (s.due i).pushes = s.pushes := rfl
@[simp] theorem State.due_spawned (s : State) (i : Instr) : (s.due i).spawned = s.spawned := rfl
@[simp] theorem State.due_ages (s : State) (i : Instr) : (s.due i).ages = s.ages := rfl
@[simp] theorem State.due_casts (s : State) (i : Instr) : (s.due i).casts = s.casts := rfl
@[simp] theorem State.due_spills (s : State) (i : Instr) : (s.due i).spills = s.spills := rfl
@[simp] theorem State.due_stalls (s : State) (i : Instr) : (s.due i).stalls = s.stalls := rfl
@[simp] theorem State.due_arrivals (s : State) (i : Instr) : (s.due i).arrivals = s.arrivals := rfl
@[simp] theorem State.due_mail (s : State) (i : Instr) : (s.due i).mail = s.mail := rfl
@[simp] theorem State.due_hub (s : State) (i : Instr) : (s.due i).hub = s.hub := rfl
@[simp] theorem State.due_windows (s : State) (i : Instr) : (s.due i).windows = s.windows := rfl
@[simp] theorem State.due_vents (s : State) (i : Instr) : (s.due i).vents = s.vents := rfl
@[simp] theorem State.due_ventPmc (s : State) (i : Instr) : (s.due i).ventPmc = s.ventPmc := rfl
@[simp] theorem State.due_regions (s : State) (i : Instr) : (s.due i).regions = s.regions := rfl
@[simp] theorem State.due_tracked (s : State) (i : Instr) : (s.due i).tracked = s.tracked := rfl
@[simp] theorem State.due_spec (s : State) (i : Instr) : (s.due i).spec = s.spec := rfl
@[simp] theorem State.due_ports (s : State) (i : Instr) : (s.due i).ports = s.ports := rfl
@[simp] theorem State.due_routes (s : State) (i : Instr) : (s.due i).routes = s.routes := rfl
@[simp] theorem State.due_unsent (s : State) (i : Instr) : (s.due i).unsent = s.unsent := rfl
@[simp] theorem State.due_committedAt (s : State) (i : Instr) : (s.due i).committedAt = s.committedAt := rfl
@[simp] theorem State.due_current (s : State) (i : Instr) : (s.due i).current = s.current := rfl
@[simp] theorem State.due_order (s : State) (i : Instr) : (s.due i).order = s.order := rfl
@[simp] theorem State.due_fresh (s : State) (i : Instr) : (s.due i).fresh = s.fresh := rfl

/-! ## `dueFirst` -/

@[simp] theorem State.dueFirst_clock (s : State) (i : Instr) : (s.dueFirst i).clock = s.clock := rfl
@[simp] theorem State.dueFirst_rt (s : State) (i : Instr) : (s.dueFirst i).rt = s.rt := rfl
@[simp] theorem State.dueFirst_clkStep (s : State) (i : Instr) : (s.dueFirst i).clkStep = s.clkStep := rfl
@[simp] theorem State.dueFirst_hot (s : State) (i : Instr) : (s.dueFirst i).hot = s.hot := rfl
@[simp] theorem State.dueFirst_powered (s : State) (i : Instr) : (s.dueFirst i).powered = s.powered := rfl
@[simp] theorem State.dueFirst_bringUp (s : State) (i : Instr) : (s.dueFirst i).bringUp = s.bringUp := rfl
@[simp] theorem State.dueFirst_devId (s : State) (i : Instr) : (s.dueFirst i).devId = s.devId := rfl
@[simp] theorem State.dueFirst_devIdNext (s : State) (i : Instr) : (s.dueFirst i).devIdNext = s.devIdNext := rfl
@[simp] theorem State.dueFirst_fjExp (s : State) (i : Instr) : (s.dueFirst i).fjExp = s.fjExp := rfl
@[simp] theorem State.dueFirst_ordMode (s : State) (i : Instr) : (s.dueFirst i).ordMode = s.ordMode := rfl
@[simp] theorem State.dueFirst_leaseMax (s : State) (i : Instr) : (s.dueFirst i).leaseMax = s.leaseMax := rfl
@[simp] theorem State.dueFirst_hostIow (s : State) (i : Instr) : (s.dueFirst i).hostIow = s.hostIow := rfl
@[simp] theorem State.dueFirst_ticket (s : State) (i : Instr) : (s.dueFirst i).ticket = s.ticket := rfl
@[simp] theorem State.dueFirst_mgmtSem (s : State) (i : Instr) : (s.dueFirst i).mgmtSem = s.mgmtSem := rfl
@[simp] theorem State.dueFirst_mgmtLast (s : State) (i : Instr) : (s.dueFirst i).mgmtLast = s.mgmtLast := rfl
@[simp] theorem State.dueFirst_mgmtOvf (s : State) (i : Instr) : (s.dueFirst i).mgmtOvf = s.mgmtOvf := rfl
@[simp] theorem State.dueFirst_errLog (s : State) (i : Instr) : (s.dueFirst i).errLog = s.errLog := rfl
@[simp] theorem State.dueFirst_replies (s : State) (i : Instr) : (s.dueFirst i).replies = s.replies := rfl
@[simp] theorem State.dueFirst_signals (s : State) (i : Instr) : (s.dueFirst i).signals = s.signals := rfl
@[simp] theorem State.dueFirst_spi (s : State) (i : Instr) : (s.dueFirst i).spi = s.spi := rfl
@[simp] theorem State.dueFirst_repairs (s : State) (i : Instr) : (s.dueFirst i).repairs = s.repairs := rfl
@[simp] theorem State.dueFirst_retired (s : State) (i : Instr) : (s.dueFirst i).retired = s.retired := rfl
@[simp] theorem State.dueFirst_burnt (s : State) (i : Instr) : (s.dueFirst i).burnt = s.burnt := rfl
@[simp] theorem State.dueFirst_rowErrs (s : State) (i : Instr) : (s.dueFirst i).rowErrs = s.rowErrs := rfl
@[simp] theorem State.dueFirst_ecs (s : State) (i : Instr) : (s.dueFirst i).ecs = s.ecs := rfl
@[simp] theorem State.dueFirst_postponed (s : State) (i : Instr) : (s.dueFirst i).postponed = s.postponed := rfl
@[simp] theorem State.dueFirst_mem (s : State) (i : Instr) : (s.dueFirst i).mem = s.mem := rfl
@[simp] theorem State.dueFirst_poison (s : State) (i : Instr) : (s.dueFirst i).poison = s.poison := rfl
@[simp] theorem State.dueFirst_hdm0 (s : State) (i : Instr) : (s.dueFirst i).hdm0 = s.hdm0 := rfl
@[simp] theorem State.dueFirst_hdm1 (s : State) (i : Instr) : (s.dueFirst i).hdm1 = s.hdm1 := rfl
@[simp] theorem State.dueFirst_ioPorts (s : State) (i : Instr) : (s.dueFirst i).ioPorts = s.ioPorts := rfl
@[simp] theorem State.dueFirst_hostHeld (s : State) (i : Instr) : (s.dueFirst i).hostHeld = s.hostHeld := rfl
@[simp] theorem State.dueFirst_own (s : State) (i : Instr) : (s.dueFirst i).own = s.own := rfl
@[simp] theorem State.dueFirst_far (s : State) (i : Instr) : (s.dueFirst i).far = s.far := rfl
@[simp] theorem State.dueFirst_peers (s : State) (i : Instr) : (s.dueFirst i).peers = s.peers := rfl
@[simp] theorem State.dueFirst_tlb (s : State) (i : Instr) : (s.dueFirst i).tlb = s.tlb := rfl
@[simp] theorem State.dueFirst_preqs (s : State) (i : Instr) : (s.dueFirst i).preqs = s.preqs := rfl
@[simp] theorem State.dueFirst_wchecks (s : State) (i : Instr) : (s.dueFirst i).wchecks = s.wchecks := rfl
@[simp] theorem State.dueFirst_wfaults (s : State) (i : Instr) : (s.dueFirst i).wfaults = s.wfaults := rfl
@[simp] theorem State.dueFirst_evPend (s : State) (i : Instr) : (s.dueFirst i).evPend = s.evPend := rfl
@[simp] theorem State.dueFirst_l1 (s : State) (i : Instr) : (s.dueFirst i).l1 = s.l1 := rfl
@[simp] theorem State.dueFirst_homes (s : State) (i : Instr) : (s.dueFirst i).homes = s.homes := rfl
@[simp] theorem State.dueFirst_fills (s : State) (i : Instr) : (s.dueFirst i).fills = s.fills := rfl
@[simp] theorem State.dueFirst_wq (s : State) (i : Instr) : (s.dueFirst i).wq = s.wq := rfl
@[simp] theorem State.dueFirst_spad (s : State) (i : Instr) : (s.dueFirst i).spad = s.spad := rfl
@[simp] theorem State.dueFirst_spadBase (s : State) (i : Instr) : (s.dueFirst i).spadBase = s.spadBase := rfl
@[simp] theorem State.dueFirst_spadLog (s : State) (i : Instr) : (s.dueFirst i).spadLog = s.spadLog := rfl
@[simp] theorem State.dueFirst_ctxs (s : State) (i : Instr) : (s.dueFirst i).ctxs = s.ctxs := rfl
@[simp] theorem State.dueFirst_teams (s : State) (i : Instr) : (s.dueFirst i).teams = s.teams := rfl
@[simp] theorem State.dueFirst_cores (s : State) (i : Instr) : (s.dueFirst i).cores = s.cores := rfl
@[simp] theorem State.dueFirst_dieTab (s : State) (i : Instr) : (s.dueFirst i).dieTab = s.dieTab := rfl
@[simp] theorem State.dueFirst_launches (s : State) (i : Instr) : (s.dueFirst i).launches = s.launches := rfl
@[simp] theorem State.dueFirst_watches (s : State) (i : Instr) : (s.dueFirst i).watches = s.watches := rfl
@[simp] theorem State.dueFirst_pushes (s : State) (i : Instr) : (s.dueFirst i).pushes = s.pushes := rfl
@[simp] theorem State.dueFirst_spawned (s : State) (i : Instr) : (s.dueFirst i).spawned = s.spawned := rfl
@[simp] theorem State.dueFirst_ages (s : State) (i : Instr) : (s.dueFirst i).ages = s.ages := rfl
@[simp] theorem State.dueFirst_casts (s : State) (i : Instr) : (s.dueFirst i).casts = s.casts := rfl
@[simp] theorem State.dueFirst_spills (s : State) (i : Instr) : (s.dueFirst i).spills = s.spills := rfl
@[simp] theorem State.dueFirst_stalls (s : State) (i : Instr) : (s.dueFirst i).stalls = s.stalls := rfl
@[simp] theorem State.dueFirst_arrivals (s : State) (i : Instr) : (s.dueFirst i).arrivals = s.arrivals := rfl
@[simp] theorem State.dueFirst_mail (s : State) (i : Instr) : (s.dueFirst i).mail = s.mail := rfl
@[simp] theorem State.dueFirst_hub (s : State) (i : Instr) : (s.dueFirst i).hub = s.hub := rfl
@[simp] theorem State.dueFirst_windows (s : State) (i : Instr) : (s.dueFirst i).windows = s.windows := rfl
@[simp] theorem State.dueFirst_vents (s : State) (i : Instr) : (s.dueFirst i).vents = s.vents := rfl
@[simp] theorem State.dueFirst_ventPmc (s : State) (i : Instr) : (s.dueFirst i).ventPmc = s.ventPmc := rfl
@[simp] theorem State.dueFirst_regions (s : State) (i : Instr) : (s.dueFirst i).regions = s.regions := rfl
@[simp] theorem State.dueFirst_tracked (s : State) (i : Instr) : (s.dueFirst i).tracked = s.tracked := rfl
@[simp] theorem State.dueFirst_spec (s : State) (i : Instr) : (s.dueFirst i).spec = s.spec := rfl
@[simp] theorem State.dueFirst_ports (s : State) (i : Instr) : (s.dueFirst i).ports = s.ports := rfl
@[simp] theorem State.dueFirst_routes (s : State) (i : Instr) : (s.dueFirst i).routes = s.routes := rfl
@[simp] theorem State.dueFirst_unsent (s : State) (i : Instr) : (s.dueFirst i).unsent = s.unsent := rfl
@[simp] theorem State.dueFirst_committedAt (s : State) (i : Instr) : (s.dueFirst i).committedAt = s.committedAt := rfl
@[simp] theorem State.dueFirst_current (s : State) (i : Instr) : (s.dueFirst i).current = s.current := rfl
@[simp] theorem State.dueFirst_order (s : State) (i : Instr) : (s.dueFirst i).order = s.order := rfl
@[simp] theorem State.dueFirst_fresh (s : State) (i : Instr) : (s.dueFirst i).fresh = s.fresh := rfl

/-! ## `tick1` -/

@[simp] theorem State.tick1_clock (s : State)  : (s.tick1).clock = s.clock := rfl
@[simp] theorem State.tick1_rt (s : State)  : (s.tick1).rt = s.rt := rfl
@[simp] theorem State.tick1_clkStep (s : State)  : (s.tick1).clkStep = s.clkStep := rfl
@[simp] theorem State.tick1_hot (s : State)  : (s.tick1).hot = s.hot := rfl
@[simp] theorem State.tick1_powered (s : State)  : (s.tick1).powered = s.powered := rfl
@[simp] theorem State.tick1_bringUp (s : State)  : (s.tick1).bringUp = s.bringUp := rfl
@[simp] theorem State.tick1_devId (s : State)  : (s.tick1).devId = s.devId := rfl
@[simp] theorem State.tick1_devIdNext (s : State)  : (s.tick1).devIdNext = s.devIdNext := rfl
@[simp] theorem State.tick1_fjExp (s : State)  : (s.tick1).fjExp = s.fjExp := rfl
@[simp] theorem State.tick1_ordMode (s : State)  : (s.tick1).ordMode = s.ordMode := rfl
@[simp] theorem State.tick1_leaseMax (s : State)  : (s.tick1).leaseMax = s.leaseMax := rfl
@[simp] theorem State.tick1_hostIow (s : State)  : (s.tick1).hostIow = s.hostIow := rfl
@[simp] theorem State.tick1_ticket (s : State)  : (s.tick1).ticket = s.ticket := rfl
@[simp] theorem State.tick1_mgmtSem (s : State)  : (s.tick1).mgmtSem = s.mgmtSem := rfl
@[simp] theorem State.tick1_mgmtLast (s : State)  : (s.tick1).mgmtLast = s.mgmtLast := rfl
@[simp] theorem State.tick1_mgmtOvf (s : State)  : (s.tick1).mgmtOvf = s.mgmtOvf := rfl
@[simp] theorem State.tick1_errLog (s : State)  : (s.tick1).errLog = s.errLog := rfl
@[simp] theorem State.tick1_replies (s : State)  : (s.tick1).replies = s.replies := rfl
@[simp] theorem State.tick1_signals (s : State)  : (s.tick1).signals = s.signals := rfl
@[simp] theorem State.tick1_spi (s : State)  : (s.tick1).spi = s.spi := rfl
@[simp] theorem State.tick1_repairs (s : State)  : (s.tick1).repairs = s.repairs := rfl
@[simp] theorem State.tick1_retired (s : State)  : (s.tick1).retired = s.retired := rfl
@[simp] theorem State.tick1_burnt (s : State)  : (s.tick1).burnt = s.burnt := rfl
@[simp] theorem State.tick1_rowErrs (s : State)  : (s.tick1).rowErrs = s.rowErrs := rfl
@[simp] theorem State.tick1_ecs (s : State)  : (s.tick1).ecs = s.ecs := rfl
@[simp] theorem State.tick1_postponed (s : State)  : (s.tick1).postponed = s.postponed := rfl
@[simp] theorem State.tick1_mem (s : State)  : (s.tick1).mem = s.mem := rfl
@[simp] theorem State.tick1_poison (s : State)  : (s.tick1).poison = s.poison := rfl
@[simp] theorem State.tick1_hdm0 (s : State)  : (s.tick1).hdm0 = s.hdm0 := rfl
@[simp] theorem State.tick1_hdm1 (s : State)  : (s.tick1).hdm1 = s.hdm1 := rfl
@[simp] theorem State.tick1_ioPorts (s : State)  : (s.tick1).ioPorts = s.ioPorts := rfl
@[simp] theorem State.tick1_hostHeld (s : State)  : (s.tick1).hostHeld = s.hostHeld := rfl
@[simp] theorem State.tick1_own (s : State)  : (s.tick1).own = s.own := rfl
@[simp] theorem State.tick1_far (s : State)  : (s.tick1).far = s.far := rfl
@[simp] theorem State.tick1_peers (s : State)  : (s.tick1).peers = s.peers := rfl
@[simp] theorem State.tick1_tlb (s : State)  : (s.tick1).tlb = s.tlb := rfl
@[simp] theorem State.tick1_preqs (s : State)  : (s.tick1).preqs = s.preqs := rfl
@[simp] theorem State.tick1_wchecks (s : State)  : (s.tick1).wchecks = s.wchecks := rfl
@[simp] theorem State.tick1_wfaults (s : State)  : (s.tick1).wfaults = s.wfaults := rfl
@[simp] theorem State.tick1_evPend (s : State)  : (s.tick1).evPend = s.evPend := rfl
@[simp] theorem State.tick1_l1 (s : State)  : (s.tick1).l1 = s.l1 := rfl
@[simp] theorem State.tick1_homes (s : State)  : (s.tick1).homes = s.homes := rfl
@[simp] theorem State.tick1_fills (s : State)  : (s.tick1).fills = s.fills := rfl
@[simp] theorem State.tick1_wq (s : State)  : (s.tick1).wq = s.wq := rfl
@[simp] theorem State.tick1_spad (s : State)  : (s.tick1).spad = s.spad := rfl
@[simp] theorem State.tick1_spadBase (s : State)  : (s.tick1).spadBase = s.spadBase := rfl
@[simp] theorem State.tick1_spadLog (s : State)  : (s.tick1).spadLog = s.spadLog := rfl
@[simp] theorem State.tick1_ctxs (s : State)  : (s.tick1).ctxs = s.ctxs := rfl
@[simp] theorem State.tick1_teams (s : State)  : (s.tick1).teams = s.teams := rfl
@[simp] theorem State.tick1_cores (s : State)  : (s.tick1).cores = s.cores := rfl
@[simp] theorem State.tick1_dieTab (s : State)  : (s.tick1).dieTab = s.dieTab := rfl
@[simp] theorem State.tick1_launches (s : State)  : (s.tick1).launches = s.launches := rfl
@[simp] theorem State.tick1_watches (s : State)  : (s.tick1).watches = s.watches := rfl
@[simp] theorem State.tick1_pushes (s : State)  : (s.tick1).pushes = s.pushes := rfl
@[simp] theorem State.tick1_spawned (s : State)  : (s.tick1).spawned = s.spawned := rfl
@[simp] theorem State.tick1_ages (s : State)  : (s.tick1).ages = s.ages := rfl
@[simp] theorem State.tick1_casts (s : State)  : (s.tick1).casts = s.casts := rfl
@[simp] theorem State.tick1_spills (s : State)  : (s.tick1).spills = s.spills := rfl
@[simp] theorem State.tick1_stalls (s : State)  : (s.tick1).stalls = s.stalls := rfl
@[simp] theorem State.tick1_arrivals (s : State)  : (s.tick1).arrivals = s.arrivals := rfl
@[simp] theorem State.tick1_mail (s : State)  : (s.tick1).mail = s.mail := rfl
@[simp] theorem State.tick1_hub (s : State)  : (s.tick1).hub = s.hub := rfl
@[simp] theorem State.tick1_windows (s : State)  : (s.tick1).windows = s.windows := rfl
@[simp] theorem State.tick1_vents (s : State)  : (s.tick1).vents = s.vents := rfl
@[simp] theorem State.tick1_ventPmc (s : State)  : (s.tick1).ventPmc = s.ventPmc := rfl
@[simp] theorem State.tick1_regions (s : State)  : (s.tick1).regions = s.regions := rfl
@[simp] theorem State.tick1_tracked (s : State)  : (s.tick1).tracked = s.tracked := rfl
@[simp] theorem State.tick1_spec (s : State)  : (s.tick1).spec = s.spec := rfl
@[simp] theorem State.tick1_ports (s : State)  : (s.tick1).ports = s.ports := rfl
@[simp] theorem State.tick1_routes (s : State)  : (s.tick1).routes = s.routes := rfl
@[simp] theorem State.tick1_unsent (s : State)  : (s.tick1).unsent = s.unsent := rfl
@[simp] theorem State.tick1_committedAt (s : State)  : (s.tick1).committedAt = s.committedAt := rfl
@[simp] theorem State.tick1_agenda (s : State)  : (s.tick1).agenda = s.agenda := rfl
@[simp] theorem State.tick1_current (s : State)  : (s.tick1).current = s.current := rfl
@[simp] theorem State.tick1_order (s : State)  : (s.tick1).order = s.order := rfl

/-! ## `nextOrder` -/

@[simp] theorem State.nextOrder_clock (s : State)  : (s.nextOrder).clock = s.clock := rfl
@[simp] theorem State.nextOrder_rt (s : State)  : (s.nextOrder).rt = s.rt := rfl
@[simp] theorem State.nextOrder_clkStep (s : State)  : (s.nextOrder).clkStep = s.clkStep := rfl
@[simp] theorem State.nextOrder_hot (s : State)  : (s.nextOrder).hot = s.hot := rfl
@[simp] theorem State.nextOrder_powered (s : State)  : (s.nextOrder).powered = s.powered := rfl
@[simp] theorem State.nextOrder_bringUp (s : State)  : (s.nextOrder).bringUp = s.bringUp := rfl
@[simp] theorem State.nextOrder_devId (s : State)  : (s.nextOrder).devId = s.devId := rfl
@[simp] theorem State.nextOrder_devIdNext (s : State)  : (s.nextOrder).devIdNext = s.devIdNext := rfl
@[simp] theorem State.nextOrder_fjExp (s : State)  : (s.nextOrder).fjExp = s.fjExp := rfl
@[simp] theorem State.nextOrder_ordMode (s : State)  : (s.nextOrder).ordMode = s.ordMode := rfl
@[simp] theorem State.nextOrder_leaseMax (s : State)  : (s.nextOrder).leaseMax = s.leaseMax := rfl
@[simp] theorem State.nextOrder_hostIow (s : State)  : (s.nextOrder).hostIow = s.hostIow := rfl
@[simp] theorem State.nextOrder_ticket (s : State)  : (s.nextOrder).ticket = s.ticket := rfl
@[simp] theorem State.nextOrder_mgmtSem (s : State)  : (s.nextOrder).mgmtSem = s.mgmtSem := rfl
@[simp] theorem State.nextOrder_mgmtLast (s : State)  : (s.nextOrder).mgmtLast = s.mgmtLast := rfl
@[simp] theorem State.nextOrder_mgmtOvf (s : State)  : (s.nextOrder).mgmtOvf = s.mgmtOvf := rfl
@[simp] theorem State.nextOrder_errLog (s : State)  : (s.nextOrder).errLog = s.errLog := rfl
@[simp] theorem State.nextOrder_replies (s : State)  : (s.nextOrder).replies = s.replies := rfl
@[simp] theorem State.nextOrder_signals (s : State)  : (s.nextOrder).signals = s.signals := rfl
@[simp] theorem State.nextOrder_spi (s : State)  : (s.nextOrder).spi = s.spi := rfl
@[simp] theorem State.nextOrder_repairs (s : State)  : (s.nextOrder).repairs = s.repairs := rfl
@[simp] theorem State.nextOrder_retired (s : State)  : (s.nextOrder).retired = s.retired := rfl
@[simp] theorem State.nextOrder_burnt (s : State)  : (s.nextOrder).burnt = s.burnt := rfl
@[simp] theorem State.nextOrder_rowErrs (s : State)  : (s.nextOrder).rowErrs = s.rowErrs := rfl
@[simp] theorem State.nextOrder_ecs (s : State)  : (s.nextOrder).ecs = s.ecs := rfl
@[simp] theorem State.nextOrder_postponed (s : State)  : (s.nextOrder).postponed = s.postponed := rfl
@[simp] theorem State.nextOrder_mem (s : State)  : (s.nextOrder).mem = s.mem := rfl
@[simp] theorem State.nextOrder_poison (s : State)  : (s.nextOrder).poison = s.poison := rfl
@[simp] theorem State.nextOrder_hdm0 (s : State)  : (s.nextOrder).hdm0 = s.hdm0 := rfl
@[simp] theorem State.nextOrder_hdm1 (s : State)  : (s.nextOrder).hdm1 = s.hdm1 := rfl
@[simp] theorem State.nextOrder_ioPorts (s : State)  : (s.nextOrder).ioPorts = s.ioPorts := rfl
@[simp] theorem State.nextOrder_hostHeld (s : State)  : (s.nextOrder).hostHeld = s.hostHeld := rfl
@[simp] theorem State.nextOrder_own (s : State)  : (s.nextOrder).own = s.own := rfl
@[simp] theorem State.nextOrder_far (s : State)  : (s.nextOrder).far = s.far := rfl
@[simp] theorem State.nextOrder_peers (s : State)  : (s.nextOrder).peers = s.peers := rfl
@[simp] theorem State.nextOrder_tlb (s : State)  : (s.nextOrder).tlb = s.tlb := rfl
@[simp] theorem State.nextOrder_preqs (s : State)  : (s.nextOrder).preqs = s.preqs := rfl
@[simp] theorem State.nextOrder_wchecks (s : State)  : (s.nextOrder).wchecks = s.wchecks := rfl
@[simp] theorem State.nextOrder_wfaults (s : State)  : (s.nextOrder).wfaults = s.wfaults := rfl
@[simp] theorem State.nextOrder_evPend (s : State)  : (s.nextOrder).evPend = s.evPend := rfl
@[simp] theorem State.nextOrder_l1 (s : State)  : (s.nextOrder).l1 = s.l1 := rfl
@[simp] theorem State.nextOrder_homes (s : State)  : (s.nextOrder).homes = s.homes := rfl
@[simp] theorem State.nextOrder_fills (s : State)  : (s.nextOrder).fills = s.fills := rfl
@[simp] theorem State.nextOrder_wq (s : State)  : (s.nextOrder).wq = s.wq := rfl
@[simp] theorem State.nextOrder_spad (s : State)  : (s.nextOrder).spad = s.spad := rfl
@[simp] theorem State.nextOrder_spadBase (s : State)  : (s.nextOrder).spadBase = s.spadBase := rfl
@[simp] theorem State.nextOrder_spadLog (s : State)  : (s.nextOrder).spadLog = s.spadLog := rfl
@[simp] theorem State.nextOrder_ctxs (s : State)  : (s.nextOrder).ctxs = s.ctxs := rfl
@[simp] theorem State.nextOrder_teams (s : State)  : (s.nextOrder).teams = s.teams := rfl
@[simp] theorem State.nextOrder_cores (s : State)  : (s.nextOrder).cores = s.cores := rfl
@[simp] theorem State.nextOrder_dieTab (s : State)  : (s.nextOrder).dieTab = s.dieTab := rfl
@[simp] theorem State.nextOrder_launches (s : State)  : (s.nextOrder).launches = s.launches := rfl
@[simp] theorem State.nextOrder_watches (s : State)  : (s.nextOrder).watches = s.watches := rfl
@[simp] theorem State.nextOrder_pushes (s : State)  : (s.nextOrder).pushes = s.pushes := rfl
@[simp] theorem State.nextOrder_spawned (s : State)  : (s.nextOrder).spawned = s.spawned := rfl
@[simp] theorem State.nextOrder_ages (s : State)  : (s.nextOrder).ages = s.ages := rfl
@[simp] theorem State.nextOrder_casts (s : State)  : (s.nextOrder).casts = s.casts := rfl
@[simp] theorem State.nextOrder_spills (s : State)  : (s.nextOrder).spills = s.spills := rfl
@[simp] theorem State.nextOrder_stalls (s : State)  : (s.nextOrder).stalls = s.stalls := rfl
@[simp] theorem State.nextOrder_arrivals (s : State)  : (s.nextOrder).arrivals = s.arrivals := rfl
@[simp] theorem State.nextOrder_mail (s : State)  : (s.nextOrder).mail = s.mail := rfl
@[simp] theorem State.nextOrder_hub (s : State)  : (s.nextOrder).hub = s.hub := rfl
@[simp] theorem State.nextOrder_windows (s : State)  : (s.nextOrder).windows = s.windows := rfl
@[simp] theorem State.nextOrder_vents (s : State)  : (s.nextOrder).vents = s.vents := rfl
@[simp] theorem State.nextOrder_ventPmc (s : State)  : (s.nextOrder).ventPmc = s.ventPmc := rfl
@[simp] theorem State.nextOrder_regions (s : State)  : (s.nextOrder).regions = s.regions := rfl
@[simp] theorem State.nextOrder_tracked (s : State)  : (s.nextOrder).tracked = s.tracked := rfl
@[simp] theorem State.nextOrder_spec (s : State)  : (s.nextOrder).spec = s.spec := rfl
@[simp] theorem State.nextOrder_ports (s : State)  : (s.nextOrder).ports = s.ports := rfl
@[simp] theorem State.nextOrder_routes (s : State)  : (s.nextOrder).routes = s.routes := rfl
@[simp] theorem State.nextOrder_unsent (s : State)  : (s.nextOrder).unsent = s.unsent := rfl
@[simp] theorem State.nextOrder_committedAt (s : State)  : (s.nextOrder).committedAt = s.committedAt := rfl
@[simp] theorem State.nextOrder_agenda (s : State)  : (s.nextOrder).agenda = s.agenda := rfl
@[simp] theorem State.nextOrder_current (s : State)  : (s.nextOrder).current = s.current := rfl
@[simp] theorem State.nextOrder_fresh (s : State)  : (s.nextOrder).fresh = s.fresh := rfl

/-! ## `onTeam` -/

@[simp] theorem State.onTeam_clock (s : State) (k : Nat) (f : Team → Team) : (s.onTeam k f).clock = s.clock := by unfold State.onTeam; split <;> rfl
@[simp] theorem State.onTeam_rt (s : State) (k : Nat) (f : Team → Team) : (s.onTeam k f).rt = s.rt := by unfold State.onTeam; split <;> rfl
@[simp] theorem State.onTeam_clkStep (s : State) (k : Nat) (f : Team → Team) : (s.onTeam k f).clkStep = s.clkStep := by unfold State.onTeam; split <;> rfl
@[simp] theorem State.onTeam_hot (s : State) (k : Nat) (f : Team → Team) : (s.onTeam k f).hot = s.hot := by unfold State.onTeam; split <;> rfl
@[simp] theorem State.onTeam_powered (s : State) (k : Nat) (f : Team → Team) : (s.onTeam k f).powered = s.powered := by unfold State.onTeam; split <;> rfl
@[simp] theorem State.onTeam_bringUp (s : State) (k : Nat) (f : Team → Team) : (s.onTeam k f).bringUp = s.bringUp := by unfold State.onTeam; split <;> rfl
@[simp] theorem State.onTeam_devId (s : State) (k : Nat) (f : Team → Team) : (s.onTeam k f).devId = s.devId := by unfold State.onTeam; split <;> rfl
@[simp] theorem State.onTeam_devIdNext (s : State) (k : Nat) (f : Team → Team) : (s.onTeam k f).devIdNext = s.devIdNext := by unfold State.onTeam; split <;> rfl
@[simp] theorem State.onTeam_fjExp (s : State) (k : Nat) (f : Team → Team) : (s.onTeam k f).fjExp = s.fjExp := by unfold State.onTeam; split <;> rfl
@[simp] theorem State.onTeam_ordMode (s : State) (k : Nat) (f : Team → Team) : (s.onTeam k f).ordMode = s.ordMode := by unfold State.onTeam; split <;> rfl
@[simp] theorem State.onTeam_leaseMax (s : State) (k : Nat) (f : Team → Team) : (s.onTeam k f).leaseMax = s.leaseMax := by unfold State.onTeam; split <;> rfl
@[simp] theorem State.onTeam_hostIow (s : State) (k : Nat) (f : Team → Team) : (s.onTeam k f).hostIow = s.hostIow := by unfold State.onTeam; split <;> rfl
@[simp] theorem State.onTeam_ticket (s : State) (k : Nat) (f : Team → Team) : (s.onTeam k f).ticket = s.ticket := by unfold State.onTeam; split <;> rfl
@[simp] theorem State.onTeam_mgmtSem (s : State) (k : Nat) (f : Team → Team) : (s.onTeam k f).mgmtSem = s.mgmtSem := by unfold State.onTeam; split <;> rfl
@[simp] theorem State.onTeam_mgmtLast (s : State) (k : Nat) (f : Team → Team) : (s.onTeam k f).mgmtLast = s.mgmtLast := by unfold State.onTeam; split <;> rfl
@[simp] theorem State.onTeam_mgmtOvf (s : State) (k : Nat) (f : Team → Team) : (s.onTeam k f).mgmtOvf = s.mgmtOvf := by unfold State.onTeam; split <;> rfl
@[simp] theorem State.onTeam_errLog (s : State) (k : Nat) (f : Team → Team) : (s.onTeam k f).errLog = s.errLog := by unfold State.onTeam; split <;> rfl
@[simp] theorem State.onTeam_replies (s : State) (k : Nat) (f : Team → Team) : (s.onTeam k f).replies = s.replies := by unfold State.onTeam; split <;> rfl
@[simp] theorem State.onTeam_signals (s : State) (k : Nat) (f : Team → Team) : (s.onTeam k f).signals = s.signals := by unfold State.onTeam; split <;> rfl
@[simp] theorem State.onTeam_spi (s : State) (k : Nat) (f : Team → Team) : (s.onTeam k f).spi = s.spi := by unfold State.onTeam; split <;> rfl
@[simp] theorem State.onTeam_repairs (s : State) (k : Nat) (f : Team → Team) : (s.onTeam k f).repairs = s.repairs := by unfold State.onTeam; split <;> rfl
@[simp] theorem State.onTeam_retired (s : State) (k : Nat) (f : Team → Team) : (s.onTeam k f).retired = s.retired := by unfold State.onTeam; split <;> rfl
@[simp] theorem State.onTeam_burnt (s : State) (k : Nat) (f : Team → Team) : (s.onTeam k f).burnt = s.burnt := by unfold State.onTeam; split <;> rfl
@[simp] theorem State.onTeam_rowErrs (s : State) (k : Nat) (f : Team → Team) : (s.onTeam k f).rowErrs = s.rowErrs := by unfold State.onTeam; split <;> rfl
@[simp] theorem State.onTeam_ecs (s : State) (k : Nat) (f : Team → Team) : (s.onTeam k f).ecs = s.ecs := by unfold State.onTeam; split <;> rfl
@[simp] theorem State.onTeam_postponed (s : State) (k : Nat) (f : Team → Team) : (s.onTeam k f).postponed = s.postponed := by unfold State.onTeam; split <;> rfl
@[simp] theorem State.onTeam_mem (s : State) (k : Nat) (f : Team → Team) : (s.onTeam k f).mem = s.mem := by unfold State.onTeam; split <;> rfl
@[simp] theorem State.onTeam_poison (s : State) (k : Nat) (f : Team → Team) : (s.onTeam k f).poison = s.poison := by unfold State.onTeam; split <;> rfl
@[simp] theorem State.onTeam_hdm0 (s : State) (k : Nat) (f : Team → Team) : (s.onTeam k f).hdm0 = s.hdm0 := by unfold State.onTeam; split <;> rfl
@[simp] theorem State.onTeam_hdm1 (s : State) (k : Nat) (f : Team → Team) : (s.onTeam k f).hdm1 = s.hdm1 := by unfold State.onTeam; split <;> rfl
@[simp] theorem State.onTeam_ioPorts (s : State) (k : Nat) (f : Team → Team) : (s.onTeam k f).ioPorts = s.ioPorts := by unfold State.onTeam; split <;> rfl
@[simp] theorem State.onTeam_hostHeld (s : State) (k : Nat) (f : Team → Team) : (s.onTeam k f).hostHeld = s.hostHeld := by unfold State.onTeam; split <;> rfl
@[simp] theorem State.onTeam_own (s : State) (k : Nat) (f : Team → Team) : (s.onTeam k f).own = s.own := by unfold State.onTeam; split <;> rfl
@[simp] theorem State.onTeam_far (s : State) (k : Nat) (f : Team → Team) : (s.onTeam k f).far = s.far := by unfold State.onTeam; split <;> rfl
@[simp] theorem State.onTeam_peers (s : State) (k : Nat) (f : Team → Team) : (s.onTeam k f).peers = s.peers := by unfold State.onTeam; split <;> rfl
@[simp] theorem State.onTeam_tlb (s : State) (k : Nat) (f : Team → Team) : (s.onTeam k f).tlb = s.tlb := by unfold State.onTeam; split <;> rfl
@[simp] theorem State.onTeam_preqs (s : State) (k : Nat) (f : Team → Team) : (s.onTeam k f).preqs = s.preqs := by unfold State.onTeam; split <;> rfl
@[simp] theorem State.onTeam_wchecks (s : State) (k : Nat) (f : Team → Team) : (s.onTeam k f).wchecks = s.wchecks := by unfold State.onTeam; split <;> rfl
@[simp] theorem State.onTeam_wfaults (s : State) (k : Nat) (f : Team → Team) : (s.onTeam k f).wfaults = s.wfaults := by unfold State.onTeam; split <;> rfl
@[simp] theorem State.onTeam_evPend (s : State) (k : Nat) (f : Team → Team) : (s.onTeam k f).evPend = s.evPend := by unfold State.onTeam; split <;> rfl
@[simp] theorem State.onTeam_l1 (s : State) (k : Nat) (f : Team → Team) : (s.onTeam k f).l1 = s.l1 := by unfold State.onTeam; split <;> rfl
@[simp] theorem State.onTeam_homes (s : State) (k : Nat) (f : Team → Team) : (s.onTeam k f).homes = s.homes := by unfold State.onTeam; split <;> rfl
@[simp] theorem State.onTeam_fills (s : State) (k : Nat) (f : Team → Team) : (s.onTeam k f).fills = s.fills := by unfold State.onTeam; split <;> rfl
@[simp] theorem State.onTeam_wq (s : State) (k : Nat) (f : Team → Team) : (s.onTeam k f).wq = s.wq := by unfold State.onTeam; split <;> rfl
@[simp] theorem State.onTeam_spad (s : State) (k : Nat) (f : Team → Team) : (s.onTeam k f).spad = s.spad := by unfold State.onTeam; split <;> rfl
@[simp] theorem State.onTeam_spadBase (s : State) (k : Nat) (f : Team → Team) : (s.onTeam k f).spadBase = s.spadBase := by unfold State.onTeam; split <;> rfl
@[simp] theorem State.onTeam_spadLog (s : State) (k : Nat) (f : Team → Team) : (s.onTeam k f).spadLog = s.spadLog := by unfold State.onTeam; split <;> rfl
@[simp] theorem State.onTeam_ctxs (s : State) (k : Nat) (f : Team → Team) : (s.onTeam k f).ctxs = s.ctxs := by unfold State.onTeam; split <;> rfl
@[simp] theorem State.onTeam_cores (s : State) (k : Nat) (f : Team → Team) : (s.onTeam k f).cores = s.cores := by unfold State.onTeam; split <;> rfl
@[simp] theorem State.onTeam_dieTab (s : State) (k : Nat) (f : Team → Team) : (s.onTeam k f).dieTab = s.dieTab := by unfold State.onTeam; split <;> rfl
@[simp] theorem State.onTeam_launches (s : State) (k : Nat) (f : Team → Team) : (s.onTeam k f).launches = s.launches := by unfold State.onTeam; split <;> rfl
@[simp] theorem State.onTeam_watches (s : State) (k : Nat) (f : Team → Team) : (s.onTeam k f).watches = s.watches := by unfold State.onTeam; split <;> rfl
@[simp] theorem State.onTeam_pushes (s : State) (k : Nat) (f : Team → Team) : (s.onTeam k f).pushes = s.pushes := by unfold State.onTeam; split <;> rfl
@[simp] theorem State.onTeam_spawned (s : State) (k : Nat) (f : Team → Team) : (s.onTeam k f).spawned = s.spawned := by unfold State.onTeam; split <;> rfl
@[simp] theorem State.onTeam_ages (s : State) (k : Nat) (f : Team → Team) : (s.onTeam k f).ages = s.ages := by unfold State.onTeam; split <;> rfl
@[simp] theorem State.onTeam_casts (s : State) (k : Nat) (f : Team → Team) : (s.onTeam k f).casts = s.casts := by unfold State.onTeam; split <;> rfl
@[simp] theorem State.onTeam_spills (s : State) (k : Nat) (f : Team → Team) : (s.onTeam k f).spills = s.spills := by unfold State.onTeam; split <;> rfl
@[simp] theorem State.onTeam_stalls (s : State) (k : Nat) (f : Team → Team) : (s.onTeam k f).stalls = s.stalls := by unfold State.onTeam; split <;> rfl
@[simp] theorem State.onTeam_arrivals (s : State) (k : Nat) (f : Team → Team) : (s.onTeam k f).arrivals = s.arrivals := by unfold State.onTeam; split <;> rfl
@[simp] theorem State.onTeam_mail (s : State) (k : Nat) (f : Team → Team) : (s.onTeam k f).mail = s.mail := by unfold State.onTeam; split <;> rfl
@[simp] theorem State.onTeam_hub (s : State) (k : Nat) (f : Team → Team) : (s.onTeam k f).hub = s.hub := by unfold State.onTeam; split <;> rfl
@[simp] theorem State.onTeam_windows (s : State) (k : Nat) (f : Team → Team) : (s.onTeam k f).windows = s.windows := by unfold State.onTeam; split <;> rfl
@[simp] theorem State.onTeam_vents (s : State) (k : Nat) (f : Team → Team) : (s.onTeam k f).vents = s.vents := by unfold State.onTeam; split <;> rfl
@[simp] theorem State.onTeam_ventPmc (s : State) (k : Nat) (f : Team → Team) : (s.onTeam k f).ventPmc = s.ventPmc := by unfold State.onTeam; split <;> rfl
@[simp] theorem State.onTeam_regions (s : State) (k : Nat) (f : Team → Team) : (s.onTeam k f).regions = s.regions := by unfold State.onTeam; split <;> rfl
@[simp] theorem State.onTeam_tracked (s : State) (k : Nat) (f : Team → Team) : (s.onTeam k f).tracked = s.tracked := by unfold State.onTeam; split <;> rfl
@[simp] theorem State.onTeam_spec (s : State) (k : Nat) (f : Team → Team) : (s.onTeam k f).spec = s.spec := by unfold State.onTeam; split <;> rfl
@[simp] theorem State.onTeam_ports (s : State) (k : Nat) (f : Team → Team) : (s.onTeam k f).ports = s.ports := by unfold State.onTeam; split <;> rfl
@[simp] theorem State.onTeam_routes (s : State) (k : Nat) (f : Team → Team) : (s.onTeam k f).routes = s.routes := by unfold State.onTeam; split <;> rfl
@[simp] theorem State.onTeam_unsent (s : State) (k : Nat) (f : Team → Team) : (s.onTeam k f).unsent = s.unsent := by unfold State.onTeam; split <;> rfl
@[simp] theorem State.onTeam_committedAt (s : State) (k : Nat) (f : Team → Team) : (s.onTeam k f).committedAt = s.committedAt := by unfold State.onTeam; split <;> rfl
@[simp] theorem State.onTeam_agenda (s : State) (k : Nat) (f : Team → Team) : (s.onTeam k f).agenda = s.agenda := by unfold State.onTeam; split <;> rfl
@[simp] theorem State.onTeam_current (s : State) (k : Nat) (f : Team → Team) : (s.onTeam k f).current = s.current := by unfold State.onTeam; split <;> rfl
@[simp] theorem State.onTeam_order (s : State) (k : Nat) (f : Team → Team) : (s.onTeam k f).order = s.order := by unfold State.onTeam; split <;> rfl
@[simp] theorem State.onTeam_fresh (s : State) (k : Nat) (f : Team → Team) : (s.onTeam k f).fresh = s.fresh := by unfold State.onTeam; split <;> rfl

/-! ## `onCtx` -/

@[simp] theorem State.onCtx_clock (s : State) (k : Nat) (f : Ctx → Ctx) : (s.onCtx k f).clock = s.clock := by unfold State.onCtx; split <;> rfl
@[simp] theorem State.onCtx_rt (s : State) (k : Nat) (f : Ctx → Ctx) : (s.onCtx k f).rt = s.rt := by unfold State.onCtx; split <;> rfl
@[simp] theorem State.onCtx_clkStep (s : State) (k : Nat) (f : Ctx → Ctx) : (s.onCtx k f).clkStep = s.clkStep := by unfold State.onCtx; split <;> rfl
@[simp] theorem State.onCtx_hot (s : State) (k : Nat) (f : Ctx → Ctx) : (s.onCtx k f).hot = s.hot := by unfold State.onCtx; split <;> rfl
@[simp] theorem State.onCtx_powered (s : State) (k : Nat) (f : Ctx → Ctx) : (s.onCtx k f).powered = s.powered := by unfold State.onCtx; split <;> rfl
@[simp] theorem State.onCtx_bringUp (s : State) (k : Nat) (f : Ctx → Ctx) : (s.onCtx k f).bringUp = s.bringUp := by unfold State.onCtx; split <;> rfl
@[simp] theorem State.onCtx_devId (s : State) (k : Nat) (f : Ctx → Ctx) : (s.onCtx k f).devId = s.devId := by unfold State.onCtx; split <;> rfl
@[simp] theorem State.onCtx_devIdNext (s : State) (k : Nat) (f : Ctx → Ctx) : (s.onCtx k f).devIdNext = s.devIdNext := by unfold State.onCtx; split <;> rfl
@[simp] theorem State.onCtx_fjExp (s : State) (k : Nat) (f : Ctx → Ctx) : (s.onCtx k f).fjExp = s.fjExp := by unfold State.onCtx; split <;> rfl
@[simp] theorem State.onCtx_ordMode (s : State) (k : Nat) (f : Ctx → Ctx) : (s.onCtx k f).ordMode = s.ordMode := by unfold State.onCtx; split <;> rfl
@[simp] theorem State.onCtx_leaseMax (s : State) (k : Nat) (f : Ctx → Ctx) : (s.onCtx k f).leaseMax = s.leaseMax := by unfold State.onCtx; split <;> rfl
@[simp] theorem State.onCtx_hostIow (s : State) (k : Nat) (f : Ctx → Ctx) : (s.onCtx k f).hostIow = s.hostIow := by unfold State.onCtx; split <;> rfl
@[simp] theorem State.onCtx_ticket (s : State) (k : Nat) (f : Ctx → Ctx) : (s.onCtx k f).ticket = s.ticket := by unfold State.onCtx; split <;> rfl
@[simp] theorem State.onCtx_mgmtSem (s : State) (k : Nat) (f : Ctx → Ctx) : (s.onCtx k f).mgmtSem = s.mgmtSem := by unfold State.onCtx; split <;> rfl
@[simp] theorem State.onCtx_mgmtLast (s : State) (k : Nat) (f : Ctx → Ctx) : (s.onCtx k f).mgmtLast = s.mgmtLast := by unfold State.onCtx; split <;> rfl
@[simp] theorem State.onCtx_mgmtOvf (s : State) (k : Nat) (f : Ctx → Ctx) : (s.onCtx k f).mgmtOvf = s.mgmtOvf := by unfold State.onCtx; split <;> rfl
@[simp] theorem State.onCtx_errLog (s : State) (k : Nat) (f : Ctx → Ctx) : (s.onCtx k f).errLog = s.errLog := by unfold State.onCtx; split <;> rfl
@[simp] theorem State.onCtx_replies (s : State) (k : Nat) (f : Ctx → Ctx) : (s.onCtx k f).replies = s.replies := by unfold State.onCtx; split <;> rfl
@[simp] theorem State.onCtx_signals (s : State) (k : Nat) (f : Ctx → Ctx) : (s.onCtx k f).signals = s.signals := by unfold State.onCtx; split <;> rfl
@[simp] theorem State.onCtx_spi (s : State) (k : Nat) (f : Ctx → Ctx) : (s.onCtx k f).spi = s.spi := by unfold State.onCtx; split <;> rfl
@[simp] theorem State.onCtx_repairs (s : State) (k : Nat) (f : Ctx → Ctx) : (s.onCtx k f).repairs = s.repairs := by unfold State.onCtx; split <;> rfl
@[simp] theorem State.onCtx_retired (s : State) (k : Nat) (f : Ctx → Ctx) : (s.onCtx k f).retired = s.retired := by unfold State.onCtx; split <;> rfl
@[simp] theorem State.onCtx_burnt (s : State) (k : Nat) (f : Ctx → Ctx) : (s.onCtx k f).burnt = s.burnt := by unfold State.onCtx; split <;> rfl
@[simp] theorem State.onCtx_rowErrs (s : State) (k : Nat) (f : Ctx → Ctx) : (s.onCtx k f).rowErrs = s.rowErrs := by unfold State.onCtx; split <;> rfl
@[simp] theorem State.onCtx_ecs (s : State) (k : Nat) (f : Ctx → Ctx) : (s.onCtx k f).ecs = s.ecs := by unfold State.onCtx; split <;> rfl
@[simp] theorem State.onCtx_postponed (s : State) (k : Nat) (f : Ctx → Ctx) : (s.onCtx k f).postponed = s.postponed := by unfold State.onCtx; split <;> rfl
@[simp] theorem State.onCtx_mem (s : State) (k : Nat) (f : Ctx → Ctx) : (s.onCtx k f).mem = s.mem := by unfold State.onCtx; split <;> rfl
@[simp] theorem State.onCtx_poison (s : State) (k : Nat) (f : Ctx → Ctx) : (s.onCtx k f).poison = s.poison := by unfold State.onCtx; split <;> rfl
@[simp] theorem State.onCtx_hdm0 (s : State) (k : Nat) (f : Ctx → Ctx) : (s.onCtx k f).hdm0 = s.hdm0 := by unfold State.onCtx; split <;> rfl
@[simp] theorem State.onCtx_hdm1 (s : State) (k : Nat) (f : Ctx → Ctx) : (s.onCtx k f).hdm1 = s.hdm1 := by unfold State.onCtx; split <;> rfl
@[simp] theorem State.onCtx_ioPorts (s : State) (k : Nat) (f : Ctx → Ctx) : (s.onCtx k f).ioPorts = s.ioPorts := by unfold State.onCtx; split <;> rfl
@[simp] theorem State.onCtx_hostHeld (s : State) (k : Nat) (f : Ctx → Ctx) : (s.onCtx k f).hostHeld = s.hostHeld := by unfold State.onCtx; split <;> rfl
@[simp] theorem State.onCtx_own (s : State) (k : Nat) (f : Ctx → Ctx) : (s.onCtx k f).own = s.own := by unfold State.onCtx; split <;> rfl
@[simp] theorem State.onCtx_far (s : State) (k : Nat) (f : Ctx → Ctx) : (s.onCtx k f).far = s.far := by unfold State.onCtx; split <;> rfl
@[simp] theorem State.onCtx_peers (s : State) (k : Nat) (f : Ctx → Ctx) : (s.onCtx k f).peers = s.peers := by unfold State.onCtx; split <;> rfl
@[simp] theorem State.onCtx_tlb (s : State) (k : Nat) (f : Ctx → Ctx) : (s.onCtx k f).tlb = s.tlb := by unfold State.onCtx; split <;> rfl
@[simp] theorem State.onCtx_preqs (s : State) (k : Nat) (f : Ctx → Ctx) : (s.onCtx k f).preqs = s.preqs := by unfold State.onCtx; split <;> rfl
@[simp] theorem State.onCtx_wchecks (s : State) (k : Nat) (f : Ctx → Ctx) : (s.onCtx k f).wchecks = s.wchecks := by unfold State.onCtx; split <;> rfl
@[simp] theorem State.onCtx_wfaults (s : State) (k : Nat) (f : Ctx → Ctx) : (s.onCtx k f).wfaults = s.wfaults := by unfold State.onCtx; split <;> rfl
@[simp] theorem State.onCtx_evPend (s : State) (k : Nat) (f : Ctx → Ctx) : (s.onCtx k f).evPend = s.evPend := by unfold State.onCtx; split <;> rfl
@[simp] theorem State.onCtx_l1 (s : State) (k : Nat) (f : Ctx → Ctx) : (s.onCtx k f).l1 = s.l1 := by unfold State.onCtx; split <;> rfl
@[simp] theorem State.onCtx_homes (s : State) (k : Nat) (f : Ctx → Ctx) : (s.onCtx k f).homes = s.homes := by unfold State.onCtx; split <;> rfl
@[simp] theorem State.onCtx_fills (s : State) (k : Nat) (f : Ctx → Ctx) : (s.onCtx k f).fills = s.fills := by unfold State.onCtx; split <;> rfl
@[simp] theorem State.onCtx_wq (s : State) (k : Nat) (f : Ctx → Ctx) : (s.onCtx k f).wq = s.wq := by unfold State.onCtx; split <;> rfl
@[simp] theorem State.onCtx_spad (s : State) (k : Nat) (f : Ctx → Ctx) : (s.onCtx k f).spad = s.spad := by unfold State.onCtx; split <;> rfl
@[simp] theorem State.onCtx_spadBase (s : State) (k : Nat) (f : Ctx → Ctx) : (s.onCtx k f).spadBase = s.spadBase := by unfold State.onCtx; split <;> rfl
@[simp] theorem State.onCtx_spadLog (s : State) (k : Nat) (f : Ctx → Ctx) : (s.onCtx k f).spadLog = s.spadLog := by unfold State.onCtx; split <;> rfl
@[simp] theorem State.onCtx_teams (s : State) (k : Nat) (f : Ctx → Ctx) : (s.onCtx k f).teams = s.teams := by unfold State.onCtx; split <;> rfl
@[simp] theorem State.onCtx_cores (s : State) (k : Nat) (f : Ctx → Ctx) : (s.onCtx k f).cores = s.cores := by unfold State.onCtx; split <;> rfl
@[simp] theorem State.onCtx_dieTab (s : State) (k : Nat) (f : Ctx → Ctx) : (s.onCtx k f).dieTab = s.dieTab := by unfold State.onCtx; split <;> rfl
@[simp] theorem State.onCtx_launches (s : State) (k : Nat) (f : Ctx → Ctx) : (s.onCtx k f).launches = s.launches := by unfold State.onCtx; split <;> rfl
@[simp] theorem State.onCtx_watches (s : State) (k : Nat) (f : Ctx → Ctx) : (s.onCtx k f).watches = s.watches := by unfold State.onCtx; split <;> rfl
@[simp] theorem State.onCtx_pushes (s : State) (k : Nat) (f : Ctx → Ctx) : (s.onCtx k f).pushes = s.pushes := by unfold State.onCtx; split <;> rfl
@[simp] theorem State.onCtx_spawned (s : State) (k : Nat) (f : Ctx → Ctx) : (s.onCtx k f).spawned = s.spawned := by unfold State.onCtx; split <;> rfl
@[simp] theorem State.onCtx_ages (s : State) (k : Nat) (f : Ctx → Ctx) : (s.onCtx k f).ages = s.ages := by unfold State.onCtx; split <;> rfl
@[simp] theorem State.onCtx_casts (s : State) (k : Nat) (f : Ctx → Ctx) : (s.onCtx k f).casts = s.casts := by unfold State.onCtx; split <;> rfl
@[simp] theorem State.onCtx_spills (s : State) (k : Nat) (f : Ctx → Ctx) : (s.onCtx k f).spills = s.spills := by unfold State.onCtx; split <;> rfl
@[simp] theorem State.onCtx_stalls (s : State) (k : Nat) (f : Ctx → Ctx) : (s.onCtx k f).stalls = s.stalls := by unfold State.onCtx; split <;> rfl
@[simp] theorem State.onCtx_arrivals (s : State) (k : Nat) (f : Ctx → Ctx) : (s.onCtx k f).arrivals = s.arrivals := by unfold State.onCtx; split <;> rfl
@[simp] theorem State.onCtx_mail (s : State) (k : Nat) (f : Ctx → Ctx) : (s.onCtx k f).mail = s.mail := by unfold State.onCtx; split <;> rfl
@[simp] theorem State.onCtx_hub (s : State) (k : Nat) (f : Ctx → Ctx) : (s.onCtx k f).hub = s.hub := by unfold State.onCtx; split <;> rfl
@[simp] theorem State.onCtx_windows (s : State) (k : Nat) (f : Ctx → Ctx) : (s.onCtx k f).windows = s.windows := by unfold State.onCtx; split <;> rfl
@[simp] theorem State.onCtx_vents (s : State) (k : Nat) (f : Ctx → Ctx) : (s.onCtx k f).vents = s.vents := by unfold State.onCtx; split <;> rfl
@[simp] theorem State.onCtx_ventPmc (s : State) (k : Nat) (f : Ctx → Ctx) : (s.onCtx k f).ventPmc = s.ventPmc := by unfold State.onCtx; split <;> rfl
@[simp] theorem State.onCtx_regions (s : State) (k : Nat) (f : Ctx → Ctx) : (s.onCtx k f).regions = s.regions := by unfold State.onCtx; split <;> rfl
@[simp] theorem State.onCtx_tracked (s : State) (k : Nat) (f : Ctx → Ctx) : (s.onCtx k f).tracked = s.tracked := by unfold State.onCtx; split <;> rfl
@[simp] theorem State.onCtx_spec (s : State) (k : Nat) (f : Ctx → Ctx) : (s.onCtx k f).spec = s.spec := by unfold State.onCtx; split <;> rfl
@[simp] theorem State.onCtx_ports (s : State) (k : Nat) (f : Ctx → Ctx) : (s.onCtx k f).ports = s.ports := by unfold State.onCtx; split <;> rfl
@[simp] theorem State.onCtx_routes (s : State) (k : Nat) (f : Ctx → Ctx) : (s.onCtx k f).routes = s.routes := by unfold State.onCtx; split <;> rfl
@[simp] theorem State.onCtx_unsent (s : State) (k : Nat) (f : Ctx → Ctx) : (s.onCtx k f).unsent = s.unsent := by unfold State.onCtx; split <;> rfl
@[simp] theorem State.onCtx_committedAt (s : State) (k : Nat) (f : Ctx → Ctx) : (s.onCtx k f).committedAt = s.committedAt := by unfold State.onCtx; split <;> rfl
@[simp] theorem State.onCtx_agenda (s : State) (k : Nat) (f : Ctx → Ctx) : (s.onCtx k f).agenda = s.agenda := by unfold State.onCtx; split <;> rfl
@[simp] theorem State.onCtx_current (s : State) (k : Nat) (f : Ctx → Ctx) : (s.onCtx k f).current = s.current := by unfold State.onCtx; split <;> rfl
@[simp] theorem State.onCtx_order (s : State) (k : Nat) (f : Ctx → Ctx) : (s.onCtx k f).order = s.order := by unfold State.onCtx; split <;> rfl
@[simp] theorem State.onCtx_fresh (s : State) (k : Nat) (f : Ctx → Ctx) : (s.onCtx k f).fresh = s.fresh := by unfold State.onCtx; split <;> rfl

/-! ## `Team.setV` -/

@[simp] theorem Team.setV_key (t : Team) (n : Nat) (x : VReg) : (t.setV n x).key = t.key := rfl
@[simp] theorem Team.setV_die (t : Team) (n : Nat) (x : VReg) : (t.setV n x).die = t.die := rfl
@[simp] theorem Team.setV_core (t : Team) (n : Nat) (x : VReg) : (t.setV n x).core = t.core := rfl
@[simp] theorem Team.setV_slot (t : Team) (n : Nat) (x : VReg) : (t.setV n x).slot = t.slot := rfl
@[simp] theorem Team.setV_ctx (t : Team) (n : Nat) (x : VReg) : (t.setV n x).ctx = t.ctx := rfl
@[simp] theorem Team.setV_lid (t : Team) (n : Nat) (x : VReg) : (t.setV n x).lid = t.lid := rfl
@[simp] theorem Team.setV_team (t : Team) (n : Nat) (x : VReg) : (t.setV n x).team = t.team := rfl
@[simp] theorem Team.setV_unit (t : Team) (n : Nat) (x : VReg) : (t.setV n x).unit = t.unit := rfl
@[simp] theorem Team.setV_bind (t : Team) (n : Nat) (x : VReg) : (t.setV n x).bind = t.bind := rfl
@[simp] theorem Team.setV_w (t : Team) (n : Nat) (x : VReg) : (t.setV n x).w = t.w := rfl
@[simp] theorem Team.setV_n (t : Team) (n : Nat) (x : VReg) : (t.setV n x).n = t.n := rfl
@[simp] theorem Team.setV_g (t : Team) (n : Nat) (x : VReg) : (t.setV n x).g = t.g := rfl
@[simp] theorem Team.setV_pc (t : Team) (n : Nat) (x : VReg) : (t.setV n x).pc = t.pc := rfl
@[simp] theorem Team.setV_s (t : Team) (n : Nat) (x : VReg) : (t.setV n x).s = t.s := rfl
@[simp] theorem Team.setV_p (t : Team) (n : Nat) (x : VReg) : (t.setV n x).p = t.p := rfl
@[simp] theorem Team.setV_mask (t : Team) (n : Nat) (x : VReg) : (t.setV n x).mask = t.mask := rfl
@[simp] theorem Team.setV_phase (t : Team) (n : Nat) (x : VReg) : (t.setV n x).phase = t.phase := rfl
@[simp] theorem Team.setV_cancel (t : Team) (n : Nat) (x : VReg) : (t.setV n x).cancel = t.cancel := rfl
@[simp] theorem Team.setV_shp (t : Team) (n : Nat) (x : VReg) : (t.setV n x).shp = t.shp := rfl
@[simp] theorem Team.setV_cause (t : Team) (n : Nat) (x : VReg) : (t.setV n x).cause = t.cause := rfl
@[simp] theorem Team.setV_tpc (t : Team) (n : Nat) (x : VReg) : (t.setV n x).tpc = t.tpc := rfl
@[simp] theorem Team.setV_tval (t : Team) (n : Nat) (x : VReg) : (t.setV n x).tval = t.tval := rfl
@[simp] theorem Team.setV_fmask (t : Team) (n : Nat) (x : VReg) : (t.setV n x).fmask = t.fmask := rfl
@[simp] theorem Team.setV_inTrap (t : Team) (n : Nat) (x : VReg) : (t.setV n x).inTrap = t.inTrap := rfl
@[simp] theorem Team.setV_sbchk (t : Team) (n : Nat) (x : VReg) : (t.setV n x).sbchk = t.sbchk := rfl
@[simp] theorem Team.setV_keep (t : Team) (n : Nat) (x : VReg) : (t.setV n x).keep = t.keep := rfl
@[simp] theorem Team.setV_exc (t : Team) (n : Nat) (x : VReg) : (t.setV n x).exc = t.exc := rfl
@[simp] theorem Team.setV_nmSigw (t : Team) (n : Nat) (x : VReg) : (t.setV n x).nmSigw = t.nmSigw := rfl
@[simp] theorem Team.setV_nmGrain (t : Team) (n : Nat) (x : VReg) : (t.setV n x).nmGrain = t.nmGrain := rfl
@[simp] theorem Team.setV_nmEsc (t : Team) (n : Nat) (x : VReg) : (t.setV n x).nmEsc = t.nmEsc := rfl
@[simp] theorem Team.setV_gang (t : Team) (n : Nat) (x : VReg) : (t.setV n x).gang = t.gang := rfl
@[simp] theorem Team.setV_twin (t : Team) (n : Nat) (x : VReg) : (t.setV n x).twin = t.twin := rfl
@[simp] theorem Team.setV_spadOff (t : Team) (n : Nat) (x : VReg) : (t.setV n x).spadOff = t.spadOff := rfl
@[simp] theorem Team.setV_spadLen (t : Team) (n : Nat) (x : VReg) : (t.setV n x).spadLen = t.spadLen := rfl
@[simp] theorem Team.setV_privOff (t : Team) (n : Nat) (x : VReg) : (t.setV n x).privOff = t.privOff := rfl
@[simp] theorem Team.setV_privLen (t : Team) (n : Nat) (x : VReg) : (t.setV n x).privLen = t.privLen := rfl
@[simp] theorem Team.setV_readyAt (t : Team) (n : Nat) (x : VReg) : (t.setV n x).readyAt = t.readyAt := rfl
@[simp] theorem Team.setV_issued (t : Team) (n : Nat) (x : VReg) : (t.setV n x).issued = t.issued := rfl
@[simp] theorem Team.setV_yieldTo (t : Team) (n : Nat) (x : VReg) : (t.setV n x).yieldTo = t.yieldTo := rfl
@[simp] theorem Team.setV_fixed (t : Team) (n : Nat) (x : VReg) : (t.setV n x).fixed = t.fixed := rfl
@[simp] theorem Team.setV_sb (t : Team) (n : Nat) (x : VReg) : (t.setV n x).sb = t.sb := rfl
@[simp] theorem Team.setV_misses (t : Team) (n : Nat) (x : VReg) : (t.setV n x).misses = t.misses := rfl
@[simp] theorem Team.setV_more (t : Team) (n : Nat) (x : VReg) : (t.setV n x).more = t.more := rfl
@[simp] theorem Team.setV_mem (t : Team) (n : Nat) (x : VReg) : (t.setV n x).mem = t.mem := rfl
@[simp] theorem Team.setV_kept (t : Team) (n : Nat) (x : VReg) : (t.setV n x).kept = t.kept := rfl
@[simp] theorem Team.setV_keptOut (t : Team) (n : Nat) (x : VReg) : (t.setV n x).keptOut = t.keptOut := rfl
@[simp] theorem Team.setV_owed (t : Team) (n : Nat) (x : VReg) : (t.setV n x).owed = t.owed := rfl
@[simp] theorem Team.setV_doneAt (t : Team) (n : Nat) (x : VReg) : (t.setV n x).doneAt = t.doneAt := rfl
@[simp] theorem Team.setV_park (t : Team) (n : Nat) (x : VReg) : (t.setV n x).park = t.park := rfl
@[simp] theorem Team.setV_pend (t : Team) (n : Nat) (x : VReg) : (t.setV n x).pend = t.pend := rfl
@[simp] theorem Team.setV_replay (t : Team) (n : Nat) (x : VReg) : (t.setV n x).replay = t.replay := rfl
@[simp] theorem Team.setV_pf (t : Team) (n : Nat) (x : VReg) : (t.setV n x).pf = t.pf := rfl
@[simp] theorem Team.setV_fetched (t : Team) (n : Nat) (x : VReg) : (t.setV n x).fetched = t.fetched := rfl
@[simp] theorem Team.setV_rejects (t : Team) (n : Nat) (x : VReg) : (t.setV n x).rejects = t.rejects := rfl
@[simp] theorem Team.setV_aged (t : Team) (n : Nat) (x : VReg) : (t.setV n x).aged = t.aged := rfl
@[simp] theorem Team.setV_exited (t : Team) (n : Nat) (x : VReg) : (t.setV n x).exited = t.exited := rfl
@[simp] theorem Team.setV_failed (t : Team) (n : Nat) (x : VReg) : (t.setV n x).failed = t.failed := rfl
@[simp] theorem Team.setV_failVal (t : Team) (n : Nat) (x : VReg) : (t.setV n x).failVal = t.failVal := rfl
@[simp] theorem Team.setV_window (t : Team) (n : Nat) (x : VReg) : (t.setV n x).window = t.window := rfl
@[simp] theorem Team.setV_region (t : Team) (n : Nat) (x : VReg) : (t.setV n x).region = t.region := rfl
@[simp] theorem Team.setV_attempts (t : Team) (n : Nat) (x : VReg) : (t.setV n x).attempts = t.attempts := rfl
@[simp] theorem Team.setV_handler (t : Team) (n : Nat) (x : VReg) : (t.setV n x).handler = t.handler := rfl
@[simp] theorem Team.setV_callToks (t : Team) (n : Nat) (x : VReg) : (t.setV n x).callToks = t.callToks := rfl
@[simp] theorem Team.setV_acqToks (t : Team) (n : Nat) (x : VReg) : (t.setV n x).acqToks = t.acqToks := rfl
@[simp] theorem Team.setV_slots (t : Team) (n : Nat) (x : VReg) : (t.setV n x).slots = t.slots := rfl
@[simp] theorem Team.setV_mwaitHit (t : Team) (n : Nat) (x : VReg) : (t.setV n x).mwaitHit = t.mwaitHit := rfl
@[simp] theorem Team.setV_mwaitKept (t : Team) (n : Nat) (x : VReg) : (t.setV n x).mwaitKept = t.mwaitKept := rfl
@[simp] theorem Team.setV_recordVa (t : Team) (n : Nat) (x : VReg) : (t.setV n x).recordVa = t.recordVa := rfl
@[simp] theorem Team.setV_pended (t : Team) (n : Nat) (x : VReg) : (t.setV n x).pended = t.pended := rfl
@[simp] theorem Team.setV_fenced (t : Team) (n : Nat) (x : VReg) : (t.setV n x).fenced = t.fenced := rfl

/-! ## `Team.setMask` -/

@[simp] theorem Team.setMask_key (t : Team) (m : Mask) : (t.setMask m).key = t.key := rfl
@[simp] theorem Team.setMask_die (t : Team) (m : Mask) : (t.setMask m).die = t.die := rfl
@[simp] theorem Team.setMask_core (t : Team) (m : Mask) : (t.setMask m).core = t.core := rfl
@[simp] theorem Team.setMask_slot (t : Team) (m : Mask) : (t.setMask m).slot = t.slot := rfl
@[simp] theorem Team.setMask_ctx (t : Team) (m : Mask) : (t.setMask m).ctx = t.ctx := rfl
@[simp] theorem Team.setMask_lid (t : Team) (m : Mask) : (t.setMask m).lid = t.lid := rfl
@[simp] theorem Team.setMask_team (t : Team) (m : Mask) : (t.setMask m).team = t.team := rfl
@[simp] theorem Team.setMask_unit (t : Team) (m : Mask) : (t.setMask m).unit = t.unit := rfl
@[simp] theorem Team.setMask_bind (t : Team) (m : Mask) : (t.setMask m).bind = t.bind := rfl
@[simp] theorem Team.setMask_w (t : Team) (m : Mask) : (t.setMask m).w = t.w := rfl
@[simp] theorem Team.setMask_n (t : Team) (m : Mask) : (t.setMask m).n = t.n := rfl
@[simp] theorem Team.setMask_g (t : Team) (m : Mask) : (t.setMask m).g = t.g := rfl
@[simp] theorem Team.setMask_pc (t : Team) (m : Mask) : (t.setMask m).pc = t.pc := rfl
@[simp] theorem Team.setMask_s (t : Team) (m : Mask) : (t.setMask m).s = t.s := rfl
@[simp] theorem Team.setMask_v (t : Team) (m : Mask) : (t.setMask m).v = t.v := rfl
@[simp] theorem Team.setMask_p (t : Team) (m : Mask) : (t.setMask m).p = t.p := rfl
@[simp] theorem Team.setMask_phase (t : Team) (m : Mask) : (t.setMask m).phase = t.phase := rfl
@[simp] theorem Team.setMask_cancel (t : Team) (m : Mask) : (t.setMask m).cancel = t.cancel := rfl
@[simp] theorem Team.setMask_shp (t : Team) (m : Mask) : (t.setMask m).shp = t.shp := rfl
@[simp] theorem Team.setMask_cause (t : Team) (m : Mask) : (t.setMask m).cause = t.cause := rfl
@[simp] theorem Team.setMask_tpc (t : Team) (m : Mask) : (t.setMask m).tpc = t.tpc := rfl
@[simp] theorem Team.setMask_tval (t : Team) (m : Mask) : (t.setMask m).tval = t.tval := rfl
@[simp] theorem Team.setMask_fmask (t : Team) (m : Mask) : (t.setMask m).fmask = t.fmask := rfl
@[simp] theorem Team.setMask_inTrap (t : Team) (m : Mask) : (t.setMask m).inTrap = t.inTrap := rfl
@[simp] theorem Team.setMask_sbchk (t : Team) (m : Mask) : (t.setMask m).sbchk = t.sbchk := rfl
@[simp] theorem Team.setMask_keep (t : Team) (m : Mask) : (t.setMask m).keep = t.keep := rfl
@[simp] theorem Team.setMask_exc (t : Team) (m : Mask) : (t.setMask m).exc = t.exc := rfl
@[simp] theorem Team.setMask_nmSigw (t : Team) (m : Mask) : (t.setMask m).nmSigw = t.nmSigw := rfl
@[simp] theorem Team.setMask_nmGrain (t : Team) (m : Mask) : (t.setMask m).nmGrain = t.nmGrain := rfl
@[simp] theorem Team.setMask_nmEsc (t : Team) (m : Mask) : (t.setMask m).nmEsc = t.nmEsc := rfl
@[simp] theorem Team.setMask_gang (t : Team) (m : Mask) : (t.setMask m).gang = t.gang := rfl
@[simp] theorem Team.setMask_twin (t : Team) (m : Mask) : (t.setMask m).twin = t.twin := rfl
@[simp] theorem Team.setMask_spadOff (t : Team) (m : Mask) : (t.setMask m).spadOff = t.spadOff := rfl
@[simp] theorem Team.setMask_spadLen (t : Team) (m : Mask) : (t.setMask m).spadLen = t.spadLen := rfl
@[simp] theorem Team.setMask_privOff (t : Team) (m : Mask) : (t.setMask m).privOff = t.privOff := rfl
@[simp] theorem Team.setMask_privLen (t : Team) (m : Mask) : (t.setMask m).privLen = t.privLen := rfl
@[simp] theorem Team.setMask_readyAt (t : Team) (m : Mask) : (t.setMask m).readyAt = t.readyAt := rfl
@[simp] theorem Team.setMask_issued (t : Team) (m : Mask) : (t.setMask m).issued = t.issued := rfl
@[simp] theorem Team.setMask_yieldTo (t : Team) (m : Mask) : (t.setMask m).yieldTo = t.yieldTo := rfl
@[simp] theorem Team.setMask_fixed (t : Team) (m : Mask) : (t.setMask m).fixed = t.fixed := rfl
@[simp] theorem Team.setMask_sb (t : Team) (m : Mask) : (t.setMask m).sb = t.sb := rfl
@[simp] theorem Team.setMask_misses (t : Team) (m : Mask) : (t.setMask m).misses = t.misses := rfl
@[simp] theorem Team.setMask_more (t : Team) (m : Mask) : (t.setMask m).more = t.more := rfl
@[simp] theorem Team.setMask_mem (t : Team) (m : Mask) : (t.setMask m).mem = t.mem := rfl
@[simp] theorem Team.setMask_kept (t : Team) (m : Mask) : (t.setMask m).kept = t.kept := rfl
@[simp] theorem Team.setMask_keptOut (t : Team) (m : Mask) : (t.setMask m).keptOut = t.keptOut := rfl
@[simp] theorem Team.setMask_owed (t : Team) (m : Mask) : (t.setMask m).owed = t.owed := rfl
@[simp] theorem Team.setMask_doneAt (t : Team) (m : Mask) : (t.setMask m).doneAt = t.doneAt := rfl
@[simp] theorem Team.setMask_park (t : Team) (m : Mask) : (t.setMask m).park = t.park := rfl
@[simp] theorem Team.setMask_pend (t : Team) (m : Mask) : (t.setMask m).pend = t.pend := rfl
@[simp] theorem Team.setMask_replay (t : Team) (m : Mask) : (t.setMask m).replay = t.replay := rfl
@[simp] theorem Team.setMask_pf (t : Team) (m : Mask) : (t.setMask m).pf = t.pf := rfl
@[simp] theorem Team.setMask_fetched (t : Team) (m : Mask) : (t.setMask m).fetched = t.fetched := rfl
@[simp] theorem Team.setMask_rejects (t : Team) (m : Mask) : (t.setMask m).rejects = t.rejects := rfl
@[simp] theorem Team.setMask_aged (t : Team) (m : Mask) : (t.setMask m).aged = t.aged := rfl
@[simp] theorem Team.setMask_exited (t : Team) (m : Mask) : (t.setMask m).exited = t.exited := rfl
@[simp] theorem Team.setMask_failed (t : Team) (m : Mask) : (t.setMask m).failed = t.failed := rfl
@[simp] theorem Team.setMask_failVal (t : Team) (m : Mask) : (t.setMask m).failVal = t.failVal := rfl
@[simp] theorem Team.setMask_window (t : Team) (m : Mask) : (t.setMask m).window = t.window := rfl
@[simp] theorem Team.setMask_region (t : Team) (m : Mask) : (t.setMask m).region = t.region := rfl
@[simp] theorem Team.setMask_attempts (t : Team) (m : Mask) : (t.setMask m).attempts = t.attempts := rfl
@[simp] theorem Team.setMask_handler (t : Team) (m : Mask) : (t.setMask m).handler = t.handler := rfl
@[simp] theorem Team.setMask_callToks (t : Team) (m : Mask) : (t.setMask m).callToks = t.callToks := rfl
@[simp] theorem Team.setMask_acqToks (t : Team) (m : Mask) : (t.setMask m).acqToks = t.acqToks := rfl
@[simp] theorem Team.setMask_slots (t : Team) (m : Mask) : (t.setMask m).slots = t.slots := rfl
@[simp] theorem Team.setMask_mwaitHit (t : Team) (m : Mask) : (t.setMask m).mwaitHit = t.mwaitHit := rfl
@[simp] theorem Team.setMask_mwaitKept (t : Team) (m : Mask) : (t.setMask m).mwaitKept = t.mwaitKept := rfl
@[simp] theorem Team.setMask_recordVa (t : Team) (m : Mask) : (t.setMask m).recordVa = t.recordVa := rfl
@[simp] theorem Team.setMask_pended (t : Team) (m : Mask) : (t.setMask m).pended = t.pended := rfl
@[simp] theorem Team.setMask_fenced (t : Team) (m : Mask) : (t.setMask m).fenced = t.fenced := rfl

/-! ## `Team.setS` -/

@[simp] theorem Team.setS_key (t : Team) (n : Nat) (x : Word) : (t.setS n x).key = t.key := by unfold Team.setS; split <;> rfl
@[simp] theorem Team.setS_die (t : Team) (n : Nat) (x : Word) : (t.setS n x).die = t.die := by unfold Team.setS; split <;> rfl
@[simp] theorem Team.setS_core (t : Team) (n : Nat) (x : Word) : (t.setS n x).core = t.core := by unfold Team.setS; split <;> rfl
@[simp] theorem Team.setS_slot (t : Team) (n : Nat) (x : Word) : (t.setS n x).slot = t.slot := by unfold Team.setS; split <;> rfl
@[simp] theorem Team.setS_ctx (t : Team) (n : Nat) (x : Word) : (t.setS n x).ctx = t.ctx := by unfold Team.setS; split <;> rfl
@[simp] theorem Team.setS_lid (t : Team) (n : Nat) (x : Word) : (t.setS n x).lid = t.lid := by unfold Team.setS; split <;> rfl
@[simp] theorem Team.setS_team (t : Team) (n : Nat) (x : Word) : (t.setS n x).team = t.team := by unfold Team.setS; split <;> rfl
@[simp] theorem Team.setS_unit (t : Team) (n : Nat) (x : Word) : (t.setS n x).unit = t.unit := by unfold Team.setS; split <;> rfl
@[simp] theorem Team.setS_bind (t : Team) (n : Nat) (x : Word) : (t.setS n x).bind = t.bind := by unfold Team.setS; split <;> rfl
@[simp] theorem Team.setS_w (t : Team) (n : Nat) (x : Word) : (t.setS n x).w = t.w := by unfold Team.setS; split <;> rfl
@[simp] theorem Team.setS_n (t : Team) (n : Nat) (x : Word) : (t.setS n x).n = t.n := by unfold Team.setS; split <;> rfl
@[simp] theorem Team.setS_g (t : Team) (n : Nat) (x : Word) : (t.setS n x).g = t.g := by unfold Team.setS; split <;> rfl
@[simp] theorem Team.setS_pc (t : Team) (n : Nat) (x : Word) : (t.setS n x).pc = t.pc := by unfold Team.setS; split <;> rfl
@[simp] theorem Team.setS_v (t : Team) (n : Nat) (x : Word) : (t.setS n x).v = t.v := by unfold Team.setS; split <;> rfl
@[simp] theorem Team.setS_p (t : Team) (n : Nat) (x : Word) : (t.setS n x).p = t.p := by unfold Team.setS; split <;> rfl
@[simp] theorem Team.setS_mask (t : Team) (n : Nat) (x : Word) : (t.setS n x).mask = t.mask := by unfold Team.setS; split <;> rfl
@[simp] theorem Team.setS_phase (t : Team) (n : Nat) (x : Word) : (t.setS n x).phase = t.phase := by unfold Team.setS; split <;> rfl
@[simp] theorem Team.setS_cancel (t : Team) (n : Nat) (x : Word) : (t.setS n x).cancel = t.cancel := by unfold Team.setS; split <;> rfl
@[simp] theorem Team.setS_shp (t : Team) (n : Nat) (x : Word) : (t.setS n x).shp = t.shp := by unfold Team.setS; split <;> rfl
@[simp] theorem Team.setS_cause (t : Team) (n : Nat) (x : Word) : (t.setS n x).cause = t.cause := by unfold Team.setS; split <;> rfl
@[simp] theorem Team.setS_tpc (t : Team) (n : Nat) (x : Word) : (t.setS n x).tpc = t.tpc := by unfold Team.setS; split <;> rfl
@[simp] theorem Team.setS_tval (t : Team) (n : Nat) (x : Word) : (t.setS n x).tval = t.tval := by unfold Team.setS; split <;> rfl
@[simp] theorem Team.setS_fmask (t : Team) (n : Nat) (x : Word) : (t.setS n x).fmask = t.fmask := by unfold Team.setS; split <;> rfl
@[simp] theorem Team.setS_inTrap (t : Team) (n : Nat) (x : Word) : (t.setS n x).inTrap = t.inTrap := by unfold Team.setS; split <;> rfl
@[simp] theorem Team.setS_sbchk (t : Team) (n : Nat) (x : Word) : (t.setS n x).sbchk = t.sbchk := by unfold Team.setS; split <;> rfl
@[simp] theorem Team.setS_keep (t : Team) (n : Nat) (x : Word) : (t.setS n x).keep = t.keep := by unfold Team.setS; split <;> rfl
@[simp] theorem Team.setS_exc (t : Team) (n : Nat) (x : Word) : (t.setS n x).exc = t.exc := by unfold Team.setS; split <;> rfl
@[simp] theorem Team.setS_nmSigw (t : Team) (n : Nat) (x : Word) : (t.setS n x).nmSigw = t.nmSigw := by unfold Team.setS; split <;> rfl
@[simp] theorem Team.setS_nmGrain (t : Team) (n : Nat) (x : Word) : (t.setS n x).nmGrain = t.nmGrain := by unfold Team.setS; split <;> rfl
@[simp] theorem Team.setS_nmEsc (t : Team) (n : Nat) (x : Word) : (t.setS n x).nmEsc = t.nmEsc := by unfold Team.setS; split <;> rfl
@[simp] theorem Team.setS_gang (t : Team) (n : Nat) (x : Word) : (t.setS n x).gang = t.gang := by unfold Team.setS; split <;> rfl
@[simp] theorem Team.setS_twin (t : Team) (n : Nat) (x : Word) : (t.setS n x).twin = t.twin := by unfold Team.setS; split <;> rfl
@[simp] theorem Team.setS_spadOff (t : Team) (n : Nat) (x : Word) : (t.setS n x).spadOff = t.spadOff := by unfold Team.setS; split <;> rfl
@[simp] theorem Team.setS_spadLen (t : Team) (n : Nat) (x : Word) : (t.setS n x).spadLen = t.spadLen := by unfold Team.setS; split <;> rfl
@[simp] theorem Team.setS_privOff (t : Team) (n : Nat) (x : Word) : (t.setS n x).privOff = t.privOff := by unfold Team.setS; split <;> rfl
@[simp] theorem Team.setS_privLen (t : Team) (n : Nat) (x : Word) : (t.setS n x).privLen = t.privLen := by unfold Team.setS; split <;> rfl
@[simp] theorem Team.setS_readyAt (t : Team) (n : Nat) (x : Word) : (t.setS n x).readyAt = t.readyAt := by unfold Team.setS; split <;> rfl
@[simp] theorem Team.setS_issued (t : Team) (n : Nat) (x : Word) : (t.setS n x).issued = t.issued := by unfold Team.setS; split <;> rfl
@[simp] theorem Team.setS_yieldTo (t : Team) (n : Nat) (x : Word) : (t.setS n x).yieldTo = t.yieldTo := by unfold Team.setS; split <;> rfl
@[simp] theorem Team.setS_fixed (t : Team) (n : Nat) (x : Word) : (t.setS n x).fixed = t.fixed := by unfold Team.setS; split <;> rfl
@[simp] theorem Team.setS_sb (t : Team) (n : Nat) (x : Word) : (t.setS n x).sb = t.sb := by unfold Team.setS; split <;> rfl
@[simp] theorem Team.setS_misses (t : Team) (n : Nat) (x : Word) : (t.setS n x).misses = t.misses := by unfold Team.setS; split <;> rfl
@[simp] theorem Team.setS_more (t : Team) (n : Nat) (x : Word) : (t.setS n x).more = t.more := by unfold Team.setS; split <;> rfl
@[simp] theorem Team.setS_mem (t : Team) (n : Nat) (x : Word) : (t.setS n x).mem = t.mem := by unfold Team.setS; split <;> rfl
@[simp] theorem Team.setS_kept (t : Team) (n : Nat) (x : Word) : (t.setS n x).kept = t.kept := by unfold Team.setS; split <;> rfl
@[simp] theorem Team.setS_keptOut (t : Team) (n : Nat) (x : Word) : (t.setS n x).keptOut = t.keptOut := by unfold Team.setS; split <;> rfl
@[simp] theorem Team.setS_owed (t : Team) (n : Nat) (x : Word) : (t.setS n x).owed = t.owed := by unfold Team.setS; split <;> rfl
@[simp] theorem Team.setS_doneAt (t : Team) (n : Nat) (x : Word) : (t.setS n x).doneAt = t.doneAt := by unfold Team.setS; split <;> rfl
@[simp] theorem Team.setS_park (t : Team) (n : Nat) (x : Word) : (t.setS n x).park = t.park := by unfold Team.setS; split <;> rfl
@[simp] theorem Team.setS_pend (t : Team) (n : Nat) (x : Word) : (t.setS n x).pend = t.pend := by unfold Team.setS; split <;> rfl
@[simp] theorem Team.setS_replay (t : Team) (n : Nat) (x : Word) : (t.setS n x).replay = t.replay := by unfold Team.setS; split <;> rfl
@[simp] theorem Team.setS_pf (t : Team) (n : Nat) (x : Word) : (t.setS n x).pf = t.pf := by unfold Team.setS; split <;> rfl
@[simp] theorem Team.setS_fetched (t : Team) (n : Nat) (x : Word) : (t.setS n x).fetched = t.fetched := by unfold Team.setS; split <;> rfl
@[simp] theorem Team.setS_rejects (t : Team) (n : Nat) (x : Word) : (t.setS n x).rejects = t.rejects := by unfold Team.setS; split <;> rfl
@[simp] theorem Team.setS_aged (t : Team) (n : Nat) (x : Word) : (t.setS n x).aged = t.aged := by unfold Team.setS; split <;> rfl
@[simp] theorem Team.setS_exited (t : Team) (n : Nat) (x : Word) : (t.setS n x).exited = t.exited := by unfold Team.setS; split <;> rfl
@[simp] theorem Team.setS_failed (t : Team) (n : Nat) (x : Word) : (t.setS n x).failed = t.failed := by unfold Team.setS; split <;> rfl
@[simp] theorem Team.setS_failVal (t : Team) (n : Nat) (x : Word) : (t.setS n x).failVal = t.failVal := by unfold Team.setS; split <;> rfl
@[simp] theorem Team.setS_window (t : Team) (n : Nat) (x : Word) : (t.setS n x).window = t.window := by unfold Team.setS; split <;> rfl
@[simp] theorem Team.setS_region (t : Team) (n : Nat) (x : Word) : (t.setS n x).region = t.region := by unfold Team.setS; split <;> rfl
@[simp] theorem Team.setS_attempts (t : Team) (n : Nat) (x : Word) : (t.setS n x).attempts = t.attempts := by unfold Team.setS; split <;> rfl
@[simp] theorem Team.setS_handler (t : Team) (n : Nat) (x : Word) : (t.setS n x).handler = t.handler := by unfold Team.setS; split <;> rfl
@[simp] theorem Team.setS_callToks (t : Team) (n : Nat) (x : Word) : (t.setS n x).callToks = t.callToks := by unfold Team.setS; split <;> rfl
@[simp] theorem Team.setS_acqToks (t : Team) (n : Nat) (x : Word) : (t.setS n x).acqToks = t.acqToks := by unfold Team.setS; split <;> rfl
@[simp] theorem Team.setS_slots (t : Team) (n : Nat) (x : Word) : (t.setS n x).slots = t.slots := by unfold Team.setS; split <;> rfl
@[simp] theorem Team.setS_mwaitHit (t : Team) (n : Nat) (x : Word) : (t.setS n x).mwaitHit = t.mwaitHit := by unfold Team.setS; split <;> rfl
@[simp] theorem Team.setS_mwaitKept (t : Team) (n : Nat) (x : Word) : (t.setS n x).mwaitKept = t.mwaitKept := by unfold Team.setS; split <;> rfl
@[simp] theorem Team.setS_recordVa (t : Team) (n : Nat) (x : Word) : (t.setS n x).recordVa = t.recordVa := by unfold Team.setS; split <;> rfl
@[simp] theorem Team.setS_pended (t : Team) (n : Nat) (x : Word) : (t.setS n x).pended = t.pended := by unfold Team.setS; split <;> rfl
@[simp] theorem Team.setS_fenced (t : Team) (n : Nat) (x : Word) : (t.setS n x).fenced = t.fenced := by unfold Team.setS; split <;> rfl

/-! ## `Team.setP` -/

@[simp] theorem Team.setP_key (t : Team) (n : Nat) (x : Mask) : (t.setP n x).key = t.key := by unfold Team.setP; split <;> rfl
@[simp] theorem Team.setP_die (t : Team) (n : Nat) (x : Mask) : (t.setP n x).die = t.die := by unfold Team.setP; split <;> rfl
@[simp] theorem Team.setP_core (t : Team) (n : Nat) (x : Mask) : (t.setP n x).core = t.core := by unfold Team.setP; split <;> rfl
@[simp] theorem Team.setP_slot (t : Team) (n : Nat) (x : Mask) : (t.setP n x).slot = t.slot := by unfold Team.setP; split <;> rfl
@[simp] theorem Team.setP_ctx (t : Team) (n : Nat) (x : Mask) : (t.setP n x).ctx = t.ctx := by unfold Team.setP; split <;> rfl
@[simp] theorem Team.setP_lid (t : Team) (n : Nat) (x : Mask) : (t.setP n x).lid = t.lid := by unfold Team.setP; split <;> rfl
@[simp] theorem Team.setP_team (t : Team) (n : Nat) (x : Mask) : (t.setP n x).team = t.team := by unfold Team.setP; split <;> rfl
@[simp] theorem Team.setP_unit (t : Team) (n : Nat) (x : Mask) : (t.setP n x).unit = t.unit := by unfold Team.setP; split <;> rfl
@[simp] theorem Team.setP_bind (t : Team) (n : Nat) (x : Mask) : (t.setP n x).bind = t.bind := by unfold Team.setP; split <;> rfl
@[simp] theorem Team.setP_w (t : Team) (n : Nat) (x : Mask) : (t.setP n x).w = t.w := by unfold Team.setP; split <;> rfl
@[simp] theorem Team.setP_n (t : Team) (n : Nat) (x : Mask) : (t.setP n x).n = t.n := by unfold Team.setP; split <;> rfl
@[simp] theorem Team.setP_g (t : Team) (n : Nat) (x : Mask) : (t.setP n x).g = t.g := by unfold Team.setP; split <;> rfl
@[simp] theorem Team.setP_pc (t : Team) (n : Nat) (x : Mask) : (t.setP n x).pc = t.pc := by unfold Team.setP; split <;> rfl
@[simp] theorem Team.setP_s (t : Team) (n : Nat) (x : Mask) : (t.setP n x).s = t.s := by unfold Team.setP; split <;> rfl
@[simp] theorem Team.setP_v (t : Team) (n : Nat) (x : Mask) : (t.setP n x).v = t.v := by unfold Team.setP; split <;> rfl
@[simp] theorem Team.setP_mask (t : Team) (n : Nat) (x : Mask) : (t.setP n x).mask = t.mask := by unfold Team.setP; split <;> rfl
@[simp] theorem Team.setP_phase (t : Team) (n : Nat) (x : Mask) : (t.setP n x).phase = t.phase := by unfold Team.setP; split <;> rfl
@[simp] theorem Team.setP_cancel (t : Team) (n : Nat) (x : Mask) : (t.setP n x).cancel = t.cancel := by unfold Team.setP; split <;> rfl
@[simp] theorem Team.setP_shp (t : Team) (n : Nat) (x : Mask) : (t.setP n x).shp = t.shp := by unfold Team.setP; split <;> rfl
@[simp] theorem Team.setP_cause (t : Team) (n : Nat) (x : Mask) : (t.setP n x).cause = t.cause := by unfold Team.setP; split <;> rfl
@[simp] theorem Team.setP_tpc (t : Team) (n : Nat) (x : Mask) : (t.setP n x).tpc = t.tpc := by unfold Team.setP; split <;> rfl
@[simp] theorem Team.setP_tval (t : Team) (n : Nat) (x : Mask) : (t.setP n x).tval = t.tval := by unfold Team.setP; split <;> rfl
@[simp] theorem Team.setP_fmask (t : Team) (n : Nat) (x : Mask) : (t.setP n x).fmask = t.fmask := by unfold Team.setP; split <;> rfl
@[simp] theorem Team.setP_inTrap (t : Team) (n : Nat) (x : Mask) : (t.setP n x).inTrap = t.inTrap := by unfold Team.setP; split <;> rfl
@[simp] theorem Team.setP_sbchk (t : Team) (n : Nat) (x : Mask) : (t.setP n x).sbchk = t.sbchk := by unfold Team.setP; split <;> rfl
@[simp] theorem Team.setP_keep (t : Team) (n : Nat) (x : Mask) : (t.setP n x).keep = t.keep := by unfold Team.setP; split <;> rfl
@[simp] theorem Team.setP_exc (t : Team) (n : Nat) (x : Mask) : (t.setP n x).exc = t.exc := by unfold Team.setP; split <;> rfl
@[simp] theorem Team.setP_nmSigw (t : Team) (n : Nat) (x : Mask) : (t.setP n x).nmSigw = t.nmSigw := by unfold Team.setP; split <;> rfl
@[simp] theorem Team.setP_nmGrain (t : Team) (n : Nat) (x : Mask) : (t.setP n x).nmGrain = t.nmGrain := by unfold Team.setP; split <;> rfl
@[simp] theorem Team.setP_nmEsc (t : Team) (n : Nat) (x : Mask) : (t.setP n x).nmEsc = t.nmEsc := by unfold Team.setP; split <;> rfl
@[simp] theorem Team.setP_gang (t : Team) (n : Nat) (x : Mask) : (t.setP n x).gang = t.gang := by unfold Team.setP; split <;> rfl
@[simp] theorem Team.setP_twin (t : Team) (n : Nat) (x : Mask) : (t.setP n x).twin = t.twin := by unfold Team.setP; split <;> rfl
@[simp] theorem Team.setP_spadOff (t : Team) (n : Nat) (x : Mask) : (t.setP n x).spadOff = t.spadOff := by unfold Team.setP; split <;> rfl
@[simp] theorem Team.setP_spadLen (t : Team) (n : Nat) (x : Mask) : (t.setP n x).spadLen = t.spadLen := by unfold Team.setP; split <;> rfl
@[simp] theorem Team.setP_privOff (t : Team) (n : Nat) (x : Mask) : (t.setP n x).privOff = t.privOff := by unfold Team.setP; split <;> rfl
@[simp] theorem Team.setP_privLen (t : Team) (n : Nat) (x : Mask) : (t.setP n x).privLen = t.privLen := by unfold Team.setP; split <;> rfl
@[simp] theorem Team.setP_readyAt (t : Team) (n : Nat) (x : Mask) : (t.setP n x).readyAt = t.readyAt := by unfold Team.setP; split <;> rfl
@[simp] theorem Team.setP_issued (t : Team) (n : Nat) (x : Mask) : (t.setP n x).issued = t.issued := by unfold Team.setP; split <;> rfl
@[simp] theorem Team.setP_yieldTo (t : Team) (n : Nat) (x : Mask) : (t.setP n x).yieldTo = t.yieldTo := by unfold Team.setP; split <;> rfl
@[simp] theorem Team.setP_fixed (t : Team) (n : Nat) (x : Mask) : (t.setP n x).fixed = t.fixed := by unfold Team.setP; split <;> rfl
@[simp] theorem Team.setP_sb (t : Team) (n : Nat) (x : Mask) : (t.setP n x).sb = t.sb := by unfold Team.setP; split <;> rfl
@[simp] theorem Team.setP_misses (t : Team) (n : Nat) (x : Mask) : (t.setP n x).misses = t.misses := by unfold Team.setP; split <;> rfl
@[simp] theorem Team.setP_more (t : Team) (n : Nat) (x : Mask) : (t.setP n x).more = t.more := by unfold Team.setP; split <;> rfl
@[simp] theorem Team.setP_mem (t : Team) (n : Nat) (x : Mask) : (t.setP n x).mem = t.mem := by unfold Team.setP; split <;> rfl
@[simp] theorem Team.setP_kept (t : Team) (n : Nat) (x : Mask) : (t.setP n x).kept = t.kept := by unfold Team.setP; split <;> rfl
@[simp] theorem Team.setP_keptOut (t : Team) (n : Nat) (x : Mask) : (t.setP n x).keptOut = t.keptOut := by unfold Team.setP; split <;> rfl
@[simp] theorem Team.setP_owed (t : Team) (n : Nat) (x : Mask) : (t.setP n x).owed = t.owed := by unfold Team.setP; split <;> rfl
@[simp] theorem Team.setP_doneAt (t : Team) (n : Nat) (x : Mask) : (t.setP n x).doneAt = t.doneAt := by unfold Team.setP; split <;> rfl
@[simp] theorem Team.setP_park (t : Team) (n : Nat) (x : Mask) : (t.setP n x).park = t.park := by unfold Team.setP; split <;> rfl
@[simp] theorem Team.setP_pend (t : Team) (n : Nat) (x : Mask) : (t.setP n x).pend = t.pend := by unfold Team.setP; split <;> rfl
@[simp] theorem Team.setP_replay (t : Team) (n : Nat) (x : Mask) : (t.setP n x).replay = t.replay := by unfold Team.setP; split <;> rfl
@[simp] theorem Team.setP_pf (t : Team) (n : Nat) (x : Mask) : (t.setP n x).pf = t.pf := by unfold Team.setP; split <;> rfl
@[simp] theorem Team.setP_fetched (t : Team) (n : Nat) (x : Mask) : (t.setP n x).fetched = t.fetched := by unfold Team.setP; split <;> rfl
@[simp] theorem Team.setP_rejects (t : Team) (n : Nat) (x : Mask) : (t.setP n x).rejects = t.rejects := by unfold Team.setP; split <;> rfl
@[simp] theorem Team.setP_aged (t : Team) (n : Nat) (x : Mask) : (t.setP n x).aged = t.aged := by unfold Team.setP; split <;> rfl
@[simp] theorem Team.setP_exited (t : Team) (n : Nat) (x : Mask) : (t.setP n x).exited = t.exited := by unfold Team.setP; split <;> rfl
@[simp] theorem Team.setP_failed (t : Team) (n : Nat) (x : Mask) : (t.setP n x).failed = t.failed := by unfold Team.setP; split <;> rfl
@[simp] theorem Team.setP_failVal (t : Team) (n : Nat) (x : Mask) : (t.setP n x).failVal = t.failVal := by unfold Team.setP; split <;> rfl
@[simp] theorem Team.setP_window (t : Team) (n : Nat) (x : Mask) : (t.setP n x).window = t.window := by unfold Team.setP; split <;> rfl
@[simp] theorem Team.setP_region (t : Team) (n : Nat) (x : Mask) : (t.setP n x).region = t.region := by unfold Team.setP; split <;> rfl
@[simp] theorem Team.setP_attempts (t : Team) (n : Nat) (x : Mask) : (t.setP n x).attempts = t.attempts := by unfold Team.setP; split <;> rfl
@[simp] theorem Team.setP_handler (t : Team) (n : Nat) (x : Mask) : (t.setP n x).handler = t.handler := by unfold Team.setP; split <;> rfl
@[simp] theorem Team.setP_callToks (t : Team) (n : Nat) (x : Mask) : (t.setP n x).callToks = t.callToks := by unfold Team.setP; split <;> rfl
@[simp] theorem Team.setP_acqToks (t : Team) (n : Nat) (x : Mask) : (t.setP n x).acqToks = t.acqToks := by unfold Team.setP; split <;> rfl
@[simp] theorem Team.setP_slots (t : Team) (n : Nat) (x : Mask) : (t.setP n x).slots = t.slots := by unfold Team.setP; split <;> rfl
@[simp] theorem Team.setP_mwaitHit (t : Team) (n : Nat) (x : Mask) : (t.setP n x).mwaitHit = t.mwaitHit := by unfold Team.setP; split <;> rfl
@[simp] theorem Team.setP_mwaitKept (t : Team) (n : Nat) (x : Mask) : (t.setP n x).mwaitKept = t.mwaitKept := by unfold Team.setP; split <;> rfl
@[simp] theorem Team.setP_recordVa (t : Team) (n : Nat) (x : Mask) : (t.setP n x).recordVa = t.recordVa := by unfold Team.setP; split <;> rfl
@[simp] theorem Team.setP_pended (t : Team) (n : Nat) (x : Mask) : (t.setP n x).pended = t.pended := by unfold Team.setP; split <;> rfl
@[simp] theorem Team.setP_fenced (t : Team) (n : Nat) (x : Mask) : (t.setP n x).fenced = t.fenced := by unfold Team.setP; split <;> rfl

/-! ## Changes through a function -/

@[simp] theorem State.onCore_eq (s : State) (k : Nat) (f : Core → Core) : s.onCore k f = s.setCore k (f (s.core k)) := rfl
@[simp] theorem State.onDie_eq (s : State) (k : Nat) (f : Die → Die) : s.onDie k f = s.setDie k (f (s.die k)) := rfl
@[simp] theorem State.onVent_eq (s : State) (k : Nat) (f : Vent → Vent) : s.onVent k f = s.setVent k (f (s.vent k)) := rfl
@[simp] theorem State.onPort_eq (s : State) (k : Nat) (f : Port → Port) : s.onPort k f = s.setPort k (f (s.port k)) := rfl

/-! ## Event counts -/

theorem State.setPmc_eq (s : State) (p : PmcPlace) (x : Pmc) : ∃ c d v, setPmc s p x = { s with cores := c, dieTab := d, ventPmc := v } := by
  cases p <;> exact ⟨_, _, _, rfl⟩

/-- Counting an event changes counters, and puts overflows on the agenda. -/
theorem State.pmcAdd_eq (p : PmcPlace) (ev ctx n k : Nat) (s : State) :
    ∃ c d v a, pmcAdd p ev ctx n k s = { s with cores := c, dieTab := d, ventPmc := v, agenda := a } := by
  induction k with
  | zero => exact ⟨_, _, _, _, rfl⟩
  | succ k ih =>
    obtain ⟨c, d, v, a, h⟩ := ih
    unfold pmcAdd
    simp only [h]
    split
    · exact ⟨_, _, _, _, rfl⟩
    split
    · obtain ⟨c1, d1, v1, h1⟩ := State.setPmc_eq { s with cores := c, dieTab := d, ventPmc := v, agenda := a } p _
      split <;> rw [h1] <;> exact ⟨_, _, _, _, rfl⟩
    · exact ⟨_, _, _, _, rfl⟩

theorem State.pmcCount_eq (s : State) (p : PmcPlace) (ev ctx n : Nat) :
    ∃ c d v a, pmcCount s p ev ctx n = { s with cores := c, dieTab := d, ventPmc := v, agenda := a } := by
  unfold pmcCount
  split
  · exact ⟨_, _, _, _, rfl⟩
  · exact State.pmcAdd_eq ..

@[simp] theorem State.pmcCount_clock (s : State) (p : PmcPlace) (ev ctx n : Nat) : (pmcCount s p ev ctx n).clock = s.clock := by
  obtain ⟨_, _, _, _, h⟩ := State.pmcCount_eq s p ev ctx n; rw [h]
@[simp] theorem State.pmcCount_rt (s : State) (p : PmcPlace) (ev ctx n : Nat) : (pmcCount s p ev ctx n).rt = s.rt := by
  obtain ⟨_, _, _, _, h⟩ := State.pmcCount_eq s p ev ctx n; rw [h]
@[simp] theorem State.pmcCount_clkStep (s : State) (p : PmcPlace) (ev ctx n : Nat) : (pmcCount s p ev ctx n).clkStep = s.clkStep := by
  obtain ⟨_, _, _, _, h⟩ := State.pmcCount_eq s p ev ctx n; rw [h]
@[simp] theorem State.pmcCount_hot (s : State) (p : PmcPlace) (ev ctx n : Nat) : (pmcCount s p ev ctx n).hot = s.hot := by
  obtain ⟨_, _, _, _, h⟩ := State.pmcCount_eq s p ev ctx n; rw [h]
@[simp] theorem State.pmcCount_powered (s : State) (p : PmcPlace) (ev ctx n : Nat) : (pmcCount s p ev ctx n).powered = s.powered := by
  obtain ⟨_, _, _, _, h⟩ := State.pmcCount_eq s p ev ctx n; rw [h]
@[simp] theorem State.pmcCount_bringUp (s : State) (p : PmcPlace) (ev ctx n : Nat) : (pmcCount s p ev ctx n).bringUp = s.bringUp := by
  obtain ⟨_, _, _, _, h⟩ := State.pmcCount_eq s p ev ctx n; rw [h]
@[simp] theorem State.pmcCount_devId (s : State) (p : PmcPlace) (ev ctx n : Nat) : (pmcCount s p ev ctx n).devId = s.devId := by
  obtain ⟨_, _, _, _, h⟩ := State.pmcCount_eq s p ev ctx n; rw [h]
@[simp] theorem State.pmcCount_devIdNext (s : State) (p : PmcPlace) (ev ctx n : Nat) : (pmcCount s p ev ctx n).devIdNext = s.devIdNext := by
  obtain ⟨_, _, _, _, h⟩ := State.pmcCount_eq s p ev ctx n; rw [h]
@[simp] theorem State.pmcCount_fjExp (s : State) (p : PmcPlace) (ev ctx n : Nat) : (pmcCount s p ev ctx n).fjExp = s.fjExp := by
  obtain ⟨_, _, _, _, h⟩ := State.pmcCount_eq s p ev ctx n; rw [h]
@[simp] theorem State.pmcCount_ordMode (s : State) (p : PmcPlace) (ev ctx n : Nat) : (pmcCount s p ev ctx n).ordMode = s.ordMode := by
  obtain ⟨_, _, _, _, h⟩ := State.pmcCount_eq s p ev ctx n; rw [h]
@[simp] theorem State.pmcCount_leaseMax (s : State) (p : PmcPlace) (ev ctx n : Nat) : (pmcCount s p ev ctx n).leaseMax = s.leaseMax := by
  obtain ⟨_, _, _, _, h⟩ := State.pmcCount_eq s p ev ctx n; rw [h]
@[simp] theorem State.pmcCount_hostIow (s : State) (p : PmcPlace) (ev ctx n : Nat) : (pmcCount s p ev ctx n).hostIow = s.hostIow := by
  obtain ⟨_, _, _, _, h⟩ := State.pmcCount_eq s p ev ctx n; rw [h]
@[simp] theorem State.pmcCount_ticket (s : State) (p : PmcPlace) (ev ctx n : Nat) : (pmcCount s p ev ctx n).ticket = s.ticket := by
  obtain ⟨_, _, _, _, h⟩ := State.pmcCount_eq s p ev ctx n; rw [h]
@[simp] theorem State.pmcCount_mgmtSem (s : State) (p : PmcPlace) (ev ctx n : Nat) : (pmcCount s p ev ctx n).mgmtSem = s.mgmtSem := by
  obtain ⟨_, _, _, _, h⟩ := State.pmcCount_eq s p ev ctx n; rw [h]
@[simp] theorem State.pmcCount_mgmtLast (s : State) (p : PmcPlace) (ev ctx n : Nat) : (pmcCount s p ev ctx n).mgmtLast = s.mgmtLast := by
  obtain ⟨_, _, _, _, h⟩ := State.pmcCount_eq s p ev ctx n; rw [h]
@[simp] theorem State.pmcCount_mgmtOvf (s : State) (p : PmcPlace) (ev ctx n : Nat) : (pmcCount s p ev ctx n).mgmtOvf = s.mgmtOvf := by
  obtain ⟨_, _, _, _, h⟩ := State.pmcCount_eq s p ev ctx n; rw [h]
@[simp] theorem State.pmcCount_errLog (s : State) (p : PmcPlace) (ev ctx n : Nat) : (pmcCount s p ev ctx n).errLog = s.errLog := by
  obtain ⟨_, _, _, _, h⟩ := State.pmcCount_eq s p ev ctx n; rw [h]
@[simp] theorem State.pmcCount_replies (s : State) (p : PmcPlace) (ev ctx n : Nat) : (pmcCount s p ev ctx n).replies = s.replies := by
  obtain ⟨_, _, _, _, h⟩ := State.pmcCount_eq s p ev ctx n; rw [h]
@[simp] theorem State.pmcCount_signals (s : State) (p : PmcPlace) (ev ctx n : Nat) : (pmcCount s p ev ctx n).signals = s.signals := by
  obtain ⟨_, _, _, _, h⟩ := State.pmcCount_eq s p ev ctx n; rw [h]
@[simp] theorem State.pmcCount_spi (s : State) (p : PmcPlace) (ev ctx n : Nat) : (pmcCount s p ev ctx n).spi = s.spi := by
  obtain ⟨_, _, _, _, h⟩ := State.pmcCount_eq s p ev ctx n; rw [h]
@[simp] theorem State.pmcCount_repairs (s : State) (p : PmcPlace) (ev ctx n : Nat) : (pmcCount s p ev ctx n).repairs = s.repairs := by
  obtain ⟨_, _, _, _, h⟩ := State.pmcCount_eq s p ev ctx n; rw [h]
@[simp] theorem State.pmcCount_retired (s : State) (p : PmcPlace) (ev ctx n : Nat) : (pmcCount s p ev ctx n).retired = s.retired := by
  obtain ⟨_, _, _, _, h⟩ := State.pmcCount_eq s p ev ctx n; rw [h]
@[simp] theorem State.pmcCount_burnt (s : State) (p : PmcPlace) (ev ctx n : Nat) : (pmcCount s p ev ctx n).burnt = s.burnt := by
  obtain ⟨_, _, _, _, h⟩ := State.pmcCount_eq s p ev ctx n; rw [h]
@[simp] theorem State.pmcCount_rowErrs (s : State) (p : PmcPlace) (ev ctx n : Nat) : (pmcCount s p ev ctx n).rowErrs = s.rowErrs := by
  obtain ⟨_, _, _, _, h⟩ := State.pmcCount_eq s p ev ctx n; rw [h]
@[simp] theorem State.pmcCount_ecs (s : State) (p : PmcPlace) (ev ctx n : Nat) : (pmcCount s p ev ctx n).ecs = s.ecs := by
  obtain ⟨_, _, _, _, h⟩ := State.pmcCount_eq s p ev ctx n; rw [h]
@[simp] theorem State.pmcCount_postponed (s : State) (p : PmcPlace) (ev ctx n : Nat) : (pmcCount s p ev ctx n).postponed = s.postponed := by
  obtain ⟨_, _, _, _, h⟩ := State.pmcCount_eq s p ev ctx n; rw [h]
@[simp] theorem State.pmcCount_mem (s : State) (p : PmcPlace) (ev ctx n : Nat) : (pmcCount s p ev ctx n).mem = s.mem := by
  obtain ⟨_, _, _, _, h⟩ := State.pmcCount_eq s p ev ctx n; rw [h]
@[simp] theorem State.pmcCount_poison (s : State) (p : PmcPlace) (ev ctx n : Nat) : (pmcCount s p ev ctx n).poison = s.poison := by
  obtain ⟨_, _, _, _, h⟩ := State.pmcCount_eq s p ev ctx n; rw [h]
@[simp] theorem State.pmcCount_hdm0 (s : State) (p : PmcPlace) (ev ctx n : Nat) : (pmcCount s p ev ctx n).hdm0 = s.hdm0 := by
  obtain ⟨_, _, _, _, h⟩ := State.pmcCount_eq s p ev ctx n; rw [h]
@[simp] theorem State.pmcCount_hdm1 (s : State) (p : PmcPlace) (ev ctx n : Nat) : (pmcCount s p ev ctx n).hdm1 = s.hdm1 := by
  obtain ⟨_, _, _, _, h⟩ := State.pmcCount_eq s p ev ctx n; rw [h]
@[simp] theorem State.pmcCount_ioPorts (s : State) (p : PmcPlace) (ev ctx n : Nat) : (pmcCount s p ev ctx n).ioPorts = s.ioPorts := by
  obtain ⟨_, _, _, _, h⟩ := State.pmcCount_eq s p ev ctx n; rw [h]
@[simp] theorem State.pmcCount_hostHeld (s : State) (p : PmcPlace) (ev ctx n : Nat) : (pmcCount s p ev ctx n).hostHeld = s.hostHeld := by
  obtain ⟨_, _, _, _, h⟩ := State.pmcCount_eq s p ev ctx n; rw [h]
@[simp] theorem State.pmcCount_own (s : State) (p : PmcPlace) (ev ctx n : Nat) : (pmcCount s p ev ctx n).own = s.own := by
  obtain ⟨_, _, _, _, h⟩ := State.pmcCount_eq s p ev ctx n; rw [h]
@[simp] theorem State.pmcCount_far (s : State) (p : PmcPlace) (ev ctx n : Nat) : (pmcCount s p ev ctx n).far = s.far := by
  obtain ⟨_, _, _, _, h⟩ := State.pmcCount_eq s p ev ctx n; rw [h]
@[simp] theorem State.pmcCount_peers (s : State) (p : PmcPlace) (ev ctx n : Nat) : (pmcCount s p ev ctx n).peers = s.peers := by
  obtain ⟨_, _, _, _, h⟩ := State.pmcCount_eq s p ev ctx n; rw [h]
@[simp] theorem State.pmcCount_tlb (s : State) (p : PmcPlace) (ev ctx n : Nat) : (pmcCount s p ev ctx n).tlb = s.tlb := by
  obtain ⟨_, _, _, _, h⟩ := State.pmcCount_eq s p ev ctx n; rw [h]
@[simp] theorem State.pmcCount_preqs (s : State) (p : PmcPlace) (ev ctx n : Nat) : (pmcCount s p ev ctx n).preqs = s.preqs := by
  obtain ⟨_, _, _, _, h⟩ := State.pmcCount_eq s p ev ctx n; rw [h]
@[simp] theorem State.pmcCount_wchecks (s : State) (p : PmcPlace) (ev ctx n : Nat) : (pmcCount s p ev ctx n).wchecks = s.wchecks := by
  obtain ⟨_, _, _, _, h⟩ := State.pmcCount_eq s p ev ctx n; rw [h]
@[simp] theorem State.pmcCount_wfaults (s : State) (p : PmcPlace) (ev ctx n : Nat) : (pmcCount s p ev ctx n).wfaults = s.wfaults := by
  obtain ⟨_, _, _, _, h⟩ := State.pmcCount_eq s p ev ctx n; rw [h]
@[simp] theorem State.pmcCount_evPend (s : State) (p : PmcPlace) (ev ctx n : Nat) : (pmcCount s p ev ctx n).evPend = s.evPend := by
  obtain ⟨_, _, _, _, h⟩ := State.pmcCount_eq s p ev ctx n; rw [h]
@[simp] theorem State.pmcCount_l1 (s : State) (p : PmcPlace) (ev ctx n : Nat) : (pmcCount s p ev ctx n).l1 = s.l1 := by
  obtain ⟨_, _, _, _, h⟩ := State.pmcCount_eq s p ev ctx n; rw [h]
@[simp] theorem State.pmcCount_homes (s : State) (p : PmcPlace) (ev ctx n : Nat) : (pmcCount s p ev ctx n).homes = s.homes := by
  obtain ⟨_, _, _, _, h⟩ := State.pmcCount_eq s p ev ctx n; rw [h]
@[simp] theorem State.pmcCount_fills (s : State) (p : PmcPlace) (ev ctx n : Nat) : (pmcCount s p ev ctx n).fills = s.fills := by
  obtain ⟨_, _, _, _, h⟩ := State.pmcCount_eq s p ev ctx n; rw [h]
@[simp] theorem State.pmcCount_wq (s : State) (p : PmcPlace) (ev ctx n : Nat) : (pmcCount s p ev ctx n).wq = s.wq := by
  obtain ⟨_, _, _, _, h⟩ := State.pmcCount_eq s p ev ctx n; rw [h]
@[simp] theorem State.pmcCount_spad (s : State) (p : PmcPlace) (ev ctx n : Nat) : (pmcCount s p ev ctx n).spad = s.spad := by
  obtain ⟨_, _, _, _, h⟩ := State.pmcCount_eq s p ev ctx n; rw [h]
@[simp] theorem State.pmcCount_spadBase (s : State) (p : PmcPlace) (ev ctx n : Nat) : (pmcCount s p ev ctx n).spadBase = s.spadBase := by
  obtain ⟨_, _, _, _, h⟩ := State.pmcCount_eq s p ev ctx n; rw [h]
@[simp] theorem State.pmcCount_spadLog (s : State) (p : PmcPlace) (ev ctx n : Nat) : (pmcCount s p ev ctx n).spadLog = s.spadLog := by
  obtain ⟨_, _, _, _, h⟩ := State.pmcCount_eq s p ev ctx n; rw [h]
@[simp] theorem State.pmcCount_ctxs (s : State) (p : PmcPlace) (ev ctx n : Nat) : (pmcCount s p ev ctx n).ctxs = s.ctxs := by
  obtain ⟨_, _, _, _, h⟩ := State.pmcCount_eq s p ev ctx n; rw [h]
@[simp] theorem State.pmcCount_teams (s : State) (p : PmcPlace) (ev ctx n : Nat) : (pmcCount s p ev ctx n).teams = s.teams := by
  obtain ⟨_, _, _, _, h⟩ := State.pmcCount_eq s p ev ctx n; rw [h]
@[simp] theorem State.pmcCount_launches (s : State) (p : PmcPlace) (ev ctx n : Nat) : (pmcCount s p ev ctx n).launches = s.launches := by
  obtain ⟨_, _, _, _, h⟩ := State.pmcCount_eq s p ev ctx n; rw [h]
@[simp] theorem State.pmcCount_watches (s : State) (p : PmcPlace) (ev ctx n : Nat) : (pmcCount s p ev ctx n).watches = s.watches := by
  obtain ⟨_, _, _, _, h⟩ := State.pmcCount_eq s p ev ctx n; rw [h]
@[simp] theorem State.pmcCount_pushes (s : State) (p : PmcPlace) (ev ctx n : Nat) : (pmcCount s p ev ctx n).pushes = s.pushes := by
  obtain ⟨_, _, _, _, h⟩ := State.pmcCount_eq s p ev ctx n; rw [h]
@[simp] theorem State.pmcCount_spawned (s : State) (p : PmcPlace) (ev ctx n : Nat) : (pmcCount s p ev ctx n).spawned = s.spawned := by
  obtain ⟨_, _, _, _, h⟩ := State.pmcCount_eq s p ev ctx n; rw [h]
@[simp] theorem State.pmcCount_ages (s : State) (p : PmcPlace) (ev ctx n : Nat) : (pmcCount s p ev ctx n).ages = s.ages := by
  obtain ⟨_, _, _, _, h⟩ := State.pmcCount_eq s p ev ctx n; rw [h]
@[simp] theorem State.pmcCount_casts (s : State) (p : PmcPlace) (ev ctx n : Nat) : (pmcCount s p ev ctx n).casts = s.casts := by
  obtain ⟨_, _, _, _, h⟩ := State.pmcCount_eq s p ev ctx n; rw [h]
@[simp] theorem State.pmcCount_spills (s : State) (p : PmcPlace) (ev ctx n : Nat) : (pmcCount s p ev ctx n).spills = s.spills := by
  obtain ⟨_, _, _, _, h⟩ := State.pmcCount_eq s p ev ctx n; rw [h]
@[simp] theorem State.pmcCount_stalls (s : State) (p : PmcPlace) (ev ctx n : Nat) : (pmcCount s p ev ctx n).stalls = s.stalls := by
  obtain ⟨_, _, _, _, h⟩ := State.pmcCount_eq s p ev ctx n; rw [h]
@[simp] theorem State.pmcCount_arrivals (s : State) (p : PmcPlace) (ev ctx n : Nat) : (pmcCount s p ev ctx n).arrivals = s.arrivals := by
  obtain ⟨_, _, _, _, h⟩ := State.pmcCount_eq s p ev ctx n; rw [h]
@[simp] theorem State.pmcCount_mail (s : State) (p : PmcPlace) (ev ctx n : Nat) : (pmcCount s p ev ctx n).mail = s.mail := by
  obtain ⟨_, _, _, _, h⟩ := State.pmcCount_eq s p ev ctx n; rw [h]
@[simp] theorem State.pmcCount_hub (s : State) (p : PmcPlace) (ev ctx n : Nat) : (pmcCount s p ev ctx n).hub = s.hub := by
  obtain ⟨_, _, _, _, h⟩ := State.pmcCount_eq s p ev ctx n; rw [h]
@[simp] theorem State.pmcCount_windows (s : State) (p : PmcPlace) (ev ctx n : Nat) : (pmcCount s p ev ctx n).windows = s.windows := by
  obtain ⟨_, _, _, _, h⟩ := State.pmcCount_eq s p ev ctx n; rw [h]
@[simp] theorem State.pmcCount_vents (s : State) (p : PmcPlace) (ev ctx n : Nat) : (pmcCount s p ev ctx n).vents = s.vents := by
  obtain ⟨_, _, _, _, h⟩ := State.pmcCount_eq s p ev ctx n; rw [h]
@[simp] theorem State.pmcCount_regions (s : State) (p : PmcPlace) (ev ctx n : Nat) : (pmcCount s p ev ctx n).regions = s.regions := by
  obtain ⟨_, _, _, _, h⟩ := State.pmcCount_eq s p ev ctx n; rw [h]
@[simp] theorem State.pmcCount_tracked (s : State) (p : PmcPlace) (ev ctx n : Nat) : (pmcCount s p ev ctx n).tracked = s.tracked := by
  obtain ⟨_, _, _, _, h⟩ := State.pmcCount_eq s p ev ctx n; rw [h]
@[simp] theorem State.pmcCount_spec (s : State) (p : PmcPlace) (ev ctx n : Nat) : (pmcCount s p ev ctx n).spec = s.spec := by
  obtain ⟨_, _, _, _, h⟩ := State.pmcCount_eq s p ev ctx n; rw [h]
@[simp] theorem State.pmcCount_ports (s : State) (p : PmcPlace) (ev ctx n : Nat) : (pmcCount s p ev ctx n).ports = s.ports := by
  obtain ⟨_, _, _, _, h⟩ := State.pmcCount_eq s p ev ctx n; rw [h]
@[simp] theorem State.pmcCount_routes (s : State) (p : PmcPlace) (ev ctx n : Nat) : (pmcCount s p ev ctx n).routes = s.routes := by
  obtain ⟨_, _, _, _, h⟩ := State.pmcCount_eq s p ev ctx n; rw [h]
@[simp] theorem State.pmcCount_unsent (s : State) (p : PmcPlace) (ev ctx n : Nat) : (pmcCount s p ev ctx n).unsent = s.unsent := by
  obtain ⟨_, _, _, _, h⟩ := State.pmcCount_eq s p ev ctx n; rw [h]
@[simp] theorem State.pmcCount_committedAt (s : State) (p : PmcPlace) (ev ctx n : Nat) : (pmcCount s p ev ctx n).committedAt = s.committedAt := by
  obtain ⟨_, _, _, _, h⟩ := State.pmcCount_eq s p ev ctx n; rw [h]
@[simp] theorem State.pmcCount_current (s : State) (p : PmcPlace) (ev ctx n : Nat) : (pmcCount s p ev ctx n).current = s.current := by
  obtain ⟨_, _, _, _, h⟩ := State.pmcCount_eq s p ev ctx n; rw [h]
@[simp] theorem State.pmcCount_order (s : State) (p : PmcPlace) (ev ctx n : Nat) : (pmcCount s p ev ctx n).order = s.order := by
  obtain ⟨_, _, _, _, h⟩ := State.pmcCount_eq s p ev ctx n; rw [h]
@[simp] theorem State.pmcCount_fresh (s : State) (p : PmcPlace) (ev ctx n : Nat) : (pmcCount s p ev ctx n).fresh = s.fresh := by
  obtain ⟨_, _, _, _, h⟩ := State.pmcCount_eq s p ev ctx n; rw [h]

end Sys2Proof.Machine
end

