-- ==== Sys2Proof/Laws/Tab.lean ====
section
/-! SUPPORT. Tables and memory: a read after a write, and the canonical form every memory operation keeps. -/

namespace Sys2Proof.Machine

/-! ## Reading after writing -/

theorem Tab.find_put {α : Type} (t : Tab α) (k n : Nat) (v : α) :
    Tab.find (Tab.put t k v) n = if n = k then some v else Tab.find t n := by
  induction t <;> grind [Tab.put, Tab.find]

theorem Tab.find_del {α : Type} (t : Tab α) (k n : Nat) :
    Tab.find (Tab.del t k) n = if n = k then none else Tab.find t n := by
  induction t <;> grind [Tab.del, Tab.find]

@[simp] theorem Tab.find_put_same {α : Type} (t : Tab α) (k : Nat) (v : α) : Tab.find (Tab.put t k v) k = some v := by
  simp [Tab.find_put]

theorem Tab.find_put_other {α : Type} (t : Tab α) {k n : Nat} (v : α) (h : n ≠ k) :
    Tab.find (Tab.put t k v) n = Tab.find t n := by simp [Tab.find_put, h]

@[simp] theorem Tab.find_del_same {α : Type} (t : Tab α) (k : Nat) : Tab.find (Tab.del t k) k = none := by simp [Tab.find_del]

theorem Tab.find_del_other {α : Type} (t : Tab α) {k n : Nat} (h : n ≠ k) : Tab.find (Tab.del t k) n = Tab.find t n := by
  simp [Tab.find_del, h]

theorem Tab.get_eq {α : Type} (d : α) (t : Tab α) (k : Nat) : Tab.get d t k = (Tab.find t k).getD d := by
  induction t <;> grind [Tab.get, Tab.find]

theorem Tab.get_put {α : Type} (d : α) (t : Tab α) (k n : Nat) (v : α) :
    Tab.get d (Tab.put t k v) n = if n = k then v else Tab.get d t n := by
  simp only [Tab.get_eq, Tab.find_put]
  split <;> rfl

/-- A read after a write gives the value written, and a write leaves every other place alone. -/
theorem Tab.get_set {α : Type} [DecidableEq α] (d : α) (t : Tab α) (k n : Nat) (v : α) :
    Tab.get d (Tab.set d t k v) n = if n = k then v else Tab.get d t n := by
  grind [Tab.set, Tab.get_put, Tab.get_eq, Tab.find_del]

theorem memByte_memSet (m : List Host.Cell) (k n : Nat) (b : Byte) :
    memByte (memSet m k b) n = if n = k then b else memByte m n :=
  Tab.get_set unlistedByte m k n b

/-- A byte after a run of bytes was written: the byte written there, else what it was. -/
theorem memByte_memWrite (bs : List Byte) (m : List Host.Cell) (k n : Nat) :
    memByte (memWrite m k bs) n = if k ≤ n ∧ n < k + bs.length then bs.getD (n - k) 0 else memByte m n := by
  induction bs generalizing m k with
  | nil => simp [memWrite]
  | cons b r ih =>
    rw [memWrite, ih, memByte_memSet]
    obtain h | rfl | h := Nat.lt_trichotomy n k
    · rw [if_neg (by omega), if_neg (by omega), if_neg (by omega)]
    · simp
    · obtain ⟨j, rfl⟩ := Nat.exists_eq_add_of_lt h
      have e1 : k + j + 1 - k = j + 1 := by omega
      have e2 : k + j + 1 - (k + 1) = j := by omega
      rw [if_neg (show ¬ k + j + 1 = k by omega), e1, e2, List.getD_cons_succ, List.length_cons]
      exact if_congr (by omega) rfl rfl

/-! ## The canonical form -/

theorem Tab.sorted_cons {α : Type} (e : Nat × α) (t : Tab α) :
    Tab.sorted (e :: t) = true ↔ Tab.sorted t = true ∧ ∀ y ∈ t, e.1 < y.1 := by
  induction t generalizing e <;> grind [Tab.sorted]

theorem Tab.mem_put {α : Type} (t : Tab α) (k : Nat) (v : α) (y : Nat × α) (h : y ∈ Tab.put t k v) : y = (k, v) ∨ y ∈ t := by
  induction t <;> grind [Tab.put]

theorem Tab.mem_del {α : Type} (t : Tab α) (k : Nat) (y : Nat × α) (h : y ∈ Tab.del t k) : y ∈ t := by
  induction t <;> grind [Tab.del]

theorem Tab.put_sorted {α : Type} (t : Tab α) (k : Nat) (v : α) (h : Tab.sorted t = true) : Tab.sorted (Tab.put t k v) = true := by
  induction t <;> grind [Tab.put, Tab.sorted, Tab.sorted_cons, → Tab.mem_put]

theorem Tab.del_sorted {α : Type} (t : Tab α) (k : Nat) (h : Tab.sorted t = true) : Tab.sorted (Tab.del t k) = true := by
  induction t <;> grind [Tab.del, Tab.sorted_cons, → Tab.mem_del]

/-- Writing a byte keeps the canonical form. -/
theorem memSet_wf (m : List Host.Cell) (k : Nat) (b : Byte) (h : Memory.wf m = true) : Memory.wf (memSet m k b) = true := by
  simp only [Memory.wf, Bool.and_eq_true, List.all_eq_true] at h ⊢
  grind [memSet, Tab.set, Tab.del_sorted, Tab.put_sorted, → Tab.mem_del, → Tab.mem_put]

/-- Writing bytes keeps the canonical form. -/
theorem memWrite_wf (bs : List Byte) (m : List Host.Cell) (k : Nat) (h : Memory.wf m = true) : Memory.wf (memWrite m k bs) = true := by
  induction bs generalizing m k with
  | nil => exact h
  | cons b r ih => exact ih _ _ (memSet_wf m k b h)

/-- Writing bytes one by one at places a list names keeps it. -/
theorem memSets_wf (is : List Nat) (g : Nat → Nat) (v : Nat → Byte) (m : List Host.Cell) (h : Memory.wf m = true) :
    Memory.wf (is.foldl (fun m i => memSet m (g i) (v i)) m) = true := by
  induction is generalizing m with
  | nil => exact h
  | cons i r ih => exact ih _ (memSet_wf m _ _ h)

/-- Leaving entries out keeps it. -/
theorem filter_wf (p : Host.Cell → Bool) (m : List Host.Cell) (h : Memory.wf m = true) : Memory.wf (m.filter p) = true := by
  simp only [Memory.wf, Bool.and_eq_true, List.all_eq_true] at h ⊢
  refine ⟨?_, fun y hy => h.2 y (List.mem_of_mem_filter hy)⟩
  have hs := h.1
  clear h
  induction m <;> grind [Tab.sorted_cons]

theorem reset_wf : Memory.wf State.reset.mem = true := rfl

end Sys2Proof.Machine
end

