-- ==== Sys2Proof/Laws/Issue.lean ====
section
/-! SUPPORT. What issuing an instruction can do, said once: the trap, the wait or the effect; and what completing it
leaves. -/

namespace Sys2Proof.Machine

/-! ## Teams -/

@[simp] theorem State.team?_setTeam (s : State) (k : Nat) (t : Team) : (s.setTeam k t).team? k = some t :=
  Tab.find_put_same ..

theorem State.team?_setTeam_other (s : State) {k n : Nat} (t : Team) (h : n ≠ k) : (s.setTeam k t).team? n = s.team? n :=
  Tab.find_put_other _ _ h

@[simp] theorem State.core_setCore (s : State) (c n : Nat) (x : Core) :
    (s.setCore c x).core n = if n = c then x else s.core n := Tab.get_set ..

@[simp] theorem State.core_setTeam (s : State) (k : Nat) (t : Team) (c : Nat) : (s.setTeam k t).core c = s.core c := rfl

theorem State.onTeam_some {s : State} {k : Nat} {t : Team} (h : s.team? k = some t) (f : Team → Team) :
    s.onTeam k f = s.setTeam k (f t) := by simp [State.onTeam, h]

/-! ## Issue -/

/-- Nothing holds the instruction back: its own effect decides. -/
theorem issue_clear {i : Instr} {s : State} {sid : Nat} {t : Team} (c : Clear i s sid t) (body : Nat → View → State → Done) :
    issue i s body = finish i sid (teamAtIssue i s sid t) (uses i) (body sid (viewAtIssue i s sid t) (atIssue i s sid t)) := by
  have h5 : (if t.sbchk && t.mem.isNone then checkStall t s.clock (isVector (opcOf i)) (uses i).src else none) = none := by
    split
    · rename_i h
      simp only [Bool.and_eq_true, Option.isNone_iff_eq_none] at h
      exact c.timely h.1 h.2
    · rfl
  simp only [issue, c.selected, c.resident, c.noTrap, c.checked, c.landed, Nat.not_lt.mpr c.inOrder, h5, if_false]
  rfl

/-- A scalar-side instruction whose guard fails has no effect (05 R85). -/
theorem issueScalar_off {i : Instr} {h : Hdr} {s : State} {sid : Nat} {t : Team} (c : Clear i s sid t)
    (hg : (viewAtIssue i s sid t).guard h = false) (body : Nat → View → State → Done) :
    issueScalar i h s body = .next (fallen i s sid t (atIssue i s sid t) 0) := by
  simp [issueScalar, issue_clear c, hg, finish, fallen]

theorem issueScalar_on {i : Instr} {h : Hdr} {s : State} {sid : Nat} {t : Team} (c : Clear i s sid t)
    (hg : (viewAtIssue i s sid t).guard h = true) (body : Nat → View → State → Done) :
    issueScalar i h s body =
      finish i sid (teamAtIssue i s sid t) (uses i) (body sid (viewAtIssue i s sid t) (atIssue i s sid t)) := by
  simp [issueScalar, issue_clear c, hg]

@[simp] theorem viewAtIssue_t (i : Instr) (s : State) (sid : Nat) (t : Team) : (viewAtIssue i s sid t).t = teamAtIssue i s sid t := rfl

theorem finish_fall (i : Instr) (s : State) (sid : Nat) (t : Team) (e : State) (n : Nat) :
    finish i sid (teamAtIssue i s sid t) (uses i) (.fall e n) = .next (fallen i s sid t e n) := rfl

/-! ## The state an effect finds -/

theorem readTokens_team {s : State} {sid : Nat} {t : Team} (h : s.team? sid = some t) (rs : List RegName) :
    ∃ m, (readTokens s sid t rs).team? sid = some { t with acqToks := m } := by
  unfold readTokens
  simp only
  split
  · exact ⟨t.acqToks, by rw [h]⟩
  · exact ⟨_, Tab.find_put_same ..⟩

theorem Clear.team {i : Instr} {s : State} {sid : Nat} {t : Team} (c : Clear i s sid t) :
    ∃ m, (atIssue i s sid t).team? sid = some { t with acqToks := m } ∧ teamAtIssue i s sid t = { t with acqToks := m } := by
  have key : ∃ m, (atIssue i s sid t).team? sid = some { t with acqToks := m } := by
    unfold atIssue
    split
    · exact readTokens_team c.resident _
    · exact ⟨t.acqToks, c.resident⟩
  obtain ⟨m, h⟩ := key
  exact ⟨m, h, by simp [teamAtIssue, h]⟩

theorem Clear.resident_atIssue {i : Instr} {s : State} {sid : Nat} {t : Team} (c : Clear i s sid t) :
    (atIssue i s sid t).team? sid = some (teamAtIssue i s sid t) := by
  obtain ⟨m, h1, h2⟩ := c.team
  rw [h1, h2]

/-- Where it is checked that every source is readable, none reads as its old value. -/
theorem Clear.early {i : Instr} {s : State} {sid : Nat} {t : Team} (c : Clear i s sid t) (hs : t.sbchk = true) (hm : t.mem = none) :
    (viewAtIssue i s sid t).early = [] := by
  obtain ⟨m, h1, h2⟩ := c.team
  have hclk : (atIssue i s sid t).clock = s.clock := by
    unfold atIssue readTokens
    simp only
    split
    · split <;> rfl
    · rfl
  have key : ∀ (src : List (Nat × Nat × RegName)), checkStall t s.clock (isVector (opcOf i)) src = none →
      ∀ e ∈ t.fixed, ¬ (e.early s.clock (isVector (opcOf i)) && src.any (fun x => e.reg.meets x.2.2)) = true := by
    intro src
    induction src with
    | nil => simp
    | cons x r ih =>
      obtain ⟨p, q, rg⟩ := x
      intro h e he
      unfold checkStall at h
      split at h
      · cases h
      · have h3 := ih h e he
        rename_i h4
        simp only [Bool.not_eq_true, List.any_eq_false, Bool.and_eq_true, not_and] at h4
        simp only [Bool.and_eq_true, List.any_cons, Bool.or_eq_true, not_and, not_or] at h3 ⊢
        intro h5
        exact ⟨fun h6 => by simp [h4 e he h6] at h5, h3 h5⟩
  simp only [viewAtIssue, viewOf, h2, hclk, List.reverse_eq_nil_iff, List.map_eq_nil_iff, List.filter_eq_nil_iff]
  exact key _ (c.timely hs hm)

/-! ## What completing leaves -/

theorem notePass_spec {s : State} {sid : Nat} {t : Team} (h : s.team? sid = some t) (cycles n : Nat) (yld : Bool) :
    ∃ k, (notePass s sid cycles n yld).team? sid = some { t with issued := k } := by
  unfold notePass
  rw [h]
  simp only [State.team?, State.nextOrder_teams, State.pmcCount_teams, State.onCore_eq, State.setCore_teams]
  exact ⟨_, Tab.find_put_same ..⟩

theorem notePass_other (s : State) (sid cycles n : Nat) (yld : Bool) {k : Nat} (hk : k ≠ sid) :
    (notePass s sid cycles n yld).team? k = s.team? k := by
  unfold notePass
  split
  · rfl
  · simp only [State.team?, State.nextOrder_teams, State.pmcCount_teams, State.onCore_eq, State.setCore_teams]
    exact Tab.find_put_other _ _ hk

/-- Noting a pass leaves every byte as it was. -/
theorem notePass_bytes (s : State) (sid cycles n : Nat) (yld : Bool) :
    (notePass s sid cycles n yld).mem = s.mem ∧ (notePass s sid cycles n yld).spad = s.spad ∧
      (notePass s sid cycles n yld).spadBase = s.spadBase ∧ (notePass s sid cycles n yld).l1 = s.l1 ∧
      (notePass s sid cycles n yld).homes = s.homes ∧ (notePass s sid cycles n yld).spec = s.spec := by
  unfold notePass
  split <;> simp

/-- A team as it is put back, and its pass noted. -/
theorem noted_spec (s : State) (sid : Nat) (t : Team) (p : PmcPlace) (ev c m cycles n : Nat) (yld : Bool) :
    ∃ k, ({ (notePass (pmcCount (s.setTeam sid t) p ev c m) sid cycles n yld).tick1 with current := none } : State).team? sid =
      some { t with issued := k } := by
  obtain ⟨k, hk⟩ := notePass_spec (s := pmcCount (s.setTeam sid t) p ev c m) (sid := sid) (t := t)
    (by simp only [State.team?, State.pmcCount_teams]; exact Tab.find_put_same ..) cycles n yld
  exact ⟨k, by simpa [State.team?] using hk⟩

/-- What holds of the registers and of the counters holds of both. -/
theorem SameSpecial.of_held {t t' : Team} (h : SameHeld t t') (e : t'.exc = t.exc) : SameSpecial t t' := { h with counts := e }

theorem retire_spec {i : Instr} {sid : Nat} {t0 : Team} {u : Uses} {s : State} {n : Nat} {pc : Word} {t : Team}
    (h : s.team? sid = some t) :
    ∃ t', (retire i sid t0 u s n pc).team? sid = some t' ∧ t'.pc = pc ∧ t'.s = t.s ∧ t'.v = t.v ∧ t'.p = t.p ∧ t'.w = t.w ∧
      t'.mask = t.mask ∧ t'.owed = t.owed ∧ SameSpecial t t' := by
  unfold retire
  rw [h]
  simp only
  refine ⟨_, (noted_spec ..).choose_spec, ?_⟩
  and_intros <;> first | rfl | exact SameSpecial.of_held (by constructor <;> and_intros <;> intros <;> rfl) rfl

theorem retire_other (i : Instr) (sid : Nat) (t0 : Team) (u : Uses) (s : State) (n : Nat) (pc : Word) {k : Nat} (hk : k ≠ sid) :
    (retire i sid t0 u s n pc).team? k = s.team? k := by
  unfold retire
  split
  · rfl
  · simp only
    rw [show ∀ x : State, ({ x.tick1 with current := none } : State).team? k = x.team? k from fun x => by simp [State.team?],
      notePass_other _ _ _ _ _ hk]
    simp only [State.team?, State.pmcCount_teams]
    exact Tab.find_put_other _ _ hk

theorem spadByte_congr {s s' : State} (h : s'.spad = s.spad) (g : s'.spadBase = s.spadBase) (k : Nat) : spadByte s' k = spadByte s k := by
  rw [spadByte, spadByte, h, g]

theorem noted_bytes (s : State) (sid : Nat) (t : Team) (p : PmcPlace) (ev c m cycles n : Nat) (yld : Bool) :
    let e : State := { (notePass (pmcCount (s.setTeam sid t) p ev c m) sid cycles n yld).tick1 with current := none }
    e.mem = s.mem ∧ (∀ k, spadByte e k = spadByte s k) ∧ e.l1 = s.l1 ∧ e.homes = s.homes ∧ e.spec = s.spec := by
  obtain ⟨h1, h2, h3, h4, h5, h6⟩ := notePass_bytes (pmcCount (s.setTeam sid t) p ev c m) sid cycles n yld
  simp only [State.tick1_mem, State.tick1_l1, State.tick1_homes, State.tick1_spec, h1, h4, h5, h6, State.pmcCount_mem,
    State.pmcCount_l1, State.pmcCount_homes, State.pmcCount_spec]
  exact ⟨rfl, fun k => spadByte_congr (by simp [h2]) (by simp [h3]) k, rfl, rfl, rfl⟩

theorem retire_bytes (i : Instr) (sid : Nat) (t0 : Team) (u : Uses) (s : State) (n : Nat) (pc : Word) :
    (retire i sid t0 u s n pc).mem = s.mem ∧ (∀ k, spadByte (retire i sid t0 u s n pc) k = spadByte s k) ∧
      (retire i sid t0 u s n pc).l1 = s.l1 ∧ (retire i sid t0 u s n pc).homes = s.homes ∧ (retire i sid t0 u s n pc).spec = s.spec := by
  unfold retire
  split
  · exact ⟨rfl, fun _ => rfl, rfl, rfl, rfl⟩
  · exact noted_bytes ..

end Sys2Proof.Machine
end

