-- ==== Sys2Proof/Laws/PerInstr.lean ====
section
/-! SUPPORT. Per instruction: the opcode map of 05 R100, written out once more from the spec, and that every instruction's
word carries its own OPC there and reserved bits of zero, while a device step has no word. -/

namespace Sys2Proof

/-- The opcode map (05 R100), by instruction; a device step is in no word. -/
def Laws.Encoded.opcOf : Instr → Option Nat
  | .nop .. => some 0x000
  | .bra .. => some 0x001
  | .brx .. => some 0x002
  | .call .. => some 0x003
  | .ret .. => some 0x004
  | .bdec .. => some 0x005
  | .exit .. => some 0x006
  | .yield .. => some 0x007
  | .trap .. => some 0x008
  | .brk .. => some 0x009
  | .msave .. => some 0x010
  | .mset .. => some 0x011
  | .mand .. => some 0x012
  | .mandn .. => some 0x013
  | .mcount .. => some 0x014
  | .mfirst .. => some 0x015
  | .pand .. => some 0x016
  | .por .. => some 0x017
  | .pxor .. => some 0x018
  | .pnot .. => some 0x019
  | .pmov .. => some 0x01A
  | .pbitsGet .. => some 0x01B
  | .pbitsPut .. => some 0x01B
  | .sadd .. => some 0x040
  | .ssub .. => some 0x041
  | .smul .. => some 0x042
  | .smulh .. => some 0x043
  | .sdiv .. => some 0x044
  | .srem .. => some 0x045
  | .sand .. => some 0x046
  | .sor .. => some 0x047
  | .sxor .. => some 0x048
  | .sshl .. => some 0x049
  | .sshr .. => some 0x04A
  | .ssar .. => some 0x04B
  | .smin .. => some 0x04C
  | .smax .. => some 0x04D
  | .scmp .. => some 0x04E
  | .ssel .. => some 0x04F
  | .smov .. => some 0x050
  | .sli .. => some 0x051
  | .sclz .. => some 0x052
  | .spopc .. => some 0x053
  | .sbfe .. => some 0x054
  | .sadc .. => some 0x055
  | .vadd .. => some 0x0C0
  | .vsub .. => some 0x0C1
  | .vmul .. => some 0x0C2
  | .vmulh .. => some 0x0C3
  | .vmad .. => some 0x0C4
  | .vmadw .. => some 0x0C5
  | .vadc .. => some 0x0C6
  | .vsbc .. => some 0x0C7
  | .vand .. => some 0x0C8
  | .vor .. => some 0x0C9
  | .vxor .. => some 0x0CA
  | .vshl .. => some 0x0CB
  | .vshr .. => some 0x0CC
  | .vsar .. => some 0x0CD
  | .vmin .. => some 0x0CE
  | .vmax .. => some 0x0CF
  | .vabs .. => some 0x0D0
  | .vcmp .. => some 0x0D1
  | .vsel .. => some 0x0D2
  | .vmov .. => some 0x0D3
  | .vclz .. => some 0x0D4
  | .vpopc .. => some 0x0D5
  | .vbfe .. => some 0x0D6
  | .vbfi .. => some 0x0D7
  | .vdot4 .. => some 0x0D8
  | .vfadd .. => some 0x140
  | .vfsub .. => some 0x141
  | .vfmul .. => some 0x142
  | .vffma .. => some 0x143
  | .vfmin .. => some 0x144
  | .vfmax .. => some 0x145
  | .vfcmp .. => some 0x146
  | .vfdiv .. => some 0x147
  | .vfsqrt .. => some 0x148
  | .vfrcp .. => some 0x149
  | .vfrsq .. => some 0x14A
  | .vfexp2 .. => some 0x14B
  | .vflog2 .. => some 0x14C
  | .vfsin .. => some 0x14D
  | .vfcos .. => some 0x14E
  | .vftanh .. => some 0x14F
  | .vfcvt .. => some 0x150
  | .vfrnd .. => some 0x151
  | .vfclass .. => some 0x152
  | .vfscale .. => some 0x153
  | .vred .. => some 0x1C0
  | .vredx .. => some 0x1C1
  | .vscan .. => some 0x1C2
  | .vshfl .. => some 0x1C3
  | .vbcast .. => some 0x1C4
  | .sgetl .. => some 0x1C5
  | .vsetl .. => some 0x1C6
  | .vsample .. => some 0x1C7
  | .vrng .. => some 0x1C8
  | .vtagGet .. => some 0x1C9
  | .vtagExpand .. => some 0x1C9
  | .vtagCompact .. => some 0x1C9
  | .vld .. => some 0x200
  | .vst .. => some 0x201
  | .sld .. => some 0x202
  | .sst .. => some 0x203
  | .vatom .. => some 0x204
  | .satom .. => some 0x205
  | .fence .. => some 0x206
  | .cpy .. => some 0x207
  | .cpyout .. => some 0x208
  | .twait .. => some 0x209
  | .pf .. => some 0x20A
  | .seal .. => some 0x20B
  | .unseal .. => some 0x20C
  | .cflush .. => some 0x20D
  | .cinval .. => some 0x20E
  | .mma .. => some 0x260
  | .mma2 .. => some 0x261
  | .mzero .. => some 0x262
  | .mload .. => some 0x263
  | .mdrain .. => some 0x264
  | .mver .. => some 0x265
  | .mwait .. => some 0x266
  | .mfence .. => some 0x267
  | .barv .. => some 0x2A0
  | .bwait .. => some 0x2A1
  | .bexp .. => some 0x2A2
  | .btest .. => some 0x2A3
  | .pend .. => some 0x2A4
  | .qpush .. => some 0x2A5
  | .qpop .. => some 0x2A6
  | .qspawn .. => some 0x2A7
  | .qcancel .. => some 0x2A8
  | .dpush .. => some 0x2A9
  | .dpop .. => some 0x2AA
  | .dsteal .. => some 0x2AB
  | .lnext .. => some 0x2AC
  | .lwait .. => some 0x2AD
  | .nmopen .. => some 0x2C0
  | .nmcall .. => some 0x2C1
  | .nmcommit .. => some 0x2C2
  | .nmstat .. => some 0x2C3
  | .nmclose .. => some 0x2C4
  | .rbeg .. => some 0x2E0
  | .rend .. => some 0x2E1
  | .rabt .. => some 0x2E2
  | .rstat .. => some 0x2E3
  | .gcall .. => some 0x2F0
  | .gret .. => some 0x2F1
  | .gpoll .. => some 0x2F2
  | .csrr .. => some 0x300
  | .csrw .. => some 0x301
  | .tret .. => some 0x302
  | .probe .. => some 0x303
  | .intr .. => some 0x304
  | .tinv .. => some 0x305
  | .wcsld .. => some 0x306
  | .instructionFetch .. | .passIssueSelect .. | .resultLand .. | .pendingTrapTaken .. | .excWindowClose ..
  | .queueAgentWake .. | .entryAccept .. | .queueAgentPush .. | .queueAccessRetry .. | .dispatchPlacement ..
  | .starvationPlacement .. | .phaseRecordRead .. | .bindRecordWrite .. | .cancelArrival .. | .passAged ..
  | .l1FillLand .. | .l1WriteBack .. | .writeCheckReturn .. | .pageResponse .. | .memoryPoison .. | .hostReadSnoop ..
  | .hostWriteOwnership .. | .hostOwnershipArrival .. | .snoopDelayExpiry .. | .ioAtomicResponse ..
  | .peerAccessArrival .. | .calderaRowDone .. | .calderaCopyEnd .. | .matrixEntryStart .. | .matrixGatherDone ..
  | .matrixOpComplete .. | .transferFault .. | .ventAttemptStart .. | .ventCallExecute .. | .ventCommitRequest ..
  | .ventCommitPoint .. | .ventTranslationMiss .. | .callArrival .. | .callAck .. | .callPromotion .. | .spillDrain ..
  | .stallBufferRelease .. | .replyLand .. | .gyTimeoutExpiry .. | .flitReceive .. | .flitAckReceive ..
  | .crcWindowClose .. | .laneRepairStart .. | .laneRepairDrainDone .. | .portRetrainTimeout .. | .portTraining ..
  | .phaseBoundaryPreempt .. | .forcedPreempt .. | .contextResume .. | .unitFail .. | .uncorrectedEcc ..
  | .machineCheck .. | .teamRetire .. | .launchRetire .. | .counterOverflow .. | .pmcCntWrite .. | .pmcSelWrite ..
  | .qtLenWrite .. | .excWinWrite .. | .excCntWrite .. | .ordModeWrite .. | .nmCsrWrite .. | .fjDevidWrite ..
  | .mgmtSemWrite .. | .csrWrite .. | .readPmc .. | .readEcs .. | .readLog .. | .createCtx .. | .writeCsr ..
  | .writePmc .. | .maintReset .. | .fwUpdate .. | .bankRefreshDue .. | .ecsScrubError .. | .powerGood ..
  | .flitReplayRequest .. | .homeWriteQueueDrain .. | .queueResidencyWrite .. | .leaseExpiry | .barrierHubCycle
  | .regionCommit | .mgmtSemTimeout | .thermalPowerLimit | .junctionOver110c | .inputPowerLoss | .junctionBelow100c => none

/-- The word of an instruction carries the OPC of its row, and its reserved bits are zero (05 R76, R100). -/
def Laws.Encoded.Statement (i : Instr) : Prop := i.fields.map (fun f => (f.opc.toNat, f.rsv)) = (Laws.Encoded.opcOf i).map (fun n => (n, 0))

theorem Laws.Encoded.nop (h : Hdr) : Laws.Encoded.Statement (.nop h) := rfl
theorem Laws.Encoded.bra (h : Hdr) (c : BrCond) (off : BitVec 32) : Laws.Encoded.Statement (.bra h c off) := rfl
theorem Laws.Encoded.brx (h : Hdr) (c : BrCond) (b : SIdx) : Laws.Encoded.Statement (.brx h c b) := rfl
theorem Laws.Encoded.call (h : Hdr) (c : BrCond) (t : Target) : Laws.Encoded.Statement (.call h c t) := rfl
theorem Laws.Encoded.ret (h : Hdr) (c : BrCond) : Laws.Encoded.Statement (.ret h c) := rfl
theorem Laws.Encoded.bdec (h : Hdr) (d : SIdx) (off : BitVec 32) : Laws.Encoded.Statement (.bdec h d off) := rfl
theorem Laws.Encoded.exit (h : Hdr) : Laws.Encoded.Statement (.exit h) := rfl
theorem Laws.Encoded.yield (h : Hdr) : Laws.Encoded.Statement (.yield h) := rfl
theorem Laws.Encoded.trap (h : Hdr) (a : Option SIdx) (k : BitVec 5) : Laws.Encoded.Statement (.trap h a k) := rfl
theorem Laws.Encoded.brk (h : Hdr) (n : Option (BitVec 16)) : Laws.Encoded.Statement (.brk h n) := rfl
theorem Laws.Encoded.msave (h : Hdr) (d : PIdx) : Laws.Encoded.Statement (.msave h d) := rfl
theorem Laws.Encoded.mset (h : Hdr) (a : PSrc) : Laws.Encoded.Statement (.mset h a) := rfl
theorem Laws.Encoded.mand (h : Hdr) (a : PSrc) : Laws.Encoded.Statement (.mand h a) := rfl
theorem Laws.Encoded.mandn (h : Hdr) (a : PSrc) : Laws.Encoded.Statement (.mandn h a) := rfl
theorem Laws.Encoded.mcount (h : Hdr) (d : SIdx) (a : PSrc) : Laws.Encoded.Statement (.mcount h d a) := rfl
theorem Laws.Encoded.mfirst (h : Hdr) (d : SIdx) (a : PSrc) : Laws.Encoded.Statement (.mfirst h d a) := rfl
theorem Laws.Encoded.pand (h : Hdr) (d : PIdx) (a b : PSrc) : Laws.Encoded.Statement (.pand h d a b) := rfl
theorem Laws.Encoded.por (h : Hdr) (d : PIdx) (a b : PSrc) : Laws.Encoded.Statement (.por h d a b) := rfl
theorem Laws.Encoded.pxor (h : Hdr) (d : PIdx) (a b : PSrc) : Laws.Encoded.Statement (.pxor h d a b) := rfl
theorem Laws.Encoded.pnot (h : Hdr) (d : PIdx) (a : PSrc) : Laws.Encoded.Statement (.pnot h d a) := rfl
theorem Laws.Encoded.pmov (h : Hdr) (d : PIdx) (a : PSrc) : Laws.Encoded.Statement (.pmov h d a) := rfl
theorem Laws.Encoded.pbitsGet (h : Hdr) (d : SIdx) (a : PWordSrc) : Laws.Encoded.Statement (.pbitsGet h d a) := rfl
theorem Laws.Encoded.pbitsPut (h : Hdr) (d : PWordDst) (a : SIdx) : Laws.Encoded.Statement (.pbitsPut h d a) := rfl
theorem Laws.Encoded.sadd (h : Hdr) (ty : STy) (sat : Bool) (d : SIdx) (a : Src) (b : SrcB) : Laws.Encoded.Statement (.sadd h ty sat d a b) := rfl
theorem Laws.Encoded.ssub (h : Hdr) (ty : STy) (sat : Bool) (d : SIdx) (a : Src) (b : SrcB) : Laws.Encoded.Statement (.ssub h ty sat d a b) := rfl
theorem Laws.Encoded.smul (h : Hdr) (ty : STy) (sat : Bool) (d : SIdx) (a : Src) (b : SrcB) : Laws.Encoded.Statement (.smul h ty sat d a b) := rfl
theorem Laws.Encoded.smulh (h : Hdr) (ty : STy) (d : SIdx) (a : Src) (b : SrcB) : Laws.Encoded.Statement (.smulh h ty d a b) := rfl
theorem Laws.Encoded.sdiv (h : Hdr) (ty : STy) (d : SIdx) (a : Src) (b : SrcB) : Laws.Encoded.Statement (.sdiv h ty d a b) := rfl
theorem Laws.Encoded.srem (h : Hdr) (ty : STy) (d : SIdx) (a : Src) (b : SrcB) : Laws.Encoded.Statement (.srem h ty d a b) := rfl
theorem Laws.Encoded.sand (h : Hdr) (d : SIdx) (a : Src) (b : SrcB) : Laws.Encoded.Statement (.sand h d a b) := rfl
theorem Laws.Encoded.sor (h : Hdr) (d : SIdx) (a : Src) (b : SrcB) : Laws.Encoded.Statement (.sor h d a b) := rfl
theorem Laws.Encoded.sxor (h : Hdr) (d : SIdx) (a : Src) (b : SrcB) : Laws.Encoded.Statement (.sxor h d a b) := rfl
theorem Laws.Encoded.sshl (h : Hdr) (ty : STy) (sat : Bool) (d : SIdx) (a : Src) (b : SrcB) : Laws.Encoded.Statement (.sshl h ty sat d a b) := rfl
theorem Laws.Encoded.sshr (h : Hdr) (ty : STy) (d : SIdx) (a : Src) (b : SrcB) : Laws.Encoded.Statement (.sshr h ty d a b) := rfl
theorem Laws.Encoded.ssar (h : Hdr) (ty : STy) (d : SIdx) (a : Src) (b : SrcB) : Laws.Encoded.Statement (.ssar h ty d a b) := rfl
theorem Laws.Encoded.smin (h : Hdr) (ty : STy) (d : SIdx) (a : Src) (b : SrcB) : Laws.Encoded.Statement (.smin h ty d a b) := rfl
theorem Laws.Encoded.smax (h : Hdr) (ty : STy) (d : SIdx) (a : Src) (b : SrcB) : Laws.Encoded.Statement (.smax h ty d a b) := rfl
theorem Laws.Encoded.scmp (h : Hdr) (ty : STy) (c : Cmp) (d : SPDst) (a : Src) (b : SrcB) : Laws.Encoded.Statement (.scmp h ty c d a b) := rfl
theorem Laws.Encoded.ssel (h : Hdr) (ty : STy) (d : SIdx) (a : Src) (b : SrcB) : Laws.Encoded.Statement (.ssel h ty d a b) := rfl
theorem Laws.Encoded.smov (h : Hdr) (ty : STy) (d : SIdx) (b : SrcB) : Laws.Encoded.Statement (.smov h ty d b) := rfl
theorem Laws.Encoded.sli (h : Hdr) (d : SIdx) (a : Src) (imm : BitVec 32) : Laws.Encoded.Statement (.sli h d a imm) := rfl
theorem Laws.Encoded.sclz (h : Hdr) (ty : STy) (d : SIdx) (a : Src) : Laws.Encoded.Statement (.sclz h ty d a) := rfl
theorem Laws.Encoded.spopc (h : Hdr) (ty : STy) (d : SIdx) (a : Src) : Laws.Encoded.Statement (.spopc h ty d a) := rfl
theorem Laws.Encoded.sbfe (h : Hdr) (ty : STy) (d : SIdx) (a : Src) (b : SrcB) : Laws.Encoded.Statement (.sbfe h ty d a b) := rfl
theorem Laws.Encoded.sadc (h : Hdr) (ty : STy) (cp : PIdx) (d : SIdx) (a : Src) (b : SrcB) : Laws.Encoded.Statement (.sadc h ty cp d a b) := rfl
theorem Laws.Encoded.vadd (h : Hdr) (ty : VTy) (sat : Bool) (d : VIdx) (a : Src) (b : SrcB) : Laws.Encoded.Statement (.vadd h ty sat d a b) := rfl
theorem Laws.Encoded.vsub (h : Hdr) (ty : VTy) (sat : Bool) (d : VIdx) (a : Src) (b : SrcB) : Laws.Encoded.Statement (.vsub h ty sat d a b) := rfl
theorem Laws.Encoded.vmul (h : Hdr) (ty : VTy) (sat : Bool) (d : VIdx) (a : Src) (b : SrcB) : Laws.Encoded.Statement (.vmul h ty sat d a b) := rfl
theorem Laws.Encoded.vmulh (h : Hdr) (ty : VTy) (d : VIdx) (a : Src) (b : SrcB) : Laws.Encoded.Statement (.vmulh h ty d a b) := rfl
theorem Laws.Encoded.vmad (h : Hdr) (ty : VTy) (sat : Bool) (d : VIdx) (a : Src) (b : SrcB) : Laws.Encoded.Statement (.vmad h ty sat d a b) := rfl
theorem Laws.Encoded.vmadw (h : Hdr) (ty : VTy) (d : VIdx) (a : Src) (b : SrcB) : Laws.Encoded.Statement (.vmadw h ty d a b) := rfl
theorem Laws.Encoded.vadc (h : Hdr) (ty : VTy) (cp : PIdx) (d : VIdx) (a : Src) (b : SrcB) : Laws.Encoded.Statement (.vadc h ty cp d a b) := rfl
theorem Laws.Encoded.vsbc (h : Hdr) (ty : VTy) (cp : PIdx) (d : VIdx) (a : Src) (b : SrcB) : Laws.Encoded.Statement (.vsbc h ty cp d a b) := rfl
theorem Laws.Encoded.vand (h : Hdr) (ty : VTy) (d : VIdx) (a : Src) (b : SrcB) : Laws.Encoded.Statement (.vand h ty d a b) := rfl
theorem Laws.Encoded.vor (h : Hdr) (ty : VTy) (d : VIdx) (a : Src) (b : SrcB) : Laws.Encoded.Statement (.vor h ty d a b) := rfl
theorem Laws.Encoded.vxor (h : Hdr) (ty : VTy) (d : VIdx) (a : Src) (b : SrcB) : Laws.Encoded.Statement (.vxor h ty d a b) := rfl
theorem Laws.Encoded.vshl (h : Hdr) (ty : VTy) (sat : Bool) (d : VIdx) (a : Src) (b : SrcB) : Laws.Encoded.Statement (.vshl h ty sat d a b) := rfl
theorem Laws.Encoded.vshr (h : Hdr) (ty : VTy) (d : VIdx) (a : Src) (b : SrcB) : Laws.Encoded.Statement (.vshr h ty d a b) := rfl
theorem Laws.Encoded.vsar (h : Hdr) (ty : VTy) (d : VIdx) (a : Src) (b : SrcB) : Laws.Encoded.Statement (.vsar h ty d a b) := rfl
theorem Laws.Encoded.vmin (h : Hdr) (ty : VTy) (d : VIdx) (a : Src) (b : SrcB) : Laws.Encoded.Statement (.vmin h ty d a b) := rfl
theorem Laws.Encoded.vmax (h : Hdr) (ty : VTy) (d : VIdx) (a : Src) (b : SrcB) : Laws.Encoded.Statement (.vmax h ty d a b) := rfl
theorem Laws.Encoded.vabs (h : Hdr) (ty : VTy) (sat : Bool) (d : VIdx) (a : Src) : Laws.Encoded.Statement (.vabs h ty sat d a) := rfl
theorem Laws.Encoded.vcmp (h : Hdr) (ty : VTy) (c : Cmp) (d : PIdx) (a : Src) (b : SrcB) : Laws.Encoded.Statement (.vcmp h ty c d a b) := rfl
theorem Laws.Encoded.vsel (h : Hdr) (ty : VTy) (d : VIdx) (a : Src) (b : SrcB) : Laws.Encoded.Statement (.vsel h ty d a b) := rfl
theorem Laws.Encoded.vmov (h : Hdr) (ty : VTy) (d : VIdx) (b : SrcB) : Laws.Encoded.Statement (.vmov h ty d b) := rfl
theorem Laws.Encoded.vclz (h : Hdr) (ty : VTy) (d : VIdx) (a : Src) : Laws.Encoded.Statement (.vclz h ty d a) := rfl
theorem Laws.Encoded.vpopc (h : Hdr) (ty : VTy) (d : VIdx) (a : Src) : Laws.Encoded.Statement (.vpopc h ty d a) := rfl
theorem Laws.Encoded.vbfe (h : Hdr) (ty : VTy) (d : VIdx) (a : Src) (b : SrcB) : Laws.Encoded.Statement (.vbfe h ty d a b) := rfl
theorem Laws.Encoded.vbfi (h : Hdr) (d : VIdx) (a : Src) (b : SrcB) : Laws.Encoded.Statement (.vbfi h d a b) := rfl
theorem Laws.Encoded.vdot4 (h : Hdr) (ty : VTy) (sat : Bool) (d : VIdx) (a : Src) (b : SrcB) : Laws.Encoded.Statement (.vdot4 h ty sat d a b) := rfl
theorem Laws.Encoded.vfadd (h : Hdr) (ty : FTy) (r : Rnd) (m : FMod) (d : VIdx) (a : Src) (b : SrcB) : Laws.Encoded.Statement (.vfadd h ty r m d a b) := rfl
theorem Laws.Encoded.vfsub (h : Hdr) (ty : FTy) (r : Rnd) (m : FMod) (d : VIdx) (a : Src) (b : SrcB) : Laws.Encoded.Statement (.vfsub h ty r m d a b) := rfl
theorem Laws.Encoded.vfmul (h : Hdr) (ty : FTy) (r : Rnd) (m : FMod) (d : VIdx) (a : Src) (b : SrcB) : Laws.Encoded.Statement (.vfmul h ty r m d a b) := rfl
theorem Laws.Encoded.vffma (h : Hdr) (ty : FTy) (r : Rnd) (m : FMod) (d : VIdx) (a : Src) (b : SrcB) : Laws.Encoded.Statement (.vffma h ty r m d a b) := rfl
theorem Laws.Encoded.vfmin (h : Hdr) (ty : FTy) (m : FMod) (d : VIdx) (a : Src) (b : SrcB) : Laws.Encoded.Statement (.vfmin h ty m d a b) := rfl
theorem Laws.Encoded.vfmax (h : Hdr) (ty : FTy) (m : FMod) (d : VIdx) (a : Src) (b : SrcB) : Laws.Encoded.Statement (.vfmax h ty m d a b) := rfl
theorem Laws.Encoded.vfcmp (h : Hdr) (c : FCmp) (d : PIdx) (a : Src) (b : SrcB) : Laws.Encoded.Statement (.vfcmp h c d a b) := rfl
theorem Laws.Encoded.vfdiv (h : Hdr) (ty : FTy) (r : Rnd) (m : FMod) (d : VIdx) (a : Src) (b : SrcB) : Laws.Encoded.Statement (.vfdiv h ty r m d a b) := rfl
theorem Laws.Encoded.vfsqrt (h : Hdr) (ty : FTy) (r : Rnd) (nega absa : Bool) (d : VIdx) (a : Src) : Laws.Encoded.Statement (.vfsqrt h ty r nega absa d a) := rfl
theorem Laws.Encoded.vfrcp (h : Hdr) (ty : FTy) (nega absa : Bool) (d : VIdx) (a : Src) : Laws.Encoded.Statement (.vfrcp h ty nega absa d a) := rfl
theorem Laws.Encoded.vfrsq (h : Hdr) (ty : FTy) (nega absa : Bool) (d : VIdx) (a : Src) : Laws.Encoded.Statement (.vfrsq h ty nega absa d a) := rfl
theorem Laws.Encoded.vfexp2 (h : Hdr) (ty : FTy) (nega absa : Bool) (d : VIdx) (a : Src) : Laws.Encoded.Statement (.vfexp2 h ty nega absa d a) := rfl
theorem Laws.Encoded.vflog2 (h : Hdr) (ty : FTy) (nega absa : Bool) (d : VIdx) (a : Src) : Laws.Encoded.Statement (.vflog2 h ty nega absa d a) := rfl
theorem Laws.Encoded.vfsin (h : Hdr) (ty : FTy) (nega absa : Bool) (d : VIdx) (a : Src) : Laws.Encoded.Statement (.vfsin h ty nega absa d a) := rfl
theorem Laws.Encoded.vfcos (h : Hdr) (ty : FTy) (nega absa : Bool) (d : VIdx) (a : Src) : Laws.Encoded.Statement (.vfcos h ty nega absa d a) := rfl
theorem Laws.Encoded.vftanh (h : Hdr) (ty : FTy) (nega absa : Bool) (d : VIdx) (a : Src) : Laws.Encoded.Statement (.vftanh h ty nega absa d a) := rfl
theorem Laws.Encoded.vfcvt (h : Hdr) (dty sty : CvtTy) (r : Rnd) (d : VIdx) (a : Src) (ssel dsel : BitVec 2) : Laws.Encoded.Statement (.vfcvt h dty sty r d a ssel dsel) := rfl
theorem Laws.Encoded.vfrnd (h : Hdr) (ty : FTy) (r : Rnd) (nega absa : Bool) (d : VIdx) (a : Src) : Laws.Encoded.Statement (.vfrnd h ty r nega absa d a) := rfl
theorem Laws.Encoded.vfclass (h : Hdr) (ty : FTy) (nega absa : Bool) (d : VIdx) (a : Src) : Laws.Encoded.Statement (.vfclass h ty nega absa d a) := rfl
theorem Laws.Encoded.vfscale (h : Hdr) (ty : FTy) (r : Rnd) (m : FMod) (d : VIdx) (a : Src) (b : SrcB) : Laws.Encoded.Statement (.vfscale h ty r m d a b) := rfl
theorem Laws.Encoded.vred (h : Hdr) (ty : XTy) (op : ROp) (d : SIdx) (a : Src) : Laws.Encoded.Statement (.vred h ty op d a) := rfl
theorem Laws.Encoded.vredx (h : Hdr) (ty : XTy) (op : ROp) (d : SIdx) (a : Src) : Laws.Encoded.Statement (.vredx h ty op d a) := rfl
theorem Laws.Encoded.vscan (h : Hdr) (ty : XTy) (op : ROp) (excl : Bool) (d : VIdx) (a : Src) : Laws.Encoded.Statement (.vscan h ty op excl d a) := rfl
theorem Laws.Encoded.vshfl (h : Hdr) (mode : SMode) (d : VIdx) (a : Src) (b : SrcB) : Laws.Encoded.Statement (.vshfl h mode d a b) := rfl
theorem Laws.Encoded.vbcast (h : Hdr) (d : VIdx) (a : VIdx) (b : SrcB) : Laws.Encoded.Statement (.vbcast h d a b) := rfl
theorem Laws.Encoded.sgetl (h : Hdr) (d : SIdx) (a : VIdx) (b : SrcB) : Laws.Encoded.Statement (.sgetl h d a b) := rfl
theorem Laws.Encoded.vsetl (h : Hdr) (d : VIdx) (a : Src) (b : SrcB) : Laws.Encoded.Statement (.vsetl h d a b) := rfl
theorem Laws.Encoded.vsample (h : Hdr) (d : SIdx) (a : VIdx) (b : SrcB) : Laws.Encoded.Statement (.vsample h d a b) := rfl
theorem Laws.Encoded.vrng (h : Hdr) (d : VIdx) (a : Src) (b : SrcB) : Laws.Encoded.Statement (.vrng h d a b) := rfl
theorem Laws.Encoded.vtagGet (h : Hdr) (d : SIdx) (a : VIdx) : Laws.Encoded.Statement (.vtagGet h d a) := rfl
theorem Laws.Encoded.vtagExpand (h : Hdr) (d : VIdx) (a : VIdx) : Laws.Encoded.Statement (.vtagExpand h d a) := rfl
theorem Laws.Encoded.vtagCompact (h : Hdr) (d : VIdx) (a : VIdx) : Laws.Encoded.Statement (.vtagCompact h d a) := rfl
theorem Laws.Encoded.vld (h : Hdr) (ty : MTy) (sp : Space) (o : Ord) (d : VIdx) (m : MemOp) : Laws.Encoded.Statement (.vld h ty sp o d m) := rfl
theorem Laws.Encoded.vst (h : Hdr) (ty : MTy) (sp : Space) (o : Ord) (a : VIdx) (m : MemOp) : Laws.Encoded.Statement (.vst h ty sp o a m) := rfl
theorem Laws.Encoded.sld (h : Hdr) (ty : MTy) (sp : Space) (o : Ord) (d : SVDst) (m : MemOp) : Laws.Encoded.Statement (.sld h ty sp o d m) := rfl
theorem Laws.Encoded.sst (h : Hdr) (ty : MTy) (sp : Space) (o : Ord) (a : SIdx) (m : MemOp) : Laws.Encoded.Statement (.sst h ty sp o a m) := rfl
theorem Laws.Encoded.vatom (h : Hdr) (ty : ATy) (op : AOp) (o : AOrd) (d : VIdx) (a : Src) (m : MemOp) : Laws.Encoded.Statement (.vatom h ty op o d a m) := rfl
theorem Laws.Encoded.satom (h : Hdr) (ty : ATy) (op : AOp) (o : AOrd) (d a : SIdx) (m : MemOp) : Laws.Encoded.Statement (.satom h ty op o d a m) := rfl
theorem Laws.Encoded.fence (h : Hdr) (sc : Scope) (o : FOrd) : Laws.Encoded.Statement (.fence h sc o) := rfl
theorem Laws.Encoded.cpy (h : Hdr) (d a : SIdx) (i : CpyImm) : Laws.Encoded.Statement (.cpy h d a i) := rfl
theorem Laws.Encoded.cpyout (h : Hdr) (d a : SIdx) (i : CpyImm) : Laws.Encoded.Statement (.cpyout h d a i) := rfl
theorem Laws.Encoded.twait (h : Hdr) (a : SIdx) (n : Option (BitVec 32)) : Laws.Encoded.Statement (.twait h a n) := rfl
theorem Laws.Encoded.pf (h : Hdr) (m : MemOp) : Laws.Encoded.Statement (.pf h m) := rfl
theorem Laws.Encoded.seal (h : Hdr) (d a : SIdx) (b : SI) : Laws.Encoded.Statement (.seal h d a b) := rfl
theorem Laws.Encoded.unseal (h : Hdr) (d a : SIdx) : Laws.Encoded.Statement (.unseal h d a) := rfl
theorem Laws.Encoded.cflush (h : Hdr) (m : MemOp) : Laws.Encoded.Statement (.cflush h m) := rfl
theorem Laws.Encoded.cinval (h : Hdr) (m : MemOp) : Laws.Encoded.Statement (.cinval h m) := rfl
theorem Laws.Encoded.mma (h : Hdr) (d : AIdx) (a : VIdx) (b : SIdx) : Laws.Encoded.Statement (.mma h d a b) := rfl
theorem Laws.Encoded.mma2 (h : Hdr) (d : AIdx) (a : VIdx) (b : SIdx) : Laws.Encoded.Statement (.mma2 h d a b) := rfl
theorem Laws.Encoded.mzero (h : Hdr) (d : AIdx) (ver : BitVec 16) : Laws.Encoded.Statement (.mzero h d ver) := rfl
theorem Laws.Encoded.mload (h : Hdr) (bf16 spad : Bool) (d : AIdx) (a : SIdx) : Laws.Encoded.Statement (.mload h bf16 spad d a) := rfl
theorem Laws.Encoded.mdrain (h : Hdr) (bf16 add spad : Bool) (d : AIdx) (a : SIdx) : Laws.Encoded.Statement (.mdrain h bf16 add spad d a) := rfl
theorem Laws.Encoded.mver (h : Hdr) (d : SIdx) (a : AIdx) : Laws.Encoded.Statement (.mver h d a) := rfl
theorem Laws.Encoded.mwait (h : Hdr) (a : AIdx) (b : VerOp) : Laws.Encoded.Statement (.mwait h a b) := rfl
theorem Laws.Encoded.mfence (h : Hdr) : Laws.Encoded.Statement (.mfence h) := rfl
theorem Laws.Encoded.barv (h : Hdr) (d : SIdx) (g : GrpOp) : Laws.Encoded.Statement (.barv h d g) := rfl
theorem Laws.Encoded.bwait (h : Hdr) (a : SIdx) : Laws.Encoded.Statement (.bwait h a) := rfl
theorem Laws.Encoded.bexp (h : Hdr) (a : SIdx) (g : GrpOp) : Laws.Encoded.Statement (.bexp h a g) := rfl
theorem Laws.Encoded.btest (h : Hdr) (d a : SIdx) : Laws.Encoded.Statement (.btest h d a) := rfl
theorem Laws.Encoded.pend (h : Hdr) (g : BitVec 8) (k : BitVec 6) : Laws.Encoded.Statement (.pend h g k) := rfl
theorem Laws.Encoded.qpush (h : Hdr) (d a : SIdx) (q : SI) : Laws.Encoded.Statement (.qpush h d a q) := rfl
theorem Laws.Encoded.qpop (h : Hdr) (d : SIdx) (q : SI) : Laws.Encoded.Statement (.qpop h d q) := rfl
theorem Laws.Encoded.qspawn (h : Hdr) (d a : SIdx) (q : SI) : Laws.Encoded.Statement (.qspawn h d a q) := rfl
theorem Laws.Encoded.qcancel (h : Hdr) (j : SI) : Laws.Encoded.Statement (.qcancel h j) := rfl
theorem Laws.Encoded.dpush (h : Hdr) (d a : SIdx) (v : SI) : Laws.Encoded.Statement (.dpush h d a v) := rfl
theorem Laws.Encoded.dpop (h : Hdr) (d a : SIdx) : Laws.Encoded.Statement (.dpop h d a) := rfl
theorem Laws.Encoded.dsteal (h : Hdr) (d a : SIdx) : Laws.Encoded.Statement (.dsteal h d a) := rfl
theorem Laws.Encoded.lnext (h : Hdr) : Laws.Encoded.Statement (.lnext h) := rfl
theorem Laws.Encoded.lwait (h : Hdr) : Laws.Encoded.Statement (.lwait h) := rfl
theorem Laws.Encoded.nmopen (h : Hdr) (d a : SIdx) (g : SI) : Laws.Encoded.Statement (.nmopen h d a g) := rfl
theorem Laws.Encoded.nmcall (h : Hdr) (a : SIdx) (e : BitVec 32) : Laws.Encoded.Statement (.nmcall h a e) := rfl
theorem Laws.Encoded.nmcommit (h : Hdr) (d : SIdx) (i : CommitImm) : Laws.Encoded.Statement (.nmcommit h d i) := rfl
theorem Laws.Encoded.nmstat (h : Hdr) (d : SIdx) (k : BitVec 32) : Laws.Encoded.Statement (.nmstat h d k) := rfl
theorem Laws.Encoded.nmclose (h : Hdr) (d : SIdx) : Laws.Encoded.Statement (.nmclose h d) := rfl
theorem Laws.Encoded.rbeg (h : Hdr) (irr : Bool) (d : SIdx) : Laws.Encoded.Statement (.rbeg h irr d) := rfl
theorem Laws.Encoded.rend (h : Hdr) (d : SIdx) : Laws.Encoded.Statement (.rend h d) := rfl
theorem Laws.Encoded.rabt (h : Hdr) (k : BitVec 16) : Laws.Encoded.Statement (.rabt h k) := rfl
theorem Laws.Encoded.rstat (h : Hdr) (d : SIdx) : Laws.Encoded.Statement (.rstat h d) := rfl
theorem Laws.Encoded.gcall (h : Hdr) (d a : SIdx) (i : CallImm) : Laws.Encoded.Statement (.gcall h d a i) := rfl
theorem Laws.Encoded.gret (h : Hdr) (a : SIdx) (st : StatOp) : Laws.Encoded.Statement (.gret h a st) := rfl
theorem Laws.Encoded.gpoll (h : Hdr) (d a : SIdx) : Laws.Encoded.Statement (.gpoll h d a) := rfl
theorem Laws.Encoded.csrr (h : Hdr) (d : SIdx) (csr : BitVec 12) : Laws.Encoded.Statement (.csrr h d csr) := rfl
theorem Laws.Encoded.csrw (h : Hdr) (op : CsrOp) (csr : BitVec 12) (a : SIdx) : Laws.Encoded.Statement (.csrw h op csr a) := rfl
theorem Laws.Encoded.tret (h : Hdr) (b : Option SIdx) : Laws.Encoded.Statement (.tret h b) := rfl
theorem Laws.Encoded.probe (h : Hdr) (d : SIdx) (m : MemOp) : Laws.Encoded.Statement (.probe h d m) := rfl
theorem Laws.Encoded.intr (h : Hdr) (a : Option SIdx) (k : BitVec 8) : Laws.Encoded.Statement (.intr h a k) := rfl
theorem Laws.Encoded.tinv (h : Hdr) (a : SIdx) (b : SI) : Laws.Encoded.Statement (.tinv h a b) := rfl
theorem Laws.Encoded.wcsld (h : Hdr) (d a : SIdx) : Laws.Encoded.Statement (.wcsld h d a) := rfl
theorem Laws.Encoded.instructionFetch (sid : Nat) : Laws.Encoded.Statement (.instructionFetch sid) := rfl
theorem Laws.Encoded.passIssueSelect (core : Nat) : Laws.Encoded.Statement (.passIssueSelect core) := rfl
theorem Laws.Encoded.resultLand (sid tok : Nat) : Laws.Encoded.Statement (.resultLand sid tok) := rfl
theorem Laws.Encoded.pendingTrapTaken (sid : Nat) : Laws.Encoded.Statement (.pendingTrapTaken sid) := rfl
theorem Laws.Encoded.excWindowClose (sid : Nat) : Laws.Encoded.Statement (.excWindowClose sid) := rfl
theorem Laws.Encoded.queueAgentWake (ctx qid : Nat) : Laws.Encoded.Statement (.queueAgentWake ctx qid) := rfl
theorem Laws.Encoded.entryAccept (ctx qid : Nat) : Laws.Encoded.Statement (.entryAccept ctx qid) := rfl
theorem Laws.Encoded.queueAgentPush (sid : Nat) : Laws.Encoded.Statement (.queueAgentPush sid) := rfl
theorem Laws.Encoded.queueAccessRetry (i : Nat) : Laws.Encoded.Statement (.queueAccessRetry i) := rfl
theorem Laws.Encoded.dispatchPlacement (die : Nat) : Laws.Encoded.Statement (.dispatchPlacement die) := rfl
theorem Laws.Encoded.starvationPlacement (die : Nat) : Laws.Encoded.Statement (.starvationPlacement die) := rfl
theorem Laws.Encoded.phaseRecordRead (sid : Nat) : Laws.Encoded.Statement (.phaseRecordRead sid) := rfl
theorem Laws.Encoded.bindRecordWrite (die i : Nat) (w : BindWrite) : Laws.Encoded.Statement (.bindRecordWrite die i w) := rfl
theorem Laws.Encoded.cancelArrival (i : Nat) : Laws.Encoded.Statement (.cancelArrival i) := rfl
theorem Laws.Encoded.passAged (sid : Nat) : Laws.Encoded.Statement (.passAged sid) := rfl
theorem Laws.Encoded.l1FillLand (i : Nat) : Laws.Encoded.Statement (.l1FillLand i) := rfl
theorem Laws.Encoded.l1WriteBack (core ctx line : Nat) : Laws.Encoded.Statement (.l1WriteBack core ctx line) := rfl
theorem Laws.Encoded.writeCheckReturn (i : Nat) : Laws.Encoded.Statement (.writeCheckReturn i) := rfl
theorem Laws.Encoded.pageResponse (ctx page : Nat) (a : PageAnswer) : Laws.Encoded.Statement (.pageResponse ctx page a) := rfl
theorem Laws.Encoded.memoryPoison (line : Nat) : Laws.Encoded.Statement (.memoryPoison line) := rfl
theorem Laws.Encoded.hostReadSnoop (pa : Nat) : Laws.Encoded.Statement (.hostReadSnoop pa) := rfl
theorem Laws.Encoded.hostWriteOwnership (pa : Nat) (mask : ByteMask) (data : LineData) (poisoned : Bool) : Laws.Encoded.Statement (.hostWriteOwnership pa mask data poisoned) := rfl
theorem Laws.Encoded.hostOwnershipArrival (i : Nat) : Laws.Encoded.Statement (.hostOwnershipArrival i) := rfl
theorem Laws.Encoded.snoopDelayExpiry (i : Nat) : Laws.Encoded.Statement (.snoopDelayExpiry i) := rfl
theorem Laws.Encoded.ioAtomicResponse (i : Nat) (accepted : Bool) : Laws.Encoded.Statement (.ioAtomicResponse i accepted) := rfl
theorem Laws.Encoded.peerAccessArrival (port : Nat) (acc : PeerAcc) : Laws.Encoded.Statement (.peerAccessArrival port acc) := rfl
theorem Laws.Encoded.calderaRowDone (core i : Nat) : Laws.Encoded.Statement (.calderaRowDone core i) := rfl
theorem Laws.Encoded.calderaCopyEnd (core i : Nat) : Laws.Encoded.Statement (.calderaCopyEnd core i) := rfl
theorem Laws.Encoded.matrixEntryStart (core i : Nat) : Laws.Encoded.Statement (.matrixEntryStart core i) := rfl
theorem Laws.Encoded.matrixGatherDone (core i : Nat) : Laws.Encoded.Statement (.matrixGatherDone core i) := rfl
theorem Laws.Encoded.matrixOpComplete (core i : Nat) : Laws.Encoded.Statement (.matrixOpComplete core i) := rfl
theorem Laws.Encoded.transferFault (core i : Nat) : Laws.Encoded.Statement (.transferFault core i) := rfl
theorem Laws.Encoded.ventAttemptStart (vent : Nat) : Laws.Encoded.Statement (.ventAttemptStart vent) := rfl
theorem Laws.Encoded.ventCallExecute (vent : Nat) : Laws.Encoded.Statement (.ventCallExecute vent) := rfl
theorem Laws.Encoded.ventCommitRequest (vent : Nat) : Laws.Encoded.Statement (.ventCommitRequest vent) := rfl
theorem Laws.Encoded.ventCommitPoint (vent : Nat) : Laws.Encoded.Statement (.ventCommitPoint vent) := rfl
theorem Laws.Encoded.ventTranslationMiss (vent : Nat) : Laws.Encoded.Statement (.ventTranslationMiss vent) := rfl
theorem Laws.Encoded.callArrival (port : Option Nat) (c : Call) : Laws.Encoded.Statement (.callArrival port c) := rfl
theorem Laws.Encoded.callAck (sref slot : Nat) (spilled : Bool) : Laws.Encoded.Statement (.callAck sref slot spilled) := rfl
theorem Laws.Encoded.callPromotion (die cls : Nat) : Laws.Encoded.Statement (.callPromotion die cls) := rfl
theorem Laws.Encoded.spillDrain (ctx handler die : Nat) : Laws.Encoded.Statement (.spillDrain ctx handler die) := rfl
theorem Laws.Encoded.stallBufferRelease (port cls : Nat) : Laws.Encoded.Statement (.stallBufferRelease port cls) := rfl
theorem Laws.Encoded.replyLand (sref slot : Nat) (cause : BitVec 9) (cls : BitVec 2) (spilled : Bool) (value : BitVec 32) : Laws.Encoded.Statement (.replyLand sref slot cause cls spilled value) := rfl
theorem Laws.Encoded.gyTimeoutExpiry (sref slot : Nat) : Laws.Encoded.Statement (.gyTimeoutExpiry sref slot) := rfl
theorem Laws.Encoded.flitReceive (port lane : Nat) (f : FlitIn) : Laws.Encoded.Statement (.flitReceive port lane f) := rfl
theorem Laws.Encoded.flitAckReceive (port : Nat) : Laws.Encoded.Statement (.flitAckReceive port) := rfl
theorem Laws.Encoded.crcWindowClose (port : Nat) : Laws.Encoded.Statement (.crcWindowClose port) := rfl
theorem Laws.Encoded.laneRepairStart (port lane : Nat) : Laws.Encoded.Statement (.laneRepairStart port lane) := rfl
theorem Laws.Encoded.laneRepairDrainDone (port : Nat) : Laws.Encoded.Statement (.laneRepairDrainDone port) := rfl
theorem Laws.Encoded.portRetrainTimeout (port : Nat) : Laws.Encoded.Statement (.portRetrainTimeout port) := rfl
theorem Laws.Encoded.portTraining (port : Nat) (partner : BitVec 12) (table : List (BitVec 256)) (mem : List (Nat × Byte)) : Laws.Encoded.Statement (.portTraining port partner table mem) := rfl
theorem Laws.Encoded.phaseBoundaryPreempt (ctx : Nat) : Laws.Encoded.Statement (.phaseBoundaryPreempt ctx) := rfl
theorem Laws.Encoded.forcedPreempt (ctx : Nat) : Laws.Encoded.Statement (.forcedPreempt ctx) := rfl
theorem Laws.Encoded.contextResume (ctx : Nat) : Laws.Encoded.Statement (.contextResume ctx) := rfl
theorem Laws.Encoded.unitFail (lid unit : Nat) (cause : BitVec 9) : Laws.Encoded.Statement (.unitFail lid unit cause) := rfl
theorem Laws.Encoded.uncorrectedEcc (p : EccPlace) : Laws.Encoded.Statement (.uncorrectedEcc p) := rfl
theorem Laws.Encoded.machineCheck (u : McUnit) : Laws.Encoded.Statement (.machineCheck u) := rfl
theorem Laws.Encoded.teamRetire (sid : Nat) : Laws.Encoded.Statement (.teamRetire sid) := rfl
theorem Laws.Encoded.launchRetire (lid : Nat) : Laws.Encoded.Statement (.launchRetire lid) := rfl
theorem Laws.Encoded.counterOverflow (p : PmcPlace) (k : Nat) : Laws.Encoded.Statement (.counterOverflow p k) := rfl
theorem Laws.Encoded.pmcCntWrite (p : PmcPlace) (k : Nat) (v : Word) : Laws.Encoded.Statement (.pmcCntWrite p k v) := rfl
theorem Laws.Encoded.pmcSelWrite (p : PmcPlace) (k : Nat) (v : Word) : Laws.Encoded.Statement (.pmcSelWrite p k v) := rfl
theorem Laws.Encoded.qtLenWrite (ctx : Nat) (v : Word) : Laws.Encoded.Statement (.qtLenWrite ctx v) := rfl
theorem Laws.Encoded.excWinWrite (sid : Nat) (v : Word) : Laws.Encoded.Statement (.excWinWrite sid v) := rfl
theorem Laws.Encoded.excCntWrite (sid k : Nat) (v : Word) : Laws.Encoded.Statement (.excCntWrite sid k v) := rfl
theorem Laws.Encoded.ordModeWrite (v : Word) : Laws.Encoded.Statement (.ordModeWrite v) := rfl
theorem Laws.Encoded.nmCsrWrite (sid : Nat) (csr : BitVec 12) (v : Word) : Laws.Encoded.Statement (.nmCsrWrite sid csr v) := rfl
theorem Laws.Encoded.fjDevidWrite (v : Word) : Laws.Encoded.Statement (.fjDevidWrite v) := rfl
theorem Laws.Encoded.mgmtSemWrite (port : MgmtPort) (v : Word) : Laws.Encoded.Statement (.mgmtSemWrite port v) := rfl
theorem Laws.Encoded.csrWrite (ctx : Nat) (sid : Option Nat) (csr : BitVec 12) (v : Word) : Laws.Encoded.Statement (.csrWrite ctx sid csr v) := rfl
theorem Laws.Encoded.readPmc (port : MgmtPort) (p : PmcPlace) (k : Nat) : Laws.Encoded.Statement (.readPmc port p k) := rfl
theorem Laws.Encoded.readEcs (port : MgmtPort) (stack channel bank : Nat) : Laws.Encoded.Statement (.readEcs port stack channel bank) := rfl
theorem Laws.Encoded.readLog (port : MgmtPort) : Laws.Encoded.Statement (.readLog port) := rfl
theorem Laws.Encoded.createCtx (port : MgmtPort) (ctx : Nat) (priv : BitVec 2) (pasid : BitVec 20) : Laws.Encoded.Statement (.createCtx port ctx priv pasid) := rfl
theorem Laws.Encoded.writeCsr (port : MgmtPort) (ctx : Nat) (csr : BitVec 12) (v : Word) : Laws.Encoded.Statement (.writeCsr port ctx csr v) := rfl
theorem Laws.Encoded.writePmc (port : MgmtPort) (p : PmcPlace) (k : Nat) (sel : Bool) (v : Word) : Laws.Encoded.Statement (.writePmc port p k sel v) := rfl
theorem Laws.Encoded.maintReset (port : MgmtPort) : Laws.Encoded.Statement (.maintReset port) := rfl
theorem Laws.Encoded.fwUpdate (port : MgmtPort) (image : List Byte) : Laws.Encoded.Statement (.fwUpdate port image) := rfl
theorem Laws.Encoded.bankRefreshDue (channel bank : Nat) (waiting : Bool) : Laws.Encoded.Statement (.bankRefreshDue channel bank waiting) := rfl
theorem Laws.Encoded.ecsScrubError (stack channel bank row : Nat) (correctable : Bool) (line : Nat) : Laws.Encoded.Statement (.ecsScrubError stack channel bank row correctable line) := rfl
theorem Laws.Encoded.powerGood (fail : Option (Nat × Nat)) (links : HostLinks) (boot : BootLaunch) : Laws.Encoded.Statement (.powerGood fail links boot) := rfl
theorem Laws.Encoded.flitReplayRequest (port : Nat) (seq : Nat) : Laws.Encoded.Statement (.flitReplayRequest port seq) := rfl
theorem Laws.Encoded.homeWriteQueueDrain (sid home : Nat) : Laws.Encoded.Statement (.homeWriteQueueDrain sid home) := rfl
theorem Laws.Encoded.queueResidencyWrite (ctx qid : Nat) (resident : Bool) (die hwq : Nat) : Laws.Encoded.Statement (.queueResidencyWrite ctx qid resident die hwq) := rfl
theorem Laws.Encoded.leaseExpiry : Laws.Encoded.Statement (.leaseExpiry) := rfl
theorem Laws.Encoded.barrierHubCycle : Laws.Encoded.Statement (.barrierHubCycle) := rfl
theorem Laws.Encoded.regionCommit : Laws.Encoded.Statement (.regionCommit) := rfl
theorem Laws.Encoded.mgmtSemTimeout : Laws.Encoded.Statement (.mgmtSemTimeout) := rfl
theorem Laws.Encoded.thermalPowerLimit : Laws.Encoded.Statement (.thermalPowerLimit) := rfl
theorem Laws.Encoded.junctionOver110c : Laws.Encoded.Statement (.junctionOver110c) := rfl
theorem Laws.Encoded.inputPowerLoss : Laws.Encoded.Statement (.inputPowerLoss) := rfl
theorem Laws.Encoded.junctionBelow100c : Laws.Encoded.Statement (.junctionBelow100c) := rfl

end Sys2Proof
end

