-- ==== Sys2Proof/Laws/Vector.lean ====
section
/-! SUPPORT. Writing a vector or predicate result under an enable, said once: every enabled lane holds its value whatever
shape the register is kept in. -/

namespace Sys2Proof.Machine

/-! ## Events that wait for the last pass -/

/-- Two states that differ in what one team owes at most. -/
structure OwedOnly (s s' : State) (sid : Nat) (t : Team) (counts : List Nat) : Prop where
  state : ∃ T, s' = { s with teams := T }
  team  : ∃ o, s'.team? sid = some { t with owed := o } ∧ (o = counts ∨ ((∀ k, counts.getD k 0 = 0) ∧ o = t.owed))
  other : ∀ k, k ≠ sid → s'.team? k = s.team? k

/-- Events are noted in the team's own record, and nothing else changes. -/
theorem oweEvents_only {s : State} {sid : Nat} {t : Team} (ht : s.team? sid = some t) (counts : List Nat) :
    OwedOnly s (oweEvents s sid counts) sid t counts := by
  unfold oweEvents
  split
  · rename_i h
    refine ⟨⟨s.teams, rfl⟩, ⟨t.owed, ht, .inr ⟨fun k => ?_, rfl⟩⟩, fun _ _ => rfl⟩
    rw [List.getD_eq_getElem?_getD]
    rcases hk : counts[k]? with _ | x
    · rfl
    · simpa using List.all_eq_true.mp h x (List.mem_of_getElem? hk)
  · rw [State.onTeam_some ht]
    exact ⟨⟨_, rfl⟩, ⟨counts, State.team?_setTeam .., .inl rfl⟩, fun k hk => State.team?_setTeam_other s _ hk⟩

/-! ## Lanes -/

theorem getLsbD_lanes {t : Team} (hw : t.w ≤ 1024) (l : Nat) : t.lanes.getLsbD l = decide (l < t.w) := by
  unfold Team.lanes lanesBelow
  rw [BitVec.getLsbD_ofNat, Nat.testBit_two_pow_sub_one]
  by_cases h : l < t.w <;> simp [h]
  omega

theorem newReg_lane {old : VReg} {w : Nat} {en : Mask} {aff : Lane × Lane} {f : Nat → Lane} {l : Nat} {g : Lane} (hl : l < w)
    {tag : Tag} (hu : tag = .u → en.getLsbD l = true ∧ f 0 = g)
    (ha : tag = .a → en.getLsbD l = true ∧ aff.1 + BitVec.ofNat 32 l * aff.2 = g)
    (hg : tag = .g → en.getLsbD l = true → f l = g) :
    (newReg old w en tag aff f).lane l = if en.getLsbD l then g else old.lane l := by
  cases tag with
  | u => simp [newReg, VReg.lane, hu rfl]
  | a => simp [newReg, VReg.lane, ha rfl]
  | g =>
    simp only [newReg, VReg.lane, List.getD_eq_getElem?_getD, List.getElem?_map, List.getElem?_range hl, Option.map_some,
      Option.getD_some]
    split
    · exact hg rfl ‹_›
    · rfl

theorem laneResults_v {w : Nat} {en : Mask} {uni : Bool} {f : Nat → LaneRes} {l : Nat} (hl : l < w) (hn : uni = false)
    (he : en.getLsbD l = true) : (laneResults w en uni f).getD l LaneRes.none = f l := by
  simp [laneResults, hn, List.getD_eq_getElem?_getD, List.getElem?_map, List.getElem?_range hl, he]

theorem Team.vr_setV (t : Team) (n k : Nat) (x : VReg) : (t.setV n x).vr k = if k = n then x else t.vr k := Tab.get_set ..

theorem gAfter_mono (t : Team) (ns : List Nat) (x y : Tag) (h : y = .g → x = .g) :
    gAfter t (ns.map (fun n => (n, y))) ≤ gAfter t (ns.map (fun n => (n, x))) := by
  unfold gAfter
  have e : ∀ (z : Tag), ((ns.map (fun n => (n, z))).filter (fun d => (t.vr d.1).tag == .g)).length =
      (ns.filter (fun n => (t.vr n).tag == .g)).length := by
    intro z
    rw [List.filter_map, List.length_map]
    rfl
  have f : ((ns.map (fun n => (n, y))).filter (fun d => d.2 == .g)).length ≤
      ((ns.map (fun n => (n, x))).filter (fun d => d.2 == .g)).length := by
    rw [List.filter_map, List.filter_map, List.length_map, List.length_map]
    by_cases hb : y = .g
    · simp [hb, h hb, Function.comp_def]
    · have : ((fun d : Nat × Tag => d.2 == .g) ∘ fun n => (n, y)) = fun _ => false := by
        funext n; simp [hb]
      simp [this]
  rw [e x, e y]
  exact Nat.add_le_add_left f _

theorem overBudget_mono {t : Team} {ns : List Nat} {x y : Tag} (h : y = .g → x = .g)
    (ho : overBudget t (ns.map (fun n => (n, x))) = false) : overBudget t (ns.map (fun n => (n, y))) = false := by
  have := gAfter_mono t ns x y h
  simp only [overBudget, Bool.and_eq_false_iff, decide_eq_false_iff_not, Nat.not_lt] at ho ⊢
  exact ho.imp_right (fun h1 => this.trans h1)

/-! ## Results -/

theorem laneVal_eq {t : Team} {d : VIdx} {wide : Bool} {l : Nat} {x : Nat}
    (h0 : (t.vr d.toNat).lane l = BitVec.ofNat 32 x) (h1 : wide = true → (t.vr (d.toNat + 1)).lane l = BitVec.ofNat 32 (x / 2 ^ 32)) :
    laneVal t d wide l = x % 2 ^ (if wide then 64 else 32) := by
  unfold laneVal
  cases wide with
  | false => simp [h0]
  | true =>
    rw [h0, h1 rfl]
    simp only [BitVec.toNat_ofNat, if_true]
    omega

theorem vectorWrite_spec {u : Team} {en : Mask} {d : VIdx} {wide : Bool} {f : Nat → LaneRes} {aff : Option (Lane × Lane)}
    {tags : List Tag} (hw : u.w ≤ 1024)
    (room : overBudget u ((members d wide).map (fun n => (n, if en = u.lanes ∧ allU tags then Tag.u else Tag.g))) = false)
    (hu : allU tags = true → ∀ l, (f l).v = (f 0).v)
    (ha : ∀ b st, aff = some (b, st) → wide = false ∧ ∀ l, b + BitVec.ofNat 32 l * st = BitVec.ofNat 32 (f l).v) :
    ∃ r, vectorWrite u en d.toNat { wide := wide, srcs := tags, aff := aff, f := f } = some r ∧
      (∀ l, l < u.w → laneVal r.t d wide l = if en.getLsbD l then (f l).v % 2 ^ (if wide then 64 else 32) else laneVal u d wide l) ∧
      (∀ n, n ∉ members d wide → r.t.vr n = u.vr n) ∧ ∃ v, r.t = { u with v := v } := by
  have hfull : ∀ l, l < u.w → en = u.lanes → en.getLsbD l = true := fun l hl he => by
    rw [he, getLsbD_lanes hw]; simpa using hl
  obtain ⟨tag, htag⟩ : ∃ tag, tag = resultTag (en == u.lanes) tags aff := ⟨_, rfl⟩
  have hds : (if wide then [(d.toNat, tag), (d.toNat + 1, tag)] else [(d.toNat, tag)]) = (members d wide).map (fun n => (n, tag)) := by
    cases wide <;> rfl
  have htu : tag = .u → en = u.lanes ∧ allU tags = true := by
    intro h
    rw [htag] at h
    unfold resultTag at h
    split at h
    · cases h
    · rename_i h1
      split at h
      · rename_i h2
        exact ⟨by simpa using h1, h2⟩
      · split at h <;> cases h
  have hta : tag = .a → en = u.lanes ∧ ∃ b st, aff = some (b, st) := by
    intro h
    rw [htag] at h
    unfold resultTag at h
    split at h
    · cases h
    · rename_i h1
      split at h
      · cases h
      · split at h
        · rename_i h3
          obtain ⟨⟨b, st⟩, h4⟩ := Option.isSome_iff_exists.mp h3
          exact ⟨by simpa using h1, b, st, h4⟩
        · cases h
  have hbud : overBudget u ((members d wide).map (fun n => (n, tag))) = false := by
    refine overBudget_mono ?_ room
    intro hg
    split
    · rename_i hc
      rw [htag, resultTag, hc.1, hc.2] at hg
      simp at hg
    · rfl
  simp only [vectorWrite, ← htag, hds, hbud, Bool.false_eq_true, if_false]
  refine ⟨_, rfl, ?_, ?_, ?_⟩
  · intro l hl
    have lo : ∀ old, (newReg old u.w en tag (aff.getD (0, 0))
        (fun l => BitVec.ofNat 32 ((laneResults u.w en (tag == .u) f).getD l LaneRes.none).v)).lane l =
        if en.getLsbD l then BitVec.ofNat 32 (f l).v else old.lane l := by
      intro old
      refine newReg_lane hl ?_ ?_ ?_
      · intro h
        refine ⟨hfull l hl (htu h).1, ?_⟩
        simp [h, laneResults, hu (htu h).2 l]
      · intro h
        obtain ⟨h1, b, st, h2⟩ := hta h
        refine ⟨hfull l hl h1, ?_⟩
        simpa [h2] using (ha b st h2).2 l
      · intro h he
        rw [laneResults_v hl (by simp [h]) he]
    cases wide with
    | false =>
      simp only [Bool.false_eq_true, if_false, laneVal, Team.vr_setV, if_true, lo, Nat.add_zero]
      split <;> simp
    | true =>
      have hi : ∀ old, (newReg old u.w en tag (0, 0)
          (fun l => BitVec.ofNat 32 (((laneResults u.w en (tag == .u) f).getD l LaneRes.none).v / 2 ^ 32))).lane l =
          if en.getLsbD l then BitVec.ofNat 32 ((f l).v / 2 ^ 32) else old.lane l := by
        intro old
        refine newReg_lane hl ?_ ?_ ?_
        · intro h
          refine ⟨hfull l hl (htu h).1, ?_⟩
          simp [h, laneResults, hu (htu h).2 l]
        · intro h
          obtain ⟨h1, b, st, h2⟩ := hta h
          exact absurd (ha b st h2).1 (by simp)
        · intro h he
          rw [laneResults_v hl (by simp [h]) he]
      have hne : d.toNat ≠ d.toNat + 1 := by omega
      simp only [if_true, laneVal, Team.vr_setV, hne, if_false, lo, hi]
      split
      · simp only [BitVec.toNat_ofNat]
        omega
      · rfl
  · intro n hn
    cases wide with
    | false =>
      simp only [members, Bool.false_eq_true, if_false, List.mem_singleton] at hn
      simp [Team.vr_setV, hn]
    | true =>
      simp only [members, if_true, List.mem_cons, List.not_mem_nil, or_false, not_or] at hn
      simp [Team.vr_setV, hn]
  · cases wide <;> exact ⟨_, rfl⟩

theorem noteSkips_team (s : State) (t : Team) (n : Nat) (b : Bool) (k : Nat) : (noteSkips s t n b).team? k = s.team? k := by
  unfold noteSkips
  split
  · rfl
  · simp [State.team?]

theorem noteSkips_bytes (s : State) (t : Team) (n : Nat) (b : Bool) : SameBytes s (noteSkips s t n b) := by
  unfold noteSkips
  split
  · constructor <;> simp
  · exact ⟨by simp, spadByte_congr (by simp) (by simp), by simp, by simp, by simp⟩

theorem SameBytes.trans {s s1 s2 : State} (h : SameBytes s s1) (g : SameBytes s1 s2) : SameBytes s s2 :=
  ⟨fun k => (g.mem k).trans (h.mem k), fun k => (g.spad k).trans (h.spad k), g.l1.trans h.l1, g.home.trans h.home,
    g.spec.trans h.spec⟩

theorem retire_same (i : Instr) (sid : Nat) (t0 : Team) (u : Uses) (s : State) (n : Nat) (pc : Word) :
    SameBytes s (retire i sid t0 u s n pc) := by
  obtain ⟨h1, h2, h3, h4, h5⟩ := retire_bytes i sid t0 u s n pc
  exact ⟨fun k => by rw [h1], h2, h3, h4, h5⟩

theorem OwedOnly.bytes {s s' : State} {sid : Nat} {t : Team} {counts : List Nat} (h : OwedOnly s s' sid t counts) : SameBytes s s' := by
  obtain ⟨T, rfl⟩ := h.state
  exact ⟨fun _ => rfl, fun _ => rfl, rfl, rfl, rfl⟩

theorem fallen_lift {i : Instr} {s : State} {sid : Nat} {t t1 : Team} {e : State} {n : Nat} (h : e.team? sid = some t1) :
    ∃ t', (fallen i s sid t e n).team? sid = some t' ∧ t'.pc = (teamAtIssue i s sid t).pc + 12 ∧ t'.s = t1.s ∧ t'.v = t1.v ∧
      t'.p = t1.p ∧ t'.w = t1.w ∧ t'.mask = t1.mask ∧ t'.owed = t1.owed ∧ SameSpecial t1 t' := retire_spec h

theorem SameSpecial.trans {t u v : Team} (h : SameSpecial t u) (g : SameSpecial u v) : SameSpecial t v := by
  obtain ⟨⟨h1, h2, h3, h4, h5, h6, h7⟩, h8⟩ := h
  obtain ⟨⟨g1, g2, g3, g4, g5, g6, g7⟩, g8⟩ := g
  refine ⟨⟨?_, ?_, ?_, ?_, fun k => (g5 k).trans (h5 k), fun k => (g6 k).trans (h6 k), g7.trans h7⟩, g8.trans h8⟩ <;> simp_all

/-- A vector result in its register: what `vectorResult` leaves of an instruction that nothing holds back. -/
theorem vectorResult_written {i : Instr} {h : Hdr} {s : State} {sid : Nat} {t : Team} {en : Mask} {d : VIdx} {wide : Bool}
    {f : Nat → LaneRes} {aff : Option (Lane × Lane)} {tags : List Tag} {val : Nat → Nat}
    (r : VectorRuns i h s sid t en d wide tags)
    (hx : exec i s = finish i sid (teamAtIssue i s sid t) (uses i) (vectorResult sid (viewAtIssue i s sid t) (atIssue i s sid t) en d
      { wide := wide, srcs := tags, aff := aff, f := f }))
    (hval : ∀ l, l < (teamAtIssue i s sid t).w → en.getLsbD l = true →
      (f l).v % 2 ^ (if wide then 64 else 32) = val l % 2 ^ (if wide then 64 else 32))
    (hu : allU tags = true → ∀ l, (f l).v = (f 0).v)
    (ha : ∀ b st, aff = some (b, st) → wide = false ∧ ∀ l, b + BitVec.ofNat 32 l * st = BitVec.ofNat 32 (f l).v) :
    LanesWritten i s sid t en d wide val := by
  obtain ⟨q, hq, hl, hv, v, hqt⟩ := vectorWrite_spec r.width r.room hu ha
  have hen : (en = 0) = False := eq_false r.some
  simp only [vectorResult, hen, if_false, viewAtIssue_t, hq, vectorDone, finish_fall] at hx
  have howed := oweEvents_only (s := noteSkips ((atIssue i s sid t).setTeam sid q.t) q.t q.passes (q.tag != .g))
    (by rw [noteSkips_team, State.team?_setTeam]) q.counts
  obtain ⟨o, he, -⟩ := howed.team
  obtain ⟨t', h1, h2, h3, h4, h5, h6, h7, -, h8⟩ := fallen_lift (i := i) (s := s) (t := t) (n := q.passes) he
  refine ⟨_, t', hx, h1, h2, ?_, ⟨?_, ?_, ?_, ?_⟩, trivial, ?_, ?_, ?_⟩
  · intro l hlt
    have hvr : ∀ n, t'.vr n = q.t.vr n := fun n => by unfold Team.vr; rw [h4]
    have : laneVal t' d wide l = laneVal q.t d wide l := by unfold laneVal; rw [hvr, hvr]
    rw [this, hl l hlt]
    split
    · exact hval l hlt ‹_›
    · rfl
  · intro n _
    simp only [Team.sr, h3, hqt]
  · intro n hn
    have hn2 : n ∉ members d wide := by simpa using hn
    rw [← hv n hn2]
    unfold Team.vr
    rw [h4]
  · intro n _
    simp only [Team.pr, Team.lanes, h5, h6, hqt]
  · intro _
    rw [h7, hqt]
  · refine SameSpecial.trans ?_ h8
    rw [hqt]
    exact SameSpecial.of_held (by constructor <;> and_intros <;> intros <;> rfl) rfl
  · refine SameBytes.trans ?_ (retire_same ..)
    refine SameBytes.trans ?_ howed.bytes
    refine SameBytes.trans ?_ (noteSkips_bytes ..)
    exact ⟨fun _ => rfl, fun _ => rfl, rfl, rfl, rfl⟩
  · intro k hk
    rw [fallen, retire_other _ _ _ _ _ _ _ hk, howed.other k hk, noteSkips_team, State.team?_setTeam_other _ _ hk]

end Sys2Proof.Machine
end

