-- ==== Sys2Proof/Tests/Slice0.lean ====
section
/-! SUPPORT. Tests: words of the spec decode to what they stand for, ill-formed terms are refused, single steps give what the
spec's rules say, and every statement's hypotheses are met by some concrete state (`witness_…`, clause by clause). -/

set_option synthInstance.maxSize 20000
set_option synthInstance.maxHeartbeats 2000000
set_option linter.unusedVariables false
set_option Elab.async false

namespace Sys2Proof.Tests

open Sys2Proof Sys2Proof.Machine


/-! ## Showing that hypotheses hold -/

def clearB (i : Instr) (s : State) (sid : Nat) (t : Team) : Bool :=
  decide (s.current = some sid) && decide (s.team? sid = some t) && !trapDue t && (checkWord s t i (uses i)).isNone
    && (pendingReg t i (uses i)).isNone && decide (landsInOrder t (uses i) (latency (opcOf i)) ≤ s.clock)
    && (!t.sbchk || (checkStall t s.clock (isVector (opcOf i)) (uses i).src).isNone)

theorem clear_of {i s sid t} (h : clearB i s sid t = true) : Clear i s sid t := by
  constructor <;> intros <;> simp_all [clearB]

theorem runs_of {i hd s sid t} (h : (clearB i s sid t && (viewAtIssue i s sid t).guard hd) = true) : Runs i hd s sid t :=
  { clear_of (Bool.and_elim_left h) with guard := Bool.and_elim_right h }

def quietB (t : Team) : Bool :=
  (List.range 8).all fun k => t.exc.actOf k = 0 || decide ((t.exc.wcntOf k).toNat + 1024 ≤ (t.exc.thrOf k).toNat)

theorem quiet_of {t} (h : quietB t = true) : Quiet t := by
  intro k hk
  simpa using List.all_eq_true.mp h k (List.mem_range.mpr hk)

/-- Some lane is enabled, of at most 1,024. -/
def lanesB (i : Instr) (s : State) (sid : Nat) (t : Team) (en : Mask) : Bool := en != 0 && decide ((teamAtIssue i s sid t).w ≤ 1024)

theorem predRuns_of {i s sid t en} (h : (clearB i s sid t && lanesB i s sid t en) = true) : PredRuns i s sid t en := by
  have k := Bool.and_elim_right h
  simp only [lanesB, Bool.and_eq_true, decide_eq_true_eq, bne_iff_ne] at k
  exact { clear_of (Bool.and_elim_left h) with some := k.1, width := k.2 }

theorem crossRuns_of {i s sid t} (h : (clearB i s sid t && decide ((teamAtIssue i s sid t).w ≤ 1024)) = true) : CrossRuns i s sid t :=
  { clear_of (Bool.and_elim_left h) with width := of_decide_eq_true (Bool.and_elim_right h) }

def roomB (i : Instr) (s : State) (sid : Nat) (t : Team) (en : Mask) (d : VIdx) (wide : Bool) (tags : List Tag) : Bool :=
  !overBudget (teamAtIssue i s sid t)
    ((members d wide).map (fun n => (n, if en = (teamAtIssue i s sid t).lanes ∧ allU tags then Tag.u else Tag.g)))

theorem vectorRuns_of {i hd s sid t en d wide tags}
    (h : ((clearB i s sid t && lanesB i s sid t en) && roomB i s sid t en d wide tags) = true) :
    VectorRuns i hd s sid t en d wide tags :=
  let p := predRuns_of (Bool.and_elim_left h)
  { p.toClear with some := p.some, width := p.width, room := by simpa [roomB] using Bool.and_elim_right h }

def settledB (u : Team) (s : State) (sid : Nat) : Bool :=
  u.pf.isNone && u.replay.isNone && !u.aged && u.region.isNone && s.windows.isEmpty && !linksBusy s && s.wq.all (fun q => q.sid != sid)
    && s.wfaults.all (fun f => f.sid != sid) && !u.midPass && !scAhead s sid

theorem settled_of {u s sid} (h : settledB u s sid = true) : Settled u s sid := by
  constructor <;> simp_all [settledB]

theorem memIssues_of {i hd s sid t}
    (h : ((clearB i s sid t && lanesB i s sid t (enableOf i hd s sid t)) &&
      (i.wf && settledB (teamAtIssue i s sid t) (atIssue i s sid t) sid)) = true) : MemIssues i hd s sid t :=
  let p := predRuns_of (Bool.and_elim_left h)
  let q := Bool.and_elim_right h
  { p.toClear with
    ok := Bool.and_elim_left q, some := p.some, width := p.width, settled := settled_of (Bool.and_elim_right q) }

theorem memRuns_of {i hd s sid t}
    (h : (((clearB i s sid t && lanesB i s sid t (enableOf i hd s sid t)) &&
      (i.wf && settledB (teamAtIssue i s sid t) (atIssue i s sid t) sid)) &&
      (runOf (teamAtIssue i s sid t) (enableOf i hd s sid t)).got.isEmpty) = true) : MemRuns i hd s sid t :=
  { memIssues_of (Bool.and_elim_left h) with
    earlier := fun e he => by simp [List.isEmpty_iff.mp (Bool.and_elim_right h)] at he }

theorem scalarMem_of {i hd s sid t}
    (h : ((clearB i s sid t && (viewAtIssue i s sid t).guard hd) &&
      ((i.wf && (teamAtIssue i s sid t).mem.isNone) && settledB (teamAtIssue i s sid t) (atIssue i s sid t) sid)) = true) :
    ScalarMem i hd s sid t :=
  let q := Bool.and_elim_right h
  { runs_of (Bool.and_elim_left h) with
    ok := Bool.and_elim_left (Bool.and_elim_left q), first := Option.isNone_iff_eq_none.mp (Bool.and_elim_right (Bool.and_elim_left q)),
    settled := settled_of (Bool.and_elim_right q) }

def fitsB (u : Team) (sp : Space) (n : Nat) (a : Word) : Bool :=
  decide (a.toNat % n = 0) && (match sp with
    | .global => decide (a.toNat < 2 ^ 56 ∨ 2 ^ 64 - 2 ^ 56 ≤ a.toNat)
    | .spad => decide (a.toNat < u.spadLen)
    | .lpriv => decide (a.toNat < u.privLen))

theorem fits_of {u sp n a} (h : fitsB u sp n a = true) : fits u sp n a := by
  unfold fitsB at h
  rw [Bool.and_eq_true, decide_eq_true_eq] at h
  refine ⟨h.1, ?_⟩
  cases sp <;> exact of_decide_eq_true h.2

theorem allFits_of {u sp n} {L : List Nat} {a : Nat → Word} (h : L.all (fun l => fitsB u sp n (a l)) = true) :
    ∀ l ∈ L, fits u sp n (a l) := fun l hl => fits_of (List.all_eq_true.mp h l hl)

theorem released_of {s u} (h : (s.l1.all fun x => x.core != u.coreId || x.ctx != u.ctx || x.dirty == 0) = true) : Released s u := by
  intro x hx h1 h2
  have := List.all_eq_true.mp h x hx
  simpa [h1, h2] using this

def inL1B (s : State) (core ctx va n : Nat) : Bool :=
  match s.l1? core ctx (va / 64) with
  | some x => byteRange (va % 64) n &&& ~~~ x.valid == 0
  | none => false

theorem inL1_of {s core ctx va n} (h : inL1B s core ctx va n = true) : inL1 s core ctx va n := by
  unfold inL1B at h
  split at h
  · exact ⟨_, ‹_›, beq_iff_eq.mp h⟩
  · cases h

def mayStoreB (s : State) (core ctx va : Nat) : Bool :=
  !sealedAt s ctx va && (match s.l1? core ctx (va / 64) with
    | some x => (match x.tr with | some tr => tr.grants s.rt | none => false)
    | none => false)

theorem mayStore_of {s core ctx va} (h : mayStoreB s core ctx va = true) : mayStore s core ctx va := by
  unfold mayStoreB at h
  rw [Bool.and_eq_true, Bool.not_eq_true'] at h
  refine ⟨h.1, ?_⟩
  replace h := h.2
  split at h
  · split at h
    · exact ⟨_, _, ‹_›, ‹_›, h⟩
    · cases h
  · cases h

theorem allFitsIn_of {u sp n s core ctx m} {L : List Nat} {a : Nat → Word} {b : Nat → Nat}
    (h : L.all (fun l => fitsB u sp n (a l) && inL1B s core ctx (b l) m) = true) :
    ∀ l ∈ L, fits u sp n (a l) ∧ inL1 s core ctx (b l) m := fun l hl =>
  have k := List.all_eq_true.mp h l hl
  ⟨fits_of (Bool.and_elim_left k), inL1_of (Bool.and_elim_right k)⟩

theorem allFitsMay_of {u sp n s core ctx} {L : List Nat} {a : Nat → Word} {b : Nat → Nat}
    (h : L.all (fun l => fitsB u sp n (a l) && mayStoreB s core ctx (b l)) = true) :
    ∀ l ∈ L, fits u sp n (a l) ∧ mayStore s core ctx (b l) := fun l hl =>
  have k := List.all_eq_true.mp h l hl
  ⟨fits_of (Bool.and_elim_left k), mayStore_of (Bool.and_elim_right k)⟩

def ownedB (s : State) (u : Team) (line : Nat) : Bool :=
  (match s.home? u.ctx line with
    | some g => g.tr.grants s.rt && g.tr.peer.isNone && g.valid == BitVec.allOnes 64
    | none => false)
    && (s.l1? u.coreId u.ctx line).isNone && !sealedAt s u.ctx (line * 64)

theorem owned_of {s u line} (h : ownedB s u line = true) : Owned s u line := by
  unfold ownedB at h
  rw [Bool.and_eq_true, Bool.and_eq_true, Bool.not_eq_true', Option.isNone_iff_eq_none] at h
  refine ⟨?_, h.1.2, h.2⟩
  replace h := h.1.1
  split at h
  · rw [Bool.and_eq_true, Bool.and_eq_true, Option.isNone_iff_eq_none, beq_iff_eq] at h
    exact ⟨_, ‹_›, h.1.1, h.1.2, h.2⟩
  · cases h

def atHomeB (s : State) (core ctx va n : Nat) : Bool :=
  (match s.home? ctx (va / 64) with
    | some g => byteRange (va % 64) n &&& ~~~ g.valid == 0
    | none => false) && (s.l1? core ctx (va / 64)).isNone

theorem atHome_of {s core ctx va n} (h : atHomeB s core ctx va n = true) : atHome s core ctx va n := by
  unfold atHomeB at h
  rw [Bool.and_eq_true, Option.isNone_iff_eq_none] at h
  refine ⟨?_, fun x hx => by simp [h.2] at hx⟩
  replace h := h.1
  split at h
  · exact ⟨_, ‹_›, beq_iff_eq.mp h⟩
  · cases h

/-- What an answer holds, where it answers. -/
theorem answer_of {σ α} {x : σ × α} {v : α} (h : x.2 = v) : x = (x.1, v) := Prod.ext rfl h

/-- The bytes of an answer that has some. -/
def got {ε β} (x : Except ε (List β)) : List β := match x with | .ok b => b | .error _ => []
def isOk {ε β} (x : Except ε (List β)) : Bool := match x with | .ok _ => true | .error _ => false
theorem got_of {σ ε β} {x : σ × Except ε (List β)} (h : isOk x.2 = true) : x = (x.1, .ok (got x.2)) := by
  obtain ⟨a, _ | b⟩ := x
  · cases h
  · rfl

/-- The state a step goes on to. -/
def nextOf (o : Host.Outcome State Fault Refusal) : State := match o with | .next s => s | _ => State.reset
def isNext (o : Host.Outcome State Fault Refusal) : Bool := match o with | .next _ => true | _ => false
theorem next_of {o : Host.Outcome State Fault Refusal} (h : isNext o = true) : o = .next (nextOf o) := by
  cases o with
  | next s => rfl
  | fault f => cases h
  | refused r => cases h

theorem word_of {x : State × Fetched} {w : BitVec 96} (h : (match x.2 with | .word v => v == w | _ => false) = true) : x = (x.1, .word w) := by
  obtain ⟨a, v | _ | _⟩ := x
  all_goals simp at h
  rw [h]

theorem allOwned_of {xs s u} (h : List.all xs (ownedB s u) = true) : ∀ k ∈ xs, Owned s u k :=
  fun k hk => owned_of (List.all_eq_true.mp h k hk)

/-! ## Vent calls and event rings -/

def ventReachesB (s : State) (w : Window) (k : Kind) (lo n : Nat) : Bool :=
  decide (lo + n ≤ 2 ^ 64) && (List.range n).all fun j =>
    let a := lo + j
    canonical (BitVec.ofNat 64 a) && match tlbFind s w.vent w.ctx a k with
      | none => false
      | some tr => tr.peer.isNone && match dpaOf s (lineAt tr (a / 64)) with
        | none => false
        | some d => decide (d / Config.stackBytes = w.vent / 32) && (k != .write || !sealedAt s w.ctx a) &&
            (k != .read || !poisonedKey s (physKey s (lineAt tr (a / 64))))

theorem ventReaches_of {s w k lo n} (h : ventReachesB s w k lo n = true) : VentReaches s w k lo n := by
  rw [ventReachesB, Bool.and_eq_true, decide_eq_true_eq] at h
  refine ⟨h.1, fun a la ah => ?_⟩
  have q := List.all_eq_true.mp h.2 (a - lo) (List.mem_range.mpr (by omega))
  rw [show lo + (a - lo) = a by omega] at q
  rw [Bool.and_eq_true] at q
  refine ⟨q.1, ?_⟩
  have q2 := q.2
  split at q2
  · cases q2
  · split at q2
    · simp at q2
    · simp only [Bool.and_eq_true, Bool.or_eq_true, decide_eq_true_eq, bne_iff_ne, Bool.not_eq_true', Option.isNone_iff_eq_none] at q2
      exact ⟨_, _, by assumption, q2.1, by assumption, q2.2.1.1, fun e => by simpa [e] using q2.2.1.2, fun e => by simpa [e] using q2.2.2⟩

def ringReadyB (s : State) (ctx : Nat) (c : Ctx) : Bool :=
  decide (s.ctx? ctx = some c) && decide (4 ≤ ringLog c.ctxEvq ∧ ringLog c.ctxEvq ≤ 20) &&
    [ringBase c.ctxEvq / 64, ringSlot s ctx c / 64].all (fun l => (s.home? ctx l).any (fun g => g.tr.grants s.rt && g.valid == BitVec.allOnes 64)) &&
    decide ((ringTail s ctx c + 2 ^ 64 - homeVal s ctx (ringBase c.ctxEvq + 8) 8) % 2 ^ 64 ≠ 2 ^ ringLog c.ctxEvq) && s.tracked.isEmpty

theorem ringReady_of {s ctx c} (h : ringReadyB s ctx c = true) : RingReady s ctx c := by
  simp only [ringReadyB, Bool.and_eq_true, decide_eq_true_eq, List.isEmpty_iff] at h
  refine ⟨h.1.1.1.1, h.1.1.1.2, fun l hl => ?_, h.1.2, h.2⟩
  obtain ⟨g, hg, q⟩ := (Option.any_eq_true _ _).mp (List.all_eq_true.mp h.1.1.2 l hl)
  simp only [Bool.and_eq_true, beq_iff_eq] at q
  exact ⟨g, hg, q.1, q.2⟩

/-- Six hypotheses that are evaluated, and the rest. -/
theorem and6 {a b c d e f r : Prop} (h : a ∧ b ∧ c ∧ d ∧ e ∧ f) (hr : r) : a ∧ b ∧ c ∧ d ∧ e ∧ f ∧ r :=
  ⟨h.1, h.2.1, h.2.2.1, h.2.2.2.1, h.2.2.2.2.1, h.2.2.2.2.2, hr⟩

/-! ## States for the witnesses -/

def h0 : Hdr := ⟨false, 31, 0, false⟩
def T0 : Team := { codeTeam with spadLen := 4096, privLen := 64 }
def demo (t : Team) : State := { State.reset with current := some 0, teams := [(0, t)], ctxs := [(1, newCtx .user 0)] }
def S0 : State := demo T0

def ones : ByteMask := BitVec.allOnes 64
def tr0 : Trans := { pa := 0x20000, size := 12, w := true, x := true, dset := true, peer := none, expiry := 2 ^ 60 }
def line0 : LineData := 0x1122334455667788#512
def l10 : L1Line := { core := 0, ctx := 1, line := 0x800, valid := ones, dirty := 0, data := line0, tr := some tr0, clean := 2 ^ 60, narrow := 0, filled := 0 }
def home0 : HomeLine := { ctx := 1, line := 0x800, valid := ones, dirty := 0, data := line0, tr := tr0, clean := 2 ^ 60, atomAt := [] }
def TG : Team := { T0 with s := [(8, 0x20000), (9, 77)] }
def SL1 : State := { demo TG with l1 := [l10] }
def SHome : State := { demo TG with homes := [home0] }
def STlb : State := { demo TG with tlb := [⟨unitOf 0x20000, 1, 0x20, tr0⟩] }
def demoH (t : Team) : State := { demo t with ctxs := [(1, { newCtx .user 0 with trapEntry := 0x4000 })] }
def TV : Team := { T0 with v := [(5, .a 0 4), (6, .a 1 4)] }

def sealCtx : Ctx := { newCtx .user 0 with seals := [(0x20000, 4096)] }
def blankJob (out : Bool) : CopyJob :=
  { id := 0, sid := 0, tkey := 0, out := out, reg := 4, tok := 0, desc := 0, imm := ⟨false, 0, 0, 0⟩, lid := 0, target := 0, row := 0, rows := 0,
    bytes := 0, events := 0, waiting := none, served := [], failed := none, touched := [], clobbered := [] }
/-- Whether a copy is in order does not depend on where its token lands. -/
theorem copyOk_of {s : State} {u : Team} {b : Bool} {k : CpyImm} {d : BitVec 256}
    (h : copyCheck s u { blankJob b with imm := k, desc := d } = none) :
    ∀ j : CopyJob, j.out = b → j.imm = k → j.desc = d → copyCheck s u j = none := by
  intro j h1 h2 h3
  subst h1 h2 h3
  exact h
def SFull : State := S0.setCore 0 { S0.core 0 with copies := List.replicate 32 (blankJob false) }
def withS (l : List (Nat × Word)) : Team := { T0 with s := l }

def T64 : Team := { T0 with w := 64, spadLen := 2 ^ 20, s := [(4, 1 <<< 41), (6, 0x20000), (7, 256)] }
def TTwin : Team := { T64 with w := 128, twin := true, gang := true }
def withX (l : List (Nat × Word)) : Team := { T64 with s := l }
def withXX (l : List (Nat × Word)) : Team := { TTwin with s := l }
def matE : MEntry :=
  { id := 0, sid := 0, tkey := 0, word := 0, op := .mzero, tile := 0, ver := 0, desc := 0, idx := [], odd := false, stage := .waiting,
    fenced := 0, ticket := none, row := 0, seg := 0, part := [], served := [], events := 0, touched := [], rewrote := [] }
def S64 : State := demo T64
def SMatFull : State := S64.setCore 0 { S64.core 0 with matrix := List.replicate 64 matE }
def L0 : Launch :=
  { lid := 0, ctx := 1, die := 0, hwq := 0, qid := 0, res := 0, task := false, launchId := 1, job := 2, args := 0, compl := 0, shp := [],
    entry := 0x10000, w := 32, n := 128, g := 128, spadg := 0, lpriv := 0, gang := false, twin := false, hasBkt := false, units := 1, teamsPer := 1,
    roles := [], buckets := [], groups := [⟨[0]⟩], carry := [], hulls := [], next := 1, ustate := [(0, .running 1)], lnext := false, pred := none,
    accepted := 0, boundAt := none, handler := none, cancelled := false, cancelDies := [], recordAsked := false, barriers := [], phases := [], dispatched := true, refused := none,
    entryVa := 0, waiting := none, onStatus := false, served := [], denied := [] }
def SL (t : Team) (l : Launch) : State := { demo t with launches := [l] }
def LB (f : Barrier → Barrier) : Launch := { L0 with barriers := [(0, f emptyBarrier)] }
def SBind (t : Team) (l : Launch) (b : BindRec) : State := (SL t l).setDie 0 { emptyDie with bind := [(0, b)] }
def bind0 : BindRec := { emptyBind with pharea := 0x20000, phstride := 65536 }
/-- One page at 0x20000 that every unit can use. -/
def paged (s : State) : State := { s with tlb := [⟨unitOf 0x20000, 1, 0x20, tr0⟩, ⟨512, 1, 0x20, tr0⟩] }
def putBytes (s : State) (k n v : Nat) : State := { s with mem := memWrite s.mem k (leBytes n v) }
/-- A queue table with one queue, whose ring holds one task. -/
def SQueue : State := (fun s => { s with bringUp := 7 }) <|
  putBytes (putBytes (putBytes (paged { demo T0 with ctxs := [(1, { newCtx .user 0 with qtBase := 0x20000 })] }) 0x20000 16 (0x20100 * 2 ^ 64 + 2 ^ 31))
    0x20100 16 1) 0x20140 64 (1 + 7 * 2 ^ 128 + 0x55 * 2 ^ 192)
def SNoQueue : State := paged { demo T0 with ctxs := [(1, { newCtx .user 0 with qtBase := 0x20000 })] }
def homeAt (line : Nat) (d : LineData) : HomeLine := { home0 with line := line, data := d }
def dq (bottom top log2 : Nat) : LineData := BitVec.ofNat 512 (bottom + top * 2 ^ 64 + 0x20040 * 2 ^ 128 + log2 * 2 ^ 192)
def SDeque (bottom top log2 : Nat) : State := { demo TG with homes := [homeAt 0x800 (dq bottom top log2), homeAt 0x801 0x66] }

def win0 : Window :=
  { num := 5, vent := 0, base := 0x20000, len := 4096, lid := 0, group := 0, sid := 0, tkey := 0, ctx := 1, sigw := 0, grain := 0, esc := 1,
    newCsr := none, queue := [], replays := 0, consec := 0, stat := [], escalate := false, failed := none }
def callArgs : List Word := [0x20000, 1, 5, 0, 0, 0]
def callItem : VentItem := .call 0 0 callArgs
def TW : Team := { T0 with window := some 5, s := [(6, 0x20000), (7, 4096)] }
def SW (w : Window) : State := { SL TW L0 with windows := [w] }
def TOpen : Team := withS [(6, 0x20000), (7, 4096)]
def SOpen : State := { paged (SL TOpen L0) with hdm0 := some 0 }
def demoSup (t : Team) : State := { demo t with ctxs := [(1, newCtx .supervisor 0)] }
def trBig : Trans := { tr0 with pa := 0, size := 21 }
def fwCtx : Ctx := newCtx .firmware 0
def SWcs : State := { demo TG with ctxs := [(1, fwCtx)], tlb := [⟨unitOf 0x20000, 1, 0, trBig⟩, ⟨unitOf 0x21000, 1, 0, trBig⟩] }
def run0 : VentRun :=
  { win := 5, calls := 0, rv := 0, wv := 0, buffer := [], escalated := false, direct := false, wrote := [], hold := false, got := [], todo := [], seed := 0, events := 0,
    waiting := none, served := [] }
def SWcsBusy : State := { SWcs with vents := [(77, { emptyVent with run := some run0 })] }
def view0 : RegionView :=
  { slot := 0, live := true, irr := false, ending := false, doomed := false, attempt := 1, cause := 0, value := 0, reg := 0, tok := 0 }
def reg0 : Region := { slot := 0, ctx := 1, sid := 0, tkey := 0, core := 0, ticket := 1, irr := false, ending := false, preds := [], raw := [] }
def TR (v : RegionView) : Team := { T0 with region := some v }
def SR (v : RegionView) (r : Region) : State := { demo (TR v) with regions := [r] }
def TCall (dev : Word) : Team := withS [(15, dev)]
def jobCtx : Ctx := { newCtx .user 0 with gyJobtag := 3 }
def SCall (t : Team) : State := { demo t with ctxs := [(1, jobCtx)] }
def slot0 : CallSlot :=
  { reg := 4, tok := 0, dev := 0xFFF, cls := 0, reply := true, issued := 0, acked := false, lostAt := none, landed := false, gone := false }
def call0 : Call :=
  { args := [], handler := 5, cls := 0, reply := true, sdev := 0xFFF, sctx := 1, steam := 0, jobtag := 3, slot := 0, sref := 0 }
def info0 : HandlerInfo := { call := call0, spilled := false, cls := 0, nocall := false, replied := false }
def TH (x : HandlerInfo) : Team := { T0 with handler := some x }
def evCtx : Ctx := { newCtx .user 0 with ctxEvq := 0x20004 }
def SEv : State := paged { demo T0 with ctxs := [(1, evCtx)] }

def TSb : Team := { T0 with sb := [⟨.s 6, 3, [], false, 0⟩] }
def fill0 : Fill := { core := 0, ctx := 1, line := 0x800, valid := ones, data := line0, tr := some tr0, prefetch := false, homeOnly := false, entry := false }
def trOld : Trans := { tr0 with expiry := 0 }
def preq0 : PageReq := { who := .team 0, ctx := 1, pasid := 0, page := 0x20, write := false, exec := false, port := 0 }
def group0 : PageGroup := { fetch := false, waits := [⟨0x20, 1, false, 1, none, false, 0⟩], hard := [] }
def TPage : Team := { T0 with pf := some group0 }
def SPage : State := { demo TPage with preqs := [preq0] }
def far0 : FarAtom :=
  { sid := 0, lane := 0, pa := 0x20000, va := 0x20000, tr := tr0, ty := .n32, op := .add, v := 1, c := 0, expect := 0, tries := 0, failed := none, done := none }
def SIow : State := { S0 with far := [far0], hostIow := [(0, 12 <<< 58 ||| 0x20000)] }
def SPeer : State := { S0 with ports := [(0, { emptyPort with up := true, partner := 5 })] }
def accP : PeerAcc := { dev := 5, pa := 0x20000, size := 8, op := .load }
def SCopy (j : CopyJob) : State := S0.setCore 0 { S0.core 0 with copies := [j] }
def rowJob : CopyJob := { blankJob false with desc := 0x20000 + 1 * 2 ^ 64 + 16 * 2 ^ 80 }
def SMat (e : MEntry) (t : Team) : State := (demo t).setCore 0 { S0.core 0 with matrix := [e] }
def mmaE : MEntry := { matE with op := .mma, desc := BitVec.ofNat 128 (2 ^ 41), idx := List.replicate 64 0 }
def loadE : MEntry := { matE with op := .mload false false, desc := 2 ^ 56, stage := .running 0 }
def SHub : State := SL T0 (LB fun b => { b with members := 1, now := ⟨1, 0⟩ })
def winC : Window := { win0 with queue := [callItem] }
def winM : Window := { win0 with queue := [.commit ⟨false, 0, 0⟩ 4 0] }
def SVent (w : Window) (r : Option VentRun) : State :=
  { SW w with vents := [(0, { emptyVent with library := true, run := r })], tlb := [⟨0, 1, 0x20, tr0⟩], hdm0 := some 0 }
def SVentMiss : State := { SVent winC (some run0) with tlb := [] }
def TEnd : Team := TR { view0 with ending := true }
def SEnd : State := { demo TEnd with regions := [{ reg0 with ending := true }] }

def watch0 : QueueWatch :=
  { ctx := 1, qid := 0, die := 0, hwq := 0, live := true, ring := 0x20100, rlog := 0, head := none, next := 0, reach := none, forwarded := [], passed := [], owed := [],
    asleep := false, waiting := none, served := [], denied := [], failing := [], retryAt := none }
def SWatch (w : QueueWatch) : State := { SQueue with watches := [w], ordMode := false }
def push0 : Push :=
  { sid := 0, key := 0, ctx := 1, task := false, qid := 0xFFFFFFF0, lrec := 0, regions := 0, reg := 4, tok := 0, slot := none, stalled := false, job := none, dies := [],
    waiting := none, served := [], denied := [] }
def bindFor (launch : Nat) (cls : BitVec 2) : BindRec :=
  { emptyBind with launchId := BitVec.ofNat 32 launch, cores := 3, ctx := 1, quota := 64, cls := cls, valid := true }
def LWait (lid launch : Nat) : Launch :=
  { L0 with lid := lid, qid := lid, launchId := BitVec.ofNat 32 launch, next := 0, ustate := [], dispatched := false, boundAt := some 0 }
def SPlace : State := { (S0.setDie 0 { emptyDie with bind := [(0, bindFor 1 0)] }) with launches := [LWait 0 1] }
def SStarve : State :=
  { (S0.setDie 0 { emptyDie with bind := [(0, bindFor 1 0), (1, bindFor 2 1)], placeCount := 62 }) with
      launches := [LWait 0 1, LWait 1 2], clock := 20000, ages := [⟨0, 1, 0, false, 0⟩] }
def TRec : Team := { T0 with recordVa := some 0x20000, park := .record }
def SRec : State := putBytes (paged (demo TRec)) 0x20000 64 (64 * 2 ^ 320 + 0x11000 * 2 ^ 448)
def cast0 : Broadcast := ⟨0, 1, 2, 100⟩
def TFail : Team := { T0 with failed := some Cause.cancelled }
def TExit : Team := { T0 with exited := true }
def LDone : Launch := { L0 with ustate := [(0, .done)] }
def SLaunch (l : Launch) : State := { S0 with teams := [], launches := [l] }
def arr0 : Arrival := { id := 0, port := none, die := 0, call := call0, waiting := none, served := [], denied := [] }
def TSlot (x : CallSlot) : Team := { T0 with slots := [(3, x)] }
def slot1 : CallSlot := { slot0 with dev := 5, tok := 1 }
def SMail (m : Instr) : State := { demo (TSlot slot1) with mail := [m] }
def gyE : GyEntry := { ctx := 1, call := { call0 with cls := 1 }, entry := 0, spilled := false, since := 0 }
def SGyq : State := { (S0.setDie 0 { emptyDie with gyq := [(1, [gyE])] }) with clock := 70000 }
def ring0 : SpillRing :=
  { ctx := 1, handler := 0, va := 0x20000, slots := 4, calls := [(call0, 0)], waiting := none, served := [], denied := [], failing := false,
    retryAt := none }
def callBindRec : BindRec := { emptyBind with ctx := 1, hwq := 60, matchq := true, valid := true }
def SSpill : State := { paged (S0.setDie 0 { emptyDie with bind := [(0, callBindRec)] }) with spills := [ring0] }
def stall0 : Stalled := { port := 0, die := 0, ctx := 1, call := call0, entry := 0 }
def SPort (f : Port → Port) : State := { S0 with devId := 4, ports := [(0, f { emptyPort with up := true, partner := 5 })] }

def TWin : Team := { T0 with exc := { T0.exc with winLog := 4, wcnt := [(0, 3)] } }
def pmcOn : Pmc := { sel := [(0, 0x10001)], cnt := [], wrote := [] }
def SPmc : State := S0.setCore 0 { S0.core 0 with pmc := pmcOn }
def SMgmt (o : BitVec 2) : State := { SLaunch { L0 with handler := some info0 } with mgmtSem := o, launches := [] }
def ctxOut : Ctx := { newCtx .user 0 with resident := false }
def SResume : State := { S0 with teams := [], ctxs := [(1, ctxOut)] }
def TPend : Team := { T0 with pend := [⟨Cause.cancelled, 9, false⟩] }
def STrap : State := demoH TPend

def SCode : State := { State.reset.withFetchWord 96 0x1F000000000000000000 with current := none }
def TReady : Team := { T0 with fetched := some (.nop h0) }
def SReady : State := { demo TReady with current := none }

def TBusy : Team := { T0 with sb := [⟨.v 2, 3, [], false, 0⟩] }
def TLate : Team := { T0 with fixed := [⟨.v 4, .v (.u 0), 50, false⟩] }
def TEarly : Team := { T0 with sbchk := true, fixed := [⟨.v 2, .v (.u 0), 50, false⟩] }
def hNever : Hdr := ⟨false, 3, 0, false⟩
def eS : Fixed := ⟨.s 5, .s 77, 50, false⟩
def TOld : Team := { T0 with sbchk := false, fixed := [eS] }
def TBudget : Team := { T0 with g := 0, v := [(2, .g (List.replicate 32 1))] }

def SAt : State := { State.reset.withFetchWord 96 0x1F000000000000000000 with current := some 0 }
def SBad : State := { State.reset.withFetchWord 96 0xFFFF00000000000000000000 with current := some 0 }
def tr1 : Trans := { tr0 with pa := 0x10000 }
def SCode1 : State := { S0 with tlb := [⟨unitOf 0x10000, 1, 0x10, tr1⟩] }
def errOf {ε α : Type} (x : Except ε α) : Option ε := match x with | .error e => some e | .ok _ => none

theorem worst_of {all : List (Nat × LaneGot)} {f : Nat} {c : BitVec 9}
    (h : all.all (fun e => match e.2 with
      | .out (.bad k _) => decide (c.toNat < k.toNat) || (decide (c = k) && decide (f ≤ e.1)) | _ => true) = true) :
    ∀ l k b, (l, LaneGot.out (.bad k b)) ∈ all → c.toNat < k.toNat ∨ (c = k ∧ f ≤ l) := by
  intro l k b hl
  simpa using List.all_eq_true.mp h _ hl

theorem valOrBad_of {all : List (Nat × LaneGot)}
    (h : all.all (fun e => match e.2 with | .out (.bad _ _) => true | .val _ => true | _ => false) = true) :
    ∀ e ∈ all, (∃ x, e.2 = .val x) ∨ ∃ k b, e.2 = .out (.bad k b) := by
  intro ⟨l, g⟩ hl
  have k := List.all_eq_true.mp h _ hl
  cases g with
  | val x => exact .inl ⟨x, rfl⟩
  | out o =>
    cases o with
    | bad c a => exact .inr ⟨c, a, rfl⟩
    | _ => cases k
  | _ => cases k

theorem noneOf {α} {x : Option α} {P : α → Prop} (h : x.isNone = true) : ∀ r, x = some r → P r := by
  intro r hr
  rw [hr] at h
  cases h

def ls3 : List L1Line := [l10, { l10 with line := 0x801 }, { l10 with line := 0x802 }]
def TGV : Team := { TG with v := [(5, .a 0 4), (6, .a 1 4)] }
def SL3 : State := { demo TGV with l1 := ls3 }
def TWide : Team := { TV with w := 64, mask := lanesBelow 64, v := [(5, .a 0 4), (6, .a 1 4)] }
def THeld : Team := { TW with s := [(6, 0x20000), (7, 4096), (8, 0x20000)] }
def SHeld : State :=
  { SL THeld L0 with windows := [winM], vents := [(0, { emptyVent with library := true, run := some { run0 with hold := true } })] }
def qw0 : QWrite := ⟨0, 0, 1, 7, 0x800, 1, 0x99, tr0, true⟩
def SQw : State := { SQueue with wq := [qw0] }
def TEndG : Team := { TG with region := some { view0 with ending := true } }
def SWcsEnd : State := { SWcs with teams := [(0, TEndG)] }
def SManyWin : State := { SOpen with windows := List.replicate 64 win0 }
def SNoPage : State := { SOpen with tlb := [] }
def errOr {ε β} (d : ε) (x : Except ε β) : ε := match x with | .error e => e | .ok _ => d
theorem err_of {σ ε β} {x : σ × Except ε β} {d : ε} (h : (errOf x.2).isSome = true) : x = (x.1, .error (errOr d x.2)) := by
  obtain ⟨a, e | b⟩ := x
  · rfl
  · cases h

def TMiss : Team := { T0 with misses := [⟨3, [0x800], 0⟩] }
def SUns : State := { demo TSb with ctxs := [(1, { newCtx .user 0 with seals := [(0x20000, 4096)], unseals := [(3, 0x20000, 4096)] })] }
def own4 : OwnLine := ⟨0x800, some 4, []⟩
def own0 : OwnLine := ⟨0x800, none, []⟩

def wWait : QueueWatch := { watch0 with waiting := some 0x20 }
def SPageQ : State := { S0 with preqs := [{ preq0 with who := .queue 1 0 }], watches := [wWait] }
def SOwn : State := { S0 with own := [own0], far := [far0] }
def SIowBad : State := { SIow with poison := [physKey SIow 0x20000 / 64] }
def farMin : FarAtom := { far0 with op := .min }
def SIowMin : State := { SIow with far := [farMin] }
/-- A peer whose accesses to the page at 0x20000 the export table admits. -/
def SExp : State :=
  putBytes { SPeer with fjExp := 0x40000 ||| (1 <<< 52) } (physKey S0 0x40000) 32
    (0x20000 + 4096 * 2 ^ 64 + 5 * 2 ^ 104 + 5 * 2 ^ 128 + 7 * 2 ^ 151)

def SCopyP (j : CopyJob) : State := paged (SCopy j)
def outJob : CopyJob := { blankJob true with desc := 0x20000 + 1 * 2 ^ 64 + 16 * 2 ^ 80 }
def gatherJob : CopyJob := { rowJob with desc := 0x20000 + 1 * 2 ^ 64 + 16 * 2 ^ 80 + 0x50000 * 2 ^ 192 }
def farJob : CopyJob := { rowJob with desc := 2 ^ 56 + 1 * 2 ^ 64 + 16 * 2 ^ 80 }
def failJob : CopyJob := { blankJob false with failed := some (Cause.pageFault, 9) }
def rowAcc : Access := { sid := 0, core := 0, ctx := 1, scope := .team, pol := false, engine := true }
def goodE : MEntry := { loadE with desc := 0x20000 }
def absE : MEntry := { loadE with desc := 0x50000 }
def SSeal : State := { SEnd with ctxs := [(1, sealCtx)], spec := [⟨0, 0, 1, 0x800, 1, 0, tr0⟩] }
def runHold : VentRun := { run0 with hold := true }
def runBad : VentRun := { runHold with buffer := [⟨0x800, 0x20000, 1, 0⟩] }
def SVentBad : State := { SVent winM (some runBad) with ctxs := [(1, sealCtx)] }

theorem got_of_val {σ ε β} [DecidableEq β] {x : σ × Except ε β} {b : β} (h : (match x.2 with | .ok c => decide (c = b) | .error _ => false) = true) :
    x = (x.1, .ok b) := by
  obtain ⟨a, e | c⟩ := x
  · cases h
  · rw [of_decide_eq_true h]

theorem getD_of {α} {x : Option α} {d : α} (h : x.isSome = true) : x = some (x.getD d) := by
  cases x with
  | none => cases h
  | some a => rfl
theorem step4_of {σ α β γ} {x : σ × α × β × Option γ} {m : Option γ} (h : x.2.2.2 = m) : x = (x.1, x.2.1, x.2.2.1, m) := by
  subst h
  rfl

/-- A queue table entry at 0x20000 for queue 0, whose ring's header stands at 0x20100, and an entry at 0x20140. -/
def SRing (tail : Nat) (e : Nat) : State :=
  putBytes (putBytes (putBytes (paged { demo T0 with ctxs := [(1, { newCtx .user 0 with qtBase := 0x20000 })], bringUp := 7 })
    0x20000 16 (0x20100 * 2 ^ 64 + 2 ^ 31)) 0x20100 16 tail) 0x20140 64 e
def entryAt (lrec : Nat) : Nat := 1 + 1 * 2 ^ 128 + lrec * 2 ^ 192
/-- A launch record of one team of 32 lanes, 8 registers, one group. -/
def record0 (w : Nat) : Nat :=
  w * 2 ^ 64 + 1 * 2 ^ 80 + 2 * 2 ^ 85 + 1 * 2 ^ 160 + 0x20400 * 2 ^ 192 + 0x20300 * 2 ^ 576 + 1 * 2 ^ 1008
def SAcc (w : Nat) : State :=
  putBytes (putBytes (SRing 1 (entryAt 0x20200)) 0x20200 128 (record0 w)) 0x20400 16 (1 * 2 ^ 24 + 1 * 2 ^ 48)
def wHead : QueueWatch := { watch0 with head := some 0 }
def SWatchOn (s : State) (w : QueueWatch) : State := { s with watches := [w], ordMode := false }
def pushQ : Push := { push0 with qid := 0 }
def SPush (s : State) : State := { s with pushes := [pushQ] }
def LCompl : Launch := { LDone with compl := 0x20000 }
def LBad : Launch := { LDone with refused := some (Cause.badRecord, false), entryVa := 0x20140 }

def isGot {ε β} (x : Except ε β) : Bool := match x with | .ok _ => true | .error _ => false
def gotOr {ε β} (d : β) (x : Except ε β) : β := match x with | .ok b => b | .error _ => d
theorem gotOr_of {σ ε β} {x : σ × Except ε β} {d : β} (h : isGot x.2 = true) : x = (x.1, .ok (gotOr d x.2)) := by
  obtain ⟨a, e | b⟩ := x
  · cases h
  · rfl
def noReads : LaunchReads := ⟨0, [], [], [], [], [], []⟩

def kindIs (c : Cand) (lid : Nat) : Bool := match c.kind with | .unit l => l == lid | _ => false
theorem kind_of {c : Cand} {lid} (h : kindIs c lid = true) : c.kind = .unit lid := by
  unfold kindIs at h
  split at h
  · rename_i e
    rw [e, beq_iff_eq.mp h]
  · cases h
theorem notMissing {x : LostTry} (h : (match x with | .missing _ => false | _ => true) = true) : ∀ m, x ≠ .missing m := by
  intro m hm
  rw [hm] at h
  cases h
def hasHandlerB (s : State) (u : Team) (entry : Word) : Bool :=
  u.failed.isNone && ((match s.ctx? u.ctx with | some c => c.trapEntry == entry | none => false) && entry != 0)
theorem hasHandler_of {s u entry} (h : hasHandlerB s u entry = true) : HasHandler s u entry := by
  simp only [hasHandlerB, Bool.and_eq_true, Option.isNone_iff_eq_none, bne_iff_ne] at h
  refine ⟨h.1, ?_⟩
  have k := h.2.1
  split at k
  · exact ⟨_, ‹_›, beq_iff_eq.mp k, h.2.2⟩
  · cases k

/-- A context whose handler 5 has the given entry, and a call to it that has arrived. -/
def arrCtx : Ctx := { newCtx .user 0 with gyJobtag := 3, gyHtab := 0x40000 }
def SArrC (c : Ctx) (e : Nat) : State :=
  putBytes { S0 with ctxs := [(1, c)], arrivals := [arr0], tlb := [⟨unitOf 0x40140, 1, 0x40, { tr0 with pa := 0x40000 }⟩] } (physKey S0 0x40140) 64 e
def SArr (e : Nat) : State := SArrC arrCtx e
def entry0 : Nat := 32 * 2 ^ 64 + 1 * 2 ^ 80 + 2 * 2 ^ 85 + 1 * 2 ^ 94 + 1 * 2 ^ 216
def fullCtx : Ctx := { arrCtx with gyQdepth := [(0, 0)] }
def slotNo : CallSlot := { slot1 with reply := false }
def SMailNo (m : Instr) : State := { demo (TSlot slotNo) with mail := [m] }

def preCtx : Ctx := { newCtx .user 0 with ctxReply := 0x2000C, ctxSave := 0x200016 }
def trSave : Trans := { tr0 with pa := 0x200000, size := 21 }
/-- A resident context none of whose teams is placed (the tiles of a core with one are 4 MB). -/
def SPre (c : Ctx) : State :=
  { S0 with teams := [], ctxs := [(1, c)], tlb := [⟨unitOf 0x20000, 1, 0x20, tr0⟩, ⟨512, 1, 0x20, tr0⟩, ⟨512, 1, 1, trSave⟩] }
def more0 : MorePasses := { left := 3, cycles := 2, lat := 4, stall := 0, yld := false, dst := [] }
def TMore : Team := { T0 with more := some more0 }
def TDq (core : Nat) (i : Instr) : Team := { T0 with core := core, key := core, fetched := some i }
def STwoDq : State :=
  { S0 with current := none, teams := [(0, TDq 0 (.dpush h0 4 8 (.s 9))), (16, TDq 1 (.dpop h0 4 8))] }

theorem got2_of {σ ε} {x : σ × Except ε Bool} (h : (match x.2 with | .ok b => b | .error _ => false) = true) : x = (x.1, .ok true) := by
  obtain ⟨a, e | b⟩ := x
  · cases h
  · cases b
    · cases h
    · rfl
theorem unit_of {σ ε} {x : σ × Except ε Unit} (h : isGot x.2 = true) : x = (x.1, .ok ()) := by
  obtain ⟨a, e | b⟩ := x
  · cases h
  · rfl

def TOwed : Team := { T0 with owed := [3, 0, 5, 0, 0, 0, 0, 0] }
def TCross : Team := { TOwed with exc := { TOwed.exc with thr := [(2, 4)], act := [(2, 1)] } }
def TLater : Team := { TOwed with doneAt := 9 }

theorem kept_of {x : Option Team} {a : Bool} {b : Option (BitVec 9)}
    (h : (match x with | some t => t.inTrap == a && t.failed == b | none => true) = true) :
    ∀ t, x = some t → t.inTrap = a ∧ t.failed = b := by
  intro t ht
  rw [ht] at h
  simpa using h
def evqCtx : Ctx := { newCtx .user 0 with ctxEvq := 0x20000 }

def ventL : Vent := { emptyVent with library := true }
def micro0 : Micro := { m := List.replicate 16 0x20000, b := List.replicate 8 (0, 0xFFFF#16), lc := 0, flag := false, at_ := 0 }
def evLine (n : Nat) : HomeLine := { home0 with line := n, data := 0 }
def SRing1 : State := { SEv with homes := [evLine 0x800, evLine 0x801] }
def ptDesc : Word := BitVec.ofNat 64 (4 + 1 * 2 ^ 22 + 2 * 2 ^ 28 + 5 * 2 ^ 34 + 6 * 2 ^ 40 + 7 * 2 ^ 46 + 63 * 2 ^ 52 + 51 * 2 ^ 58)
def SWalk : State :=
  putBytes (putBytes { demo TG with ctxs := [(1, { newCtx .supervisor 0 with ptlDesc := ptDesc, ptlRoot := 0x30000 })] } 0x30000 8 0x30003)
    0x30100 8 0x20003
def trPeer : Trans := { tr0 with peer := some 5 }
def SPeerPage : State := { demoSup TG with tlb := [⟨unitOf 0x20000, 1, 0x20, trPeer⟩] }
def TPart : Team := { TBudget with p := [(3, 1)] }
def hPart : Hdr := ⟨false, 3, 0, false⟩
def SEndQ : State := { SEnd with spec := [⟨0, 0, 1, 0x800, 1, 0, tr0⟩], wq := [qw0] }
def runE (op : MOp) (d : MDesc) : MEntry := { matE with op := op, desc := d, stage := .running 0 }

theorem one_exp2 {f : Fmt} (h : f.val 0 = .fin false 0 (f.emin - f.p) := by decide +kernel) : FnExact .exp2 ((f.val 0).rat : ℝ) 1 := by
  simp [FnExact, FVal.rat, h]

def SWcsHeld : State :=
  { SWcs with launches := (SL TG L0).launches, windows := [{ win0 with base := 0x20000, len := 4096, vent := 3, lid := TG.lid, ctx := 1 }],
              vents := [(3, { emptyVent with run := some { run0 with win := win0.num, hold := true } })] }

/-! ## Words of the spec -/

/-- A word from its fields, as 05 R76 lays them out: OPC, MOD, GNEG and GPRED, STALL and YLD, reserved bits, D, A, B. -/
def wordOf (opc : BitVec 10) (md : BitVec 8) (guard : BitVec 6) (stall : BitVec 5) (d a : BitVec 10) (b : BitVec 44) : BitVec 96 :=
  opc ++ md ++ guard ++ stall ++ (0 : BitVec 3) ++ d ++ a ++ b

/-- 05 R100: a word of zero bytes is `?p0 nop`. -/
theorem test_word_zero : decode 0 = .ok (.nop ⟨false, 0, 0, false⟩) := by decide +kernel
/-- 06: `?!p3 mand p5`. -/
theorem test_word_mand : decode (wordOf 0x012 0 0b100011 0 0 0b1100000101 0) = .ok (.mand ⟨true, 3, 0, false⟩ (.p 5)) := by
  decide +kernel
/-- 06: `pand p1, p2, %fmask`, STALL 3. -/
theorem test_word_pand : decode (wordOf 0x016 0 31 0b00110 0b1100000001 0b1100000010 0b1100110010)
    = .ok (.pand ⟨false, 31, 3, false⟩ 1 (.p 2) .fmask) := by decide +kernel
/-- 07: `srem.n32 s63, %team, -1`, YLD. -/
theorem test_word_srem : decode (wordOf 0x045 0b01100000 31 0b00001 0b0100111111 0b1100100001 0x400FFFFFFFF)
    = .ok (.srem ⟨false, 31, 0, true⟩ .n32 63 (.sp .team) (.imm 0xFFFFFFFF)) := by decide +kernel
/-- 07: `vadd.i32 v127, %lane, v1`. -/
theorem test_word_vadd : decode (wordOf 0x0C0 0b00000000 31 0 127 0b1100100000 1)
    = .ok (.vadd h0 .i32 false 127 (.sp .lane) (.r (.v 1))) := by decide +kernel
/-- 09: `vred.f32.add s6, v2`. -/
theorem test_word_vred : decode (wordOf 0x1C0 0b01000000 31 0 0b0100000110 2 0) = .ok (.vred h0 .f32 .add 6 (.v 2)) := by decide +kernel
/-- 10: `fence.rel scope=device`. -/
theorem test_word_fence : decode (wordOf 0x206 0b01100010 31 0 0 0 0) = .ok (.fence h0 .device .rel) := by decide +kernel
/-- 15: `satom.i32.cas s6, s7, [s4], scope=device`. -/
theorem test_word_satom : decode (wordOf 0x205 0b00111100 31 0 0b0100000110 0b0100000111 0x846FF000000)
    = .ok (.satom h0 .i32 .cas .rlx 6 7 ⟨4, .device, false, none, 0⟩) := by decide +kernel
/-- 13: `mfence`. -/
theorem test_word_mfence : decode (wordOf 0x267 0 31 0 0 0 0) = .ok (.mfence h0) := by decide +kernel
/-- 15: `dpop s4, s5`; an odd D is no pair (05 R79). -/
theorem test_word_dpop : decode (wordOf 0x2AA 0 31 0 0b0100000100 0b0100000101 0) = .ok (.dpop h0 4 5)
    ∧ decode (wordOf 0x2AA 0 31 0 0b0100000101 0b0100000101 0) ≠ .ok (.dpop h0 5 5) := by decide +kernel
/-- 17: `nmclose s9`. -/
theorem test_word_nmclose : decode (wordOf 0x2C4 0 31 0 0b0100001001 0 0) = .ok (.nmclose h0 9) := by decide +kernel
/-- 19: `rend s1`. -/
theorem test_word_rend : decode (wordOf 0x2E1 0 31 0 0b0100000001 0 0) = .ok (.rend h0 1) := by decide +kernel
/-- 21: `gpoll s2, s3`. -/
theorem test_word_gpoll : decode (wordOf 0x2F2 0 31 0 0b0100000010 0b0100000011 0) = .ok (.gpoll h0 2 3) := by decide +kernel
/-- What a refused word traps with. -/
def refusal (w : BitVec 96) : Option (BitVec 9 × Word) := match decode w with | .error e => some (decodeTrap e) | .ok _ => none
/-- 05 R100: unassigned opcodes. -/
theorem test_word_opcode : refusal (wordOf 0x00A 0 31 0 0 0 0) = some (Cause.illegalOpcode, 0x00A)
    ∧ refusal (wordOf 0x3FF 0 31 0 0 0 0) = some (Cause.illegalOpcode, 0x3FF) := by decide +kernel
/-- 05 R85, R101: GPRED 31 with GNEG, and a reserved bit. -/
theorem test_word_reserved : (refusal (wordOf 0x000 0 63 0 0 0 0)).map Prod.fst = some Cause.reservedNonzero
    ∧ (refusal 0x00001F010000000000000000).map Prod.fst = some Cause.reservedNonzero := by decide +kernel
/-- 05 R81, R101: `sli` takes no register in B, but the must-be-zero bits of a register B come first. -/
theorem test_word_reserved_first : (refusal (wordOf 0x051 0b10000000 31 0 0b0100000001 0b0100000001 0x00000000400)).map Prod.fst = some Cause.reservedNonzero
    ∧ (refusal (wordOf 0x051 0b10000000 31 0 0b0100000001 0b0100000001 0)).map Prod.fst = some Cause.illegalOperand := by decide +kernel

/-! ## Ill-formed terms, one for each check -/

/-- `?!p31`. -/
def hBad : Hdr := ⟨true, 31, 0, false⟩

theorem test_ill_formed_control : [Instr.nop hBad, .bra hBad .always 0, .msave hBad 1, .pand hBad 1 (.p 1) (.p 2), .pbitsGet hBad 1 (.mw 0)].all
    (fun i => !i.wf) = true := by decide
theorem test_ill_formed_scalar :
    [Instr.sadd h0 .b64 false 1 (.s 1) (.imm 0), .sadd h0 .i64 false 1 (.v 1) (.imm 0), .sadd h0 .i64 false 1 (.s 1) (.r (.sp .lane)),
     .smulh h0 .b64 1 (.s 1) (.imm 0), .sdiv h0 .i64 1 (.sp .fmask) (.imm 0), .sand h0 1 (.v 1) (.imm 0), .sshl h0 .b64 true 1 (.s 1) (.imm 0),
     .sshr h0 .i64 1 (.s 1) (.imm 0), .ssar h0 .n64 1 (.s 1) (.imm 0), .scmp h0 .b64 .eq (.s 1) (.s 1) (.imm 0), .ssel h0 .n32 1 (.s 1) (.imm 0),
     .smov h0 .i64 1 (.r (.v 1)), .sli h0 1 (.v 1) 0, .sclz h0 .i64 1 (.s 1), .spopc h0 .n64 1 (.s 1), .sbfe h0 .b64 1 (.s 1) (.imm 0),
     .sadc h0 .b64 1 1 (.s 1) (.imm 0)].all (fun i => !i.wf) = true := by decide
theorem test_ill_formed_vector :
    [Instr.vadd h0 .b32 false 1 (.v 1) (.imm 0), .vadd h0 .i64 false 1 (.v 2) (.imm 0), .vadd h0 .i64 false 2 (.v 1) (.imm 0),
     .vadd h0 .i64 false 2 (.v 2) (.r (.v 1)), .vadd h0 .i64 false 2 (.sp .lane) (.imm 0), .vadd h0 .i32 false 1 (.sp .fmask) (.imm 0),
     .vadd h0 .i32 false 1 (.s 1) (.r (.s 2)), .vmulh h0 .b32 1 (.v 1) (.imm 0), .vmad h0 .i64 false 2 (.v 2) (.imm 0), .vmadw h0 .i32 1 (.v 2) (.imm 0),
     .vmadw h0 .i64 2 (.v 2) (.imm 0), .vadc h0 .i16x2 1 1 (.v 1) (.imm 0), .vand h0 .i32 1 (.v 1) (.imm 0), .vshl h0 .b32 true 1 (.v 1) (.imm 0),
     .vshr h0 .i32 1 (.v 1) (.imm 0), .vsar h0 .n32 1 (.v 1) (.imm 0), .vabs h0 .n32 false 1 (.v 1), .vabs h0 .i64 false 1 (.v 2),
     .vcmp h0 .b32 .eq 1 (.v 1) (.imm 0), .vcmp h0 .i64 .eq 1 (.v 1) (.imm 0), .vmov h0 .i16x2 2 (.imm 0),
     .vclz h0 .i32 1 (.v 1), .vpopc h0 .n64 1 (.v 2), .vbfe h0 .i64 2 (.v 2) (.imm 0), .vbfi h0 1 (.s 1) (.r (.s 1)), .vdot4 h0 .i64 false 2 (.v 2) (.imm 0)].all
    (fun i => !i.wf) = true := by decide
theorem test_ill_formed_float :
    [Instr.vfadd h0 .f32 .rne ⟨false, false, false⟩ 1 (.s 1) (.r (.s 1)), .vfmin h0 .f32 ⟨false, false, false⟩ 1 (.sp .fmask) (.imm 0),
     .vfcmp h0 .eq 1 (.s 1) (.r (.s 2)), .vfsqrt h0 .f32 .rne false false 1 (.sp .fmask), .vfrcp h0 .f32 false false 1 (.sp .fmask),
     .vfcvt h0 .f32 .f32 .rne 1 (.v 1) 0 0, .vfcvt h0 .i32 .i8 .rne 1 (.v 1) 0 0, .vfcvt h0 .f32 .f16 .rne 1 (.v 1) 2 0,
     .vfcvt h0 .f32 .f16 .rne 1 (.v 1) 0 1, .vfcvt h0 .f32 .f16 .rne 1 (.sp .fmask) 0 0].all (fun i => !i.wf) = true := by decide
theorem test_ill_formed_lanes :
    [Instr.vred h0 .f32 .and 1 (.v 1), .vred h0 .b32 .add 1 (.v 1), .vred h0 .i32 .add 1 (.sp .fmask), .vredx h0 .b32 .min 1 (.v 1),
     .vredx h0 .i32 .add 1 (.v 1), .vscan h0 .f32 .xor false 1 (.v 1), .vshfl h0 .idx 1 (.s 1) (.r (.s 1)), .vbcast h0 1 1 (.r (.v 1)),
     .sgetl h0 1 1 (.r (.sp .lane)), .vsetl h0 1 (.v 1) (.imm 0), .vrng h0 1 (.v 1) (.imm 0), .vrng h0 1 (.s 1) (.r (.s 1)), .vtagGet hBad 1 1].all
    (fun i => !i.wf) = true := by decide
theorem test_ill_formed_memory :
    [Instr.vld h0 .b64 .global .weak 1 ⟨1, .team, false, none, 0⟩, .vld h0 .b128 .global .weak 2 ⟨1, .team, false, none, 0⟩,
     .vld h0 .b32 .spad .weak 1 ⟨1, .die, false, none, 0⟩, .vld h0 .b32 .lpriv .weak 1 ⟨1, .core, false, none, 0⟩,
     .vst h0 .b32 .global .sc 1 ⟨1, .system, false, none, 0⟩, .sld h0 .b32 .lpriv .weak (.s 1) ⟨1, .team, false, none, 0⟩,
     .sld h0 .b32 .global .weak (.s 1) ⟨1, .team, false, some 1, 0⟩, .sld h0 .b128 .global .weak (.s 1) ⟨1, .team, false, none, 0⟩,
     .sst h0 .b128 .global .weak 1 ⟨1, .team, false, none, 0⟩, .vatom h0 .f32 .and .rlx 1 (.v 1) ⟨1, .team, false, none, 0⟩,
     .vatom h0 .n64 .add .rlx 1 (.v 2) ⟨1, .team, false, none, 0⟩, .vatom h0 .n64 .add .rlx 2 (.v 1) ⟨1, .team, false, none, 0⟩,
     .vatom h0 .n32 .add .rlx 1 (.v 1) ⟨1, .die, true, none, 0⟩, .satom h0 .n32 .add .sc 1 1 ⟨1, .system, false, none, 0⟩,
     .satom h0 .n32 .add .rlx 1 1 ⟨1, .team, false, some 1, 0⟩, .fence h0 .system .sc, .pf h0 ⟨1, .core, false, none, 0⟩,
     .cflush h0 ⟨1, .team, true, none, 0⟩, .cpy h0 1 61 ⟨false, 0, 0, 0⟩, .cpyout h0 1 4 ⟨false, 1, 0, 0⟩, .twait h0 1 (some 9),
     .twait h0 62 (some 3)].all (fun i => !i.wf) = true := by decide
theorem test_ill_formed_engines :
    [Instr.mma h0 0 1 63, .mma2 h0 0 1 63, .mload h0 false false 0 63, .mdrain h0 false false false 0 63, .qspawn h0 1 63 (.imm 0), .qpop h0 1 (.imm 0),
     .dpop h0 1 1, .dsteal h0 3 1, .nmopen h0 1 63 (.imm 0), .nmcall h0 59 0, .nmcommit h0 1 ⟨false, 1, 0⟩, .nmcommit h0 1 ⟨false, 0, 1⟩,
     .gcall h0 1 57 ⟨0, 0, false⟩, .csrr h0 1 0x001, .csrw h0 .wr 0x500 1, .probe h0 1 ⟨1, .core, false, none, 0⟩,
     .probe h0 1 ⟨1, .team, true, none, 0⟩, .probe h0 1 ⟨1, .team, false, some 1, 0⟩, .wcsld h0 1 63].all (fun i => !i.wf) = true := by decide

/-! ## Single steps, from the spec's own examples -/

/-- The team after one instruction of the demo state with these registers. -/
def after (i : Instr) (t : Team) : Option Team := match exec i (demo t) with | .next s => s.team? 0 | _ => none

/-- 07 R125: `smul.i32.sat s4, s5, 0x10000` with s5 = 0x8000 clamps 2^31, and counts one overflow. -/
theorem test_smul_saturates :
    (after (.smul h0 .i32 true 4 (.s 5) (.imm 0x10000)) { T0 with s := [(5, 0x8000)] }).map (fun t => (t.sr 4, t.owed.getD 2 0))
      = some (0x7FFFFFFF, 1) := by decide +kernel
/-- 07 R132: the remainder takes the sign of the dividend. -/
theorem test_srem_sign : (after (.srem h0 .i64 4 (.s 5) (.imm 2)) { T0 with s := [(5, -7)] }).map (fun t => t.sr 4) = some (-1) := by
  decide +kernel
/-- 07 R151: the four products and the addend exceed the greatest i32. -/
theorem test_vdot4_saturates :
    (after (.vdot4 h0 .i32 true 4 (.v 2) (.r (.v 3))) { T0 with v := [(2, .u 0x80808080), (3, .u 0x80808080), (4, .u 0x7FFF0000)] }).map
      (fun t => (t.vr 4).lane 0) = some 0x7FFFFFFF := by decide +kernel
/-- 08 R158: 1 / +0 in f32 raises divide-by-zero and infinity-produced. -/
theorem test_vfdiv_events :
    (after (.vfdiv h0 .f32 .rne ⟨false, false, false⟩ 4 (.v 2) (.r (.v 3))) { T0 with v := [(2, .u 0x3F800000), (3, .u 0)] }).map
      (fun t => ((t.vr 4).lane 0, t.owed.getD 1 0, t.owed.getD 6 0, t.owed.getD 2 0)) = some (0x7F800000, 32, 32, 0) := by decide +kernel
/-- 09 R182: each step of an f32 reduction rounds: 2^24 + 1 + 1 is 2^24, and two lanes count inexact. -/
theorem test_vred_rounds :
    (after (.vred h0 .f32 .add 6 (.v 2)) { T0 with mask := 7, v := [(2, .g [0x4B800000, 0x3F800000, 0x3F800000])] }).map
      (fun t => (t.sr 6, t.owed.getD 4 0)) = some (0x4B800000, 2) := by decide +kernel
/-- 09 R183: value 4, first held by lane 1. -/
theorem test_vredx_min :
    (after (.vredx h0 .n32 .min 6 (.v 2)) { T0 with mask := 255, v := [(2, .g [9, 4, 7, 4, 12, 5, 4, 30])] }).map (fun t => t.sr 6)
      = some 0x0000000100000004 := by decide +kernel
/-- 09 R186: weights 1, 2, −1, 1 and r one half select lane 1; lane 2 counts invalid. -/
theorem test_vsample_lane :
    (after (.vsample h0 6 2 (.imm 0x80000000)) { T0 with mask := 15, v := [(2, .g [0x3F800000, 0x40000000, 0xBF800000, 0x3F800000])] }).map
      (fun t => (t.sr 6, t.owed.getD 0 0)) = some (1, 1) := by decide +kernel
/-- 15 R287: four lanes add 1, 2, 3 and 4 to one location that holds 10: D receives 10, 11, 13 and 16. -/
theorem test_vatom_ascends :
    (match exec (.vatom h0 .i32 .add .rlx 4 (.v 2) ⟨8, .team, true, none, 0⟩)
        { demo { T0 with mask := 15, v := [(2, .g [1, 2, 3, 4])] } with spad := [(0, 10)] } with
      | .next s => (s.team? 0).map (fun t => ((List.range 4).map (t.vr 4).lane, spadByte s 0))
      | _ => none) = some ([10, 11, 13, 16], 20) := by decide +kernel
/-- 15 R287: a `cas` whose compare fails writes nothing. -/
theorem test_satom_cas_fails :
    (match exec (.satom h0 .i32 .cas .rlx 6 7 ⟨4, .team, true, none, 0⟩)
        { demo { T0 with s := [(6, 20), (7, 98)] } with spad := [(0, 99)] } with
      | .next s => (s.team? 0).map (fun t => (t.sr 6, spadByte s 0))
      | _ => none) = some (99, 99) := by decide +kernel
/-- 05 R84: a branch goes to P + 12 × count, the count signed. -/
theorem test_bra_back : (after (.bra h0 .always (-3)) T0).map (fun t => t.pc) = some (0x10000 - 36) := by decide +kernel
/-- 06 R120: `mandn p31` empties the mask. -/
theorem test_mandn_empties : (after (.mandn h0 (.p 31)) T0).map (fun t => t.mask) = some 0 := by decide +kernel
/-- 05 R77: s0 reads zero and ignores writes. -/
theorem test_s0 : (after (.smov h0 .i64 0 (.imm 5)) T0).map (fun t => t.sr 0) = some 0 := by decide +kernel
/-- 10 R196, 23 R359: a misaligned scalar store traps, with its cause and address. -/
theorem test_sst_misaligned :
    (match exec (.sst h0 .b32 .spad .weak 5 ⟨4, .team, false, none, 2⟩) (demoH T0) with
      | .next s => (s.team? 0).map (fun t => (t.cause, t.tval, t.tpc, t.inTrap, t.pc)) | _ => none)
      = some (Cause.misaligned, 2, 0x10000, true, 0x4000) := by decide +kernel
/-- 06 R104: the first pass of 64 lanes performs the lanes of the lowest mask word; the instruction stays where it is. -/
theorem test_first_pass : (after (.vld h0 .b32 .spad .weak 4 ⟨8, .team, false, some 5, 0⟩) TWide).map
    (fun t => (t.pc, t.mem.map (fun r => (r.left, r.got.length)))) = some (0x10000, some (lanesBelow 64 &&& ~~~ lanesBelow 32, 32)) := by
  decide +kernel
/-- 05 R84; the machine fetches, decodes and runs: `nop` at 0x10000 leaves the pc at 0x1000C. -/
theorem test_step_nop :
    (match step (State.reset.withFetchWord 96 0x1F000000000000000000) with | .next s => (s.team? 0).map (fun t => t.pc) | _ => none)
      = some 0x1000C := by decide +kernel
/-- 24 R383: the release of power-good brings the machine up, and firmware's context exists. -/
theorem test_power_good : (match exec (.powerGood none ⟨⟨true, none⟩, ⟨true, none⟩⟩ ⟨0, [], 0, 0, 0⟩) State.reset with
    | .next s => (s.bringUp, (s.ctx? 0xFFFF).map (fun c => c.priv)) | _ => (0, none)) = (6, some .firmware) := by decide +kernel

/-! ## Every statement applies somewhere -/

theorem witness_ScalarArithmetic :
    (∃ (h : Hdr) (ty : STy) (d : SIdx) (a : Src) (b : SrcB) (s : State) (sid : Nat) (t : Team),
      let i := Instr.sadd h ty false d a b
      Runs i h s sid t) ∧
    (∃ (h : Hdr) (ty : STy) (d : SIdx) (a : Src) (b : SrcB) (s : State) (sid : Nat) (t : Team),
      let i := Instr.ssub h ty false d a b
      Runs i h s sid t) ∧
    (∃ (h : Hdr) (ty : STy) (d : SIdx) (a : Src) (b : SrcB) (s : State) (sid : Nat) (t : Team),
      let i := Instr.smul h ty false d a b
      Runs i h s sid t) ∧
    (∃ (h : Hdr) (ty : STy) (d : SIdx) (a : Src) (b : SrcB) (s : State) (sid : Nat) (t : Team),
      let i := Instr.smulh h ty d a b
      Runs i h s sid t) ∧
    (∃ (h : Hdr) (ty : STy) (d : SIdx) (a : Src) (b : SrcB) (s : State) (sid : Nat) (t : Team),
      let i := Instr.sadd h ty true d a b
      Runs i h s sid t) ∧
    (∃ (h : Hdr) (ty : STy) (d : SIdx) (a : Src) (b : SrcB) (s : State) (sid : Nat) (t : Team),
      let i := Instr.ssub h ty true d a b
      Runs i h s sid t) ∧
    (∃ (h : Hdr) (ty : STy) (d : SIdx) (a : Src) (b : SrcB) (s : State) (sid : Nat) (t : Team),
      let i := Instr.smul h ty true d a b
      Runs i h s sid t) ∧
    (∃ (h : Hdr) (ty : STy) (d : SIdx) (a : Src) (b : SrcB) (s : State) (sid : Nat) (t : Team),
      let i := Instr.sshl h ty true d a b
      Runs i h s sid t) :=
  ⟨⟨h0, .i64, 4, .s 2, .imm 3, S0, 0, T0, runs_of (by decide +kernel)⟩,
   ⟨h0, .i64, 4, .s 2, .imm 3, S0, 0, T0, runs_of (by decide +kernel)⟩,
   ⟨h0, .i64, 4, .s 2, .imm 3, S0, 0, T0, runs_of (by decide +kernel)⟩,
   ⟨h0, .i64, 4, .s 2, .imm 3, S0, 0, T0, runs_of (by decide +kernel)⟩,
   ⟨h0, .i64, 4, .s 2, .imm 3, S0, 0, T0, runs_of (by decide +kernel)⟩,
   ⟨h0, .i64, 4, .s 2, .imm 3, S0, 0, T0, runs_of (by decide +kernel)⟩,
   ⟨h0, .i64, 4, .s 2, .imm 3, S0, 0, T0, runs_of (by decide +kernel)⟩,
   ⟨h0, .i64, 4, .s 2, .imm 3, S0, 0, T0, runs_of (by decide +kernel)⟩⟩

theorem witness_ScalarDivision :
    (∃ (h : Hdr) (ty : STy) (d : SIdx) (a : Src) (b : SrcB) (s : State) (sid : Nat) (t : Team),
      let i := Instr.sdiv h ty d a b
      Runs i h s sid t) ∧
    (∃ (h : Hdr) (ty : STy) (d : SIdx) (a : Src) (b : SrcB) (s : State) (sid : Nat) (t : Team),
      let i := Instr.srem h ty d a b
      Runs i h s sid t) :=
  ⟨⟨h0, .i64, 4, .s 2, .imm 3, S0, 0, T0, runs_of (by decide +kernel)⟩,
   ⟨h0, .i64, 4, .s 2, .imm 3, S0, 0, T0, runs_of (by decide +kernel)⟩⟩

theorem witness_ScalarLogic :
    (∃ (h : Hdr) (d : SIdx) (a : Src) (b : SrcB) (s : State) (sid : Nat) (t : Team),
      let i := Instr.sand h d a b
      Runs i h s sid t) ∧
    (∃ (h : Hdr) (d : SIdx) (a : Src) (b : SrcB) (s : State) (sid : Nat) (t : Team),
      let i := Instr.sor h d a b
      Runs i h s sid t) ∧
    (∃ (h : Hdr) (d : SIdx) (a : Src) (b : SrcB) (s : State) (sid : Nat) (t : Team),
      let i := Instr.sxor h d a b
      Runs i h s sid t) ∧
    (∃ (h : Hdr) (ty : STy) (d : SIdx) (b : SrcB) (s : State) (sid : Nat) (t : Team),
      let i := Instr.smov h ty d b
      Runs i h s sid t) ∧
    (∃ (h : Hdr) (d : SIdx) (a : Src) (s : State) (sid : Nat) (t : Team) (k : BitVec 32),
      let i := Instr.sli h d a k
      Runs i h s sid t) :=
  ⟨⟨h0, 4, .s 2, .imm 3, S0, 0, T0, runs_of (by decide +kernel)⟩,
   ⟨h0, 4, .s 2, .imm 3, S0, 0, T0, runs_of (by decide +kernel)⟩,
   ⟨h0, 4, .s 2, .imm 3, S0, 0, T0, runs_of (by decide +kernel)⟩,
   ⟨h0, .i64, 4, .imm 3, S0, 0, T0, runs_of (by decide +kernel)⟩,
   ⟨h0, 4, .s 2, S0, 0, T0, 2, runs_of (by decide +kernel)⟩⟩

theorem witness_ScalarShifts :
    (∃ (h : Hdr) (ty : STy) (d : SIdx) (a : Src) (b : SrcB) (s : State) (sid : Nat) (t : Team),
      let i := Instr.sshl h ty false d a b
      Runs i h s sid t) ∧
    (∃ (h : Hdr) (ty : STy) (d : SIdx) (a : Src) (b : SrcB) (s : State) (sid : Nat) (t : Team),
      let i := Instr.sshr h ty d a b
      Runs i h s sid t) ∧
    (∃ (h : Hdr) (ty : STy) (d : SIdx) (a : Src) (b : SrcB) (s : State) (sid : Nat) (t : Team),
      let i := Instr.ssar h ty d a b
      Runs i h s sid t) :=
  ⟨⟨h0, .i64, 4, .s 2, .imm 3, S0, 0, T0, runs_of (by decide +kernel)⟩,
   ⟨h0, .i64, 4, .s 2, .imm 3, S0, 0, T0, runs_of (by decide +kernel)⟩,
   ⟨h0, .i64, 4, .s 2, .imm 3, S0, 0, T0, runs_of (by decide +kernel)⟩⟩

theorem witness_ScalarSelection :
    (∃ (h : Hdr) (ty : STy) (d : SIdx) (a : Src) (b : SrcB) (s : State) (sid : Nat) (t : Team),
      let i := Instr.smin h ty d a b
      Runs i h s sid t) ∧
    (∃ (h : Hdr) (ty : STy) (d : SIdx) (a : Src) (b : SrcB) (s : State) (sid : Nat) (t : Team),
      let i := Instr.smax h ty d a b
      Runs i h s sid t) ∧
    (∃ (h : Hdr) (ty : STy) (d : SIdx) (a : Src) (b : SrcB) (s : State) (sid : Nat) (t : Team) (c : Cmp),
      let i := Instr.scmp h ty c (.s d) a b
      Runs i h s sid t) ∧
    (∃ (h : Hdr) (ty : STy) (a : Src) (b : SrcB) (s : State) (sid : Nat) (t : Team) (c : Cmp) (p : PIdx),
      let i := Instr.scmp h ty c (.p p) a b
      Runs i h s sid t) ∧
    (∃ (h : Hdr) (ty : STy) (d : SIdx) (a : Src) (b : SrcB) (s : State) (sid : Nat) (t : Team),
      let i := Instr.ssel h ty d a b
      Clear i s sid t) :=
  ⟨⟨h0, .i64, 4, .s 2, .imm 3, S0, 0, T0, runs_of (by decide +kernel)⟩,
   ⟨h0, .i64, 4, .s 2, .imm 3, S0, 0, T0, runs_of (by decide +kernel)⟩,
   ⟨h0, .i64, 4, .s 2, .imm 3, S0, 0, T0, .lt, runs_of (by decide +kernel)⟩,
   ⟨h0, .i64, .s 2, .imm 3, S0, 0, T0, .lt, 3, runs_of (by decide +kernel)⟩,
   ⟨h0, .i64, 4, .s 2, .imm 3, S0, 0, T0, clear_of (by decide +kernel)⟩⟩

theorem witness_ScalarBits :
    (∃ (h : Hdr) (ty : STy) (d : SIdx) (a : Src) (s : State) (sid : Nat) (t : Team),
      let i := Instr.sclz h ty d a
      Runs i h s sid t) ∧
    (∃ (h : Hdr) (ty : STy) (d : SIdx) (a : Src) (s : State) (sid : Nat) (t : Team),
      let i := Instr.spopc h ty d a
      Runs i h s sid t) ∧
    (∃ (h : Hdr) (ty : STy) (d : SIdx) (a : Src) (b : SrcB) (s : State) (sid : Nat) (t : Team),
      let i := Instr.sbfe h ty d a b
      Runs i h s sid t) ∧
    (∃ (h : Hdr) (ty : STy) (d : SIdx) (a : Src) (b : SrcB) (s : State) (sid : Nat) (t : Team) (cp : PIdx),
      let i := Instr.sadc h ty cp d a b
      Runs i h s sid t) :=
  ⟨⟨h0, .i64, 4, .s 2, S0, 0, T0, runs_of (by decide +kernel)⟩,
   ⟨h0, .i64, 4, .s 2, S0, 0, T0, runs_of (by decide +kernel)⟩,
   ⟨h0, .i64, 4, .s 2, .imm 3, S0, 0, T0, runs_of (by decide +kernel)⟩,
   ⟨h0, .i64, 4, .s 2, .imm 3, S0, 0, T0, 3, runs_of (by decide +kernel)⟩⟩

theorem witness_ControlTransfers :
    (∃ (h : Hdr) (c : BrCond) (off : BitVec 32) (s : State) (sid : Nat) (t : Team),
      let i := Instr.bra h c off
      Runs i h s sid t) ∧
    (∃ (h : Hdr) (c : BrCond) (b : SIdx) (s : State) (sid : Nat) (t : Team),
      let i := Instr.brx h c b
      Runs i h s sid t) ∧
    (∃ (h : Hdr) (c : BrCond) (off : BitVec 32) (s : State) (sid : Nat) (t : Team),
      let i := Instr.call h c (.rel off)
      Runs i h s sid t) ∧
    (∃ (h : Hdr) (c : BrCond) (b : SIdx) (s : State) (sid : Nat) (t : Team),
      let i := Instr.call h c (.reg b)
      Runs i h s sid t) ∧
    (∃ (h : Hdr) (c : BrCond) (s : State) (sid : Nat) (t : Team),
      let i := Instr.ret h c
      Runs i h s sid t) :=
  ⟨⟨h0, .always, 2, S0, 0, T0, runs_of (by decide +kernel)⟩,
   ⟨h0, .always, 4, S0, 0, T0, runs_of (by decide +kernel)⟩,
   ⟨h0, .always, 2, S0, 0, T0, runs_of (by decide +kernel)⟩,
   ⟨h0, .always, 4, S0, 0, T0, runs_of (by decide +kernel)⟩,
   ⟨h0, .always, S0, 0, T0, runs_of (by decide +kernel)⟩⟩

theorem witness_CountedLoop :
    (∃ (h : Hdr) (off : BitVec 32) (d : SIdx) (s : State) (sid : Nat) (t : Team),
      let i := Instr.bdec h d off
      Runs i h s sid t) ∧
    (∃ (h : Hdr) (off : BitVec 32) (d : SIdx) (s : State) (sid : Nat) (t : Team),
      let i := Instr.bdec h d off
      Clear i s sid t ∧
      (viewAtIssue i s sid t).guard h = false) :=
  ⟨⟨h0, 2, 4, S0, 0, T0, runs_of (by decide +kernel)⟩,
   ⟨hNever, 2, 4, S0, 0, T0, clear_of (by decide +kernel), by decide +kernel⟩⟩

theorem witness_PlainControl :
    (∃ (h : Hdr) (s : State) (sid : Nat) (t : Team),
      let i := Instr.nop h
      Runs i h s sid t) ∧
    (∃ (h : Hdr) (s : State) (sid : Nat) (t : Team),
      let i := Instr.yield h
      Runs i h s sid t) ∧
    (∃ (h : Hdr) (s : State) (sid : Nat) (t : Team),
      let i := Instr.exit h
      let u := teamAtIssue i s sid t
      Runs i h s sid t ∧
      u.openRegion = none ∧
      u.inTrap = false) ∧
    (∃ (h : Hdr) (a : Option SIdx) (k : BitVec 5) (s : State) (sid : Nat) (t : Team),
      let i := Instr.trap h a k
      Runs i h s sid t) ∧
    (∃ (h : Hdr) (n : Option (BitVec 16)) (s : State) (sid : Nat) (t : Team),
      let i := Instr.brk h n
      Runs i h s sid t) ∧
    (∃ (h : Hdr) (b : Option SIdx) (n : Option (BitVec 16)) (s : State) (sid : Nat) (t : Team),
      let i := Instr.tret h b
      let u := teamAtIssue i s sid t
      let target := match b with | some n => (viewAtIssue i s sid t).sr n.toNat | none => u.tpc
      Runs i h s sid t ∧
      u.inTrap = true ∧
      target.toNat % 4 = 0) ∧
    (∃ (h : Hdr) (b : Option SIdx) (s : State) (sid : Nat) (t : Team),
      let i := Instr.tret h b
      let u := teamAtIssue i s sid t
      Runs i h s sid t ∧
      u.inTrap = false) ∧
    (∃ (h : Hdr) (b : Option SIdx) (n : Option (BitVec 16)) (s : State) (sid : Nat) (t : Team),
      let i := Instr.tret h b
      let u := teamAtIssue i s sid t
      let target := match b with | some n => (viewAtIssue i s sid t).sr n.toNat | none => u.tpc
      Runs i h s sid t ∧
      u.inTrap = true ∧
      target.toNat % 4 ≠ 0 ∧
      u.failed = none) :=
  ⟨⟨h0, S0, 0, T0, runs_of (by decide +kernel)⟩,
   ⟨h0, S0, 0, T0, runs_of (by decide +kernel)⟩,
   ⟨h0, S0, 0, T0, runs_of (by decide +kernel), by decide +kernel⟩,
   ⟨h0, none, 7, S0, 0, T0, runs_of (by decide +kernel)⟩,
   ⟨h0, none, S0, 0, T0, runs_of (by decide +kernel)⟩,
   ⟨h0, none, none, demo { T0 with inTrap := true, tpc := 0x10000 }, 0, { T0 with inTrap := true, tpc := 0x10000 }, runs_of (by decide +kernel), by decide +kernel⟩,
   ⟨h0, none, S0, 0, T0, runs_of (by decide +kernel), by decide +kernel⟩,
   ⟨h0, none, none, SL { T0 with inTrap := true, tpc := 0x10002 } L0, 0, { T0 with inTrap := true, tpc := 0x10002 }, runs_of (by decide +kernel), by decide +kernel⟩⟩

theorem witness_MaskInstructions :
    (∃ (h : Hdr) (d : PIdx) (s : State) (sid : Nat) (t : Team),
      let i := Instr.msave h d
      Runs i h s sid t) ∧
    (∃ (h : Hdr) (a : PSrc) (s : State) (sid : Nat) (t : Team),
      let i := Instr.mset h a
      Runs i h s sid t) ∧
    (∃ (h : Hdr) (a : PSrc) (s : State) (sid : Nat) (t : Team),
      let i := Instr.mand h a
      Runs i h s sid t) ∧
    (∃ (h : Hdr) (a : PSrc) (s : State) (sid : Nat) (t : Team),
      let i := Instr.mandn h a
      Runs i h s sid t) ∧
    (∃ (h : Hdr) (a : PSrc) (n : SIdx) (s : State) (sid : Nat) (t : Team),
      let i := Instr.mcount h n a
      Runs i h s sid t) ∧
    (∃ (h : Hdr) (a : PSrc) (n : SIdx) (s : State) (sid : Nat) (t : Team),
      let i := Instr.mfirst h n a
      Runs i h s sid t) :=
  ⟨⟨h0, 3, S0, 0, T0, runs_of (by decide +kernel)⟩,
   ⟨h0, .p 3, S0, 0, T0, runs_of (by decide +kernel)⟩,
   ⟨h0, .p 3, S0, 0, T0, runs_of (by decide +kernel)⟩,
   ⟨h0, .p 3, S0, 0, T0, runs_of (by decide +kernel)⟩,
   ⟨h0, .p 3, 4, S0, 0, T0, runs_of (by decide +kernel)⟩,
   ⟨h0, .p 3, 4, S0, 0, T0, runs_of (by decide +kernel)⟩⟩

theorem witness_PredicateInstructions :
    (∃ (h : Hdr) (a : PSrc) (b : PSrc) (d : PIdx) (s : State) (sid : Nat) (t : Team),
      let i := Instr.pand h d a b
      PredRuns i s sid t (enableOf i h s sid t)) ∧
    (∃ (h : Hdr) (a : PSrc) (b : PSrc) (d : PIdx) (s : State) (sid : Nat) (t : Team),
      let i := Instr.por h d a b
      PredRuns i s sid t (enableOf i h s sid t)) ∧
    (∃ (h : Hdr) (a : PSrc) (b : PSrc) (d : PIdx) (s : State) (sid : Nat) (t : Team),
      let i := Instr.pxor h d a b
      PredRuns i s sid t (enableOf i h s sid t)) ∧
    (∃ (h : Hdr) (a : PSrc) (d : PIdx) (s : State) (sid : Nat) (t : Team),
      let i := Instr.pnot h d a
      PredRuns i s sid t (enableOf i h s sid t)) ∧
    (∃ (h : Hdr) (a : PSrc) (d : PIdx) (s : State) (sid : Nat) (t : Team),
      let i := Instr.pmov h d a
      PredRuns i s sid t (enableOf i h s sid t)) ∧
    (∃ (h : Hdr) (a : PSrc) (n : SIdx) (k : BitVec 32) (s : State) (sid : Nat) (t : Team),
      let i := Instr.pbitsGet h n (.p a k)
      Runs i h s sid t) ∧
    (∃ (h : Hdr) (d : PIdx) (n : SIdx) (s : State) (sid : Nat) (t : Team),
      let i := Instr.pbitsGet h n (.mw d)
      Runs i h s sid t) ∧
    (∃ (h : Hdr) (d : PIdx) (n : SIdx) (k : BitVec 32) (s : State) (sid : Nat) (t : Team),
      let i := Instr.pbitsPut h (.p d k) n
      Runs i h s sid t) ∧
    (∃ (h : Hdr) (d : PIdx) (n : SIdx) (s : State) (sid : Nat) (t : Team),
      let i := Instr.pbitsPut h (.mw d) n
      Runs i h s sid t) :=
  ⟨⟨h0, .p 3, .p 3, 0, S0, 0, T0, predRuns_of (by decide +kernel)⟩,
   ⟨h0, .p 3, .p 3, 0, S0, 0, T0, predRuns_of (by decide +kernel)⟩,
   ⟨h0, .p 3, .p 3, 0, S0, 0, T0, predRuns_of (by decide +kernel)⟩,
   ⟨h0, .p 3, 0, S0, 0, T0, predRuns_of (by decide +kernel)⟩,
   ⟨h0, .p 3, 0, S0, 0, T0, predRuns_of (by decide +kernel)⟩,
   ⟨h0, .p 3, 4, 0, S0, 0, T0, runs_of (by decide +kernel)⟩,
   ⟨h0, 0, 4, S0, 0, T0, runs_of (by decide +kernel)⟩,
   ⟨h0, 0, 4, 0, S0, 0, T0, runs_of (by decide +kernel)⟩,
   ⟨h0, 0, 4, S0, 0, T0, runs_of (by decide +kernel)⟩⟩

theorem witness_VectorArithmetic :
    (∃ (h : Hdr) (ty : VTy) (sat : Bool) (d : VIdx) (a : Src) (b : SrcB) (s : State) (sid : Nat) (t : Team),
      let i := Instr.vadd h ty sat d a b
      VectorRuns i h s sid t (enableOf i h s sid t) d ty.wide (tags2 i s sid t ty.wide a b)) ∧
    (∃ (h : Hdr) (ty : VTy) (sat : Bool) (d : VIdx) (a : Src) (b : SrcB) (s : State) (sid : Nat) (t : Team),
      let i := Instr.vsub h ty sat d a b
      VectorRuns i h s sid t (enableOf i h s sid t) d ty.wide (tags2 i s sid t ty.wide a b)) ∧
    (∃ (h : Hdr) (ty : VTy) (sat : Bool) (d : VIdx) (a : Src) (b : SrcB) (s : State) (sid : Nat) (t : Team),
      let i := Instr.vmul h ty sat d a b
      VectorRuns i h s sid t (enableOf i h s sid t) d ty.wide (tags2 i s sid t ty.wide a b)) ∧
    (∃ (h : Hdr) (ty : VTy) (d : VIdx) (a : Src) (b : SrcB) (s : State) (sid : Nat) (t : Team),
      let i := Instr.vmulh h ty d a b
      VectorRuns i h s sid t (enableOf i h s sid t) d ty.wide (tags2 i s sid t ty.wide a b)) ∧
    (∃ (h : Hdr) (ty : VTy) (d : VIdx) (a : Src) (b : SrcB) (s : State) (sid : Nat) (t : Team),
      let i := Instr.vmin h ty d a b
      VectorRuns i h s sid t (enableOf i h s sid t) d ty.wide (tags2 i s sid t ty.wide a b)) ∧
    (∃ (h : Hdr) (ty : VTy) (d : VIdx) (a : Src) (b : SrcB) (s : State) (sid : Nat) (t : Team),
      let i := Instr.vmax h ty d a b
      VectorRuns i h s sid t (enableOf i h s sid t) d ty.wide (tags2 i s sid t ty.wide a b)) ∧
    (∃ (h : Hdr) (ty : VTy) (sat : Bool) (d : VIdx) (a : Src) (s : State) (sid : Nat) (t : Team),
      let i := Instr.vabs h ty sat d a
      VectorRuns i h s sid t (enableOf i h s sid t) d ty.wide (tags1 i s sid t ty.wide a)) :=
  ⟨⟨h0, .i32, false, 4, .v 2, .imm 3, S0, 0, T0, vectorRuns_of (by decide +kernel)⟩,
   ⟨h0, .i32, false, 4, .v 2, .imm 3, S0, 0, T0, vectorRuns_of (by decide +kernel)⟩,
   ⟨h0, .i32, false, 4, .v 2, .imm 3, S0, 0, T0, vectorRuns_of (by decide +kernel)⟩,
   ⟨h0, .i32, 4, .v 2, .imm 3, S0, 0, T0, vectorRuns_of (by decide +kernel)⟩,
   ⟨h0, .i32, 4, .v 2, .imm 3, S0, 0, T0, vectorRuns_of (by decide +kernel)⟩,
   ⟨h0, .i32, 4, .v 2, .imm 3, S0, 0, T0, vectorRuns_of (by decide +kernel)⟩,
   ⟨h0, .i32, false, 4, .v 2, S0, 0, T0, vectorRuns_of (by decide +kernel)⟩⟩

theorem witness_VectorLogicAndShifts :
    (∃ (h : Hdr) (ty : VTy) (d : VIdx) (a : Src) (b : SrcB) (s : State) (sid : Nat) (t : Team),
      let i := Instr.vand h ty d a b
      VectorRuns i h s sid t (enableOf i h s sid t) d ty.wide (tags2 i s sid t ty.wide a b)) ∧
    (∃ (h : Hdr) (ty : VTy) (d : VIdx) (a : Src) (b : SrcB) (s : State) (sid : Nat) (t : Team),
      let i := Instr.vor h ty d a b
      VectorRuns i h s sid t (enableOf i h s sid t) d ty.wide (tags2 i s sid t ty.wide a b)) ∧
    (∃ (h : Hdr) (ty : VTy) (d : VIdx) (a : Src) (b : SrcB) (s : State) (sid : Nat) (t : Team),
      let i := Instr.vxor h ty d a b
      VectorRuns i h s sid t (enableOf i h s sid t) d ty.wide (tags2 i s sid t ty.wide a b)) ∧
    (∃ (h : Hdr) (ty : VTy) (d : VIdx) (b : SrcB) (s : State) (sid : Nat) (t : Team),
      let i := Instr.vmov h ty d b
      VectorRuns i h s sid t (enableOf i h s sid t) d ty.wide ((viewAtIssue i s sid t).tagsB (atIssue i s sid t) ty.wide b)) ∧
    (∃ (h : Hdr) (ty : VTy) (sat : Bool) (d : VIdx) (a : Src) (b : SrcB) (s : State) (sid : Nat) (t : Team),
      let i := Instr.vshl h ty sat d a b
      VectorRuns i h s sid t (enableOf i h s sid t) d ty.wide (tags2 i s sid t ty.wide a b)) ∧
    (∃ (h : Hdr) (ty : VTy) (d : VIdx) (a : Src) (b : SrcB) (s : State) (sid : Nat) (t : Team),
      let i := Instr.vshr h ty d a b
      VectorRuns i h s sid t (enableOf i h s sid t) d ty.wide (tags2 i s sid t ty.wide a b)) ∧
    (∃ (h : Hdr) (ty : VTy) (d : VIdx) (a : Src) (b : SrcB) (s : State) (sid : Nat) (t : Team),
      let i := Instr.vsar h ty d a b
      VectorRuns i h s sid t (enableOf i h s sid t) d ty.wide (tags2 i s sid t ty.wide a b)) :=
  ⟨⟨h0, .i32, 4, .v 2, .imm 3, S0, 0, T0, vectorRuns_of (by decide +kernel)⟩,
   ⟨h0, .i32, 4, .v 2, .imm 3, S0, 0, T0, vectorRuns_of (by decide +kernel)⟩,
   ⟨h0, .i32, 4, .v 2, .imm 3, S0, 0, T0, vectorRuns_of (by decide +kernel)⟩,
   ⟨h0, .i32, 4, .imm 3, S0, 0, T0, vectorRuns_of (by decide +kernel)⟩,
   ⟨h0, .i32, false, 4, .v 2, .imm 3, S0, 0, T0, vectorRuns_of (by decide +kernel)⟩,
   ⟨h0, .i32, 4, .v 2, .imm 3, S0, 0, T0, vectorRuns_of (by decide +kernel)⟩,
   ⟨h0, .i32, 4, .v 2, .imm 3, S0, 0, T0, vectorRuns_of (by decide +kernel)⟩⟩

theorem witness_VectorMultiplyAddAndCarry :
    (∃ (h : Hdr) (ty : VTy) (sat : Bool) (d : VIdx) (a : Src) (b : SrcB) (s : State) (sid : Nat) (t : Team),
      let i := Instr.vmad h ty sat d a b
      ty.mad ∧
      VectorRuns i h s sid t (enableOf i h s sid t) d false (tags1 i s sid t false (.v d) ++ tags2 i s sid t false a b)) ∧
    (∃ (h : Hdr) (ty : VTy) (d : VIdx) (a : Src) (b : SrcB) (s : State) (sid : Nat) (t : Team),
      let i := Instr.vmadw h ty d a b
      VectorRuns i h s sid t (enableOf i h s sid t) d true (tags1 i s sid t true (.v d) ++ tags2 i s sid t false a b)) ∧
    (∃ (h : Hdr) (ty : VTy) (d : VIdx) (a : Src) (b : SrcB) (s : State) (sid : Nat) (t : Team) (cp : PIdx),
      let i := Instr.vadc h ty cp d a b
      ty.carry ∧
      VectorRuns i h s sid t (enableOf i h s sid t) d ty.wide (predTag (teamAtIssue i s sid t) ((viewAtIssue i s sid t).pr cp.toNat) :: tags2 i s sid t ty.wide a b)) ∧
    (∃ (h : Hdr) (ty : VTy) (d : VIdx) (a : Src) (b : SrcB) (s : State) (sid : Nat) (t : Team) (cp : PIdx),
      let i := Instr.vsbc h ty cp d a b
      ty.carry ∧
      VectorRuns i h s sid t (enableOf i h s sid t) d ty.wide (predTag (teamAtIssue i s sid t) ((viewAtIssue i s sid t).pr cp.toNat) :: tags2 i s sid t ty.wide a b)) :=
  ⟨⟨h0, .i32, false, 4, .v 2, .imm 3, S0, 0, T0, by decide +kernel, vectorRuns_of (by decide +kernel)⟩,
   ⟨h0, .n32, 4, .v 2, .imm 3, S0, 0, T0, vectorRuns_of (by decide +kernel)⟩,
   ⟨h0, .i32, 4, .v 2, .imm 3, S0, 0, T0, 3, by decide +kernel, vectorRuns_of (by decide +kernel)⟩,
   ⟨h0, .i32, 4, .v 2, .imm 3, S0, 0, T0, 3, by decide +kernel, vectorRuns_of (by decide +kernel)⟩⟩

theorem witness_VectorBitsAndSelection :
    (∃ (h : Hdr) (ty : VTy) (a : Src) (b : SrcB) (s : State) (sid : Nat) (t : Team) (c : Cmp) (p : PIdx),
      let i := Instr.vcmp h ty c p a b
      PredRuns i s sid t (enableOf i h s sid t)) ∧
    (∃ (h : Hdr) (ty : VTy) (d : VIdx) (a : Src) (b : SrcB) (s : State) (sid : Nat) (t : Team),
      let i := Instr.vsel h ty d a b
      let g := (viewAtIssue i s sid t).guardLanes h
      let en := (viewAtIssue i s sid t).active
      VectorRuns i h s sid t en d ty.wide (predTag (teamAtIssue i s sid t) g :: tags2 i s sid t ty.wide a b)) ∧
    (∃ (h : Hdr) (ty : VTy) (d : VIdx) (a : Src) (s : State) (sid : Nat) (t : Team),
      let i := Instr.vclz h ty d a
      VectorRuns i h s sid t (enableOf i h s sid t) d ty.wide (tags1 i s sid t ty.wide a)) ∧
    (∃ (h : Hdr) (ty : VTy) (d : VIdx) (a : Src) (s : State) (sid : Nat) (t : Team),
      let i := Instr.vpopc h ty d a
      VectorRuns i h s sid t (enableOf i h s sid t) d ty.wide (tags1 i s sid t ty.wide a)) ∧
    (∃ (h : Hdr) (ty : VTy) (d : VIdx) (a : Src) (b : SrcB) (s : State) (sid : Nat) (t : Team),
      let i := Instr.vbfe h ty d a b
      VectorRuns i h s sid t (enableOf i h s sid t) d false (tags2 i s sid t false a b)) ∧
    (∃ (h : Hdr) (d : VIdx) (a : Src) (b : SrcB) (s : State) (sid : Nat) (t : Team),
      let i := Instr.vbfi h d a b
      VectorRuns i h s sid t (enableOf i h s sid t) d false (tags1 i s sid t false (.v d) ++ tags2 i s sid t false a b)) ∧
    (∃ (h : Hdr) (ty : VTy) (sat : Bool) (d : VIdx) (a : Src) (b : SrcB) (s : State) (sid : Nat) (t : Team),
      let i := Instr.vdot4 h ty sat d a b
      (ty = .i32 ∨ ty = .n32) ∧
      VectorRuns i h s sid t (enableOf i h s sid t) d false (tags1 i s sid t false (.v d) ++ tags2 i s sid t false a b)) :=
  ⟨⟨h0, .i32, .v 2, .imm 3, S0, 0, T0, .lt, 3, predRuns_of (by decide +kernel)⟩,
   ⟨h0, .i32, 4, .v 2, .imm 3, S0, 0, T0, vectorRuns_of (by decide +kernel)⟩,
   ⟨h0, .i32, 4, .v 2, S0, 0, T0, vectorRuns_of (by decide +kernel)⟩,
   ⟨h0, .i32, 4, .v 2, S0, 0, T0, vectorRuns_of (by decide +kernel)⟩,
   ⟨h0, .i32, 4, .v 2, .imm 3, S0, 0, T0, vectorRuns_of (by decide +kernel)⟩,
   ⟨h0, 4, .v 2, .imm 3, S0, 0, T0, vectorRuns_of (by decide +kernel)⟩,
   ⟨h0, .i32, false, 4, .v 2, .imm 3, S0, 0, T0, by decide +kernel, vectorRuns_of (by decide +kernel)⟩⟩

theorem witness_FloatArithmetic :
    (∃ (h : Hdr) (ty : FTy) (r : Rnd) (m : FMod) (d : VIdx) (a : Src) (b : SrcB) (s : State) (sid : Nat) (t : Team),
      let i := Instr.vfadd h ty r m d a b
      VectorRuns i h s sid t (enableOf i h s sid t) d false (tags2 i s sid t false a b)) ∧
    (∃ (h : Hdr) (ty : FTy) (r : Rnd) (m : FMod) (d : VIdx) (a : Src) (b : SrcB) (s : State) (sid : Nat) (t : Team),
      let i := Instr.vfsub h ty r m d a b
      VectorRuns i h s sid t (enableOf i h s sid t) d false (tags2 i s sid t false a b)) ∧
    (∃ (h : Hdr) (ty : FTy) (r : Rnd) (m : FMod) (d : VIdx) (a : Src) (b : SrcB) (s : State) (sid : Nat) (t : Team),
      let i := Instr.vfmul h ty r m d a b
      VectorRuns i h s sid t (enableOf i h s sid t) d false (tags2 i s sid t false a b)) ∧
    (∃ (h : Hdr) (ty : FTy) (r : Rnd) (m : FMod) (d : VIdx) (a : Src) (b : SrcB) (s : State) (sid : Nat) (t : Team),
      let i := Instr.vffma h ty r m d a b
      VectorRuns i h s sid t (enableOf i h s sid t) d false (tags1 i s sid t false (.v d) ++ tags2 i s sid t false a b)) ∧
    (∃ (h : Hdr) (ty : FTy) (m : FMod) (d : VIdx) (a : Src) (b : SrcB) (s : State) (sid : Nat) (t : Team),
      let i := Instr.vfmin h ty m d a b
      VectorRuns i h s sid t (enableOf i h s sid t) d false (tags2 i s sid t false a b)) ∧
    (∃ (h : Hdr) (ty : FTy) (m : FMod) (d : VIdx) (a : Src) (b : SrcB) (s : State) (sid : Nat) (t : Team),
      let i := Instr.vfmax h ty m d a b
      VectorRuns i h s sid t (enableOf i h s sid t) d false (tags2 i s sid t false a b)) ∧
    (∃ (h : Hdr) (ty : FTy) (r : Rnd) (m : FMod) (d : VIdx) (a : Src) (b : SrcB) (s : State) (sid : Nat) (t : Team),
      let i := Instr.vfdiv h ty r m d a b
      VectorRuns i h s sid t (enableOf i h s sid t) d false (tags2 i s sid t false a b)) ∧
    (∃ (h : Hdr) (ty : FTy) (r : Rnd) (m : FMod) (d : VIdx) (a : Src) (b : SrcB) (s : State) (sid : Nat) (t : Team),
      let i := Instr.vfscale h ty r m d a b
      VectorRuns i h s sid t (enableOf i h s sid t) d false (tags2 i s sid t false a b)) :=
  ⟨⟨h0, .f32, .rne, ⟨false, false, false⟩, 4, .v 2, .imm 3, S0, 0, T0, vectorRuns_of (by decide +kernel)⟩,
   ⟨h0, .f32, .rne, ⟨false, false, false⟩, 4, .v 2, .imm 3, S0, 0, T0, vectorRuns_of (by decide +kernel)⟩,
   ⟨h0, .f32, .rne, ⟨false, false, false⟩, 4, .v 2, .imm 3, S0, 0, T0, vectorRuns_of (by decide +kernel)⟩,
   ⟨h0, .f32, .rne, ⟨false, false, false⟩, 4, .v 2, .imm 3, S0, 0, T0, vectorRuns_of (by decide +kernel)⟩,
   ⟨h0, .f32, ⟨false, false, false⟩, 4, .v 2, .imm 3, S0, 0, T0, vectorRuns_of (by decide +kernel)⟩,
   ⟨h0, .f32, ⟨false, false, false⟩, 4, .v 2, .imm 3, S0, 0, T0, vectorRuns_of (by decide +kernel)⟩,
   ⟨h0, .f32, .rne, ⟨false, false, false⟩, 4, .v 2, .imm 3, S0, 0, T0, vectorRuns_of (by decide +kernel)⟩,
   ⟨h0, .f32, .rne, ⟨false, false, false⟩, 4, .v 2, .imm 3, S0, 0, T0, vectorRuns_of (by decide +kernel)⟩⟩

theorem witness_FloatFunctions :
    (∃ (h : Hdr) (ty : FTy) (r : Rnd) (nega : Bool) (absa : Bool) (d : VIdx) (a : Src) (s : State) (sid : Nat) (t : Team),
      let i := Instr.vfsqrt h ty r nega absa d a
      VectorRuns i h s sid t (enableOf i h s sid t) d false (tags1 i s sid t false a)) ∧
    (∃ (h : Hdr) (ty : FTy) (nega : Bool) (absa : Bool) (d : VIdx) (a : Src) (s : State) (sid : Nat) (t : Team),
      let i := Instr.vfrcp h ty nega absa d a
      VectorRuns i h s sid t (enableOf i h s sid t) d false (tags1 i s sid t false a)) ∧
    (∃ (h : Hdr) (ty : FTy) (nega : Bool) (absa : Bool) (d : VIdx) (a : Src) (s : State) (sid : Nat) (t : Team),
      let i := Instr.vfrsq h ty nega absa d a
      VectorRuns i h s sid t (enableOf i h s sid t) d false (tags1 i s sid t false a)) ∧
    (∃ (h : Hdr) (ty : FTy) (nega : Bool) (absa : Bool) (d : VIdx) (a : Src) (s : State) (sid : Nat) (t : Team),
      let i := Instr.vfexp2 h ty nega absa d a
      VectorRuns i h s sid t (enableOf i h s sid t) d false (tags1 i s sid t false a)) ∧
    (∃ (h : Hdr) (ty : FTy) (nega : Bool) (absa : Bool) (d : VIdx) (a : Src) (s : State) (sid : Nat) (t : Team),
      let i := Instr.vflog2 h ty nega absa d a
      VectorRuns i h s sid t (enableOf i h s sid t) d false (tags1 i s sid t false a)) ∧
    (∃ (h : Hdr) (ty : FTy) (nega : Bool) (absa : Bool) (d : VIdx) (a : Src) (s : State) (sid : Nat) (t : Team),
      let i := Instr.vfsin h ty nega absa d a
      VectorRuns i h s sid t (enableOf i h s sid t) d false (tags1 i s sid t false a)) ∧
    (∃ (h : Hdr) (ty : FTy) (nega : Bool) (absa : Bool) (d : VIdx) (a : Src) (s : State) (sid : Nat) (t : Team),
      let i := Instr.vfcos h ty nega absa d a
      VectorRuns i h s sid t (enableOf i h s sid t) d false (tags1 i s sid t false a)) ∧
    (∃ (h : Hdr) (ty : FTy) (nega : Bool) (absa : Bool) (d : VIdx) (a : Src) (s : State) (sid : Nat) (t : Team),
      let i := Instr.vftanh h ty nega absa d a
      VectorRuns i h s sid t (enableOf i h s sid t) d false (tags1 i s sid t false a)) ∧
    (∃ (h : Hdr) (ty : FTy) (r : Rnd) (nega : Bool) (absa : Bool) (d : VIdx) (a : Src) (s : State) (sid : Nat) (t : Team),
      let i := Instr.vfrnd h ty r nega absa d a
      VectorRuns i h s sid t (enableOf i h s sid t) d false (tags1 i s sid t false a)) ∧
    (∃ (h : Hdr) (ty : FTy) (nega : Bool) (absa : Bool) (d : VIdx) (a : Src) (s : State) (sid : Nat) (t : Team),
      let i := Instr.vfclass h ty nega absa d a
      VectorRuns i h s sid t (enableOf i h s sid t) d false (tags1 i s sid t false a)) ∧
    (∃ (h : Hdr) (a : Src) (b : SrcB) (s : State) (sid : Nat) (t : Team) (c : FCmp) (p : PIdx),
      let i := Instr.vfcmp h c p a b
      PredRuns i s sid t (enableOf i h s sid t)) ∧
    (∃ (h : Hdr) (r : Rnd) (d : VIdx) (a : Src) (s : State) (sid : Nat) (t : Team) (dty : CvtTy) (sty : CvtTy) (ssel : BitVec 2) (dsel : BitVec 2),
      let i := Instr.vfcvt h dty sty r d a ssel dsel
      let w := cvtBits dty
      i.wf = true ∧
      VectorRuns i h s sid t (enableOf i h s sid t) d false ((if w = 32 then [] else tags1 i s sid t false (.v d)) ++ tags1 i s sid t false a)) :=
  ⟨⟨h0, .f32, .rne, false, false, 4, .v 2, S0, 0, T0, vectorRuns_of (by decide +kernel)⟩,
   ⟨h0, .f32, false, false, 4, .v 2, S0, 0, T0, vectorRuns_of (by decide +kernel)⟩,
   ⟨h0, .f32, false, false, 4, .v 2, S0, 0, T0, vectorRuns_of (by decide +kernel)⟩,
   ⟨h0, .f32, false, false, 4, .v 2, S0, 0, T0, vectorRuns_of (by decide +kernel)⟩,
   ⟨h0, .f32, false, false, 4, .v 2, S0, 0, T0, vectorRuns_of (by decide +kernel)⟩,
   ⟨h0, .f32, false, false, 4, .v 2, S0, 0, T0, vectorRuns_of (by decide +kernel)⟩,
   ⟨h0, .f32, false, false, 4, .v 2, S0, 0, T0, vectorRuns_of (by decide +kernel)⟩,
   ⟨h0, .f32, false, false, 4, .v 2, S0, 0, T0, vectorRuns_of (by decide +kernel)⟩,
   ⟨h0, .f32, .rne, false, false, 4, .v 2, S0, 0, T0, vectorRuns_of (by decide +kernel)⟩,
   ⟨h0, .f32, false, false, 4, .v 2, S0, 0, T0, vectorRuns_of (by decide +kernel)⟩,
   ⟨h0, .v 2, .imm 3, S0, 0, T0, .lt, 3, predRuns_of (by decide +kernel)⟩,
   ⟨h0, .rne, 4, .v 2, S0, 0, T0, .f32, .bf16, 0, 0, by decide +kernel, vectorRuns_of (by decide +kernel)⟩⟩

theorem witness_RoundedOnce :
    (∃ (f : Fmt) (x : Nat) (y : Nat),
      f ∈ [f32F, bf16F, f16F] ∧
      (f.val x).finite = true ∧
      (f.val y).finite = true) ∧
    (∃ (f : Fmt) (x : Nat),
      f ∈ [f32F, bf16F, f16F] ∧
      (f.val x).finite = true ∧
      0 ≤ (f.val x).rat) ∧
    (∃ (f : Fmt) (x : Nat),
      f ∈ [f32F, bf16F, f16F] ∧
      (f.val x).finite = true) ∧
    (∃ (f : Fmt) (x : Nat) (dty : CvtTy) (sty : CvtTy),
      let g := f32F
      cvtKind dty = .float g ∧
      cvtKind sty = .float f ∧
      (f.val x).finite = true) ∧
    (∃ (dty : CvtTy) (sty : CvtTy),
      let g := f32F
      let sg := true
      let w := 8
      cvtKind dty = .float g ∧
      cvtKind sty = .int sg w) ∧
    (∃ (f : Fmt) (x : Nat) (dty : CvtTy) (sty : CvtTy),
      let sg := true
      let w := 8
      cvtKind dty = .int sg w ∧
      cvtKind sty = .float f ∧
      (f.val x).finite = true) ∧
    (∃ (as : List Nat) (bs : List Nat),
      (∀ c ∈ as ++ bs, (bf16F.val c).finite = true)) ∧
    (∃ (xa : BitVec 16) (xb : BitVec 16),
      xa ≠ 0x7FFF ∧
      xb ≠ 0x7FFF) :=
  ⟨⟨f16F, 1, 2, by decide +kernel⟩,
   ⟨f16F, 0, by decide +kernel⟩,
   ⟨f16F, 0, by decide +kernel⟩,
   ⟨bf16F, 0, .f32, .bf16, rfl, rfl, by decide +kernel⟩,
   ⟨.f32, .i8, rfl, rfl⟩,
   ⟨bf16F, 0, .i8, .bf16, rfl, rfl, by decide +kernel⟩,
   ⟨[0x3F80], [0x4000], by decide +kernel⟩,
   ⟨127, 127, by decide +kernel⟩⟩

theorem witness_ApproximateFunctions :
    (∃ (f : Fmt) (fn : Fn) (x : Nat) (y : ℝ),
      f ∈ [bf16F, f16F] ∧
      (f.val x).finite = true ∧
      FnExact fn ((f.val x).rat : ℝ) y) ∧
    (∃ (fn : Fn) (x : Nat) (y : ℝ),
      (f32F.val x).finite = true ∧
      FnExact fn ((f32F.val x).rat : ℝ) y) :=
  ⟨⟨f16F, .exp2, 0, (1 : ℝ), by decide +kernel, by decide +kernel, one_exp2⟩,
   ⟨.exp2, 0, (1 : ℝ), by decide +kernel, one_exp2⟩⟩

theorem witness_FloatSpecialValues :
    (∃ (f : Fmt) (v : FVal) (w : FVal),
      f ∈ [f32F, bf16F, f16F] ∧
      (v.isNan = true ∨ w.isNan = true)) ∧
    (∃ (f : Fmt) (v : FVal),
      f ∈ [f32F, bf16F, f16F] ∧
      v.isNan = true) ∧
    (∃ (m : Nat),
      m ≠ 0) ∧
    (∃ (f : Fmt) (u : FVal) (v : FVal) (w : FVal),
      f ∈ [f32F, bf16F, f16F] ∧
      (v.isNan = true ∨ w.isNan = true ∨ u.isNan = true)) ∧
    (∃ (f : Fmt) (x : Nat) (y : Nat),
      f ∈ [f32F, bf16F, f16F] ∧
      x < 2 ^ f.width ∧
      y < 2 ^ f.width ∧
      (f.val x).isNan = false ∧
      (f.val y).isNan = false) ∧
    (∃ (f : Fmt) (x : Nat),
      (f.val x).isNan = true) ∧
    (∃ (f : Fmt) (x : Nat) (y : Nat),
      f ∈ [f32F, bf16F, f16F] ∧
      (f.val x).isNan = false ∧
      (f.val y).isNan = false) ∧
    (∃ (f : Fmt) (x : Nat) (y : Nat),
      ((f.val x).isNan = true ∨ (f.val y).isNan = true)) ∧
    (∃ (f : Fmt) (x : Nat),
      f ∈ [f32F, bf16F, f16F] ∧
      (f.val x).isNan = true) ∧
    (∃ (f : Fmt) (x : Nat),
      (f.val x).isInf = true) ∧
    (∃ (f : Fmt) (dty : CvtTy) (sty : CvtTy),
      let h := f32F
      cvtKind dty = .float h ∧
      cvtKind sty = .float f) ∧
    (∃ (f : Fmt) (dty : CvtTy) (sty : CvtTy),
      let sg := true
      let w := 8
      cvtKind dty = .int sg w ∧
      cvtKind sty = .float f) ∧
    (∃ (f : Fmt) (n : Bool) (x : Nat),
      f ∈ [f32F, bf16F, f16F] ∧
      f.val x = .inf n) ∧
    (∃ (f : Fmt) (n : Bool) (x : Nat) (e : Int),
      f ∈ [f32F, bf16F, f16F] ∧
      f.val x = .fin n 0 e) ∧
    (∃ (f : Fmt) (x : Nat),
      f ∈ [f32F, bf16F, f16F] ∧
      (f.val x).finite = true ∧
      (f.val x).rat < 0) ∧
    (∃ (f : Fmt) (x : Nat) (y : Nat),
      f ∈ [f32F, bf16F, f16F] ∧
      (f.val x).finite = true ∧
      (f.val y).finite = true ∧
      y < 2 ^ f.width) ∧
    (∃ (f : Fmt) (x : Nat),
      f ∈ [f32F, bf16F, f16F] ∧
      (f.val x).finite = true) :=
  ⟨⟨f16F, .nan true, .inf false, by decide +kernel⟩,
   ⟨f16F, .nan true, by decide +kernel⟩,
   ⟨1, by decide +kernel⟩,
   ⟨f16F, .nan false, .nan true, .inf false, by decide +kernel⟩,
   ⟨f16F, 0, 0, by decide +kernel⟩,
   ⟨f16F, 0x7E00, by decide +kernel⟩,
   ⟨f16F, 0, 0, by decide +kernel⟩,
   ⟨f16F, 0x7E00, 0, by decide +kernel⟩,
   ⟨f16F, 0x7E00, by decide +kernel⟩,
   ⟨f16F, 0x7C00, by decide +kernel⟩,
   ⟨bf16F, .f32, .bf16, rfl, rfl⟩,
   ⟨bf16F, .i8, .bf16, rfl, rfl⟩,
   ⟨f16F, false, 0x7C00, by decide +kernel⟩,
   ⟨f16F, false, 0, -24, by decide +kernel⟩,
   ⟨f16F, 0xBC00, by decide +kernel⟩,
   ⟨f16F, 0, 0, by decide +kernel⟩,
   ⟨f16F, 0, by decide +kernel⟩⟩

theorem witness_LaneReductions :
    (∃ (h : Hdr) (ty : XTy) (op : ROp) (a : Src) (s : State) (sid : Nat) (t : Team) (n : SIdx),
      let i := Instr.vred h ty op n a
      CrossRuns i s sid t ∧
      ty ≠ .f32 ∧
      i.wf = true) ∧
    (∃ (h : Hdr) (op : ROp) (a : Src) (s : State) (sid : Nat) (t : Team) (n : SIdx),
      let i := Instr.vred h .f32 op n a
      CrossRuns i s sid t ∧
      i.wf = true) ∧
    (∃ (h : Hdr) (ty : XTy) (op : ROp) (a : Src) (s : State) (sid : Nat) (t : Team) (n : SIdx),
      let i := Instr.vredx h ty op n a
      let en := enableOf i h s sid t
      CrossRuns i s sid t ∧
      lanesOf i s sid t en = []) ∧
    (∃ (h : Hdr) (ty : XTy) (op : ROp) (a : Src) (s : State) (sid : Nat) (t : Team) (n : SIdx),
      let i := Instr.vredx h ty op n a
      let en := enableOf i h s sid t
      let l := 0
      let x (l : Nat) := laneA i s sid t false a l
      let nan (l : Nat) : Bool := ty == .f32 && (f32F.val (x l)).isNan
      CrossRuns i s sid t ∧
      (lanesOf i s sid t en).head? = some l ∧
      (∀ k ∈ lanesOf i s sid t en, nan k = true)) ∧
    (∃ (h : Hdr) (ty : XTy) (op : ROp) (a : Src) (s : State) (sid : Nat) (t : Team) (n : SIdx),
      let i := Instr.vredx h ty op n a
      let en := enableOf i h s sid t
      let l := 0
      let x (l : Nat) := laneA i s sid t false a l
      let nan (l : Nat) : Bool := ty == .f32 && (f32F.val (x l)).isNan
      let key (l : Nat) : Int := if ty = .f32 then fltKey f32F (x l) else extT (xSigned ty) 32 (x l)
      CrossRuns i s sid t ∧
      i.wf = true ∧
      l ∈ lanesOf i s sid t en ∧
      nan l = false ∧
      (∀ k ∈ lanesOf i s sid t en, nan k = false → (if op = .max then key k < key l else key l < key k) ∨ (key k = key l ∧ l ≤ k))) ∧
    (∃ (h : Hdr) (b : SrcB) (s : State) (sid : Nat) (t : Team) (n : SIdx) (v : VIdx),
      let i := Instr.vsample h n v b
      CrossRuns i s sid t) :=
  ⟨⟨h0, .n32, .add, .v 2, S0, 0, T0, 4, crossRuns_of (by decide +kernel), by decide +kernel⟩,
   ⟨h0, .add, .v 2, S0, 0, T0, 4, crossRuns_of (by decide +kernel), by decide +kernel⟩,
   ⟨⟨false, 3, 0, false⟩, .n32, .min, .v 2, S0, 0, T0, 4, crossRuns_of (by decide +kernel), by decide +kernel⟩,
   ⟨h0, .f32, .min, .v 2, demo { T0 with v := [(2, .u 0x7FC00001)] }, 0, { T0 with v := [(2, .u 0x7FC00001)] }, 4, crossRuns_of (by decide +kernel), by decide +kernel⟩,
   ⟨h0, .n32, .min, .v 2, S0, 0, T0, 4, crossRuns_of (by decide +kernel), by decide +kernel⟩,
   ⟨h0, .imm 3, S0, 0, T0, 4, 4, crossRuns_of (by decide +kernel)⟩⟩

theorem witness_LaneMoves :
    (∃ (h : Hdr) (ty : XTy) (op : ROp) (excl : Bool) (d : VIdx) (a : Src) (s : State) (sid : Nat) (t : Team),
      let i := Instr.vscan h ty op excl d a
      let en := enableOf i h s sid t
      ty ≠ .f32 ∧
      i.wf = true ∧
      VectorRuns i h s sid t en d false [.g]) ∧
    (∃ (h : Hdr) (op : ROp) (excl : Bool) (d : VIdx) (a : Src) (s : State) (sid : Nat) (t : Team),
      let i := Instr.vscan h .f32 op excl d a
      let en := enableOf i h s sid t
      i.wf = true ∧
      VectorRuns i h s sid t en d false [.g]) ∧
    (∃ (h : Hdr) (mode : SMode) (d : VIdx) (a : Src) (b : SrcB) (s : State) (sid : Nat) (t : Team),
      let i := Instr.vshfl h mode d a b
      let en := enableOf i h s sid t
      VectorRuns i h s sid t en d false (tags1 i s sid t false a)) ∧
    (∃ (h : Hdr) (d : VIdx) (b : SrcB) (s : State) (sid : Nat) (t : Team) (v : VIdx),
      let i := Instr.vbcast h d v b
      let en := enableOf i h s sid t
      VectorRuns i h s sid t en d false [.u]) ∧
    (∃ (h : Hdr) (d : VIdx) (a : Src) (b : SrcB) (s : State) (sid : Nat) (t : Team),
      let i := Instr.vrng h d a b
      let en := enableOf i h s sid t
      VectorRuns i h s sid t en d false ((viewAtIssue i s sid t).tagsB (atIssue i s sid t) false b)) ∧
    (∃ (h : Hdr) (b : SrcB) (s : State) (sid : Nat) (t : Team) (n : SIdx) (v : VIdx),
      let i := Instr.sgetl h n v b
      Runs i h s sid t) ∧
    (∃ (h : Hdr) (d : VIdx) (a : Src) (b : SrcB) (s : State) (sid : Nat) (t : Team),
      let i := Instr.vsetl h d a b
      let k := (srcS i s sid t false b).toNat % 2 ^ 32
      let u := teamAtIssue i s sid t
      Runs i h s sid t ∧
      u.w ≤ 1024 ∧
      k < u.w ∧
      overBudget (teamAtIssue i s sid t) [(d.toNat, .g)] = false) ∧
    (∃ (h : Hdr) (d : VIdx) (a : Src) (b : SrcB) (s : State) (sid : Nat) (t : Team),
      let i := Instr.vsetl h d a b
      let k := (srcS i s sid t false b).toNat % 2 ^ 32
      Runs i h s sid t ∧
      (teamAtIssue i s sid t).w ≤ k) ∧
    (∃ (h : Hdr) (s : State) (sid : Nat) (t : Team) (n : SIdx) (v : VIdx),
      let i := Instr.vtagGet h n v
      Runs i h s sid t) ∧
    (∃ (h : Hdr) (d : VIdx) (s : State) (sid : Nat) (t : Team) (v : VIdx),
      let i := Instr.vtagExpand h d v
      let u := teamAtIssue i s sid t
      Runs i h s sid t ∧
      u.w ≤ 1024 ∧
      overBudget (teamAtIssue i s sid t) [(d.toNat, .g)] = false) ∧
    (∃ (h : Hdr) (d : VIdx) (s : State) (sid : Nat) (t : Team) (v : VIdx),
      let i := Instr.vtagCompact h d v
      let u := teamAtIssue i s sid t
      Runs i h s sid t ∧
      u.w ≤ 1024 ∧
      overBudget (teamAtIssue i s sid t) [(d.toNat, .g)] = false) :=
  ⟨⟨h0, .n32, .add, false, 4, .v 2, S0, 0, T0, by decide +kernel, by decide +kernel, vectorRuns_of (by decide +kernel)⟩,
   ⟨h0, .add, false, 4, .v 2, S0, 0, T0, by decide +kernel, vectorRuns_of (by decide +kernel)⟩,
   ⟨h0, .up, 4, .v 2, .imm 3, S0, 0, T0, vectorRuns_of (by decide +kernel)⟩,
   ⟨h0, 4, .imm 3, S0, 0, T0, 2, vectorRuns_of (by decide +kernel)⟩,
   ⟨h0, 4, .v 2, .imm 3, S0, 0, T0, vectorRuns_of (by decide +kernel)⟩,
   ⟨h0, .imm 3, S0, 0, T0, 4, 4, runs_of (by decide +kernel)⟩,
   ⟨h0, 4, .v 2, .imm 3, S0, 0, T0, runs_of (by decide +kernel), by decide +kernel⟩,
   ⟨h0, 4, .v 2, .imm 32, S0, 0, T0, runs_of (by decide +kernel), by decide +kernel⟩,
   ⟨h0, S0, 0, T0, 4, 4, runs_of (by decide +kernel)⟩,
   ⟨h0, 4, S0, 0, T0, 4, runs_of (by decide +kernel), by decide +kernel⟩,
   ⟨h0, 4, S0, 0, T0, 4, runs_of (by decide +kernel), by decide +kernel⟩⟩

theorem witness_ScratchpadAccesses :
    (∃ (h : Hdr) (ty : MTy) (sp : Space) (o : Ord) (d : VIdx) (m : MemOp) (s : State) (sid : Nat) (t : Team),
      let i := Instr.vld h ty sp o d m
      let en := enableOf i h s sid t
      let u := teamAtIssue i s sid t
      let ad (l : Nat) := laneAddr i s sid t m l
      MemRuns i h s sid t ∧
      sp ≠ .global ∧
      ¬(en = u.lanes ∧ uniformAddr u m = true) ∧
      (∀ l ∈ passOf (runOf u en), fits u sp (mBytes ty) (ad l)) ∧
      overBudget u ((List.range (mRegs ty)).map (fun k => (d.toNat + k, Tag.g))) = false) ∧
    (∃ (h : Hdr) (ty : MTy) (sp : Space) (o : Ord) (d : VIdx) (m : MemOp) (s : State) (sid : Nat) (t : Team),
      let i := Instr.vld h ty sp o d m
      let u := teamAtIssue i s sid t
      let ad (l : Nat) := laneAddr i s sid t m l
      MemRuns i h s sid t ∧
      u.mem = none ∧
      sp ≠ .global ∧
      enableOf i h s sid t = u.lanes ∧
      uniformAddr u m = true ∧
      (∀ l, l < u.w → fits u sp (mBytes ty) (ad l)) ∧
      overBudget u ((List.range (mRegs ty)).map (fun k => (d.toNat + k, Tag.u))) = false) ∧
    (∃ (h : Hdr) (ty : MTy) (sp : Space) (o : Ord) (d : VIdx) (m : MemOp) (s : State) (sid : Nat) (t : Team),
      let i := Instr.vst h ty sp o d m
      let en := enableOf i h s sid t
      let u := teamAtIssue i s sid t
      let ad (l : Nat) := laneAddr i s sid t m l
      MemRuns i h s sid t ∧
      sp ≠ .global ∧
      (∀ l ∈ passOf (runOf u en), fits u sp (mBytes ty) (ad l))) ∧
    (∃ (h : Hdr) (ty : MTy) (o : Ord) (sd : SVDst) (m : MemOp) (s : State) (sid : Nat) (t : Team),
      let i := Instr.sld h ty .spad o sd m
      let u := teamAtIssue i s sid t
      let va := laneAddr i s sid t m 0
      ScalarMem i h s sid t ∧
      fits u .spad (mBytes ty) va) ∧
    (∃ (h : Hdr) (ty : MTy) (o : Ord) (a : SIdx) (m : MemOp) (s : State) (sid : Nat) (t : Team),
      let i := Instr.sst h ty .spad o a m
      let u := teamAtIssue i s sid t
      let va := laneAddr i s sid t m 0
      ScalarMem i h s sid t ∧
      fits u .spad (mBytes ty) va) :=
  ⟨⟨h0, .b32, .spad, .weak, 4, ⟨8, .team, false, some 5, 16⟩, demo TV, 0, TV, memRuns_of (by decide +kernel), by decide +kernel, by decide +kernel, allFits_of (by decide +kernel), by decide +kernel⟩,
   ⟨h0, .b32, .spad, .weak, 4, ⟨8, .team, false, none, 16⟩, S0, 0, T0, memRuns_of (by decide +kernel), by decide +kernel, by decide +kernel, by decide +kernel, by decide +kernel, fun l _ => fits_of (by decide +kernel +revert), by decide +kernel⟩,
   ⟨h0, .b32, .spad, .weak, 4, ⟨8, .team, false, none, 16⟩, S0, 0, T0, memRuns_of (by decide +kernel), by decide +kernel, allFits_of (by decide +kernel)⟩,
   ⟨h0, .b32, .weak, .s 6, ⟨8, .team, false, none, 16⟩, S0, 0, T0, scalarMem_of (by decide +kernel), fits_of (by decide +kernel)⟩,
   ⟨h0, .b32, .weak, 4, ⟨8, .team, false, none, 16⟩, S0, 0, T0, scalarMem_of (by decide +kernel), fits_of (by decide +kernel)⟩⟩

theorem witness_GlobalLoads :
    (∃ (h : Hdr) (ty : MTy) (o : Ord) (d : VIdx) (m : MemOp) (s : State) (sid : Nat) (t : Team),
      let i := Instr.vld h ty .global o d m
      let en := enableOf i h s sid t
      let u := teamAtIssue i s sid t
      let s0 := atIssue i s sid t
      let ad (l : Nat) := laneAddr i s sid t m l
      MemRuns i h s sid t ∧
      (o = .weak ∨ scopeWide m.scope = false) ∧
      ¬(en = u.lanes ∧ uniformAddr u m = true) ∧
      (∀ l ∈ passOf (runOf u en), fits u .global (mBytes ty) (ad l) ∧ inL1 s0 u.coreId u.ctx (ad l).toNat (mBytes ty)) ∧
      overBudget u ((List.range (mRegs ty)).map (fun k => (d.toNat + k, Tag.g))) = false) ∧
    (∃ (h : Hdr) (ty : MTy) (o : Ord) (d : VIdx) (m : MemOp) (s : State) (sid : Nat) (t : Team),
      let i := Instr.vld h ty .global o d m
      let u := teamAtIssue i s sid t
      let s0 := atIssue i s sid t
      let va := laneAddr i s sid t m 0
      MemRuns i h s sid t ∧
      u.mem = none ∧
      (o = .weak ∨ scopeWide m.scope = false) ∧
      enableOf i h s sid t = u.lanes ∧
      uniformAddr u m = true ∧
      fits u .global (mBytes ty) va ∧
      inL1 s0 u.coreId u.ctx va.toNat (mBytes ty) ∧
      overBudget u ((List.range (mRegs ty)).map (fun k => (d.toNat + k, Tag.u))) = false) ∧
    (∃ (h : Hdr) (ty : MTy) (o : Ord) (sd : SVDst) (m : MemOp) (s : State) (sid : Nat) (t : Team),
      let i := Instr.sld h ty .global o sd m
      let u := teamAtIssue i s sid t
      let s0 := atIssue i s sid t
      let va := laneAddr i s sid t m 0
      ScalarMem i h s sid t ∧
      (o = .weak ∨ scopeWide m.scope = false) ∧
      fits u .global (mBytes ty) va ∧
      inL1 s0 u.coreId u.ctx va.toNat (mBytes ty)) ∧
    (∃ (h : Hdr) (ty : MTy) (o : Ord) (sd : SVDst) (m : MemOp) (s : State) (sid : Nat) (t : Team),
      let i := Instr.sld h ty .global o sd m
      let u := teamAtIssue i s sid t
      let s0 := atIssue i s sid t
      let va := laneAddr i s sid t m 0
      ScalarMem i h s sid t ∧
      o ≠ .weak ∧
      scopeWide m.scope = true ∧
      (o = .sc → Released s0 u) ∧
      fits u .global (mBytes ty) va ∧
      atHome s0 u.coreId u.ctx va.toNat (mBytes ty) ∧
      heldEntries s0 u.coreId < Config.generalMshr) ∧
    (∃ (h : Hdr) (ty : MTy) (a : SIdx) (m : MemOp) (s : State) (sid : Nat) (t : Team),
      let i := Instr.sld h ty .global .weak (.s a) m
      let u := teamAtIssue i s sid t
      let s0 := atIssue i s sid t
      let va := laneAddr i s sid t m 0
      let tr := tr0
      ScalarMem i h s sid t ∧
      a ≠ 0 ∧
      fits u .global (mBytes ty) va ∧
      s0.l1? u.coreId u.ctx (lineNo va) = none ∧
      s0.home? u.ctx (lineNo va) = none ∧
      (∀ f ∈ s0.fills, f.line ≠ lineNo va) ∧
      tlbFind s0 (unitOf (lineNo va * 64)) u.ctx (lineNo va * 64) .read = some tr ∧
      tr.peer = none ∧
      poisonedKey s0 (physKey s0 (lineAt tr (lineNo va))) = false ∧
      heldEntries s0 u.coreId < Config.generalMshr) :=
  ⟨⟨h0, .b32, .weak, 4, ⟨8, .team, false, some 5, 0⟩, SL3, 0, TGV, memRuns_of (by decide +kernel), by decide +kernel, by decide +kernel, allFitsIn_of (by decide +kernel), by decide +kernel⟩,
   ⟨h0, .b32, .weak, 4, ⟨8, .team, false, none, 16⟩, SL1, 0, TG, memRuns_of (by decide +kernel), by decide +kernel, by decide +kernel, by decide +kernel, by decide +kernel, fits_of (by decide +kernel), inL1_of (by decide +kernel), by decide +kernel⟩,
   ⟨h0, .b32, .weak, .s 6, ⟨8, .team, false, none, 16⟩, SL1, 0, TG, scalarMem_of (by decide +kernel), by decide +kernel, fits_of (by decide +kernel), inL1_of (by decide +kernel)⟩,
   ⟨h0, .b32, .strong, .s 6, ⟨8, .device, false, none, 16⟩, SHome, 0, TG, scalarMem_of (by decide +kernel), by decide +kernel, by decide +kernel, fun h => absurd h (by decide +kernel), fits_of (by decide +kernel), atHome_of (by decide +kernel), by decide +kernel⟩,
   ⟨h0, .b32, 6, ⟨8, .team, false, none, 16⟩, STlb, 0, TG, scalarMem_of (by decide +kernel), by decide +kernel, fits_of (by decide +kernel), by decide +kernel⟩⟩

theorem witness_GlobalStores :
    (∃ (h : Hdr) (ty : MTy) (o : Ord) (d : VIdx) (m : MemOp) (s : State) (sid : Nat) (t : Team),
      let i := Instr.vst h ty .global o d m
      let en := enableOf i h s sid t
      let u := teamAtIssue i s sid t
      let s0 := atIssue i s sid t
      let ad (l : Nat) := laneAddr i s sid t m l
      MemRuns i h s sid t ∧
      (o = .weak ∨ scopeWide m.scope = false) ∧
      (∀ l ∈ passOf (runOf u en), fits u .global (mBytes ty) (ad l) ∧ mayStore s0 u.coreId u.ctx (ad l).toNat)) ∧
    (∃ (h : Hdr) (ty : MTy) (o : Ord) (a : SIdx) (m : MemOp) (s : State) (sid : Nat) (t : Team),
      let i := Instr.sst h ty .global o a m
      let u := teamAtIssue i s sid t
      let s0 := atIssue i s sid t
      let va := laneAddr i s sid t m 0
      ScalarMem i h s sid t ∧
      (o = .weak ∨ scopeWide m.scope = false) ∧
      fits u .global (mBytes ty) va ∧
      mayStore s0 u.coreId u.ctx va.toNat) :=
  ⟨⟨h0, .b32, .weak, 4, ⟨8, .team, false, none, 16⟩, SL1, 0, TG, memRuns_of (by decide +kernel), by decide +kernel, allFitsMay_of (by decide +kernel)⟩,
   ⟨h0, .b32, .weak, 9, ⟨8, .team, false, none, 16⟩, SL1, 0, TG, scalarMem_of (by decide +kernel), by decide +kernel, fits_of (by decide +kernel), mayStore_of (by decide +kernel)⟩⟩

theorem witness_LaneFaults :
    (∃ (h : Hdr) (ty : MTy) (sp : Space) (d : VIdx) (m : MemOp) (s : State) (sid : Nat) (t : Team) (entry : Word),
      let i := Instr.vld h ty sp .weak d m
      let en := enableOf i h s sid t
      let u := teamAtIssue i s sid t
      let s0 := atIssue i s sid t
      let ad (l : Nat) := laneAddr i s sid t m l
      let r := runOf u en
      let f := 0
      let c := Cause.misaligned
      let res (l : Nat) : LaneGot := match laneCheck u sp (mBytes ty) (ad l) with
        | some c => .out (.bad c (ad l))
        | none => .val (leNat (spadRead s0 u.coreId (bankOff u sp l (ad l)) (mBytes ty)))
      let all := r.got ++ (passOf r).map (fun l => (l, res l))
      let a := 17
      MemIssues i h s sid t ∧
      sp ≠ .global ∧
      ¬(en = u.lanes ∧ uniformAddr u m = true) ∧
      overBudget u ((List.range (mRegs ty)).map (fun k => (d.toNat + k, Tag.g))) = false ∧
      HasHandler s0 u entry ∧
      u.inTrap = false ∧
      restOf r = 0 ∧
      (all.map Prod.fst).Nodup ∧
      (∀ e ∈ all, (∃ x, e.2 = .val x) ∨ ∃ k b, e.2 = .out (.bad k b)) ∧
      (f, LaneGot.out (.bad c a)) ∈ all ∧
      (∀ l k b, (l, LaneGot.out (.bad k b)) ∈ all → c.toNat < k.toNat ∨ (c = k ∧ f ≤ l))) ∧
    (∃ (h : Hdr) (ty : MTy) (sp : Space) (d : VIdx) (m : MemOp) (s : State) (sid : Nat) (t : Team),
      let i := Instr.vld h ty sp .weak d m
      let en := enableOf i h s sid t
      let u := teamAtIssue i s sid t
      MemIssues i h s sid t ∧
      sp ≠ .global ∧
      ¬(en = u.lanes ∧ uniformAddr u m = true) ∧
      overBudget u ((List.range (mRegs ty)).map (fun k => (d.toNat + k, Tag.g))) = false ∧
      restOf (runOf u en) ≠ 0) ∧
    (∃ (h : Hdr) (ty : MTy) (a : SIdx) (m : MemOp) (s : State) (sid : Nat) (t : Team) (entry : Word),
      let i := Instr.sst h ty .global .weak a m
      let u := teamAtIssue i s sid t
      let s0 := atIssue i s sid t
      let va := laneAddr i s sid t m 0
      ScalarMem i h s sid t ∧
      HasHandler s0 u entry ∧
      u.inTrap = false ∧
      va.toNat % mBytes ty ≠ 0 ∧
      (va.toNat < 2 ^ 56 ∨ 2 ^ 64 - 2 ^ 56 ≤ va.toNat)) ∧
    (∃ (h : Hdr) (ty : MTy) (a : SIdx) (m : MemOp) (s : State) (sid : Nat) (t : Team) (entry : Word),
      let i := Instr.sst h ty .global .weak a m
      let u := teamAtIssue i s sid t
      let s0 := atIssue i s sid t
      let va := laneAddr i s sid t m 0
      ScalarMem i h s sid t ∧
      HasHandler s0 u entry ∧
      u.inTrap = false ∧
      2 ^ 56 ≤ va.toNat ∧
      va.toNat < 2 ^ 64 - 2 ^ 56) :=
  ⟨⟨h0, .b32, .spad, 4, ⟨8, .team, false, some 6, 16⟩, demoH TV, 0, TV, 0x4000, memIssues_of (by decide +kernel), by decide +kernel, by decide +kernel, by decide +kernel, hasHandler_of (by decide +kernel), by decide +kernel, by decide +kernel, by decide +kernel, valOrBad_of (by decide +kernel), by decide +kernel, worst_of (by decide +kernel)⟩,
   ⟨h0, .b32, .spad, 4, ⟨8, .team, false, some 6, 16⟩, demoH TWide, 0, TWide, memIssues_of (by decide +kernel), by decide +kernel⟩,
   ⟨h0, .b32, 4, ⟨8, .team, false, none, 17⟩, demoH TG, 0, TG, 0x4000, scalarMem_of (by decide +kernel), hasHandler_of (by decide +kernel), by decide +kernel⟩,
   ⟨h0, .b32, 4, ⟨8, .team, false, none, 16⟩, demoH { TG with s := [(8, 2 ^ 56)] }, 0, { TG with s := [(8, 2 ^ 56)] }, 0x4000, scalarMem_of (by decide +kernel), hasHandler_of (by decide +kernel), by decide +kernel⟩⟩

theorem witness_Atomics :
    (∃ (h : Hdr) (ty : ATy) (op : AOp) (o : AOrd) (d : VIdx) (a : Src) (m : MemOp) (s : State) (sid : Nat) (t : Team),
      let i := Instr.vatom h ty op o d a m
      let en := enableOf i h s sid t
      let u := teamAtIssue i s sid t
      let r := runOf u en
      let ad (l : Nat) := laneAddr i s sid t m l
      let n := aBits ty / 8
      MemRuns i h s sid t ∧
      m.pol = true ∧
      Quiet u ∧
      r.got.length ≤ 992 ∧
      (∀ l ∈ passOf r, fits u .spad n (ad l)) ∧
      overBudget u ((List.range (n / 4)).map (fun k => (d.toNat + k, Tag.g))) = false ∧
      (∀ l ∈ passOf r, ∀ k ∈ passOf r, l ≠ k → ad l ≠ ad k)) ∧
    (∃ (h : Hdr) (ty : ATy) (op : AOp) (o : AOrd) (d : VIdx) (a : Src) (m : MemOp) (s : State) (sid : Nat) (t : Team),
      let i := Instr.vatom h ty op o d a m
      let en := enableOf i h s sid t
      let u := teamAtIssue i s sid t
      let r := runOf u en
      let n := aBits ty / 8
      let at_ := laneAddr i s sid t m ((passOf r).headD 0)
      MemRuns i h s sid t ∧
      m.pol = true ∧
      Quiet u ∧
      r.got.length ≤ 992 ∧
      fits u .spad n at_ ∧
      overBudget u ((List.range (n / 4)).map (fun k => (d.toNat + k, Tag.g))) = false ∧
      (∀ l ∈ passOf r, laneAddr i s sid t m l = at_)) ∧
    (∃ (h : Hdr) (ty : ATy) (op : AOp) (o : AOrd) (sd : SIdx) (sa : SIdx) (m : MemOp) (s : State) (sid : Nat) (t : Team),
      let i := Instr.satom h ty op o sd sa m
      let u := teamAtIssue i s sid t
      let va := laneAddr i s sid t m 0
      let n := aBits ty / 8
      ScalarMem i h s sid t ∧
      m.pol = true ∧
      Quiet u ∧
      fits u .spad n va) ∧
    (∃ (h : Hdr) (ty : ATy) (op : AOp) (o : AOrd) (sd : SIdx) (sa : SIdx) (m : MemOp) (s : State) (sid : Nat) (t : Team),
      let i := Instr.satom h ty op o sd sa m
      let u := teamAtIssue i s sid t
      let s0 := atIssue i s sid t
      let va := laneAddr i s sid t m 0
      let n := aBits ty / 8
      let g := home0
      ScalarMem i h s sid t ∧
      m.pol = false ∧
      (m.scope = .die ∨ m.scope = .device) ∧
      o = .rlx ∧
      Quiet u ∧
      fits u .global n va ∧
      s0.home? u.ctx (lineNo va) = some g ∧
      g.tr.grants s0.rt = true ∧
      byteRange (lineOff va) n &&& ~~~ g.valid = 0 ∧
      s0.l1? u.coreId u.ctx (lineNo va) = none ∧
      s0.tracked = [] ∧
      sealedAt s0 u.ctx va.toNat = false ∧
      (∀ f ∈ s0.far, f.sid ≠ sid) ∧
      heldEntries s0 u.coreId < Config.generalMshr) :=
  ⟨⟨h0, .n32, .add, .rlx, 4, .v 2, ⟨8, .core, true, some 5, 16⟩, demo TV, 0, TV, memRuns_of (by decide +kernel), by decide +kernel, quiet_of (by decide +kernel), by decide +kernel, allFits_of (by decide +kernel), by decide +kernel⟩,
   ⟨h0, .n32, .add, .rlx, 4, .v 2, ⟨8, .core, true, none, 16⟩, S0, 0, T0, memRuns_of (by decide +kernel), by decide +kernel, quiet_of (by decide +kernel), by decide +kernel, fits_of (by decide +kernel), by decide +kernel⟩,
   ⟨h0, .n32, .add, .rlx, 4, 9, ⟨8, .core, true, none, 16⟩, S0, 0, T0, scalarMem_of (by decide +kernel), by decide +kernel, quiet_of (by decide +kernel), fits_of (by decide +kernel)⟩,
   ⟨h0, .n32, .add, .rlx, 4, 9, ⟨8, .device, false, none, 16⟩, SHome, 0, TG, scalarMem_of (by decide +kernel), by decide +kernel, by decide +kernel, by decide +kernel, quiet_of (by decide +kernel), fits_of (by decide +kernel), by decide +kernel⟩⟩

theorem witness_FencesAndLines :
    (∃ (h : Hdr) (sc : Scope) (o : FOrd) (s : State) (sid : Nat) (t : Team),
      let i := Instr.fence h sc o
      let u := teamAtIssue i s sid t
      let s0 := atIssue i s sid t
      Runs i h s sid t ∧
      u.region = none ∧
      (∀ q ∈ s0.wq, q.sid ≠ sid)) ∧
    (∃ (h : Hdr) (m : MemOp) (s : State) (sid : Nat) (t : Team),
      let i := Instr.cflush h m
      let en := enableOf i h s sid t
      let u := teamAtIssue i s sid t
      Clear i s sid t ∧
      en ≠ 0 ∧
      u.region = none ∧
      (activeLines (viewAtIssue i s sid t) h m).any (fun l => held (atIssue i s sid t) u (l * 64) 64 false) = false) ∧
    (∃ (h : Hdr) (m : MemOp) (s : State) (sid : Nat) (t : Team),
      let i := Instr.cinval h m
      let en := enableOf i h s sid t
      let u := teamAtIssue i s sid t
      Clear i s sid t ∧
      en ≠ 0 ∧
      u.region = none ∧
      (activeLines (viewAtIssue i s sid t) h m).any (fun l => held (atIssue i s sid t) u (l * 64) 64 false) = false) ∧
    (∃ (h : Hdr) (m : MemOp) (s : State) (sid : Nat) (t : Team),
      let i := Instr.pf h m
      let en := enableOf i h s sid t
      let u := teamAtIssue i s sid t
      Clear i s sid t ∧
      en ≠ 0 ∧
      (activeLines (viewAtIssue i s sid t) h m).any (fun l => held (atIssue i s sid t) u (l * 64) 64 false) = false) ∧
    (∃ (h : Hdr) (a : SIdx) (n : Option (BitVec 32)) (s : State) (sid : Nat) (t : Team),
      let i := Instr.twait h a n
      let u := teamAtIssue i s sid t
      let regs := (List.range (n.getD 1).toNat).map (fun k => RegName.s (a.toNat + k))
      Runs i h s sid t ∧
      (∀ r ∈ regs, ∀ e ∈ u.sb, e.reg ≠ r)) ∧
    (∃ (h : Hdr) (a : SIdx) (n : Option (BitVec 32)) (s : State) (sid : Nat) (t : Team),
      let i := Instr.twait h a n
      let u := teamAtIssue i s sid t
      let k := 0
      Runs i h s sid t ∧
      k < (n.getD 1).toNat ∧
      (∃ e ∈ u.sb, e.reg = .s (a.toNat + k)) ∧
      (∀ j, j < k → ∀ e ∈ u.sb, e.reg ≠ .s (a.toNat + j))) ∧
    (∃ (h : Hdr) (m : MemOp) (s : State) (sid : Nat) (t : Team),
      let i := Instr.pf h m
      let lines := activeLines (viewAtIssue i s sid t) h m
      Clear i s sid t ∧
      enableOf i h s sid t ≠ 0 ∧
      lines.any (fun l => held (atIssue i s sid t) (teamAtIssue i s sid t) (l * 64) 64 false) = true) ∧
    (∃ (h : Hdr) (m : MemOp) (s : State) (sid : Nat) (t : Team),
      let i := Instr.cflush h m
      let lines := activeLines (viewAtIssue i s sid t) h m
      Clear i s sid t ∧
      enableOf i h s sid t ≠ 0 ∧
      lines.any (fun l => held (atIssue i s sid t) (teamAtIssue i s sid t) (l * 64) 64 false) = true) ∧
    (∃ (h : Hdr) (m : MemOp) (s : State) (sid : Nat) (t : Team),
      let i := Instr.cinval h m
      let lines := activeLines (viewAtIssue i s sid t) h m
      Clear i s sid t ∧
      enableOf i h s sid t ≠ 0 ∧
      lines.any (fun l => held (atIssue i s sid t) (teamAtIssue i s sid t) (l * 64) 64 false) = true) :=
  ⟨⟨h0, .device, .sc, S0, 0, T0, runs_of (by decide +kernel), by decide +kernel⟩,
   ⟨h0, ⟨8, .team, false, none, 16⟩, S0, 0, T0, clear_of (by decide +kernel), by decide +kernel⟩,
   ⟨h0, ⟨8, .team, false, none, 16⟩, S0, 0, T0, clear_of (by decide +kernel), by decide +kernel⟩,
   ⟨h0, ⟨8, .team, false, none, 16⟩, S0, 0, T0, clear_of (by decide +kernel), by decide +kernel⟩,
   ⟨h0, 4, none, S0, 0, T0, runs_of (by decide +kernel), by decide +kernel⟩,
   ⟨h0, 6, none, demo TSb, 0, TSb, runs_of (by decide +kernel), by decide +kernel⟩,
   ⟨h0, ⟨8, .team, false, none, 16⟩, SHeld, 0, THeld, clear_of (by decide +kernel), by decide +kernel⟩,
   ⟨h0, ⟨8, .team, false, none, 16⟩, SHeld, 0, THeld, clear_of (by decide +kernel), by decide +kernel⟩,
   ⟨h0, ⟨8, .team, false, none, 16⟩, SHeld, 0, THeld, clear_of (by decide +kernel), by decide +kernel⟩⟩

theorem witness_Sealing :
    (∃ (h : Hdr) (d : SIdx) (a : SIdx) (b : SI) (s : State) (sid : Nat) (t : Team),
      let i := Instr.seal h d a b
      let u := teamAtIssue i s sid t
      let s0 := atIssue i s sid t
      let c := newCtx .user 0
      Runs i h s sid t ∧
      u.region = none ∧
      s0.ctx? u.ctx = some c) ∧
    (∃ (h : Hdr) (d : SIdx) (a : SIdx) (s : State) (sid : Nat) (t : Team),
      let i := Instr.unseal h d a
      let u := teamAtIssue i s sid t
      let s0 := atIssue i s sid t
      let c := newCtx .user 0
      Runs i h s sid t ∧
      u.openRegion = none ∧
      s0.ctx? u.ctx = some c ∧
      (∀ r ∈ c.seals, r.1 ≠ (srcA i s sid t (.s a)).toNat)) ∧
    (∃ (h : Hdr) (d : SIdx) (a : SIdx) (s : State) (sid : Nat) (t : Team),
      let i := Instr.unseal h d a
      let u := teamAtIssue i s sid t
      let s0 := atIssue i s sid t
      let c := sealCtx
      let r := ((0x20000, 4096) : Nat × Nat)
      Runs i h s sid t ∧
      u.openRegion = none ∧
      s0.ctx? u.ctx = some c ∧
      c.seals.find? (fun r => r.1 == (srcA i s sid t (.s a)).toNat) = some r) :=
  ⟨⟨h0, 4, 8, .s 10, demo { TG with s := [(8, 0x20000), (10, 4096)] }, 0, { TG with s := [(8, 0x20000), (10, 4096)] }, runs_of (by decide +kernel), by decide +kernel⟩,
   ⟨h0, 4, 4, S0, 0, T0, runs_of (by decide +kernel), by decide +kernel⟩,
   ⟨h0, 4, 8, { demo TG with ctxs := [(1, sealCtx)], l1 := [l10] }, 0, TG, runs_of (by decide +kernel), by decide +kernel⟩⟩

theorem witness_Copies :
    (∃ (h : Hdr) (d : SIdx) (a : SIdx) (k : CpyImm) (s : State) (sid : Nat) (t : Team),
      let i := Instr.cpy h d a k
      let u := teamAtIssue i s sid t
      let s0 := atIssue i s sid t
      let c := u.coreId
      let D : BitVec 256 := BitVec.ofNat 256 (scalars i s sid t a 4)
      Runs i h s sid t ∧
      u.region = none ∧
      (s0.core c).copies.length < 32 ∧
      (∀ j : CopyJob, j.out = false → j.imm = k → j.desc = D → copyCheck s0 u j = none)) ∧
    (∃ (h : Hdr) (d : SIdx) (a : SIdx) (k : CpyImm) (s : State) (sid : Nat) (t : Team),
      let i := Instr.cpyout h d a k
      let u := teamAtIssue i s sid t
      let s0 := atIssue i s sid t
      let c := u.coreId
      let D : BitVec 256 := BitVec.ofNat 256 (scalars i s sid t a 4)
      Runs i h s sid t ∧
      u.region = none ∧
      (s0.core c).copies.length < 32 ∧
      (∀ j : CopyJob, j.out = true → j.imm = k → j.desc = D → copyCheck s0 u j = none)) ∧
    (∃ (h : Hdr) (d : SIdx) (a : SIdx) (k : CpyImm) (s : State) (sid : Nat) (t : Team),
      let i := Instr.cpy h d a k
      Runs i h s sid t ∧
      (teamAtIssue i s sid t).region = none ∧
      ((scalars i s sid t a 3).testBit 191 = true ∨ (k.kind = 2 ∧ k.fmt ≠ 8))) ∧
    (∃ (h : Hdr) (d : SIdx) (a : SIdx) (k : CpyImm) (s : State) (sid : Nat) (t : Team),
      let i := Instr.cpyout h d a k
      Runs i h s sid t ∧
      (teamAtIssue i s sid t).region = none ∧
      ((scalars i s sid t a 3).testBit 191 = true ∨ (k.kind = 2 ∧ k.fmt ≠ 8))) ∧
    (∃ (h : Hdr) (d : SIdx) (a : SIdx) (k : CpyImm) (s : State) (sid : Nat) (t : Team),
      let i := Instr.cpy h d a k
      let u := teamAtIssue i s sid t
      let s0 := atIssue i s sid t
      Runs i h s sid t ∧
      u.region = none ∧
      32 ≤ (s0.core u.coreId).copies.length ∧
      (∀ j : CopyJob, j.out = false → j.imm = k → j.desc = BitVec.ofNat 256 (scalars i s sid t a 4) → copyCheck s0 u j = none)) ∧
    (∃ (h : Hdr) (d : SIdx) (a : SIdx) (k : CpyImm) (s : State) (sid : Nat) (t : Team),
      let i := Instr.cpyout h d a k
      let u := teamAtIssue i s sid t
      let s0 := atIssue i s sid t
      Runs i h s sid t ∧
      u.region = none ∧
      32 ≤ (s0.core u.coreId).copies.length ∧
      (∀ j : CopyJob, j.out = true → j.imm = k → j.desc = BitVec.ofNat 256 (scalars i s sid t a 4) → copyCheck s0 u j = none)) :=
  ⟨⟨h0, 4, 4, ⟨false, 0, 0, 0⟩, S0, 0, T0, runs_of (by decide +kernel), by decide +kernel, by decide +kernel, copyOk_of (by decide +kernel)⟩,
   ⟨h0, 4, 4, ⟨false, 0, 0, 0⟩, S0, 0, T0, runs_of (by decide +kernel), by decide +kernel, by decide +kernel, copyOk_of (by decide +kernel)⟩,
   ⟨h0, 4, 12, ⟨false, 0, 0, 0⟩, demo (withS [(14, 1 <<< 63)]), 0, withS [(14, 1 <<< 63)], runs_of (by decide +kernel), by decide +kernel⟩,
   ⟨h0, 4, 12, ⟨false, 0, 0, 0⟩, demo (withS [(14, 1 <<< 63)]), 0, withS [(14, 1 <<< 63)], runs_of (by decide +kernel), by decide +kernel⟩,
   ⟨h0, 4, 4, ⟨false, 0, 0, 0⟩, SFull, 0, T0, runs_of (by decide +kernel), by decide +kernel, by decide +kernel, copyOk_of (by decide +kernel)⟩,
   ⟨h0, 4, 4, ⟨false, 0, 0, 0⟩, SFull, 0, T0, runs_of (by decide +kernel), by decide +kernel, by decide +kernel, copyOk_of (by decide +kernel)⟩⟩

theorem witness_MatrixOperations :
    (∃ (h : Hdr) (d : AIdx) (a : SIdx) (x : VIdx) (s : State) (sid : Nat) (t : Team),
      let i := Instr.mma h d x a
      let u := teamAtIssue i s sid t
      let s0 := atIssue i s sid t
      let c := u.coreId
      let D : MDesc := BitVec.ofNat 128 (scalars i s sid t a 2)
      let I := (List.range 64).map ((viewAtIssue i s sid t).lane x.toNat)
      Runs i h s sid t ∧
      mdAkd D ≤ 1 ∧
      mdBkd D = mdAkd D ∧
      1 ≤ mdKg D ∧
      mdKg D ≤ (if mdAkd D = 1 then 16 else 4) ∧
      (∀ r ∈ aRanges D I ++ bRanges D, r.len = 0 ∨ r.off + r.len ≤ u.spadLen) ∧
      matrixFree s0 c false = true) ∧
    (∃ (h : Hdr) (d : AIdx) (a : SIdx) (x : VIdx) (s : State) (sid : Nat) (t : Team),
      let i := Instr.mma2 h d x a
      let u := teamAtIssue i s sid t
      let s0 := atIssue i s sid t
      let c := u.coreId
      let D : MDesc := BitVec.ofNat 128 (scalars i s sid t a 2)
      let I := (List.range 128).map ((viewAtIssue i s sid t).lane x.toNat)
      Runs i h s sid t ∧
      mdAkd D ≤ 1 ∧
      mdBkd D = mdAkd D ∧
      1 ≤ mdKg D ∧
      mdKg D ≤ (if mdAkd D = 1 then 16 else 4) ∧
      (∀ r ∈ aRanges D I ++ bRanges D, r.len = 0 ∨ r.off + r.len ≤ u.spadLen) ∧
      matrixFree s0 c true = true) ∧
    (∃ (h : Hdr) (d : AIdx) (a : SIdx) (x : VIdx) (s : State) (sid : Nat) (t : Team),
      let i := Instr.mma h d x a
      let D : MDesc := BitVec.ofNat 128 (scalars i s sid t a 2)
      Runs i h s sid t ∧
      mdAkd D ≤ 1 ∧
      mdBkd D ≤ 1 ∧
      mdAkd D ≠ mdBkd D ∧
      1 ≤ mdKg D ∧
      mdKg D ≤ 4) ∧
    (∃ (h : Hdr) (d : AIdx) (a : SIdx) (x : VIdx) (s : State) (sid : Nat) (t : Team),
      let i := Instr.mma2 h d x a
      let D : MDesc := BitVec.ofNat 128 (scalars i s sid t a 2)
      Runs i h s sid t ∧
      mdAkd D ≤ 1 ∧
      mdBkd D ≤ 1 ∧
      mdAkd D ≠ mdBkd D ∧
      1 ≤ mdKg D ∧
      mdKg D ≤ 4) ∧
    (∃ (h : Hdr) (d : AIdx) (v : BitVec 16) (s : State) (sid : Nat) (t : Team),
      let i := Instr.mzero h d v
      let u := teamAtIssue i s sid t
      let s0 := atIssue i s sid t
      let c := u.coreId
      Runs i h s sid t ∧
      matrixFree s0 c false = true) ∧
    (∃ (h : Hdr) (d : AIdx) (v : BitVec 16) (s : State) (sid : Nat) (t : Team),
      let i := Instr.mzero h d v
      let u := teamAtIssue i s sid t
      let s0 := atIssue i s sid t
      Runs i h s sid t ∧
      matrixFree s0 u.coreId false = false) ∧
    (∃ (h : Hdr) (d : AIdx) (a : SIdx) (bf : Bool) (spad : Bool) (s : State) (sid : Nat) (t : Team),
      let i := Instr.mload h bf spad d a
      let u := teamAtIssue i s sid t
      let s0 := atIssue i s sid t
      let c := u.coreId
      let D : MDesc := BitVec.ofNat 128 (scalars i s sid t a 2)
      let e := if bf then 2 else 4
      Runs i h s sid t ∧
      (spad = true ∨ u.region = none) ∧
      D.extractLsb' 96 16 = 0 ∧
      tdAddr D % e = 0 ∧
      tdPitch D % e = 0 ∧
      (∀ r, r < 64 → if spad then tdAddr D + r * tdPitch D + 64 * e ≤ u.spadLen else canonical (BitVec.ofNat 64 (tdAddr D + r * tdPitch D)) = true ∧ canonical (BitVec.ofNat 64 (tdAddr D + r * tdPitch D + 63 * e)) = true) ∧
      matrixFree s0 c false = true) ∧
    (∃ (h : Hdr) (d : AIdx) (a : SIdx) (bf : Bool) (add : Bool) (spad : Bool) (s : State) (sid : Nat) (t : Team),
      let i := Instr.mdrain h bf add spad d a
      let u := teamAtIssue i s sid t
      let s0 := atIssue i s sid t
      let c := u.coreId
      let D : MDesc := BitVec.ofNat 128 (scalars i s sid t a 2)
      let e := if bf then 2 else 4
      Runs i h s sid t ∧
      (spad = true ∨ u.region = none) ∧
      D.extractLsb' 96 16 = 0 ∧
      tdAddr D % e = 0 ∧
      tdPitch D % e = 0 ∧
      (∀ r, r < 64 → if spad then tdAddr D + r * tdPitch D + 64 * e ≤ u.spadLen else canonical (BitVec.ofNat 64 (tdAddr D + r * tdPitch D)) = true ∧ canonical (BitVec.ofNat 64 (tdAddr D + r * tdPitch D + 63 * e)) = true) ∧
      matrixFree s0 c false = true) :=
  ⟨⟨h0, 5, 4, 4, S64, 0, T64, runs_of (by decide +kernel), by decide +kernel⟩,
   ⟨h0, 5, 4, 4, demo TTwin, 0, TTwin, runs_of (by decide +kernel), by decide +kernel⟩,
   ⟨h0, 5, 4, 4, demo (withX [(4, 3 <<< 41 ||| 1 <<< 46)]), 0, withX [(4, 3 <<< 41 ||| 1 <<< 46)], runs_of (by decide +kernel), by decide +kernel⟩,
   ⟨h0, 5, 4, 4, demo (withXX [(4, 1 <<< 41), (5, 1 <<< 62)]), 0, withXX [(4, 1 <<< 41), (5, 1 <<< 62)], runs_of (by decide +kernel), by decide +kernel⟩,
   ⟨h0, 5, 9, S64, 0, T64, runs_of (by decide +kernel), by decide +kernel⟩,
   ⟨h0, 5, 9, SMatFull, 0, T64, runs_of (by decide +kernel), by decide +kernel⟩,
   ⟨h0, 5, 6, false, false, S64, 0, T64, runs_of (by decide +kernel), by decide +kernel⟩,
   ⟨h0, 5, 6, false, false, false, S64, 0, T64, runs_of (by decide +kernel), by decide +kernel⟩⟩

theorem witness_MatrixCounters :
    (∃ (h : Hdr) (d : SIdx) (x : AIdx) (s : State) (sid : Nat) (t : Team),
      let i := Instr.mver h d x
      Runs i h s sid t) ∧
    (∃ (h : Hdr) (x : AIdx) (b : VerOp) (s : State) (sid : Nat) (t : Team),
      let i := Instr.mwait h x b
      let u := teamAtIssue i s sid t
      let s0 := atIssue i s sid t
      let v : BitVec 16 := (match b with | .s n => (viewAtIssue i s sid t).sr n.toNat | .imm k => k.setWidth 64).setWidth 16
      Runs i h s sid t ∧
      (counterOf s0 u.coreId x.toNat = v ∨ u.mwaitHit = true)) ∧
    (∃ (h : Hdr) (x : AIdx) (b : VerOp) (s : State) (sid : Nat) (t : Team),
      let i := Instr.mwait h x b
      let u := teamAtIssue i s sid t
      let s0 := atIssue i s sid t
      let v : BitVec 16 := (match b with | .s n => (viewAtIssue i s sid t).sr n.toNat | .imm k => k.setWidth 64).setWidth 16
      Runs i h s sid t ∧
      counterOf s0 u.coreId x.toNat ≠ v ∧
      u.mwaitHit = false) ∧
    (∃ (h : Hdr) (s : State) (sid : Nat) (t : Team),
      let i := Instr.mfence h
      Runs i h s sid t) :=
  ⟨⟨h0, 4, 5, S0, 0, T0, runs_of (by decide +kernel)⟩,
   ⟨h0, 5, .imm 0, S0, 0, T0, runs_of (by decide +kernel), by decide +kernel⟩,
   ⟨h0, 5, .imm 1, S0, 0, T0, runs_of (by decide +kernel), by decide +kernel⟩,
   ⟨h0, S0, 0, T0, runs_of (by decide +kernel)⟩⟩

theorem witness_Barriers :
    (∃ (h : Hdr) (d : SIdx) (g : GrpOp) (s : State) (sid : Nat) (t : Team),
      let i := Instr.barv h d g
      let u := teamAtIssue i s sid t
      let s0 := atIssue i s sid t
      let k : Nat := match g with | .s n => ((viewAtIssue i s sid t).sr n.toNat).toNat | .imm x => x.toNat
      let p := (barrierOf s0 u.lid k).narrOf u.team
      Runs i h s sid t ∧
      u.region = none ∧
      k < groupCount s0 u.lid ∧
      inGroup s0 u.lid k u.team = true ∧
      p ≠ (barrierOf s0 u.lid k).cur + 1 ∧
      (∀ q ∈ s0.wq, q.sid ≠ sid)) ∧
    (∃ (h : Hdr) (d : SIdx) (g : GrpOp) (s : State) (sid : Nat) (t : Team),
      let i := Instr.barv h d g
      let u := teamAtIssue i s sid t
      let s0 := atIssue i s sid t
      let k : Nat := match g with | .s n => ((viewAtIssue i s sid t).sr n.toNat).toNat | .imm x => x.toNat
      Runs i h s sid t ∧
      u.region = none ∧
      k < groupCount s0 u.lid ∧
      inGroup s0 u.lid k u.team = true ∧
      (barrierOf s0 u.lid k).narrOf u.team = (barrierOf s0 u.lid k).cur + 1) ∧
    (∃ (h : Hdr) (d : SIdx) (g : GrpOp) (s : State) (sid : Nat) (t : Team),
      let i := Instr.barv h d g
      let u := teamAtIssue i s sid t
      let s0 := atIssue i s sid t
      let k : Nat := match g with | .s n => ((viewAtIssue i s sid t).sr n.toNat).toNat | .imm x => x.toNat
      Runs i h s sid t ∧
      u.region = none ∧
      groupCount s0 u.lid ≤ k) ∧
    (∃ (h : Hdr) (d : SIdx) (g : GrpOp) (s : State) (sid : Nat) (t : Team),
      let i := Instr.barv h d g
      let u := teamAtIssue i s sid t
      let s0 := atIssue i s sid t
      let k : Nat := match g with | .s n => ((viewAtIssue i s sid t).sr n.toNat).toNat | .imm x => x.toNat
      Runs i h s sid t ∧
      u.region = none ∧
      k < groupCount s0 u.lid ∧
      inGroup s0 u.lid k u.team = false) ∧
    (∃ (h : Hdr) (a : SIdx) (g : GrpOp) (s : State) (sid : Nat) (t : Team),
      let i := Instr.bexp h a g
      let u := teamAtIssue i s sid t
      let s0 := atIssue i s sid t
      let n : Nat := ((viewAtIssue i s sid t).sr a.toNat).toNat % 2 ^ 32
      let k : Nat := match g with | .s n => ((viewAtIssue i s sid t).sr n.toNat).toNat | .imm x => x.toNat
      let p := (barrierOf s0 u.lid k).narrOf u.team
      Runs i h s sid t ∧
      u.region = none ∧
      k < groupCount s0 u.lid ∧
      inGroup s0 u.lid k u.team = true ∧
      bytesToward s0 u.lid k p + n < 2 ^ 47) ∧
    (∃ (h : Hdr) (a : SIdx) (g : GrpOp) (s : State) (sid : Nat) (t : Team),
      let i := Instr.bexp h a g
      let u := teamAtIssue i s sid t
      let s0 := atIssue i s sid t
      let n : Nat := ((viewAtIssue i s sid t).sr a.toNat).toNat % 2 ^ 32
      let k : Nat := match g with | .s n => ((viewAtIssue i s sid t).sr n.toNat).toNat | .imm x => x.toNat
      let p := (barrierOf s0 u.lid k).narrOf u.team
      Runs i h s sid t ∧
      u.region = none ∧
      k < groupCount s0 u.lid ∧
      inGroup s0 u.lid k u.team = true ∧
      2 ^ 47 ≤ bytesToward s0 u.lid k p + n) ∧
    (∃ (h : Hdr) (a : SIdx) (s : State) (sid : Nat) (t : Team),
      let i := Instr.bwait h a
      let u := teamAtIssue i s sid t
      let s0 := atIssue i s sid t
      let x := (viewAtIssue i s sid t).sr a.toNat
      let k := (x.extractLsb' 16 8).toNat
      let b := barrierOf s0 u.lid k
      Runs i h s sid t ∧
      x.extractLsb' 24 40 = 0 ∧
      k < groupCount s0 u.lid ∧
      32768 ≤ (x.extractLsb' 0 16 - b.cur).toNat ∧
      (b.ovf = false ∨ x.extractLsb' 0 16 ≠ b.cur - 1)) ∧
    (∃ (h : Hdr) (a : SIdx) (s : State) (sid : Nat) (t : Team),
      let i := Instr.bwait h a
      let u := teamAtIssue i s sid t
      let s0 := atIssue i s sid t
      let x := (viewAtIssue i s sid t).sr a.toNat
      let k := (x.extractLsb' 16 8).toNat
      let b := barrierOf s0 u.lid k
      Runs i h s sid t ∧
      x.extractLsb' 24 40 = 0 ∧
      k < groupCount s0 u.lid ∧
      x.extractLsb' 0 16 = b.cur) ∧
    (∃ (h : Hdr) (a : SIdx) (s : State) (sid : Nat) (t : Team),
      let i := Instr.bwait h a
      let u := teamAtIssue i s sid t
      let s0 := atIssue i s sid t
      let x := (viewAtIssue i s sid t).sr a.toNat
      let k := (x.extractLsb' 16 8).toNat
      let b := barrierOf s0 u.lid k
      Runs i h s sid t ∧
      (x.extractLsb' 24 40 ≠ 0 ∨ groupCount s0 u.lid ≤ k ∨ (1 ≤ (x.extractLsb' 0 16 - b.cur).toNat ∧ (x.extractLsb' 0 16 - b.cur).toNat ≤ 32767))) ∧
    (∃ (h : Hdr) (a : SIdx) (s : State) (sid : Nat) (t : Team),
      let i := Instr.bwait h a
      let u := teamAtIssue i s sid t
      let s0 := atIssue i s sid t
      let x := (viewAtIssue i s sid t).sr a.toNat
      let k := (x.extractLsb' 16 8).toNat
      let b := barrierOf s0 u.lid k
      Runs i h s sid t ∧
      x.extractLsb' 24 40 = 0 ∧
      k < groupCount s0 u.lid ∧
      b.ovf = true ∧
      x.extractLsb' 0 16 = b.cur - 1) ∧
    (∃ (h : Hdr) (d : SIdx) (a : SIdx) (s : State) (sid : Nat) (t : Team),
      let i := Instr.btest h d a
      let u := teamAtIssue i s sid t
      let s0 := atIssue i s sid t
      let x := (viewAtIssue i s sid t).sr a.toNat
      let k := (x.extractLsb' 16 8).toNat
      let b := barrierOf s0 u.lid k
      Runs i h s sid t ∧
      x.extractLsb' 24 40 = 0 ∧
      k < groupCount s0 u.lid ∧
      32768 ≤ (x.extractLsb' 0 16 - b.cur).toNat ∧
      (b.ovf = false ∨ x.extractLsb' 0 16 ≠ b.cur - 1)) ∧
    (∃ (h : Hdr) (d : SIdx) (a : SIdx) (s : State) (sid : Nat) (t : Team),
      let i := Instr.btest h d a
      let u := teamAtIssue i s sid t
      let s0 := atIssue i s sid t
      let x := (viewAtIssue i s sid t).sr a.toNat
      let k := (x.extractLsb' 16 8).toNat
      let b := barrierOf s0 u.lid k
      Runs i h s sid t ∧
      x.extractLsb' 24 40 = 0 ∧
      k < groupCount s0 u.lid ∧
      x.extractLsb' 0 16 = b.cur) ∧
    (∃ (h : Hdr) (d : SIdx) (a : SIdx) (s : State) (sid : Nat) (t : Team),
      let i := Instr.btest h d a
      let u := teamAtIssue i s sid t
      let s0 := atIssue i s sid t
      let x := (viewAtIssue i s sid t).sr a.toNat
      let k := (x.extractLsb' 16 8).toNat
      let b := barrierOf s0 u.lid k
      Runs i h s sid t ∧
      (x.extractLsb' 24 40 ≠ 0 ∨ groupCount s0 u.lid ≤ k ∨ (1 ≤ (x.extractLsb' 0 16 - b.cur).toNat ∧ (x.extractLsb' 0 16 - b.cur).toNat ≤ 32767))) ∧
    (∃ (h : Hdr) (d : SIdx) (a : SIdx) (s : State) (sid : Nat) (t : Team),
      let i := Instr.btest h d a
      let u := teamAtIssue i s sid t
      let s0 := atIssue i s sid t
      let x := (viewAtIssue i s sid t).sr a.toNat
      let k := (x.extractLsb' 16 8).toNat
      let b := barrierOf s0 u.lid k
      Runs i h s sid t ∧
      x.extractLsb' 24 40 = 0 ∧
      k < groupCount s0 u.lid ∧
      b.ovf = true ∧
      x.extractLsb' 0 16 = b.cur - 1) ∧
    (∃ (h : Hdr) (a : SIdx) (g : GrpOp) (s : State) (sid : Nat) (t : Team),
      let i := Instr.bexp h a g
      let u := teamAtIssue i s sid t
      let s0 := atIssue i s sid t
      let k : Nat := match g with | .s n => ((viewAtIssue i s sid t).sr n.toNat).toNat | .imm x => x.toNat
      Runs i h s sid t ∧
      u.region = none ∧
      groupCount s0 u.lid ≤ k) ∧
    (∃ (h : Hdr) (a : SIdx) (g : GrpOp) (s : State) (sid : Nat) (t : Team),
      let i := Instr.bexp h a g
      let u := teamAtIssue i s sid t
      let s0 := atIssue i s sid t
      let k : Nat := match g with | .s n => ((viewAtIssue i s sid t).sr n.toNat).toNat | .imm x => x.toNat
      Runs i h s sid t ∧
      u.region = none ∧
      k < groupCount s0 u.lid ∧
      inGroup s0 u.lid k u.team = false) ∧
    (∃ (h : Hdr) (d : SIdx) (g : GrpOp) (s : State) (sid : Nat) (t : Team),
      let i := Instr.barv h d g
      let u := teamAtIssue i s sid t
      let s0 := atIssue i s sid t
      let k : Nat := match g with | .s n => ((viewAtIssue i s sid t).sr n.toNat).toNat | .imm x => x.toNat
      Runs i h s sid t ∧
      u.region = none ∧
      k < groupCount s0 u.lid ∧
      inGroup s0 u.lid k u.team = true ∧
      (barrierOf s0 u.lid k).narrOf u.team ≠ (barrierOf s0 u.lid k).cur + 1 ∧
      (∃ q ∈ s0.wq, q.sid = sid)) :=
  ⟨⟨h0, 4, .imm 0, SL T0 L0, 0, T0, runs_of (by decide +kernel), by decide +kernel⟩,
   ⟨h0, 4, .imm 0, SL T0 (LB fun b => { b with narr := [(0, 1)] }), 0, T0, runs_of (by decide +kernel), by decide +kernel⟩,
   ⟨h0, 4, .imm 1, SL T0 L0, 0, T0, runs_of (by decide +kernel), by decide +kernel⟩,
   ⟨h0, 4, .imm 0, SL T0 { L0 with groups := [⟨[1]⟩] }, 0, T0, runs_of (by decide +kernel), by decide +kernel⟩,
   ⟨h0, 4, .imm 0, SL T0 L0, 0, T0, runs_of (by decide +kernel), by decide +kernel⟩,
   ⟨h0, 4, .imm 0, SL T0 (LB fun b => { b with now := ⟨0, 2 ^ 47⟩ }), 0, T0, runs_of (by decide +kernel), by decide +kernel⟩,
   ⟨h0, 4, SL T0 (LB fun b => { b with cur := 32768 }), 0, T0, runs_of (by decide +kernel), by decide +kernel⟩,
   ⟨h0, 4, SL T0 L0, 0, T0, runs_of (by decide +kernel), by decide +kernel⟩,
   ⟨h0, 4, SL (withS [(4, 1)]) L0, 0, withS [(4, 1)], runs_of (by decide +kernel), by decide +kernel⟩,
   ⟨h0, 4, SL (withS [(4, 0xFFFF)]) (LB fun b => { b with ovf := true }), 0, withS [(4, 0xFFFF)], runs_of (by decide +kernel), by decide +kernel⟩,
   ⟨h0, 4, 4, SL T0 (LB fun b => { b with cur := 32768 }), 0, T0, runs_of (by decide +kernel), by decide +kernel⟩,
   ⟨h0, 4, 4, SL T0 L0, 0, T0, runs_of (by decide +kernel), by decide +kernel⟩,
   ⟨h0, 4, 4, SL (withS [(4, 1)]) L0, 0, withS [(4, 1)], runs_of (by decide +kernel), by decide +kernel⟩,
   ⟨h0, 4, 4, SL (withS [(4, 0xFFFF)]) (LB fun b => { b with ovf := true }), 0, withS [(4, 0xFFFF)], runs_of (by decide +kernel), by decide +kernel⟩,
   ⟨h0, 4, .imm 9, SL T0 L0, 0, T0, runs_of (by decide +kernel), by decide +kernel⟩,
   ⟨h0, 4, .imm 0, SL T0 { L0 with groups := [⟨[1]⟩] }, 0, T0, runs_of (by decide +kernel), by decide +kernel⟩,
   ⟨h0, 4, .imm 0, { SL T0 L0 with wq := [qw0] }, 0, T0, runs_of (by decide +kernel), by decide +kernel⟩⟩

theorem witness_PendingTeams :
    (∃ (h : Hdr) (g : BitVec 8) (k : BitVec 6) (s : State) (sid : Nat) (t : Team),
      let i := Instr.pend h g k
      let u := teamAtIssue i s sid t
      let s0 := atIssue i s sid t
      let p := (barrierOf s0 u.lid g.toNat).narrOf u.team
      let l := ({ L0 with carry := [0] } : Launch)
      Runs i h s sid t ∧
      u.pended = none ∧
      u.gang = false ∧
      u.region = none ∧
      u.window = none ∧
      pendCheck s0 u g.toNat k.toNat = none ∧
      p ≠ (barrierOf s0 u.lid g.toNat).cur + 1 ∧
      ownWork s0 sid u = false ∧
      s0.launch? u.lid = some l) ∧
    (∃ (h : Hdr) (g : BitVec 8) (k : BitVec 6) (s : State) (sid : Nat) (t : Team),
      let i := Instr.pend h g k
      let u := teamAtIssue i s sid t
      let s0 := atIssue i s sid t
      let q := 0
      let p := (1 : BitVec 16)
      let s1 := (writeVa hostUnit u.ctx (pendVa s0 u) 1 (phaseRecord s0 u 0 0 1) s0).1
      Runs i h s sid t ∧
      u.pended = some (q, p) ∧
      u.sb = [] ∧
      writeVa hostUnit u.ctx (pendVa s0 u) 1 (phaseRecord s0 u g.toNat k.toNat p) s0 = (s1, .ok ()) ∧
      Released s1 u) ∧
    (∃ (h : Hdr) (g : BitVec 8) (k : BitVec 6) (s : State) (sid : Nat) (t : Team),
      let i := Instr.pend h g k
      let u := teamAtIssue i s sid t
      Runs i h s sid t ∧
      u.pended = none ∧
      u.gang = true) ∧
    (∃ (h : Hdr) (g : BitVec 8) (k : BitVec 6) (s : State) (sid : Nat) (t : Team),
      let i := Instr.pend h g k
      let u := teamAtIssue i s sid t
      let q := 0
      let p := (1 : BitVec 16)
      let e := (⟨.s 6, 3, [], false, 0⟩ : Sb)
      let l := ([] : List Sb)
      Runs i h s sid t ∧
      u.pended = some (q, p) ∧
      u.sb = e :: l) :=
  ⟨⟨h0, 0, 0, SBind T0 { L0 with carry := [0] } bind0, 0, T0, runs_of (by decide +kernel), by decide +kernel⟩,
   ⟨h0, 0, 0, paged (SBind { T0 with pended := some (0, 1) } { L0 with carry := [0] } bind0), 0, { T0 with pended := some (0, 1) }, runs_of (by decide +kernel), by decide +kernel, by decide +kernel, answer_of (by decide +kernel), released_of (by decide +kernel)⟩,
   ⟨h0, 0, 0, demo { T0 with gang := true }, 0, { T0 with gang := true }, runs_of (by decide +kernel), by decide +kernel⟩,
   ⟨h0, 0, 0, demo { T0 with pended := some (0, 1), sb := [⟨.s 6, 3, [], false, 0⟩] }, 0, { T0 with pended := some (0, 1), sb := [⟨.s 6, 3, [], false, 0⟩] }, runs_of (by decide +kernel), by decide +kernel⟩⟩

theorem witness_Queues :
    (∃ (h : Hdr) (d : SIdx) (a : SIdx) (q : SI) (s : State) (sid : Nat) (t : Team),
      let i := Instr.qpush h d a q
      let u := teamAtIssue i s sid t
      let s0 := atIssue i s sid t
      Runs i h s sid t ∧
      u.region = none ∧
      (∀ q ∈ s0.wq, q.sid ≠ sid)) ∧
    (∃ (h : Hdr) (d : SIdx) (a : SIdx) (q : SI) (s : State) (sid : Nat) (t : Team),
      let i := Instr.qspawn h d a q
      let u := teamAtIssue i s sid t
      let s0 := atIssue i s sid t
      Runs i h s sid t ∧
      u.region = none ∧
      (∀ q ∈ s0.wq, q.sid ≠ sid)) ∧
    (∃ (h : Hdr) (d : SIdx) (q : SI) (s : State) (sid : Nat) (t : Team),
      let i := Instr.qpop h d q
      let u := teamAtIssue i s sid t
      let s0 := atIssue i s sid t
      let s1 := (popEntry 1 0 s0).1
      let s2 := (writeVa unitOf 1 0x20108 8 (leBytes 8 1) (releaseAt s1 (systemAccess sid u))).1
      let va := 0x20100
      let x := 0x55
      let k := 7
      let n := 0
      Runs i h s sid t ∧
      u.region = none ∧
      popEntry u.ctx (((viewAtIssue i s sid t).si q).toNat % 2 ^ 32) s0 = (s1, .ok (.ok (va, x, k, n))) ∧
      (∀ q ∈ s1.wq, q.sid ≠ sid) ∧
      writeVa unitOf u.ctx (va + 8) 8 (leBytes 8 (n + 1)) (releaseAt s1 (systemAccess sid u)) = (s2, .ok ()) ∧
      s2.team? sid = some u ∧
      k < 2 ^ 8) ∧
    (∃ (h : Hdr) (d : SIdx) (q : SI) (s : State) (sid : Nat) (t : Team),
      let i := Instr.qpop h d q
      let u := teamAtIssue i s sid t
      let s0 := atIssue i s sid t
      let s1 := (popEntry 1 0 SNoQueue).1
      let c := Cause.noQueue
      Runs i h s sid t ∧
      u.region = none ∧
      popEntry u.ctx (((viewAtIssue i s sid t).si q).toNat % 2 ^ 32) s0 = (s1, .ok (.error c)) ∧
      s1.teams = s0.teams) ∧
    (∃ (h : Hdr) (q : SI) (s : State) (sid : Nat) (t : Team),
      let i := Instr.qcancel h q
      let u := teamAtIssue i s sid t
      let s0 := atIssue i s sid t
      Runs i h s sid t ∧
      u.region = none ∧
      (s0.die u.die).cancels.length < 64) ∧
    (∃ (h : Hdr) (s : State) (sid : Nat) (t : Team),
      let i := Instr.lnext h
      let u := teamAtIssue i s sid t
      let s0 := atIssue i s sid t
      let l := L0
      Runs i h s sid t ∧
      u.region = none ∧
      s0.launch? u.lid = some l) ∧
    (∃ (h : Hdr) (s : State) (sid : Nat) (t : Team),
      let i := Instr.lwait h
      let u := teamAtIssue i s sid t
      let s0 := atIssue i s sid t
      Runs i h s sid t ∧
      u.region = none ∧
      predecessorLeft s0 u = true) ∧
    (∃ (h : Hdr) (s : State) (sid : Nat) (t : Team),
      let i := Instr.lwait h
      let u := teamAtIssue i s sid t
      let s0 := atIssue i s sid t
      Runs i h s sid t ∧
      u.region = none ∧
      predecessorLeft s0 u = false) ∧
    (∃ (h : Hdr) (d : SIdx) (q : SI) (s : State) (sid : Nat) (t : Team),
      let i := Instr.qpop h d q
      let u := teamAtIssue i s sid t
      let s0 := atIssue i s sid t
      let s1 := (popEntry 1 0 s0).1
      let x := ((0x20100, 0x55, 7, 0) : Nat × Nat × Nat × Nat)
      Runs i h s sid t ∧
      u.region = none ∧
      popEntry u.ctx (((viewAtIssue i s sid t).si q).toNat % 2 ^ 32) s0 = (s1, .ok (.ok x)) ∧
      s1.teams = s0.teams ∧
      (∃ q ∈ s1.wq, q.sid = sid) ∧
      s1.mem = s0.mem ∧
      s1.spad = s0.spad) :=
  ⟨⟨h0, 4, 4, .imm 0, S0, 0, T0, runs_of (by decide +kernel), by decide +kernel⟩,
   ⟨h0, 4, 4, .imm 0, S0, 0, T0, runs_of (by decide +kernel), by decide +kernel⟩,
   ⟨h0, 4, .imm 0, SQueue, 0, T0, runs_of (by decide +kernel), by decide +kernel, answer_of (by decide +kernel), by decide +kernel⟩,
   ⟨h0, 4, .imm 0, SNoQueue, 0, T0, runs_of (by decide +kernel), by decide +kernel, answer_of (by decide +kernel), by decide +kernel⟩,
   ⟨h0, .imm 0, S0, 0, T0, runs_of (by decide +kernel), by decide +kernel⟩,
   ⟨h0, SL T0 L0, 0, T0, runs_of (by decide +kernel), by decide +kernel⟩,
   ⟨h0, SL T0 { L0 with pred := some 9 }, 0, T0, runs_of (by decide +kernel), by decide +kernel⟩,
   ⟨h0, { SL T0 { L0 with pred := some 9 } with launches := [{ L0 with pred := some 9 }, { L0 with lid := 9 }] }, 0, T0, runs_of (by decide +kernel), by decide +kernel⟩,
   ⟨h0, 4, .imm 0, SQw, 0, T0, runs_of (by decide +kernel), by decide +kernel, answer_of (by decide +kernel), by decide +kernel⟩⟩

theorem witness_Deques :
    (∃ (h : Hdr) (d : SIdx) (a : SIdx) (v : SI) (s : State) (sid : Nat) (t : Team),
      let i := Instr.dpush h d a v
      let u := teamAtIssue i s sid t
      let s0 := atIssue i s sid t
      let va := ((viewAtIssue i s sid t).sr a.toNat).toNat
      let q := dequeOf (leBytes 64 (homeVal s0 u.ctx va 64))
      let n := (q.bottom + 2 ^ 64 - q.top) % 2 ^ 64
      let e := (q.buf + 8 * (q.bottom % 2 ^ q.log2)) % 2 ^ 64
      ScalarMem i h s sid t ∧
      fits u .global 64 (BitVec.ofNat 64 va) ∧
      Owned s0 u (va / 64) ∧
      Released s0 u ∧
      s0.tracked = [] ∧
      q.bad = false ∧
      n < 2 ^ q.log2 ∧
      e / 64 ≠ va / 64 ∧
      fits u .global 8 (BitVec.ofNat 64 e) ∧
      Owned s0 u (e / 64)) ∧
    (∃ (h : Hdr) (d : SIdx) (a : SIdx) (v : SI) (s : State) (sid : Nat) (t : Team),
      let i := Instr.dpush h d a v
      let u := teamAtIssue i s sid t
      let s0 := atIssue i s sid t
      let va := ((viewAtIssue i s sid t).sr a.toNat).toNat
      let q := dequeOf (leBytes 64 (homeVal s0 u.ctx va 64))
      let n := (q.bottom + 2 ^ 64 - q.top) % 2 ^ 64
      ScalarMem i h s sid t ∧
      fits u .global 64 (BitVec.ofNat 64 va) ∧
      Owned s0 u (va / 64) ∧
      Released s0 u ∧
      s0.tracked = [] ∧
      q.bad = false ∧
      n = 2 ^ q.log2) ∧
    (∃ (h : Hdr) (d : SIdx) (a : SIdx) (s : State) (sid : Nat) (t : Team),
      let i := Instr.dpop h d a
      let u := teamAtIssue i s sid t
      let s0 := atIssue i s sid t
      let va := ((viewAtIssue i s sid t).sr a.toNat).toNat
      let q := dequeOf (leBytes 64 (homeVal s0 u.ctx va 64))
      let n := (q.bottom + 2 ^ 64 - q.top) % 2 ^ 64
      let e := (q.buf + 8 * (((q.bottom + 2 ^ 64 - 1) % 2 ^ 64) % 2 ^ q.log2)) % 2 ^ 64
      ScalarMem i h s sid t ∧
      fits u .global 64 (BitVec.ofNat 64 va) ∧
      Owned s0 u (va / 64) ∧
      Released s0 u ∧
      s0.tracked = [] ∧
      q.bad = false ∧
      0 < n ∧
      e / 64 ≠ va / 64 ∧
      fits u .global 8 (BitVec.ofNat 64 e) ∧
      Owned s0 u (e / 64)) ∧
    (∃ (h : Hdr) (d : SIdx) (a : SIdx) (s : State) (sid : Nat) (t : Team),
      let i := Instr.dpop h d a
      let u := teamAtIssue i s sid t
      let s0 := atIssue i s sid t
      let va := ((viewAtIssue i s sid t).sr a.toNat).toNat
      let q := dequeOf (leBytes 64 (homeVal s0 u.ctx va 64))
      let n := (q.bottom + 2 ^ 64 - q.top) % 2 ^ 64
      ScalarMem i h s sid t ∧
      fits u .global 64 (BitVec.ofNat 64 va) ∧
      Owned s0 u (va / 64) ∧
      Released s0 u ∧
      s0.tracked = [] ∧
      q.bad = false ∧
      n = 0) ∧
    (∃ (h : Hdr) (d : SIdx) (a : SIdx) (s : State) (sid : Nat) (t : Team),
      let i := Instr.dsteal h d a
      let u := teamAtIssue i s sid t
      let s0 := atIssue i s sid t
      let va := ((viewAtIssue i s sid t).sr a.toNat).toNat
      let q := dequeOf (leBytes 64 (homeVal s0 u.ctx va 64))
      let n := (q.bottom + 2 ^ 64 - q.top) % 2 ^ 64
      let e := (q.buf + 8 * (q.top % 2 ^ q.log2)) % 2 ^ 64
      ScalarMem i h s sid t ∧
      fits u .global 64 (BitVec.ofNat 64 va) ∧
      Owned s0 u (va / 64) ∧
      Released s0 u ∧
      s0.tracked = [] ∧
      q.bad = false ∧
      0 < n ∧
      e / 64 ≠ va / 64 ∧
      fits u .global 8 (BitVec.ofNat 64 e) ∧
      Owned s0 u (e / 64)) ∧
    (∃ (h : Hdr) (d : SIdx) (a : SIdx) (s : State) (sid : Nat) (t : Team),
      let i := Instr.dsteal h d a
      let u := teamAtIssue i s sid t
      let s0 := atIssue i s sid t
      let va := ((viewAtIssue i s sid t).sr a.toNat).toNat
      let q := dequeOf (leBytes 64 (homeVal s0 u.ctx va 64))
      let n := (q.bottom + 2 ^ 64 - q.top) % 2 ^ 64
      ScalarMem i h s sid t ∧
      fits u .global 64 (BitVec.ofNat 64 va) ∧
      Owned s0 u (va / 64) ∧
      Released s0 u ∧
      s0.tracked = [] ∧
      q.bad = false ∧
      n = 0) ∧
    (∃ (h : Hdr) (d : SIdx) (a : SIdx) (s : State) (sid : Nat) (t : Team),
      let i := Instr.dsteal h d a
      let u := teamAtIssue i s sid t
      let s0 := atIssue i s sid t
      let va := ((viewAtIssue i s sid t).sr a.toNat).toNat
      let q := dequeOf (leBytes 64 (homeVal s0 u.ctx va 64))
      ScalarMem i h s sid t ∧
      fits u .global 64 (BitVec.ofNat 64 va) ∧
      Owned s0 u (va / 64) ∧
      Released s0 u ∧
      s0.tracked = [] ∧
      q.bad = true) ∧
    (∃ (h : Hdr) (d : SIdx) (a : SIdx) (s : State) (sid : Nat) (t : Team),
      let i := Instr.dpop h d a
      let u := teamAtIssue i s sid t
      let s0 := atIssue i s sid t
      let va := ((viewAtIssue i s sid t).sr a.toNat).toNat
      let q := dequeOf (leBytes 64 (homeVal s0 u.ctx va 64))
      ScalarMem i h s sid t ∧
      fits u .global 64 (BitVec.ofNat 64 va) ∧
      Owned s0 u (va / 64) ∧
      Released s0 u ∧
      s0.tracked = [] ∧
      q.bad = true) ∧
    (∃ (h : Hdr) (d : SIdx) (a : SIdx) (v : SI) (s : State) (sid : Nat) (t : Team),
      let i := Instr.dpush h d a v
      let u := teamAtIssue i s sid t
      let s0 := atIssue i s sid t
      let va := ((viewAtIssue i s sid t).sr a.toNat).toNat
      let q := dequeOf (leBytes 64 (homeVal s0 u.ctx va 64))
      ScalarMem i h s sid t ∧
      fits u .global 64 (BitVec.ofNat 64 va) ∧
      Owned s0 u (va / 64) ∧
      Released s0 u ∧
      s0.tracked = [] ∧
      q.bad = true) :=
  ⟨⟨h0, 4, 8, .imm 0, SDeque 0 0 1, 0, TG, scalarMem_of (by decide +kernel), fits_of (by decide +kernel), owned_of (by decide +kernel), released_of (by decide +kernel), by decide +kernel, by decide +kernel, by decide +kernel, by decide +kernel, fits_of (by decide +kernel), owned_of (by decide +kernel)⟩,
   ⟨h0, 4, 8, .imm 0, SDeque 2 0 1, 0, TG, scalarMem_of (by decide +kernel), fits_of (by decide +kernel), owned_of (by decide +kernel), released_of (by decide +kernel), by decide +kernel⟩,
   ⟨h0, 4, 8, SDeque 1 0 1, 0, TG, scalarMem_of (by decide +kernel), fits_of (by decide +kernel), owned_of (by decide +kernel), released_of (by decide +kernel), by decide +kernel, by decide +kernel, by decide +kernel, by decide +kernel, fits_of (by decide +kernel), owned_of (by decide +kernel)⟩,
   ⟨h0, 4, 8, SDeque 1 1 1, 0, TG, scalarMem_of (by decide +kernel), fits_of (by decide +kernel), owned_of (by decide +kernel), released_of (by decide +kernel), by decide +kernel⟩,
   ⟨h0, 4, 8, SDeque 1 0 1, 0, TG, scalarMem_of (by decide +kernel), fits_of (by decide +kernel), owned_of (by decide +kernel), released_of (by decide +kernel), by decide +kernel, by decide +kernel, by decide +kernel, by decide +kernel, fits_of (by decide +kernel), owned_of (by decide +kernel)⟩,
   ⟨h0, 4, 8, SDeque 1 1 1, 0, TG, scalarMem_of (by decide +kernel), fits_of (by decide +kernel), owned_of (by decide +kernel), released_of (by decide +kernel), by decide +kernel⟩,
   ⟨h0, 4, 8, SDeque 0 0 0, 0, TG, scalarMem_of (by decide +kernel), fits_of (by decide +kernel), owned_of (by decide +kernel), released_of (by decide +kernel), by decide +kernel⟩,
   ⟨h0, 4, 8, SDeque 0 0 0, 0, TG, scalarMem_of (by decide +kernel), fits_of (by decide +kernel), owned_of (by decide +kernel), released_of (by decide +kernel), by decide +kernel⟩,
   ⟨h0, 4, 8, .imm 0, SDeque 0 0 0, 0, TG, scalarMem_of (by decide +kernel), fits_of (by decide +kernel), owned_of (by decide +kernel), released_of (by decide +kernel), by decide +kernel⟩⟩

theorem witness_VentWindows :
    (∃ (h : Hdr) (d : SIdx) (a : SIdx) (b : SI) (s : State) (sid : Nat) (t : Team),
      let i := Instr.nmopen h d a b
      let u := teamAtIssue i s sid t
      let s0 := atIssue i s sid t
      let base := ((viewAtIssue i s sid t).sr a.toNat).toNat
      let len := ((viewAtIssue i s sid t).sr (a.toNat + 1)).toNat
      let g := ((viewAtIssue i s sid t).si b).toNat
      let s1 := (translate (releaseAt s0 (deviceAccess sid u)) (unitOf base) 1 0x20000 .read).1
      let tr := tr0
      let dpa := 0x20000
      Runs i h s sid t ∧
      u.region = none ∧
      u.window = none ∧
      u.pf = none ∧
      g < groupCount s0 u.lid ∧
      base % 64 = 0 ∧
      len % 64 = 0 ∧
      len ≠ 0 ∧
      canonical (BitVec.ofNat 64 base) = true ∧
      base + len - 1 < 2 ^ 64 ∧
      canonical (BitVec.ofNat 64 (base + len - 1)) = true ∧
      (∀ q ∈ s0.wq, q.sid ≠ sid) ∧
      windowWait s0 u base = none ∧
      translate (releaseAt s0 (deviceAccess sid u)) (unitOf base) u.ctx (BitVec.ofNat 64 base) .read = (s1, .ok tr) ∧
      s1.team? sid = some u ∧
      s1.windows = s0.windows ∧
      tr.peer = none ∧
      dpaOf s1 (lineAt tr (base / 64)) = some dpa ∧
      s0.windows.length < 64) ∧
    (∃ (h : Hdr) (d : SIdx) (a : SIdx) (b : SI) (s : State) (sid : Nat) (t : Team),
      let i := Instr.nmopen h d a b
      let u := teamAtIssue i s sid t
      let s0 := atIssue i s sid t
      let base := ((viewAtIssue i s sid t).sr a.toNat).toNat
      let len := ((viewAtIssue i s sid t).sr (a.toNat + 1)).toNat
      let g := ((viewAtIssue i s sid t).si b).toNat
      let s1 := (translate (releaseAt s0 (deviceAccess sid u)) (unitOf base) 1 0x20000 .read).1
      let tr := tr0
      Runs i h s sid t ∧
      u.region = none ∧
      u.window = none ∧
      u.pf = none ∧
      g < groupCount s0 u.lid ∧
      base % 64 = 0 ∧
      len % 64 = 0 ∧
      len ≠ 0 ∧
      canonical (BitVec.ofNat 64 base) = true ∧
      base + len - 1 < 2 ^ 64 ∧
      canonical (BitVec.ofNat 64 (base + len - 1)) = true ∧
      (∀ q ∈ s0.wq, q.sid ≠ sid) ∧
      windowWait s0 u base = none ∧
      translate (releaseAt s0 (deviceAccess sid u)) (unitOf base) u.ctx (BitVec.ofNat 64 base) .read = (s1, .ok tr) ∧
      s1.team? sid = some u ∧
      s1.windows = s0.windows ∧
      (tr.peer ≠ none ∨ dpaOf s1 (lineAt tr (base / 64)) = none)) ∧
    (∃ (h : Hdr) (d : SIdx) (a : SIdx) (b : SI) (s : State) (sid : Nat) (t : Team),
      let i := Instr.nmopen h d a b
      let u := teamAtIssue i s sid t
      Runs i h s sid t ∧
      u.region = none ∧
      u.window ≠ none) ∧
    (∃ (h : Hdr) (a : SIdx) (e : BitVec 32) (s : State) (sid : Nat) (t : Team),
      let i := Instr.nmcall h a e
      let u := teamAtIssue i s sid t
      let s0 := atIssue i s sid t
      let k := 5
      let w := win0
      Runs i h s sid t ∧
      u.region = none ∧
      u.window = some k ∧
      s0.window? k = some w ∧
      w.num = k ∧
      e.toNat ≤ 63 ∧
      openCalls w < 32 ∧
      queuedCalls w < 64) ∧
    (∃ (h : Hdr) (a : SIdx) (e : BitVec 32) (s : State) (sid : Nat) (t : Team),
      let i := Instr.nmcall h a e
      let u := teamAtIssue i s sid t
      let s0 := atIssue i s sid t
      let k := 5
      let w := ({ win0 with queue := List.replicate 32 callItem } : Window)
      Runs i h s sid t ∧
      u.region = none ∧
      u.window = some k ∧
      s0.window? k = some w ∧
      w.num = k ∧
      e.toNat ≤ 63 ∧
      32 ≤ openCalls w) ∧
    (∃ (h : Hdr) (a : SIdx) (e : BitVec 32) (s : State) (sid : Nat) (t : Team),
      let i := Instr.nmcall h a e
      let u := teamAtIssue i s sid t
      Runs i h s sid t ∧
      u.region = none ∧
      u.window = none) ∧
    (∃ (h : Hdr) (d : SIdx) (k : CommitImm) (s : State) (sid : Nat) (t : Team),
      let i := Instr.nmcommit h d k
      let u := teamAtIssue i s sid t
      let s0 := atIssue i s sid t
      let n := 5
      let w := ({ win0 with queue := [callItem] } : Window)
      Runs i h s sid t ∧
      u.region = none ∧
      u.window = some n ∧
      s0.window? n = some w ∧
      w.num = n ∧
      (k.count = true → k.group.toNat < groupCount s0 u.lid) ∧
      w.failed = none ∧
      secCalls w ≠ []) ∧
    (∃ (h : Hdr) (d : SIdx) (k : CommitImm) (s : State) (sid : Nat) (t : Team),
      let i := Instr.nmcommit h d k
      let u := teamAtIssue i s sid t
      Runs i h s sid t ∧
      u.region = none ∧
      u.window = none) ∧
    (∃ (h : Hdr) (d : SIdx) (e : BitVec 32) (s : State) (sid : Nat) (t : Team),
      let i := Instr.nmstat h d e
      let u := teamAtIssue i s sid t
      let s0 := atIssue i s sid t
      let k := 5
      let w := win0
      Runs i h s sid t ∧
      u.window = some k ∧
      s0.window? k = some w ∧
      w.num = k ∧
      e.toNat ≤ 7) ∧
    (∃ (h : Hdr) (d : SIdx) (e : BitVec 32) (s : State) (sid : Nat) (t : Team),
      let i := Instr.nmstat h d e
      let u := teamAtIssue i s sid t
      let s0 := atIssue i s sid t
      let k := 5
      let w := win0
      Runs i h s sid t ∧
      u.window = some k ∧
      s0.window? k = some w ∧
      w.num = k ∧
      7 < e.toNat) ∧
    (∃ (h : Hdr) (d : SIdx) (s : State) (sid : Nat) (t : Team),
      let i := Instr.nmclose h d
      let u := teamAtIssue i s sid t
      let s0 := atIssue i s sid t
      let k := 5
      let w := win0
      Runs i h s sid t ∧
      u.region = none ∧
      u.window = some k ∧
      s0.window? k = some w ∧
      w.num = k ∧
      u.key = w.tkey ∧
      commitQueued w = false) ∧
    (∃ (h : Hdr) (d : SIdx) (s : State) (sid : Nat) (t : Team),
      let i := Instr.nmclose h d
      let u := teamAtIssue i s sid t
      let s0 := atIssue i s sid t
      let k := 5
      let w := ({ win0 with queue := [callItem, .commit ⟨false, 0, 0⟩ 4 0] } : Window)
      Runs i h s sid t ∧
      u.region = none ∧
      u.window = some k ∧
      s0.window? k = some w ∧
      w.num = k ∧
      commitQueued w = true) ∧
    (∃ (h : Hdr) (d : SIdx) (a : SIdx) (s : State) (sid : Nat) (t : Team),
      let i := Instr.wcsld h d a
      let u := teamAtIssue i s sid t
      let s0 := atIssue i s sid t
      let va := (viewAtIssue i s sid t).sr a.toNat
      let v := ((viewAtIssue i s sid t).sr (a.toNat + 1)).toNat % 512
      let s1 := (readWeak s0 { sid := 0, core := 0, ctx := 1, scope := .team, pol := false } 0x20000 4608).1
      let bs := got (readWeak s0 { sid := 0, core := 0, ctx := 1, scope := .team, pol := false } 0x20000 4608).2
      Runs i h s sid t ∧
      u.pf = none ∧
      (∀ r, u.region = some r → r.ending = false) ∧
      va.toNat % 64 = 0 ∧
      (∀ j, j < 72 → canonical (va + BitVec.ofNat 64 (64 * j)) = true) ∧
      (s0.vent v).run = none ∧
      (∀ w ∈ s0.windows, w.vent = v → queuedCalls w = 0) ∧
      held s0 u va.toNat 4608 false = false ∧
      readWeak s0 { sid := sid, core := u.coreId, ctx := u.ctx, scope := .team, pol := false } va.toNat 4608 = (s1, .ok bs) ∧
      s1.teams = s0.teams) ∧
    (∃ (h : Hdr) (d : SIdx) (a : SIdx) (s : State) (sid : Nat) (t : Team),
      let i := Instr.wcsld h d a
      let u := teamAtIssue i s sid t
      let s0 := atIssue i s sid t
      let v := ((viewAtIssue i s sid t).sr (a.toNat + 1)).toNat % 512
      Runs i h s sid t ∧
      ((viewAtIssue i s sid t).sr a.toNat).toNat % 64 = 0 ∧
      (∀ r, u.region = some r → r.ending = false) ∧
      (s0.vent v).run ≠ none) ∧
    (∃ (h : Hdr) (d : SIdx) (a : SIdx) (s : State) (sid : Nat) (t : Team),
      let i := Instr.wcsld h d a
      let u := teamAtIssue i s sid t
      let r := ({ view0 with ending := true } : RegionView)
      Runs i h s sid t ∧
      ((viewAtIssue i s sid t).sr a.toNat).toNat % 64 = 0 ∧
      u.region = some r ∧
      r.ending = true) ∧
    (∃ (h : Hdr) (d : SIdx) (a : SIdx) (b : SI) (s : State) (sid : Nat) (t : Team),
      let i := Instr.nmopen h d a b
      let u := teamAtIssue i s sid t
      let s0 := atIssue i s sid t
      let base := ((viewAtIssue i s sid t).sr a.toNat).toNat
      let len := ((viewAtIssue i s sid t).sr (a.toNat + 1)).toNat
      Runs i h s sid t ∧
      u.region = none ∧
      u.window = none ∧
      openCheck s0 u (((viewAtIssue i s sid t).si b).toNat) base len = none ∧
      64 ≤ s0.windows.length) ∧
    (∃ (h : Hdr) (d : SIdx) (a : SIdx) (b : SI) (s : State) (sid : Nat) (t : Team),
      let i := Instr.nmopen h d a b
      let u := teamAtIssue i s sid t
      let s0 := atIssue i s sid t
      let base := ((viewAtIssue i s sid t).sr a.toNat).toNat
      let len := ((viewAtIssue i s sid t).sr (a.toNat + 1)).toNat
      let s1 := (translate (releaseAt s0 (deviceAccess sid u)) (unitOf base) u.ctx (BitVec.ofNat 64 base) .read).1
      let f := errOr (.absent false) (translate (releaseAt s0 (deviceAccess sid u)) (unitOf base) u.ctx (BitVec.ofNat 64 base) .read).2
      Runs i h s sid t ∧
      u.region = none ∧
      u.window = none ∧
      u.pf = none ∧
      openCheck s0 u (((viewAtIssue i s sid t).si b).toNat) base len = none ∧
      canonical (BitVec.ofNat 64 base) = true ∧
      (∀ q ∈ s0.wq, q.sid ≠ sid) ∧
      windowWait s0 u base = none ∧
      translate (releaseAt s0 (deviceAccess sid u)) (unitOf base) u.ctx (BitVec.ofNat 64 base) .read = (s1, .error f)) ∧
    (∃ (h : Hdr) (d : SIdx) (a : SIdx) (s : State) (sid : Nat) (t : Team),
      let i := Instr.wcsld h d a
      let u := teamAtIssue i s sid t
      let s0 := atIssue i s sid t
      let va := (viewAtIssue i s sid t).sr a.toNat
      let v := ((viewAtIssue i s sid t).sr (a.toNat + 1)).toNat % 512
      Runs i h s sid t ∧
      u.pf = none ∧
      (∀ r, u.region = some r → r.ending = false) ∧
      va.toNat % 64 = 0 ∧
      (∀ j, j < 72 → canonical (va + BitVec.ofNat 64 (64 * j)) = true) ∧
      (s0.vent v).run = none ∧
      (∀ w ∈ s0.windows, w.vent = v → queuedCalls w = 0) ∧
      held s0 u va.toNat 4608 false = true) :=
  ⟨⟨h0, 4, 6, .imm 0, SOpen, 0, TOpen, runs_of (by decide +kernel), and6 (by decide +kernel) ⟨by decide +kernel, by decide +kernel, by decide +kernel, by decide +kernel, by decide +kernel, by decide +kernel, answer_of (by decide +kernel), by decide +kernel⟩⟩,
   ⟨h0, 4, 6, .imm 0, paged (SL TOpen L0), 0, TOpen, runs_of (by decide +kernel), and6 (by decide +kernel) ⟨by decide +kernel, by decide +kernel, by decide +kernel, by decide +kernel, by decide +kernel, by decide +kernel, answer_of (by decide +kernel), by decide +kernel⟩⟩,
   ⟨h0, 4, 6, .imm 0, SW win0, 0, TW, runs_of (by decide +kernel), by decide +kernel⟩,
   ⟨h0, 6, 2, SW win0, 0, TW, runs_of (by decide +kernel), by decide +kernel⟩,
   ⟨h0, 6, 2, SW { win0 with queue := List.replicate 32 callItem }, 0, TW, runs_of (by decide +kernel), by decide +kernel⟩,
   ⟨h0, 6, 2, S0, 0, T0, runs_of (by decide +kernel), by decide +kernel⟩,
   ⟨h0, 4, ⟨false, 0, 0⟩, SW { win0 with queue := [callItem] }, 0, TW, runs_of (by decide +kernel), by decide +kernel⟩,
   ⟨h0, 4, ⟨false, 0, 0⟩, S0, 0, T0, runs_of (by decide +kernel), by decide +kernel⟩,
   ⟨h0, 4, 2, SW win0, 0, TW, runs_of (by decide +kernel), by decide +kernel⟩,
   ⟨h0, 4, 8, SW win0, 0, TW, runs_of (by decide +kernel), by decide +kernel⟩,
   ⟨h0, 4, SW win0, 0, TW, runs_of (by decide +kernel), by decide +kernel⟩,
   ⟨h0, 4, SW { win0 with queue := [callItem, .commit ⟨false, 0, 0⟩ 4 0] }, 0, TW, runs_of (by decide +kernel), by decide +kernel⟩,
   ⟨h0, 4, 8, SWcs, 0, TG, runs_of (by decide +kernel), and6 (by decide +kernel) ⟨by decide +kernel, got_of (by decide +kernel), by decide +kernel⟩⟩,
   ⟨h0, 4, 8, SWcsBusy, 0, TG, runs_of (by decide +kernel), by decide +kernel⟩,
   ⟨h0, 4, 8, SWcsEnd, 0, TEndG, runs_of (by decide +kernel), by decide +kernel⟩,
   ⟨h0, 4, 6, .imm 0, SManyWin, 0, TOpen, runs_of (by decide +kernel), by decide +kernel⟩,
   ⟨h0, 4, 6, .imm 0, SNoPage, 0, TOpen, runs_of (by decide +kernel), and6 (by decide +kernel) ⟨by decide +kernel, err_of (by decide +kernel)⟩⟩,
   ⟨h0, 4, 8, SWcsHeld, 0, TG, runs_of (by decide +kernel), by decide +kernel⟩⟩

theorem witness_VentCalls :
    (∃ (s : State) (x : Vent) (w : Window) (r : VentRun) (a0 : Word) (a1 : Word),
      x.library = true ∧
      VentRoom r (4 * a1.toNat) ∧
      a0.toNat % 4 = 0 ∧
      VentReaches s w .write a0.toNat (4 * a1.toNat)) ∧
    (∃ (s : State) (x : Vent) (w : Window) (r : VentRun) (a0 : Word) (a1 : Word) (a2 : Word),
      x.library = true ∧
      VentRoom r a2.toNat ∧
      VentReaches s w .write a0.toNat a2.toNat ∧
      VentReaches s w .read a1.toNat a2.toNat) ∧
    (∃ (s : State) (x : Vent) (w : Window) (r : VentRun) (a0 : Word) (a1 : Word) (a2 : Word),
      x.library = true ∧
      VentRoom r (4 * a2.toNat) ∧
      a0.toNat % 4 = 0 ∧
      a1.toNat % 4 = 0 ∧
      VentReaches s w .write a0.toNat (4 * a2.toNat) ∧
      VentReaches s w .read a1.toNat (4 * a2.toNat) ∧
      (a0 = a1 ∨ Separate a0.toNat (4 * a2.toNat) a1.toNat (4 * a2.toNat))) ∧
    (∃ (s : State) (x : Vent) (w : Window) (r : VentRun) (a0 : Word) (a1 : Word) (a2 : Word),
      x.library = true ∧
      VentRoom r (4 * a2.toNat) ∧
      a0.toNat % 4 = 0 ∧
      a1.toNat % 4 = 0 ∧
      VentReaches s w .write a0.toNat (4 * a2.toNat) ∧
      VentReaches s w .read a0.toNat (4 * a2.toNat) ∧
      VentReaches s w .read a1.toNat (4 * a2.toNat) ∧
      (a0 = a1 ∨ Separate a0.toNat (4 * a2.toNat) a1.toNat (4 * a2.toNat))) ∧
    (∃ (s : State) (x : Vent) (w : Window) (r : VentRun) (a0 : Word) (a1 : Word) (a2 : Word),
      let n := a2.toNat
      x.library = true ∧
      VentRoom r (8 * n) ∧
      a0.toNat % 4 = 0 ∧
      a1.toNat % 4 = 0 ∧
      VentReaches s w .write a0.toNat (8 * n) ∧
      VentReaches s w .read a0.toNat (8 * n) ∧
      VentReaches s w .read a1.toNat (4 * n) ∧
      Separate a0.toNat (8 * n) a1.toNat (4 * n)) ∧
    (∃ (s : State) (x : Vent) (w : Window) (r : VentRun) (a0 : Word) (a1 : Word) (a2 : Word),
      let n := a2.toNat
      x.library = true ∧
      VentRoom r (12 * n) ∧
      a0.toNat % 4 = 0 ∧
      a1.toNat % 4 = 0 ∧
      VentReaches s w .write a0.toNat (12 * n) ∧
      VentReaches s w .read a0.toNat (12 * n) ∧
      VentReaches s w .read a1.toNat (4 * n) ∧
      Separate a0.toNat (12 * n) a1.toNat (4 * n)) ∧
    (∃ (s : State) (x : Vent) (w : Window) (r : VentRun) (a0 : Word) (a1 : Word) (a2 : Word) (a3 : Word) (a4 : Word) (a5 : Word),
      let n := a4.toNat
      let row (i : Nat) := a1.toNat + ventWord s w r (a2.toNat + 4 * i) * a5.toNat
      x.library = true ∧
      VentRoom r (4 * n) ∧
      a0.toNat % 4 = 0 ∧
      a2.toNat % 4 = 0 ∧
      VentReaches s w .write a0.toNat (4 * n) ∧
      VentReaches s w .read a2.toNat (4 * a3.toNat) ∧
      Separate a0.toNat (4 * n) a2.toNat (4 * a3.toNat) ∧
      (∀ i, i < a3.toNat → row i % 4 = 0 ∧ VentReaches s w .read (row i) (4 * n) ∧ Separate a0.toNat (4 * n) (row i) (4 * n))) ∧
    (∃ (s : State) (x : Vent) (w : Window) (r : VentRun) (a0 : Word) (a1 : Word) (a2 : Word) (a3 : Word),
      let n := hi32 a3
      x.library = true ∧
      VentRoom r (4 * n) ∧
      a0.toNat % 4 = 0 ∧
      a1.toNat % 4 = 0 ∧
      VentReaches s w .write a0.toNat (4 * n) ∧
      VentReaches s w .read a0.toNat (4 * n) ∧
      VentReaches s w .read a1.toNat (4 * a2.toNat) ∧
      Separate a0.toNat (4 * n) a1.toNat (4 * a2.toNat)) ∧
    (∃ (x : Vent),
      let e := 9
      x.library = true ∧
      8 ≤ e) ∧
    (∃ (x : Vent) (a0 : Word) (a1 : Word) (a2 : Word) (a3 : Word) (a4 : Word),
      let e : Word := (0 : Word)
      x.library = true ∧
      ((e.toNat = 0 ∧ a1 ≠ 0 ∧ a0.toNat % 4 ≠ 0) ∨ (e.toNat ∈ [2, 3, 4, 5, 7] ∧ a2 ≠ 0 ∧ a1.toNat % 4 ≠ 0) ∨ (e.toNat = 6 ∧ a3 ≠ 0 ∧ a4 ≠ 0 ∧ a2.toNat % 4 ≠ 0))) ∧
    (let l := 3
    l < 16) ∧
    (∃ (m : Micro),
      m.b.length = 8) ∧
    (∃ (s : State) (w : Window) (r : VentRun) (u : BitVec 128) (m : Micro),
      let a := (m.mr (u.extractLsb' 111 4).toNat).toNat
      (u.extractLsb' 115 2).toNat = 1 ∧
      a % 64 = 0 ∧
      VentRoom r 0 ∧
      VentReaches s w .read a 64 ∧
      m.b.length = 8) ∧
    (∃ (s : State) (w : Window) (r : VentRun) (u : BitVec 128) (m : Micro),
      let a := (m.mr (u.extractLsb' 111 4).toNat).toNat
      (u.extractLsb' 115 2).toNat = 2 ∧
      a % 64 = 0 ∧
      VentRoom r 64 ∧
      VentReaches s w .write a 64) ∧
    (∃ (s : State) (w : Window) (r : VentRun) (u : BitVec 128) (m : Micro),
      let a := (m.mr (u.extractLsb' 111 4).toNat).toNat
      (u.extractLsb' 115 2).toNat = 3 ∧
      a % 4 = 0 ∧
      VentRoom r 0 ∧
      VentReaches s w .read a 4) ∧
    (∃ (w : Window) (u : BitVec 128) (m : Micro),
      let st := ([] : Tab (BitVec 128))
      let fev := false
      let p := (SVent winC (some run0), run0)
      let p1 := (SVent winC (some run0), run0)
      let p2 := (SVent winC (some run0), run0)
      let m1 := micro0
      let m2 := micro0
      let m3 := micro0
      Tab.get 0 st m.at_ = u ∧
      (u.extractLsb' 117 3).toNat < 5 ∧
      microMem w u m p = (p1, .ok m1) ∧
      microVec fev u m1 p1 = (p2, .ok m2) ∧
      microSca u m2 = .ok m3 ∧
      p2.2.todo = []) ∧
    (let args := callArgs
    args.length = 6) :=
  ⟨⟨SVent winC (some run0), ventL, winC, run0, 0x20000, 1, by decide +kernel, ⟨rfl, rfl, rfl, by decide +kernel⟩, by decide +kernel, ventReaches_of (by decide +kernel)⟩,
   ⟨SVent winC (some run0), ventL, winC, run0, 0x20003, 0x20001, 3, by decide +kernel, ⟨rfl, rfl, rfl, by decide +kernel⟩, ventReaches_of (by decide +kernel), ventReaches_of (by decide +kernel)⟩,
   ⟨SVent winC (some run0), ventL, winC, run0, 0x20000, 0x20000, 1, by decide +kernel, ⟨rfl, rfl, rfl, by decide +kernel⟩, by decide +kernel, by decide +kernel, ventReaches_of (by decide +kernel), ventReaches_of (by decide +kernel), by unfold Separate; decide +kernel⟩,
   ⟨SVent winC (some run0), ventL, winC, run0, 0x20000, 0x20004, 1, by decide +kernel, ⟨rfl, rfl, rfl, by decide +kernel⟩, by decide +kernel, by decide +kernel, ventReaches_of (by decide +kernel), ventReaches_of (by decide +kernel), ventReaches_of (by decide +kernel), by unfold Separate; decide +kernel⟩,
   ⟨SVent winC (some run0), ventL, winC, run0, 0x20000, 0x20010, 1, by decide +kernel, ⟨rfl, rfl, rfl, by decide +kernel⟩, by decide +kernel, by decide +kernel, ventReaches_of (by decide +kernel), ventReaches_of (by decide +kernel), ventReaches_of (by decide +kernel), by unfold Separate; decide +kernel⟩,
   ⟨SVent winC (some run0), ventL, winC, run0, 0x20000, 0x20010, 1, by decide +kernel, ⟨rfl, rfl, rfl, by decide +kernel⟩, by decide +kernel, by decide +kernel, ventReaches_of (by decide +kernel), ventReaches_of (by decide +kernel), ventReaches_of (by decide +kernel), by unfold Separate; decide +kernel⟩,
   ⟨{ SVent winC (some run0) with mem := [] }, ventL, winC, run0, 0x20000, 0x20010, 0x20020, 1, 1, 4, by decide +kernel, ⟨rfl, rfl, rfl, by decide +kernel⟩, by decide +kernel, by decide +kernel, ventReaches_of (by decide +kernel), ventReaches_of (by decide +kernel), by unfold Separate; decide +kernel, fun j hj => by have hz : j = 0 := Nat.lt_one_iff.mp hj; subst hz; exact ⟨by decide +kernel, ventReaches_of (by decide +kernel), by unfold Separate; decide +kernel⟩⟩,
   ⟨SVent winC (some run0), ventL, winC, run0, 0x20000, 0x20010, 1, 0x100000000, by decide +kernel, ⟨rfl, rfl, rfl, by decide +kernel⟩, by decide +kernel, by decide +kernel, ventReaches_of (by decide +kernel), ventReaches_of (by decide +kernel), ventReaches_of (by decide +kernel), by unfold Separate; decide +kernel⟩,
   ⟨ventL, by decide +kernel⟩,
   ⟨ventL, 2, 1, 0, 0, 0, by decide +kernel⟩,
   by decide +kernel,
   ⟨micro0, by decide +kernel⟩,
   ⟨SVent winC (some run0), winC, run0, ((1 : BitVec 128) <<< 115), micro0, by decide +kernel, by decide +kernel, ⟨rfl, rfl, rfl, by decide +kernel⟩, ventReaches_of (by decide +kernel), by decide +kernel⟩,
   ⟨SVent winC (some run0), winC, run0, ((2 : BitVec 128) <<< 115), micro0, by decide +kernel, by decide +kernel, ⟨rfl, rfl, rfl, by decide +kernel⟩, ventReaches_of (by decide +kernel)⟩,
   ⟨SVent winC (some run0), winC, run0, ((3 : BitVec 128) <<< 115), micro0, by decide +kernel, by decide +kernel, ⟨rfl, rfl, rfl, by decide +kernel⟩, ventReaches_of (by decide +kernel)⟩,
   ⟨winC, (0 : BitVec 128), micro0, by decide +kernel, by decide +kernel, rfl, rfl, rfl, by decide +kernel⟩,
   by decide +kernel⟩

theorem witness_Regions :
    (∃ (h : Hdr) (irr : Bool) (d : SIdx) (s : State) (sid : Nat) (t : Team),
      let i := Instr.rbeg h irr d
      let u := teamAtIssue i s sid t
      let s0 := atIssue i s sid t
      Runs i h s sid t ∧
      u.region = none ∧
      regionFree s0 sid irr (irrSince u) = true) ∧
    (∃ (h : Hdr) (irr : Bool) (d : SIdx) (s : State) (sid : Nat) (t : Team),
      let i := Instr.rbeg h irr d
      let u := teamAtIssue i s sid t
      Runs i h s sid t ∧
      u.openRegion ≠ none) ∧
    (∃ (h : Hdr) (d : SIdx) (s : State) (sid : Nat) (t : Team),
      let i := Instr.rbeg h false d
      let u := teamAtIssue i s sid t
      let s0 := atIssue i s sid t
      Runs i h s sid t ∧
      u.region = none ∧
      regionFree s0 sid false (irrSince u) = false) ∧
    (∃ (h : Hdr) (d : SIdx) (s : State) (sid : Nat) (t : Team),
      let i := Instr.rbeg h true d
      let u := teamAtIssue i s sid t
      let s0 := atIssue i s sid t
      Runs i h s sid t ∧
      u.region = none ∧
      irrSince u = none ∧
      regionFree s0 sid true none = false) ∧
    (∃ (h : Hdr) (d : SIdx) (s : State) (sid : Nat) (t : Team),
      let i := Instr.rend h d
      let u := teamAtIssue i s sid t
      let s0 := atIssue i s sid t
      let v := view0
      let r := reg0
      Runs i h s sid t ∧
      u.openRegion = some v ∧
      v.irr = false ∧
      v.doomed = false ∧
      s0.region? v.slot = some r) ∧
    (∃ (h : Hdr) (d : SIdx) (s : State) (sid : Nat) (t : Team),
      let i := Instr.rend h d
      let u := teamAtIssue i s sid t
      let v := ({ view0 with doomed := true } : RegionView)
      Runs i h s sid t ∧
      u.openRegion = some v ∧
      v.doomed = true ∧
      v.irr = false) ∧
    (∃ (h : Hdr) (d : SIdx) (s : State) (sid : Nat) (t : Team),
      let i := Instr.rend h d
      let u := teamAtIssue i s sid t
      let s0 := atIssue i s sid t
      let v := ({ view0 with irr := true } : RegionView)
      Runs i h s sid t ∧
      u.openRegion = some v ∧
      v.irr = true ∧
      v.doomed = false ∧
      (∀ q ∈ s0.wq, q.sid ≠ sid) ∧
      Released s0 u) ∧
    (∃ (h : Hdr) (d : SIdx) (s : State) (sid : Nat) (t : Team),
      let i := Instr.rend h d
      let u := teamAtIssue i s sid t
      Runs i h s sid t ∧
      u.openRegion = none) ∧
    (∃ (h : Hdr) (n : BitVec 16) (s : State) (sid : Nat) (t : Team),
      let i := Instr.rabt h n
      let u := teamAtIssue i s sid t
      let s0 := atIssue i s sid t
      let v := view0
      let r := reg0
      Runs i h s sid t ∧
      u.openRegion = some v ∧
      v.irr = false ∧
      v.doomed = false ∧
      (∀ r ∈ s0.regions, r.sid = sid → r.slot = v.slot) ∧
      s0.region? v.slot = some r ∧
      r.sid = sid ∧
      r.tkey = u.key ∧
      r.ending = false ∧
      r.irr = false) ∧
    (∃ (h : Hdr) (n : BitVec 16) (s : State) (sid : Nat) (t : Team),
      let i := Instr.rabt h n
      let u := teamAtIssue i s sid t
      let v := ({ view0 with doomed := true } : RegionView)
      Runs i h s sid t ∧
      u.openRegion = some v ∧
      v.irr = false ∧
      v.doomed = true) ∧
    (∃ (h : Hdr) (n : BitVec 16) (s : State) (sid : Nat) (t : Team),
      let i := Instr.rabt h n
      let u := teamAtIssue i s sid t
      let v := ({ view0 with irr := true } : RegionView)
      Runs i h s sid t ∧
      u.openRegion = some v ∧
      v.irr = true) ∧
    (∃ (h : Hdr) (n : BitVec 16) (s : State) (sid : Nat) (t : Team),
      let i := Instr.rabt h n
      let u := teamAtIssue i s sid t
      Runs i h s sid t ∧
      u.openRegion = none) ∧
    (∃ (h : Hdr) (d : SIdx) (s : State) (sid : Nat) (t : Team),
      let i := Instr.rstat h d
      Runs i h s sid t) :=
  ⟨⟨h0, false, 4, S0, 0, T0, runs_of (by decide +kernel), by decide +kernel⟩,
   ⟨h0, false, 4, SR view0 reg0, 0, TR view0, runs_of (by decide +kernel), by decide +kernel⟩,
   ⟨h0, 4, { S0 with regions := [{ reg0 with sid := 1, irr := true }] }, 0, T0, runs_of (by decide +kernel), by decide +kernel⟩,
   ⟨h0, 4, { S0 with regions := [{ reg0 with sid := 1 }] }, 0, T0, runs_of (by decide +kernel), by decide +kernel⟩,
   ⟨h0, 4, SR view0 reg0, 0, TR view0, runs_of (by decide +kernel), by decide +kernel⟩,
   ⟨h0, 4, demo (TR { view0 with doomed := true }), 0, TR { view0 with doomed := true }, runs_of (by decide +kernel), by decide +kernel⟩,
   ⟨h0, 4, SR { view0 with irr := true } { reg0 with irr := true }, 0, TR { view0 with irr := true }, runs_of (by decide +kernel), by decide +kernel, by decide +kernel, by decide +kernel, by decide +kernel, released_of (by decide +kernel)⟩,
   ⟨h0, 4, S0, 0, T0, runs_of (by decide +kernel), by decide +kernel⟩,
   ⟨h0, 9, SR view0 reg0, 0, TR view0, runs_of (by decide +kernel), by decide +kernel⟩,
   ⟨h0, 9, demo (TR { view0 with doomed := true }), 0, TR { view0 with doomed := true }, runs_of (by decide +kernel), by decide +kernel⟩,
   ⟨h0, 9, SR { view0 with irr := true } { reg0 with irr := true }, 0, TR { view0 with irr := true }, runs_of (by decide +kernel), by decide +kernel⟩,
   ⟨h0, 9, S0, 0, T0, runs_of (by decide +kernel), by decide +kernel⟩,
   ⟨h0, 4, S0, 0, T0, runs_of (by decide +kernel)⟩⟩

theorem witness_GeyserCalls :
    (∃ (h : Hdr) (d : SIdx) (a : SIdx) (k : CallImm) (s : State) (sid : Nat) (t : Team),
      let i := Instr.gcall h d a k
      let u := teamAtIssue i s sid t
      let s0 := atIssue i s sid t
      let dev : BitVec 12 := ((viewAtIssue i s sid t).sr (a.toNat + 7)).extractLsb' 0 12
      let jt : BitVec 16 := (match s0.ctx? u.ctx with | some c => c.gyJobtag | none => 0)
      Runs i h s sid t ∧
      u.region = none ∧
      (∀ x, u.handler = some x → x.nocall = false) ∧
      u.slots.length < 16 ∧
      (∀ q ∈ s0.wq, q.sid ≠ sid) ∧
      jt ≠ 0 ∧
      dev = s0.devId) ∧
    (∃ (h : Hdr) (d : SIdx) (a : SIdx) (k : CallImm) (s : State) (sid : Nat) (t : Team),
      let i := Instr.gcall h d a k
      let u := teamAtIssue i s sid t
      let s0 := atIssue i s sid t
      let dev : BitVec 12 := ((viewAtIssue i s sid t).sr (a.toNat + 7)).extractLsb' 0 12
      let jt : BitVec 16 := (match s0.ctx? u.ctx with | some c => c.gyJobtag | none => 0)
      Runs i h s sid t ∧
      u.region = none ∧
      (∀ x, u.handler = some x → x.nocall = false) ∧
      u.slots.length < 16 ∧
      (∀ q ∈ s0.wq, q.sid ≠ sid) ∧
      jt ≠ 0 ∧
      dev ≠ s0.devId ∧
      portsTo s0 dev ≠ []) ∧
    (∃ (h : Hdr) (d : SIdx) (a : SIdx) (k : CallImm) (s : State) (sid : Nat) (t : Team),
      let i := Instr.gcall h d a k
      let u := teamAtIssue i s sid t
      let s0 := atIssue i s sid t
      let jt : BitVec 16 := (match s0.ctx? u.ctx with | some c => c.gyJobtag | none => 0)
      Runs i h s sid t ∧
      u.region = none ∧
      (∀ x, u.handler = some x → x.nocall = false) ∧
      u.slots.length < 16 ∧
      (∀ q ∈ s0.wq, q.sid ≠ sid) ∧
      s0.teamByKey u.key = some (sid, u) ∧
      jt = 0) ∧
    (∃ (h : Hdr) (d : SIdx) (a : SIdx) (k : CallImm) (s : State) (sid : Nat) (t : Team),
      let i := Instr.gcall h d a k
      let u := teamAtIssue i s sid t
      let s0 := atIssue i s sid t
      let dev : BitVec 12 := ((viewAtIssue i s sid t).sr (a.toNat + 7)).extractLsb' 0 12
      let jt : BitVec 16 := (match s0.ctx? u.ctx with | some c => c.gyJobtag | none => 0)
      Runs i h s sid t ∧
      u.region = none ∧
      (∀ x, u.handler = some x → x.nocall = false) ∧
      u.slots.length < 16 ∧
      (∀ q ∈ s0.wq, q.sid ≠ sid) ∧
      s0.teamByKey u.key = some (sid, u) ∧
      jt ≠ 0 ∧
      dev ≠ s0.devId ∧
      portsTo s0 dev = []) ∧
    (∃ (h : Hdr) (d : SIdx) (a : SIdx) (k : CallImm) (s : State) (sid : Nat) (t : Team),
      let i := Instr.gcall h d a k
      let u := teamAtIssue i s sid t
      Runs i h s sid t ∧
      u.region = none ∧
      (∀ x, u.handler = some x → x.nocall = false) ∧
      16 ≤ u.slots.length) ∧
    (∃ (h : Hdr) (d : SIdx) (a : SIdx) (k : CallImm) (s : State) (sid : Nat) (t : Team),
      let i := Instr.gcall h d a k
      let u := teamAtIssue i s sid t
      let x := ({ info0 with nocall := true } : HandlerInfo)
      Runs i h s sid t ∧
      u.region = none ∧
      u.handler = some x ∧
      x.nocall = true) ∧
    (∃ (h : Hdr) (d : SIdx) (a : SIdx) (k : CallImm) (s : State) (sid : Nat) (t : Team),
      let i := Instr.gcall h d a k
      let u := teamAtIssue i s sid t
      let s0 := atIssue i s sid t
      Runs i h s sid t ∧
      u.region = none ∧
      (∀ x, u.handler = some x → x.nocall = false) ∧
      u.slots.length < 16 ∧
      (∀ q ∈ s0.wq, q.sid ≠ sid)) ∧
    (∃ (h : Hdr) (d : SIdx) (a : SIdx) (k : CallImm) (s : State) (sid : Nat) (t : Team),
      let i := Instr.gcall h d a k
      let u := teamAtIssue i s sid t
      let s0 := atIssue i s sid t
      Runs i h s sid t ∧
      u.region = none ∧
      (∀ x, u.handler = some x → x.nocall = false) ∧
      u.slots.length < 16 ∧
      (∃ q ∈ s0.wq, q.sid = sid)) :=
  ⟨⟨h0, 4, 8, ⟨5, 0, true⟩, SCall (TCall 0xFFF), 0, TCall 0xFFF, runs_of (by decide +kernel), by decide +kernel⟩,
   ⟨h0, 4, 8, ⟨5, 0, true⟩, { SCall (TCall 5) with ports := [(0, { emptyPort with up := true, partner := 5 })] }, 0, TCall 5, runs_of (by decide +kernel), by decide +kernel⟩,
   ⟨h0, 4, 8, ⟨5, 0, true⟩, demo (TCall 0xFFF), 0, TCall 0xFFF, runs_of (by decide +kernel), by decide +kernel⟩,
   ⟨h0, 4, 8, ⟨5, 0, true⟩, SCall (TCall 5), 0, TCall 5, runs_of (by decide +kernel), by decide +kernel⟩,
   ⟨h0, 4, 8, ⟨5, 0, true⟩, demo { T0 with slots := (List.range 16).map fun k => (k, slot0) }, 0, { T0 with slots := (List.range 16).map fun k => (k, slot0) }, runs_of (by decide +kernel), by decide +kernel⟩,
   ⟨h0, 4, 8, ⟨5, 0, true⟩, demo (TH { info0 with nocall := true }), 0, TH { info0 with nocall := true }, runs_of (by decide +kernel), by decide +kernel⟩,
   ⟨h0, 4, 8, ⟨5, 0, true⟩, SCall (TCall 0xFFF), 0, TCall 0xFFF, runs_of (by decide +kernel), by decide +kernel⟩,
   ⟨h0, 4, 8, ⟨5, 0, true⟩, { SCall (TCall 0xFFF) with wq := [qw0] }, 0, TCall 0xFFF, runs_of (by decide +kernel), by decide +kernel⟩⟩

theorem witness_GeyserReplies :
    (∃ (h : Hdr) (a : SIdx) (c : StatOp) (s : State) (sid : Nat) (t : Team),
      let i := Instr.gret h a c
      let u := teamAtIssue i s sid t
      let s0 := atIssue i s sid t
      let st : BitVec 9 := match c with | .s n => ((viewAtIssue i s sid t).sr n.toNat).extractLsb' 0 9 | .imm k => k
      let x := info0
      Runs i h s sid t ∧
      u.region = none ∧
      u.handler = some x ∧
      x.replied = false ∧
      (∀ q ∈ s0.wq, q.sid ≠ sid) ∧
      (st = 0 ∨ 0x1E0 ≤ st.toNat) ∧
      x.call.reply = true ∧
      x.call.sdev = s0.devId) ∧
    (∃ (h : Hdr) (a : SIdx) (c : StatOp) (s : State) (sid : Nat) (t : Team),
      let i := Instr.gret h a c
      let u := teamAtIssue i s sid t
      let s0 := atIssue i s sid t
      let st : BitVec 9 := match c with | .s n => ((viewAtIssue i s sid t).sr n.toNat).extractLsb' 0 9 | .imm k => k
      let x := ({ info0 with call := { call0 with sdev := 5 } } : HandlerInfo)
      Runs i h s sid t ∧
      u.region = none ∧
      u.handler = some x ∧
      x.replied = false ∧
      (∀ q ∈ s0.wq, q.sid ≠ sid) ∧
      (st = 0 ∨ 0x1E0 ≤ st.toNat) ∧
      x.call.reply = true ∧
      x.call.sdev ≠ s0.devId ∧
      portsTo s0 x.call.sdev ≠ []) ∧
    (∃ (h : Hdr) (a : SIdx) (c : StatOp) (s : State) (sid : Nat) (t : Team),
      let i := Instr.gret h a c
      let u := teamAtIssue i s sid t
      let s0 := atIssue i s sid t
      let st : BitVec 9 := match c with | .s n => ((viewAtIssue i s sid t).sr n.toNat).extractLsb' 0 9 | .imm k => k
      let x := ({ info0 with call := { call0 with sdev := 5 } } : HandlerInfo)
      Runs i h s sid t ∧
      u.region = none ∧
      u.handler = some x ∧
      x.replied = false ∧
      (∀ q ∈ s0.wq, q.sid ≠ sid) ∧
      (st = 0 ∨ 0x1E0 ≤ st.toNat) ∧
      x.call.reply = true ∧
      x.call.sdev ≠ s0.devId ∧
      portsTo s0 x.call.sdev = []) ∧
    (∃ (h : Hdr) (a : SIdx) (c : StatOp) (s : State) (sid : Nat) (t : Team),
      let i := Instr.gret h a c
      let u := teamAtIssue i s sid t
      let s0 := atIssue i s sid t
      let st : BitVec 9 := match c with | .s n => ((viewAtIssue i s sid t).sr n.toNat).extractLsb' 0 9 | .imm k => k
      let x := ({ info0 with call := { call0 with reply := false } } : HandlerInfo)
      Runs i h s sid t ∧
      u.region = none ∧
      u.handler = some x ∧
      x.replied = false ∧
      (∀ q ∈ s0.wq, q.sid ≠ sid) ∧
      (st = 0 ∨ 0x1E0 ≤ st.toNat) ∧
      x.call.reply = false) ∧
    (∃ (h : Hdr) (a : SIdx) (c : StatOp) (s : State) (sid : Nat) (t : Team),
      let i := Instr.gret h a c
      let u := teamAtIssue i s sid t
      let s0 := atIssue i s sid t
      let st : BitVec 9 := match c with | .s n => ((viewAtIssue i s sid t).sr n.toNat).extractLsb' 0 9 | .imm k => k
      let x := info0
      Runs i h s sid t ∧
      u.region = none ∧
      u.handler = some x ∧
      x.replied = false ∧
      (∃ q ∈ s0.wq, q.sid = sid) ∧
      (st = 0 ∨ 0x1E0 ≤ st.toNat)) ∧
    (∃ (h : Hdr) (a : SIdx) (c : StatOp) (s : State) (sid : Nat) (t : Team),
      let i := Instr.gret h a c
      let u := teamAtIssue i s sid t
      let s0 := atIssue i s sid t
      let st : BitVec 9 := match c with | .s n => ((viewAtIssue i s sid t).sr n.toNat).extractLsb' 0 9 | .imm k => k
      let x := info0
      Runs i h s sid t ∧
      u.region = none ∧
      u.handler = some x ∧
      x.replied = false ∧
      (∀ q ∈ s0.wq, q.sid ≠ sid) ∧
      st ≠ 0 ∧
      st.toNat < 0x1E0) ∧
    (∃ (h : Hdr) (a : SIdx) (c : StatOp) (s : State) (sid : Nat) (t : Team),
      let i := Instr.gret h a c
      let u := teamAtIssue i s sid t
      let st : BitVec 9 := match c with | .s n => ((viewAtIssue i s sid t).sr n.toNat).extractLsb' 0 9 | .imm k => k
      Runs i h s sid t ∧
      u.region = none ∧
      (st = 0 ∨ 0x1E0 ≤ st.toNat) ∧
      (∀ x, u.handler = some x → x.replied = true)) ∧
    (∃ (h : Hdr) (d : SIdx) (a : SIdx) (s : State) (sid : Nat) (t : Team),
      let i := Instr.gpoll h d a
      Runs i h s sid t) :=
  ⟨⟨h0, 8, .imm 0, demo (TH info0), 0, TH info0, runs_of (by decide +kernel), by decide +kernel⟩,
   ⟨h0, 8, .imm 0, { demo (TH ({ info0 with call := { call0 with sdev := 5 } } : HandlerInfo)) with ports := [(0, { emptyPort with up := true, partner := 5 })] }, 0, TH ({ info0 with call := { call0 with sdev := 5 } } : HandlerInfo), runs_of (by decide +kernel), by decide +kernel⟩,
   ⟨h0, 8, .imm 0, demo (TH ({ info0 with call := { call0 with sdev := 5 } } : HandlerInfo)), 0, TH ({ info0 with call := { call0 with sdev := 5 } } : HandlerInfo), runs_of (by decide +kernel), by decide +kernel⟩,
   ⟨h0, 8, .imm 0, demo (TH ({ info0 with call := { call0 with reply := false } } : HandlerInfo)), 0, TH ({ info0 with call := { call0 with reply := false } } : HandlerInfo), runs_of (by decide +kernel), by decide +kernel⟩,
   ⟨h0, 8, .imm 0, { demo (TH info0) with wq := [qw0] }, 0, TH info0, runs_of (by decide +kernel), by decide +kernel⟩,
   ⟨h0, 8, .imm 7, demo (TH info0), 0, TH info0, runs_of (by decide +kernel), by decide +kernel⟩,
   ⟨h0, 8, .imm 0, S0, 0, T0, runs_of (by decide +kernel), by decide +kernel⟩,
   ⟨h0, 4, 8, S0, 0, T0, runs_of (by decide +kernel)⟩⟩

theorem witness_SpecialRegisters :
    (∃ (h : Hdr) (d : SIdx) (n : BitVec 12) (s : State) (sid : Nat) (t : Team),
      let i := Instr.csrr h d n
      Runs i h s sid t) ∧
    (∃ (h : Hdr) (a : SIdx) (op : CsrOp) (n : BitVec 12) (s : State) (sid : Nat) (t : Team),
      let i := Instr.csrw h op n a
      let u := teamAtIssue i s sid t
      let s0 := atIssue i s sid t
      Runs i h s sid t ∧
      csrListed n.toNat = true ∧
      (n.toNat < 0x430 ∨ 0x43F < n.toNat) ∧
      s0.ctx? u.ctx ≠ none) ∧
    (∃ (h : Hdr) (a : SIdx) (op : CsrOp) (n : BitVec 12) (s : State) (sid : Nat) (t : Team),
      let i := Instr.csrw h op n a
      Runs i h s sid t ∧
      0x430 ≤ n.toNat ∧
      n.toNat ≤ 0x437) ∧
    (∃ (h : Hdr) (a : SIdx) (op : CsrOp) (n : BitVec 12) (s : State) (sid : Nat) (t : Team),
      let i := Instr.csrw h op n a
      Runs i h s sid t ∧
      0x438 ≤ n.toNat ∧
      n.toNat ≤ 0x43F) :=
  ⟨⟨h0, 4, 0x040, demoSup T0, 0, T0, runs_of (by decide +kernel)⟩,
   ⟨h0, 4, .wr, 0x040, demoSup T0, 0, T0, runs_of (by decide +kernel), by decide +kernel⟩,
   ⟨h0, 4, .wr, 0x430, demoSup T0, 0, T0, runs_of (by decide +kernel), by decide +kernel⟩,
   ⟨h0, 4, .wr, 0x43F, demoSup T0, 0, T0, runs_of (by decide +kernel), by decide +kernel⟩⟩

theorem witness_SystemInstructions :
    (∃ (h : Hdr) (d : SIdx) (m : MemOp) (s : State) (sid : Nat) (t : Team),
      let i := Instr.probe h d m
      let u := teamAtIssue i s sid t
      let s0 := atIssue i s sid t
      let va := (viewAtIssue i s sid t).sr m.base.toNat + m.off.signExtend 64
      let s1 := (translate (paged (demoSup TG)) (unitOf 0x20010) 1 0x20010 .read).1
      let tr := tr0
      Runs i h s sid t ∧
      canonical va = true ∧
      translate s0 (unitOf va.toNat) u.ctx va .read = (s1, .ok tr) ∧
      tr.peer = none ∧
      tr.size ≤ 30) ∧
    (∃ (h : Hdr) (d : SIdx) (m : MemOp) (s : State) (sid : Nat) (t : Team),
      let i := Instr.probe h d m
      let u := teamAtIssue i s sid t
      let s0 := atIssue i s sid t
      let va := (viewAtIssue i s sid t).sr m.base.toNat + m.off.signExtend 64
      Runs i h s sid t ∧
      canonical va = false ∧
      sealedAt s0 u.ctx va.toNat = false) ∧
    (∃ (h : Hdr) (d : SIdx) (m : MemOp) (s : State) (sid : Nat) (t : Team),
      let i := Instr.probe h d m
      let u := teamAtIssue i s sid t
      let s0 := atIssue i s sid t
      let va := (viewAtIssue i s sid t).sr m.base.toNat + m.off.signExtend 64
      let s1 := (translate s0 (unitOf va.toNat) u.ctx va .read).1
      let f := errOr (.absent false) (translate s0 (unitOf va.toNat) u.ctx va .read).2
      Runs i h s sid t ∧
      canonical va = true ∧
      translate s0 (unitOf va.toNat) u.ctx va .read = (s1, .error f) ∧
      f ≠ .hard Cause.accessViolation) ∧
    (∃ (h : Hdr) (o : Option SIdx) (k : BitVec 8) (s : State) (sid : Nat) (t : Team),
      let i := Instr.intr h o k
      let u := teamAtIssue i s sid t
      let s0 := atIssue i s sid t
      let v := match o with | some n => (viewAtIssue i s sid t).sr n.toNat | none => 0
      let rec_ := eventRecord s0.clock v (match s0.launch? u.lid with | some l => l.launchId | none => 0) u.team k.toNat 0 1 u.ctx
      let c := evCtx
      let s3 := (ringWrite SEv 1 rec_).1
      Runs i h s sid t ∧
      u.region = none ∧
      (∀ q ∈ s0.wq, q.sid ≠ sid) ∧
      Released s0 u ∧
      s0.ctx? u.ctx = some c ∧
      ringLog c.ctxEvq ≠ 0 ∧
      ringWrite s0 u.ctx rec_ = (s3, .written) ∧
      s3.teams = s0.teams) ∧
    (∃ (h : Hdr) (o : Option SIdx) (m : MemOp) (k : BitVec 8) (s : State) (sid : Nat) (t : Team),
      let i := Instr.intr h o k
      let u := teamAtIssue i s sid t
      let s0 := atIssue i s sid t
      let c := evqCtx
      Runs i h s sid t ∧
      u.region = none ∧
      (∀ q ∈ s0.wq, q.sid ≠ sid) ∧
      Released s0 u ∧
      s0.ctx? u.ctx = some c ∧
      ringLog c.ctxEvq = 0 ∧
      (bumpLost s0 u.ctx).1.teams = s0.teams ∧
      (∀ m, (bumpLost s0 u.ctx).2 ≠ .missing m)) ∧
    (∃ (h : Hdr) (a : SIdx) (b : SI) (s : State) (sid : Nat) (t : Team),
      let i := Instr.tinv h a b
      let u := teamAtIssue i s sid t
      let s0 := atIssue i s sid t
      Runs i h s sid t ∧
      u.region = none ∧
      s0.spec = []) ∧
    (∃ (h : Hdr) (d : SIdx) (m : MemOp) (s : State) (sid : Nat) (t : Team),
      let i := Instr.probe h d m
      let u := teamAtIssue i s sid t
      let s0 := atIssue i s sid t
      let va := (viewAtIssue i s sid t).sr m.base.toNat + m.off.signExtend 64
      let s1 := (translate SPeerPage (unitOf 0x20010) 1 0x20010 .read).1
      let tr := trPeer
      let dev := (5 : BitVec 12)
      Runs i h s sid t ∧
      canonical va = true ∧
      translate s0 (unitOf va.toNat) u.ctx va .read = (s1, .ok tr) ∧
      tr.peer = some dev ∧
      tr.size ≤ 30 ∧
      (∀ x, u.handler = some x → x.nocall = false)) ∧
    (∃ (h : Hdr) (d : SIdx) (m : MemOp) (s : State) (sid : Nat) (t : Team),
      let i := Instr.probe h d m
      let u := teamAtIssue i s sid t
      let s0 := atIssue i s sid t
      let va := (viewAtIssue i s sid t).sr m.base.toNat + m.off.signExtend 64
      let s1 := (translate SWalk (unitOf 0x20010) 1 0x20010 .read).1
      let s2 := (walk (SWalk.onCtx 1 (fun c => { c with ptlDesc := c.ptlDesc &&& ~~~ 4#64 })) 1 0x20010 .read).1
      let tr := gotOr tr0 (walk (SWalk.onCtx 1 (fun c => { c with ptlDesc := c.ptlDesc &&& ~~~ 4#64 })) 1 0x20010 .read).2
      Runs i h s sid t ∧
      canonical va = true ∧
      translate s0 (unitOf va.toNat) u.ctx va .read = (s1, .error (.hard Cause.accessViolation)) ∧
      walk (s0.onCtx u.ctx (fun c => { c with ptlDesc := c.ptlDesc &&& ~~~ 4#64 })) u.ctx va .read = (s2, .ok tr) ∧
      tr.peer = none ∧
      tr.size ≤ 30) ∧
    (∃ (h : Hdr) (o : Option SIdx) (k : BitVec 8) (s : State) (sid : Nat) (t : Team),
      let i := Instr.intr h o k
      let u := teamAtIssue i s sid t
      let s0 := atIssue i s sid t
      let c := evCtx
      Runs i h s sid t ∧
      u.region = none ∧
      (∀ q ∈ s0.wq, q.sid ≠ sid) ∧
      Released s0 u ∧
      RingReady s0 u.ctx c) :=
  ⟨⟨h0, 4, ⟨8, .team, false, none, 16⟩, paged (demoSup TG), 0, TG, runs_of (by decide +kernel), by decide +kernel, answer_of (by decide +kernel), by decide +kernel⟩,
   ⟨h0, 4, ⟨8, .team, false, none, 16⟩, demoSup (withS [(8, 2 ^ 56)]), 0, withS [(8, 2 ^ 56)], runs_of (by decide +kernel), by decide +kernel⟩,
   ⟨h0, 4, ⟨8, .team, false, none, 16⟩, demoSup TG, 0, TG, runs_of (by decide +kernel), by decide +kernel, err_of (by decide +kernel), by decide +kernel⟩,
   ⟨h0, none, 1, SEv, 0, T0, runs_of (by decide +kernel), by decide +kernel, by decide +kernel, released_of (by decide +kernel), by decide +kernel⟩,
   ⟨h0, none, ⟨8, .team, false, none, 16⟩, 1, paged { demo T0 with ctxs := [(1, evqCtx)] }, 0, T0, runs_of (by decide +kernel), by decide +kernel, by decide +kernel, released_of (by decide +kernel), by decide +kernel, by decide +kernel, by decide +kernel, notMissing (by decide +kernel)⟩,
   ⟨h0, 4, .imm 0, demoSup T0, 0, T0, runs_of (by decide +kernel), by decide +kernel⟩,
   ⟨h0, 4, ⟨8, .team, false, none, 16⟩, SPeerPage, 0, TG, runs_of (by decide +kernel), by decide +kernel, answer_of (by decide +kernel), by decide +kernel⟩,
   ⟨h0, 4, ⟨8, .team, false, none, 16⟩, SWalk, 0, TG, runs_of (by decide +kernel), by decide +kernel, answer_of (by decide +kernel), by decide +kernel⟩,
   ⟨h0, none, 1, SRing1, 0, T0, runs_of (by decide +kernel), by decide +kernel, by decide +kernel, released_of (by decide +kernel), ringReady_of (by decide +kernel)⟩⟩

theorem witness_CacheSteps :
    (∃ (s : State),
      let sid := 0
      let tok := 3
      let t := TSb
      s.team? sid = some t ∧
      (∀ m ∈ t.misses, m.tok ≠ tok) ∧
      (∃ e ∈ t.sb, e.tok = tok ∧ e.engine = false ∧ e.due ≤ s.clock ∧ ∀ m ∈ t.misses, m.tok ∉ e.after) ∧
      (∀ c, s.ctx? t.ctx = some c → ∀ x ∈ c.unseals, x.1 ≠ tok)) ∧
    (∃ (s : State),
      let sid := 0
      let tok := 3
      let t := TMiss
      s.team? sid = some t ∧
      (∃ m ∈ t.misses, m.tok = tok)) ∧
    (∃ (s : State),
      let sid := 0
      let tok := 3
      let t := TSb
      let c := ({ newCtx .user 0 with seals := [(0x20000, 4096)], unseals := [(3, 0x20000, 4096)] } : Ctx)
      let x := ((3, 0x20000, 4096) : Nat × Nat × Nat)
      s.team? sid = some t ∧
      (∀ m ∈ t.misses, m.tok ≠ tok) ∧
      (∃ e ∈ t.sb, e.tok = tok ∧ e.engine = false ∧ e.due ≤ s.clock ∧ ∀ m ∈ t.misses, m.tok ∉ e.after) ∧
      s.ctx? t.ctx = some c ∧
      c.unseals.find? (fun u => u.1 == tok) = some x) ∧
    (∃ (s : State),
      let sid := 0
      let t := ({ T0 with park := .aged } : Team)
      s.team? sid = some t ∧
      t.park = .aged ∧
      t.aged = false) ∧
    (∃ (s : State),
      let i := 0
      let f := fill0
      s.fills[i]? = some f ∧
      f.homeOnly = false ∧
      (∀ tr, f.tr = some tr → s.rt < tr.expiry) ∧
      s.l1? f.core f.ctx f.line = none ∧
      (s.l1.filter (fun y => y.core == f.core)).length < Config.l1Lines) ∧
    (∃ (s : State),
      let i := 0
      let f := fill0
      let y := l10
      s.fills[i]? = some f ∧
      f.homeOnly = false ∧
      (∀ tr, f.tr = some tr → s.rt < tr.expiry) ∧
      s.l1? f.core f.ctx f.line = some y ∧
      (∀ a b, y.tr = some a → f.tr = some b → lineAt a y.line = lineAt b y.line)) ∧
    (∃ (s : State),
      let i := 0
      let tr := trOld
      let f := ({ fill0 with tr := some trOld } : Fill)
      s.fills[i]? = some f ∧
      f.tr = some tr ∧
      tr.expiry ≤ s.rt) ∧
    (∃ (s : State),
      let core := 0
      let ctx := 1
      let line := 0x800
      let x := ({ l10 with dirty := 1 } : L1Line)
      s.l1? core ctx line = some x ∧
      x.tr ≠ none) ∧
    (∃ (s : State),
      let i := 0
      let k := (⟨0, 1, 0x800, false, false⟩ : WCheck)
      s.wchecks[i]? = some k) ∧
    (∃ (s : State),
      let sid := 0
      let home := 7
      let q := (⟨0, 0, 1, 7, 0x800, 1, 0x99, tr0, true⟩ : QWrite)
      s.wq.find? (fun x => x.sid == sid && x.home == home) = some q) ∧
    (∃ (s : State),
      leaseDue s = true ∧
      s.spec = []) ∧
    (∃ (s : State),
      let pa := 0x20000
      (∀ o ∈ s.own, o.line = pa / 64 → o.owned = none)) ∧
    (∃ (s : State),
      let pa := 0x20000
      let o : OwnLine := own4
      o ∈ s.own ∧
      o.line = pa / 64 ∧
      o.owned ≠ none) :=
  ⟨⟨demo TSb, by decide +kernel⟩,
   ⟨demo TMiss, by decide +kernel⟩,
   ⟨SUns, by decide +kernel⟩,
   ⟨demo { T0 with park := .aged }, by decide +kernel⟩,
   ⟨{ S0 with fills := [fill0] }, by decide +kernel⟩,
   ⟨{ S0 with fills := [fill0], l1 := [l10] }, by decide +kernel, by decide +kernel, by decide +kernel, by decide +kernel, fun _ _ h k => by cases h; cases k; rfl⟩,
   ⟨{ S0 with fills := [{ fill0 with tr := some trOld }] }, by decide +kernel⟩,
   ⟨{ S0 with l1 := [{ l10 with dirty := 1 }] }, by decide +kernel⟩,
   ⟨{ S0 with wchecks := [⟨0, 1, 0x800, false, false⟩] }, by decide +kernel⟩,
   ⟨{ SHome with wq := [⟨0, 0, 1, 7, 0x800, 1, 0x99, tr0, true⟩] }, by decide +kernel⟩,
   ⟨{ SHome with tlb := [⟨3, 1, 0x20, trOld⟩] }, by decide +kernel⟩,
   ⟨SHome, by decide +kernel⟩,
   ⟨{ S0 with own := [own4] }, by decide +kernel⟩⟩

theorem witness_HostAndPeerSteps :
    (∃ (s : State),
      let port := 0
      let ctx := 1
      let page := 0x20
      settledBy s port ctx page ≠ []) ∧
    (∃ (s : State),
      let port := 0
      let ctx := 1
      let page := 0x20
      let qid := 0
      let w := wWait
      (settledBy s port ctx page).map (fun r => r.who) = [.queue ctx qid] ∧
      w ∈ s.watches ∧
      w.ctx = ctx ∧
      w.qid = qid ∧
      w.waiting = some page) ∧
    (∃ (s : State),
      let port := 0
      let ctx := 1
      let page := 0x20
      settledBy s port ctx page = []) ∧
    (∃ (s : State),
      let i := 0
      let o := own0
      s.own[i]? = some o ∧
      o.owned = none) ∧
    (∃ (s : State),
      let i := 0
      let o := own0
      let j := 0
      let f := far0
      let t := T0
      s.own[i]? = some o ∧
      o.owned = none ∧
      ownWaiting s o.line = [j] ∧
      s.far[j]? = some f ∧
      s.homes = [] ∧
      s.tracked = [] ∧
      poisonedKey s (physKey s f.pa) = false ∧
      s.team? f.sid = some t ∧
      sealedAt s t.ctx f.va.toNat = false) ∧
    (∃ (s : State),
      let i := 0
      let o := (⟨0x800, some 4, []⟩ : OwnLine)
      let n := 4
      s.own[i]? = some o ∧
      o.owned = some n ∧
      n + 256 ≤ s.clock) ∧
    (∃ (s : State),
      let i := 0
      let o := (⟨0x800, some 4, []⟩ : OwnLine)
      let n := 4
      s.own[i]? = some o ∧
      o.owned = some n ∧
      s.clock < n + 256) ∧
    (∃ (s : State),
      let i := 0
      let f := far0
      s.far[i]? = some f ∧
      f.done = none ∧
      f.failed = none ∧
      overIo s (lineNo f.va) f.pa = true ∧
      farBlocked s i f = false) ∧
    (∃ (s : State),
      let i := 0
      let f := far0
      let t := T0
      s.far[i]? = some f ∧
      f.done = none ∧
      f.failed = none ∧
      overIo s (lineNo f.va) f.pa = true ∧
      farBlocked s i f = false ∧
      oneAtomicOp f = true ∧
      s.homes = [] ∧
      s.tracked = [] ∧
      poisonedKey s (physKey s f.pa) = false ∧
      s.team? f.sid = some t ∧
      sealedAt s t.ctx f.va.toNat = false) ∧
    (∃ (s : State),
      let i := 0
      let f := far0
      s.far[i]? = some f ∧
      f.done = none ∧
      f.failed = none ∧
      overIo s (lineNo f.va) f.pa = true ∧
      farBlocked s i f = false ∧
      oneAtomicOp f = true ∧
      poisonedKey s (physKey s f.pa) = true) ∧
    (∃ (s : State),
      let i := 0
      let f := farMin
      s.far[i]? = some f ∧
      f.done = none ∧
      f.failed = none ∧
      overIo s (lineNo f.va) f.pa = true ∧
      farBlocked s i f = false ∧
      oneAtomicOp f = false ∧
      s.homes = []) ∧
    (∃ (s : State),
      let port := 0
      let acc := accP
      (s.port port).up = true ∧
      (s.port port).partner = acc.dev ∧
      peerWhole acc = true ∧
      exportAdmits (exportTable s) acc.dev acc.pa acc.size (peerReads acc.op) (peerWrites acc.op) = false) ∧
    (∃ (s : State),
      let port := 0
      let acc := accP
      (s.port port).up = true ∧
      (s.port port).partner = acc.dev ∧
      acc.op = .load ∧
      exportAdmits (exportTable s) acc.dev acc.pa acc.size (peerReads acc.op) (peerWrites acc.op) = true ∧
      s.homes = []) ∧
    (∃ (s : State),
      let port := 0
      let acc := ({ accP with op := .store [1, 2, 3, 4, 5, 6, 7, 8] } : PeerAcc)
      let data := ([1, 2, 3, 4, 5, 6, 7, 8] : List Byte)
      (s.port port).up = true ∧
      (s.port port).partner = acc.dev ∧
      acc.op = .store data ∧
      data.length = acc.size ∧
      exportAdmits (exportTable s) acc.dev acc.pa acc.size (peerReads acc.op) (peerWrites acc.op) = true ∧
      acc.pa % 64 + acc.size ≤ 64 ∧
      0 < acc.size ∧
      s.homes = [] ∧
      s.tracked = []) ∧
    (∃ (s : State),
      let port := 0
      let ty := ATy.n32
      let op := AOp.add
      let acc := ({ accP with size := 4, op := .atom .n32 .add 1 0 } : PeerAcc)
      let v := (1 : Word)
      let c := (0 : Word)
      (s.port port).up = true ∧
      (s.port port).partner = acc.dev ∧
      acc.op = .atom ty op v c ∧
      exportAdmits (exportTable s) acc.dev acc.pa acc.size (peerReads acc.op) (peerWrites acc.op) = true ∧
      acc.pa % 64 + acc.size ≤ 64 ∧
      0 < acc.size ∧
      s.homes = [] ∧
      s.tracked = [] ∧
      poisonedKey s (physKey s (acc.pa / 64 * 64)) = false) :=
  ⟨⟨SPage, by decide +kernel⟩,
   ⟨SPageQ, by decide +kernel⟩,
   ⟨S0, by decide +kernel⟩,
   ⟨{ S0 with own := [own0] }, by decide +kernel⟩,
   ⟨SOwn, by decide +kernel⟩,
   ⟨{ S0 with own := [⟨0x800, some 4, []⟩], clock := 260 }, by decide +kernel⟩,
   ⟨{ S0 with own := [⟨0x800, some 4, []⟩], clock := 259 }, by decide +kernel⟩,
   ⟨SIow, by decide +kernel⟩,
   ⟨SIow, by decide +kernel⟩,
   ⟨SIowBad, by decide +kernel⟩,
   ⟨SIowMin, by decide +kernel⟩,
   ⟨SPeer, by decide +kernel⟩,
   ⟨SExp, by decide +kernel⟩,
   ⟨SExp, by decide +kernel⟩,
   ⟨SExp, by decide +kernel⟩⟩

theorem witness_EngineSteps :
    (∃ (s : State),
      let core := 0
      let i := 0
      let j := rowJob
      let t := T0
      let s1 := (rowVa { s with current := some 0 } rowAcc rowJob).1
      let va := 0x20000
      let s2 := (readWeak (foldTable s1 T0 rowJob) rowAcc va rowJob.stored).1
      let bs := got (readWeak (foldTable s1 T0 rowJob) rowAcc va rowJob.stored).2
      copyAt s core i = some j ∧
      copyFinished j = false ∧
      j.waiting = none ∧
      copyHead s core i j = true ∧
      s.team? j.sid = some t ∧
      (∀ q ∈ s.wq, q.sid ≠ j.sid) ∧
      rowHeld s core t j = false ∧
      j.out = false ∧
      rowVa { s with current := some j.sid } { sid := j.sid, core := core, ctx := t.ctx, scope := .team, pol := false, engine := true } j = (s1, .ok va) ∧
      rowCheck j va = none ∧
      readWeak (foldTable s1 t j) { sid := j.sid, core := core, ctx := t.ctx, scope := .team, pol := false, engine := true } va j.stored = (s2, .ok bs)) ∧
    (∃ (s : State),
      let core := 0
      let i := 0
      let j := outJob
      let t := T0
      let s1 := (rowVa { s with current := some 0 } rowAcc outJob).1
      let va := 0x20000
      let s2 := (writeRow (foldTable s1 T0 outJob).tick1 T0 va (rowOut outJob.kind outJob.fmt (copySource (foldTable s1 T0 outJob) 0 (T0.spadOff + outJob.spoff + outJob.row * outJob.cpitch) outJob)).1).1
      copyAt s core i = some j ∧
      copyFinished j = false ∧
      j.waiting = none ∧
      copyHead s core i j = true ∧
      s.team? j.sid = some t ∧
      (∀ q ∈ s.wq, q.sid ≠ j.sid) ∧
      rowHeld s core t j = false ∧
      j.out = true ∧
      rowVa { s with current := some j.sid } { sid := j.sid, core := core, ctx := t.ctx, scope := .team, pol := false, engine := true } j = (s1, .ok va) ∧
      rowCheck j va = none ∧
      writeRow (foldTable s1 t j).tick1 t va (rowOut j.kind j.fmt (copySource (foldTable s1 t j) core (t.spadOff + j.spoff + j.row * j.cpitch) j)).1 = (s2, .ok ())) ∧
    (∃ (s : State),
      let core := 0
      let i := 0
      let j := gatherJob
      let t := T0
      let s1 := (rowVa { s with current := some 0 } rowAcc gatherJob).1
      let m := errOr ⟨0, .absent false⟩ (rowVa { s with current := some 0 } rowAcc gatherJob).2
      copyAt s core i = some j ∧
      copyFinished j = false ∧
      j.waiting = none ∧
      copyHead s core i j = true ∧
      s.team? j.sid = some t ∧
      (∀ q ∈ s.wq, q.sid ≠ j.sid) ∧
      rowHeld s core t j = false ∧
      rowVa { s with current := some j.sid } { sid := j.sid, core := core, ctx := t.ctx, scope := .team, pol := false, engine := true } j = (s1, .error m)) ∧
    (∃ (s : State),
      let core := 0
      let i := 0
      let j := farJob
      let t := T0
      let s1 := (rowVa { s with current := some 0 } rowAcc farJob).1
      let va := (2 ^ 56 : Nat)
      let c := Cause.noncanonical
      let v := (2 ^ 56 : Nat)
      copyAt s core i = some j ∧
      copyFinished j = false ∧
      j.waiting = none ∧
      copyHead s core i j = true ∧
      s.team? j.sid = some t ∧
      (∀ q ∈ s.wq, q.sid ≠ j.sid) ∧
      rowHeld s core t j = false ∧
      rowVa { s with current := some j.sid } { sid := j.sid, core := core, ctx := t.ctx, scope := .team, pol := false, engine := true } j = (s1, .ok va) ∧
      rowCheck j va = some (c, v)) ∧
    (∃ (s : State),
      let core := 0
      let i := 0
      let j := blankJob false
      let t := T0
      copyAt s core i = some j ∧
      copyFinished j = true ∧
      copyHead s core i j = true ∧
      j.failed = none ∧
      j.clobbered = [] ∧
      s.team? j.sid = some t ∧
      t.key = j.tkey ∧
      j.reg ≠ 0 ∧
      j.reg < 64) ∧
    (∃ (s : State),
      let core := 0
      let i := 0
      let j := failJob
      let t := T0
      let c := Cause.pageFault
      let v := (9 : Word)
      copyAt s core i = some j ∧
      copyFinished j = true ∧
      copyHead s core i j = true ∧
      j.failed = some (c, v) ∧
      j.clobbered = [] ∧
      s.team? j.sid = some t ∧
      t.key = j.tkey ∧
      j.events = 0 ∧
      t.inTrap = false ∧
      t.exited = false ∧
      j.reg ≠ 0 ∧
      j.reg < 64) ∧
    (∃ (s : State),
      let core := 0
      let i := 0
      let e := mmaE
      (s.core core).matrix[i]? = some e ∧
      arrayOp e = true ∧
      firstStart s core (canGather s core) = some i ∧
      olderEntry s core e (canGather s) = false) ∧
    (∃ (s : State),
      let core := 0
      let i := 0
      let e := matE
      (s.core core).matrix[i]? = some e ∧
      arrayOp e = false ∧
      firstStart s core (canTransfer s core) = some i) ∧
    (∃ (s : State),
      let core := 0
      let i := 0
      let e := ({ mmaE with stage := .gathering 0 } : MEntry)
      let n := 0
      (s.core core).matrix[i]? = some e ∧
      e.stage = .gathering n ∧
      n ≤ s.clock ∧
      e.odd = false) ∧
    (∃ (s : State),
      let core := 0
      let i := 0
      let e := ({ mmaE with stage := .running 0 } : MEntry)
      let t := T64
      (s.core core).matrix[i]? = some e ∧
      s.team? e.sid = some t ∧
      opDue s core t e = true ∧
      (arrayOp e = true ∨ isGlobal e = false)) ∧
    (∃ (s : State),
      let core := 0
      let i := 0
      let e := goodE
      let t := T64
      let s1 := (transferStep s 0 T64 goodE).1
      let e1 := gotOr goodE (transferStep s 0 T64 goodE).2
      (s.core core).matrix[i]? = some e ∧
      s.team? e.sid = some t ∧
      opDue s core t e = true ∧
      arrayOp e = false ∧
      isGlobal e = true ∧
      e.row < 64 ∧
      transferStep s core t e = (s1, .ok e1)) ∧
    (∃ (s : State),
      let core := 0
      let i := 0
      let e := loadE
      let t := T64
      let s1 := (transferStep s 0 T64 loadE).1
      let m := errOr ⟨0, .absent false⟩ (transferStep s 0 T64 loadE).2
      let k := Cause.noncanonical
      let u := T64
      (s.core core).matrix[i]? = some e ∧
      s.team? e.sid = some t ∧
      opDue s core t e = true ∧
      arrayOp e = false ∧
      isGlobal e = true ∧
      transferStep s core t e = (s1, .error m) ∧
      m.fail = .hard k ∧
      (completeEntry s1 core e e.events).team? e.sid = some u ∧
      u.key = e.tkey ∧
      u.inTrap = false ∧
      u.exited = false) ∧
    (∃ (s : State),
      let core := 0
      let i := 0
      let e := absE
      let t := T64
      let s1 := (transferStep s 0 T64 absE).1
      let m := errOr ⟨0, .absent false⟩ (transferStep s 0 T64 absE).2
      let b := false
      (s.core core).matrix[i]? = some e ∧
      s.team? e.sid = some t ∧
      opDue s core t e = true ∧
      arrayOp e = false ∧
      isGlobal e = true ∧
      transferStep s core t e = (s1, .error m) ∧
      m.fail = .absent b ∧
      Tab.get 0 e.served (m.va.toNat / 4096) < 2) ∧
    (∃ (s : State),
      s.hub = [] ∧
      (barrierKeys s).any (fun k => (barrierOf s k.1 k.2).meets) = true ∧
      (s.launches.map Launch.lid).Nodup) ∧
    (∃ (s : State),
      let v := 0
      let w := winC
      (s.vent v).run = none ∧
      nextSection s v = some w ∧
      w.escalate = false) ∧
    (∃ (s : State),
      let v := 0
      let w := winC
      let r := run0
      let e := 0
      let args := callArgs
      let s1 := (runCall (s.vent 0) winC 0 callArgs (s, run0)).1.1
      let r1 := (runCall (s.vent 0) winC 0 callArgs (s, run0)).1.2
      nextCall s v = some (w, r, e, args) ∧
      runCall (s.vent v) w e args (s, r) = ((s1, r1), .ok ())) ∧
    (∃ (s : State),
      let v := 0
      let w := winC
      let r := run0
      let e := 0
      let args := callArgs
      let s1 := (runCall (s.vent 0) winC 0 callArgs (s, run0)).1.1
      let r1 := (runCall (s.vent 0) winC 0 callArgs (s, run0)).1.2
      let m := (⟨0x20000, .absent false⟩ : Missing)
      let wr := true
      nextCall s v = some (w, r, e, args) ∧
      runCall (s.vent v) w e args (s, r) = ((s1, r1), .error (.miss m wr)) ∧
      Tab.get 0 r.served (m.va.toNat / 4096) < 2) ∧
    (∃ (s : State),
      let v := 0
      let w := winM
      let r := run0
      wantsCommit s v = some (w, r) ∧
      r.hold = false) ∧
    (∃ (s : State),
      let v := 0
      let w := winM
      let r := ({ run0 with hold := true } : VentRun)
      wantsCommit s v = some (w, r) ∧
      r.hold = true) ∧
    (∃ (s : State),
      let v := 0
      let w := winM
      let wc := s.cores.foldl (fun (m : BitVec 1024) c => m ||| (sigOf s c.1 w.num).2) 0
      let r := runHold
      let s1 := s.onWindow w.num (fun w => statSet (statSet (statSet w 5 (popCount wc)) 6 (popCount r.rv)) 7 (popCount r.wv))
      let imm := (⟨false, 0, 0⟩ : CommitImm)
      let reg := 4
      let tok := 0
      let sid := 0
      let t := TW
      let p := (vEach r.buffer (vDrain w) (s1, r)).1
      wantsCommit s v = some (w, r) ∧
      r.hold = true ∧
      secCommit w = some (imm, reg, tok) ∧
      (w.queue.dropWhile isCall).drop 1 = [] ∧
      w.newCsr = none ∧
      (r.escalated = true ∨ s.cores.foldl (fun (m : BitVec 1024) c => m ||| (sigOf s c.1 w.num).2) 0 &&& (r.rv ||| r.wv) = 0) ∧
      vEach r.buffer (vDrain w) (s1, r) = (p, .ok ()) ∧
      p.1.teamByKey w.tkey = some (sid, t) ∧
      p.1.team? sid = some t ∧
      t.key = w.tkey ∧
      0 < reg ∧
      reg < 64) ∧
    (∃ (s : State),
      let v := 0
      let w := winM
      let wc := s.cores.foldl (fun (m : BitVec 1024) c => m ||| (sigOf s c.1 w.num).2) 0
      let r := runBad
      let s1 := s.onWindow w.num (fun w => statSet (statSet (statSet w 5 (popCount wc)) 6 (popCount r.rv)) 7 (popCount r.wv))
      let p := (vEach r.buffer (vDrain w) (s1, r)).1
      let x := VStop.cause Cause.sealWrite
      wantsCommit s v = some (w, r) ∧
      r.hold = true ∧
      (r.escalated = true ∨ s.cores.foldl (fun (m : BitVec 1024) c => m ||| (sigOf s c.1 w.num).2) 0 &&& (r.rv ||| r.wv) = 0) ∧
      vEach r.buffer (vDrain w) (s1, r) = (p, .error x)) ∧
    (∃ (s : State),
      let r := ({ reg0 with ending := true } : Region)
      let t := TEnd
      nextCommit s = some r ∧
      s.committedAt ≠ some s.clock ∧
      s.wq.any (queuedUnder s r) = false ∧
      s.team? r.sid = some t ∧
      (∀ x ∈ s.spec, x.slot = r.slot → sealedAt s x.ctx (x.line * 64) = false)) ∧
    (∃ (s : State),
      let r := ({ reg0 with ending := true } : Region)
      let x := (⟨0, 0, 1, 0x800, 1, 0, tr0⟩ : SpecLine)
      nextCommit s = some r ∧
      s.committedAt ≠ some s.clock ∧
      s.wq.any (queuedUnder s r) = false ∧
      x ∈ s.spec ∧
      x.slot = r.slot ∧
      sealedAt s x.ctx (x.line * 64) = true) ∧
    (∃ (s : State),
      s.committedAt = some s.clock) ∧
    (∃ (s : State),
      let r := ({ reg0 with ending := true } : Region)
      nextCommit s = some r ∧
      s.committedAt ≠ some s.clock ∧
      s.wq.any (queuedUnder s r) = true) ∧
    (∃ (s : State),
      let core := 0
      let i := 0
      let e := ({ mmaE with stage := .running 0 } : MEntry)
      let t := T64
      (s.core core).matrix[i]? = some e ∧
      s.team? e.sid = some t ∧
      opDue s core t e = true ∧
      arrayOp e = true ∧
      OperandsStill s core e ∧
      e.idx.length = (if e.op = .mma2 then 128 else 64)) ∧
    (∃ (s : State),
      let core := 0
      let i := 0
      let e := runE .mzero 0
      let t := T64
      (s.core core).matrix[i]? = some e ∧
      s.team? e.sid = some t ∧
      opDue s core t e = true ∧
      e.op = .mzero) ∧
    (∃ (s : State),
      let core := 0
      let i := 0
      let e := runE (.mload false true) 0
      let t := T64
      let bf := false
      (s.core core).matrix[i]? = some e ∧
      s.team? e.sid = some t ∧
      opDue s core t e = true ∧
      e.op = .mload bf true ∧
      OperandsStill s core e) ∧
    (∃ (s : State),
      let core := 0
      let i := 0
      let e := runE (.mdrain false false true) (256 * 2 ^ 64)
      let t := T64
      let bf := false
      let plus := false
      (s.core core).matrix[i]? = some e ∧
      s.team? e.sid = some t ∧
      opDue s core t e = true ∧
      e.op = .mdrain bf plus true ∧
      OperandsStill s core e ∧
      (∀ r r' k k', r < 64 → r' < 64 → k < 64 * tElem bf → k' < 64 * tElem bf → spadKey core (t.spadOff + tRow e.desc r + k) = spadKey core (t.spadOff + tRow e.desc r' + k') → r = r' ∧ k = k')) ∧
    (∃ (s : State),
      let core := 0
      let i := 0
      let e := runE (.mload false false) 0x20000
      let t := T64
      let bf := false
      let l := 0x800
      let mask := ones
      let h := home0
      (s.core core).matrix[i]? = some e ∧
      s.team? e.sid = some t ∧
      opDue s core t e = true ∧
      e.op = .mload bf false ∧
      e.row < 64 ∧
      (rowParts e e.row)[e.seg]? = some (l, mask) ∧
      s.home? t.ctx l = some h ∧
      mask &&& ~~~ h.valid = 0 ∧
      (∀ x, s.l1? core t.ctx l = some x → x.dirty = 0) ∧
      (∀ q ∈ s.wq, q.sid ≠ e.sid)) ∧
    (∃ (s : State),
      let core := 0
      let i := 0
      let e := runE (.mdrain false false false) (0x20000 + 256 * 2 ^ 64)
      let t := T64
      let bf := false
      let plus := false
      let l := 0x800
      let mask := ones
      (s.core core).matrix[i]? = some e ∧
      s.team? e.sid = some t ∧
      opDue s core t e = true ∧
      e.op = .mdrain bf plus false ∧
      e.row < 64 ∧
      (rowParts e e.row)[e.seg]? = some (l, mask) ∧
      lineDone e e.row l = false ∧
      (∀ k ∈ rowLines e e.row, Owned s t k) ∧
      (∀ q ∈ s.wq, q.sid ≠ e.sid) ∧
      s.tracked = [] ∧
      tdAddr e.desc % tElem bf = 0 ∧
      64 * tElem bf ≤ tdPitch e.desc ∧
      tdPitch e.desc % tElem bf = 0 ∧
      tdAddr e.desc + 64 * tdPitch e.desc ≤ 2 ^ 64) :=
  ⟨⟨SCopyP rowJob, and6 (by decide +kernel) ⟨by decide +kernel, by decide +kernel, got_of_val (by decide +kernel), by decide +kernel, got_of (by decide +kernel)⟩⟩,
   ⟨SCopyP outJob, and6 (by decide +kernel) ⟨by decide +kernel, by decide +kernel, got_of_val (by decide +kernel), by decide +kernel, got_of_val (by decide +kernel)⟩⟩,
   ⟨SCopyP gatherJob, and6 (by decide +kernel) ⟨by decide +kernel, err_of (by decide +kernel)⟩⟩,
   ⟨SCopyP farJob, and6 (by decide +kernel) ⟨by decide +kernel, got_of_val (by decide +kernel), by decide +kernel⟩⟩,
   ⟨SCopy (blankJob false), by decide +kernel⟩,
   ⟨SCopy failJob, by decide +kernel⟩,
   ⟨SMat mmaE T64, by decide +kernel⟩,
   ⟨SMat matE T64, by decide +kernel⟩,
   ⟨SMat { mmaE with stage := .gathering 0 } T64, by decide +kernel⟩,
   ⟨SMat { mmaE with stage := .running 0 } T64, by decide +kernel⟩,
   ⟨paged (SMat goodE T64), and6 (by decide +kernel) (got_of_val (by decide +kernel))⟩,
   ⟨SMat loadE T64, by decide +kernel, by decide +kernel, by decide +kernel, by decide +kernel, by decide +kernel, err_of (by decide +kernel), by decide +kernel⟩,
   ⟨SMat absE T64, by decide +kernel, by decide +kernel, by decide +kernel, by decide +kernel, by decide +kernel, err_of (by decide +kernel), by decide +kernel⟩,
   ⟨SHub, by decide +kernel⟩,
   ⟨SVent winC none, by decide +kernel⟩,
   ⟨SVent winC (some run0), by decide +kernel⟩,
   ⟨SVentMiss, by decide +kernel⟩,
   ⟨SVent winM (some run0), by decide +kernel⟩,
   ⟨SVent winM (some { run0 with hold := true }), by decide +kernel⟩,
   ⟨SVent winM (some runHold), by decide +kernel⟩,
   ⟨SVentBad, by decide +kernel⟩,
   ⟨SEnd, by decide +kernel⟩,
   ⟨SSeal, by decide +kernel⟩,
   ⟨{ S0 with committedAt := some 0 }, by decide +kernel⟩,
   ⟨SEndQ, by decide +kernel⟩,
   ⟨SMat { mmaE with stage := .running 0 } T64, by decide +kernel, by decide +kernel, by decide +kernel, by decide +kernel, ⟨by decide +kernel, fun _ _ _ _ h => by have h2 : (none : Option SpadWas) = some _ := h; cases h2⟩, by decide +kernel⟩,
   ⟨SMat (runE .mzero 0) T64, by decide +kernel⟩,
   ⟨SMat (runE (.mload false true) 0) T64, by decide +kernel, by decide +kernel, by decide +kernel, by decide +kernel, ⟨by decide +kernel, fun _ _ _ _ h => by have h2 : (none : Option SpadWas) = some _ := h; cases h2⟩⟩,
   ⟨SMat (runE (.mdrain false false true) (256 * 2 ^ 64)) T64, by decide +kernel, by decide +kernel, by decide +kernel, by decide +kernel, ⟨by decide +kernel, fun _ _ _ _ h => by have h2 : (none : Option SpadWas) = some _ := h; cases h2⟩, fun r r' k k' _ _ hk hk' h => by
    change k < 256 at hk
    change k' < 256 at hk'
    simp only [spadKey, tRow, show tdAddr (runE (.mdrain false false true) (256 * 2 ^ 64)).desc = 0 by decide +kernel,
      show tdPitch (runE (.mdrain false false true) (256 * 2 ^ 64)).desc = 256 by decide +kernel] at h
    omega⟩,
   ⟨{ SMat (runE (.mload false false) 0x20000) T64 with homes := [home0] }, by decide +kernel⟩,
   ⟨{ SMat (runE (.mdrain false false false) (0x20000 + 256 * 2 ^ 64)) T64 with homes := [home0, { home0 with line := 0x801 }, { home0 with line := 0x802 }, { home0 with line := 0x803 }] }, and6 (by decide +kernel) ⟨by decide +kernel, allOwned_of (by decide +kernel), by decide +kernel⟩⟩⟩

theorem witness_WorkSteps :
    (∃ (s : State),
      let ctx := 1
      let qid := 0
      let w := watch0
      s.watch? ctx qid = some w ∧
      acceptDue s w = true) ∧
    (∃ (s : State),
      let ctx := 1
      let qid := 0
      let w := ({ wHead with next := 5 } : QueueWatch)
      let c := 0
      let e := gotOr (qEntryOf 0) (lookupQueue 1 0 s).2
      let s1 := (lookupQueue 1 0 s).1
      let s2 := (readVa unitOf 1 (slotVa e.ring e.rlog w.next) 64 64 s1).1
      let bs := got (readVa unitOf 1 (slotVa e.ring e.rlog w.next) 64 64 s1).2
      s.watch? ctx qid = some w ∧
      acceptDue s w = true ∧
      w.owed = [] ∧
      w.passed = [] ∧
      w.forwarded = [] ∧
      w.failing = [] ∧
      w.head = some c ∧
      lookupQueue ctx qid s = (s1, .ok e) ∧
      e.names qid = true ∧
      readVa unitOf ctx (slotVa e.ring e.rlog w.next) 64 64 s1 = (s2, .ok bs) ∧
      wordAt bs 0 ≠ 2 ^ 64 - 1 ∧
      wordAt bs 0 ≠ (w.next + 1) % 2 ^ 64) ∧
    (∃ (s : State),
      let ctx := 1
      let qid := 0
      let w := wHead
      let c := 0
      let e := gotOr (qEntryOf 0) (lookupQueue 1 0 s).2
      let s1 := (lookupQueue 1 0 s).1
      let s2 := (readVa unitOf 1 (slotVa e.ring e.rlog w.next) 64 64 s1).1
      let bs := got (readVa unitOf 1 (slotVa e.ring e.rlog w.next) 64 64 s1).2
      let kind := leNat ((bs.drop 16).take 1)
      let nreg := if kind = 2 then leNat ((bs.drop 40).take 1) % 8 else 0
      let s3 := (readRecord 1 (wordAt bs 24) (s2.setWatch { w with ring := e.ring, rlog := e.rlog })).1
      let r := gotOr (0 : BitVec 1024) (readRecord 1 (wordAt bs 24) (s2.setWatch { w with ring := e.ring, rlog := e.rlog })).2
      let s4 := (readLaunch 1 r (wordAt bs 32) nreg s3).1
      let x := gotOr noReads (readLaunch 1 r (wordAt bs 32) nreg s3).2
      let s5 := (mayWrite unitOf 1 (fld x.lr 576 64) 32 s4).1
      s.watch? ctx qid = some w ∧
      acceptDue s w = true ∧
      w.owed = [] ∧
      w.passed = [] ∧
      w.forwarded = [] ∧
      w.failing = [] ∧
      w.head = some c ∧
      lookupQueue ctx qid s = (s1, .ok e) ∧
      e.names qid = true ∧
      readVa unitOf ctx (slotVa e.ring e.rlog w.next) 64 64 s1 = (s2, .ok bs) ∧
      wordAt bs 0 ≠ 2 ^ 64 - 1 ∧
      wordAt bs 0 = (w.next + 1) % 2 ^ 64 ∧
      (kind = 1 ∨ (kind = 2 ∧ matcherFull s2 w.die = false)) ∧
      wordAt bs 24 % 128 = 0 ∧
      readRecord ctx (wordAt bs 24) (s2.setWatch { w with ring := e.ring, rlog := e.rlog }) = (s3, .ok r) ∧
      readLaunch ctx r (wordAt bs 32) nreg s3 = (s4, .ok x) ∧
      mayWrite unitOf ctx (fld x.lr 576 64) 32 s4 = (s5, .ok ()) ∧
      acceptCheck x (wordAt bs 32) nreg true = none) ∧
    (∃ (s : State),
      let ctx := 1
      let qid := 0
      let w := wHead
      let c := 0
      let e := gotOr (qEntryOf 0) (lookupQueue 1 0 s).2
      let s1 := (lookupQueue 1 0 s).1
      let s2 := (readVa unitOf 1 (slotVa e.ring e.rlog w.next) 64 64 s1).1
      let bs := got (readVa unitOf 1 (slotVa e.ring e.rlog w.next) 64 64 s1).2
      let kind := leNat ((bs.drop 16).take 1)
      let nreg := if kind = 2 then leNat ((bs.drop 40).take 1) % 8 else 0
      let s3 := (readRecord 1 (wordAt bs 24) (s2.setWatch { w with ring := e.ring, rlog := e.rlog })).1
      let r := gotOr (0 : BitVec 1024) (readRecord 1 (wordAt bs 24) (s2.setWatch { w with ring := e.ring, rlog := e.rlog })).2
      let s4 := (readLaunch 1 r (wordAt bs 32) nreg s3).1
      let x := gotOr noReads (readLaunch 1 r (wordAt bs 32) nreg s3).2
      let s5 := (mayWrite unitOf 1 (fld x.lr 576 64) 32 s4).1
      let k := Cause.badRecord
      let usable := true
      s.watch? ctx qid = some w ∧
      acceptDue s w = true ∧
      w.owed = [] ∧
      w.passed = [] ∧
      w.forwarded = [] ∧
      w.failing = [] ∧
      w.head = some c ∧
      lookupQueue ctx qid s = (s1, .ok e) ∧
      e.names qid = true ∧
      readVa unitOf ctx (slotVa e.ring e.rlog w.next) 64 64 s1 = (s2, .ok bs) ∧
      wordAt bs 0 ≠ 2 ^ 64 - 1 ∧
      wordAt bs 0 = (w.next + 1) % 2 ^ 64 ∧
      (kind = 1 ∨ (kind = 2 ∧ matcherFull s2 w.die = false)) ∧
      wordAt bs 24 % 128 = 0 ∧
      readRecord ctx (wordAt bs 24) (s2.setWatch { w with ring := e.ring, rlog := e.rlog }) = (s3, .ok r) ∧
      readLaunch ctx r (wordAt bs 32) nreg s3 = (s4, .ok x) ∧
      mayWrite unitOf ctx (fld x.lr 576 64) 32 s4 = (s5, .ok ()) ∧
      acceptCheck x (wordAt bs 32) nreg true = some (k, usable)) ∧
    (∃ (s : State),
      let ctx := 1
      let qid := 0
      let w := ({ watch0 with asleep := true } : QueueWatch)
      s.watch? ctx qid = some w ∧
      (w.asleep = true ∨ w.retryAt ≠ none)) ∧
    (∃ (s : State),
      let i := 0
      let w := ({ watch0 with retryAt := some 0 } : QueueWatch)
      let n := 0
      s.watches[i]? = some w ∧
      w.retryAt = some n ∧
      n ≤ s.rt) ∧
    (∃ (s : State),
      let sid := 0
      let p := push0
      pushOf s sid = some p ∧
      pushReady s p = true) ∧
    (∃ (s : State),
      let sid := 0
      let p := push0
      pushOf s sid = some p ∧
      pushReady s p = true ∧
      p.slot = none ∧
      0xFFFFFFF0 ≤ p.qid ∧
      p.qid ≤ 0xFFFFFFF3 ∧
      p.task = false) ∧
    (∃ (s : State),
      let sid := 0
      let p := pushQ
      let e := gotOr (qEntryOf 0) (lookupQueue 1 0 s).2
      let s1 := (lookupQueue 1 0 s).1
      let s2 := (readHeader 1 e.ring s1).1
      let tail := 1
      let head := 0
      pushOf s sid = some p ∧
      pushReady s p = true ∧
      p.slot = none ∧
      p.task = false ∧
      p.qid < 0xFFFFFFF0 ∧
      lookupQueue p.ctx p.qid s = (s1, .ok e) ∧
      e.names p.qid = true ∧
      readHeader p.ctx e.ring s1 = (s2, .ok (tail, head)) ∧
      2 ^ e.rlog ≤ (tail + 2 ^ 64 - head) % 2 ^ 64) ∧
    (∃ (s : State),
      let sid := 0
      let p := pushQ
      let e := gotOr (qEntryOf 0) (lookupQueue 1 0 s).2
      let s1 := (lookupQueue 1 0 s).1
      let s2 := (readHeader 1 e.ring s1).1
      let s3 := (writeVa unitOf 1 e.ring 8 (leBytes 8 1) s2).1
      let s4 := (writeVa unitOf 1 (slotVa e.ring e.rlog 0) 64 (pushEntry pushQ 0) s3).1
      let tail := 0
      let head := 0
      let t := T0
      pushOf s sid = some p ∧
      pushReady s p = true ∧
      p.slot = none ∧
      p.task = false ∧
      p.qid < 0xFFFFFFF0 ∧
      lookupQueue p.ctx p.qid s = (s1, .ok e) ∧
      e.names p.qid = true ∧
      readHeader p.ctx e.ring s1 = (s2, .ok (tail, head)) ∧
      (tail + 2 ^ 64 - head) % 2 ^ 64 < 2 ^ e.rlog ∧
      writeVa unitOf p.ctx e.ring 8 (leBytes 8 (tail + 1)) s2 = (s3, .ok ()) ∧
      writeVa unitOf p.ctx (slotVa e.ring e.rlog tail) 64 (pushEntry p tail) s3 = (s4, .ok ()) ∧
      (∀ w, s4.watch? p.ctx p.qid = some w → w.live = false) ∧
      s4.team? p.sid = some t ∧
      t.key = p.key ∧
      0 < p.reg ∧
      p.reg < 64) ∧
    (∃ (s : State),
      let sid := 0
      let p := pushQ
      let e := gotOr (qEntryOf 0) (lookupQueue 1 0 s).2
      let s1 := (lookupQueue 1 0 s).1
      let s2 := (readHeader 1 e.ring s1).1
      let s3 := (writeVa unitOf 1 e.ring 8 (leBytes 8 1) s2).1
      let s4 := (writeVa unitOf 1 (slotVa e.ring e.rlog 0) 64 (pushEntry pushQ 0) s3).1
      let tail := 0
      let head := 0
      let w := ({ wHead with next := 5 } : QueueWatch)
      pushOf s sid = some p ∧
      pushReady s p = true ∧
      p.slot = none ∧
      p.task = false ∧
      p.qid < 0xFFFFFFF0 ∧
      lookupQueue p.ctx p.qid s = (s1, .ok e) ∧
      e.names p.qid = true ∧
      readHeader p.ctx e.ring s1 = (s2, .ok (tail, head)) ∧
      (tail + 2 ^ 64 - head) % 2 ^ 64 < 2 ^ e.rlog ∧
      writeVa unitOf p.ctx e.ring 8 (leBytes 8 (tail + 1)) s2 = (s3, .ok ()) ∧
      writeVa unitOf p.ctx (slotVa e.ring e.rlog tail) 64 (pushEntry p tail) s3 = (s4, .ok ()) ∧
      s4.watch? p.ctx p.qid = some w ∧
      w.live = true ∧
      ctxResident s4 p.ctx = true ∧
      skipPassed w.passed w.next ≠ tail) ∧
    (∃ (s : State),
      let ctx := 1
      let d := 0
      let q := 0
      (d < Config.dies ∧ q < 60 ∧ ¬ (d = 0 ∧ q = 59)) ∧
      s.ctx? ctx ≠ none) ∧
    (∃ (s : State),
      let ctx := 1
      let qid := 0
      let res := true
      let d := 1
      let q := 3
      let c := ({ newCtx .user 0 with qtBase := 0x20000 } : Ctx)
      let s1 := (readVa hostUnit ctx (qEntryVa c qid) 16 16 s).1
      let bs := got (readVa hostUnit ctx (qEntryVa c qid) 16 16 s).2
      let s2 := (writeVa hostUnit ctx (qEntryVa c qid) 4 (leBytes 4 (leNat (bs.take 4) % 2 ^ 21 + q * 2 ^ 21 + d * 2 ^ 27 + (if res then 2 ^ 30 else 0) + 2 ^ 31)) s1).1
      (d < Config.dies ∧ q < 60 ∧ ¬ (d = 0 ∧ q = 59)) ∧
      s.ctx? ctx = some c ∧
      readVa hostUnit ctx (qEntryVa c qid) 16 16 s = (s1, .ok bs) ∧
      (qEntryOf (BitVec.ofNat 128 (leNat bs))).names qid = true ∧
      writeVa hostUnit ctx (qEntryVa c qid) 4 (leBytes 4 (leNat (bs.take 4) % 2 ^ 21 + q * 2 ^ 21 + d * 2 ^ 27 + (if res then 2 ^ 30 else 0) + 2 ^ 31)) s1 = (s2, .ok ())) ∧
    (let d := 0
    let i := 63
    let r := BitVec.ofNat 256 (3 * 2 ^ 192)
    d < Config.dies ∧
      i < 64 ∧
      bindsFwQueue d (bindFields r) = false) ∧
    (∃ (s : State),
      let d := 0
      let i := 3
      let b : BindRec := bind0
      (s.die d).bindNext = [(i, b)]) ∧
    (∃ (s : State),
      let i := 63
      i < 64 ∧
      s.bringUp = 7 ∧
      hwqLen s 0 59 < 256) ∧
    (∃ (s : State),
      let d := 0
      let x := ((regularPick SPlace 0).get (by decide +kernel)).1
      let seats := ((regularPick SPlace 0).get (by decide +kernel)).2
      mayPlace s d = true ∧
      starvedPick s d = none ∧
      regularPick s d = some (x, seats)) ∧
    (∃ (s : State),
      let d := 0
      let x := ((regularPick SPlace 0).get (by decide +kernel)).1
      let seats := ((regularPick SPlace 0).get (by decide +kernel)).2
      let lid := 0
      let l := LWait 0 1
      mayPlace s d = true ∧
      starvedPick s d = none ∧
      regularPick s d = some (x, seats) ∧
      x.kind = .unit lid ∧
      s.launch? lid = some l ∧
      (seats.map (fun k => (seatedTeam s d l l.next x.bind x.spad x.priv k).sid)).Nodup) ∧
    (∃ (s : State),
      let d := 0
      let x := ((starvedPick SStarve 0).get (by decide +kernel)).1
      let seats := ((starvedPick SStarve 0).get (by decide +kernel)).2
      mayPlace s d = true ∧
      starvedPick s d = some (x, seats)) ∧
    (∃ (s : State),
      let d := 0
      (s.hot = true ∨ (s.die d).placedAt = some s.clock)) ∧
    (∃ (s : State),
      let sid := 0
      let t := TRec
      let va := 0x20000
      let s1 := (readPhase 1 0x20000 SRec).1
      let h := (64 * 2 ^ 320 + 0x11000 * 2 ^ 448 : BitVec 512)
      let body := ([] : List Byte)
      s.team? sid = some t ∧
      t.recordVa = some va ∧
      t.failed = none ∧
      t.pf = none ∧
      readPhase t.ctx va s = (s1, .ok (h, body))) ∧
    (∃ (s : State),
      let i := 0
      let b := cast0
      s.casts[i]? = some b ∧
      castFits s b = true) ∧
    (∃ (s : State),
      let lid := 0
      let u := 0
      let k := Cause.cancelled
      (∃ e ∈ unitTeams s lid u, e.2.failed = some k)) ∧
    (∃ (s : State),
      let sid := 0
      let t := TExit
      s.team? sid = some t ∧
      retireReady s sid t = true ∧
      t.handler = none) ∧
    (∃ (s : State),
      let lid := 0
      let l := ({ LDone with handler := some info0 } : Launch)
      s.launch? lid = some l ∧
      launchEnded s l = true ∧
      l.handler ≠ none) ∧
    (∃ (s : State),
      let lid := 0
      let l := LDone
      s.launch? lid = some l ∧
      launchEnded s l = true) ∧
    (∃ (s : State),
      let lid := 0
      let l := LCompl
      let usable := true
      let s1 := (writeVa unitOf 1 0x20000 32 (leBytes 32 (completionRecord s l).toNat) s).1
      s.launch? lid = some l ∧
      launchEnded s l = true ∧
      l.handler = none ∧
      usable = (match l.refused with | some (_, u) => u | none => true) ∧
      usable = true ∧
      writeVa unitOf l.ctx l.compl.toNat 32 (leBytes 32 (completionRecord s l).toNat) s = (s1, .ok ())) ∧
    (∃ (s : State),
      let lid := 0
      let l := LBad
      let k := Cause.badRecord
      let s1 := (writeVa hostUnit 1 (0x20140 + 8) 8 (leBytes 8 (completionStatus l).toNat) s).1
      s.launch? lid = some l ∧
      launchEnded s l = true ∧
      l.handler = none ∧
      l.refused = some (k, false) ∧
      l.ctx ≠ Config.firmwareCtx ∧
      writeVa hostUnit l.ctx (l.entryVa + 8) 8 (leBytes 8 (completionStatus l).toNat) s = (s1, .ok ())) ∧
    (∃ (s : State),
      let p := EccPlace.regs 0
      holders s p ≠ []) ∧
    (let r := BitVec.ofNat 256 (2 ^ 50 + 2 ^ 51 + 59 * 2 ^ 64)
    r.getLsbD 50 = true ∧
      r.getLsbD 51 = true ∧
      r.extractLsb' 64 6 = 59 ∧
      r.extractLsb' 80 16 ≠ 0xFFFF) :=
  ⟨⟨SWatch watch0, by decide +kernel⟩,
   ⟨SWatchOn (SRing 1 (entryAt 0x20200)) { wHead with next := 5 }, and6 (by decide +kernel) ⟨by decide +kernel, gotOr_of (by decide +kernel), by decide +kernel, got_of (by decide +kernel), by decide +kernel⟩⟩,
   ⟨SWatchOn (SAcc 32) wHead, and6 (by decide +kernel) ⟨by decide +kernel, gotOr_of (by decide +kernel), by decide +kernel, got_of (by decide +kernel), by decide +kernel, by decide +kernel, by decide +kernel, by decide +kernel, gotOr_of (by decide +kernel), gotOr_of (by decide +kernel), got_of_val (by decide +kernel), by decide +kernel⟩⟩,
   ⟨SWatchOn (SAcc 33) wHead, and6 (by decide +kernel) ⟨by decide +kernel, gotOr_of (by decide +kernel), by decide +kernel, got_of (by decide +kernel), by decide +kernel, by decide +kernel, by decide +kernel, by decide +kernel, gotOr_of (by decide +kernel), gotOr_of (by decide +kernel), got_of_val (by decide +kernel), by decide +kernel⟩⟩,
   ⟨SWatch { watch0 with asleep := true }, by decide +kernel⟩,
   ⟨SWatch { watch0 with retryAt := some 0 }, by decide +kernel⟩,
   ⟨{ S0 with pushes := [push0] }, by decide +kernel⟩,
   ⟨{ S0 with pushes := [push0] }, by decide +kernel⟩,
   ⟨SPush (SRing 1 0), by decide +kernel, by decide +kernel, by decide +kernel, by decide +kernel, by decide +kernel, gotOr_of (by decide +kernel), by decide +kernel, got_of_val (by decide +kernel), by decide +kernel⟩,
   ⟨SPush (SRing 0 0), by decide +kernel, by decide +kernel, by decide +kernel, by decide +kernel, by decide +kernel, gotOr_of (by decide +kernel), by decide +kernel, got_of_val (by decide +kernel), by decide +kernel, got_of_val (by decide +kernel), got_of_val (by decide +kernel), noneOf (by decide +kernel), by decide +kernel⟩,
   ⟨SPush (SWatchOn (SRing 0 0) { wHead with next := 5 }), by decide +kernel, by decide +kernel, by decide +kernel, by decide +kernel, by decide +kernel, gotOr_of (by decide +kernel), by decide +kernel, got_of_val (by decide +kernel), by decide +kernel, got_of_val (by decide +kernel), got_of_val (by decide +kernel), by decide +kernel⟩,
   ⟨S0, by decide +kernel⟩,
   ⟨SQueue, by decide +kernel, by decide +kernel, got_of (by decide +kernel), by decide +kernel, got_of_val (by decide +kernel)⟩,
   by decide +kernel,
   ⟨S0.setDie 0 { emptyDie with bindNext := [(3, bind0)] }, by decide +kernel⟩,
   ⟨{ S0 with bringUp := 7 }, by decide +kernel⟩,
   ⟨SPlace, by decide +kernel, by decide +kernel, (Option.some_get (by decide +kernel : (regularPick SPlace 0).isSome = true)).symm⟩,
   ⟨SPlace, by decide +kernel, by decide +kernel, (Option.some_get (by decide +kernel : (regularPick SPlace 0).isSome = true)).symm, kind_of (by decide +kernel), by decide +kernel⟩,
   ⟨SStarve, by decide +kernel, (Option.some_get (by decide +kernel : (starvedPick SStarve 0).isSome = true)).symm⟩,
   ⟨{ S0 with hot := true }, by decide +kernel⟩,
   ⟨SRec, by decide +kernel, by decide +kernel, by decide +kernel, by decide +kernel, answer_of (by decide +kernel)⟩,
   ⟨{ SL T0 L0 with casts := [cast0] }, by decide +kernel⟩,
   ⟨SL TFail L0, by decide +kernel⟩,
   ⟨SL TExit L0, by decide +kernel⟩,
   ⟨SLaunch { LDone with handler := some info0 }, by decide +kernel⟩,
   ⟨SLaunch LDone, by decide +kernel⟩,
   ⟨paged (SLaunch LCompl), by decide +kernel, by decide +kernel, by decide +kernel, by decide +kernel, by decide +kernel, got_of_val (by decide +kernel)⟩,
   ⟨paged (SLaunch LBad), by decide +kernel, by decide +kernel, by decide +kernel, by decide +kernel, by decide +kernel, got_of_val (by decide +kernel)⟩,
   ⟨SL T0 L0, by decide +kernel⟩,
   by decide +kernel⟩

theorem witness_CallSteps :
    (∃ (s : State),
      let q := (none : Option Nat)
      let k := call0
      let x := arr0
      s.arrivals.find? (fun y => y.port == q && y.call == k) = some x ∧
      arrivalReady s x = true ∧
      s.ctxs.find? (fun c => c.2.gyJobtag != 0 && c.2.gyJobtag == x.call.jobtag) = none) ∧
    (∃ (s : State),
      let q := (none : Option Nat)
      let k := call0
      let x := arr0
      let ctx := 1
      let c := arrCtx
      let s1 := (readVa unitOf ctx ((signVa (c.gyHtab.extractLsb' 0 57 &&& ~~~ (BitVec.ofNat 57 (2 ^ 18 - 1))) + 64 * x.call.handler.toNat) % 2 ^ 64) 64 64 s).1
      let bs := got (readVa unitOf ctx ((signVa (c.gyHtab.extractLsb' 0 57 &&& ~~~ (BitVec.ofNat 57 (2 ^ 18 - 1))) + 64 * x.call.handler.toNat) % 2 ^ 64) 64 64 s).2
      s.arrivals.find? (fun y => y.port == q && y.call == k) = some x ∧
      arrivalReady s x = true ∧
      s.ctxs.find? (fun c => c.2.gyJobtag != 0 && c.2.gyJobtag == x.call.jobtag) = some (ctx, c) ∧
      readVa unitOf ctx ((signVa (c.gyHtab.extractLsb' 0 57 &&& ~~~ (BitVec.ofNat 57 (2 ^ 18 - 1))) + 64 * x.call.handler.toNat) % 2 ^ 64) 64 64 s = (s1, .ok bs) ∧
      hePresent (BitVec.ofNat 512 (leNat bs)) = false) ∧
    (∃ (s : State),
      let q := (none : Option Nat)
      let k := call0
      let x := arr0
      let ctx := 1
      let c := arrCtx
      let s1 := (readVa unitOf ctx ((signVa (c.gyHtab.extractLsb' 0 57 &&& ~~~ (BitVec.ofNat 57 (2 ^ 18 - 1))) + 64 * x.call.handler.toNat) % 2 ^ 64) 64 64 s).1
      let bs := got (readVa unitOf ctx ((signVa (c.gyHtab.extractLsb' 0 57 &&& ~~~ (BitVec.ofNat 57 (2 ^ 18 - 1))) + 64 * x.call.handler.toNat) % 2 ^ 64) 64 64 s).2
      let e : BitVec 512 := BitVec.ofNat 512 (leNat bs)
      s.arrivals.find? (fun y => y.port == q && y.call == k) = some x ∧
      arrivalReady s x = true ∧
      s.ctxs.find? (fun c => c.2.gyJobtag != 0 && c.2.gyJobtag == x.call.jobtag) = some (ctx, c) ∧
      readVa unitOf ctx ((signVa (c.gyHtab.extractLsb' 0 57 &&& ~~~ (BitVec.ofNat 57 (2 ^ 18 - 1))) + 64 * x.call.handler.toNat) % 2 ^ 64) 64 64 s = (s1, .ok bs) ∧
      hePresent e = true ∧
      e.getLsbD 216 = false ∧
      (x.call.sdev.toNat < fld e 192 12 ∨ fld e 204 12 < x.call.sdev.toNat)) ∧
    (∃ (s : State),
      let q := (none : Option Nat)
      let k := call0
      let x := arr0
      let ctx := 1
      let c := arrCtx
      let s1 := (readVa unitOf ctx ((signVa (c.gyHtab.extractLsb' 0 57 &&& ~~~ (BitVec.ofNat 57 (2 ^ 18 - 1))) + 64 * x.call.handler.toNat) % 2 ^ 64) 64 64 s).1
      let bs := got (readVa unitOf ctx ((signVa (c.gyHtab.extractLsb' 0 57 &&& ~~~ (BitVec.ofNat 57 (2 ^ 18 - 1))) + 64 * x.call.handler.toNat) % 2 ^ 64) 64 64 s).2
      let e : BitVec 512 := BitVec.ofNat 512 (leNat bs)
      s.arrivals.find? (fun y => y.port == q && y.call == k) = some x ∧
      arrivalReady s x = true ∧
      s.ctxs.find? (fun c => c.2.gyJobtag != 0 && c.2.gyJobtag == x.call.jobtag) = some (ctx, c) ∧
      readVa unitOf ctx ((signVa (c.gyHtab.extractLsb' 0 57 &&& ~~~ (BitVec.ofNat 57 (2 ^ 18 - 1))) + 64 * x.call.handler.toNat) % 2 ^ 64) 64 64 s = (s1, .ok bs) ∧
      hePresent e = true ∧
      (e.getLsbD 216 = true ∨ (fld e 192 12 ≤ x.call.sdev.toNat ∧ x.call.sdev.toNat ≤ fld e 204 12)) ∧
      badWidth (fld e 64 16) = true) ∧
    (∃ (s : State),
      let q := (none : Option Nat)
      let k := call0
      let x := arr0
      let ctx := 1
      let c := arrCtx
      let s1 := (readVa unitOf ctx ((signVa (c.gyHtab.extractLsb' 0 57 &&& ~~~ (BitVec.ofNat 57 (2 ^ 18 - 1))) + 64 * x.call.handler.toNat) % 2 ^ 64) 64 64 s).1
      let bs := got (readVa unitOf ctx ((signVa (c.gyHtab.extractLsb' 0 57 &&& ~~~ (BitVec.ofNat 57 (2 ^ 18 - 1))) + 64 * x.call.handler.toNat) % 2 ^ 64) 64 64 s).2
      let e : BitVec 512 := BitVec.ofNat 512 (leNat bs)
      s.arrivals.find? (fun y => y.port == q && y.call == k) = some x ∧
      arrivalReady s x = true ∧
      s.ctxs.find? (fun c => c.2.gyJobtag != 0 && c.2.gyJobtag == x.call.jobtag) = some (ctx, c) ∧
      readVa unitOf ctx ((signVa (c.gyHtab.extractLsb' 0 57 &&& ~~~ (BitVec.ofNat 57 (2 ^ 18 - 1))) + 64 * x.call.handler.toNat) % 2 ^ 64) 64 64 s = (s1, .ok bs) ∧
      hePresent e = true ∧
      (e.getLsbD 216 = true ∨ (fld e 192 12 ≤ x.call.sdev.toNat ∧ x.call.sdev.toNat ≤ fld e 204 12)) ∧
      badWidth (fld e 64 16) = false ∧
      (badGrans (fld e 80 5) (fld e 85 6) = true ∨ 384 < fld e 128 9 ∨ 256 < fld e 137 9)) ∧
    (∃ (s : State),
      let q := (none : Option Nat)
      let k := call0
      let x := arr0
      let ctx := 1
      let c := arrCtx
      let s1 := (readVa unitOf ctx ((signVa (c.gyHtab.extractLsb' 0 57 &&& ~~~ (BitVec.ofNat 57 (2 ^ 18 - 1))) + 64 * x.call.handler.toNat) % 2 ^ 64) 64 64 s).1
      let bs := got (readVa unitOf ctx ((signVa (c.gyHtab.extractLsb' 0 57 &&& ~~~ (BitVec.ofNat 57 (2 ^ 18 - 1))) + 64 * x.call.handler.toNat) % 2 ^ 64) 64 64 s).2
      let e : BitVec 512 := BitVec.ofNat 512 (leNat bs)
      s.arrivals.find? (fun y => y.port == q && y.call == k) = some x ∧
      arrivalReady s x = true ∧
      s.ctxs.find? (fun c => c.2.gyJobtag != 0 && c.2.gyJobtag == x.call.jobtag) = some (ctx, c) ∧
      readVa unitOf ctx ((signVa (c.gyHtab.extractLsb' 0 57 &&& ~~~ (BitVec.ofNat 57 (2 ^ 18 - 1))) + 64 * x.call.handler.toNat) % 2 ^ 64) 64 64 s = (s1, .ok bs) ∧
      entryCheck e x.call.sdev = none ∧
      c.resident = true ∧
      hasRoom s1 x.die ctx x.call.cls.toNat = true ∧
      (∀ r, ringOf s1 ctx x.call.handler.toNat = some r → r.calls = [])) ∧
    (∃ (s : State),
      let q := (none : Option Nat)
      let k := call0
      let x := arr0
      let ctx := 1
      let c := fullCtx
      let s1 := (readVa unitOf ctx ((signVa (c.gyHtab.extractLsb' 0 57 &&& ~~~ (BitVec.ofNat 57 (2 ^ 18 - 1))) + 64 * x.call.handler.toNat) % 2 ^ 64) 64 64 s).1
      let bs := got (readVa unitOf ctx ((signVa (c.gyHtab.extractLsb' 0 57 &&& ~~~ (BitVec.ofNat 57 (2 ^ 18 - 1))) + 64 * x.call.handler.toNat) % 2 ^ 64) 64 64 s).2
      let e : BitVec 512 := BitVec.ofNat 512 (leNat bs)
      s.arrivals.find? (fun y => y.port == q && y.call == k) = some x ∧
      arrivalReady s x = true ∧
      s.ctxs.find? (fun c => c.2.gyJobtag != 0 && c.2.gyJobtag == x.call.jobtag) = some (ctx, c) ∧
      readVa unitOf ctx ((signVa (c.gyHtab.extractLsb' 0 57 &&& ~~~ (BitVec.ofNat 57 (2 ^ 18 - 1))) + 64 * x.call.handler.toNat) % 2 ^ 64) 64 64 s = (s1, .ok bs) ∧
      entryCheck e x.call.sdev = none ∧
      c.resident = true ∧
      hasRoom s1 x.die ctx x.call.cls.toNat = false ∧
      hePolicy e = 0) ∧
    (∃ (s : State),
      let q := (none : Option Nat)
      let k := call0
      let x := arr0
      let ctx := 1
      let c := fullCtx
      let s1 := (readVa unitOf ctx ((signVa (c.gyHtab.extractLsb' 0 57 &&& ~~~ (BitVec.ofNat 57 (2 ^ 18 - 1))) + 64 * x.call.handler.toNat) % 2 ^ 64) 64 64 s).1
      let bs := got (readVa unitOf ctx ((signVa (c.gyHtab.extractLsb' 0 57 &&& ~~~ (BitVec.ofNat 57 (2 ^ 18 - 1))) + 64 * x.call.handler.toNat) % 2 ^ 64) 64 64 s).2
      let e : BitVec 512 := BitVec.ofNat 512 (leNat bs)
      s.arrivals.find? (fun y => y.port == q && y.call == k) = some x ∧
      arrivalReady s x = true ∧
      s.ctxs.find? (fun c => c.2.gyJobtag != 0 && c.2.gyJobtag == x.call.jobtag) = some (ctx, c) ∧
      readVa unitOf ctx ((signVa (c.gyHtab.extractLsb' 0 57 &&& ~~~ (BitVec.ofNat 57 (2 ^ 18 - 1))) + 64 * x.call.handler.toNat) % 2 ^ 64) 64 64 s = (s1, .ok bs) ∧
      entryCheck e x.call.sdev = none ∧
      c.resident = true ∧
      hasRoom s1 x.die ctx x.call.cls.toNat = false ∧
      hePolicy e = 2) ∧
    (∃ (s : State),
      let sref := 0
      let slot := 3
      let sp := false
      let x := slot1
      mailFits s sref slot (.callAck sref slot sp) = true ∧
      slotOf s sref slot = some x ∧
      x.reply = true ∧
      x.gone = false) ∧
    (∃ (s : State),
      let sref := 0
      let slot := 3
      let sp := false
      let x := slotNo
      let sid := 0
      let t := TSlot slotNo
      mailFits s sref slot (.callAck sref slot sp) = true ∧
      s.teamByKey sref = some (sid, t) ∧
      t.key = sref ∧
      Tab.find t.slots slot = some x ∧
      x.reply = false ∧
      x.gone = false ∧
      x.landed = false ∧
      x.reg ≠ 0 ∧
      x.reg < 64) ∧
    (∃ (s : State),
      let sref := 7
      let slot := 3
      let sp := false
      mailFits s sref slot (.callAck sref slot sp) = true ∧
      slotOf s sref slot = none) ∧
    (∃ (s : State),
      let sref := 0
      let slot := 3
      let k := (0 : BitVec 9)
      let cls := (0 : BitVec 2)
      let sp := false
      let v := (9 : BitVec 32)
      let x := slot1
      let sid := 0
      let t := TSlot slot1
      mailFits s sref slot (.replyLand sref slot k cls sp v) = true ∧
      s.teamByKey sref = some (sid, t) ∧
      t.key = sref ∧
      Tab.find t.slots slot = some x ∧
      x.landed = false ∧
      x.reg ≠ 0 ∧
      x.reg < 64) ∧
    (∃ (s : State),
      let sref := 7
      let slot := 3
      let k := (0 : BitVec 9)
      let cls := (0 : BitVec 2)
      let sp := false
      let v := (9 : BitVec 32)
      mailFits s sref slot (.replyLand sref slot k cls sp v) = true ∧
      slotOf s sref slot = none) ∧
    (∃ (s : State),
      let sref := 0
      let slot := 3
      let x := slot1
      let sid := 0
      let t := TSlot slot1
      s.teamByKey sref = some (sid, t) ∧
      t.key = sref ∧
      Tab.find t.slots slot = some x ∧
      callLost s sref x = true ∧
      x.reg ≠ 0 ∧
      x.reg < 64) ∧
    (∃ (s : State),
      let d := 0
      let cls := 1
      let e := gyE
      promoted s d cls = some e) ∧
    (∃ (s : State),
      let ctx := 1
      let n := 0
      let d := 0
      let r := ring0
      let k := call0
      let e := (0 : BitVec 512)
      let rest := ([] : List (Call × BitVec 512))
      let s1 := (spillRead ring0 SSpill).1
      let bs := List.replicate 64 (0 : Byte)
      ringOf s ctx n = some r ∧
      drainDie s r = some d ∧
      r.calls = (k, e) :: rest ∧
      spillRead r s = (s1, .ok bs)) ∧
    (∃ (s : State),
      let q := 0
      let cls := 0
      let x := stall0
      let y := newCtx .user 0
      s.stalls.find? (fun z => z.port == q && z.call.cls.toNat == cls) = some x ∧
      hasRoom s x.die x.ctx cls = true ∧
      s.ctx? x.ctx = some y ∧
      y.resident = true) ∧
    (∃ (s : State),
      let q := 0
      let lane := 1
      (s.port q).up = true ∧
      lane < 2 ∧
      (s.port q).rxCount < 2 ^ 20) ∧
    (∃ (s : State),
      let q := 0
      let lane := 1
      let n := 5
      (s.port q).up = true ∧
      lane < 2 ∧
      (s.port q).rxCount < 2 ^ 20 ∧
      n ≠ (s.port q).rxNext) ∧
    (∃ (s : State),
      let p := 0
      let f := ((0, .ack 0 0 false) : Nat × FlitLoad)
      let r := ([] : List (Nat × FlitLoad))
      (s.port p).replay = f :: r ∧
      (s.port p).up = true) ∧
    (∃ (s : State),
      let p := 0
      let n := 0
      (s.port p).up = true ∧
      (∃ f ∈ (s.port p).replay, f.1 = n)) ∧
    (∃ (s : State),
      let p := 0
      2 ^ 20 ≤ (s.port p).rxCount) ∧
    (∃ (s : State),
      let p := 0
      let lane := 1
      (s.port p).open = true ∧
      (s.port p).lanes = 2 ∧
      lane < 2 ∧
      16 ≤ Tab.get 0 (s.port p).crc lane) ∧
    (∃ (s : State),
      let p := 0
      let lane := 1
      (s.port p).repair = .draining lane ∧
      (s.port p).up = true ∧
      (s.port p).replay = []) ∧
    (∃ (s : State),
      let p := 0
      let n := 0
      (s.port p).repair = .retraining n ∧
      (s.port p).up = true ∧
      n ≤ s.rt) ∧
    (∃ (s : State),
      let p := 0
      let dev := (5 : BitVec 12)
      (s.port p).up = false ∧
      p < 128 ∧
      s.devId ≠ 0xFFF ∧
      dev ≠ 0xFFF ∧
      dev ≠ s.devId) ∧
    (∃ (s : State),
      let p := 0
      let n := 9
      let dev := (5 : BitVec 12)
      (s.port p).up = true ∧
      (s.port p).repair = .retraining n ∧
      (s.port p).partner = dev ∧
      p < 128 ∧
      s.devId ≠ 0xFFF ∧
      dev ≠ 0xFFF ∧
      dev ≠ s.devId) ∧
    (∃ (s : State),
      let p := 0
      let dev := (4 : BitVec 12)
      (s.port p).up = false ∧
      p < 128 ∧
      s.devId ≠ 0xFFF ∧
      (dev = 0xFFF ∨ dev = s.devId)) :=
  ⟨⟨{ S0 with arrivals := [arr0] }, by decide +kernel⟩,
   ⟨SArr 0, by decide +kernel, by decide +kernel, by decide +kernel, got_of (by decide +kernel), by decide +kernel⟩,
   ⟨SArr (1 * 2 ^ 94), by decide +kernel, by decide +kernel, by decide +kernel, got_of (by decide +kernel), by decide +kernel⟩,
   ⟨SArr (1 * 2 ^ 94 + 1 * 2 ^ 216), by decide +kernel, by decide +kernel, by decide +kernel, got_of (by decide +kernel), by decide +kernel⟩,
   ⟨SArr (32 * 2 ^ 64 + 2 * 2 ^ 85 + 1 * 2 ^ 94 + 1 * 2 ^ 216), by decide +kernel, by decide +kernel, by decide +kernel, got_of (by decide +kernel), by decide +kernel⟩,
   ⟨SArr entry0, by decide +kernel, by decide +kernel, by decide +kernel, got_of (by decide +kernel), by decide +kernel, by decide +kernel, by decide +kernel, fun r h => absurd h (by rw [show ringOf _ _ _ = none from by decide +kernel]; exact nofun)⟩,
   ⟨SArrC fullCtx entry0, by decide +kernel, by decide +kernel, by decide +kernel, got_of (by decide +kernel), by decide +kernel⟩,
   ⟨SArrC fullCtx (entry0 + 1 * 2 ^ 91 + 2 * 2 ^ 92), by decide +kernel, by decide +kernel, by decide +kernel, got_of (by decide +kernel), by decide +kernel⟩,
   ⟨SMail (.callAck 0 3 false), by decide +kernel⟩,
   ⟨SMailNo (.callAck 0 3 false), by decide +kernel⟩,
   ⟨S0, by decide +kernel⟩,
   ⟨SMail (.replyLand 0 3 0 0 false 9), by decide +kernel⟩,
   ⟨S0, by decide +kernel⟩,
   ⟨{ demo (TSlot slot1) with rt := 2 ^ 60 }, by decide +kernel⟩,
   ⟨SGyq, by decide +kernel⟩,
   ⟨SSpill, by decide +kernel, by decide +kernel, by decide +kernel, answer_of (by decide +kernel)⟩,
   ⟨{ S0 with stalls := [stall0] }, by decide +kernel⟩,
   ⟨SPort id, by decide +kernel⟩,
   ⟨SPort id, by decide +kernel⟩,
   ⟨SPort fun p => { p with replay := [(0, .ack 0 0 false)] }, by decide +kernel⟩,
   ⟨SPort fun p => { p with replay := [(0, .ack 0 0 false)] }, by decide +kernel⟩,
   ⟨SPort fun p => { p with rxCount := 2 ^ 20 }, by decide +kernel⟩,
   ⟨SPort fun p => { p with crc := [(1, 16)] }, by decide +kernel⟩,
   ⟨SPort fun p => { p with repair := .draining 1 }, by decide +kernel⟩,
   ⟨SPort fun p => { p with repair := .retraining 0 }, by decide +kernel⟩,
   ⟨{ S0 with devId := 4 }, by decide +kernel⟩,
   ⟨SPort fun p => { p with repair := .retraining 9 }, by decide +kernel⟩,
   ⟨{ S0 with devId := 4 }, by decide +kernel⟩⟩

theorem witness_RegisterSteps :
    (∃ (s : State),
      let sid := 0
      let t := TWin
      s.team? sid = some t ∧
      t.exc.winLog ≠ 0 ∧
      s.clock % 2 ^ t.exc.winLog.toNat = 0) ∧
    (∃ (s : State),
      let sid := 0
      let t := T0
      s.team? sid = some t) ∧
    (∃ (s : State),
      let sid := 0
      let k := 7
      let t := T0
      s.team? sid = some t ∧
      k < 8) ∧
    (∃ (s : State),
      let ctx := 1
      let x := newCtx .user 0
      s.ctx? ctx = some x) ∧
    (∃ (s : State),
      let sid := 0
      let k := (0x042 : BitVec 12)
      let t := T0
      s.team? sid = some t ∧
      0x040 ≤ k.toNat ∧
      k.toNat ≤ 0x042) ∧
    (∃ (s : State),
      let ctx := 1
      let k := (0x440 : BitVec 12)
      let x := newCtx .user 0
      s.ctx? ctx = some x ∧
      csrListed k.toNat = true ∧
      csrSpecial k.toNat = false ∧
      csrHome k.toNat = .ctx) ∧
    (∃ (s : State),
      let sid := 0
      let k := (0x029 : BitVec 12)
      let t := T0
      s.team? sid = some t ∧
      csrListed k.toNat = true ∧
      csrSpecial k.toNat = false ∧
      csrHome k.toNat = .team) ∧
    (let p := PmcPlace.core 3
    let k := 3
    placeHas p k = true) ∧
    (∃ (s : State),
      let p := PmcPlace.core 0
      let k := 0
      placeHas p k = true ∧
      (Tab.get 0 (pmcOf s p).sel k).getLsbD 16 = true ∧
      ((Tab.get 0 (pmcOf s p).sel k).getLsbD 17 = false ∨ ∀ n, p ≠ .core n)) ∧
    (∃ (s : State),
      let n := 0
      let k := 0
      let sel := Tab.get 0 (pmcOf s (.core n)).sel k
      let ctx := (sel.extractLsb' 48 16).toNat
      let c := evCtx
      s.cores.any (fun e => e.1 == n) = true ∧
      k < 8 ∧
      placeHas (.core n) k = true ∧
      sel.getLsbD 16 = true ∧
      sel.getLsbD 17 = true ∧
      (∀ e ∈ s.evPend, e.ctx ≠ ctx) ∧
      RingReady s ctx c) :=
  ⟨⟨demo TWin, by decide +kernel⟩,
   ⟨S0, by decide +kernel⟩,
   ⟨S0, by decide +kernel⟩,
   ⟨S0, by decide +kernel⟩,
   ⟨S0, by decide +kernel⟩,
   ⟨S0, by decide +kernel⟩,
   ⟨S0, by decide +kernel⟩,
   by decide +kernel,
   ⟨SPmc, by decide +kernel, by decide +kernel, .inl (by decide +kernel)⟩,
   ⟨SRing1.setCore 0 { S0.core 0 with pmc := { pmcOn with sel := [(0, 0x1000000030001)] } }, and6 (by decide +kernel) (ringReady_of (by decide +kernel))⟩⟩

theorem witness_ManagementSteps :
    (∃ (s : State),
      let p := MgmtPort.sideband
      portOpen s p = true ∧
      s.mgmtSem = 0 ∧
      mailboxWrites s = false) ∧
    (∃ (s : State),
      let p := MgmtPort.sideband
      portOpen s p = true ∧
      s.mgmtSem = ownerOf p) ∧
    (∃ (s : State),
      let p := MgmtPort.sideband
      portOpen s p = true ∧
      s.mgmtSem ≠ 0 ∧
      s.mgmtSem ≠ ownerOf p) ∧
    (∃ (s : State),
      s.mgmtSem ≠ 0 ∧
      s.mgmtLast + microseconds 5000000 ≤ s.rt) ∧
    (∃ (s : State),
      let p := MgmtPort.sideband
      let pl := PmcPlace.core 3
      let k := 3
      portOpen s p = true ∧
      placeHas pl k = true) ∧
    (∃ (s : State),
      let p := MgmtPort.sideband
      let a := 0
      let b := 0
      let n := 0
      portOpen s p = true ∧
      bankOk a b n = true) ∧
    (∃ (s : State),
      let p := MgmtPort.sideband
      portOpen s p = true) ∧
    (∃ (s : State),
      let p := MgmtPort.sideband
      portOpen s p = true ∧
      s.mgmtSem ≠ ownerOf p) ∧
    (∃ (s : State),
      let p := MgmtPort.sideband
      let ctx := 7
      let pr := (1 : BitVec 2)
      portOpen s p = true ∧
      s.mgmtSem = ownerOf p ∧
      pr.toNat < 2 ∧
      ctx < 0xFFFF ∧
      s.ctx? ctx = none) ∧
    (∃ (s : State),
      let p := MgmtPort.sideband
      let ctx := 1
      let k := (0x440 : BitVec 12)
      let x := newCtx .user 0
      portOpen s p = true ∧
      s.mgmtSem = ownerOf p ∧
      csrListed k.toNat = true ∧
      0x400 ≤ k.toNat ∧
      csrHome k.toNat = .ctx ∧
      ctx ≠ 0xFFFF ∧
      s.ctx? ctx = some x) ∧
    (∃ (s : State),
      let p := MgmtPort.sideband
      let pl := PmcPlace.die 1
      let k := 3
      portOpen s p = true ∧
      s.mgmtSem = ownerOf p ∧
      placeHas pl k = true ∧
      (∀ n, pl ≠ .core n)) ∧
    (∃ (s : State),
      let p := MgmtPort.sideband
      portOpen s p = true ∧
      s.mgmtSem = ownerOf p ∧
      (∃ l ∈ s.launches, l.handler = none)) ∧
    (∃ (s : State),
      let p := MgmtPort.sideband
      portOpen s p = true ∧
      s.mgmtSem = ownerOf p ∧
      (∀ l ∈ s.launches, l.handler ≠ none)) :=
  ⟨⟨S0, by decide +kernel⟩,
   ⟨SMgmt 2, by decide +kernel⟩,
   ⟨SMgmt 1, by decide +kernel⟩,
   ⟨{ SMgmt 1 with rt := microseconds 5000000 }, by decide +kernel⟩,
   ⟨SMgmt 2, by decide +kernel⟩,
   ⟨SMgmt 2, by decide +kernel⟩,
   ⟨SMgmt 2, by decide +kernel⟩,
   ⟨S0, by decide +kernel⟩,
   ⟨SMgmt 2, by decide +kernel⟩,
   ⟨SMgmt 2, by decide +kernel⟩,
   ⟨SMgmt 2, by decide +kernel, by decide +kernel, by decide +kernel, fun _ h => nomatch h⟩,
   ⟨{ SL T0 L0 with mgmtSem := 2 }, by decide +kernel⟩,
   ⟨SMgmt 2, by decide +kernel⟩⟩

theorem witness_DeviceSteps :
    (let ch := 0
    let b := 0
    bankOk (ch / 32) (ch % 32) b = true) ∧
    (let a := 0
    let b := 0
    let n := 0
    let row := 5
    bankOk a b n = true ∧
      row < 2 ^ 32) ∧
    (let a := 0
    let b := 0
    let n := 0
    let row := 5
    let line := 2 ^ 58
    bankOk a b n = true ∧
      row < 2 ^ 32 ∧
      lineInChannel line a b = true) ∧
    (∃ (s : State),
      (s.powered = false ∨ s.bringUp = 0)) ∧
    (∃ (s : State),
      let k := 3
      (s.powered = false ∨ s.bringUp = 0) ∧
      1 ≤ k ∧
      k ≤ 5) ∧
    (∃ (s : State),
      let l := ({ L0 with ctx := 0xFFFF } : Launch)
      s.bringUp = 6 ∧
      l.ctx = 0xFFFF ∧
      l.dispatched = true) ∧
    (∃ (s : State),
      12 < s.clkStep) ∧
    (∃ (s : State),
      s.clkStep = 12) ∧
    (∃ (s : State),
      s.hot = true) ∧
    (∃ (s : State),
      let ctx := 1
      let x := newCtx .user 0
      s.ctx? ctx = some x ∧
      ctx ≠ 0xFFFF) ∧
    (∃ (s : State),
      let ctx := 1
      let x := preCtx
      let s1 := (freeReplies 1 (replyArea x).1 (replyArea x).2 0 0 s).1
      s.ctx? ctx = some x ∧
      ctx ≠ 0xFFFF ∧
      x.asked = none ∧
      x.saved = [] ∧
      x.stopping = false ∧
      (replyArea x).2 ≠ 0 ∧
      (saveArea x).2 ≠ 0 ∧
      ((savePieces s ctx).map (fun q => up64 q.length)).sum ≤ (saveArea x).2 ∧
      freeReplies ctx (replyArea x).1 (replyArea x).2 0 ((ctxTeams s ctx).foldl (fun a e => a + e.2.slots.length) 0) s = (s1, .ok true) ∧
      s1.ctx? ctx ≠ none) ∧
    (∃ (s : State),
      let ctx := 1
      let x := newCtx .user 0
      s.ctx? ctx = some x ∧
      ctx ≠ 0xFFFF ∧
      x.asked = none ∧
      x.saved = [] ∧
      x.stopping = false ∧
      ((replyArea x).2 = 0 ∨ (saveArea x).2 = 0)) ∧
    (∃ (s : State),
      let ctx := 1
      let x := ({ preCtx with stopping := true } : Ctx)
      let s1 := (writePieces ctx ((pieceVas (saveArea x).1 (savePieces s ctx)).zip (savePieces s ctx)) s).1
      s.ctx? ctx = some x ∧
      ctx ≠ 0xFFFF ∧
      x.asked = none ∧
      x.saved = [] ∧
      x.stopping = true ∧
      (ctxTeams s ctx).any (fun e => stillRuns s e.1 e.2) = false ∧
      ctxWindows s ctx = [] ∧
      writePieces ctx ((pieceVas (saveArea x).1 (savePieces s ctx)).zip (savePieces s ctx)) s = (s1, .ok ()) ∧
      s1.ctx? ctx ≠ none) ∧
    (∃ (s : State),
      let ctx := 1
      let x := ctxOut
      let s1 := (restoreContext 1 ctxOut SResume).1
      s.ctx? ctx = some x ∧
      x.resident = false ∧
      x.asked = none ∧
      s.hot = false ∧
      windowsFit s (x.saved.filterMap (fun w => w.window)) = true ∧
      restoreContext ctx x s = (s1, .ok true) ∧
      s1.ctx? ctx ≠ none) ∧
    (∃ (s : State),
      let sid := 0
      let t := codeTeam
      let s1 := (fetchFor SCode 0 codeTeam).1
      let i := Instr.nop h0
      s.team? sid = some t ∧
      fetchReady s sid t = true ∧
      fetchFor s sid t = (s1, some i) ∧
      s1.team? sid ≠ none) ∧
    (∃ (s : State),
      let k := 0
      let sid := 0
      let t := TReady
      s.current = none ∧
      selectTeam s k = some sid ∧
      dequeBehind s k = false ∧
      s.team? sid = some t ∧
      t.more = none) ∧
    (∃ (s : State),
      let k := 0
      let sid := 0
      let t := TMore
      let m := more0
      s.current = none ∧
      selectTeam s k = some sid ∧
      dequeBehind s k = false ∧
      s.team? sid = some t ∧
      t.more = some m) ∧
    (∃ (s : State),
      let k := 1
      dequeBehind s k = true) ∧
    (∃ (s : State),
      let k := 0
      let sid := 0
      selectTeam s k = some sid) ∧
    (∃ (s : State),
      let sid := 0
      let t := TPend
      let p := (⟨Cause.cancelled, 9, false⟩ : PendTrap)
      let entry := 0x4000
      s.team? sid = some t ∧
      trapReady s t = true ∧
      nextPending t = some p ∧
      HasHandler s t entry ∧
      t.region = none) :=
  ⟨by decide +kernel,
   by decide +kernel,
   by decide +kernel,
   ⟨S0, by decide +kernel⟩,
   ⟨S0, by decide +kernel⟩,
   ⟨{ S0 with bringUp := 6 }, by decide +kernel⟩,
   ⟨S0, by decide +kernel⟩,
   ⟨{ S0 with clkStep := 12 }, by decide +kernel⟩,
   ⟨{ S0 with hot := true }, by decide +kernel⟩,
   ⟨S0, by decide +kernel⟩,
   ⟨SPre preCtx, and6 (by decide +kernel) ⟨by decide +kernel, by decide +kernel, got2_of (by decide +kernel), by decide +kernel⟩⟩,
   ⟨S0, by decide +kernel⟩,
   ⟨SPre ({ preCtx with stopping := true } : Ctx), and6 (by decide +kernel) ⟨by decide +kernel, unit_of (by decide +kernel), by decide +kernel⟩⟩,
   ⟨SResume, by decide +kernel, by decide +kernel, by decide +kernel, by decide +kernel, by decide +kernel, got2_of (by decide +kernel), by decide +kernel⟩,
   ⟨SCode, by decide +kernel, by decide +kernel, answer_of (by decide +kernel), by decide +kernel⟩,
   ⟨SReady, by decide +kernel⟩,
   ⟨{ demo TMore with current := none }, by decide +kernel⟩,
   ⟨STwoDq, by decide +kernel⟩,
   ⟨SReady, by decide +kernel⟩,
   ⟨STrap, by decide +kernel, by decide +kernel, by decide +kernel, hasHandler_of (by decide +kernel), by decide +kernel⟩⟩

theorem witness_InstructionIssue :
    (∃ (i : Instr) (f : Fields) (s : State) (sid : Nat) (t : Team),
      i.fields = some f ∧
      s.current = some sid ∧
      s.team? sid = some t ∧
      trapDue t = true) ∧
    (∃ (i : Instr) (f : Fields) (s : State) (sid : Nat) (t : Team),
      let c := Cause.illegalOperand
      let v := posVal 1 (specV 4).toNat
      i.fields = some f ∧
      s.current = some sid ∧
      s.team? sid = some t ∧
      trapDue t = false ∧
      checkWord s t i (uses i) = some (c, v)) ∧
    (∃ (i : Instr) (f : Fields) (s : State) (sid : Nat) (t : Team),
      let r := RegName.v 2
      i.fields = some f ∧
      s.current = some sid ∧
      s.team? sid = some t ∧
      trapDue t = false ∧
      checkWord s t i (uses i) = none ∧
      pendingReg t i (uses i) = some r) ∧
    (∃ (i : Instr) (f : Fields) (s : State) (sid : Nat) (t : Team),
      i.fields = some f ∧
      s.current = some sid ∧
      s.team? sid = some t ∧
      trapDue t = false ∧
      checkWord s t i (uses i) = none ∧
      pendingReg t i (uses i) = none ∧
      s.clock < landsInOrder t (uses i) (latency (opcOf i))) ∧
    (∃ (i : Instr) (f : Fields) (s : State) (sid : Nat) (t : Team),
      let v := posVal 1 2
      i.fields = some f ∧
      s.current = some sid ∧
      s.team? sid = some t ∧
      trapDue t = false ∧
      checkWord s t i (uses i) = none ∧
      pendingReg t i (uses i) = none ∧
      landsInOrder t (uses i) (latency (opcOf i)) ≤ s.clock ∧
      t.sbchk = true ∧
      t.mem = none ∧
      checkStall t s.clock (isVector (opcOf i)) (uses i).src = some v) ∧
    (∃ (i : Instr) (f : Fields) (s : State) (sid : Nat) (t : Team),
      i.fields = some f ∧
      isVector f.opc.toNat = false ∧
      (∀ h ty d a b, i ≠ .ssel h ty d a b) ∧
      Clear i s sid t ∧
      (viewAtIssue i s sid t).guard (hdrOf f) = false) ∧
    (∃ (i : Instr) (f : Fields) (s : State) (sid : Nat) (t : Team),
      i.fields = some f ∧
      isVector f.opc.toNat = true ∧
      (f.opc.toNat < 0x1C0 ∨ 0x1CF < f.opc.toNat) ∧
      (0x200 ≤ f.opc.toNat → t.mem = none) ∧
      Clear i s sid t ∧
      (match i with | .vsel .. => (viewAtIssue i s sid t).active | _ => enableOf i (hdrOf f) s sid t) = 0) ∧
    (∃ (i : Instr) (s : State) (sid : Nat) (t : Team),
      let e := eS
      let p := 1
      let x := (specS 5).toNat
      let n := 5
      let o := (77 : Word)
      t.sbchk = false ∧
      e ∈ t.fixed ∧
      e.reg = .s n ∧
      (∀ e' ∈ t.fixed, e'.reg = .s n → e' = e) ∧
      n ≠ 0 ∧
      (p, x, RegName.s n) ∈ (uses i).src ∧
      e.early (atIssue i s sid t).clock (isVector (opcOf i)) = true ∧
      e.old = .s o ∧
      s.team? sid = some t) ∧
    (∃ (i : Instr) (s : State) (sid : Nat) (t : Team),
      let h := h0
      let ty := VTy.i32
      let sat := false
      let d := (4 : VIdx)
      let a := Src.v 2
      let b := SrcB.imm 3
      i = Instr.vadd h ty sat d a b ∧
      Clear i s sid t ∧
      enableOf i h s sid t ≠ 0 ∧
      overBudget (teamAtIssue i s sid t) ((members d ty.wide).map (fun n => (n, if enableOf i h s sid t = (teamAtIssue i s sid t).lanes ∧ allU (tags2 i s sid t ty.wide a b) then Tag.u else Tag.g))) = true ∧
      Tag.a ∉ tags2 i s sid t ty.wide a b) ∧
    (∃ (i : Instr) (f : Fields) (s : State) (sid : Nat) (t : Team),
      let d := 4
      let ds := ([] : List Nat)
      i.fields = some f ∧
      isVector f.opc.toNat = true ∧
      (0x200 ≤ f.opc.toNat → t.mem = none) ∧
      Clear i s sid t ∧
      (match i with | .vsel .. => (viewAtIssue i s sid t).active | _ => enableOf i (hdrOf f) s sid t) ∉ [0, (teamAtIssue i s sid t).lanes] ∧
      ((uses i).dst.filterMap fun | .v n => some n | _ => none) = d :: ds ∧
      overBudget (teamAtIssue i s sid t) ((d :: ds).map (·, Tag.g)) = true) ∧
    (∃ (i : Instr) (f : Fields) (s : State) (sid : Nat) (t : Team),
      let d := 4
      let ds := ([] : List Nat)
      let p := 1
      let x := (specV 2).toNat
      let n := 2
      i.fields = some f ∧
      ((0x0C0 ≤ f.opc.toNat ∧ f.opc.toNat ≤ 0x0D8) ∨ (0x140 ≤ f.opc.toNat ∧ f.opc.toNat ≤ 0x153)) ∧
      (∀ h ty v b, i ≠ .vmov h ty v b) ∧
      Clear i s sid t ∧
      (match i with | .vsel .. => (viewAtIssue i s sid t).active | _ => enableOf i (hdrOf f) s sid t) ≠ 0 ∧
      (p, x, RegName.v n) ∈ (uses i).src ∧
      ((teamAtIssue i s sid t).vr n).tag = .g ∧
      ((uses i).dst.filterMap fun | .v n => some n | _ => none) = d :: ds ∧
      overBudget (teamAtIssue i s sid t) ((d :: ds).map (·, Tag.g)) = true) ∧
    (∃ (i : Instr) (s : State) (sid : Nat) (t : Team),
      let h := h0
      let d := (4 : VIdx)
      let a := (2 : VIdx)
      (i = .vtagExpand h d a ∨ i = .vtagCompact h d a) ∧
      Clear i s sid t ∧
      (viewAtIssue i s sid t).guard h = true ∧
      overBudget (teamAtIssue i s sid t) [(d.toNat, Tag.g)] = true) ∧
    (∃ (i : Instr) (s : State) (sid : Nat) (t : Team),
      let h := h0
      let d := (4 : VIdx)
      let a := Src.s 5
      let b := SrcB.imm 3
      i = .vsetl h d a b ∧
      Clear i s sid t ∧
      (viewAtIssue i s sid t).guard h = true ∧
      (viewAtIssue i s sid t).laneNum (atIssue i s sid t) b < (teamAtIssue i s sid t).w ∧
      overBudget (teamAtIssue i s sid t) [(d.toNat, Tag.g)] = true) :=
  ⟨⟨.vadd h0 .i32 false 4 (.v 2) (.imm 3), (Instr.fields (.vadd h0 .i32 false 4 (.v 2) (.imm 3))).get (by decide +kernel), demoH TPend, 0, TPend, by decide +kernel⟩,
   ⟨.mma h0 0 4 4, (Instr.fields (.mma h0 0 4 4)).get (by decide +kernel), S0, 0, T0, by decide +kernel⟩,
   ⟨.vadd h0 .i32 false 4 (.v 2) (.imm 3), (Instr.fields (.vadd h0 .i32 false 4 (.v 2) (.imm 3))).get (by decide +kernel), demo TBusy, 0, TBusy, by decide +kernel⟩,
   ⟨.vadd h0 .i32 false 4 (.v 2) (.imm 3), (Instr.fields (.vadd h0 .i32 false 4 (.v 2) (.imm 3))).get (by decide +kernel), demo TLate, 0, TLate, by decide +kernel⟩,
   ⟨.vadd h0 .i32 false 4 (.v 2) (.imm 3), (Instr.fields (.vadd h0 .i32 false 4 (.v 2) (.imm 3))).get (by decide +kernel), demo TEarly, 0, TEarly, by decide +kernel⟩,
   ⟨.sadd hNever .i64 false 4 (.s 5) (.imm 3), (Instr.fields (.sadd hNever .i64 false 4 (.s 5) (.imm 3))).get (by decide +kernel), S0, 0, T0, by decide +kernel, by decide +kernel, fun _ _ _ _ _ => nofun, clear_of (by decide +kernel), by decide +kernel⟩,
   ⟨.vadd hNever .i32 false 4 (.v 2) (.imm 3), (Instr.fields (.vadd hNever .i32 false 4 (.v 2) (.imm 3))).get (by decide +kernel), S0, 0, T0, by decide +kernel, by decide +kernel, by decide +kernel, by decide +kernel, clear_of (by decide +kernel), by decide +kernel⟩,
   ⟨.sadd h0 .i64 false 4 (.s 5) (.imm 3), demo TOld, 0, TOld, by decide +kernel⟩,
   ⟨(.vadd h0 .i32 false 4 (.v 2) (.imm 3) : Instr), demo TBudget, 0, TBudget, by decide +kernel, clear_of (by decide +kernel), by decide +kernel⟩,
   ⟨(.vadd hPart .i32 false 4 (.v 2) (.imm 3) : Instr), (Instr.fields (.vadd hPart .i32 false 4 (.v 2) (.imm 3) : Instr)).get (by decide +kernel), demo TPart, 0, TPart, by decide +kernel, by decide +kernel, by decide +kernel, clear_of (by decide +kernel), by decide +kernel⟩,
   ⟨(.vadd h0 .i32 false 4 (.v 2) (.imm 3) : Instr), (Instr.fields (.vadd h0 .i32 false 4 (.v 2) (.imm 3) : Instr)).get (by decide +kernel), demo TBudget, 0, TBudget, by decide +kernel, by decide +kernel, fun _ _ _ _ h => Instr.noConfusion h, clear_of (by decide +kernel), by decide +kernel⟩,
   ⟨(.vtagExpand h0 4 2 : Instr), demo TBudget, 0, TBudget, by decide +kernel, clear_of (by decide +kernel), by decide +kernel⟩,
   ⟨(.vsetl h0 4 (.s 5) (.imm 3) : Instr), demo TBudget, 0, TBudget, by decide +kernel, clear_of (by decide +kernel), by decide +kernel⟩⟩

theorem witness_EventsCounted :
    (∃ (s : State) (sid : Nat) (t : Team),
      (s.teams.map Prod.fst).Nodup ∧
      s.team? sid = some t ∧
      t.owed ≠ [] ∧
      t.more = none ∧
      t.doneAt ≤ s.clock) ∧
    (∃ (s : State) (sid : Nat) (t : Team),
      let k := 2
      (s.teams.map Prod.fst).Nodup ∧
      s.team? sid = some t ∧
      t.owed ≠ [] ∧
      t.more = none ∧
      t.doneAt ≤ s.clock ∧
      k < 8 ∧
      t.exc.actOf k = 1 ∧
      t.exited = false ∧
      t.inTrap = false ∧
      t.exc.wcntOf k ≤ t.exc.thrOf k ∧
      t.exc.thrOf k < satAdd32 (t.exc.wcntOf k) (t.owed.getD k 0)) ∧
    (∃ (s : State) (sid : Nat) (t : Team),
      (s.teams.map Prod.fst).Nodup ∧
      s.team? sid = some t ∧
      (s.clock < t.doneAt ∨ t.more ≠ none)) :=
  ⟨⟨demo TOwed, 0, TOwed, by decide +kernel⟩,
   ⟨demo TCross, 0, TCross, by decide +kernel⟩,
   ⟨demo TLater, 0, TLater, by decide +kernel⟩⟩

theorem witness_RegisterInstructionsFrame :
    ∃ (i : Instr) (f : Fields) (s : State) (sid : Nat) (t : Team) (s' : State),
      i.fields = some f ∧
      registerOnly f.opc.toNat = true ∧
      Clear i s sid t ∧
      exec i s = .next s' ∧
      (∀ t', s'.team? sid = some t' → t'.inTrap = t.inTrap ∧ t'.failed = t.failed) :=
  ⟨.sadd h0 .i64 false 4 (.s 5) (.imm 3), (Instr.fields (.sadd h0 .i64 false 4 (.s 5) (.imm 3))).get (by decide +kernel), S0, 0, T0, (nextOf (exec (.sadd h0 .i64 false 4 (.s 5) (.imm 3)) S0)), by decide +kernel, by decide +kernel, clear_of (by decide +kernel), next_of (by decide +kernel), kept_of (by decide +kernel)⟩

theorem witness_DecodeEncode :
    ∃ (i : Instr),
      i.wf = true ∧
      i.fields ≠ none :=
  ⟨Instr.nop h0, by decide +kernel⟩

theorem witness_EncodeDecode :
    ∃ (w : BitVec 96) (i : Instr),
      decode w = .ok i :=
  ⟨0x1F000000000000000000, Instr.nop h0, by decide +kernel⟩

theorem witness_StepRunsDecoded :
    (∃ (s : State) (sid : Nat) (t : Team),
      let i := Instr.nop h0
      s.powered = true ∧
      s.agenda = [] ∧
      s.current = some sid ∧
      s.team? sid = some t ∧
      t.fetched = some i) ∧
    (∃ (s : State) (sid : Nat) (t : Team),
      let s1 := (fetchWord SAt 0 codeTeam).1
      let w := (0x1F000000000000000000 : BitVec 96)
      let i := Instr.nop h0
      s.powered = true ∧
      s.agenda = [] ∧
      s.current = some sid ∧
      s.team? sid = some t ∧
      t.fetched = none ∧
      t.pf = none ∧
      trapDue t = false ∧
      fetchWord s sid t = (s1, .word w) ∧
      decode w = .ok i ∧
      s1.team? sid = some t) ∧
    (∃ (s : State) (sid : Nat) (t : Team),
      let s1 := (fetchWord SBad 0 codeTeam).1
      let w := (0xFFFF_0000_0000_0000_0000_0000 : BitVec 96)
      let e := ((errOf (decode 0xFFFF_0000_0000_0000_0000_0000)).get (by decide +kernel))
      s.powered = true ∧
      s.agenda = [] ∧
      s.current = some sid ∧
      s.team? sid = some t ∧
      t.fetched = none ∧
      t.pf = none ∧
      trapDue t = false ∧
      fetchWord s sid t = (s1, .word w) ∧
      decode w = .error e) ∧
    (∃ (s : State) (t : Team),
      let a := t.pc.toNat
      let tr := tr1
      canonical t.pc = true ∧
      t.pf = none ∧
      a % 64 ≤ 52 ∧
      (∀ x ∈ (s.core t.coreId).icache, x.1 ≠ t.ctx ∨ x.2.1 ≠ a / 64) ∧
      s.home? t.ctx (a / 64) = none ∧
      tlbFind s (unitOf a) t.ctx a .exec = some tr ∧
      tlbFind s (unitOf a) t.ctx (a / 64 * 64) .read = some tr ∧
      tr.peer = none ∧
      6 ≤ tr.size ∧
      poisonedKey s (physKey s (lineAt tr (a / 64))) = false) :=
  ⟨⟨{ demo TReady with current := some 0 }, 0, TReady, by decide +kernel⟩,
   ⟨SAt, 0, codeTeam, and6 (by decide +kernel) ⟨by decide +kernel, word_of (by decide +kernel), by decide +kernel⟩⟩,
   ⟨SBad, 0, codeTeam, and6 (by decide +kernel) ⟨by decide +kernel, word_of (by decide +kernel), by decide +kernel⟩⟩,
   ⟨SCode1, codeTeam, by decide +kernel⟩⟩

theorem witness_MemoryInvariant :
    ∃ (s : State) (s' : State),
      s.Inv ∧
      step s = .next s' :=
  ⟨SAt, (nextOf (step SAt)), (by decide +kernel : Memory.wf _ = true), next_of (by decide +kernel)⟩

theorem witness_DecodeWords :
    ∃ (h : Hdr),
      h.gneg = false ∧
      h.gp = 31 ∧
      h.stall = 0 ∧
      h.yld = false :=
  ⟨h0, by decide +kernel⟩

end Sys2Proof.Tests
end

section
/-! The device right after reset (24 R383): what each lens reads there, and the obligation about it. -/

namespace Sys2Proof.Machine

/-! ## The lenses at reset -/

/-- No core has issued, holds a tile or has counted a version (13 R238). -/
@[simp] theorem State.core_reset (c : Nat) : State.reset.core c = emptyCore := rfl

/-- No die has a bind record, a queue entry or a placement (04). -/
@[simp] theorem State.die_reset (d : Nat) : State.reset.die d = emptyDie := rfl

/-- Every port is as an untrained one (21 R340). -/
@[simp] theorem State.port_reset (p : Nat) : State.reset.port p = emptyPort := rfl

@[simp] theorem State.team?_reset (sid : Nat) : State.reset.team? sid = none := rfl

/-! ## What is read through a core or a die -/

/-- Tile counters read 0 after device reset (13 R238): a core that lists no counter reads 0 for each tile. -/
@[simp] theorem counterOf_reset (core tile : Nat) : counterOf State.reset core tile = 0 := by
  rw [counterOf, State.core_reset]
  rfl

/-- The bind records are all empty at reset: a die that lists none reads the empty one. -/
@[simp] theorem bindOf_reset (die i : Nat) : bindOf State.reset die i = emptyBind := by
  rw [bindOf, State.die_reset]
  rfl

/-- A port is down until it is trained. -/
theorem State.port_reset_down (p : Nat) : (State.reset.port p).up = false := by
  rw [State.port_reset]
  rfl

/-! ## The registers, the work and memory at reset -/

/-- 14 R270 (ORD.MODE 1), 11 R230 (a lease of 64 µs), 24 R385 (24 steps of 100 MHz), 21 R340 (no identifier: 0xFFF). -/
theorem State.reset_registers :
    State.reset.clock = 0 ∧ State.reset.ordMode = true ∧ State.reset.leaseMax = 64 ∧ State.reset.clkStep = 24 ∧
      State.reset.devId = 0xFFF :=
  ⟨rfl, rfl, rfl, rfl, rfl⟩

/-- No context exists yet (log 2), so nothing runs, nothing is launched and no step is due. -/
theorem State.reset_idle :
    State.reset.teams = [] ∧ State.reset.launches = [] ∧ State.reset.ctxs = [] ∧ State.reset.agenda = [] ∧
      State.reset.current = none :=
  ⟨rfl, rfl, rfl, rfl, rfl⟩

/-- The invariant of every run holds where a run begins. -/
theorem State.reset_inv : State.reset.Inv := reset_wf

/-- Settles O59: the values `State.reset` gives, and what the lenses read of the tables it leaves empty. -/
theorem resetState : Obligations.ResetState := fun n c k =>
  ⟨State.reset_registers, State.reset_idle,
    ⟨counterOf_reset c k, bindOf_reset c k, State.team?_reset n, State.port_reset_down n⟩,
    State.reset_inv⟩

end Sys2Proof.Machine
end

section
/-! WORK_STEPS (O47): before it does anything else, a push has the queue's agent try again what failed (03 R386). The
statement's clauses on a push that fails name the state without that, so they fail where the agent waits for its next try. -/

namespace Sys2Proof.Machine

/-! ## A push that ends without an entry -/

@[simp] theorem endPush_watches (s : State) (p : Push) (c : BitVec 9) (n : Nat) : (endPush s p c n).watches = s.watches := by
  unfold endPush landToken
  split
  · split <;> rfl
  · rfl

/-- A push to one of the device's own queue numbers ends with NO_QUEUE (15 R281), the queue's agent having been set to try
again (03 R386). -/
theorem execQueueAgentPush_reserved {s : State} {sid : Nat} {p : Push} (hp : pushOf s sid = some p) (hr : pushReady s p = true)
    (hs : p.slot = none) (ht : p.task = false) (hq : 0xFFFFFFF0 ≤ p.qid ∧ p.qid ≤ 0xFFFFFFF3) :
    exec (.queueAgentPush sid) s = .next (endPush (pushWakes s p) p Cause.noQueue 0) := by
  show execQueueAgentPush sid s = _
  simp [execQueueAgentPush, hp, hr, hs, ht, hq]

/-! ## The state that refutes O47 -/

/-- A launch's push of a record to queue 0xFFFFFFF0. -/
def reservedPush : Push :=
  { sid := 0, key := 0, ctx := 1, task := false, qid := 0xFFFFFFF0, lrec := 0, regions := 0, reg := 5, tok := 0, slot := none,
    stalled := false, job := none, dies := [], waiting := none, served := [], denied := [] }

/-- A queue of that number whose agent waits to try a failed access again. -/
def retryingWatch : QueueWatch := { newWatch 1 0xFFFFFFF0 0 0 true (qEntryOf 0) with retryAt := some 100 }

def retryingState : State := { State.reset with pushes := [reservedPush], watches := [retryingWatch] }

/-- The step leaves the agent free to try at once; without the wake-up it would wait still. -/
theorem pushWakes_retryingState : (pushWakes retryingState reservedPush).watches ≠ retryingState.watches := by decide

/-- Refutes O47: the agent of the queue that a failing push names waits for its next try, and the push ends that wait, while
the statement's clause on pushes to the device's own queue numbers has every watch as it was. -/
theorem not_workSteps : ¬ Obligations.WorkSteps := by
  unfold Obligations.WorkSteps
  intro h
  obtain ⟨-, -, -, -, -, -, -, hreserved, -⟩ := h retryingState
  have hpush : pushOf retryingState 0 = some reservedPush := by decide
  have hready : pushReady retryingState reservedPush = true := by decide
  have hsays := hreserved 0 reservedPush hpush hready rfl (by decide) (by decide) rfl
  rw [execQueueAgentPush_reserved hpush hready rfl rfl (by decide)] at hsays
  injection hsays with hstate
  exact pushWakes_retryingState (by simpa using congrArg State.watches hstate)

end Sys2Proof.Machine
end

section
/-! What an access to memory changes, said once: a translation, a read or write at a home, a write-back and the region aborts
that a write brings (10 R200; 11 R221, R225; 19 R323, R324). -/

namespace Sys2Proof.Machine

/-! ## The parts of the state that accesses reach -/

/-- An access changes memory and its host side, the caches, translations and routes, regions, counters and the overflows they
make due; of the teams it changes those alone that have a region. -/
structure Accessed (s s' : State) : Prop where
  rest : s' = { s with
    mem := s'.mem, poison := s'.poison, hostHeld := s'.hostHeld, peers := s'.peers, tlb := s'.tlb, l1 := s'.l1, homes := s'.homes,
    fills := s'.fills, wq := s'.wq, teams := s'.teams, cores := s'.cores, dieTab := s'.dieTab, ventPmc := s'.ventPmc,
    regions := s'.regions, tracked := s'.tracked, spec := s'.spec, routes := s'.routes, agenda := s'.agenda, fresh := s'.fresh }
  idle : ∀ sid t, s.team? sid = some t → t.region = none → s'.team? sid = some t

namespace Accessed

theorem refl (s : State) : Accessed s s := ⟨rfl, fun _ _ h _ => h⟩

theorem trans {s s1 s2 : State} (h : Accessed s s1) (g : Accessed s1 s2) : Accessed s s2 where
  rest := g.rest.trans (congrArg (fun x : State => { x with
    mem := s2.mem, poison := s2.poison, hostHeld := s2.hostHeld, peers := s2.peers, tlb := s2.tlb, l1 := s2.l1, homes := s2.homes,
    fills := s2.fills, wq := s2.wq, teams := s2.teams, cores := s2.cores, dieTab := s2.dieTab, ventPmc := s2.ventPmc,
    regions := s2.regions, tracked := s2.tracked, spec := s2.spec, routes := s2.routes, agenda := s2.agenda, fresh := s2.fresh }) h.rest)
  idle sid t ht hr := g.idle sid t (h.idle sid t ht hr) hr

/-- A change that leaves every team as it was. -/
theorem of_teams {s s' : State} (ht : s'.teams = s.teams) (rest : s' = { s with
    mem := s'.mem, poison := s'.poison, hostHeld := s'.hostHeld, peers := s'.peers, tlb := s'.tlb, l1 := s'.l1, homes := s'.homes,
    fills := s'.fills, wq := s'.wq, teams := s'.teams, cores := s'.cores, dieTab := s'.dieTab, ventPmc := s'.ventPmc,
    regions := s'.regions, tracked := s'.tracked, spec := s'.spec, routes := s'.routes, agenda := s'.agenda, fresh := s'.fresh }) :
    Accessed s s' :=
  ⟨rest, fun sid t h _ => by rw [State.team?, ht]; exact h⟩

theorem foldl {α : Type} {f : State → α → State} (hf : ∀ s a, Accessed s (f s a)) (l : List α) (s : State) :
    Accessed s (l.foldl f s) := by
  induction l generalizing s with
  | nil => exact refl s
  | cons a r ih => exact (hf s a).trans (ih (f s a))

/-- The same for a fold that gathers a result beside the state. -/
theorem foldl_fst {α β : Type} {f : State × β → α → State × β} (hf : ∀ acc a, Accessed acc.1 (f acc a).1) (l : List α)
    (acc : State × β) : Accessed acc.1 (l.foldl f acc).1 := by
  induction l generalizing acc with
  | nil => exact refl acc.1
  | cons a r ih => exact (hf acc a).trans (ih (f acc a))

theorem ite {s a b : State} (c : Prop) [Decidable c] (ha : Accessed s a) (hb : Accessed s b) : Accessed s (if c then a else b) := by
  split
  · exact ha
  · exact hb

section
variable {s s' : State} (h : Accessed s s')
include h

theorem pushes : s'.pushes = s.pushes := (congrArg State.pushes h.rest).trans rfl
theorem spad : s'.spad = s.spad := (congrArg State.spad h.rest).trans rfl
theorem spadBase : s'.spadBase = s.spadBase := (congrArg State.spadBase h.rest).trans rfl

end

end Accessed

/-! ## Homes -/

theorem pmcCount_accessed (s : State) (p : PmcPlace) (ev ctx n : Nat) : Accessed s (pmcCount s p ev ctx n) := by
  obtain ⟨c, d, v, a, h⟩ := State.pmcCount_eq s p ev ctx n
  rw [h]
  exact .of_teams rfl rfl

theorem putHome_accessed (s : State) (g : HomeLine) : Accessed s (putHome s g) := by
  unfold putHome
  split <;> exact .of_teams rfl rfl

theorem dropHome_accessed (s : State) (ctx line : Nat) : Accessed s (dropHome s ctx line) := .of_teams rfl rfl

theorem keyWrite_accessed (s : State) (key : Nat) (m : ByteMask) (d : LineData) : Accessed s (keyWrite s key m d) := .of_teams rfl rfl

theorem cleanHome_accessed (s : State) (g : HomeLine) : Accessed s (cleanHome s g) := by
  unfold cleanHome
  split
  · exact .refl s
  · exact (keyWrite_accessed ..).trans (putHome_accessed ..)

theorem cleanPa_accessed (s : State) (pa : Nat) : Accessed s (cleanPa s pa) := .foldl cleanHome_accessed ..

theorem purgePa_accessed (s : State) (pa : Nat) : Accessed s (purgePa s pa) :=
  (Accessed.foldl cleanHome_accessed ..).trans (.foldl (fun s (g : HomeLine) => dropHome_accessed s g.ctx g.line) ..)

theorem fitDirectory_accessed (s : State) (g : HomeLine) : Accessed s (fitDirectory s g) := by
  unfold fitDirectory
  refine .ite _ (.refl s) (.ite _ (.refl s) ?_)
  split
  · exact purgePa_accessed ..
  · exact .refl s

theorem fitSlice_accessed (s : State) (line : Nat) : Accessed s (fitSlice s line) := by
  unfold fitSlice
  refine .ite _ (.refl s) (.ite _ (.refl s) ?_)
  split
  · exact (cleanHome_accessed ..).trans (dropHome_accessed ..)
  · exact .refl s

theorem addHome_accessed (s : State) (g : HomeLine) : Accessed s (addHome s g) :=
  (putHome_accessed ..).trans ((fitSlice_accessed ..).trans (fitDirectory_accessed ..))

/-! ## Region aborts (19 R323, R324) -/

theorem setTeam_accessed {s : State} {k : Nat} {t : Team} (t' : Team) (ht : s.team? k = some t) (hr : t.region ≠ none) :
    Accessed s (s.setTeam k t') where
  rest := rfl
  idle sid u hu hn := by
    have hne : sid ≠ k := fun e => hr (by rw [e, ht] at hu; cases hu; exact hn)
    rw [State.team?_setTeam_other _ _ hne]
    exact hu

/-- A token lands in the one team it is for. -/
theorem landToken_eq_or {s : State} (sid key tok reg : Nat) (v : Word) :
    landToken s sid key tok reg v = s ∨ ∃ t, landToken s sid key tok reg v = s.setTeam sid t := by
  unfold landToken
  split
  · split
    · exact .inr ⟨_, rfl⟩
    · exact .inl rfl
  · exact .inl rfl

theorem setTeam_setTeam_accessed {s : State} {k : Nat} {t : Team} (t1 t2 : Team) (ht : s.team? k = some t) (hr : t.region ≠ none) :
    Accessed s ((s.setTeam k t1).setTeam k t2) where
  rest := rfl
  idle sid u hu hn := by
    have hne : sid ≠ k := fun e => hr (by rw [e, ht] at hu; cases hu; exact hn)
    rw [State.team?_setTeam_other _ _ hne, State.team?_setTeam_other _ _ hne]
    exact hu

theorem abortTeam_accessed (s : State) (r : Region) (c : BitVec 9) (v : BitVec 32) : Accessed s (abortTeam s r c v) := by
  unfold abortTeam
  split
  · exact .refl s
  · rename_i t ht
    split
    · exact .refl s
    · split
      · exact .refl s
      · rename_i w hw
        have hr : t.region ≠ none := by simp [hw]
        split
        · dsimp only
          obtain h | ⟨u, h⟩ := landToken_eq_or (s := s.setTeam r.sid { t with region := none, attempts := min (t.attempts + 1) 62 })
            r.sid r.tkey w.tok w.reg (regionToken c w.attempt w.slot v)
          · rw [h]
            exact setTeam_accessed _ ht hr
          · rw [h]
            exact setTeam_setTeam_accessed _ _ ht hr
        · exact setTeam_accessed _ ht hr

theorem dropRegion_accessed (s : State) (slot : Nat) : Accessed s (dropRegion s slot) := .of_teams rfl rfl

theorem abortDepths_accessed (k : Nat) (s : State) (w : List (Nat × BitVec 9 × BitVec 32)) : Accessed s (abortDepths k s w) := by
  induction k generalizing s w with
  | zero => exact .refl s
  | succ k ih =>
    unfold abortDepths
    split
    · exact .refl s
    · refine Accessed.trans (.foldl (fun s x => ?_) ..) (ih ..)
      split
      · exact .refl s
      · exact ((abortTeam_accessed ..).trans (dropRegion_accessed ..)).trans (pmcCount_accessed ..)

theorem abortRegion_accessed (s : State) (slot : Nat) (c : BitVec 9) (v : BitVec 32) : Accessed s (abortRegion s slot c v) := by
  unfold abortRegion
  split
  · exact .refl s
  · split
    · exact .refl s
    · exact abortDepths_accessed ..

theorem externalWrite_accessed (s : State) (ctx line : Nat) : Accessed s (externalWrite s ctx line) := by
  unfold externalWrite
  split
  · exact .refl s
  · exact .foldl (fun s k => abortRegion_accessed s k 0x163 0) ..

theorem externalPa_accessed (s : State) (pa : Nat) : Accessed s (externalPa s pa) :=
  .foldl (fun s (l : TrackedLine) => externalWrite_accessed s l.ctx l.line) ..

/-! ## Translation (11 R221-R225) -/

theorem loadEntry_accessed (s : State) (a : Nat) : Accessed s (loadEntry s a).1 := cleanPa_accessed ..

theorem setEntry_accessed (s : State) (a : Nat) (e : Word) : Accessed s (setEntry s a e) :=
  ((externalPa_accessed ..).trans (purgePa_accessed ..)).trans (.of_teams rfl rfl)

theorem walkGo_accessed (c : Ctx) (va : Word) (k : Kind) (n : Nat) (s : State) (a : Nat) (w u x : Bool) :
    Accessed s (walkGo c va k n s a w u x).1 := by
  induction n generalizing s a w u x with
  | zero => exact .refl s
  | succ n ih =>
    have hload := loadEntry_accessed s (a + 8 * (va.toNat / 2 ^ (12 + 9 * n) % 512))
    simp only [walkGo]
    split
    · exact hload
    split
    · exact hload
    split
    · split
      · exact hload
      split
      · exact hload
      split
      · exact hload
      split
      · exact hload
      · exact hload.trans (.ite _ (.refl _) (setEntry_accessed ..))
    · split
      · exact hload
      · exact hload.trans (ih ..)

theorem walk_accessed (s : State) (ctx : Nat) (va : Word) (k : Kind) : Accessed s (walk s ctx va k).1 := by
  unfold walk
  split
  · exact .refl s
  · dsimp only
    split
    · exact .refl s
    · exact walkGo_accessed ..

theorem translate_accessed (s : State) (unit ctx : Nat) (va : Word) (k : Kind) : Accessed s (translate s unit ctx va k).1 := by
  have hwalk := walk_accessed s ctx va k
  unfold translate
  split
  · exact .refl s
  · split <;> rename_i hw <;> rw [hw] at hwalk
    · exact hwalk
    · exact hwalk.trans (.of_teams rfl rfl)

theorem takeRoute_accessed (s : State) (dev : BitVec 12) : Accessed s (takeRoute s dev) := by
  unfold takeRoute
  split
  · unfold routeOf
    split
    · exact .refl s
    · split
      · exact .refl s
      · exact .of_teams rfl rfl
  · exact .refl s

/-! ## Reading and writing at a home (10 R198-R201) -/

theorem lineRead_accessed (s : State) (unit ctx line : Nat) (need : ByteMask) (alloc : Bool) :
    Accessed s (lineRead s unit ctx line need alloc).1 := by
  have ht := translate_accessed s unit ctx (lineVa line) .read
  unfold lineRead
  dsimp only
  split
  · split
    · exact .refl s
    · split
      · exact .refl s
      · exact putHome_accessed ..
  · split <;> rename_i hw <;> rw [hw] at ht
    · exact ht
    · split
      · split
        · exact ht
        · exact ht.trans (takeRoute_accessed ..)
      · split
        · exact ht
        · split
          · exact ht.trans (addHome_accessed ..)
          · exact ht

theorem homeRead_accessed (s : State) (unit ctx line : Nat) (need : ByteMask) (alloc : Bool) :
    Accessed s (homeRead s unit ctx line need alloc).1 :=
  (pmcCount_accessed ..).trans (lineRead_accessed ..)

theorem retagHome_accessed (s : State) (g : HomeLine) (tr : Trans) : Accessed s (retagHome s g tr).1 := by
  unfold retagHome
  split
  · exact .refl s
  · exact ((cleanHome_accessed ..).trans (dropHome_accessed ..)).trans (addHome_accessed ..)

theorem mergeHome_accessed (s : State) (ctx line : Nat) (m : ByteMask) (d : LineData) (tr : Trans) (alloc : Bool) :
    Accessed s (mergeHome s ctx line m d tr alloc) := by
  unfold mergeHome
  split
  · split
    · exact putHome_accessed ..
    split
    · exact keyWrite_accessed ..
    · exact (retagHome_accessed ..).trans (putHome_accessed ..)
  · split
    · exact addHome_accessed ..
    · exact keyWrite_accessed ..

theorem homeMerge_accessed (s : State) (ctx line : Nat) (m : ByteMask) (d : LineData) (tr : Trans) (alloc : Bool) :
    Accessed s (homeMerge s ctx line m d tr alloc) :=
  (externalWrite_accessed ..).trans (mergeHome_accessed ..)

/-! ## Accesses the device makes for itself (03 R386) -/

theorem devRead_accessed (s : State) (unit : Nat → Nat) (ctx va n : Nat) : Accessed s (devRead s unit ctx va n).1 := by
  refine Accessed.foldl_fst (β := Except Missing (List Byte)) (fun acc (lm : Nat × ByteMask) => ?_) (rangeLines va n) (s, .ok [])
  split
  · exact .refl _
  · rename_i s0 bs
    have hread := homeRead_accessed s0 (unit (lm.1 * 64)) ctx lm.1 lm.2 true
    split <;> rename_i hw <;> rw [hw] at hread <;> exact hread

/-- A program of device accesses changes nothing else. -/
def Dev.Accesses {α : Type} (x : Dev α) : Prop := ∀ s, Accessed s (x s).1

namespace Dev.Accesses

theorem pure {α : Type} (a : α) : Dev.Accesses (Dev.pure a) := fun s => .refl s

theorem bind {α β : Type} {x : Dev α} {f : α → Dev β} (hx : Dev.Accesses x) (hf : ∀ a, Dev.Accesses (f a)) :
    Dev.Accesses (Dev.bind x f) := by
  intro s
  have h := hx s
  unfold Dev.bind
  split <;> rename_i hw <;> rw [hw] at h
  · exact h.trans (hf _ _)
  · exact h

end Dev.Accesses

theorem readVa_accesses (unit : Nat → Nat) (ctx va n align : Nat) : Dev.Accesses (readVa unit ctx va n align) := by
  intro s
  unfold readVa
  split
  · exact .refl s
  · exact devRead_accessed ..

theorem lookupQueue_accesses (ctx qid : Nat) : Dev.Accesses (lookupQueue ctx qid) := by
  intro s
  unfold lookupQueue
  split
  · exact .refl s
  · exact Dev.Accesses.bind (readVa_accesses _ _ _ _ _) (fun _ => .pure _) s

theorem readHeader_accesses (ctx ring : Nat) : Dev.Accesses (readHeader ctx ring) :=
  .bind (readVa_accesses _ _ _ _ _) (fun _ => .pure _)

theorem popEntry_accesses (ctx qid : Nat) : Dev.Accesses (popEntry ctx qid) := by
  refine .bind (lookupQueue_accesses _ _) (fun e => ?_)
  split
  · exact .pure _
  · refine .bind (readHeader_accesses _ _) (fun th => .bind (readVa_accesses _ _ _ _ _) (fun bs => ?_))
    split <;> exact .pure _

/-! ## Write-backs (10 R200, R201) -/

theorem putL1_accessed (s : State) (x : L1Line) : Accessed s (putL1 s x) := by
  unfold putL1
  split <;> exact .of_teams rfl rfl

theorem patchFills_accessed (s : State) (core ctx line : Nat) (m : ByteMask) (d : LineData) :
    Accessed s (patchFills s core ctx line m d) := .of_teams rfl rfl

theorem refreshL1_accessed (s : State) (core ctx line : Nat) (m : ByteMask) (d : LineData) :
    Accessed s (refreshL1 s core ctx line m d) := by
  unfold refreshL1
  refine Accessed.trans ?_ (patchFills_accessed ..)
  split
  · exact .refl s
  · exact putL1_accessed ..

theorem drainOne_accessed (s : State) (sid home : Nat) : Accessed s (drainOne s sid home) := by
  unfold drainOne
  split
  · exact .refl s
  · rename_i q _
    have hpop : Accessed s { s with wq := s.wq.erase q } := .of_teams rfl rfl
    exact (hpop.trans (homeMerge_accessed ..)).trans (refreshL1_accessed ..)

theorem drainThrough_accessed (k : Nat) (s : State) (q : QWrite) : Accessed s (drainThrough k s q) := by
  induction k generalizing s with
  | zero => exact .refl s
  | succ k ih =>
    unfold drainThrough
    split
    · exact (drainOne_accessed ..).trans (ih _)
    · exact .refl s

theorem drainAll_accessed (s : State) (f : QWrite → Bool) : Accessed s (drainAll s f) :=
  .foldl (fun _ q => drainThrough_accessed _ _ q) ..

theorem writeBackLine_accessed (s : State) (core ctx line : Nat) : Accessed s (writeBackLine s core ctx line) := by
  unfold writeBackLine
  split
  · exact .refl s
  · rename_i x _
    split
    · exact .refl s
    · split
      · exact .refl s
      · have htick : Accessed (putL1 s { x with dirty := 0, narrow := 0 }) (putL1 s { x with dirty := 0, narrow := 0 }).tick1 :=
          .of_teams rfl rfl
        exact ((((putL1_accessed ..).trans htick).trans (drainAll_accessed ..)).trans (homeMerge_accessed ..)).trans
          ((refreshL1_accessed ..).trans (patchFills_accessed ..))

theorem releaseAt_accessed (s : State) (a : Access) : Accessed s (releaseAt s a) := by
  unfold releaseAt
  split
  · exact .foldl (fun s (x : L1Line) => writeBackLine_accessed s x.core a.ctx x.line) ..
  · exact .refl s

end Sys2Proof.Machine
end

section
/-! How an instruction that nothing holds back ends, said once: it completes, and its team goes on to the next word; or its team
waits at it (05 R85, R86). -/

namespace Sys2Proof.Machine

/-! ## What is left as it was, composed -/

theorem SameRegs.refl (t : Team) (dst : List RegName) : SameRegs t t dst :=
  ⟨fun _ _ => rfl, fun _ _ => rfl, fun _ _ => rfl, fun _ => rfl⟩

/-- A change of no register follows one of some. -/
theorem SameRegs.trans_nil {t u v : Team} {dst : List RegName} (h : SameRegs t u dst) (g : SameRegs u v []) : SameRegs t v dst where
  s n hn := (g.s n (by simp)).trans (h.s n hn)
  v n hn := (g.v n (by simp)).trans (h.v n hn)
  p n hn := (g.p n (by simp)).trans (h.p n hn)
  mask hn := (g.mask (by simp)).trans (h.mask hn)

theorem SameHeld.refl (t : Team) : SameHeld t t := by
  constructor <;> and_intros <;> intros <;> rfl

theorem SameHeld.trans {t u v : Team} (h : SameHeld t u) (g : SameHeld u v) : SameHeld t v := by
  obtain ⟨h1, h2, h3, h4, h5, h6, h7⟩ := h
  obtain ⟨g1, g2, g3, g4, g5, g6, g7⟩ := g
  refine ⟨?_, ?_, ?_, ?_, fun k => (g5 k).trans (h5 k), fun k => (g6 k).trans (h6 k), g7.trans h7⟩ <;> simp_all

theorem SameMemory.of_eq {s s' : State} (hm : s'.mem = s.mem) (hs : s'.spad = s.spad) (hb : s'.spadBase = s.spadBase) : SameMemory s s' :=
  ⟨fun _ => by rw [hm], spadByte_congr hs hb⟩

/-! ## Completing -/

theorem counted_eq (s : State) (sid k : Nat) (t : Team) (f : Core → Core) (p : PmcPlace) (ev x n : Nat) :
    ∃ T c d v a o, (pmcCount ((s.setTeam sid t).onCore k f) p ev x n).nextOrder =
      { s with teams := T, cores := c, dieTab := d, ventPmc := v, agenda := a, order := o } := by
  obtain ⟨c, d, v, a, h⟩ := State.pmcCount_eq ((s.setTeam sid t).onCore k f) p ev x n
  rw [h]
  exact ⟨_, c, d, v, a, _, rfl⟩

/-- Noting a pass changes teams, cores, counters, the agenda and the order. -/
theorem notePass_eq (s : State) (sid cycles n : Nat) (yld : Bool) :
    ∃ T c d v a o, notePass s sid cycles n yld =
      { s with teams := T, cores := c, dieTab := d, ventPmc := v, agenda := a, order := o } := by
  unfold notePass
  split
  · exact ⟨_, _, _, _, _, _, rfl⟩
  · exact counted_eq ..

theorem noted_eq (s : State) (sid : Nat) (t : Team) (p : PmcPlace) (ev x m cycles n : Nat) (yld : Bool) :
    ∃ T c d v a o f, ({ (notePass (pmcCount (s.setTeam sid t) p ev x m) sid cycles n yld).tick1 with current := none } : State) =
      { s with teams := T, cores := c, dieTab := d, ventPmc := v, agenda := a, current := none, order := o, fresh := f } := by
  obtain ⟨T, c, d, v, a, o, h⟩ := notePass_eq (pmcCount (s.setTeam sid t) p ev x m) sid cycles n yld
  obtain ⟨c', d', v', a', h'⟩ := State.pmcCount_eq (s.setTeam sid t) p ev x m
  rw [h, h']
  exact ⟨T, c, d, v, a, o, s.fresh + 1, rfl⟩

/-- Completing an instruction changes no more than these. -/
theorem retire_eq (i : Instr) (sid : Nat) (t0 : Team) (u : Uses) (s : State) (n : Nat) (pc : Word) :
    ∃ T c d v a o f, retire i sid t0 u s n pc =
      { s with teams := T, cores := c, dieTab := d, ventPmc := v, agenda := a, current := none, order := o, fresh := f } := by
  unfold retire
  split
  · exact ⟨s.teams, s.cores, s.dieTab, s.ventPmc, s.agenda, s.order, s.fresh, rfl⟩
  · exact noted_eq ..

/-- What completing leaves of the team: its registers, the results it waits for and all it holds. -/
theorem retire_team {i : Instr} {sid : Nat} {t0 : Team} {u : Uses} {s : State} {n : Nat} {pc : Word} {t : Team}
    (h : s.team? sid = some t) :
    ∃ t', (retire i sid t0 u s n pc).team? sid = some t' ∧ t'.pc = pc ∧ t'.s = t.s ∧ t'.sb = t.sb ∧ SameRegs t t' [] ∧
      SameHeld t t' := by
  unfold retire
  rw [h]
  obtain ⟨k, hk⟩ := noted_spec ..
  refine ⟨_, hk, rfl, rfl, rfl, ?_, ?_⟩
  · exact ⟨fun _ _ => rfl, fun _ _ => rfl, fun _ _ => rfl, fun _ => rfl⟩
  · constructor <;> and_intros <;> intros <;> rfl

theorem Goes.mono {i : Instr} {s : State} {sid : Nat} {t : Team} {dst : List RegName} {P Q : State → Team → Prop}
    (h : Goes i s sid t dst P) (f : ∀ s' t', P s' t' → Q s' t') : Goes i s sid t dst Q := by
  obtain ⟨s', t', hx, ht, hpc, hregs, hheld, hP⟩ := h
  exact ⟨s', t', hx, ht, hpc, hregs, hheld, f s' t' hP⟩

section
variable {i : Instr} {s : State} {sid : Nat} {t : Team}

/-- An instruction whose effect left `e` completes: its team has the registers that the effect left, and goes on. -/
theorem goes_of_fall {dst : List RegName} {e : State} {n : Nat} {t1 : Team} {P : State → Team → Prop}
    (hx : exec i s = finish i sid (teamAtIssue i s sid t) (uses i) (.fall e n)) (ht : e.team? sid = some t1)
    (hregs : SameRegs (teamAtIssue i s sid t) t1 dst)
    (hheld : SameHeld { teamAtIssue i s sid t with region := t1.region, window := t1.window } t1)
    (hP : ∀ t', t'.s = t1.s → t'.sb = t1.sb → P (fallen i s sid t e n) t') : Goes i s sid t dst P := by
  obtain ⟨t', ht', hpc, hs, hsb, hregs', hheld'⟩ := retire_team (i := i) (t0 := teamAtIssue i s sid t) (u := uses i) (n := n)
    (pc := (teamAtIssue i s sid t).pc + 12) ht
  refine ⟨_, t', hx.trans (finish_fall ..), ht', hpc, hregs.trans_nil hregs', ?_, hP t' hs hsb⟩
  obtain ⟨-, -, -, hwindow, hregion⟩ := hheld'.vent
  rw [hwindow, hregion]
  exact hheld.trans hheld'

/-- An instruction that is not complete leaves its team waiting at it. -/
theorem waits_of_wait {e : State} {w : Park}
    (hx : exec i s = finish i sid (teamAtIssue i s sid t) (uses i) (.wait e w))
    (ht : e.team? sid = some (teamAtIssue i s sid t)) (hm : SameMemory (atIssue i s sid t) e) : Waits i s sid t w := by
  have hteam : e.onTeam sid (fun t => { t with park := w }) = e.setTeam sid { teamAtIssue i s sid t with park := w } :=
    State.onTeam_some ht _
  rw [finish, hteam] at hx
  refine ⟨_, { teamAtIssue i s sid t with park := w }, hx, State.team?_setTeam .., rfl, rfl, ?_, ?_, hm⟩
  · exact ⟨fun _ _ => rfl, fun _ _ => rfl, fun _ _ => rfl, fun _ => rfl⟩
  · constructor <;> and_intros <;> intros <;> rfl

end

/-! ## Results that are still to come -/

/-- A pending result is entered in the team's scoreboard, and named by the order number. -/
theorem addSb_some {s : State} {sid : Nat} {t : Team} (h : s.team? sid = some t) (r : RegName) (after : List Nat) (engine : Bool)
    (due : Nat) : (addSb s sid r after engine due).1 =
      (s.setTeam sid { t with sb := t.sb ++ [{ reg := r, tok := s.order, after := after, engine := engine, due := due }] }).nextOrder := by
  rw [addSb, State.onTeam_some h]

theorem Team.sr_setS (t : Team) (n k : Nat) (x : Word) : (t.setS n x).sr k = if k = n ∧ n ≠ 0 then x else t.sr k := by
  unfold Team.setS
  split
  · simp [*]
  · unfold Team.sr
    split
    · rw [if_neg (by omega)]
    · simp [Tab.get_set, *]

/-- Writing scalars changes only them. -/
theorem Team.setS_eq (t : Team) (n : Nat) (x : Word) : ∃ m, t.setS n x = { t with s := m } := by
  unfold Team.setS
  split
  · exact ⟨_, rfl⟩
  · exact ⟨_, rfl⟩

end Sys2Proof.Machine
end

section
/-! QUEUES (O35): pushes, pops, cancels and the order between launches (15 R280-R283, R285; 04 R71). -/

namespace Sys2Proof.Machine

/-! ## Releases (14 R265, R270) -/

theorem regionForbids_of_none {t : Team} (h : t.region = none) : regionForbids t = false := by
  simp [regionForbids, Team.openRegion, h]

/-- With no queued write of the team a release goes on at once. -/
theorem releaseOr_go {s : State} {a : Access} (h : ∀ q ∈ s.wq, q.sid ≠ a.sid) (go : State → Done) :
    releaseOr s a go = go (releaseAt s a) := by
  unfold releaseOr
  rw [if_neg]
  simpa using h

theorem releaseOr_wait {s : State} {a : Access} (h : ∃ q ∈ s.wq, q.sid = a.sid) (go : State → Done) :
    releaseOr s a go = .wait s .drain := by
  unfold releaseOr
  rw [if_pos]
  simpa using h

/-! ## Tokens to come (05 R88) -/

/-- An engine's token is to come in scalar `d`, unless that is s0; either way the instruction takes an order number. -/
def awaitToken (s : State) (sid : Nat) (d : SIdx) : State :=
  if d = 0 then s.nextOrder else (addSb s sid (.s d.toNat) [] true).1

theorem awaitToken_spec {s : State} {sid : Nat} {t : Team} (h : s.team? sid = some t) (d : SIdx) :
    ∃ sb, (awaitToken s sid d).team? sid = some { t with sb := sb } ∧
      (d ≠ 0 → ∃ e ∈ sb, e.reg = .s d.toNat ∧ e.engine = true) ∧
      awaitToken s sid d = { s with teams := (awaitToken s sid d).teams, order := s.order + 1 } := by
  unfold awaitToken
  split
  · rename_i hd
    exact ⟨t.sb, h, fun hn => absurd hd hn, rfl⟩
  · rw [addSb_some h]
    exact ⟨_, State.team?_setTeam .., fun _ => ⟨_, List.mem_append_right _ (List.mem_singleton_self _), rfl, rfl⟩, rfl⟩

/-- A pending result changes the team and takes an order number. -/
theorem addSb_spec {s : State} {sid : Nat} {t : Team} (h : s.team? sid = some t) (r : RegName) :
    ∃ sb, (addSb s sid r [] false).1.team? sid = some { t with sb := sb } ∧
      (addSb s sid r [] false).1 = { s with teams := (addSb s sid r [] false).1.teams, order := s.order + 1 } := by
  rw [addSb_some h]
  exact ⟨_, State.team?_setTeam .., rfl⟩

/-- Two interlocked results in a pair of scalars. -/
theorem addSb_pair {s : State} {sid : Nat} {t : Team} (h : s.team? sid = some t) (r1 r2 : RegName) :
    ∃ sb, (addSb (addSb s sid r1 [] false).1 sid r2 [] false).1.team? sid = some { t with sb := sb } ∧
      (addSb (addSb s sid r1 [] false).1 sid r2 [] false).1 =
        { s with teams := (addSb (addSb s sid r1 [] false).1 sid r2 [] false).1.teams, order := s.order + 1 + 1 } := by
  obtain ⟨sb1, ht1, h1⟩ := addSb_spec h r1
  generalize (addSb s sid r1 [] false).1 = s1 at *
  obtain ⟨sb2, ht2, h2⟩ := addSb_spec ht1 r2
  generalize (addSb s1 sid r2 [] false).1 = s2 at *
  exact ⟨sb2, ht2, h2.trans (congrArg (fun x : State => { x with teams := s2.teams, order := x.order + 1 }) h1)⟩

/-! ## Pushes (15 R280, R281) -/

/-- The push that an instruction sends, as the queue agent receives it. -/
def sentPush (task : Bool) (d a : SIdx) (q : SI) (sid : Nat) (vw : View) (s : State) : Push :=
  { sid := sid, key := vw.t.key, ctx := vw.t.ctx, task := task, qid := (vw.si q).toNat % 2 ^ 32, lrec := vw.sr a.toNat,
    regions := if task then vw.sr (a.toNat + 1) else 0, reg := d.toNat, tok := s.order, slot := none, stalled := false,
    job := pusherJob s vw.t.lid, dies := pusherDies s vw.t.lid, waiting := none, served := [], denied := [] }

theorem sentPush_task_regions (d a : SIdx) (q : SI) (sid : Nat) (vw : View) (s : State) :
    (sentPush true d a q sid vw s).regions = vw.sr (a.toNat + 1) := by simp [sentPush]

theorem sentPush_push_regions (d a : SIdx) (q : SI) (sid : Nat) (vw : View) (s : State) :
    (sentPush false d a q sid vw s).regions = 0 := by simp [sentPush]

/-- Nothing holding it back, a push releases, is on its way, and its token is to come. -/
theorem sendPush_eq {s : State} {sid : Nat} {vw : View} (hr : vw.t.region = none) (hw : ∀ q ∈ s.wq, q.sid ≠ sid) (task : Bool)
    (d a : SIdx) (q : SI) :
    sendPush task d a q sid vw s =
      .fall (awaitToken { releaseAt s (systemAccess sid vw.t) with
        pushes := (releaseAt s (systemAccess sid vw.t)).pushes ++
          [sentPush task d a q sid vw (releaseAt s (systemAccess sid vw.t))] } sid d) 1 := by
  simp only [sendPush, regionForbids_of_none hr, Bool.false_eq_true, if_false]
  rw [releaseOr_go hw]
  rfl

section
variable {i : Instr} {h : Hdr} {s : State} {sid : Nat} {t : Team}

theorem fallen_pushes (e : State) (n : Nat) : (fallen i s sid t e n).pushes = e.pushes := by
  obtain ⟨T, c, d, v, a, o, f, hret⟩ := retire_eq i sid (teamAtIssue i s sid t) (uses i) e n ((teamAtIssue i s sid t).pc + 12)
  rw [fallen, hret]

theorem fallen_casts (e : State) (n : Nat) : (fallen i s sid t e n).casts = e.casts := by
  obtain ⟨T, c, d, v, a, o, f, hret⟩ := retire_eq i sid (teamAtIssue i s sid t) (uses i) e n ((teamAtIssue i s sid t).pc + 12)
  rw [fallen, hret]

theorem fallen_launch? (e : State) (n k : Nat) : (fallen i s sid t e n).launch? k = e.launch? k := by
  obtain ⟨T, c, d, v, a, o, f, hret⟩ := retire_eq i sid (teamAtIssue i s sid t) (uses i) e n ((teamAtIssue i s sid t).pc + 12)
  rw [fallen, hret]
  rfl

theorem fallen_bytes (e : State) (n : Nat) : SameBytes e (fallen i s sid t e n) := retire_same ..

/-- An effect that changed no byte leaves an instruction that changes none. -/
theorem fallen_same {e : State} (he : SameBytes (atIssue i s sid t) e) (n : Nat) :
    SameBytes (atIssue i s sid t) (fallen i s sid t e n) := he.trans (fallen_bytes e n)

theorem fallen_mem (e : State) (n : Nat) : (fallen i s sid t e n).mem = e.mem := (retire_bytes ..).1

theorem fallen_homes (e : State) (n : Nat) : (fallen i s sid t e n).homes = e.homes := (fallen_bytes e n).home

/-- What `sendPush` leaves of an instruction that nothing holds back. -/
theorem sendPush_goes (r : Runs i h s sid t) (task : Bool) (d a : SIdx) (q : SI)
    (hx : exec i s = finish i sid (teamAtIssue i s sid t) (uses i)
      (sendPush task d a q sid (viewAtIssue i s sid t) (atIssue i s sid t)))
    (hr : (teamAtIssue i s sid t).region = none) (hw : ∀ q ∈ (atIssue i s sid t).wq, q.sid ≠ sid) :
    Goes i s sid t [.s d.toNat] (fun s' t' => (∃ o, s'.pushes = (atIssue i s sid t).pushes ++
      [sentPush task d a q sid (viewAtIssue i s sid t) o]) ∧ Awaited t' d) := by
  have hrel := releaseAt_accessed (atIssue i s sid t) (systemAccess sid (teamAtIssue i s sid t))
  have ht := hrel.idle sid _ r.resident_atIssue hr
  have hpushes := hrel.pushes
  rw [sendPush_eq hr hw, viewAtIssue_t] at hx
  generalize releaseAt (atIssue i s sid t) (systemAccess sid (teamAtIssue i s sid t)) = rel at hx ht hpushes
  obtain ⟨sb, hteam, hawaited, hrest⟩ := awaitToken_spec
    (s := { rel with pushes := rel.pushes ++ [sentPush task d a q sid (viewAtIssue i s sid t) rel] }) ht d
  refine goes_of_fall hx hteam ⟨fun _ _ => rfl, fun _ _ => rfl, fun _ _ => rfl, fun _ => rfl⟩
    (by constructor <;> and_intros <;> intros <;> rfl) (fun t' _ hsb => ⟨⟨rel, ?_⟩, fun hd => ?_⟩)
  · rw [fallen_pushes, hrest, ← hpushes]
  · rw [hsb]
    exact hawaited hd

/-! ## Pairs of results -/

/-- A pair of scalars written, the second after the first. -/
theorem Team.setS_pair (u : Team) (k : Nat) (x y : Word) : ∃ m, (u.setS k x).setS (k + 1) y = { u with s := m } ∧
    ∀ n, ({ u with s := m } : Team).sr n = if n = k + 1 then y else if n = k ∧ k ≠ 0 then x else u.sr n := by
  obtain ⟨m, hm⟩ := Team.setS_eq u k x
  obtain ⟨m', hm'⟩ := Team.setS_eq (u.setS k x) (k + 1) y
  have hpair : (u.setS k x).setS (k + 1) y = { u with s := m' } := hm'.trans (by rw [hm])
  refine ⟨m', hpair, fun n => ?_⟩
  rw [← hpair, Team.sr_setS, Team.sr_setS]
  simp

/-- What `pairResult` leaves: both scalars hold their results, which are interlocked, and no byte has changed. -/
theorem pairResult_goes {e : State} (d : SIdx) (x y : Word)
    (hx : exec i s = finish i sid (teamAtIssue i s sid t) (uses i) (pairResult e sid d x y))
    (ht : e.team? sid = some (teamAtIssue i s sid t)) :
    Goes i s sid t [.s d.toNat, .s (d.toNat + 1)] (fun s' t' => Holds t' d x ∧ t'.sr (d.toNat + 1) = y ∧ s'.mem = e.mem ∧
      s'.homes = e.homes ∧ SameBytes e s') := by
  generalize hu : teamAtIssue i s sid t = u at ht
  obtain ⟨m, hm, hsr⟩ := Team.setS_pair u d.toNat x y
  have hset : e.onTeam sid (fun t => (t.setS d.toNat x).setS (d.toNat + 1) y) = e.setTeam sid { u with s := m } := by
    rw [← hm]
    exact State.onTeam_some ht _
  rw [pairResult, hset] at hx
  obtain ⟨sb, hteam, hrest⟩ := addSb_pair (State.team?_setTeam e sid { u with s := m }) (.s d.toNat) (.s (d.toNat + 1))
  refine goes_of_fall hx hteam ?_ ?_ (fun t' hs _ => ?_)
  · rw [hu]
    refine ⟨fun n hn => ?_, fun _ _ => rfl, fun _ _ => rfl, fun _ => rfl⟩
    simp only [List.mem_cons, RegName.s.injEq, List.not_mem_nil, or_false, not_or] at hn
    exact (hsr n).trans (by simp [hn])
  · rw [hu]
    constructor <;> and_intros <;> intros <;> rfl
  · have hsr' : ∀ n, t'.sr n = ({ u with s := m } : Team).sr n := fun n => by rw [Team.sr, hs]; rfl
    refine ⟨?_, ?_, ?_, ?_, ?_⟩
    · rw [Holds, hsr', hsr]
      by_cases hd : d = 0
      · subst hd
        simp [Team.sr]
      · have : d.toNat ≠ 0 := fun hz => hd (BitVec.eq_of_toNat_eq hz)
        rw [if_neg (by omega), if_pos ⟨rfl, this⟩, if_neg hd]
    · rw [hsr', hsr]
      simp
    · rw [fallen_mem, hrest]
      rfl
    · rw [fallen_homes, hrest]
      rfl
    · refine SameBytes.trans ?_ (fallen_bytes ..)
      rw [hrest]
      exact ⟨fun _ => rfl, fun _ => rfl, rfl, rfl, rfl⟩

end

/-! ## The instructions (15 R280-R283, R285) -/

section
variable {h : Hdr} {d a : SIdx} {q : SI} {s : State} {sid : Nat} {t : Team}

theorem qpush_goes (r : Runs (.qpush h d a q) h s sid t) (hr : (teamAtIssue (.qpush h d a q) s sid t).region = none)
    (hw : ∀ x ∈ (atIssue (.qpush h d a q) s sid t).wq, x.sid ≠ sid) :
    Goes (.qpush h d a q) s sid t [.s d.toNat] (fun s' t' => (∃ o, s'.pushes = (atIssue (.qpush h d a q) s sid t).pushes ++
      [sentPush false d a q sid (viewAtIssue (.qpush h d a q) s sid t) o]) ∧ Awaited t' d) :=
  sendPush_goes r false d a q (issueScalar_on r.toClear r.guard _) hr hw

theorem qspawn_goes (r : Runs (.qspawn h d a q) h s sid t) (hr : (teamAtIssue (.qspawn h d a q) s sid t).region = none)
    (hw : ∀ x ∈ (atIssue (.qspawn h d a q) s sid t).wq, x.sid ≠ sid) :
    Goes (.qspawn h d a q) s sid t [.s d.toNat] (fun s' t' => (∃ o, s'.pushes = (atIssue (.qspawn h d a q) s sid t).pushes ++
      [sentPush true d a q sid (viewAtIssue (.qspawn h d a q) s sid t) o]) ∧ Awaited t' d) :=
  sendPush_goes r true d a q (issueScalar_on r.toClear r.guard _) hr hw

theorem acquireAt_keeps (s : State) (a : Access) : ∃ l f, acquireAt s a = { s with l1 := l, fills := f } := by
  unfold acquireAt
  split
  · exact ⟨_, _, rfl⟩
  · exact ⟨s.l1, s.fills, rfl⟩

/-- DONE without a cause, a KIND and the low bits of HEAD, as `qpop` answers them. -/
theorem popStatus_eq {k : Nat} (hk : k < 2 ^ 8) (n : Nat) :
    doneCause 0 ||| BitVec.ofNat 64 (k * 2 ^ 32 + n % 2 ^ 32) = BitVec.ofNat 64 (2 ^ 63 + k * 2 ^ 32 + n % 2 ^ 32) := by
  have hdone : doneCause 0 = BitVec.ofNat 64 (2 ^ 63) := by decide
  have hlow : k * 2 ^ 32 + n % 2 ^ 32 < 2 ^ 63 := by omega
  rw [hdone, ← BitVec.ofNat_or, Nat.add_assoc]
  exact congrArg _ (Nat.two_pow_add_eq_or_of_lt hlow 1).symm

theorem doneCause_eq (c : BitVec 9) : doneCause c = BitVec.ofNat 64 (2 ^ 63 + c.toNat * 2 ^ 54) := by
  have hc : c.toNat * 2 ^ 54 < 2 ^ 63 := by have := c.isLt; omega
  apply BitVec.eq_of_toNat_eq
  have hor := Nat.two_pow_add_eq_or_of_lt hc 1
  rw [Nat.mul_one] at hor
  rw [BitVec.toNat_ofNat, Nat.mod_eq_of_lt (by omega), hor]
  simp only [doneCause, BitVec.toNat_or, BitVec.toNat_shiftLeft, BitVec.toNat_setWidth, BitVec.toNat_ofNat, Nat.shiftLeft_eq]
  rw [Nat.mod_eq_of_lt (show c.toNat < 2 ^ 64 by omega), Nat.mod_eq_of_lt (show c.toNat * 2 ^ 54 < 2 ^ 64 by omega)]

/-- An entry that is there is popped: HEAD is stored as a release, and the pair answers the entry. -/
theorem qpop_goes {s1 s2 : State} {va x k n : Nat} (r : Runs (.qpop h d q) h s sid t)
    (hr : (teamAtIssue (.qpop h d q) s sid t).region = none)
    (hp : popEntry (teamAtIssue (.qpop h d q) s sid t).ctx (((viewAtIssue (.qpop h d q) s sid t).si q).toNat % 2 ^ 32)
      (atIssue (.qpop h d q) s sid t) = (s1, .ok (.ok (va, x, k, n)))) (hw : ∀ q ∈ s1.wq, q.sid ≠ sid)
    (hs : writeVa unitOf (teamAtIssue (.qpop h d q) s sid t).ctx (va + 8) 8 (leBytes 8 (n + 1))
      (releaseAt s1 (systemAccess sid (teamAtIssue (.qpop h d q) s sid t))) = (s2, .ok ()))
    (ht : s2.team? sid = some (teamAtIssue (.qpop h d q) s sid t)) (hk : k < 2 ^ 8) :
    Goes (.qpop h d q) s sid t [.s d.toNat, .s (d.toNat + 1)] (fun s' t' =>
      Holds t' d (BitVec.ofNat 64 (2 ^ 63 + k * 2 ^ 32 + n % 2 ^ 32)) ∧ t'.sr (d.toNat + 1) = BitVec.ofNat 64 x ∧
        s'.mem = s2.mem ∧ s'.homes = s2.homes) := by
  have hx : exec (.qpop h d q) s = execQpop h d q s := rfl
  rw [execQpop, issueScalar_on r.toClear r.guard] at hx
  simp only [viewAtIssue_t, regionForbids_of_none hr, hp, Bool.false_eq_true, if_false] at hx
  rw [releaseOr_go hw] at hx
  simp only [hs, popStatus_eq hk] at hx
  obtain ⟨l, f, hacq⟩ := acquireAt_keeps (dropSpawned s2 (teamAtIssue (.qpop h d q) s sid t).ctx
    (((viewAtIssue (.qpop h d q) s sid t).si q).toNat % 2 ^ 32) n) (systemAccess sid (teamAtIssue (.qpop h d q) s sid t))
  rw [hacq] at hx
  exact (pairResult_goes d _ _ hx ht).mono (fun _ _ ⟨hd, hd1, hmem, hhomes, _⟩ => ⟨hd, hd1, hmem, hhomes⟩)

/-- With no entry to pop the pair answers the cause, and no byte changes. -/
theorem qpop_goes_of_cause {s1 : State} {c : BitVec 9} (r : Runs (.qpop h d q) h s sid t)
    (hr : (teamAtIssue (.qpop h d q) s sid t).region = none)
    (hp : popEntry (teamAtIssue (.qpop h d q) s sid t).ctx (((viewAtIssue (.qpop h d q) s sid t).si q).toNat % 2 ^ 32)
      (atIssue (.qpop h d q) s sid t) = (s1, .ok (.error c))) (ht : s1.teams = (atIssue (.qpop h d q) s sid t).teams) :
    Goes (.qpop h d q) s sid t [.s d.toNat, .s (d.toNat + 1)] (fun s' t' =>
      Holds t' d (BitVec.ofNat 64 (2 ^ 63 + c.toNat * 2 ^ 54)) ∧ t'.sr (d.toNat + 1) = 0 ∧ SameBytes s1 s') := by
  have hx : exec (.qpop h d q) s = execQpop h d q s := rfl
  rw [execQpop, issueScalar_on r.toClear r.guard] at hx
  simp only [viewAtIssue_t, regionForbids_of_none hr, hp, Bool.false_eq_true, if_false, doneCause_eq] at hx
  have hteam : s1.team? sid = some (teamAtIssue (.qpop h d q) s sid t) := by
    rw [State.team?, ht]
    exact r.resident_atIssue
  exact (pairResult_goes d _ _ hx hteam).mono (fun _ _ ⟨hd, hd1, _, _, hsame⟩ => ⟨hd, hd1, hsame⟩)

/-- While an earlier write of the team is queued, a pop waits before its release. -/
theorem qpop_waits {s1 : State} {x : Nat × Nat × Nat × Nat} (r : Runs (.qpop h d q) h s sid t)
    (hr : (teamAtIssue (.qpop h d q) s sid t).region = none)
    (hp : popEntry (teamAtIssue (.qpop h d q) s sid t).ctx (((viewAtIssue (.qpop h d q) s sid t).si q).toNat % 2 ^ 32)
      (atIssue (.qpop h d q) s sid t) = (s1, .ok (.ok x))) (ht : s1.teams = (atIssue (.qpop h d q) s sid t).teams)
    (hw : ∃ q ∈ s1.wq, q.sid = sid) (hm : s1.mem = (atIssue (.qpop h d q) s sid t).mem)
    (hs : s1.spad = (atIssue (.qpop h d q) s sid t).spad) : Waits (.qpop h d q) s sid t .drain := by
  have hx : exec (.qpop h d q) s = execQpop h d q s := rfl
  rw [execQpop, issueScalar_on r.toClear r.guard] at hx
  have hacc := popEntry_accesses (teamAtIssue (.qpop h d q) s sid t).ctx
    (((viewAtIssue (.qpop h d q) s sid t).si q).toNat % 2 ^ 32) (atIssue (.qpop h d q) s sid t)
  rw [hp] at hacc
  obtain ⟨va, lrec, k, n⟩ := x
  simp only [viewAtIssue_t, regionForbids_of_none hr, hp, Bool.false_eq_true, if_false] at hx
  rw [releaseOr_wait hw] at hx
  have hteam : s1.team? sid = some (teamAtIssue (.qpop h d q) s sid t) := by
    rw [State.team?, ht]
    exact r.resident_atIssue
  exact waits_of_wait hx hteam (.of_eq hm hs hacc.spadBase)

/-- A cancel sends its pair to each die, in order. -/
theorem qcancel_goes (r : Runs (.qcancel h q) h s sid t) (hr : (teamAtIssue (.qcancel h q) s sid t).region = none)
    (hc : ((atIssue (.qcancel h q) s sid t).die (teamAtIssue (.qcancel h q) s sid t).die).cancels.length < 64) :
    Goes (.qcancel h q) s sid t [] (fun s' _ =>
      (∃ cs : List Broadcast, s'.casts = (atIssue (.qcancel h q) s sid t).casts ++ cs ∧ cs.length = Config.dies ∧
        ∀ k, k < Config.dies → ∃ b, cs[k]? = some b ∧ b.die = k ∧ b.ctx = (teamAtIssue (.qcancel h q) s sid t).ctx ∧
          b.job = BitVec.ofNat 32 ((viewAtIssue (.qcancel h q) s sid t).si q).toNat) ∧
      SameBytes (atIssue (.qcancel h q) s sid t) s') := by
  have hx : exec (.qcancel h q) s = execQcancel h q s := rfl
  rw [execQcancel, issueScalar_on r.toClear r.guard] at hx
  simp only [viewAtIssue_t, regionForbids_of_none hr, Nat.not_le.mpr hc, Bool.false_eq_true, if_false] at hx
  refine goes_of_fall hx r.resident_atIssue (.refl _ _) (.refl _) (fun t' _ _ => ⟨⟨_, fallen_casts .., by simp, fun k hk => ?_⟩, ?_⟩)
  · rw [List.getElem?_map, List.getElem?_range hk]
    exact ⟨_, rfl, rfl, rfl, rfl⟩
  · refine fallen_same ?_ _
    exact ⟨fun _ => rfl, fun _ => rfl, rfl, rfl, rfl⟩

/-- A change of a launch that keeps its number reaches that launch alone. -/
theorem State.launch?_onLaunch (s : State) (k n : Nat) {f : Launch → Launch} (hf : ∀ l, (f l).lid = l.lid) :
    (s.onLaunch k f).launch? n = if n = k then (s.launch? n).map f else s.launch? n := by
  have hkey : ((fun l : Launch => l.lid == n) ∘ fun l => if l.lid = k then f l else l) = fun l => l.lid == n := by
    funext l
    dsimp only [Function.comp]
    split
    · rw [hf]
    · rfl
  have hfind : (s.onLaunch k f).launch? n = (s.launch? n).map (fun l => if l.lid = k then f l else l) := by
    refine List.find?_map.trans ?_
    rw [hkey]
    rfl
  rw [hfind]
  cases hx : s.launch? n with
  | none => simp
  | some l =>
    have hl : l.lid = n := by simpa using List.find?_some hx
    rw [Option.map_some, hl]
    split <;> rfl

/-- `lnext` lets the launch's successor start, and changes no other launch. -/
theorem lnext_goes {l : Launch} (r : Runs (.lnext h) h s sid t) (hr : (teamAtIssue (.lnext h) s sid t).region = none)
    (hl : (atIssue (.lnext h) s sid t).launch? (teamAtIssue (.lnext h) s sid t).lid = some l) :
    Goes (.lnext h) s sid t [] (fun s' _ =>
      s'.launch? (teamAtIssue (.lnext h) s sid t).lid = some { l with lnext := true } ∧
        (∀ k, k ≠ (teamAtIssue (.lnext h) s sid t).lid → s'.launch? k = (atIssue (.lnext h) s sid t).launch? k) ∧
        SameBytes (atIssue (.lnext h) s sid t) s') := by
  have hx : exec (.lnext h) s = execLnext h s := rfl
  rw [execLnext, issueScalar_on r.toClear r.guard] at hx
  simp only [viewAtIssue_t, regionForbids_of_none hr, Bool.false_eq_true, if_false] at hx
  refine goes_of_fall hx r.resident_atIssue (.refl _ _) (.refl _) (fun t' _ _ => ⟨?_, fun k hk => ?_, ?_⟩)
  · rw [fallen_launch?, State.launch?_onLaunch, if_pos rfl, hl]
    · rfl
    · exact fun _ => rfl
  · rw [fallen_launch?, State.launch?_onLaunch, if_neg hk]
    exact fun _ => rfl
  · refine fallen_same ?_ _
    exact ⟨fun _ => rfl, fun _ => rfl, rfl, rfl, rfl⟩

theorem lwait_goes (r : Runs (.lwait h) h s sid t) (hr : (teamAtIssue (.lwait h) s sid t).region = none)
    (hl : predecessorLeft (atIssue (.lwait h) s sid t) (teamAtIssue (.lwait h) s sid t) = true) :
    Goes (.lwait h) s sid t [] (fun s' _ =>
      SameMemory (atIssue (.lwait h) s sid t) s' ∧ s'.homes = (atIssue (.lwait h) s sid t).homes) := by
  have hx : exec (.lwait h) s = execLwait h s := rfl
  rw [execLwait, issueScalar_on r.toClear r.guard] at hx
  simp only [viewAtIssue_t, regionForbids_of_none hr, hl, Bool.false_eq_true, if_false, if_true] at hx
  obtain ⟨ls, f, hacq⟩ := acquireAt_keeps (atIssue (.lwait h) s sid t) (deviceAccess sid (teamAtIssue (.lwait h) s sid t))
  rw [hacq] at hx
  refine goes_of_fall hx r.resident_atIssue (.refl _ _) (.refl _) (fun t' _ _ => ⟨?_, fallen_homes ..⟩)
  obtain ⟨hmem, hspad, -, -, -⟩ := fallen_bytes (i := .lwait h) (s := s) (sid := sid) (t := t)
    { atIssue (.lwait h) s sid t with l1 := ls, fills := f } 1
  exact ⟨hmem, hspad⟩

theorem lwait_waits (r : Runs (.lwait h) h s sid t) (hr : (teamAtIssue (.lwait h) s sid t).region = none)
    (hl : predecessorLeft (atIssue (.lwait h) s sid t) (teamAtIssue (.lwait h) s sid t) = false) :
    Waits (.lwait h) s sid t .predecessor := by
  have hx : exec (.lwait h) s = execLwait h s := rfl
  rw [execLwait, issueScalar_on r.toClear r.guard] at hx
  simp only [viewAtIssue_t, regionForbids_of_none hr, hl, Bool.false_eq_true, if_false] at hx
  exact waits_of_wait hx r.resident_atIssue (.of_eq rfl rfl rfl)

end

/-- Settles O35. The push that an instruction sends is the one the queue agent is to receive (`sendPush_goes`); `qpop` answers a
pair (`pairResult_goes`), and every access before it leaves the team as it was. -/
theorem queues : Obligations.Queues := by
  intro h d a q s sid t
  refine ⟨?_, ?_, ?_, ?_, ?_, ?_, ?_, ?_, ?_⟩
  · intro i u s0 r hr hw
    refine (qpush_goes r hr hw).mono ?_
    rintro s' t' ⟨⟨o, hp⟩, hd⟩
    exact ⟨⟨_, hp, rfl, rfl, rfl, rfl, rfl, rfl, rfl, rfl, sentPush_push_regions ..⟩, hd⟩
  · intro i u s0 r hr hw
    refine (qspawn_goes r hr hw).mono ?_
    rintro s' t' ⟨⟨o, hp⟩, hd⟩
    exact ⟨⟨_, hp, rfl, rfl, rfl, rfl, rfl, rfl, rfl, rfl, sentPush_task_regions ..⟩, hd⟩
  · intro i u s0 s1 s2 va x k n r hr hp hw hs ht hk
    exact qpop_goes r hr hp hw hs ht hk
  · intro i u s0 s1 c r hr hp ht
    exact qpop_goes_of_cause r hr hp ht
  · intro i u s0 r hr hc
    exact qcancel_goes r hr hc
  · intro i u s0 l r hr hl
    exact lnext_goes r hr hl
  · intro i u s0 r hr hl
    exact lwait_goes r hr hl
  · intro i u s0 r hr hl
    exact lwait_waits r hr hl
  · intro i u s0 s1 x r hr hp ht hw hm hs
    exact qpop_waits r hr hp ht hw hm hs

end Sys2Proof.Machine
end

section
/-! What a device access reads and writes at a home that holds its line whole (10 R198-R201), and the record that a ring receives
(23 R363). -/

namespace Sys2Proof.Machine

/-! ## Bytes and their numbers (00 R2) -/

theorem leNat_leBytes (n x : Nat) : leNat (leBytes n x) = x % 2 ^ (8 * n) := by
  induction n generalizing x with
  | zero => simp [leBytes, leNat, Nat.mod_one]
  | succ n ih =>
    rw [leBytes, leNat, ih, BitVec.toNat_ofNat, Nat.mul_succ, Nat.add_comm (8 * n), Nat.pow_add, Nat.mod_mul]

@[simp] theorem length_leBytes (n x : Nat) : (leBytes n x).length = n := by
  induction n generalizing x with
  | zero => rfl
  | succ n ih => rw [leBytes, List.length_cons, ih]

theorem leNat_lt (bs : List Byte) : leNat bs < 2 ^ (8 * bs.length) := by
  induction bs with
  | nil => simp [leNat]
  | cons b bs ih =>
    have hb := b.isLt
    rw [leNat, List.length_cons, Nat.mul_succ, Nat.pow_add]
    omega

/-- A byte of a number is the byte of the list. -/
theorem leNat_byte (bs : List Byte) (i : Nat) : leNat bs / 2 ^ (8 * i) % 256 = (bs.getD i 0).toNat := by
  induction bs generalizing i with
  | nil => simp [leNat]
  | cons b bs ih =>
    have hb := b.isLt
    cases i with
    | zero =>
      rw [leNat]
      simp
      omega
    | succ i =>
      have hdrop : (b.toNat + 256 * leNat bs) / 256 = leNat bs := by omega
      rw [leNat, Nat.mul_succ, Nat.add_comm (8 * i), Nat.pow_add, ← Nat.div_div_eq_div_mul]
      exact (congrArg (fun x => x / 2 ^ (8 * i) % 256) hdrop).trans (ih i)

/-- The bits of a byte of a line. -/
theorem getLsbD_lineByte (d : LineData) (i j : Nat) : (lineByte d i).getLsbD j = (decide (j < 8) && d.getLsbD (8 * i + j)) := by
  simp [lineByte, BitVec.getLsbD_extractLsb']

theorem toNat_lineByte (d : LineData) (i : Nat) : (lineByte d i).toNat = d.toNat / 2 ^ (8 * i) % 256 := by
  rw [lineByte, BitVec.extractLsb'_toNat, Nat.shiftRight_eq_div_pow]

/-- A number in a line, byte by byte. -/
theorem lineNat_eq (d : LineData) (o n : Nat) : lineNat d o n = leNat ((List.range n).map (fun k => lineByte d (o + k))) := by
  induction n generalizing o with
  | zero => simp [lineNat, leNat, Nat.mod_one]
  | succ n ih =>
    have hrest : (List.map (fun k => lineByte d (o + k)) (List.map Nat.succ (List.range n))) =
        (List.range n).map (fun k => lineByte d (o + 1 + k)) := by
      rw [List.map_map]
      exact List.map_congr_left (fun k _ => congrArg (lineByte d) (by simp; omega))
    rw [List.range_succ_eq_map, List.map_cons, leNat, hrest, ← ih, toNat_lineByte, lineNat, lineNat, Nat.mul_succ 8 n, Nat.add_comm (8 * n),
      Nat.pow_add, Nat.mod_mul, Nat.div_div_eq_div_mul, ← Nat.pow_add]
    rfl

/-- A place of a line that holds a list's bytes holds its number. -/
theorem lineNat_of_bytes {d : LineData} {o : Nat} {bs : List Byte} (h : ∀ k, k < bs.length → lineByte d (o + k) = bs.getD k 0) :
    lineNat d o bs.length = leNat bs := by
  rw [lineNat_eq]
  congr 1
  apply List.ext_getElem
  · simp
  · intro k hk hk'
    rw [List.getElem_map, List.getElem_range, h k hk', List.getD_eq_getElem _ _ hk']

/-! ## Masks and merges (10 R201) -/

theorem getLsbD_byteRange {o n i : Nat} (hi : i < 64) : (byteRange o n).getLsbD i = decide (o ≤ i ∧ i < o + n) := by
  rw [byteRange, BitVec.getLsbD_ofNat, Nat.testBit_mul_two_pow, Nat.testBit_two_pow_sub_one]
  by_cases h : o ≤ i
  · simp [hi, h]
    omega
  · simp [h]

/-- The bits that the first `n` bits of a mask of bytes cover, as a number. -/
def maskNat (m : ByteMask) (n : Nat) : Nat :=
  (List.range n).foldl (fun a i => if m.getLsbD i then a + 255 * 2 ^ (8 * i) else a) 0

theorem maskBits_eq (m : ByteMask) : maskBits m = BitVec.ofNat 512 (maskNat m 64) := rfl

theorem maskNat_succ (m : ByteMask) (n : Nat) :
    maskNat m (n + 1) = if m.getLsbD n then maskNat m n + 255 * 2 ^ (8 * n) else maskNat m n := by
  rw [maskNat, List.range_succ, List.foldl_append]
  rfl

theorem maskNat_lt (m : ByteMask) (n : Nat) : maskNat m n < 2 ^ (8 * n) := by
  induction n with
  | zero => simp [maskNat]
  | succ n ih =>
    rw [maskNat_succ, Nat.mul_succ, Nat.pow_add]
    split <;> omega

/-- The bits of byte `n` are covered by bit `n` of the mask. -/
theorem testBit_maskNat_succ (m : ByteMask) (n i : Nat) : (maskNat m (n + 1)).testBit i =
    if i < 8 * n then (maskNat m n).testBit i else decide (i < 8 * (n + 1)) && m.getLsbD n := by
  have hhigh : ¬ i < 8 * n → (maskNat m n).testBit i = false := fun h =>
    Nat.testBit_lt_two_pow ((maskNat_lt m n).trans_le (Nat.pow_le_pow_right (by decide) (Nat.not_lt.mp h)))
  rw [maskNat_succ]
  cases m.getLsbD n with
  | false =>
    rw [if_neg Bool.false_ne_true, Bool.and_false]
    split
    · rfl
    · exact hhigh ‹_›
  | true =>
    have hones : (255).testBit (i - 8 * n) = decide (i - 8 * n < 8) := Nat.testBit_two_pow_sub_one 8 _
    rw [if_pos rfl, Nat.add_comm, Nat.mul_comm 255, Nat.testBit_two_pow_mul_add _ (maskNat_lt m n), hones, Bool.and_true]
    split
    · rfl
    · exact decide_eq_decide.mpr (by omega)

theorem testBit_maskNat (m : ByteMask) (n i : Nat) : (maskNat m n).testBit i = (decide (i < 8 * n) && m.getLsbD (i / 8)) := by
  induction n with
  | zero => simp [maskNat]
  | succ n ih =>
    rw [testBit_maskNat_succ]
    split
    · rename_i h
      rw [ih, decide_eq_true h, decide_eq_true (show i < 8 * (n + 1) by omega)]
    · by_cases h : i < 8 * (n + 1)
      · rw [show i / 8 = n by omega]
      · simp [h]

theorem getLsbD_maskBits (m : ByteMask) {i : Nat} (hi : i < 512) : (maskBits m).getLsbD i = m.getLsbD (i / 8) := by
  rw [maskBits_eq, BitVec.getLsbD_ofNat, testBit_maskNat]
  simp [hi]

theorem lineByte_mergeLine (m : ByteMask) (new old : LineData) {i : Nat} (hi : i < 64) :
    lineByte (mergeLine m new old) i = if m.getLsbD i then lineByte new i else lineByte old i := by
  apply BitVec.eq_of_getLsbD_eq
  intro j hj
  have hbit : 8 * i + j < 512 := by omega
  have hdiv : (8 * i + j) / 8 = i := by omega
  rw [getLsbD_lineByte, mergeLine, BitVec.getLsbD_or, BitVec.getLsbD_and, BitVec.getLsbD_and, BitVec.getLsbD_not, getLsbD_maskBits m hbit, hdiv]
  cases m.getLsbD i
  · rw [if_neg Bool.false_ne_true, getLsbD_lineByte]
    simp [hbit]
  · rw [if_pos rfl, getLsbD_lineByte]
    simp

/-- A line of 64 bytes holds them. -/
theorem lineByte_lineOf {bs : List Byte} (h : bs.length = 64) (i : Nat) : lineByte (lineOf bs) i = bs.getD i 0 := by
  have hbits : 8 * bs.length = 512 := by omega
  apply BitVec.eq_of_toNat_eq
  rw [toNat_lineByte, lineOf, BitVec.toNat_ofNat, ← hbits, Nat.mod_eq_of_lt (leNat_lt bs), leNat_byte]

theorem lineByte_placeBytes (va line : Nat) (m : ByteMask) (bs : List Byte) {i : Nat} (hi : i < 64) (hm : m.getLsbD i = true) :
    lineByte (placeBytes va line m bs) i = bs.getD (line * 64 + i - va) 0 := by
  rw [placeBytes, lineByte_lineOf (by simp)]
  simp [List.getD_eq_getElem?_getD, hi, hm]

/-! ## Homes -/

theorem State.home?_key {s : State} {ctx l : Nat} {g : HomeLine} (h : s.home? ctx l = some g) : g.ctx = ctx ∧ g.line = l := by
  have := List.find?_some h
  simpa using this

/-- A home that is put in place of one with its context and line reads there, and nowhere else. -/
theorem home?_putHome {s : State} {g : HomeLine} (h : (s.home? g.ctx g.line).isSome = true) (c l : Nat) :
    (putHome s g).home? c l = if c = g.ctx ∧ l = g.line then some g else s.home? c l := by
  have hkey : ((fun x : HomeLine => x.ctx == c && x.line == l) ∘ fun x => if x.ctx = g.ctx ∧ x.line = g.line then g else x) =
      fun x => x.ctx == c && x.line == l := by
    funext x
    dsimp only [Function.comp]
    split
    · rename_i hx
      rw [hx.1, hx.2]
    · rfl
  have hfind : (putHome s g).home? c l = (s.home? c l).map (fun x => if x.ctx = g.ctx ∧ x.line = g.line then g else x) := by
    rw [putHome, if_pos h]
    refine List.find?_map.trans ?_
    rw [hkey]
    rfl
  rw [hfind]
  cases hx : s.home? c l with
  | none =>
    rw [if_neg]
    · rfl
    · rintro ⟨rfl, rfl⟩
      rw [hx] at h
      cases h
  | some x =>
    obtain ⟨rfl, rfl⟩ := State.home?_key hx
    rw [Option.map_some]
    split <;> rfl

theorem putHome_homes (s : State) (g : HomeLine) : ∃ hs, putHome s g = { s with homes := hs } := by
  unfold putHome
  split <;> exact ⟨_, rfl⟩

/-! ## Accesses within one line (03 R386) -/

/-- A range within a line is one access. -/
theorem rangeLines_single {va n : Nat} (hn : 0 < n) (hfit : va % 64 + n ≤ 64) :
    rangeLines va n = [(va / 64, byteRange (va % 64) n)] := by
  have hcount : (va + n - 1) / 64 - va / 64 + 1 = 1 := by omega
  have hlo : max va (va / 64 * 64) - va / 64 * 64 = va % 64 := by omega
  have hlen : min (va + n) (va / 64 * 64 + 64) - max va (va / 64 * 64) = n := by omega
  rw [rangeLines, if_neg (by omega), hcount]
  simp [hlo, hlen]

theorem countHome_keeps (s : State) (line ev ctx : Nat) :
    ∃ c d v a, countHome s line ev ctx = { s with cores := c, dieTab := d, ventPmc := v, agenda := a } := State.pmcCount_eq ..

/-- A read of a line that its home holds whole gives its bytes, and counts. -/
theorem devRead_home {s : State} {ctx va n : Nat} {g : HomeLine} (hg : s.home? ctx (va / 64) = some g)
    (hv : g.valid = BitVec.allOnes 64) (hn : 0 < n) (hfit : va % 64 + n ≤ 64) (unit : Nat → Nat) :
    ∃ c d v a, devRead s unit ctx va n = ({ s with cores := c, dieTab := d, ventPmc := v, agenda := a },
      .ok ((setBits (byteRange (va % 64) n)).map (lineByte g.data))) := by
  obtain ⟨c, d, v, a, hcount⟩ := countHome_keeps s (va / 64)
    (if homeHolds s ctx (va / 64) (byteRange (va % 64) n) then 32 else 33) ctx
  have hread : homeRead s (unit (va / 64 * 64)) ctx (va / 64) (byteRange (va % 64) n) true =
      ({ s with cores := c, dieTab := d, ventPmc := v, agenda := a },
        .ok { data := g.data, valid := BitVec.allOnes 64, tr := g.tr, kept := true }) := by
    have hg' : ({ s with cores := c, dieTab := d, ventPmc := v, agenda := a } : State).home? ctx (va / 64) = some g := hg
    rw [homeRead, hcount, lineRead, hg']
    simp [hv]
  refine ⟨c, d, v, a, ?_⟩
  rw [devRead, rangeLines_single hn hfit, List.foldl_cons, List.foldl_nil]
  simp only [hread, List.nil_append]

/-- A home line after the bytes of a list are written to it. -/
def HomeLine.written (g : HomeLine) (va : Nat) (bs : List Byte) : HomeLine :=
  g.merge (byteRange (va % 64) bs.length) (placeBytes va (va / 64) (byteRange (va % 64) bs.length) bs)

/-- A write within a line whose home may be written is performed there. -/
theorem devWrite_eq {s : State} {ctx va : Nat} {bs : List Byte} {g : HomeLine} (hg : s.home? ctx (va / 64) = some g)
    (ht : g.tr.grants s.rt = true) (hq : s.tracked = []) (hn : 0 < bs.length) (hfit : va % 64 + bs.length ≤ 64) (unit : Nat → Nat) :
    devWrite s unit ctx va bs = (putHome s (g.written va bs), .ok ()) := by
  obtain ⟨hctx, hline⟩ := State.home?_key hg
  have hgrant : (g.tr.w = true ∧ g.tr.dset = true) ∧ g.tr.peer = none := by
    simp only [Trans.grants, Trans.serves, Bool.and_eq_true, Option.isNone_iff_eq_none] at ht
    exact ⟨ht.1.2, ht.2⟩
  obtain ⟨⟨hw, hd⟩, hpeer⟩ := hgrant
  have hquiet : externalWrite s ctx (va / 64) = s := by
    rw [externalWrite, hq]
    rfl
  have hpa : lineAt g.tr (va / 64) = g.pa := by rw [HomeLine.pa, hline]
  have hwrite : homeWrite s (unit (va / 64 * 64)) ctx (va / 64) (byteRange (va % 64) bs.length)
      (placeBytes va (va / 64) (byteRange (va % 64) bs.length) bs) = (putHome s (g.written va bs), .ok ()) := by
    simp only [homeWrite, hg, hw, hd, Bool.and_self, if_true, hpeer, homeMerge, hquiet, mergeHome, hpa, and_self]
    rfl
  rw [devWrite, rangeLines_single hn hfit, List.foldl_cons, List.foldl_nil]
  simp only [hwrite]

theorem lineByte_written (g : HomeLine) (va : Nat) (bs : List Byte) {i : Nat} (hi : i < 64) :
    lineByte (g.written va bs).data i =
      if va % 64 ≤ i ∧ i < va % 64 + bs.length then bs.getD (i - va % 64) 0 else lineByte g.data i := by
  have hmask := getLsbD_byteRange (o := va % 64) (n := bs.length) hi
  show lineByte (mergeLine (byteRange (va % 64) bs.length) (placeBytes va (va / 64) (byteRange (va % 64) bs.length) bs) g.data) i = _
  rw [lineByte_mergeLine _ _ _ hi]
  by_cases h : va % 64 ≤ i ∧ i < va % 64 + bs.length
  · have hset : (byteRange (va % 64) bs.length).getLsbD i = true := by rw [hmask, decide_eq_true h]
    have hoff : va / 64 * 64 + i - va = i - va % 64 := by omega
    rw [if_pos hset, if_pos h, lineByte_placeBytes _ _ _ _ hi hset, hoff]
  · rw [hmask, if_neg (by simpa using h), if_neg h]

/-- A byte at a home. -/
theorem homeVal_one (s : State) (ctx x : Nat) :
    homeVal s ctx x 1 = ((s.home? ctx (x / 64)).map (fun g => (lineByte g.data (x % 64)).toNat)).getD 0 := by
  unfold homeVal
  cases s.home? ctx (x / 64) with
  | none => rfl
  | some g => exact (toNat_lineByte ..).symm

/-- A write within a line leaves its bytes there, and no other byte at a home or in memory is changed. -/
theorem devWrite_home {s : State} {ctx va : Nat} {bs : List Byte} {g : HomeLine} (hg : s.home? ctx (va / 64) = some g)
    (ht : g.tr.grants s.rt = true) (hq : s.tracked = []) (hn : 0 < bs.length) (hfit : va % 64 + bs.length ≤ 64) (unit : Nat → Nat) :
    ∃ hs, devWrite s unit ctx va bs = ({ s with homes := hs }, .ok ()) ∧
      homeVal { s with homes := hs } ctx va bs.length = leNat bs ∧ HomesKept s { s with homes := hs } ctx [(va, bs.length)] ∧
      ∀ l, l ≠ va / 64 → ({ s with homes := hs } : State).home? ctx l = s.home? ctx l := by
  obtain ⟨hctx, hline⟩ := State.home?_key hg
  obtain ⟨hs, hput⟩ := putHome_homes s (g.written va bs)
  have hctx' : (g.written va bs).ctx = ctx := hctx
  have hline' : (g.written va bs).line = va / 64 := hline
  have hhome : ∀ c l, ({ s with homes := hs } : State).home? c l =
      if c = ctx ∧ l = va / 64 then some (g.written va bs) else s.home? c l := by
    intro c l
    have hsome : (s.home? (g.written va bs).ctx (g.written va bs).line).isSome = true := by rw [hctx', hline', hg]; rfl
    rw [← hput, home?_putHome hsome, hctx', hline']
  refine ⟨hs, ?_, ?_, ⟨fun x hx => ?_, fun c l hc => ?_, .of_eq rfl rfl rfl⟩, fun l hl => ?_⟩
  · rw [devWrite_eq hg ht hq hn hfit, hput]
  · rw [homeVal, hhome, if_pos ⟨rfl, rfl⟩]
    refine lineNat_of_bytes (fun k hk => ?_)
    rw [lineByte_written g va bs (by omega), if_pos (by omega), Nat.add_sub_cancel_left]
  · rw [homeVal_one, homeVal_one, hhome]
    by_cases hl : x / 64 = va / 64
    · have hout := hx _ (List.mem_singleton_self _)
      rw [if_pos ⟨rfl, hl⟩, hl, hg]
      exact congrArg BitVec.toNat ((lineByte_written g va bs (Nat.mod_lt _ (by decide))).trans (if_neg (by omega)))
    · rw [if_neg (fun h => hl h.2)]
  · rw [hhome, if_neg (fun h => hc h.1)]
  · rw [hhome, if_neg (fun h => hl h.2)]

theorem HomesKept.trans {s s1 s2 : State} {ctx : Nat} {rs rs' : List (Nat × Nat)} (h : HomesKept s s1 ctx rs)
    (g : HomesKept s1 s2 ctx rs') : HomesKept s s2 ctx (rs ++ rs') := by
  obtain ⟨h1, h2, h3, h4⟩ := h
  obtain ⟨g1, g2, g3, g4⟩ := g
  refine ⟨fun x hx => ?_, fun c l hc => (g2 c l hc).trans (h2 c l hc), fun k => (g3 k).trans (h3 k), fun k => (g4 k).trans (h4 k)⟩
  exact (g1 x (fun r hr => hx r (List.mem_append_right _ hr))).trans (h1 x (fun r hr => hx r (List.mem_append_left _ hr)))

/-! ## Records in a ring (23 R363) -/

/-- Where two fields stand side by side. -/
theorem toNat_append_eq {n m : Nat} (x : BitVec n) (y : BitVec m) : (x ++ y).toNat = x.toNat * 2 ^ m + y.toNat := by
  rw [BitVec.toNat_append, ← Nat.shiftLeft_add_eq_or_of_lt y.isLt, Nat.shiftLeft_eq]

theorem toNat_eventRecord (clock : Nat) (value : Word) (launch : BitVec 32) (team code : Nat) (cause : BitVec 9) (kind ctx : Nat) :
    (eventRecord clock value launch team code cause kind ctx).toNat = recordBits clock value launch team code cause kind ctx := by
  simp only [eventRecord, toNat_append_eq, BitVec.ofNat_eq_ofNat, BitVec.toNat_ofNat, recordBits]
  omega

/-- Stamped in its own cycle a record is as it was. -/
theorem stampRecord_eventRecord (s : State) (value : Word) (launch : BitVec 32) (team code : Nat) (cause : BitVec 9) (kind ctx : Nat) :
    stampRecord s (eventRecord s.clock value launch team code cause kind ctx) =
      eventRecord s.clock value launch team code cause kind ctx := by
  apply BitVec.eq_of_toNat_eq
  rw [stampRecord, toNat_append_eq, BitVec.extractLsb'_toNat, Nat.shiftRight_zero, toNat_eventRecord, recordBits, BitVec.toNat_ofNat]
  omega

/-- A ring begins at a page. -/
theorem ringBase_aligned (v : Word) : ringBase v % 64 = 0 := by
  have hlow : ∀ k, k < 6 → (ringBase v).testBit k = false := by
    intro k hk
    show (csrVa (v &&& ~~~ 4095#64)).getLsbD k = false
    have hmask : ∀ k, k < 6 → (~~~ 4095#64).getLsbD k = false := by decide
    rw [csrVa, BitVec.getLsbD_signExtend, if_pos (by omega), BitVec.getLsbD_extractLsb', Nat.zero_add, BitVec.getLsbD_and, hmask k hk]
    simp
  apply Nat.eq_of_testBit_eq
  intro k
  rw [show 64 = 2 ^ 6 from rfl, Nat.testBit_mod_two_pow, Nat.zero_testBit]
  by_cases hk : k < 6
  · simp [hlow k hk]
  · simp [hk]

/-- The head of a line, as a ring's header is read. -/
theorem setBits_head : setBits (byteRange 0 16) = List.range 16 := by decide

/-- TAIL and HEAD of a header that its home holds. -/
theorem header_words (d : LineData) : leNat (((List.range 16).map (lineByte d)).take 8) = lineNat d 0 8 ∧
    leNat (((List.range 16).map (lineByte d)).drop 8) = lineNat d 8 8 := by
  rw [lineNat_eq, lineNat_eq]
  exact ⟨rfl, rfl⟩

section
variable {s : State} {ctx : Nat} {c : Ctx}

/-- A record lies within a line, which is not the header's. -/
theorem ringSlot_line (s : State) (ctx : Nat) (c : Ctx) :
    ringSlot s ctx c % 64 + 32 ≤ 64 ∧ ringSlot s ctx c / 64 ≠ ringBase c.ctxEvq / 64 := by
  have hbase := ringBase_aligned c.ctxEvq
  rw [ringSlot]
  omega

/-- Of a ring that is ready the header is read: TAIL and HEAD. -/
theorem RingReady.header (r : RingReady s ctx c) : ∃ co d v a bs,
    devRead s unitOf ctx (ringBase c.ctxEvq) 16 = ({ s with cores := co, dieTab := d, ventPmc := v, agenda := a }, .ok bs) ∧
      leNat (bs.take 8) = ringTail s ctx c ∧ leNat (bs.drop 8) = homeVal s ctx (ringBase c.ctxEvq + 8) 8 := by
  have hbase := ringBase_aligned c.ctxEvq
  have hbase8 : (ringBase c.ctxEvq + 8) / 64 = ringBase c.ctxEvq / 64 ∧ (ringBase c.ctxEvq + 8) % 64 = 8 := by omega
  obtain ⟨g, hg, -, hvalid⟩ := r.homes _ (List.mem_cons_self ..)
  obtain ⟨co, d, v, a, hread⟩ := devRead_home hg hvalid (show 0 < 16 by decide) (by omega) unitOf
  rw [hbase, setBits_head] at hread
  obtain ⟨htail, hhead⟩ := header_words g.data
  refine ⟨co, d, v, a, _, hread, htail.trans ?_, hhead.trans ?_⟩
  · rw [ringTail, homeVal, hg, hbase]
  · rw [homeVal, hbase8.1, hg, hbase8.2]

/-- The two writes of a record: its bytes, and TAIL. -/
theorem RingReady.stores (r : RingReady s ctx c) (rec : BitVec 256) : ∃ hs1 hs2,
    devWrite s unitOf ctx (ringSlot s ctx c) (leBytes 32 rec.toNat) = ({ s with homes := hs1 }, .ok ()) ∧
      devWrite { s with homes := hs1 } unitOf ctx (ringBase c.ctxEvq) (leBytes 8 (ringTail s ctx c + 1)) =
        ({ s with homes := hs2 }, .ok ()) ∧
      homeVal { s with homes := hs2 } ctx (ringSlot s ctx c) 32 = rec.toNat ∧
      homeVal { s with homes := hs2 } ctx (ringBase c.ctxEvq) 8 = (ringTail s ctx c + 1) % 2 ^ 64 ∧
      HomesKept s { s with homes := hs2 } ctx [(ringSlot s ctx c, 32), (ringBase c.ctxEvq, 8)] := by
  have hbase := ringBase_aligned c.ctxEvq
  obtain ⟨hfit, hline⟩ := ringSlot_line s ctx c
  obtain ⟨g, hg, hgrants, -⟩ := r.homes _ (List.mem_cons_self ..)
  obtain ⟨g', hg', hgrants', -⟩ := r.homes _ (List.mem_cons_of_mem _ (List.mem_singleton_self _))
  obtain ⟨hs1, hw1, hval1, hkept1, hother1⟩ := devWrite_home (bs := leBytes 32 rec.toNat) hg' hgrants' r.quiet (by simp)
    (by simpa using hfit) unitOf
  have hg1 := (hother1 _ (Ne.symm hline)).trans hg
  obtain ⟨hs2, hw2, hval2, hkept2, hother2⟩ := devWrite_home (bs := leBytes 8 (ringTail s ctx c + 1)) hg1 hgrants r.quiet (by simp)
    (by simp [hbase]) unitOf
  rw [length_leBytes] at hval1 hval2 hkept1 hkept2
  refine ⟨hs1, hs2, hw1, hw2, ?_, ?_, hkept1.trans hkept2⟩
  · have hsame : homeVal { s with homes := hs2 } ctx (ringSlot s ctx c) 32 =
        homeVal { s with homes := hs1 } ctx (ringSlot s ctx c) 32 := by rw [homeVal, homeVal, hother2 _ hline]
    rw [hsame, hval1, leNat_leBytes]
    exact Nat.mod_eq_of_lt rec.isLt
  · rw [hval2, leNat_leBytes]

/-- A ring that is ready receives a record. -/
theorem RingReady.recorded (r : RingReady s ctx c) (value : Word) (launch : BitVec 32) (team code : Nat) (cause : BitVec 9)
    (kind : Nat) : ∃ s', ringWrite s ctx (eventRecord s.clock value launch team code cause kind ctx) = (s', .written) ∧
      s'.mgmtOvf = s.mgmtOvf ∧ Recorded s s' ctx c (recordBits s.clock value launch team code cause kind ctx) := by
  obtain ⟨co, d, v, a, bs, hread, htail, hhead⟩ := r.header
  have hready : RingReady { s with cores := co, dieTab := d, ventPmc := v, agenda := a } ctx c := ⟨r.1, r.2, r.3, r.4, r.5⟩
  obtain ⟨hs1, hs2, hw1, hw2, hrecord, htail', hkept⟩ :=
    hready.stores (eventRecord s.clock value launch team code cause kind ctx)
  have hstamp : stampRecord { s with cores := co, dieTab := d, ventPmc := v, agenda := a }
      (eventRecord s.clock value launch team code cause kind ctx) = eventRecord s.clock value launch team code cause kind ctx :=
    stampRecord_eventRecord s ..
  refine ⟨{ s with cores := co, dieTab := d, ventPmc := v, agenda := a, homes := hs2, signals := s.signals ++ [.msix ctx] },
    ?_, rfl, ⟨?_, htail', rfl, hkept⟩⟩
  · rw [ringWrite, r.found]
    dsimp only
    rw [hread]
    dsimp only
    rw [htail, hhead, if_neg r.room, hstamp]
    have hw1' : devWrite { s with cores := co, dieTab := d, ventPmc := v, agenda := a } unitOf ctx
        (ringBase c.ctxEvq + 64 + 32 * (ringTail s ctx c % 2 ^ ringLog c.ctxEvq))
        (leBytes 32 (eventRecord s.clock value launch team code cause kind ctx).toNat) = _ := hw1
    have hw2' : devWrite { s with cores := co, dieTab := d, ventPmc := v, agenda := a, homes := hs1 } unitOf ctx
        (ringBase c.ctxEvq) (leBytes 8 (ringTail s ctx c + 1)) = _ := hw2
    rw [hw1']
    dsimp only
    rw [hw2']
  · rw [← toNat_eventRecord]
    exact hrecord

end

end Sys2Proof.Machine
end

section
/-! THE STEPS THAT WRITE REGISTERS (O49): each leaves what the register's table says (23 R369, and the CSR maps of 03, 08, 11, 17, 21
and 24). -/

namespace Sys2Proof.Machine

/-! ## The low bits of a value -/

theorem toNat_lowBits (v : Word) (k : Nat) : (v.extractLsb' 0 k).toNat = v.toNat % 2 ^ k := by
  simp

theorem setWidth_lowBits (v : Word) {k : Nat} : (v.extractLsb' 0 k).setWidth 64 = BitVec.ofNat 64 (v.toNat % 2 ^ k) := by
  apply BitVec.eq_of_toNat_eq
  simp

/-- Of a fold that lists a value at each key, a listed key reads as its value. -/
theorem Tab.get_foldl_set {α : Type} [DecidableEq α] (d : α) (f : Nat → α) (l : List Nat) (t : Tab α) (k : Nat) :
    Tab.get d (l.foldl (fun t j => Tab.set d t j (f j)) t) k = if k ∈ l then f k else Tab.get d t k := by
  induction l generalizing t with
  | nil => simp
  | cons j l ih =>
    rw [List.foldl_cons, ih, Tab.get_set]
    by_cases hk : k = j <;> by_cases hl : k ∈ l <;> simp [hk, hl]

theorem lowBits_lt (v : Word) {k : Nat} (hk : k ≤ 64) : v.toNat % 2 ^ k < 2 ^ 64 :=
  Nat.lt_of_lt_of_le (Nat.mod_lt _ (by positivity)) (Nat.pow_le_pow_right (by decide) hk)

theorem toNat_ofNat_lowBits (v : Word) {k : Nat} (hk : k ≤ 64) : (BitVec.ofNat 64 (v.toNat % 2 ^ k)).toNat = v.toNat % 2 ^ k :=
  (BitVec.toNat_ofNat ..).trans (Nat.mod_eq_of_lt (lowBits_lt v hk))

theorem lowBits_eq_zero (v : Word) {k : Nat} (hk : k ≤ 64) : BitVec.ofNat 64 (v.toNat % 2 ^ k) = 0 ↔ v.toNat % 2 ^ k = 0 := by
  rw [← BitVec.toNat_inj, toNat_ofNat_lowBits v hk]
  rfl

/-! ## A team's registers (R369; 08 R159, R160; 17 R291) -/

section
variable (t : Team) (v : Word)

theorem sbchk_kept : teamCsr (setTeamCsr t 0x010 v) 0x010 = csrKept 0 v 0x010 := by
  have hget : v.getLsbD 0 = decide (v.toNat % 2 = 1) := by rw [BitVec.getLsbD, Nat.testBit_zero]
  simp only [setTeamCsr, teamCsr, csrKept, boolWord, hget, if_true]
  rcases Nat.mod_two_eq_zero_or_one v.toNat with h | h <;> simp [h]

theorem excThr_kept {n : Nat} (h : 0x020 ≤ n) (h' : n < 0x028) : teamCsr (setTeamCsr t n v) n = csrKept 0 v n := by
  simp only [setTeamCsr, teamCsr, csrKept, if_neg (show n ≠ 0x010 by omega), if_pos h', Exc.thrOf, Tab.get_set, if_true, setWidth_lowBits]

theorem excWin_kept : teamCsr (setTeamCsr t 0x028 v) 0x028 = csrKept 0 v 0x028 := by
  have hlow : v.toNat % 2 ^ 6 < 64 := Nat.mod_lt _ (by decide)
  simp only [setTeamCsr, teamCsr, csrKept, writeWin, toNat_lowBits]
  rw [toNat_ofNat_lowBits v (by decide)]
  simp only [lowBits_eq_zero v (show 6 ≤ 64 by decide)]
  generalize v.toNat % 2 ^ 6 = x at hlow
  apply BitVec.eq_of_toNat_eq
  simp
  split_ifs <;> simp <;> omega

/-- A field of 3 stores 0. -/
theorem actOf_writeAct (e : Exc) {k : Nat} (h : k < 8) :
    ((writeAct e v).actOf k).toNat = if v.toNat / 4 ^ k % 4 = 3 then 0 else v.toNat / 4 ^ k % 4 := by
  have hfield : (v.extractLsb' (2 * k) 2).toNat = v.toNat / 4 ^ k % 4 := by
    rw [BitVec.extractLsb'_toNat, Nat.shiftRight_eq_div_pow, Nat.pow_mul]
  rw [Exc.actOf, writeAct, Tab.get_foldl_set, if_pos (List.mem_range.mpr h)]
  have hthree : v.extractLsb' (2 * k) 2 = 3 ↔ v.toNat / 4 ^ k % 4 = 3 := by
    rw [← BitVec.toNat_inj, hfield]
    rfl
  simp only [hthree]
  split
  · rfl
  · exact hfield

theorem excAct_kept : teamCsr (setTeamCsr t 0x029 v) 0x029 = csrKept 0 v 0x029 := by
  show BitVec.ofNat 64 ((List.range 8).foldl (fun a k => a + ((writeAct t.exc v).actOf k).toNat * 4 ^ k) 0) = _
  refine congrArg (BitVec.ofNat 64) (List.foldl_ext _ _ _ (fun a k hk => ?_))
  rw [actOf_writeAct v t.exc (List.mem_range.mp hk)]

theorem nmSigw_kept : teamCsr (setTeamCsr t 0x040 v) 0x040 = csrKept 0 v 0x040 := by
  simp [setTeamCsr, teamCsr, csrKept, setWidth_lowBits]

theorem nmGrain_kept : teamCsr (setTeamCsr t 0x041 v) 0x041 = csrKept 0 v 0x041 := by
  have key : ∀ x : BitVec 2, (if x = 3 then 2 else x : BitVec 2).setWidth 64 = if x.setWidth 64 = 3#64 then 2 else x.setWidth 64 := by
    decide
  exact (key _).trans (by rw [setWidth_lowBits]; rfl)

theorem nmEsc_kept : teamCsr (setTeamCsr t 0x042 v) 0x042 = csrKept 0 v 0x042 := by
  have key : ∀ x : BitVec 4, (if x = 0 then 1 else x : BitVec 4).setWidth 64 = if x.setWidth 64 = 0#64 then 1 else x.setWidth 64 := by
    decide
  exact (key _).trans (by rw [setWidth_lowBits]; rfl)

theorem keep_kept {n : Nat} (h : 0x058 ≤ n) (h' : n < 0x05C) : teamCsr (setTeamCsr t n v) n = csrKept 0 v n := by
  obtain rfl | rfl | rfl | rfl : n = 0x058 ∨ n = 0x059 ∨ n = 0x05A ∨ n = 0x05B := by omega
  all_goals simp [setTeamCsr, teamCsr, csrKept, Tab.get_set]

/-- The registers of a team that a register write of its own reaches. -/
theorem teamCsr_numbers {n : Nat} (hl : csrListed n = true) (hs : csrSpecial n = false) (hh : csrHome n = .team) :
    n = 0x010 ∨ (0x020 ≤ n ∧ n < 0x028) ∨ n = 0x029 ∨ (0x058 ≤ n ∧ n < 0x05C) := by
  have hlow : n < 0x400 := by
    unfold csrHome at hh
    split at hh
    · cases hh
    split at hh
    · cases hh
    split at hh
    · assumption
    · cases hh
  have hdev : n ≠ 0x043 := by
    rintro rfl
    exact absurd hh (by decide)
  simp only [csrListed, csrSpecial, Bool.or_eq_true, Bool.or_eq_false_iff, Bool.and_eq_true, Bool.and_eq_false_iff, beq_iff_eq,
    beq_eq_false_iff_ne, decide_eq_true_eq, decide_eq_false_iff_not] at hl hs
  omega

theorem setTeamCsr_kept {n : Nat} (hl : csrListed n = true) (hs : csrSpecial n = false) (hh : csrHome n = .team) :
    teamCsr (setTeamCsr t n v) n = csrKept 0 v n := by
  obtain rfl | ⟨h, h'⟩ | rfl | ⟨h, h'⟩ := teamCsr_numbers hl hs hh
  · exact sbchk_kept t v
  · exact excThr_kept t v h h'
  · exact excAct_kept t v
  · exact keep_kept t v h h'

/-- The registers that govern a team's window. -/
theorem setNmCsr_kept {n : Nat} (h : 0x040 ≤ n) (h' : n ≤ 0x042) : teamCsr (setTeamCsr t n v) n = csrKept 0 v n := by
  obtain rfl | rfl | rfl : n = 0x040 ∨ n = 0x041 ∨ n = 0x042 := by omega
  · exact nmSigw_kept t v
  · exact nmGrain_kept t v
  · exact nmEsc_kept t v

end

/-! ## A context's registers (R369; 03 R39; 11 R223; 21 R347; 23 R363) -/

section
variable (c : Ctx) (v : Word)

theorem ptlPasid_kept : ctxCsr (setCtxCsr c 0x403 v) 0x403 = csrKept 0 v 0x403 := by
  simp [setCtxCsr, ctxCsr, csrKept, setWidth_lowBits]

theorem gyJobtag_kept : ctxCsr (setCtxCsr c 0x415 v) 0x415 = csrKept 0 v 0x415 := by
  simp [setCtxCsr, ctxCsr, csrKept, setWidth_lowBits]

/-- A depth of 0 stores 1, and one above 512 stores 512. -/
theorem queueDepth_kept : (BitVec.ofNat 10 (if v.toNat % 2 ^ 10 = 0 then 1 else min (v.toNat % 2 ^ 10) 512)).setWidth 64 =
    (if BitVec.ofNat 64 (v.toNat % 2 ^ 10) = 0 then 1
      else if 512 < (BitVec.ofNat 64 (v.toNat % 2 ^ 10)).toNat then 512 else BitVec.ofNat 64 (v.toNat % 2 ^ 10)) := by
  have hlow : v.toNat % 2 ^ 10 < 1024 := Nat.mod_lt _ (by decide)
  rw [toNat_ofNat_lowBits v (by decide)]
  simp only [lowBits_eq_zero v (show 10 ≤ 64 by decide)]
  generalize v.toNat % 2 ^ 10 = x at hlow
  apply BitVec.eq_of_toNat_eq
  split_ifs <;> simp <;> omega

theorem gyQdepth_kept {n : Nat} (h : 0x410 ≤ n) (h' : n < 0x414) : ctxCsr (setCtxCsr c n v) n = csrKept 0 v n := by
  have hread : ctxCsr (setCtxCsr c n v) n =
      (BitVec.ofNat 10 (if v.toNat % 2 ^ 10 = 0 then 1 else min (v.toNat % 2 ^ 10) 512)).setWidth 64 := by
    simp only [setCtxCsr, ctxCsr, if_neg (show n ≠ 0x401 by omega), if_neg (show n ≠ 0x402 by omega),
      if_neg (show n ≠ 0x403 by omega), if_pos h', Tab.get_set, if_true, toNat_lowBits]
  rw [hread, queueDepth_kept]
  obtain rfl | rfl | rfl | rfl : n = 0x410 ∨ n = 0x411 ∨ n = 0x412 ∨ n = 0x413 := by omega
  all_goals rfl

theorem gyTimeout_kept : ctxCsr (setCtxCsr c 0x414 v) 0x414 = csrKept 0 v 0x414 := by
  have hzero : v.extractLsb' 0 20 = 0 ↔ BitVec.ofNat 64 (v.toNat % 2 ^ 20) = 0 := by
    rw [lowBits_eq_zero v (by decide), ← BitVec.toNat_inj, toNat_lowBits]
    rfl
  show (if v.extractLsb' 0 20 = 0 then 1 else v.extractLsb' 0 20 : BitVec 20).setWidth 64 =
    if BitVec.ofNat 64 (v.toNat % 2 ^ 20) = 0 then 1 else BitVec.ofNat 64 (v.toNat % 2 ^ 20)
  simp only [hzero]
  split
  · rfl
  · exact setWidth_lowBits v

/-- A length stores the power of two that it reaches, to 65536 (03 R39). -/
theorem lenOf_eq : lenOf v = if v = 0 then 1 else if 65536 ≤ v.toNat then 65536 else 2 ^ Nat.log2 v.toNat := by
  unfold lenOf
  split
  · rfl
  · rename_i hv
    have hn : v.toNat ≠ 0 := fun h => hv (BitVec.eq_of_toNat_eq h)
    split
    · rename_i h
      have hlog : 16 ≤ Nat.log2 v.toNat := (Nat.le_log2 hn).mpr h
      exact Nat.min_eq_right (Nat.pow_le_pow_right (n := 2) (by decide) hlog)
    · rename_i h
      exact Nat.min_eq_left ((Nat.log2_self_le hn).trans (by omega))

theorem qtLen_kept : ctxCsr { c with qtLen := lenOf v } 0x441 = csrKept 0 v 0x441 := by
  show BitVec.ofNat 64 (lenOf v) = _
  rw [lenOf_eq]
  rfl

theorem ctxEvq_kept : ctxCsr (setCtxCsr c 0x453 v) 0x453 = csrKept 0 v 0x453 := by
  have hlow : v.toNat % 2 ^ 5 < 32 := Nat.mod_lt _ (by decide)
  show evqOf v = (v &&& 0x01FFFFFFFFFFF000#64) ||| (if BitVec.ofNat 64 (v.toNat % 2 ^ 5) = 0 then 0
    else if (BitVec.ofNat 64 (v.toNat % 2 ^ 5)).toNat < 4 then 4 else if 20 < (BitVec.ofNat 64 (v.toNat % 2 ^ 5)).toNat then 20
    else BitVec.ofNat 64 (v.toNat % 2 ^ 5))
  rw [evqOf, toNat_ofNat_lowBits v (by decide), toNat_lowBits]
  simp only [lowBits_eq_zero v (show 5 ≤ 64 by decide)]
  generalize v.toNat % 2 ^ 5 = x at hlow
  congr 1
  apply BitVec.eq_of_toNat_eq
  split_ifs <;> simp <;> omega

/-- The registers of a context that a register write reaches. -/
theorem ctxCsr_numbers {n : Nat} (hl : csrListed n = true) (hs : csrSpecial n = false) (hh : csrHome n = .ctx) :
    n = 0x401 ∨ n = 0x402 ∨ n = 0x403 ∨ (0x410 ≤ n ∧ n < 0x414) ∨ n = 0x414 ∨ n = 0x415 ∨ n = 0x416 ∨ n = 0x440 ∨ n = 0x450 ∨
      n = 0x451 ∨ n = 0x452 ∨ n = 0x453 := by
  unfold csrHome at hh
  split at hh
  · cases hh
  rename_i hdev
  split at hh
  · cases hh
  split at hh
  · cases hh
  simp only [csrListed, csrSpecial, csrDeviceHeld, Bool.or_eq_true, Bool.or_eq_false_iff, Bool.and_eq_true, Bool.and_eq_false_iff,
    beq_iff_eq, beq_eq_false_iff_ne, decide_eq_true_eq, decide_eq_false_iff_not, not_or, not_and] at hl hs hdev
  omega

theorem setCtxCsr_kept {n : Nat} (hl : csrListed n = true) (hs : csrSpecial n = false) (hh : csrHome n = .ctx) :
    ctxCsr (setCtxCsr c n v) n = csrKept 0 v n := by
  obtain rfl | rfl | rfl | ⟨h, h'⟩ | rfl | rfl | rfl | rfl | rfl | rfl | rfl | rfl := ctxCsr_numbers hl hs hh
  · rfl
  · rfl
  · exact ptlPasid_kept c v
  · exact gyQdepth_kept c v h h'
  · exact gyTimeout_kept c v
  · exact gyJobtag_kept c v
  · rfl
  · rfl
  · rfl
  · rfl
  · rfl
  · exact ctxEvq_kept c v

end

/-! ## The steps (R369; 08 R160; 14 R270; 17 R291; 21 R340; 24 R376, R377) -/

section
variable {s : State}

theorem excWindowClose_step {sid : Nat} {t : Team} (ht : s.team? sid = some t) (hw : t.exc.winLog ≠ 0)
    (hc : s.clock % 2 ^ t.exc.winLog.toNat = 0) :
    exec (.excWindowClose sid) s = .next (s.setTeam sid { t with exc := { t.exc with wcnt := [] } }) := by
  show execExcWindowClose sid s = _
  rw [execExcWindowClose, ht]
  exact if_pos (by rw [hc, bne_iff_ne.mpr hw]; rfl)

theorem excWinWrite_step {sid : Nat} {t : Team} (ht : s.team? sid = some t) (v : Word) :
    exec (.excWinWrite sid v) s = .next (s.setTeam sid (setTeamCsr t 0x028 v)) := by
  show execExcWinWrite sid v s = _
  rw [execExcWinWrite, ht]
  rfl

theorem excCntWrite_step {sid k : Nat} {t : Team} (ht : s.team? sid = some t) (hk : k < 8) (v : Word) :
    exec (.excCntWrite sid k v) s = .next (s.setTeam sid { t with exc := writeCnt t.exc k v }) := by
  show execExcCntWrite sid k v s = _
  simp [execExcCntWrite, ht, hk]

/-- A write to a class's counts reaches that class alone. -/
theorem writeCnt_counts (e : Exc) (k : Nat) (v : Word) :
    (writeCnt e k v).totalOf k = v.extractLsb' 0 32 ∧ (writeCnt e k v).wcntOf k = 0 ∧
      ∀ j, j ≠ k → (writeCnt e k v).totalOf j = e.totalOf j ∧ (writeCnt e k v).wcntOf j = e.wcntOf j := by
  unfold writeCnt Exc.totalOf Exc.wcntOf
  refine ⟨?_, ?_, fun j hj => ⟨?_, ?_⟩⟩ <;> rw [Tab.get_set]
  · rw [if_pos rfl]
  · rw [if_pos rfl]
  · rw [if_neg hj]
  · rw [if_neg hj]

theorem qtLenWrite_step {ctx : Nat} {x : Ctx} (hx : s.ctx? ctx = some x) (v : Word) :
    exec (.qtLenWrite ctx v) s = .next (s.setCtx ctx { x with qtLen := lenOf v }) := by
  show execQtLenWrite ctx v s = _
  rw [execQtLenWrite, hx]

theorem ordModeFree_iff (b : Bool) :
    ordModeFree s b = true ↔ s.teams = [] ∧ (if b then ∀ l ∈ s.launches, l.ctx = 0xFFFF else s.bringUp = 7) := by
  cases b <;> simp [ordModeFree, Config.firmwareCtx]

theorem ordModeWrite_step (v : Word) : exec (.ordModeWrite v) s = .next (if s.teams = [] ∧
    (if v.getLsbD 0 then ∀ l ∈ s.launches, l.ctx = 0xFFFF else s.bringUp = 7) then { s with ordMode := v.getLsbD 0 } else s) := by
  show Host.Outcome.next (writeOrdMode s v) = _
  simp only [writeOrdMode, ordModeFree_iff]

/-- A write to a team's register leaves the team with it, and a window of the team with the vent registers. -/
theorem storeTeamCsr_team {sid : Nat} {t : Team} (ht : s.team? sid = some t) (n : Nat) (v : Word) :
    (storeTeamCsr s sid n v).team? sid = some (setTeamCsr t n v) := by
  have hnote : ∀ (x : State) (u : Team), (noteNm x u n).teams = x.teams := by
    intro x u
    unfold noteNm
    split
    · rfl
    · split <;> rfl
  rw [storeTeamCsr, ht, State.team?, hnote]
  exact State.team?_setTeam ..

theorem nmCsrWrite_step {sid : Nat} {k : BitVec 12} {t : Team} (ht : s.team? sid = some t) (h : 0x040 ≤ k.toNat)
    (h' : k.toNat ≤ 0x042) (v : Word) : exec (.nmCsrWrite sid k v) s = .next (storeTeamCsr s sid k.toNat v) := by
  show execNmCsrWrite sid k v s = _
  simp [execNmCsrWrite, ht, h, h']

theorem csrWrite_ctx_step {ctx : Nat} {k : BitVec 12} {x : Ctx} (hx : s.ctx? ctx = some x) (hl : csrListed k.toNat = true)
    (hs : csrSpecial k.toNat = false) (hh : csrHome k.toNat = .ctx) (sid : Option Nat) (v : Word) :
    exec (.csrWrite ctx sid k v) s = .next (s.setCtx ctx (setCtxCsr x k.toNat v)) := by
  have hgo : ¬ (!csrListed k.toNat || csrSpecial k.toNat) = true := by simp [hl, hs]
  refine (if_neg hgo).trans ?_
  rw [hh]
  refine (if_pos (by rw [hx]; rfl)).trans ?_
  rw [State.onCtx, hx]

theorem csrWrite_team_step {ctx sid : Nat} {k : BitVec 12} {t : Team} (ht : s.team? sid = some t) (hl : csrListed k.toNat = true)
    (hs : csrSpecial k.toNat = false) (hh : csrHome k.toNat = .team) (v : Word) :
    exec (.csrWrite ctx (some sid) k v) s = .next (storeTeamCsr s sid k.toNat v) := by
  have hgo : ¬ (!csrListed k.toNat || csrSpecial k.toNat) = true := by simp [hl, hs]
  refine (if_neg hgo).trans ?_
  rw [hh]
  exact if_pos (by rw [ht]; rfl)

theorem State.ctx?_setCtx (s : State) (k : Nat) (x : Ctx) : (s.setCtx k x).ctx? k = some x := Tab.find_put_same ..

/-- The counters of a place as they were set. -/
theorem pmcOf_setPmc (s : State) (p : PmcPlace) (x : Pmc) : pmcOf (setPmc s p x) p = x := by
  cases p with
  | core n => simp [pmcOf, setPmc, State.onCore, State.core_setCore]
  | die n => simp [pmcOf, setPmc, State.onDie, State.setDie, State.die, Tab.get_set]
  | vent n => simp [pmcOf, setPmc, Tab.get_set]

theorem pmcCntWrite_step {p : PmcPlace} {k : Nat} (h : placeHas p k = true) (v : Word) :
    exec (.pmcCntWrite p k v) s = .next (writeCount s p k v) := if_pos h

theorem writeCount_counts (p : PmcPlace) (k : Nat) (v : Word) :
    Tab.get 0 (pmcOf (writeCount s p k v) p).cnt k = v.extractLsb' 0 48 ∧
      (∀ j, j ≠ k → Tab.get 0 (pmcOf (writeCount s p k v) p).cnt j = Tab.get 0 (pmcOf s p).cnt j) ∧
      (pmcOf (writeCount s p k v) p).sel = (pmcOf s p).sel := by
  rw [writeCount, pmcOf_setPmc]
  refine ⟨?_, fun j hj => ?_, rfl⟩
  · rw [Tab.get_set, if_pos rfl]
  · rw [Tab.get_set, if_neg hj]

theorem pmcSelWrite_step {p : PmcPlace} {k : Nat} (h : placeHas p k = true) (v : Word) :
    exec (.pmcSelWrite p k v) s = .next (writeSel s p k v) := if_pos h

theorem writeSel_sel (p : PmcPlace) (k : Nat) (v : Word) :
    Tab.get 0 (pmcOf (writeSel s p k v) p).sel k = (v &&& 0xFFFF000000030000#64) |||
      (if eventListed p (v.toNat % 1024) then BitVec.ofNat 64 (v.toNat % 1024) else 0) := by
  rw [writeSel, pmcOf_setPmc, Tab.get_set, if_pos rfl, toNat_lowBits, apply_ite (BitVec.ofNat 64)]
  rfl

/-- The management overflow status with a counter noted, and the port that is told. -/
def mgmtNoted (s : State) (x : Nat × Nat) : State :=
  let s1 := { s with mgmtOvf := if s.mgmtOvf.contains x then s.mgmtOvf else s.mgmtOvf ++ [x] }
  if s.mgmtSem = 0 then s1 else { s1 with signals := s1.signals ++ [.mgmt (s.mgmtSem == 1)] }

theorem mgmtNoted_eq (s : State) (x : Nat × Nat) : ∃ l, mgmtNoted s x =
    { s with mgmtOvf := if s.mgmtOvf.contains x then s.mgmtOvf else s.mgmtOvf ++ [x], signals := l } := by
  by_cases h : s.mgmtSem = 0
  · exact ⟨s.signals, if_pos h⟩
  · exact ⟨_, if_neg h⟩

theorem mem_mgmtNoted (s : State) (x : Nat × Nat) : x ∈ (mgmtNoted s x).mgmtOvf := by
  obtain ⟨l, h⟩ := mgmtNoted_eq s x
  rw [h]
  dsimp only
  split
  · rename_i hx
    exact List.contains_iff_mem.mp hx
  · exact List.mem_append_right _ (List.mem_singleton_self _)

theorem mgmtNoted_same (s : State) (x : Nat × Nat) : SameBytes s (mgmtNoted s x) := by
  obtain ⟨l, h⟩ := mgmtNoted_eq s x
  rw [h]
  exact ⟨fun _ => rfl, fun _ => rfl, rfl, rfl, rfl⟩

/-- An overflow that no ring receives is noted in the management status. -/
theorem counterOverflow_mgmt {p : PmcPlace} {k : Nat} (h : placeHas p k = true) (hon : (Tab.get 0 (pmcOf s p).sel k).getLsbD 16 = true)
    (hno : (Tab.get 0 (pmcOf s p).sel k).getLsbD 17 = false ∨ ∀ n, p ≠ .core n) :
    exec (.counterOverflow p k) s = .next (mgmtNoted s (placeNumber p, k)) := by
  have hdue : ¬ (!(placeHas p k && (Tab.get 0 (pmcOf s p).sel k).getLsbD 16)) = true := by rw [h, hon]; decide
  refine (if_neg hdue).trans ?_
  cases p with
  | core n =>
    obtain hring | hcore := hno
    · rw [hring]
      rfl
    · exact absurd rfl (hcore n)
  | die n => rfl
  | vent n => rfl

/-- An overflow that a ring receives is recorded there. -/
theorem counterOverflow_ring {n k : Nat} {c : Ctx} (h : placeHas (.core n) k = true)
    (hon : (Tab.get 0 (pmcOf s (.core n)).sel k).getLsbD 16 = true) (hring : (Tab.get 0 (pmcOf s (.core n)).sel k).getLsbD 17 = true)
    (hfree : ∀ e ∈ s.evPend, e.ctx ≠ ((Tab.get 0 (pmcOf s (.core n)).sel k).extractLsb' 48 16).toNat)
    (r : RingReady s ((Tab.get 0 (pmcOf s (.core n)).sel k).extractLsb' 48 16).toNat c) :
    ∃ s', exec (.counterOverflow (.core n) k) s = .next s' ∧ s'.mgmtOvf = s.mgmtOvf ∧
      Recorded s s' ((Tab.get 0 (pmcOf s (.core n)).sel k).extractLsb' 48 16).toNat c
        (recordBits s.clock (Tab.get 0 (pmcOf s (.core n)).sel k) 0 0 k 0 6
          ((Tab.get 0 (pmcOf s (.core n)).sel k).extractLsb' 48 16).toNat) := by
  have hdue : ¬ (!(placeHas (.core n) k && (Tab.get 0 (pmcOf s (.core n)).sel k).getLsbD 16)) = true := by rw [h, hon]; decide
  have hx : exec (.counterOverflow (.core n) k) s = _ := if_neg hdue
  rw [hring] at hx
  generalize Tab.get 0 (pmcOf s (.core n)).sel k = sel at *
  obtain ⟨s', hw, hovf, hrec⟩ := r.recorded sel 0 0 k 0 6
  have hpost : postEvent s (sel.extractLsb' 48 16).toNat (eventRecord s.clock sel 0 0 k 0 6 (sel.extractLsb' 48 16).toNat) = s' := by
    have hnone : s.evPend.any (fun e => e.ctx == (sel.extractLsb' 48 16).toNat) = false := by simpa using hfree
    have hlog : ringLog c.ctxEvq ≠ 0 := by have := r.sized.1; omega
    rw [postEvent, hnone, if_neg Bool.false_ne_true]
    simp only [tryRecord, r.found, if_neg hlog, hw]
  exact ⟨s', hx.trans (congrArg Host.Outcome.next hpost), hovf, hrec⟩

end

/-- Settles O49. A write to a register leaves what its table says (`setTeamCsr_kept`, `setCtxCsr_kept`), and a ring that is ready
receives the record of an overflow (`RingReady.recorded`). -/
theorem registerSteps : Obligations.RegisterSteps := by
  intro s
  refine ⟨?_, ?_, ?_, ?_, ?_, ?_, ?_, ?_, ?_, ?_, ?_, ?_, ?_⟩
  · intro sid t ht hw hc
    exact excWindowClose_step ht hw hc
  · intro sid v t ht
    exact ⟨_, _, excWinWrite_step ht v, State.team?_setTeam .., excWin_kept t v, fun _ => rfl, fun _ => rfl⟩
  · intro sid k v t ht hk
    obtain ⟨htotal, hwcnt, hother⟩ := writeCnt_counts t.exc k v
    exact ⟨_, _, excCntWrite_step ht hk v, State.team?_setTeam .., htotal, hwcnt, hother⟩
  · intro ctx v x hx
    exact ⟨_, _, qtLenWrite_step hx v, State.ctx?_setCtx .., qtLen_kept x v, rfl⟩
  · intro v
    exact ordModeWrite_step v
  · intro sid k v t ht h h'
    exact ⟨_, _, nmCsrWrite_step ht h h' v, storeTeamCsr_team ht _ v, setNmCsr_kept t v h h'⟩
  · intro v
    rfl
  · intro ctx k v x hx hl hs hh
    exact ⟨_, _, csrWrite_ctx_step hx hl hs hh none v, State.ctx?_setCtx .., setCtxCsr_kept x v hl hs hh⟩
  · intro ctx sid k v t ht hl hs hh
    exact ⟨_, _, csrWrite_team_step ht hl hs hh v, storeTeamCsr_team ht _ v, setTeamCsr_kept t v hl hs hh⟩
  · intro p k v h
    exact ⟨_, pmcCntWrite_step h v, writeCount_counts p k v⟩
  · intro p k v h
    exact ⟨_, pmcSelWrite_step h v, writeSel_sel p k v⟩
  · intro p k h hon hno
    exact ⟨_, counterOverflow_mgmt h hon hno, mem_mgmtNoted .., mgmtNoted_same ..⟩
  · intro n k c _ _ sel ctx h hon hring hfree r
    exact counterOverflow_ring h hon hring hfree r

end Sys2Proof.Machine
end

section
/-! PENDING_TEAMS (O34): `pend` arrives by the place its team holds on its core (15 R278; 04 R64). The statement names the
place at which the table of teams lists the team, and it does not say that the two are one. -/

namespace Sys2Proof.Machine

/-! ## What the arrival of a pending team leaves (04 R64) -/

/-- The message that goes to the hub: the arrival of the team that stands at a place. -/
def pendArrival (s : State) (t : Team) (g place tok : Nat) : HubItem :=
  { lid := t.lid, group := g, msg := .arrive t.team ((barrierOf s t.lid g).narrOf t.team) place t.key 0 tok }

/-- The place that the hub is told is the team's own, on its core. -/
theorem pendArrive_hub (s : State) (sid : Nat) (t : Team) (g k : Nat) :
    (pendArrive s sid t g k).hub = s.hub ++ [pendArrival s t g t.sid s.order] := by
  unfold pendArrive
  rw [State.onTeam_hub]
  rfl

/-- The same after a release, which changes neither the hub nor a barrier. -/
theorem Accessed.pendArrive_hub {s s1 : State} (h : Accessed s s1) (sid : Nat) (t : Team) (g k : Nat) :
    (pendArrive s1 sid t g k).hub = s.hub ++ [pendArrival s t g t.sid s.order] := by
  rw [Machine.pendArrive_hub, h.rest]
  rfl

section
variable {h : Hdr} {g : BitVec 8} {k : BitVec 6} {s : State} {sid : Nat} {t : Team}

/-- A `pend` that passes its checks and that nothing holds back releases and arrives; it is to issue again (15 R278). -/
theorem execPend_arrives (r : Runs (.pend h g k) h s sid t) (hpended : (teamAtIssue (.pend h g k) s sid t).pended = none)
    (hgang : (teamAtIssue (.pend h g k) s sid t).gang = false) (hregion : (teamAtIssue (.pend h g k) s sid t).region = none)
    (hwindow : (teamAtIssue (.pend h g k) s sid t).window = none)
    (hcheck : pendCheck (atIssue (.pend h g k) s sid t) (teamAtIssue (.pend h g k) s sid t) g.toNat k.toNat = none)
    (hahead : ranAhead (atIssue (.pend h g k) s sid t) (teamAtIssue (.pend h g k) s sid t) g.toNat = false)
    (hwork : ownWork (atIssue (.pend h g k) s sid t) sid (teamAtIssue (.pend h g k) s sid t) = false) :
    ∃ s1, Accessed (atIssue (.pend h g k) s sid t) s1 ∧ exec (.pend h g k) s = finish (.pend h g k) sid
      (teamAtIssue (.pend h g k) s sid t) (uses (.pend h g k))
      (.wait (pendArrive s1 sid (teamAtIssue (.pend h g k) s sid t) g.toNat k.toNat) .run) := by
  have hqueued : ∀ q ∈ (atIssue (.pend h g k) s sid t).wq, q.sid ≠ sid := by
    simp only [ownWork, Bool.or_eq_false_iff, List.any_eq_false, beq_iff_eq] at hwork
    obtain ⟨⟨⟨-, hwq⟩, -⟩, -⟩ := hwork
    exact hwq
  have hx : exec (.pend h g k) s = execPend h g k s := rfl
  rw [execPend, issueScalar_on r.toClear r.guard] at hx
  simp only [viewAtIssue_t, hpended, hgang, regionForbids_of_none hregion, hcheck, hahead, hwork, hregion, hwindow,
    Option.isSome_none, Option.bind_none, Bool.false_eq_true, if_false] at hx
  rw [releaseOr_go hqueued] at hx
  exact ⟨_, releaseAt_accessed .., hx⟩

end

/-! ## The state that refutes O34 -/

/-- A team that stands in slot 0 of core 0 of die 0. -/
def strayTeam : Team := blankTeam 0 0 0 0 { team := 0, entry := 0x10000, w := 32, n := 128, g := 128 }

/-- Its launch: one group, of which it is the one member, and one carry set. -/
def strayLaunch : Launch := { blankLaunch 0 0 0 0 0 0 false 0 with groups := [{ members := [0] }], carry := [0] }

/-- A bind record whose phase records have room for the team's. -/
def roomyBind : BindRec := { emptyBind with phstride := 4096 }

/-- The table of teams lists the team at place 1. -/
def strayState : State :=
  { State.reset with current := some 1, teams := [(1, strayTeam)], launches := [strayLaunch],
                     dieTab := [(0, { emptyDie with bind := [(0, roomyBind)] })] }

/-- The header of an instruction without a guard. -/
def strayHdr : Hdr := ⟨false, 31, 0, false⟩

theorem strayTeam_atIssue : teamAtIssue (.pend strayHdr 0 0) strayState 1 strayTeam = strayTeam := rfl

theorem strayState_runs : Runs (.pend strayHdr 0 0) strayHdr strayState 1 strayTeam where
  selected := rfl
  resident := rfl
  noTrap := rfl
  checked := by decide
  landed := rfl
  inOrder := by decide
  timely h := by cases h
  guard := by decide

theorem strayState_checked : pendCheck strayState strayTeam 0 0 = none := by decide +kernel

/-- Refutes O34: the table of teams lists `strayTeam` at place 1, and its arrival is that of the team at place 0, where the team
stands by its own account; the statement has the arrival of place 1. -/
theorem not_pendingTeams : ¬ Obligations.PendingTeams := by
  unfold Obligations.PendingTeams
  intro h
  obtain ⟨harrives, -⟩ := h strayHdr 0 0 strayState 1 strayTeam
  obtain ⟨s', -, -, hnext, -, -, -, -, -, -, tok, hhub⟩ := harrives strayState_runs rfl rfl rfl rfl strayState_checked
    (by decide) (by decide) strayLaunch rfl
  obtain ⟨s1, hrel, hx⟩ := execPend_arrives strayState_runs rfl rfl rfl rfl strayState_checked (by decide) (by decide)
  obtain rfl := Host.Outcome.next.inj (hnext.symm.trans hx)
  simp only [State.tick1_hub, State.onTeam_hub, hrel.pendArrive_hub] at hhub
  have harrival := List.append_cancel_left hhub
  rw [strayTeam_atIssue] at harrival
  simp [pendArrival, strayTeam, blankTeam, Team.sid, Team.coreId] at harrival

end Sys2Proof.Machine
end

section
/-! What no access to memory changes of the placing of work: the bind records of the dies, and which teams are resident (04 R56;
06 R103). -/

namespace Sys2Proof.Machine

/-- The bind records of each die, in force and to come, and which teams are resident. -/
def State.placing (s : State) : (Nat → Tab BindRec × List (Nat × BindRec)) × (Nat → Bool) :=
  (fun d => ((s.die d).bind, (s.die d).bindNext), fun sid => (s.team? sid).isSome)

theorem placing_of_eq {s s' : State} (hd : s'.dieTab = s.dieTab) (ht : s'.teams = s.teams) : s'.placing = s.placing := by
  unfold State.placing State.die State.team?
  rw [hd, ht]

/-- What each step of a fold leaves as it was, the fold does. -/
theorem foldl_keeps {α γ : Type} (π : State → γ) {f : State → α → State} (hf : ∀ s a, π (f s a) = π s) (l : List α) (s : State) :
    π (l.foldl f s) = π s := by
  induction l generalizing s with
  | nil => rfl
  | cons a r ih => exact (ih _).trans (hf s a)

/-- The same for a fold that gathers a result beside the state. -/
theorem foldl_fst_keeps {α β γ : Type} (π : State → γ) {f : State × β → α → State × β} (hf : ∀ acc a, π (f acc a).1 = π acc.1)
    (l : List α) (acc : State × β) : π (l.foldl f acc).1 = π acc.1 := by
  induction l generalizing acc with
  | nil => rfl
  | cons a r ih => exact (ih _).trans (hf acc a)

theorem placing_ite {s a b : State} (c : Prop) [Decidable c] (ha : a.placing = s.placing) (hb : b.placing = s.placing) :
    (if c then a else b).placing = s.placing := by
  split
  · exact ha
  · exact hb

/-- A team that is put back leaves the same teams resident. -/
theorem placing_setTeam {s : State} {k : Nat} (t : Team) (h : (s.team? k).isSome = true) : (s.setTeam k t).placing = s.placing := by
  refine Prod.ext rfl (funext fun n => ?_)
  show ((s.setTeam k t).team? n).isSome = (s.team? n).isSome
  by_cases hn : n = k
  · rw [hn, State.team?_setTeam, h]
    rfl
  · rw [State.team?_setTeam_other s t hn]

/-- A die whose bind records are put back as they were. -/
theorem placing_setDie {s : State} {k : Nat} {x : Die} (hb : x.bind = (s.die k).bind) (hn : x.bindNext = (s.die k).bindNext) :
    (s.setDie k x).placing = s.placing := by
  refine Prod.ext (funext fun d => ?_) rfl
  have hdie : (s.setDie k x).die d = if d = k then x else s.die d := Tab.get_set ..
  show (((s.setDie k x).die d).bind, ((s.setDie k x).die d).bindNext) = ((s.die d).bind, (s.die d).bindNext)
  rw [hdie]
  split
  · rename_i h
    rw [h, hb, hn]
  · rfl

/-! ## Counting (24 R376) -/

@[simp] theorem placing_setPmc (s : State) (p : PmcPlace) (x : Pmc) : (setPmc s p x).placing = s.placing := by
  cases p with
  | core n => rfl
  | die n => exact placing_setDie rfl rfl
  | vent n => rfl

@[simp] theorem placing_due (s : State) (i : Instr) : (s.due i).placing = s.placing := rfl

@[simp] theorem placing_tick1 (s : State) : s.tick1.placing = s.placing := rfl

@[simp] theorem placing_pmcAdd (p : PmcPlace) (ev ctx n k : Nat) (s : State) : (pmcAdd p ev ctx n k s).placing = s.placing := by
  induction k with
  | zero => rfl
  | succ k ih =>
    simp only [pmcAdd]
    split
    · exact ih
    split
    · split <;> simp [ih]
    · exact ih

@[simp] theorem placing_pmcCount (s : State) (p : PmcPlace) (ev ctx n : Nat) : (pmcCount s p ev ctx n).placing = s.placing := by
  unfold pmcCount
  split
  · rfl
  · exact placing_pmcAdd ..

/-! ## Homes (10 R198-R201; 11 R234) -/

@[simp] theorem placing_putHome (s : State) (g : HomeLine) : (putHome s g).placing = s.placing := by
  unfold putHome
  split <;> rfl

@[simp] theorem placing_dropHome (s : State) (ctx line : Nat) : (dropHome s ctx line).placing = s.placing := rfl

@[simp] theorem placing_keyWrite (s : State) (key : Nat) (m : ByteMask) (d : LineData) : (keyWrite s key m d).placing = s.placing := rfl

@[simp] theorem placing_cleanHome (s : State) (g : HomeLine) : (cleanHome s g).placing = s.placing := by
  unfold cleanHome
  split
  · rfl
  · simp

@[simp] theorem placing_cleanPa (s : State) (pa : Nat) : (cleanPa s pa).placing = s.placing := foldl_keeps State.placing placing_cleanHome ..

@[simp] theorem placing_purgePa (s : State) (pa : Nat) : (purgePa s pa).placing = s.placing :=
  (foldl_keeps State.placing (fun s (g : HomeLine) => placing_dropHome s g.ctx g.line) ..).trans (foldl_keeps State.placing placing_cleanHome ..)

@[simp] theorem placing_fitDirectory (s : State) (g : HomeLine) : (fitDirectory s g).placing = s.placing := by
  unfold fitDirectory
  refine placing_ite _ rfl (placing_ite _ rfl ?_)
  split
  · exact placing_purgePa ..
  · rfl

@[simp] theorem placing_fitSlice (s : State) (line : Nat) : (fitSlice s line).placing = s.placing := by
  unfold fitSlice
  refine placing_ite _ rfl (placing_ite _ rfl ?_)
  split
  · exact (placing_dropHome ..).trans (placing_cleanHome ..)
  · rfl

@[simp] theorem placing_addHome (s : State) (g : HomeLine) : (addHome s g).placing = s.placing := by simp [addHome]

@[simp] theorem placing_retagHome (s : State) (g : HomeLine) (tr : Trans) : (retagHome s g tr).1.placing = s.placing := by
  unfold retagHome
  split
  · rfl
  · simp

@[simp] theorem placing_mergeHome (s : State) (ctx line : Nat) (m : ByteMask) (d : LineData) (tr : Trans) (alloc : Bool) :
    (mergeHome s ctx line m d tr alloc).placing = s.placing := by
  unfold mergeHome
  split
  · split
    · simp
    split <;> simp
  · split <;> simp

/-! ## Region aborts (19 R323, R324) -/

@[simp] theorem placing_landToken (s : State) (sid key tok reg : Nat) (v : Word) :
    (landToken s sid key tok reg v).placing = s.placing := by
  unfold landToken
  split
  · rename_i t ht
    split
    · exact placing_setTeam _ (by rw [ht]; rfl)
    · rfl
  · rfl

@[simp] theorem placing_abortTeam (s : State) (r : Region) (c : BitVec 9) (v : BitVec 32) : (abortTeam s r c v).placing = s.placing := by
  unfold abortTeam
  split
  · rfl
  · rename_i t ht
    have hheld : (s.team? r.sid).isSome = true := by rw [ht]; rfl
    split
    · rfl
    split
    · rfl
    split
    · exact (placing_landToken ..).trans (placing_setTeam _ hheld)
    · exact placing_setTeam _ hheld

@[simp] theorem placing_dropRegion (s : State) (slot : Nat) : (dropRegion s slot).placing = s.placing := rfl

@[simp] theorem placing_abortDepths (k : Nat) (s : State) (w : List (Nat × BitVec 9 × BitVec 32)) :
    (abortDepths k s w).placing = s.placing := by
  induction k generalizing s w with
  | zero => rfl
  | succ k ih =>
    unfold abortDepths
    split
    · rfl
    · refine (ih ..).trans (foldl_keeps State.placing (fun s x => ?_) ..)
      split
      · rfl
      · simp

@[simp] theorem placing_abortRegion (s : State) (slot : Nat) (c : BitVec 9) (v : BitVec 32) :
    (abortRegion s slot c v).placing = s.placing := by
  unfold abortRegion
  split
  · rfl
  split
  · rfl
  · exact placing_abortDepths ..

@[simp] theorem placing_externalWrite (s : State) (ctx line : Nat) : (externalWrite s ctx line).placing = s.placing := by
  unfold externalWrite
  split
  · rfl
  · exact foldl_keeps State.placing (fun s k => placing_abortRegion s k 0x163 0) ..

@[simp] theorem placing_externalPa (s : State) (pa : Nat) : (externalPa s pa).placing = s.placing :=
  foldl_keeps State.placing (fun s (l : TrackedLine) => placing_externalWrite s l.ctx l.line) ..

@[simp] theorem placing_homeMerge (s : State) (ctx line : Nat) (m : ByteMask) (d : LineData) (tr : Trans) (alloc : Bool) :
    (homeMerge s ctx line m d tr alloc).placing = s.placing := by simp [homeMerge]

/-! ## Translation (11 R221-R225) -/

@[simp] theorem placing_loadEntry (s : State) (a : Nat) : (loadEntry s a).1.placing = s.placing := placing_cleanPa ..

@[simp] theorem placing_setEntry (s : State) (a : Nat) (e : Word) : (setEntry s a e).placing = s.placing :=
  (placing_purgePa ..).trans (placing_externalPa ..)

@[simp] theorem placing_walkGo (c : Ctx) (va : Word) (k : Kind) (n : Nat) (s : State) (a : Nat) (w u x : Bool) :
    (walkGo c va k n s a w u x).1.placing = s.placing := by
  induction n generalizing s a w u x with
  | zero => rfl
  | succ n ih =>
    have hload := placing_loadEntry s (a + 8 * (va.toNat / 2 ^ (12 + 9 * n) % 512))
    simp only [walkGo]
    split
    · exact hload
    split
    · exact hload
    split
    · split
      · exact hload
      split
      · exact hload
      split
      · exact hload
      split
      · exact hload
      · exact (placing_ite _ rfl (placing_setEntry ..)).trans hload
    · split
      · exact hload
      · exact (ih ..).trans hload

@[simp] theorem placing_walk (s : State) (ctx : Nat) (va : Word) (k : Kind) : (walk s ctx va k).1.placing = s.placing := by
  unfold walk
  split
  · rfl
  · dsimp only
    split
    · rfl
    · exact placing_walkGo ..

@[simp] theorem placing_translate (s : State) (unit ctx : Nat) (va : Word) (k : Kind) :
    (translate s unit ctx va k).1.placing = s.placing := by
  have hwalk := placing_walk s ctx va k
  unfold translate
  split
  · rfl
  · split <;> rename_i hw <;> rw [hw] at hwalk
    · exact hwalk
    · exact hwalk

@[simp] theorem placing_takeRoute (s : State) (dev : BitVec 12) : (takeRoute s dev).placing = s.placing := by
  unfold takeRoute
  split
  · unfold routeOf
    split
    · rfl
    · split <;> rfl
  · rfl

/-! ## Reading for the device (10 R198; 03 R386) -/

@[simp] theorem placing_lineRead (s : State) (unit ctx line : Nat) (need : ByteMask) (alloc : Bool) :
    (lineRead s unit ctx line need alloc).1.placing = s.placing := by
  have ht := placing_translate s unit ctx (lineVa line) .read
  unfold lineRead
  dsimp only
  split
  · split
    · rfl
    split
    · rfl
    · exact placing_putHome ..
  · split <;> rename_i hw <;> rw [hw] at ht
    · exact ht
    · split
      · split
        · exact ht
        · exact (placing_takeRoute ..).trans ht
      · split
        · exact ht
        split
        · exact (placing_addHome ..).trans ht
        · exact ht

@[simp] theorem placing_homeRead (s : State) (unit ctx line : Nat) (need : ByteMask) (alloc : Bool) :
    (homeRead s unit ctx line need alloc).1.placing = s.placing :=
  (placing_lineRead ..).trans (placing_pmcCount ..)

@[simp] theorem placing_devRead (s : State) (unit : Nat → Nat) (ctx va n : Nat) : (devRead s unit ctx va n).1.placing = s.placing := by
  refine foldl_fst_keeps (β := Except Missing (List Byte)) State.placing (fun acc (lm : Nat × ByteMask) => ?_) (rangeLines va n) (s, .ok [])
  split
  · rfl
  · rename_i s0 bs
    have hread := placing_homeRead s0 (unit (lm.1 * 64)) ctx lm.1 lm.2 true
    split <;> rename_i hw <;> rw [hw] at hread <;> exact hread

/-! ## Write-backs (10 R200, R201) -/

@[simp] theorem placing_putL1 (s : State) (x : L1Line) : (putL1 s x).placing = s.placing := by
  unfold putL1
  split <;> rfl

@[simp] theorem placing_patchFills (s : State) (core ctx line : Nat) (m : ByteMask) (d : LineData) :
    (patchFills s core ctx line m d).placing = s.placing := rfl

@[simp] theorem placing_refreshL1 (s : State) (core ctx line : Nat) (m : ByteMask) (d : LineData) :
    (refreshL1 s core ctx line m d).placing = s.placing := by
  unfold refreshL1
  split <;> simp

@[simp] theorem placing_drainOne (s : State) (sid home : Nat) : (drainOne s sid home).placing = s.placing := by
  unfold drainOne
  split
  · rfl
  · exact (placing_refreshL1 ..).trans ((placing_homeMerge ..).trans (placing_of_eq rfl rfl))

@[simp] theorem placing_drainThrough (k : Nat) (s : State) (q : QWrite) : (drainThrough k s q).placing = s.placing := by
  induction k generalizing s with
  | zero => rfl
  | succ k ih =>
    unfold drainThrough
    split
    · exact (ih _).trans (placing_drainOne ..)
    · rfl

@[simp] theorem placing_drainAll (s : State) (f : QWrite → Bool) : (drainAll s f).placing = s.placing :=
  foldl_keeps State.placing (fun s q => placing_drainThrough s.wq.length s q) ..

@[simp] theorem placing_writeBackLine (s : State) (core ctx line : Nat) : (writeBackLine s core ctx line).placing = s.placing := by
  unfold writeBackLine
  split
  · rfl
  split
  · rfl
  split
  · rfl
  · exact (placing_patchFills ..).trans ((placing_refreshL1 ..).trans ((placing_homeMerge ..).trans ((placing_drainAll ..).trans
      ((placing_tick1 _).trans (placing_putL1 ..)))))

@[simp] theorem placing_writeBackAll (s : State) (core ctx : Nat) : (writeBackAll s core ctx).placing = s.placing :=
  foldl_keeps State.placing (fun s (x : L1Line) => placing_writeBackLine s x.core ctx x.line) ..

end Sys2Proof.Machine
end

section
/-! DEVICE_STEPS (O51): memory care, bring-up, power and cooling (24 R380-R385). -/

namespace Sys2Proof.Machine

/-! ## HBM4E (24 R380-R382) -/

/-- A table without the entries whose keys a test refuses. -/
theorem Tab.get_filter_keys {α : Type} (d : α) (p : Nat → Bool) (t : Tab α) (k : Nat) :
    Tab.get d (t.filter (fun e => p e.1)) k = if p k = true then Tab.get d t k else d := by
  induction t with
  | nil => simp [Tab.get]
  | cons e r ih =>
    obtain ⟨j, x⟩ := e
    rw [List.filter_cons, Tab.get]
    by_cases hj : j = k
    · subst hj
      dsimp only
      cases hp : p j with
      | true => simp [Tab.get]
      | false => simpa [hp] using ih
    · rw [if_neg hj]
      split
      · rw [Tab.get, if_neg hj, ih]
      · exact ih

/-- A bank's key names its channel. -/
theorem bankKey_channel {ch b : Nat} (hb : b < 2 ^ 16) : bankKey (ch / 32) (ch % 32) b / 2 ^ 16 = ch := by
  unfold bankKey
  omega

theorem execBankRefreshDue_spec {s : State} {ch b : Nat} (w : Bool) (h : bankOk (ch / 32) (ch % 32) b = true) :
    ∃ p, exec (.bankRefreshDue ch b w) s = .next { s with postponed := p } ∧ Tab.get 0 p (bankKey (ch / 32) (ch % 32) b) =
      if w = true ∧ Tab.get 0 s.postponed (bankKey (ch / 32) (ch % 32) b) < 8
      then Tab.get 0 s.postponed (bankKey (ch / 32) (ch % 32) b) + 1 else 0 := by
  have hb : b < 2 ^ 16 := (of_decide_eq_true h).2.2
  have hx : exec (.bankRefreshDue ch b w) s = execBankRefreshDue ch b w s := rfl
  simp only [execBankRefreshDue, h, Bool.not_true, Bool.false_eq_true, if_false] at hx
  cases w with
  | false => exact ⟨_, hx, by simp [Tab.get_set]⟩
  | true =>
    by_cases hn : Tab.get 0 s.postponed (bankKey (ch / 32) (ch % 32) b) < 8
    · rw [if_pos hn] at hx
      exact ⟨_, hx, by simp [Tab.get_set, hn]⟩
    · rw [if_neg hn] at hx
      refine ⟨_, hx, ?_⟩
      rw [Tab.get_filter_keys 0 (fun j => j / 2 ^ 16 != ch), bankKey_channel hb, bne_self_eq_false, if_neg Bool.false_ne_true,
        if_neg (fun h => hn h.2)]

/-- Queueing a row for repair changes nothing else. -/
theorem queueRow_eq (s : State) (r : Nat × Nat × Nat × Nat) : ∃ l, queueRow s r = { s with repairs := l } := by
  unfold queueRow
  split
  · exact ⟨s.repairs, rfl⟩
  · exact ⟨_, rfl⟩

/-- A queued row is to be repaired, unless it is retired already. -/
theorem mem_queueRow (s : State) (r : Nat × Nat × Nat × Nat) : r ∈ (queueRow s r).repairs ∨ r ∈ (queueRow s r).retired := by
  unfold queueRow
  split
  · rename_i h
    simpa using h
  · exact .inl (List.mem_append_right _ (List.mem_singleton_self _))

section
variable {s : State} {a b n row line : Nat}

theorem execEcsScrubError_correctable (h : bankOk a b n = true) (hr : row < 2 ^ 32) :
    ∃ l e, exec (.ecsScrubError a b n row true line) s = .next { s with
      repairs := l, rowErrs := e, ecs := Tab.set 0 s.ecs (bankKey a b n) (min (Tab.get 0 s.ecs (bankKey a b n) + 1) 0xFFFF) } := by
  have hx : exec (.ecsScrubError a b n row true line) s = execEcsScrubError a b n row true line s := rfl
  simp only [execEcsScrubError, h, Nat.not_le.mpr hr, decide_false, Bool.not_true, Bool.or_self, Bool.false_eq_true, if_false,
    if_true] at hx
  split at hx
  · obtain ⟨l, hl⟩ := queueRow_eq { s with
      ecs := Tab.set 0 s.ecs (bankKey a b n) (min (Tab.get 0 s.ecs (bankKey a b n) + 1) 0xFFFF)
      rowErrs := Tab.set 0 s.rowErrs (bankKey a b n * 2 ^ 32 + row) (Tab.get 0 s.rowErrs (bankKey a b n * 2 ^ 32 + row) + 1) }
      (a, b, n, row)
    rw [hl] at hx
    exact ⟨_, _, hx⟩
  · exact ⟨s.repairs, _, hx⟩

theorem execEcsScrubError_uncorrectable (h : bankOk a b n = true) (hr : row < 2 ^ 32) (hl : lineInChannel line a b = true) :
    ∃ s', exec (.ecsScrubError a b n row false line) s = .next s' ∧ line ∈ s'.poison ∧
      ((a, b, n, row) ∈ s'.repairs ∨ (a, b, n, row) ∈ s'.retired) := by
  have hx : exec (.ecsScrubError a b n row false line) s = execEcsScrubError a b n row false line s := rfl
  simp only [execEcsScrubError, h, hl, Nat.not_le.mpr hr, decide_false, Bool.not_true, Bool.or_self, Bool.false_eq_true,
    if_false] at hx
  refine ⟨_, hx, ?_⟩
  split
  · rename_i hp
    exact ⟨List.contains_iff_mem.mp hp, mem_queueRow ..⟩
  · exact ⟨List.mem_append_right _ (List.mem_singleton_self _), mem_queueRow ..⟩

end

/-! ## Power and cooling (24 R385) -/

theorem execThermalPowerLimit_spec {s : State} (h : 12 < s.clkStep) :
    exec .thermalPowerLimit s = .next { s with clkStep := s.clkStep - 1 } := if_pos h

theorem execJunctionOver110c_spec {s : State} (h : s.clkStep = 12) : exec .junctionOver110c s = .next { s with hot := true } :=
  if_pos h

theorem execJunctionBelow100c_spec {s : State} (h : s.hot = true) : exec .junctionBelow100c s = .next { s with hot := false } :=
  if_pos h

/-- A device that is too hot places no team, and resumes no context. -/
theorem hot_places_none {s : State} (h : s.hot = true) (d ctx : Nat) :
    exec (.dispatchPlacement d) s = .fault (.eventNotDue "DISPATCH_PLACEMENT") ∧
      exec (.starvationPlacement d) s = .fault (.eventNotDue "STARVATION_PLACEMENT") ∧
      exec (.contextResume ctx) s = .fault (.eventNotDue "CONTEXT_RESUME") := by
  have hplace : mayPlace s d = false := by simp [mayPlace, h]
  refine ⟨if_pos (by simp [hplace]), if_pos (by simp [hplace]), ?_⟩
  show execContextResume ctx s = _
  unfold execContextResume
  split
  · rfl
  · exact if_pos (by simp [h])

theorem execInputPowerLoss_spec (s : State) :
    ∃ s', exec .inputPowerLoss s = .next s' ∧ s'.powered = false ∧ s'.teams = [] ∧ s'.ctxs = [] ∧ s'.repairs = [] ∧ s'.spi = s.spi ∧
      s'.retired = s.retired ∧ ∀ k, k < Config.deviceKey → memByte s'.mem k = memByte s.mem k :=
  ⟨_, rfl, rfl, rfl, rfl, rfl, rfl, rfl, fun k hk =>
    (Tab.get_filter_keys (α := Byte) _ (fun j => decide (j < Config.deviceKey)) _ k).trans (if_pos (decide_eq_true hk))⟩

/-! ## Bring-up (24 R383) -/

/-- Repairing empties the queue of rows, burns spare rows and retires rows. -/
theorem repairRows_eq (s : State) : ∃ b l, repairRows s = { s with repairs := [], burnt := b, retired := l } := by
  unfold repairRows
  generalize s.repairs = rows
  induction rows using List.reverseRecOn with
  | nil => exact ⟨s.burnt, s.retired, rfl⟩
  | append_singleton rows r ih =>
    obtain ⟨b, l, h⟩ := ih
    rw [List.foldl_append, h, List.foldl_cons, List.foldl_nil]
    dsimp only
    split <;> exact ⟨_, _, rfl⟩

theorem bringUpSteps_five (s : State) (links : HostLinks) : ∃ b l, bringUpSteps s 5 links = { s with
    repairs := [], burnt := b, retired := l, bringUp := 5, hdm0 := hdmBase links.l0, hdm1 := hdmBase links.l1,
    ioPorts := (if links.l0.full then [] else [0]) ++ (if links.l1.full then [] else [1]) } := by
  obtain ⟨b, l, h⟩ := repairRows_eq s
  refine ⟨b, l, ?_⟩
  unfold bringUpSteps
  rw [if_pos (by decide), h]
  rfl

/-- Rows are repaired at step 3; before step 5 the host links are as they were. -/
theorem bringUpSteps_below_five (s : State) {n : Nat} (hn : n < 5) (links : HostLinks) : ∃ b l, bringUpSteps s n links = { s with
    repairs := if 3 ≤ n then [] else s.repairs, burnt := b, retired := l, bringUp := n } := by
  obtain ⟨b, l, h⟩ := repairRows_eq s
  unfold bringUpSteps
  rw [if_neg (Nat.not_le.mpr hn)]
  split
  · exact ⟨b, l, by rw [h]⟩
  · exact ⟨s.burnt, s.retired, rfl⟩

/-- Bring-up that fails at a step stops there, and the log has the step and its code. -/
theorem execPowerGood_fails {s : State} (h : s.powered = false ∨ s.bringUp = 0) {k : Nat} (hk : 1 ≤ k) (hk' : k ≤ 5) (code : Nat)
    (links : HostLinks) (boot : BootLaunch) : exec (.powerGood (some (k, code)) links boot) s =
      .next { bringUpSteps { s with powered := true } (k - 1) links with errLog := s.errLog ++ [.bringUp k code] } := by
  have hdue : ¬ (s.powered && s.bringUp != 0) = true := by
    rcases h with h | h <;> simp [h]
  refine (if_neg hdue).trans ?_
  exact if_neg (by omega)

theorem execPowerGood_goes {s : State} (h : s.powered = false ∨ s.bringUp = 0) (links : HostLinks) (boot : BootLaunch) :
    exec (.powerGood none links boot) s = .next (startStep6 (bringUpSteps { s with powered := true } 5 links) boot) := by
  have hdue : ¬ (s.powered && s.bringUp != 0) = true := by
    rcases h with h | h <;> simp [h]
  exact if_neg hdue

end Sys2Proof.Machine
end

section
/-! DEVICE_STEPS (O51): step 6 of bring-up, which makes firmware's context and its launch (24 R383, R384). -/

namespace Sys2Proof.Machine

/-! ## What taking up an entry leaves as it was (03 R44) -/

/-- What bring-up has set, the contexts, and the bind records. -/
def State.booted (s : State) :=
  (s.powered, s.bringUp, s.repairs, s.hdm0, s.hdm1, s.ioPorts, s.ctxs, s.placing.1)

theorem booted_of_fields {s s' : State} (h1 : s'.powered = s.powered) (h2 : s'.bringUp = s.bringUp) (h3 : s'.repairs = s.repairs)
    (h4 : s'.hdm0 = s.hdm0) (h5 : s'.hdm1 = s.hdm1) (h6 : s'.ioPorts = s.ioPorts) (h7 : s'.ctxs = s.ctxs)
    (h8 : s'.placing.1 = s.placing.1) : s'.booted = s.booted := by
  simp only [State.booted, h1, h2, h3, h4, h5, h6, h7, h8]

theorem Accessed.booted {s s' : State} (h : Accessed s s') (hp : s'.placing = s.placing) : s'.booted = s.booted := by
  refine booted_of_fields ?_ ?_ ?_ ?_ ?_ ?_ ?_ (congrArg Prod.fst hp) <;> rw [h.rest]

theorem booted_setDie {s : State} {k : Nat} {x : Die} (hb : x.bind = (s.die k).bind) (hn : x.bindNext = (s.die k).bindNext) :
    (s.setDie k x).booted = s.booted :=
  booted_of_fields rfl rfl rfl rfl rfl rfl rfl (congrArg Prod.fst (placing_setDie hb hn))

/-- A program of device accesses that leaves it so. -/
def Dev.KeepsBooted {α : Type} (x : Dev α) : Prop := ∀ s, (x s).1.booted = s.booted

namespace Dev.KeepsBooted

theorem pure {α : Type} (a : α) : Dev.KeepsBooted (Dev.pure a) := fun _ => rfl

theorem bind {α β : Type} {x : Dev α} {f : α → Dev β} (hx : Dev.KeepsBooted x) (hf : ∀ a, Dev.KeepsBooted (f a)) :
    Dev.KeepsBooted (Dev.bind x f) := by
  intro s
  have h := hx s
  unfold Dev.bind
  split <;> rename_i hw <;> rw [hw] at h
  · exact (hf _ _).trans h
  · exact h

theorem each {α β : Type} {f : α → Dev β} (hf : ∀ a, Dev.KeepsBooted (f a)) (l : List α) : Dev.KeepsBooted (Dev.each f l) := by
  induction l with
  | nil => exact pure _
  | cons a r ih => exact bind (hf a) (fun _ => bind ih (fun _ => pure _))

end Dev.KeepsBooted

theorem readVa_keepsBooted (unit : Nat → Nat) (ctx va n align : Nat) : Dev.KeepsBooted (readVa unit ctx va n align) := by
  intro s
  unfold readVa
  split
  · rfl
  · exact (devRead_accessed ..).booted (placing_devRead ..)

theorem mayWrite_keepsBooted (unit : Nat → Nat) (ctx va n : Nat) : Dev.KeepsBooted (mayWrite unit ctx va n) := by
  intro s
  unfold mayWrite
  split
  · rfl
  split
  · rfl
  · refine foldl_fst_keeps (β := Except Missing Unit) State.booted (fun acc (lm : Nat × ByteMask) => ?_) (rangeLines va n) (s, .ok ())
    split
    · rfl
    · rename_i s0
      have ht := (translate_accessed s0 (unit (lm.1 * 64)) ctx (lineVa lm.1) .write).booted (placing_translate ..)
      split <;> rename_i hw <;> rw [hw] at ht <;> exact ht

theorem readTable_keepsBooted (ctx va n k : Nat) : Dev.KeepsBooted (readTable ctx va n k) := by
  unfold readTable
  split
  · exact .pure _
  · exact .bind (readVa_keepsBooted _ _ _ _ _) (fun _ => .pure _)

theorem readRecord_keepsBooted (ctx lrec : Nat) : Dev.KeepsBooted (readRecord ctx lrec) :=
  .bind (readVa_keepsBooted _ _ _ _ _) (fun _ => .pure _)

theorem readLaunch_keepsBooted (ctx : Nat) (r : BitVec 1024) (regions nreg : Nat) : Dev.KeepsBooted (readLaunch ctx r regions nreg) := by
  have htable := fun va n k => readTable_keepsBooted ctx va n k
  refine .bind (htable _ _ _) (fun gs => .bind (htable _ _ _) (fun cs => .bind (htable _ _ _) (fun rs => .bind (htable _ _ _) (fun ks =>
    .bind (.each (fun g => ?_) _) (fun ms => .bind (htable _ _ _) (fun ts => .pure _))))))
  split
  · exact .pure _
  · exact readVa_keepsBooted _ _ _ _ _

/-! ## Judging the entry (03 R44, R53) -/

@[simp] theorem booted_due (s : State) (i : Instr) : (s.due i).booted = s.booted := rfl

@[simp] theorem booted_nextOrder (s : State) : s.nextOrder.booted = s.booted := rfl

@[simp] theorem booted_setWatch (s : State) (w : QueueWatch) : (s.setWatch w).booted = s.booted := rfl

/-- The entry at hand is listed as a launch, and no longer as one that a task has pushed. -/
theorem listed_booted (s : State) (ctx qid res : Nat) (ls : List Launch) :
    ({ dropSpawned s ctx qid res with launches := ls } : State).booted = s.booted := rfl

theorem refuseEntry_booted (s : State) (w : QueueWatch) (l : Launch) (c : BitVec 9) (usable : Bool) :
    (refuseEntry s w l c usable).booted = s.booted := by
  unfold refuseEntry
  simp only [booted_due, booted_nextOrder, booted_setWatch]
  exact listed_booted ..

theorem entryWait_booted (s : State) (w : QueueWatch) (m : Missing) (write : Bool) : (entryWait s w m write).booted = s.booted :=
  booted_setWatch s { w with waiting := some (missPage m) }

theorem askRecord_booted (s : State) (l : Launch) : (askRecord s l).booted = s.booted := by
  unfold askRecord
  split <;> rfl

theorem takeEntry_booted (s : State) (w : QueueWatch) (l : Launch) : (takeEntry s w l).booted = s.booted := by
  have hqueued : ∀ s1 : State, (s1.onDie w.die (fun d =>
      { d with hwq := Tab.set [] d.hwq w.hwq (Tab.get [] d.hwq w.hwq ++ [{ ctx := l.ctx, qid := l.qid, res := l.res, lid := l.lid }])
               matcher := if l.task then d.matcher ++ [l.lid] else d.matcher })).booted = s1.booted := fun s1 => booted_setDie rfl rfl
  unfold takeEntry
  refine (askRecord_booted ..).trans ?_
  split
  · rw [booted_due, hqueued, booted_nextOrder, booted_setWatch]
    exact listed_booted ..
  · rw [hqueued, booted_nextOrder, booted_setWatch]
    exact listed_booted ..

theorem judgeReads_booted (s : State) (w : QueueWatch) (l : Launch) (x : LaunchReads) (regions nreg : Nat) :
    (judgeReads s w l x regions nreg).booted = s.booted := by
  have hwrite := mayWrite_keepsBooted unitOf w.ctx (fld x.lr 576 64) 32 s
  have hjudge : ∀ (s1 : State) (compl : Bool), (match acceptCheck x regions nreg compl with
      | some (c, usable) => refuseEntry s1 w l c usable
      | none => takeEntry s1 w l).booted = s1.booted := by
    intro s1 compl
    split
    · exact refuseEntry_booted ..
    · exact takeEntry_booted ..
  unfold judgeReads
  dsimp only
  split <;> rename_i hw <;> rw [hw] at hwrite
  · exact (hjudge ..).trans hwrite
  · split
    · exact (hjudge ..).trans hwrite
    split
    · exact (entryWait_booted ..).trans hwrite
    · exact (hjudge ..).trans hwrite

theorem judgeEntry_booted (s : State) (w : QueueWatch) (bs : List Byte) : (judgeEntry s w bs).booted = s.booted := by
  have hfailed : ∀ (s1 : State) (l : Launch) (m : Missing), (match entryFail w m with
      | none => entryWait s1 w m false
      | some c => refuseEntry s1 w l c false).booted = s1.booted := by
    intro s1 l m
    split
    · exact entryWait_booted ..
    · exact refuseEntry_booted ..
  have hrecord := readRecord_keepsBooted w.ctx (wordAt bs 24) s
  unfold judgeEntry
  dsimp only
  split
  · exact refuseEntry_booted ..
  split <;> rename_i s1 _ hw <;> rw [hw] at hrecord
  · exact (hfailed ..).trans hrecord
  · rename_i r
    have hlaunch := readLaunch_keepsBooted w.ctx r (wordAt bs 32) (if leNat ((bs.drop 16).take 1) = 2 then leNat ((bs.drop 40).take 1) % 8 else 0) s1
    split <;> rename_i hl <;> rw [hl] at hlaunch
    · exact (hfailed ..).trans (hlaunch.trans hrecord)
    · exact (judgeReads_booted ..).trans (hlaunch.trans hrecord)

end Sys2Proof.Machine
end

section
/-! DEVICE_STEPS (O51): what bring-up leaves, and the end of firmware's launch (24 R383, R384). -/

namespace Sys2Proof.Machine

theorem State.onCtx_some {s : State} {k : Nat} {x : Ctx} (h : s.ctx? k = some x) (f : Ctx → Ctx) : s.onCtx k f = s.setCtx k (f x) := by
  unfold State.onCtx
  rw [h]

/-- What step 6 leaves, before firmware's launch is judged: its context, its translation table and its bind record. -/
theorem startStep6_spec (s : State) (boot : BootLaunch) :
    (startStep6 s boot).powered = s.powered ∧ (startStep6 s boot).bringUp = 6 ∧ (startStep6 s boot).repairs = s.repairs ∧
      (startStep6 s boot).hdm0 = s.hdm0 ∧ (startStep6 s boot).hdm1 = s.hdm1 ∧ (startStep6 s boot).ioPorts = s.ioPorts ∧
      (startStep6 s boot).ctx? Config.firmwareCtx =
        some { newCtx .firmware 0 with ptlDesc := boot.fw.desc, ptlRoot := boot.fw.root } ∧
      ((startStep6 s boot).die 0).bindNext = (s.die 0).bindNext ++ [(0, fwBind boot.bits)] := by
  have hctx : (writeBindRec { s.setCtx Config.firmwareCtx (newCtx .firmware 0) with bringUp := 6 } 0 0 (fwBind boot.bits)).ctx?
      Config.firmwareCtx = some (newCtx .firmware 0) := State.ctx?_setCtx s _ _
  have hdie : ∀ (s1 : State) (x : Die), (s1.setDie 0 x).die 0 = x := fun s1 x => (Tab.get_set ..).trans (if_pos rfl)
  have hb : (startStep6 s boot).booted = ((writeBindRec { s.setCtx Config.firmwareCtx (newCtx .firmware 0) with bringUp := 6 } 0 0
      (fwBind boot.bits)).setCtx Config.firmwareCtx
        { newCtx .firmware 0 with ptlDesc := boot.fw.desc, ptlRoot := boot.fw.root }).booted := by
    refine (judgeEntry_booted ..).trans ?_
    unfold setFwTable
    rw [State.onCtx_some hctx]
    rfl
  simp only [State.booted, Prod.mk.injEq] at hb
  obtain ⟨hpow, hup, hrep, h0, h1, hio, hctxs, hbind⟩ := hb
  refine ⟨hpow, hup, hrep, h0, h1, hio, ?_, ?_⟩
  · unfold State.ctx?
    rw [hctxs]
    exact State.ctx?_setCtx _ _ _
  · refine (congrArg Prod.snd (congrFun hbind 0)).trans ?_
    exact congrArg Die.bindNext (hdie _ _)

/-! ## The end of firmware's launch -/

theorem freeMatcher_bringUp (s : State) (die lid : Nat) : (freeMatcher s die lid).bringUp = s.bringUp ∧
    (freeMatcher s die lid).ordMode = s.ordMode ∧ (freeMatcher s die lid).errLog = s.errLog := by
  unfold freeMatcher
  split <;> exact ⟨rfl, rfl, rfl⟩

/-- A launch that has been dispatched leaves bring-up as its own end says. -/
theorem dropLaunch_bringUp {s : State} {l : Launch} (h : l.dispatched = true) : (dropLaunch s l).bringUp = (endBringUp s l).bringUp ∧
    (dropLaunch s l).ordMode = (endBringUp s l).ordMode ∧ (dropLaunch s l).errLog = (endBringUp s l).errLog := by
  simp only [dropLaunch, h, if_true]
  exact freeMatcher_bringUp (endBringUp s l) l.die l.lid

section
variable {s : State} {l : Launch} (hup : s.bringUp = 6) (hctx : l.ctx = Config.firmwareCtx)
include hup hctx

theorem endBringUp_done (h : firstFail l = none) : endBringUp s l = { s with bringUp := 7, ordMode := false } := by
  unfold endBringUp
  rw [if_pos ⟨hup, hctx⟩, h]

theorem endBringUp_fails {u : Nat} {k : BitVec 9} (h : firstFail l = some (u, k)) :
    endBringUp s l = { s with errLog := s.errLog ++ [.bringUp 6 k.toNat] } := by
  unfold endBringUp
  rw [if_pos ⟨hup, hctx⟩, h]

end

/-- Firmware's launch ends bring-up, or its failure is logged at step 6. -/
theorem dropLaunch_firmware {s : State} {l : Launch} (hup : s.bringUp = 6) (hctx : l.ctx = 0xFFFF) (hd : l.dispatched = true) :
    (firstFail l = none → (dropLaunch s l).bringUp = 7 ∧ (dropLaunch s l).ordMode = false) ∧
      ∀ u k, firstFail l = some (u, k) → (dropLaunch s l).bringUp = 6 ∧ (dropLaunch s l).errLog = s.errLog ++ [.bringUp 6 k.toNat] := by
  obtain ⟨hb, ho, he⟩ := dropLaunch_bringUp (s := s) hd
  constructor
  · intro hf
    rw [hb, ho, endBringUp_done hup hctx hf]
    exact ⟨rfl, rfl⟩
  · intro u k hf
    rw [hb, he, endBringUp_fails hup hctx hf]
    exact ⟨hup, rfl⟩

/-! ## POWER_GOOD -/

theorem execPowerGood_done {s : State} (h : s.powered = false ∨ s.bringUp = 0) (l0 l1 : HostLink) (r : BitVec 256) (fw : FwLaunch) :
    ∃ s' f, exec (.powerGood none ⟨l0, l1⟩ ⟨r, fw⟩) s = .next s' ∧ s'.powered = true ∧ s'.bringUp = 6 ∧ s'.repairs = [] ∧
      s'.hdm0 = (if l0.full then l0.hdm else none) ∧ s'.hdm1 = (if l1.full then l1.hdm else none) ∧
      s'.ioPorts = (if l0.full then [] else [0]) ++ (if l1.full then [] else [1]) ∧ s'.ctx? 0xFFFF = some f ∧ f.priv = .firmware ∧
      f.ptlDesc = fw.desc ∧ f.ptlRoot = fw.root ∧ ∃ b, (s'.die 0).bindNext = (s.die 0).bindNext ++ [(0, b)] ∧ b.matchq = false ∧
        b.ctx = 0xFFFF ∧ b.cores = 1 ∧ b.quota = 1 ∧ b.valid = true := by
  obtain ⟨b, l, hfive⟩ := bringUpSteps_five { s with powered := true } ⟨l0, l1⟩
  obtain ⟨hpow, hup, hrep, h0, h1, hio, hctx, hbind⟩ := startStep6_spec (bringUpSteps { s with powered := true } 5 ⟨l0, l1⟩) ⟨r, fw⟩
  refine ⟨_, _, execPowerGood_goes h .., ?_, hup, ?_, ?_, ?_, ?_, hctx, rfl, rfl, rfl, fwBind r, ?_, rfl, rfl, rfl, rfl, rfl⟩
  · rw [hpow, hfive]
  · rw [hrep, hfive]
  · rw [h0, hfive]
    rfl
  · rw [h1, hfive]
    rfl
  · rw [hio, hfive]
  · rw [hbind, hfive]
    rfl

theorem execPowerGood_stops {s : State} (h : s.powered = false ∨ s.bringUp = 0) {k : Nat} (hk : 1 ≤ k) (hk' : k ≤ 5) (code : Nat)
    (links : HostLinks) (boot : BootLaunch) : ∃ s', exec (.powerGood (some (k, code)) links boot) s = .next s' ∧ s'.powered = true ∧
      s'.bringUp = k - 1 ∧ s'.errLog = s.errLog ++ [.bringUp k code] ∧ s'.launches = s.launches ∧ s'.ctxs = s.ctxs ∧
      s'.hdm0 = s.hdm0 ∧ s'.hdm1 = s.hdm1 ∧ (k ≤ 3 → s'.repairs = s.repairs) ∧ (3 < k → s'.repairs = []) := by
  obtain ⟨b, l, hbelow⟩ := bringUpSteps_below_five { s with powered := true } (show k - 1 < 5 by omega) links
  refine ⟨_, execPowerGood_fails h hk hk' code links boot, ?_⟩
  rw [hbelow]
  exact ⟨rfl, rfl, rfl, rfl, rfl, rfl, rfl, fun h3 => if_neg (by omega), fun h3 => if_pos (by omega)⟩

end Sys2Proof.Machine
end

section
/-! DEVICE_STEPS (O51): pre-emption of a context, and its resumption (23 R364-R366). -/

namespace Sys2Proof.Machine

/-! ## The end of a residency (23 R364) -/

/-- What the end of a residency leaves as it was: memory, caches and scratchpads, the contexts, and the bind records in force. -/
def State.kept (s : State) :=
  (s.mem, s.spad, s.spadBase, s.l1, s.homes, s.spec, s.ctxs, fun d => (s.die d).bind)

theorem SameBytes.of_kept {s s' : State} (h : s'.kept = s.kept) : SameBytes s s' := by
  simp only [State.kept, Prod.mk.injEq] at h
  obtain ⟨hm, hs, hb, hl, hh, hx, -, -⟩ := h
  exact ⟨fun k => by rw [hm], fun k => spadByte_congr hs hb k, hl, hh, hx⟩

theorem ctxs_of_kept {s s' : State} (h : s'.kept = s.kept) : s'.ctxs = s.ctxs := by
  simp only [State.kept, Prod.mk.injEq] at h
  obtain ⟨-, -, -, -, -, -, hc, -⟩ := h
  exact hc

theorem bind_of_kept {s s' : State} (h : s'.kept = s.kept) (d : Nat) : (s'.die d).bind = (s.die d).bind := by
  simp only [State.kept, Prod.mk.injEq] at h
  obtain ⟨-, -, -, -, -, -, -, hb⟩ := h
  exact congrFun hb d

theorem kept_setDie {s : State} {k : Nat} {x : Die} (hb : x.bind = (s.die k).bind) : (s.setDie k x).kept = s.kept := by
  have hbind : (fun d => ((s.setDie k x).die d).bind) = fun d => (s.die d).bind := by
    funext d
    have hdie : (s.setDie k x).die d = if d = k then x else s.die d := Tab.get_set ..
    rw [hdie]
    split
    · rename_i h
      rw [h, hb]
    · rfl
  show (s.mem, s.spad, s.spadBase, s.l1, s.homes, s.spec, s.ctxs, fun d => ((s.setDie k x).die d).bind) = _
  rw [hbind]
  rfl

theorem kept_matcher (s : State) (k : Nat) (g : Die → List Nat) : (s.onDie k (fun d => { d with matcher := g d })).kept = s.kept :=
  kept_setDie rfl

theorem kept_hwq (s : State) (k : Nat) (g : Die → Tab (List HwEntry)) : (s.onDie k (fun d => { d with hwq := g d })).kept = s.kept :=
  kept_setDie rfl

theorem freeMatcher_kept (s : State) (die lid : Nat) : (freeMatcher s die lid).kept = s.kept := by
  unfold freeMatcher
  split
  · exact kept_matcher s die (fun d => d.matcher.filter (· != lid))
  · rfl

theorem freeMatcher_launches (s : State) (die lid : Nat) : (freeMatcher s die lid).launches = s.launches := by
  unfold freeMatcher
  split <;> rfl

theorem releaseCancels_kept (s : State) (die : Nat) : (releaseCancels s die).kept = s.kept := kept_setDie rfl

/-- An entry of the queue that a watch is of, neither dispatched, nor cancelled, nor refused. -/
def Launch.leaves (w : QueueWatch) (l : Launch) : Bool :=
  l.ctx == w.ctx && l.qid == w.qid && !l.dispatched && !l.cancelled && l.refused.isNone

theorem dropUndispatched_kept (s : State) (w : QueueWatch) : (dropUndispatched s w).kept = s.kept := by
  unfold dropUndispatched
  refine (releaseCancels_kept ..).trans ((kept_hwq ..).trans ?_)
  exact foldl_keeps State.kept (fun s (l : Launch) => freeMatcher_kept s w.die l.lid) _ _

theorem dropUndispatched_launches (s : State) (w : QueueWatch) :
    (dropUndispatched s w).launches = s.launches.filter (fun l => !l.leaves w) :=
  foldl_keeps State.launches (fun s (l : Launch) => freeMatcher_launches s w.die l.lid) (s.launches.filter (Launch.leaves w)) _

theorem leaveQueues_kept (s : State) (ctx : Nat) : (leaveQueues s ctx).kept = s.kept :=
  foldl_keeps (f := fun s w => (dropUndispatched s w).setWatch { w with head := none, forwarded := [] }) State.kept
    dropUndispatched_kept _ _

/-- A launch that stays is an entry of no queue of the context, or is one that cannot be withdrawn. -/
theorem leaveQueues_launches {s : State} {ctx : Nat} {l : Launch} (h : l ∈ (leaveQueues s ctx).launches) :
    ∀ w ∈ s.watches, w.ctx = ctx → l.leaves w = false := by
  have hfold : ∀ (ws : List QueueWatch) (s1 : State), l ∈ (ws.foldl (fun s w =>
      (dropUndispatched s w).setWatch { w with head := none, forwarded := [] }) s1).launches →
      l ∈ s1.launches ∧ ∀ w ∈ ws, l.leaves w = false := by
    intro ws
    induction ws with
    | nil => exact fun s1 h => ⟨h, fun w hw => absurd hw List.not_mem_nil⟩
    | cons w ws ih =>
      intro s1 h
      obtain ⟨hl, hws⟩ := ih _ h
      have hkeeps : l ∈ (dropUndispatched s1 w).launches := hl
      rw [dropUndispatched_launches, List.mem_filter, Bool.not_eq_true'] at hkeeps
      exact ⟨hkeeps.1, List.forall_mem_cons.mpr ⟨hkeeps.2, hws⟩⟩
  intro w hw hctx
  exact (hfold _ _ h).2 w (List.mem_filter.mpr ⟨hw, beq_iff_eq.mpr hctx⟩)

/-! ### Its bind records -/

/-- A table whose entries a function changes, which leaves the default as it is. -/
theorem Tab.get_map {α : Type} {d : α} {f : α → α} (hd : f d = d) (t : Tab α) (k : Nat) :
    Tab.get d (t.map (fun e => (e.1, f e.2))) k = f (Tab.get d t k) := by
  induction t with
  | nil => exact hd.symm
  | cons e r ih =>
    rw [List.map_cons, Tab.get, Tab.get]
    split
    · rfl
    · exact ih

/-- A bind record of a context that leaves has no quota. -/
def BindRec.cleared (ctx : Nat) (b : BindRec) : BindRec := if b.ctx.toNat = ctx then { b with quota := 0 } else b

theorem BindRec.cleared_empty (ctx : Nat) : emptyBind.cleared ctx = emptyBind := ite_self _

theorem BindRec.cleared_quota (b : BindRec) {ctx : Nat} (h : (b.cleared ctx).ctx.toNat = ctx) : (b.cleared ctx).quota = 0 := by
  unfold BindRec.cleared at h ⊢
  split
  · rfl
  · rename_i hb
    rw [if_neg hb] at h
    exact absurd h hb

theorem clearQuotas_bindOf (s : State) (ctx d i : Nat) : bindOf (clearQuotas s ctx) d i = (bindOf s d i).cleared ctx := by
  have hdie : (clearQuotas s ctx).die d = { s.die d with
      bind := (s.die d).bind.map (fun b => (b.1, b.2.cleared ctx)),
      bindNext := (s.die d).bindNext.map (fun b => (b.1, b.2.cleared ctx)) } :=
    Tab.get_map (f := fun x : Die => { x with bind := x.bind.map (fun b => (b.1, b.2.cleared ctx)),
                                              bindNext := x.bindNext.map (fun b => (b.1, b.2.cleared ctx)) }) rfl s.dieTab d
  unfold bindOf
  rw [hdie]
  exact Tab.get_map (BindRec.cleared_empty ctx) _ _

section
variable {s : State} {ctx : Nat} {x : Ctx} (h : s.ctx? ctx = some x)
include h

theorem endResidency_eq : endResidency s ctx = (leaveQueues (clearQuotas s ctx) ctx).setCtx ctx { x with resident := false } := by
  refine State.onCtx_some ?_ _
  rw [State.ctx?, ctxs_of_kept (leaveQueues_kept ..)]
  exact h

theorem endResidency_ctx? : (endResidency s ctx).ctx? ctx = some { x with resident := false } := by
  rw [endResidency_eq h]
  exact State.ctx?_setCtx ..

/-- A residency ends with the context not resident, no byte of memory changed, and its undispatched entries and its quotas gone. -/
theorem endResidency_spec : SameBytes s (endResidency s ctx) ∧
    (∀ l ∈ (endResidency s ctx).launches, l.ctx = ctx → (∃ w ∈ s.watches, w.ctx = ctx ∧ w.qid = l.qid) →
      l.dispatched = true ∨ l.cancelled = true ∨ l.refused ≠ none) ∧
    ∀ d i, (bindOf (endResidency s ctx) d i).ctx.toNat = ctx → (bindOf (endResidency s ctx) d i).quota = 0 := by
  rw [endResidency_eq h]
  have hkept := leaveQueues_kept (clearQuotas s ctx) ctx
  refine ⟨?_, ?_, ?_⟩
  · obtain ⟨hm, hs, hl, hh, hx⟩ := SameBytes.of_kept hkept
    exact ⟨hm, hs, hl, hh, hx⟩
  · rintro l hl hlc ⟨w, hw, hwc, hwq⟩
    have hleaves := leaveQueues_launches hl w hw hwc
    simp only [Launch.leaves, hlc, hwc, hwq, beq_self_eq_true, Bool.true_and] at hleaves
    grind
  · intro d i
    have hb : bindOf ((leaveQueues (clearQuotas s ctx) ctx).setCtx ctx { x with resident := false }) d i = (bindOf s d i).cleared ctx := by
      rw [← clearQuotas_bindOf]
      exact congrArg (Tab.get emptyBind · i) (bind_of_kept hkept d)
    rw [hb]
    exact BindRec.cleared_quota _

end

theorem execPhaseBoundaryPreempt_eq {s : State} {ctx : Nat} {x : Ctx} (h : s.ctx? ctx = some x) (hf : ctx ≠ 0xFFFF) :
    exec (.phaseBoundaryPreempt ctx) s = .next (endResidency s ctx) :=
  if_neg (by simp [h, hf, Config.firmwareCtx])

/-! ## Forced pre-emption (23 R365) -/

section
variable {s : State} {ctx : Nat} {x : Ctx} (h : s.ctx? ctx = some x) (hf : ctx ≠ 0xFFFF) (ha : x.asked = none) (hs : x.saved = [])
include h hf ha hs

theorem execForcedPreempt_begins (hx : x.stopping = false) : exec (.forcedPreempt ctx) s = .next (beginPreempt s ctx x) := by
  show execForcedPreempt ctx s = _
  simp [execForcedPreempt, h, hf, ha, hs, hx, Config.firmwareCtx]

theorem execForcedPreempt_saves (hx : x.stopping = true) (hr : (ctxTeams s ctx).any (fun e => stillRuns s e.1 e.2) = false) :
    exec (.forcedPreempt ctx) s = .next (saveContext s ctx x) := by
  show execForcedPreempt ctx s = _
  simp only [execForcedPreempt, h, hr]
  simp [hf, ha, hs, hx, Config.firmwareCtx]

end

theorem beginPreempt_without_areas {s : State} {ctx : Nat} {x : Ctx} (h : (replyArea x).2 = 0 ∨ (saveArea x).2 = 0) :
    beginPreempt s ctx x = s := if_pos h.symm

/-- A team of a context that stops issues nothing and fetches nothing, unless it is in the middle of something. -/
theorem stopped_issues_none {s : State} {t : Team} {x : Ctx} (h : s.ctx? t.ctx = some x) (hx : x.stopping = true)
    (hp : t.pended = none) (hm : t.more = none) (hq : t.mem = none) (ha : t.midAccess = false) (sid : Nat) :
    teamReady s sid t = false ∧ fetchReady s sid t = false := by
  have hstop : stopped s t = true := by simp [stopped, h, hx, hp, hq, ha]
  constructor
  · simp [teamReady, hm, hstop]
  · simp [fetchReady, hstop]

/-- Where the areas suffice, the context's residency ends and its teams are to stop. -/
theorem beginPreempt_stops {s s1 : State} {ctx : Nat} {x : Ctx} (hreply : (replyArea x).2 ≠ 0) (hsave : (saveArea x).2 ≠ 0)
    (hfit : ((savePieces s ctx).map (fun q => up64 q.length)).sum ≤ (saveArea x).2)
    (hfree : freeReplies ctx (replyArea x).1 (replyArea x).2 0 ((ctxTeams s ctx).foldl (fun a e => a + e.2.slots.length) 0) s =
      (s1, .ok true)) (hc : s1.ctx? ctx ≠ none) :
    ∃ x', (beginPreempt s ctx x).ctx? ctx = some x' ∧ x'.stopping = true ∧ x'.resident = false := by
  obtain ⟨y, hy⟩ := Option.ne_none_iff_exists'.mp hc
  unfold beginPreempt
  rw [if_neg (not_or.mpr ⟨hsave, hreply⟩), if_neg (Nat.not_lt.mpr hfit)]
  dsimp only
  rw [hfree]
  dsimp only
  rw [State.onCtx_some (endResidency_ctx? hy)]
  refine ⟨{ y with resident := false, stopping := true }, ?_, rfl, rfl⟩
  have habort := Accessed.foldl (fun s (r : Region) => abortRegion_accessed s r.slot Cause.preempt 0)
  rw [State.ctx?, (habort _ _).rest]
  exact State.ctx?_setCtx ..

/-! ### The save area -/

theorem pieceVas_length (va : Nat) (ps : List (List Byte)) : (pieceVas va ps).length = ps.length := by
  induction ps generalizing va with
  | nil => rfl
  | cons p ps ih => exact congrArg (· + 1) (ih _)

/-- Every team of a list has one of its unit among the representatives. -/
theorem oneOfEach_represents (ts : List (Nat × Team)) {e : Nat × Team} (h : e ∈ ts) :
    ∃ r ∈ oneOfEach ts, r.2.lid = e.2.lid ∧ r.2.unit = e.2.unit := by
  unfold oneOfEach
  induction ts using List.reverseRecOn with
  | nil => exact absurd h List.not_mem_nil
  | append_singleton ts a ih =>
    rw [List.foldl_append, List.foldl_cons, List.foldl_nil]
    rcases List.mem_append.mp h with hold | hnew
    · obtain ⟨r, hr, hunit⟩ := ih hold
      split
      · exact ⟨r, hr, hunit⟩
      · exact ⟨r, List.mem_append_left _ hr, hunit⟩
    · rw [List.mem_singleton.mp hnew]
      split
      · rename_i hany
        simpa using hany
      · exact ⟨a, List.mem_append_right _ (List.mem_singleton_self _), rfl, rfl⟩

/-- The teams of a context are those that are resident, whatever their order. -/
theorem mem_ctxTeams {s : State} {ctx : Nat} {e : Nat × Team} (h : e ∈ s.teams) (hc : e.2.ctx = ctx) : e ∈ ctxTeams s ctx := by
  have hts : e ∈ s.teams.filter (fun e => e.2.ctx == ctx) := List.mem_filter.mpr ⟨h, beq_iff_eq.mpr hc⟩
  obtain ⟨r, hr, hlid, hunit⟩ := oneOfEach_represents _ hts
  exact List.mem_flatMap.mpr ⟨r, hr, List.mem_filter.mpr ⟨hts, by simp [hlid, hunit]⟩⟩

theorem writeBackAll_accessed (s : State) (core ctx : Nat) : Accessed s (writeBackAll s core ctx) :=
  .foldl (fun s (x : L1Line) => writeBackLine_accessed s x.core ctx x.line) _ _

theorem leaveCore_ctxs (s : State) (sid : Nat) (t : Team) : (leaveCore s sid t).ctxs = s.ctxs := by
  have hback : (writeBackAll s t.coreId t.ctx).ctxs = s.ctxs := by rw [(writeBackAll_accessed ..).rest]
  unfold leaveCore addResident
  simpa using hback

theorem dropEntries_ctxs (s : State) (key : Nat) : (dropEntries s key).ctxs = s.ctxs := rfl

/-- A team that leaves its core is gone, and no team comes. -/
theorem leaveCore_teams {s : State} {n : Nat} (sid : Nat) (t : Team) (h : n = sid ∨ s.team? n = none) :
    (leaveCore s sid t).team? n = none := by
  have hteams : (leaveCore s sid t).teams = Tab.del (writeBackAll s t.coreId t.ctx).teams sid := by
    unfold leaveCore addResident
    simp [State.delTeam]
  rw [State.team?, hteams]
  by_cases hn : n = sid
  · rw [hn, Tab.find_del_same]
  · rw [Tab.find_del_other _ hn]
    have hkeeps := congrFun (congrArg Prod.snd (placing_writeBackAll s t.coreId t.ctx)) n
    have hgone : (s.team? n).isSome = false := by rw [h.resolve_left hn]; rfl
    exact Option.not_isSome_iff_eq_none.mp (Bool.eq_false_iff.mp (hkeeps.trans hgone))

/-- Teams that leave their cores one by one. -/
theorem foldl_leaveCore_teams (es : List (Nat × Team)) {s : State} {n : Nat} (h : (∃ e ∈ es, e.1 = n) ∨ s.team? n = none) :
    (es.foldl (fun s e => leaveCore (dropEntries s e.2.key) e.1 e.2) s).team? n = none := by
  induction es generalizing s with
  | nil => exact h.resolve_left (fun ⟨e, he, _⟩ => List.not_mem_nil he)
  | cons e es ih =>
    refine ih ?_
    rcases h with ⟨e', he, hn⟩ | hnone
    · rcases List.mem_cons.mp he with heq | hmem
      · exact .inr (leaveCore_teams (s := dropEntries s e.2.key) _ _ (.inl (by rw [← hn, heq])))
      · exact .inl ⟨e', hmem, hn⟩
    · exact .inr (leaveCore_teams (s := dropEntries s e.2.key) _ _ (.inr hnone))

theorem saveContext_spec {s s1 : State} {ctx : Nat} {x : Ctx} (hw : ctxWindows s ctx = [])
    (hwrite : writePieces ctx ((pieceVas (saveArea x).1 (savePieces s ctx)).zip (savePieces s ctx)) s = (s1, .ok ()))
    (hc : s1.ctx? ctx ≠ none) : ∃ x', (saveContext s ctx x).ctx? ctx = some x' ∧ x'.stopping = false ∧
      x'.saved.length = (ctxTeams s ctx).length ∧ ∀ e ∈ s.teams, e.2.ctx = ctx → (saveContext s ctx x).team? e.1 = none := by
  obtain ⟨y, hy⟩ := Option.ne_none_iff_exists'.mp hc
  have hleave : ∀ (es : List (Nat × Team)) (s2 : State),
      (es.foldl (fun s e => leaveCore (dropEntries s e.2.key) e.1 e.2) s2).ctxs = s2.ctxs :=
    fun es s2 => foldl_keeps (f := fun s (e : Nat × Team) => leaveCore (dropEntries s e.2.key) e.1 e.2) State.ctxs
      (fun s e => (leaveCore_ctxs ..).trans (dropEntries_ctxs ..)) es s2
  unfold saveContext
  simp only [hw, List.foldl_nil, hwrite]
  rw [State.onCtx_some (x := y) (by rw [State.ctx?, hleave]; exact hy)]
  refine ⟨_, State.ctx?_setCtx .., rfl, ?_, ?_⟩
  · rw [List.length_map, List.length_zip, pieceVas_length]
    simp [savePieces, hw]
  · intro e he hctx
    exact foldl_leaveCore_teams _ (.inl ⟨e, mem_ctxTeams he hctx, rfl⟩)

/-! ## Resumption (23 R366) -/

theorem execContextResume_spec {s s1 : State} {ctx : Nat} {x : Ctx} (h : s.ctx? ctx = some x) (hr : x.resident = false)
    (ha : x.asked = none) (hhot : s.hot = false) (hwin : windowsFit s (x.saved.filterMap (fun w => w.window)) = true)
    (hres : restoreContext ctx x s = (s1, .ok true)) (hc : s1.ctx? ctx ≠ none) :
    ∃ s' x', exec (.contextResume ctx) s = .next s' ∧ s'.ctx? ctx = some x' ∧ x'.resident = true ∧ x'.saved = [] := by
  obtain ⟨y, hy⟩ := Option.ne_none_iff_exists'.mp hc
  have hx : exec (.contextResume ctx) s = execContextResume ctx s := rfl
  simp only [execContextResume, h, hr, ha, hhot, hwin, hres, Option.isSome_none, Bool.not_true, Bool.or_self, Bool.false_eq_true,
    if_false, State.onCtx_some hy] at hx
  exact ⟨_, _, hx, State.ctx?_setCtx .., rfl, rfl⟩

end Sys2Proof.Machine
end

section
/-! DEVICE_STEPS (O51): fetch, the choice of a team, its passes, and a pending trap (06 R103; 23 R358). -/

namespace Sys2Proof.Machine

/-! ## Fetch -/

theorem execInstructionFetch_spec {s s1 : State} {sid : Nat} {t : Team} {i : Instr} (h : s.team? sid = some t)
    (hr : fetchReady s sid t = true) (hf : fetchFor s sid t = (s1, some i)) (h1 : s1.team? sid ≠ none) :
    ∃ s' t', exec (.instructionFetch sid) s = .next s' ∧ s'.team? sid = some t' ∧ t'.fetched = some i := by
  obtain ⟨u, hu⟩ := Option.ne_none_iff_exists'.mp h1
  have hx : exec (.instructionFetch sid) s = execInstructionFetch sid s := rfl
  simp only [execInstructionFetch, h, hr, hf, Bool.not_true, Bool.false_eq_true, if_false, State.onTeam_some hu] at hx
  exact ⟨_, _, hx, State.team?_setTeam .., rfl⟩

/-! ## The team that a core selects (06 R103) -/

/-- The first of the teams that were issued least recently. -/
def leastRecent (es : List (Nat × Team)) : Option (Nat × Team) :=
  es.foldl (fun (a : Option (Nat × Team)) e => match a with
    | none => some e
    | some b => if e.2.issued < b.2.issued then some e else some b) none

theorem leastRecent_append (es : List (Nat × Team)) (a : Nat × Team) : leastRecent (es ++ [a]) =
    match leastRecent es with
    | none => some a
    | some b => if a.2.issued < b.2.issued then some a else some b := by
  unfold leastRecent
  rw [List.foldl_append]
  rfl

theorem leastRecent_spec (es : List (Nat × Team)) : (leastRecent es = none → es = []) ∧
    ∀ e, leastRecent es = some e → e ∈ es ∧ ∀ x ∈ es, e.2.issued ≤ x.2.issued := by
  induction es using List.reverseRecOn with
  | nil => exact ⟨fun _ => rfl, fun e h => nomatch h⟩
  | append_singleton es a ih =>
    obtain ⟨hnone, hsome⟩ := ih
    rw [leastRecent_append]
    cases hl : leastRecent es with
    | none => simp [hnone hl]
    | some b =>
      obtain ⟨hb, hle⟩ := hsome b hl
      simp only [List.mem_append, List.mem_singleton]
      split <;> grind

/-- A core that is not busy takes the team that issued last, within its run of cycles, or the one that issued least recently. -/
theorem selectTeam_spec {s : State} {k sid : Nat} (h : selectTeam s k = some sid) :
    (s.core k).busyUntil ≤ s.clock ∧ ∃ t, (sid, t) ∈ s.teams ∧ t.coreId = k ∧ teamReady s sid t = true ∧
      (((s.core k).lastKey = some t.key ∧ (s.core k).run + nextCycles t ≤ 16) ∨
        ∀ e ∈ s.teams, e.2.coreId = k → teamReady s e.1 e.2 = true →
          ¬ ((s.core k).lastKey = some e.2.key ∧ (s.core k).run + nextCycles e.2 ≤ 16) ∧ t.issued ≤ e.2.issued) := by
  have hready : ∀ e, e ∈ s.teams.filter (fun e => e.2.coreId == k && teamReady s e.1 e.2) ↔
      e ∈ s.teams ∧ e.2.coreId = k ∧ teamReady s e.1 e.2 = true := by
    intro e
    rw [List.mem_filter, Bool.and_eq_true, beq_iff_eq]
  unfold selectTeam at h
  dsimp only at h
  split at h
  · cases h
  rename_i hbusy
  refine ⟨Nat.not_lt.mp hbusy, ?_⟩
  split at h
  · rename_i e he
    cases h
    obtain ⟨hmem, hcore, hr⟩ := (hready e).mp (List.mem_of_find?_eq_some he)
    have hlast := List.find?_some he
    rw [Bool.and_eq_true, beq_iff_eq, decide_eq_true_iff] at hlast
    exact ⟨e.2, hmem, hcore, hr, .inl hlast⟩
  · rename_i hnone
    have hleast := leastRecent_spec (s.teams.filter (fun e => e.2.coreId == k && teamReady s e.1 e.2))
    split at h
    · rename_i e he
      cases h
      obtain ⟨he', hle⟩ := hleast.2 e he
      obtain ⟨hmem, hcore, hr⟩ := (hready e).mp he'
      refine ⟨e.2, hmem, hcore, hr, .inr fun x hx hxc hxr => ?_⟩
      have hxready := (hready x).mpr ⟨hx, hxc, hxr⟩
      have hnot := List.find?_eq_none.mp hnone x hxready
      rw [Bool.and_eq_true, beq_iff_eq, decide_eq_true_iff] at hnot
      exact ⟨hnot, hle x hxready⟩
    · cases h

/-! ## Passes -/

theorem SameRegs.of_fields {t t' : Team} {dst : List RegName} (hs : t'.s = t.s) (hv : t'.v = t.v) (hp : t'.p = t.p)
    (hm : t'.mask = t.mask) (hw : t'.w = t.w) : SameRegs t t' dst :=
  ⟨fun _ _ => by simp only [Team.sr, hs], fun _ _ => by simp only [Team.vr, hv], fun _ _ => by simp only [Team.pr, Team.lanes, hp, hw],
    fun _ => hm⟩

theorem placeYielded_spec (s : State) (k sid : Nat) : (placeYielded s k sid).team? sid = s.team? sid ∧
    (placeYielded s k sid).clock = s.clock ∧ (placeYielded s k sid).current = s.current ∧ SameBytes s (placeYielded s k sid) := by
  unfold placeYielded
  split
  · exact ⟨rfl, rfl, rfl, fun _ => rfl, fun _ => rfl, rfl, rfl, rfl⟩
  dsimp only
  split
  · exact ⟨rfl, rfl, rfl, fun _ => rfl, fun _ => rfl, rfl, rfl, rfl⟩
  split
  · exact ⟨rfl, rfl, rfl, fun _ => rfl, fun _ => rfl, rfl, rfl, rfl⟩
  · rename_i y _ hy
    rw [Bool.or_eq_true, not_or, decide_eq_true_iff] at hy
    exact ⟨State.team?_setTeam_other _ _ (Ne.symm hy.1), rfl, rfl, fun _ => rfl, fun _ => rfl, rfl, rfl, rfl⟩

section
variable {s : State} {k sid : Nat} {t : Team} (hcur : s.current = none) (hsel : selectTeam s k = some sid)
  (hdeq : dequeBehind s k = false) (h : s.team? sid = some t)
include hcur hsel hdeq h

theorem execPassIssueSelect_first (hm : t.more = none) :
    exec (.passIssueSelect k) s = .next { placeYielded s k sid with current := some sid } := by
  show execPassIssueSelect k s = _
  simp [execPassIssueSelect, hcur, hsel, hdeq, h, hm]

theorem execPassIssueSelect_later {m : MorePasses} (hm : t.more = some m) :
    exec (.passIssueSelect k) s = .next (nextPass (placeYielded s k sid) sid) := by
  show execPassIssueSelect k s = _
  simp [execPassIssueSelect, hcur, hsel, hdeq, h, hm]

end

theorem execPassIssueSelect_behind {s : State} {k : Nat} (h : dequeBehind s k = true) :
    exec (.passIssueSelect k) s = .fault (.eventNotDue "PASS_ISSUE_SELECT") := by
  show execPassIssueSelect k s = _
  unfold execPassIssueSelect
  split
  · exact if_pos h
  · rfl

/-- Counting changes no core but for its counters. -/
theorem pmcAdd_busyUntil (p : PmcPlace) (ev ctx n k : Nat) (s : State) (c : Nat) :
    ((pmcAdd p ev ctx n k s).core c).busyUntil = (s.core c).busyUntil := by
  have hset : ∀ (s1 : State) (x : Pmc), ((setPmc s1 p x).core c).busyUntil = (s1.core c).busyUntil := by
    intro s1 x
    cases p with
    | core j =>
      simp only [setPmc, State.onCore_eq, State.core_setCore]
      split
      · rename_i hc
        rw [hc]
      · rfl
    | die j => rfl
    | vent j => rfl
  induction k generalizing s with
  | zero => rfl
  | succ k ih =>
    unfold pmcAdd
    dsimp only
    split
    · exact ih s
    split
    · split
      · exact (hset ..).trans (ih s)
      · exact (hset ..).trans (ih s)
    · exact ih s

theorem pmcCount_busyUntil (s : State) (p : PmcPlace) (ev ctx n c : Nat) :
    ((pmcCount s p ev ctx n).core c).busyUntil = (s.core c).busyUntil := by
  unfold pmcCount
  split
  · rfl
  · exact pmcAdd_busyUntil ..

/-- A core is busy for the cycles of the pass it has issued. -/
theorem notePass_busyUntil {s : State} {sid : Nat} {t : Team} (h : s.team? sid = some t) (cycles n : Nat) (yld : Bool) :
    ((notePass s sid cycles n yld).core t.coreId).busyUntil = s.clock + cycles := by
  unfold notePass
  rw [h]
  refine (pmcCount_busyUntil ..).trans ?_
  simp [noteIssue]

theorem notePass_current (s : State) (sid cycles n : Nat) (yld : Bool) : (notePass s sid cycles n yld).current = s.current := by
  obtain ⟨_, _, _, _, _, _, h⟩ := notePass_eq s sid cycles n yld
  rw [h]

/-- A later pass of the instruction that a team is at. -/
theorem nextPass_spec {s : State} {sid : Nat} {t : Team} {m : MorePasses} (h : s.team? sid = some t) (hm : t.more = some m) :
    ∃ t', (nextPass s sid).current = s.current ∧ (nextPass s sid).team? sid = some t' ∧
      t'.more = (if m.left ≤ 1 then none else some { m with left := m.left - 1 }) ∧ SameRegs t t' [] ∧ t'.pc = t.pc ∧
      SameBytes s (nextPass s sid) ∧ ((nextPass s sid).core t.coreId).busyUntil = s.clock + m.cycles := by
  have hnoted : ∀ (u : Team) (yld : Bool), u.coreId = t.coreId → SameRegs t u [] → u.pc = t.pc →
      ∃ t', (notePass (s.setTeam sid u) sid m.cycles 1 yld).current = s.current ∧
        (notePass (s.setTeam sid u) sid m.cycles 1 yld).team? sid = some t' ∧ t'.more = u.more ∧ SameRegs t t' [] ∧ t'.pc = t.pc ∧
        SameBytes s (notePass (s.setTeam sid u) sid m.cycles 1 yld) ∧
        ((notePass (s.setTeam sid u) sid m.cycles 1 yld).core t.coreId).busyUntil = s.clock + m.cycles := by
    intro u yld hcore hregs hpc
    have hu := State.team?_setTeam s sid u
    obtain ⟨i, hi⟩ := notePass_spec hu m.cycles 1 yld
    obtain ⟨hmem, hspad, hbase, hl1, hhome, hspec⟩ := notePass_bytes (s.setTeam sid u) sid m.cycles 1 yld
    obtain ⟨hs, hv, hp, hmask⟩ := hregs
    refine ⟨_, notePass_current .., hi, rfl, ⟨hs, hv, hp, hmask⟩, hpc, ⟨fun k => ?_, spadByte_congr hspad hbase, hl1, hhome, hspec⟩, ?_⟩
    · rw [hmem]
      rfl
    · rw [← hcore]
      exact notePass_busyUntil hu ..
  unfold nextPass
  rw [h]
  simp only [hm]
  split
  · exact hnoted _ _ rfl (.of_fields rfl rfl rfl rfl rfl) rfl
  · exact hnoted _ _ rfl (.of_fields rfl rfl rfl rfl rfl) rfl

/-! ## A pending trap (23 R358) -/

theorem execPendingTrapTaken_eq {s : State} {sid : Nat} {t : Team} (h : s.team? sid = some t) (hr : trapReady s t = true) :
    exec (.pendingTrapTaken sid) s = .next (takePending s sid) := by
  show execPendingTrapTaken sid s = _
  simp [execPendingTrapTaken, h, hr]

/-- A trap of a team outside a handler and outside a region, where its context has a handler. -/
theorem takeTrap_handler {s : State} {sid : Nat} {t : Team} {entry : Word} (h : s.team? sid = some t) (hh : HasHandler s t entry)
    (hr : t.region = none) (hi : t.inTrap = false) (cause : BitVec 9) (tval : Word) (fmask : Mask) (tpc : Word) :
    ∃ t', (takeTrap s sid cause tval fmask tpc).team? sid = some t' ∧ InHandler t' entry cause tval (fmask &&& t.lanes) tpc ∧
      t'.pend = t.pend ∧ SameRegs t t' [] ∧ SameBytes s (takeTrap s sid cause tval fmask tpc) := by
  obtain ⟨hfail, c, hc, hentry, hne⟩ := hh
  subst hentry
  have hteam : ∀ f : Core → Core, (s.onCore t.coreId f).team? sid = some t := fun _ => h
  have hctx : ∀ f : Core → Core, (s.onCore t.coreId f).ctx? t.ctx = some c := fun _ => hc
  unfold takeTrap
  simp only [h, hfail, hi, hr, Option.isSome_none, Bool.false_eq_true, if_false, hteam, hctx, Option.map_some, if_neg hne]
  exact ⟨_, State.team?_setTeam .., ⟨rfl, rfl, rfl, rfl, rfl, rfl⟩, rfl, .of_fields rfl rfl rfl rfl rfl, fun _ => rfl, fun _ => rfl, rfl, rfl, rfl⟩

theorem execPendingTrapTaken_spec {s : State} {sid : Nat} {t : Team} {p : PendTrap} {entry : Word} (h : s.team? sid = some t)
    (hr : trapReady s t = true) (hp : nextPending t = some p) (hh : HasHandler s t entry) (hreg : t.region = none) :
    ∃ s' t', exec (.pendingTrapTaken sid) s = .next s' ∧ s'.team? sid = some t' ∧ InHandler t' entry p.cause p.tval 0 t.pc ∧
      t'.pend = t.pend.erase p ∧ SameRegs t t' [] ∧ SameBytes s s' := by
  have hi : t.inTrap = false := by
    have hdue : trapDue t = true := by
      unfold trapReady at hr
      simp only [Bool.and_eq_true] at hr
      exact hr.1.1.1.1
    unfold trapDue at hdue
    simp only [Bool.and_eq_true, Bool.not_eq_true'] at hdue
    exact hdue.1.2
  have htaken : takePending s sid = takeTrap (s.setTeam sid { t with pend := t.pend.erase p }) sid p.cause p.tval 0 t.pc := by
    unfold takePending
    simp only [h, hp]
  obtain ⟨t', hteam, hin, hpend, hregs, hbytes⟩ := takeTrap_handler (State.team?_setTeam s sid { t with pend := t.pend.erase p })
    (entry := entry) hh hreg hi p.cause p.tval 0 t.pc
  rw [show (0 : Mask) &&& _ = 0 from BitVec.zero_and] at hin
  obtain ⟨hs, hv, hpr, hmask⟩ := hregs
  obtain ⟨hm, hsp, hl, hho, hsc⟩ := hbytes
  exact ⟨_, t', (execPendingTrapTaken_eq h hr).trans (congrArg _ htaken), hteam, hin, hpend, ⟨hs, hv, hpr, hmask⟩, hm, hsp, hl, hho, hsc⟩

end Sys2Proof.Machine
end

section
/-! DEVICE_STEPS (O51): the statement, clause by clause. -/

namespace Sys2Proof.Machine

/-- Settles O51: each device step by the lemma that says what it does. -/
theorem deviceSteps : Obligations.DeviceSteps := by
  unfold Obligations.DeviceSteps
  intro s
  refine ⟨?_, ?_, ?_, ?_, ?_, ?_, ?_, ?_, ?_, ?_, ?_, ?_, ?_, ?_, ?_, ?_, ?_, ?_, ?_, ?_, ?_⟩
  · intro ch b w hb
    obtain ⟨p, hx, hp⟩ := execBankRefreshDue_spec w hb
    exact ⟨_, hx, hp, rfl⟩
  · intro a b n row line hb hr
    obtain ⟨l, e, hx⟩ := execEcsScrubError_correctable hb hr
    exact ⟨_, hx, ⟨fun _ => rfl, fun _ => rfl, rfl, rfl, rfl⟩, (Tab.get_set ..).trans (if_pos rfl)⟩
  · intro a b n row line hb hr hl
    exact execEcsScrubError_uncorrectable hb hr hl
  · intro l0 l1 r fw h
    exact execPowerGood_done h l0 l1 r fw
  · intro k code l0 l1 r fw h hk hk'
    exact execPowerGood_stops h hk hk' code _ _
  · intro l hup hctx hd
    exact dropLaunch_firmware hup hctx hd
  · exact execThermalPowerLimit_spec
  · intro h
    exact ⟨execJunctionOver110c_spec h, hot_places_none (s := { s with hot := true }) rfl⟩
  · exact execJunctionBelow100c_spec
  · exact execInputPowerLoss_spec s
  · intro ctx x h hf
    obtain ⟨hbytes, hlaunches, hquotas⟩ := endResidency_spec h
    exact ⟨_, _, execPhaseBoundaryPreempt_eq h hf, endResidency_ctx? h, rfl, hbytes, hlaunches, hquotas⟩
  · intro ctx x s1 h hf ha hs hx hreply hsave hfit hfree hc
    obtain ⟨x', hx', hstop, hres⟩ := beginPreempt_stops hreply hsave hfit hfree hc
    refine ⟨_, x', execForcedPreempt_begins h hf ha hs hx, hx', hstop, hres, fun sid t _ htc hp hm hq hmid => ?_⟩
    exact stopped_issues_none (htc ▸ hx') hstop hp hm hq hmid sid
  · intro ctx x h hf ha hs hx hareas
    rw [execForcedPreempt_begins h hf ha hs hx, beginPreempt_without_areas hareas]
  · intro ctx x s1 h hf ha hs hx hruns hw hwrite hc
    obtain ⟨x', hx', hstop, hlen, hgone⟩ := saveContext_spec (x := x) hw hwrite hc
    exact ⟨_, x', execForcedPreempt_saves h hf ha hs hx hruns, hx', hstop, hlen, hgone⟩
  · intro ctx x s1 h hr ha hhot hwin hres hc
    exact execContextResume_spec h hr ha hhot hwin hres hc
  · intro sid t s1 i h hr hf h1
    exact execInstructionFetch_spec h hr hf h1
  · intro k sid t hcur hsel hdeq h hm
    exact execPassIssueSelect_first hcur hsel hdeq h hm
  · intro k sid t m hcur hsel hdeq h hm
    obtain ⟨hteam, hclock, hcurrent, hplaced⟩ := placeYielded_spec s k sid
    obtain ⟨t', hc, ht', hmore, hregs, hpc, hbytes, hbusy⟩ := nextPass_spec (hteam.trans h) hm
    exact ⟨_, t', execPassIssueSelect_later hcur hsel hdeq h hm, hc.trans (hcurrent.trans hcur), ht', hmore, hregs, hpc,
      hplaced.trans hbytes, hbusy.trans (congrArg (· + m.cycles) hclock)⟩
  · intro k h
    exact execPassIssueSelect_behind h
  · intro k sid h
    exact selectTeam_spec h
  · intro sid t p entry h hr hp hh hreg
    exact execPendingTrapTaken_spec h hr hp hh hreg

end Sys2Proof.Machine
end

section
/-! CONTROL, MASKS AND PREDICATES (O8, O10, O11): what the instructions of 06 R117 and R120-R123 leave. -/

namespace Sys2Proof.Machine

/-! ## Scalar-side instructions that write registers (05 R85) -/

/-- A team's registers are no bytes. -/
theorem setTeam_sameBytes (s : State) (sid : Nat) (t : Team) : SameBytes s (s.setTeam sid t) :=
  ⟨fun _ => rfl, fun _ => rfl, rfl, rfl, rfl⟩

/-- An instruction that raises no event owes none (08 R158). -/
theorem oweEvents_zero (s : State) (sid : Nat) : oweEvents s sid (oneEach 0) = s := by
  rw [oweEvents, if_pos]
  simp [oneEach]

section
variable {i : Instr} {h : Hdr} {s : State} {sid : Nat} {t : Team} {body : Nat → View → State → Done}

/-- One that writes its team's registers alone and raises no event. -/
theorem issueScalar_wrote {t1 : Team} (r : Runs i h s sid t)
    (hb : body sid (viewAtIssue i s sid t) (atIssue i s sid t) = Done.of (atIssue i s sid t) sid t1 1) :
    issueScalar i h s body = .next (wrote i s sid t t1 0 1) := by
  rw [issueScalar_on r.toClear r.guard, hb, wrote, oweEvents_zero]
  rfl

/-- The same for one that gives a scalar result. -/
theorem issueScalar_wroteS {d : SIdx} {v : Word} (r : Runs i h s sid t)
    (hb : body sid (viewAtIssue i s sid t) (atIssue i s sid t) =
      scalarResult sid (viewAtIssue i s sid t) (atIssue i s sid t) d v 0) :
    issueScalar i h s body = .next (wroteS i s sid t d v 0) := by
  rw [issueScalar_on r.toClear r.guard, hb]
  rfl

end

/-! ## The counted branch (06 R117) -/

/-- Settles O8: the guard decides whether it acts (`issueScalar_on`, `issueScalar_off`), and the decremented register whether it
branches. -/
theorem countedLoop : Obligations.CountedLoop := by
  unfold Obligations.CountedLoop
  intro h off d s sid t
  refine ⟨fun r => ?_, fun c hg => ?_⟩
  · show execBdec h d off s = _
    rw [execBdec, issueScalar_on r.toClear r.guard]
    dsimp only [viewAtIssue_t]
    split
    · rfl
    · rfl
  · show execBdec h d off s = _
    exact issueScalar_off c hg _

/-! ## Bits of a mask (06 R121) -/

theorem foldl_count_eq (p : Nat → Bool) (l : List Nat) (a : Nat) :
    l.foldl (fun a i => if p i then a + 1 else a) a = a + l.countP p := by
  induction l generalizing a with
  | nil => rfl
  | cons x r ih =>
    rw [List.foldl_cons, ih, List.countP_cons]
    split <;> omega

theorem popCount_eq {n : Nat} (x : BitVec n) : popCount x = (List.range n).countP (fun l => x.getLsbD l) := by
  rw [popCount, foldl_count_eq, Nat.zero_add]

theorem lowestFrom_eq {n : Nat} (x : BitVec n) (i k : Nat) :
    lowestFrom x i k = (List.range' i k).find? (fun l => x.getLsbD l) := by
  induction k generalizing i with
  | zero => rfl
  | succ k ih =>
    rw [lowestFrom, ih, List.range'_succ, List.find?_cons]
    cases x.getLsbD i <;> rfl

/-- The lowest set bit is the first lane that has it. -/
theorem lowest_eq {n : Nat} (x : BitVec n) : lowest x = (List.range n).find? (fun l => x.getLsbD l) := by
  rw [lowest, lowestFrom_eq, List.range_eq_range']

/-- Settles O10: each writes its register or the mask and raises no event (`issueScalar_wrote`); the count and the search are those of
the mask's bits (`popCount_eq`, `lowest_eq`). -/
theorem maskInstructions : Obligations.MaskInstructions := by
  unfold Obligations.MaskInstructions
  intro h a d n s sid t
  refine ⟨fun r => ?_, fun r => ?_, fun r => ?_, fun r => ?_, fun r => ?_, fun r => ?_⟩
  · show execMsave h d s = _
    exact issueScalar_wrote r rfl
  · show execMset h a s = _
    exact issueScalar_wrote r rfl
  · show execMand h a s = _
    exact issueScalar_wrote r rfl
  · show execMandn h a s = _
    exact issueScalar_wrote r rfl
  · show execMcount h n a s = _
    rw [← popCount_eq]
    exact issueScalar_wroteS r rfl
  · show execMfirst h n a s = _
    rw [← lowest_eq]
    exact issueScalar_wroteS r rfl

end Sys2Proof.Machine
end

section
/-! PREDICATES (O11): predicate logic under an enable, and words of 32 lanes (06 R122, R123). -/

namespace Sys2Proof.Machine

/-! ## Predicate registers (05 R77; 06 R103) -/

theorem Team.pr_setP (t : Team) (n k : Nat) (x : Mask) :
    (t.setP n x).pr k = if k = n ∧ n ≠ 31 then x &&& t.lanes else t.pr k := by
  unfold Team.setP
  split
  · simp [*]
  · unfold Team.pr
    split
    · rw [if_neg (by omega)]
      rfl
    · rw [Tab.get_set]
      exact if_congr (by simp [*]) rfl rfl

/-- Writing a predicate changes only the predicates. -/
theorem Team.setP_eq (t : Team) (n : Nat) (x : Mask) : ∃ m, t.setP n x = { t with p := m } := by
  unfold Team.setP
  split
  · exact ⟨_, rfl⟩
  · exact ⟨_, rfl⟩

/-! ## Results under an enable (06 R109, R113) -/

section
variable {i : Instr} {h : Hdr} {s : State} {sid : Nat} {t : Team} {d : PIdx} {f : View → Mask}

/-- A predicate operation writes the enabled lanes and leaves the others. -/
theorem predLogic_written (r : PredRuns i s sid t (enableOf i h s sid t))
    (hx : exec i s = issue i s (predLogic h d f)) :
    PredWritten i s sid t (enableOf i h s sid t) d (fun l => (f (viewAtIssue i s sid t)).getLsbD l) := by
  have hen : (viewAtIssue i s sid t).enable h ≠ 0 := r.some
  rw [issue_clear r.toClear, predLogic, if_neg hen, Done.of, finish_fall] at hx
  generalize hres : (viewAtIssue i s sid t).t.setP d.toNat _ = t1 at hx
  obtain ⟨m, hm⟩ := Team.setP_eq (teamAtIssue i s sid t) d.toNat
    (((teamAtIssue i s sid t).pr d.toNat &&& ~~~ (viewAtIssue i s sid t).enable h) |||
      (f (viewAtIssue i s sid t) &&& (viewAtIssue i s sid t).enable h))
  have ht1 : t1 = { teamAtIssue i s sid t with p := m } := hres.symm.trans hm
  obtain ⟨t', hteam, hpc, hs, hv, hp, hw, hmask, -, hspecial⟩ := fallen_lift (i := i) (s := s) (t := t) (n := 1)
    (State.team?_setTeam (atIssue i s sid t) sid t1)
  have hpr : ∀ k, t'.pr k = t1.pr k := fun k => by simp only [Team.pr, Team.lanes, hp, hw]
  refine ⟨_, t', hx, hteam, hpc, fun l hl hd => ?_, ⟨fun k _ => ?_, fun k _ => ?_, fun k hk => ?_, fun _ => ?_⟩, ?_, ?_, fun k hk => ?_⟩
  · have hd' : d.toNat ≠ 31 := fun e => hd (BitVec.eq_of_toNat_eq e)
    have hlt : l < 1024 := hl.trans_le r.width
    rw [hpr, ← hres, Team.pr_setP, if_pos ⟨rfl, hd'⟩, BitVec.getLsbD_and, viewAtIssue_t, getLsbD_lanes r.width, decide_eq_true hl,
      Bool.and_true, BitVec.getLsbD_or, BitVec.getLsbD_and, BitVec.getLsbD_and, BitVec.getLsbD_not, decide_eq_true hlt, enableOf]
    cases ((viewAtIssue i s sid t).enable h).getLsbD l <;> simp
  · rw [Team.sr, hs, ht1]
    rfl
  · rw [Team.vr, hv, ht1]
    rfl
  · have hkd : k ≠ d.toNat := by simpa using hk
    rw [hpr, ← hres, Team.pr_setP, if_neg (fun e => hkd e.1)]
    rfl
  · rw [hmask, ht1]
  · refine SameSpecial.trans ?_ hspecial
    rw [ht1]
    exact SameSpecial.of_held (by constructor <;> and_intros <;> intros <;> rfl) rfl
  · exact fallen_same (setTeam_sameBytes ..) _
  · rw [fallen, retire_other _ _ _ _ _ _ _ hk, State.team?_setTeam_other _ _ hk]

theorem PredWritten.congr {val val' : Nat → Bool} {en : Mask} (hw : PredWritten i s sid t en d val)
    (hv : ∀ l, l < (teamAtIssue i s sid t).w → val l = val' l) : PredWritten i s sid t en d val' := by
  obtain ⟨s', t', hx, hteam, hpc, hl, hrest⟩ := hw
  exact ⟨s', t', hx, hteam, hpc, fun l hlt hd => (hl l hlt hd).trans (by rw [hv l hlt]), hrest⟩

end

/-! ## Words of the mask (06 R103, R123) -/

/-- The number whose bits are the lanes below `w` with a property. -/
def laneBits (p : Nat → Bool) (w : Nat) : Nat := (List.range w).foldl (fun a l => if p l then a + 2 ^ l else a) 0

theorem maskOf_eq (w : Nat) (p : Nat → Bool) : maskOf w p = BitVec.ofNat 1024 (laneBits p w) := rfl

theorem laneBits_succ (p : Nat → Bool) (w : Nat) :
    laneBits p (w + 1) = if p w then laneBits p w + 2 ^ w else laneBits p w := by
  rw [laneBits, List.range_succ, List.foldl_append]
  rfl

theorem laneBits_lt (p : Nat → Bool) (w : Nat) : laneBits p w < 2 ^ w := by
  induction w with
  | zero => simp [laneBits]
  | succ w ih =>
    rw [laneBits_succ]
    split <;> omega

theorem testBit_laneBits (p : Nat → Bool) (w l : Nat) : (laneBits p w).testBit l = (decide (l < w) && p l) := by
  induction w with
  | zero => simp [laneBits]
  | succ w ih =>
    have hlt := laneBits_lt p w
    rw [laneBits_succ]
    obtain h | rfl | h := Nat.lt_trichotomy l w
    · have hs : l < w + 1 := by omega
      cases p w with
      | true => rw [if_pos rfl, Nat.add_comm, Nat.testBit_two_pow_add_gt h, ih, decide_eq_true h, decide_eq_true hs]
      | false => rw [if_neg Bool.false_ne_true, ih, decide_eq_true h, decide_eq_true hs]
    · cases hp : p l with
      | true => simp [Nat.add_comm, Nat.testBit_two_pow_add_eq, Nat.testBit_lt_two_pow hlt]
      | false => simp [Nat.testBit_lt_two_pow hlt]
    · have hbig : laneBits p (w + 1) < 2 ^ l := (laneBits_lt p (w + 1)).trans_le (Nat.pow_le_pow_right (by decide) h)
      rw [laneBits_succ] at hbig
      rw [Nat.testBit_lt_two_pow hbig, decide_eq_false (by omega), Bool.false_and]

theorem getLsbD_maskOf {w l : Nat} (p : Nat → Bool) (hl : l < 1024) : (maskOf w p).getLsbD l = (decide (l < w) && p l) := by
  rw [maskOf_eq, BitVec.getLsbD_ofNat, testBit_laneBits, decide_eq_true hl, Bool.true_and]

/-- An old value of a mask, as lane `l` reads it in a cycle. -/
def oldLane (l at_ : Nat) (e : RegName × OldVal × Nat) : Option Bool :=
  match e with
  | (.mw k, .m o, left) => if l / 32 = k && decide (at_ < left) then some (o.getLsbD l) else none
  | (_, .m o, left) => if at_ < left then some (o.getLsbD l) else none
  | _ => none

/-- A lane of a mask that may be read early. -/
theorem getLsbD_blend (vw : View) (r : RegName) (what : Nat) (at_ : Nat → Nat) (new : Mask) {l : Nat} (hw : l < vw.t.w) (hl : l < 1024) :
    (vw.blend r what at_ new).getLsbD l =
      freeOld vw.seed what l (new.getLsbD l) ((vw.early.filter (fun e => e.1.meets r)).filterMap (oldLane l (at_ l))) := by
  unfold View.blend
  split
  · rename_i he
    rw [he]
    rfl
  · rw [getLsbD_maskOf _ hl, decide_eq_true hw, Bool.true_and]
    rfl

/-- Of the old values of the mask, those of a word's own entries and of the whole mask are what its lanes read. -/
theorem oldLanes_word (es : List (RegName × OldVal × Nat)) (l at_ : Nat) :
    (es.filter (fun e => e.1.meets (.mw (l / 32)))).filterMap (oldLane l at_) =
      (es.filter (fun e => e.1.meets .mask)).filterMap (oldLane l at_) := by
  rw [List.filterMap_filter, List.filterMap_filter]
  refine List.filterMap_congr (fun e _ => ?_)
  obtain ⟨r, o, left⟩ := e
  cases r with
  | mw j =>
    by_cases hj : j = l / 32
    · simp [RegName.meets, hj]
    · cases o <;> simp [RegName.meets, oldLane, hj, Ne.symm hj]
  | mask => simp [RegName.meets]
  | s n => simp [RegName.meets]
  | v n => simp [RegName.meets]
  | p n => simp [RegName.meets]

/-- A word of the mask is that of the whole mask, also where it is read early. -/
theorem maskWordAt_eq (vw : View) {k : Nat} (hk : k < 32) (hw : k < vw.t.w / 32) : vw.maskWordAt k = vw.mask.extractLsb' (32 * k) 32 := by
  unfold View.maskWordAt maskWord View.mask
  apply BitVec.eq_of_getLsbD_eq
  intro j hj
  have hword : (32 * k + j) / 32 = k := by omega
  have hold := oldLanes_word vw.early (32 * k + j) 0
  rw [hword] at hold
  rw [BitVec.getLsbD_extractLsb', BitVec.getLsbD_extractLsb', getLsbD_blend vw _ _ _ _ (by omega) (by omega),
    getLsbD_blend vw _ _ _ _ (by omega) (by omega), hold]

/-- A word that an instruction names lies below the team's width (06 R123). -/
theorem Clear.word_lt {h : Hdr} {n : SIdx} {k : PIdx} {s : State} {sid : Nat} {t : Team} (c : Clear (.pbitsGet h n (.mw k)) s sid t) :
    k.toNat < (teamAtIssue (.pbitsGet h n (.mw k)) s sid t).w / 32 := by
  obtain ⟨m, -, ht⟩ := c.team
  have hc := c.checked
  unfold checkWord at hc
  simp only [checkOperand] at hc
  rw [ht]
  by_contra hk
  simp [hk] at hc

/-! ## The instructions -/

/-- Settles O11: the logic lane by lane (`predLogic_written`), and `pbits` as one register written, where a word of the mask that is
read early reads as that of the mask does (`maskWordAt_eq`). -/
theorem predicateInstructions : Obligations.PredicateInstructions := by
  unfold Obligations.PredicateInstructions
  intro h a b d n k s sid t
  refine ⟨fun r => ?_, fun r => ?_, fun r => ?_, fun r => ?_, fun r => ?_, fun r => ?_, fun r => ?_, fun r => ?_, fun r => ?_⟩
  · exact (predLogic_written r (rfl : _ = execPand h d a b s)).congr (fun l _ => BitVec.getLsbD_and ..)
  · exact (predLogic_written r (rfl : _ = execPor h d a b s)).congr (fun l _ => BitVec.getLsbD_or ..)
  · exact (predLogic_written r (rfl : _ = execPxor h d a b s)).congr (fun l _ => BitVec.getLsbD_xor ..)
  · refine (predLogic_written r (rfl : _ = execPnot h d a s)).congr (fun l hl => ?_)
    rw [BitVec.getLsbD_not, decide_eq_true (hl.trans_le r.width), Bool.true_and]
  · exact (predLogic_written r (rfl : _ = execPmov h d a s)).congr (fun l _ => rfl)
  · show execPbitsGet h n (.p a k) s = _
    exact issueScalar_wroteS r rfl
  · show execPbitsGet h n (.mw d) s = _
    rw [← maskWordAt_eq _ d.isLt r.toClear.word_lt]
    exact issueScalar_wroteS r rfl
  · show execPbitsPut h (.p d k) n s = _
    exact issueScalar_wrote r rfl
  · show execPbitsPut h (.mw d) n s = _
    exact issueScalar_wrote r rfl

end Sys2Proof.Machine
end

section
/-! What an instruction's own bookkeeping leaves, said once: one team has moved on, and no byte, no context, no region and no other
team has changed (04 R69; 05 R86). -/

namespace Sys2Proof.Machine

theorem SameBytes.refl (s : State) : SameBytes s s := ⟨fun _ => rfl, fun _ => rfl, rfl, rfl, rfl⟩

/-- From `s` to `e` team `sid` has become `t`, and no byte, context, region or other team has changed. -/
structure Leaves (s e : State) (sid : Nat) (t : Team) : Prop where
  bytes   : SameBytes s e
  ctxs    : e.ctxs = s.ctxs
  regions : e.regions = s.regions
  team    : e.team? sid = some t
  other   : ∀ k, k ≠ sid → e.team? k = s.team? k

namespace Leaves

theorem refl {s : State} {sid : Nat} {t : Team} (h : s.team? sid = some t) : Leaves s s sid t :=
  ⟨.refl s, rfl, rfl, h, fun _ _ => rfl⟩

theorem trans {s e f : State} {sid : Nat} {t u : Team} (h : Leaves s e sid t) (g : Leaves e f sid u) : Leaves s f sid u :=
  ⟨h.bytes.trans g.bytes, g.ctxs.trans h.ctxs, g.regions.trans h.regions, g.team, fun k hk => (g.other k hk).trans (h.other k hk)⟩

theorem setTeam (s : State) (sid : Nat) (t : Team) : Leaves s (s.setTeam sid t) sid t :=
  ⟨setTeam_sameBytes .., rfl, rfl, State.team?_setTeam .., fun _ hk => State.team?_setTeam_other _ _ hk⟩

theorem onTeam {s : State} {sid : Nat} {t : Team} (h : s.team? sid = some t) (f : Team → Team) :
    Leaves s (s.onTeam sid f) sid (f t) := by
  rw [State.onTeam_some h]
  exact setTeam s sid (f t)

/-- A change of the cores, of counters and of the agenda leaves every team as it is. -/
theorem of_eq {s e : State} {sid : Nat} {t : Team} (h : s.team? sid = some t) {c : Tab Core} {d : Tab Die} {v : Tab Pmc} {a : List Instr}
    {k : Option Nat} {o f : Nat}
    (he : e = { s with cores := c, dieTab := d, ventPmc := v, agenda := a, current := k, order := o, fresh := f }) :
    Leaves s e sid t := by
  subst he
  exact ⟨⟨fun _ => rfl, fun _ => rfl, rfl, rfl, rfl⟩, rfl, rfl, h, fun _ _ => rfl⟩

theorem pmcCount {s : State} {sid : Nat} {t : Team} (h : s.team? sid = some t) (p : PmcPlace) (ev c n : Nat) :
    Leaves s (pmcCount s p ev c n) sid t := by
  obtain ⟨_, _, _, _, he⟩ := State.pmcCount_eq s p ev c n
  exact of_eq h he

theorem notePass {s : State} {sid : Nat} {t : Team} (h : s.team? sid = some t) (cycles n : Nat) (yld : Bool) :
    ∃ k, Leaves s (notePass s sid cycles n yld) sid { t with issued := k } := by
  obtain ⟨k, hk⟩ := notePass_spec h cycles n yld
  obtain ⟨_, _, _, _, _, _, he⟩ := notePass_eq s sid cycles n yld
  refine ⟨k, ?_, ?_, ?_, hk, fun _ => notePass_other _ _ _ _ _⟩
  · obtain ⟨h1, h2, h3, h4, h5, h6⟩ := notePass_bytes s sid cycles n yld
    exact ⟨fun _ => by rw [h1], spadByte_congr h2 h3, h4, h5, h6⟩
  · rw [he]
  · rw [he]

end Leaves

/-! ## Traps (05 R86; 23 R359) -/

section
variable {i : Instr} {s : State} {sid : Nat} {t : Team} (h : s.team? sid = some t)
include h

/-- The issue cycles of an instruction that traps concern its team's own account of issuing. -/
theorem noteTrap_leaves (i : Instr) : ∃ r k, Leaves s (noteTrap i sid s) sid { t with readyAt := r, issued := k } := by
  unfold noteTrap
  rw [h]
  have hput := Leaves.setTeam s sid { t with readyAt := s.clock + passCycles i + (hdrIssue i).1 }
  have hcount := Leaves.pmcCount hput.team (.core t.coreId) 4 t.ctx 1
  obtain ⟨k, hpass⟩ := Leaves.notePass hcount.team (passCycles i) 1 (hdrIssue i).2
  exact ⟨_, k, (hput.trans hcount).trans hpass⟩

end

/-- Counting puts nothing before what is due. -/
theorem pmcCount_agenda (s : State) (p : PmcPlace) (ev ctx n : Nat) : ∃ later, (pmcCount s p ev ctx n).agenda = s.agenda ++ later := by
  have hadd : ∀ k, ∃ later, (pmcAdd p ev ctx n k s).agenda = s.agenda ++ later := by
    intro k
    induction k with
    | zero => exact ⟨[], (List.append_nil _).symm⟩
    | succ k ih =>
      obtain ⟨later, hl⟩ := ih
      unfold pmcAdd
      dsimp only
      split
      · exact ⟨later, hl⟩
      split
      · obtain ⟨_, _, _, hset⟩ := State.setPmc_eq (pmcAdd p ev ctx n k s) p _
        rw [hset]
        split
        · exact ⟨later ++ [.counterOverflow p k], by rw [← List.append_assoc, ← hl]; rfl⟩
        · exact ⟨later, hl⟩
      · exact ⟨later, hl⟩
  unfold pmcCount
  split
  · exact ⟨[], (List.append_nil _).symm⟩
  · exact hadd _

theorem notePass_agenda (s : State) (sid cycles n : Nat) (yld : Bool) :
    ∃ later, (notePass s sid cycles n yld).agenda = s.agenda ++ later := by
  unfold notePass
  split
  · exact ⟨[], (List.append_nil _).symm⟩
  · exact pmcCount_agenda ..

theorem noteTrap_agenda (i : Instr) (sid : Nat) (s : State) : ∃ later, (noteTrap i sid s).agenda = s.agenda ++ later := by
  unfold noteTrap
  split
  · rename_i t _
    obtain ⟨l1, h1⟩ := pmcCount_agenda (s.setTeam sid { t with readyAt := s.clock + passCycles i + (hdrIssue i).1 }) (.core t.coreId) 4 t.ctx 1
    obtain ⟨l2, h2⟩ := notePass_agenda (pmcCount (s.setTeam sid { t with readyAt := s.clock + passCycles i + (hdrIssue i).1 })
      (.core t.coreId) 4 t.ctx 1) sid (passCycles i) 1 (hdrIssue i).2
    exact ⟨l1 ++ l2, by rw [← List.append_assoc, h2, h1]; rfl⟩
  · exact ⟨[], (List.append_nil _).symm⟩

/-! ## Region aborts (19 R323, R326) -/

/-- An abort changes teams, regions and their records, and counters. -/
structure Aborted (s s' : State) : Prop where
  rest : s' = { s with teams := s'.teams, cores := s'.cores, dieTab := s'.dieTab, ventPmc := s'.ventPmc, agenda := s'.agenda,
                       regions := s'.regions, tracked := s'.tracked, spec := s'.spec }

namespace Aborted

theorem refl (s : State) : Aborted s s := ⟨rfl⟩

theorem trans {s s1 s2 : State} (h : Aborted s s1) (g : Aborted s1 s2) : Aborted s s2 where
  rest := g.rest.trans (congrArg (fun x : State => { x with
    teams := s2.teams, cores := s2.cores, dieTab := s2.dieTab, ventPmc := s2.ventPmc, agenda := s2.agenda, regions := s2.regions,
    tracked := s2.tracked, spec := s2.spec }) h.rest)

theorem foldl {α : Type} {f : State → α → State} (hf : ∀ s a, Aborted s (f s a)) (l : List α) (s : State) : Aborted s (l.foldl f s) := by
  induction l generalizing s with
  | nil => exact refl s
  | cons a r ih => exact (hf s a).trans (ih (f s a))

section
variable {s s' : State} (h : Aborted s s')
include h

theorem mem : s'.mem = s.mem := (congrArg State.mem h.rest).trans rfl
theorem spad : s'.spad = s.spad := (congrArg State.spad h.rest).trans rfl
theorem spadBase : s'.spadBase = s.spadBase := (congrArg State.spadBase h.rest).trans rfl
theorem l1 : s'.l1 = s.l1 := (congrArg State.l1 h.rest).trans rfl
theorem homes : s'.homes = s.homes := (congrArg State.homes h.rest).trans rfl
theorem ctxs : s'.ctxs = s.ctxs := (congrArg State.ctxs h.rest).trans rfl
theorem rt : s'.rt = s.rt := (congrArg State.rt h.rest).trans rfl
theorem wq : s'.wq = s.wq := (congrArg State.wq h.rest).trans rfl
theorem wfaults : s'.wfaults = s.wfaults := (congrArg State.wfaults h.rest).trans rfl
theorem windows : s'.windows = s.windows := (congrArg State.windows h.rest).trans rfl

theorem sameMemory : SameMemory s s' := .of_eq h.mem h.spad h.spadBase

end

end Aborted

theorem pmcCount_aborted (s : State) (p : PmcPlace) (ev ctx n : Nat) : Aborted s (pmcCount s p ev ctx n) := by
  obtain ⟨_, _, _, _, h⟩ := State.pmcCount_eq s p ev ctx n
  rw [h]
  exact ⟨rfl⟩

theorem abortTeam_aborted (s : State) (r : Region) (c : BitVec 9) (v : BitVec 32) : Aborted s (abortTeam s r c v) := by
  unfold abortTeam
  split
  · exact .refl s
  split
  · exact .refl s
  split
  · exact .refl s
  split
  · dsimp only
    rename_i t _ _ _ w _ _
    obtain h | ⟨u, h⟩ := landToken_eq_or (s := s.setTeam r.sid { t with region := none, attempts := min (t.attempts + 1) 62 })
      r.sid r.tkey w.tok w.reg (regionToken c w.attempt w.slot v)
    · rw [h]
      exact ⟨rfl⟩
    · rw [h]
      exact ⟨rfl⟩
  · exact ⟨rfl⟩

theorem abortDepths_aborted (k : Nat) (s : State) (w : List (Nat × BitVec 9 × BitVec 32)) : Aborted s (abortDepths k s w) := by
  induction k generalizing s w with
  | zero => exact .refl s
  | succ k ih =>
    unfold abortDepths
    split
    · exact .refl s
    · refine Aborted.trans (.foldl (fun s x => ?_) ..) (ih ..)
      split
      · exact .refl s
      · exact ((abortTeam_aborted ..).trans ⟨rfl⟩).trans (pmcCount_aborted ..)

theorem abortRegion_aborted (s : State) (slot : Nat) (c : BitVec 9) (v : BitVec 32) : Aborted s (abortRegion s slot c v) := by
  unfold abortRegion
  split
  · exact .refl s
  split
  · exact .refl s
  · exact abortDepths_aborted ..

theorem externalWrite_aborted (s : State) (ctx line : Nat) : Aborted s (externalWrite s ctx line) := by
  unfold externalWrite
  split
  · exact .refl s
  · exact .foldl (fun s k => abortRegion_aborted s k 0x163 0) ..

/-! ## The team whose region aborts -/

/-- A team no region of which is ending, as it is but for the region that it sees. -/
structure OpenOnly (s : State) (sid : Nat) (t : Team) : Prop where
  opens : ∀ r ∈ s.regions, r.sid = sid → r.ending = false
  team  : ∃ v, s.team? sid = some { t with region := v }

theorem OpenOnly.abortTeam {s : State} {sid : Nat} {t : Team} (h : OpenOnly s sid t) {r : Region} (hr : r ∈ s.regions) (c : BitVec 9)
    (x : BitVec 32) : OpenOnly (abortTeam s r c x) sid t := by
  obtain ⟨hopen, v, hteam⟩ := h
  unfold Machine.abortTeam
  split
  · exact ⟨hopen, v, hteam⟩
  rename_i u hu
  split
  · exact ⟨hopen, v, hteam⟩
  split
  · exact ⟨hopen, v, hteam⟩
  rename_i w _
  by_cases hsid : r.sid = sid
  · rw [hopen r hr hsid, if_neg Bool.false_ne_true]
    rw [hsid, hteam] at hu
    cases hu
    exact ⟨hopen, _, by rw [hsid]; exact State.team?_setTeam ..⟩
  · have hother : ∀ u, (s.setTeam r.sid u).team? sid = s.team? sid := fun u => State.team?_setTeam_other s u (Ne.symm hsid)
    split
    · dsimp only
      obtain h | ⟨u', h⟩ := landToken_eq_or (s := s.setTeam r.sid { u with region := none, attempts := min (u.attempts + 1) 62 })
        r.sid r.tkey w.tok w.reg (regionToken c w.attempt w.slot x)
      · rw [h]
        exact ⟨hopen, v, (hother _).trans hteam⟩
      · rw [h]
        exact ⟨hopen, v, (State.team?_setTeam_other _ _ (Ne.symm hsid)).trans ((hother _).trans hteam)⟩
    · exact ⟨hopen, v, (hother _).trans hteam⟩

theorem OpenOnly.dropRegion {s : State} {sid : Nat} {t : Team} (h : OpenOnly s sid t) (slot : Nat) : OpenOnly (dropRegion s slot) sid t := by
  obtain ⟨hopen, hteam⟩ := h
  refine ⟨fun r hr hsid => ?_, hteam⟩
  obtain ⟨q, hq, rfl⟩ := List.mem_map.mp hr
  exact hopen q (List.mem_of_mem_filter hq) hsid

theorem OpenOnly.pmcCount {s : State} {sid : Nat} {t : Team} (h : OpenOnly s sid t) (p : PmcPlace) (ev ctx n : Nat) :
    OpenOnly (pmcCount s p ev ctx n) sid t := by
  obtain ⟨hopen, v, hteam⟩ := h
  refine ⟨?_, v, ?_⟩
  · rwa [State.pmcCount_regions]
  · rwa [State.team?, State.pmcCount_teams]

theorem OpenOnly.abortDepths {sid : Nat} {t : Team} (k : Nat) {s : State} (h : OpenOnly s sid t) (w : List (Nat × BitVec 9 × BitVec 32)) :
    OpenOnly (abortDepths k s w) sid t := by
  have hfold : ∀ (l : List (Nat × BitVec 9 × BitVec 32)) (s : State), OpenOnly s sid t →
      OpenOnly (l.foldl (fun s x => match s.region? x.1 with
        | none => s
        | some r => Machine.pmcCount (Machine.dropRegion (Machine.abortTeam s r x.2.1 x.2.2) r.slot) (.core r.core) 10 r.ctx 1) s) sid t := by
    intro l
    induction l with
    | nil => exact fun s h => h
    | cons x l ih =>
      intro s h
      refine ih _ ?_
      dsimp only
      split
      · exact h
      · rename_i r hr
        exact ((h.abortTeam (List.mem_of_find?_eq_some hr) _ _).dropRegion _).pmcCount ..
  induction k generalizing s w with
  | zero => exact h
  | succ k ih =>
    unfold Machine.abortDepths
    split
    · exact h
    · exact ih (hfold _ _ h) _

theorem OpenOnly.abortRegion {s : State} {sid : Nat} {t : Team} (h : OpenOnly s sid t) (slot : Nat) (c : BitVec 9) (x : BitVec 32) :
    OpenOnly (abortRegion s slot c x) sid t := by
  unfold Machine.abortRegion
  split
  · exact h
  split
  · exact h
  · exact h.abortDepths _ _

/-! ## Traps of an instruction (23 R359) -/

/-- A trap of a team outside a handler, where its context has a handler and no region of the team is ending. -/
theorem takeTrap_open {s : State} {sid : Nat} {t : Team} {entry : Word} (h : s.team? sid = some t) (hh : HasHandler s t entry)
    (ho : ∀ r ∈ s.regions, r.sid = sid → r.ending = false) (hi : t.inTrap = false) (cause : BitVec 9) (tval : Word) (fmask : Mask)
    (tpc : Word) :
    ∃ t', (takeTrap s sid cause tval fmask tpc).team? sid = some t' ∧ InHandler t' entry cause tval (fmask &&& t.lanes) tpc ∧
      SameRegs t t' [] ∧ SameMemory s (takeTrap s sid cause tval fmask tpc) := by
  have hh' := hh
  obtain ⟨hfail, c, hc, hentry, hne⟩ := hh
  subst hentry
  cases hv : t.region with
  | none =>
    obtain ⟨t', hteam, hin, -, hregs, hbytes⟩ := takeTrap_handler h hh' hv hi cause tval fmask tpc
    exact ⟨t', hteam, hin, hregs, hbytes.mem, hbytes.spad⟩
  | some v =>
    obtain ⟨s1, hs1, hab, w, hw⟩ : ∃ s1, (if v.live && !v.ending && !v.irr then abortRegion s v.slot cause 0 else s) = s1 ∧ Aborted s s1 ∧
        ∃ w, s1.team? sid = some { t with region := w } := by
      split
      · exact ⟨_, rfl, abortRegion_aborted .., (OpenOnly.abortRegion ⟨ho, t.region, h⟩ ..).team⟩
      · exact ⟨s, rfl, .refl s, t.region, h⟩
    have hteam : ∀ f : Core → Core, (s1.onCore t.coreId f).team? sid = some { t with region := w } := fun _ => hw
    have hctx : ∀ f : Core → Core, (s1.onCore t.coreId f).ctx? t.ctx = some c := fun _ =>
      (congrArg (Tab.find · t.ctx) hab.ctxs).trans hc
    unfold takeTrap
    simp only [h, hfail, hi, hv, Option.isSome_none, Bool.false_eq_true, if_false, hs1, hteam, hctx, Option.map_some, if_neg hne]
    exact ⟨_, State.team?_setTeam .., ⟨rfl, rfl, rfl, rfl, rfl, rfl⟩, .of_fields rfl rfl rfl rfl rfl, hab.sameMemory⟩

section
variable {i : Instr} {s : State} {sid : Nat} {t : Team} {entry : Word}

theorem HasHandler.leaves {s e : State} {u v : Team} (h : HasHandler s u entry) (hc : e.ctxs = s.ctxs) (hf : v.failed = u.failed)
    (hx : v.ctx = u.ctx) : HasHandler e v entry := by
  obtain ⟨hfail, c, hctx, hrest⟩ := h
  exact ⟨hf.trans hfail, c, by rw [State.ctx?, hc, hx]; exact hctx, hrest⟩

/-- A trap that an instruction raises before anything else, with the team's region and with none. -/
theorem trapped_spec {u : Team} (h : s.team? sid = some u) (hh : HasHandler s u entry) (hi : u.inTrap = false)
    (ho : ∀ r ∈ s.regions, r.sid = sid → r.ending = false) (cause : BitVec 9) (tval : Word) (fmask : Mask) (tpc : Word) :
    ∃ t', (trapped i s sid cause tval fmask tpc).team? sid = some t' ∧ InHandler t' entry cause tval (fmask &&& u.lanes) tpc ∧
      SameRegs u t' [] ∧ SameMemory s (trapped i s sid cause tval fmask tpc) ∧
      (u.region = none → SameBytes s (trapped i s sid cause tval fmask tpc)) := by
  obtain ⟨r, k, hl⟩ := noteTrap_leaves h i
  have hh' := hh.leaves hl.ctxs (v := { u with readyAt := r, issued := k }) rfl rfl
  obtain ⟨t', hteam, hin, hregs, hmem⟩ := takeTrap_open hl.team hh' (hl.regions ▸ ho) hi cause tval fmask tpc
  obtain ⟨hs, hv, hp, hmask⟩ := hregs
  refine ⟨t', hteam, hin, ⟨hs, hv, hp, hmask⟩, ⟨fun k => (hmem.1 k).trans (hl.bytes.mem k), fun k => (hmem.2 k).trans (hl.bytes.spad k)⟩, fun hr => ?_⟩
  obtain ⟨_, _, _, _, _, hbytes⟩ := takeTrap_handler hl.team hh' hr hi cause tval fmask tpc
  obtain ⟨hm, hsp, hl1, hho, hsc⟩ := hl.bytes.trans hbytes
  exact ⟨hm, hsp, hl1, hho, hsc⟩

/-- An instruction whose effect is a trap at itself. -/
theorem traps_of_trap (c : Clear i s sid t) {cause : BitVec 9} {tval : Word}
    (hx : exec i s = finish i sid (teamAtIssue i s sid t) (uses i) (.trap (atIssue i s sid t) cause tval 0 false)) :
    Traps i s sid t cause tval := by
  intro entry hh hi ho
  obtain ⟨t', hteam, hin, hrest⟩ := trapped_spec (i := i) c.resident_atIssue hh hi ho cause tval 0 (teamAtIssue i s sid t).pc
  rw [show (0 : Mask) &&& _ = 0 from BitVec.zero_and] at hin
  exact ⟨_, t', hx, hteam, hin, hrest⟩

end

/-! ## A unit that fails in a handler (23 R360, R362) -/

theorem Tab.find_map {α β : Type} (f : α → β) (t : Tab α) (k : Nat) :
    Tab.find (t.map (fun e => (e.1, f e.2))) k = (Tab.find t k).map f := by
  induction t with
  | nil => rfl
  | cons e r ih =>
    rw [List.map_cons, Tab.find, Tab.find]
    split
    · rfl
    · exact ih

/-- A unit's teams fail, and the failure step is due before all else. -/
theorem failUnit_eq (s : State) (t : Team) (cause : BitVec 9) (tval : Word) :
    ∃ f : Team → Team, failUnit s t cause tval =
      ({ s with teams := s.teams.map (fun e => (e.1, f e.2)) } : State).dueFirst (.unitFail t.lid t.unit cause) ∧
      (f t).failed = some (t.failed.getD cause) := by
  unfold failUnit
  extract_lets mark
  refine ⟨mark, rfl, ?_⟩
  dsimp only [mark]
  rw [if_pos ⟨rfl, rfl, rfl⟩]
  split <;> rfl

/-- A trap in a handler fails the unit with its cause, and the failure step is due at once. -/
theorem takeTrap_inTrap {s : State} {sid : Nat} {t : Team} (h : s.team? sid = some t) (hf : t.failed = none) (hi : t.inTrap = true)
    (cause : BitVec 9) (tval : Word) (fmask : Mask) (tpc : Word) :
    ∃ t', (takeTrap s sid cause tval fmask tpc).team? sid = some t' ∧ t'.failed = some cause ∧
      SameBytes s (takeTrap s sid cause tval fmask tpc) ∧
      (takeTrap s sid cause tval fmask tpc).agenda = .unitFail t.lid t.unit cause :: s.agenda := by
  have htake : takeTrap s sid cause tval fmask tpc = failUnit s t cause tval := by
    unfold takeTrap
    simp [h, hf, hi]
  obtain ⟨f, heq, hfailed⟩ := failUnit_eq s t cause tval
  rw [hf] at hfailed
  rw [htake, heq]
  exact ⟨f t, (Tab.find_map f s.teams sid).trans (congrArg _ h), hfailed, ⟨fun _ => rfl, fun _ => rfl, rfl, rfl, rfl⟩, rfl⟩

end Sys2Proof.Machine
end

section
/-! PLAIN CONTROL (O9): nop, yield, exit, trap, brk and tret (06 R115, R118, R119; 23 R359, R360, R370). -/

namespace Sys2Proof.Machine

section
variable {h : Hdr} {b : Option SIdx} {s : State} {sid : Nat} {t : Team}

/-- Where `tret` goes (23 R370). -/
def tretTarget (h : Hdr) (b : Option SIdx) (s : State) (sid : Nat) (t : Team) : Word :=
  match b with
  | some n => (viewAtIssue (.tret h b) s sid t).sr n.toNat
  | none => (teamAtIssue (.tret h b) s sid t).tpc

theorem execTret_outside (r : Runs (.tret h b) h s sid t) (hi : (teamAtIssue (.tret h b) s sid t).inTrap = false) :
    exec (.tret h b) s = finish (.tret h b) sid (teamAtIssue (.tret h b) s sid t) (uses (.tret h b))
      (.trap (atIssue (.tret h b) s sid t) Cause.trapState 0 0 false) := by
  show execTret h b s = _
  rw [execTret, issueScalar_on r.toClear r.guard, viewAtIssue_t, if_pos (by simp [hi])]

theorem execTret_inside (r : Runs (.tret h b) h s sid t) (hi : (teamAtIssue (.tret h b) s sid t).inTrap = true) :
    exec (.tret h b) s = finish (.tret h b) sid (teamAtIssue (.tret h b) s sid t) (uses (.tret h b))
      (if (tretTarget h b s sid t).toNat % 4 ≠ 0 then
        .trap (atIssue (.tret h b) s sid t) Cause.misalignedPc (tretTarget h b s sid t) 0 false
       else .back (atIssue (.tret h b) s sid t) (tretTarget h b s sid t) b.isNone) := by
  show execTret h b s = _
  rw [execTret, issueScalar_on r.toClear r.guard, viewAtIssue_t, if_neg (by simp [hi])]
  rfl

end

section
variable {i : Instr} {e : State} {sid : Nat} {u : Team} (h : e.team? sid = some u)
include h

/-- A return leaves the handler, the lanes of %fmask to be replayed where it names no register. -/
theorem finish_back (us : Uses) (target : Word) (b : Option SIdx) :
    ∃ s' t', finish i sid u us (.back e target b.isNone) = .next s' ∧ s'.team? sid = some t' ∧ t'.pc = target ∧ t'.inTrap = false ∧
      SameRegs u t' [] ∧ SameBytes e s' ∧ t'.replay = (if b = none ∧ u.fmask ≠ 0 then some u.fmask else none) ∧ t'.cause = u.cause ∧
      t'.tpc = u.tpc ∧ t'.tval = u.tval ∧ t'.fmask = u.fmask ∧ t'.keep = u.keep ∧ ∀ k, k ≠ sid → s'.team? k = e.team? k := by
  obtain ⟨t', hteam, -, -, -, ⟨hs, hv, hp, hmask⟩, hheld⟩ := retire_team (i := i) (t0 := u) (u := us) (n := 1) (pc := target) h
  obtain ⟨hcause, htpc, htval, hfmask, -, hkeep⟩ := hheld.trap
  have hback := Leaves.onTeam hteam (fun t => returnTrap t target b.isNone)
  refine ⟨_, _, rfl, hback.team, rfl, rfl, ⟨hs, hv, hp, hmask⟩, (retire_same ..).trans hback.bytes, ?_, hcause, htpc, htval, hfmask, hkeep,
    fun k hk => (hback.other k hk).trans (retire_other _ _ _ _ _ _ _ hk)⟩
  show (if (b.isNone && t'.fmask != 0) = true then some t'.fmask else none) = _
  rw [hfmask]
  exact if_congr (by simp) rfl rfl

/-- A trap in a handler ends the unit. -/
theorem finish_trap_inTrap (hi : u.inTrap = true) (hf : u.failed = none) (us : Uses) (cause : BitVec 9) (tval : Word) :
    ∃ s' t', finish i sid u us (.trap e cause tval 0 false) = .next s' ∧ s'.team? sid = some t' ∧ t'.failed = some cause ∧ SameBytes e s' ∧
      ∃ later, s'.agenda = .unitFail u.lid u.unit cause :: e.agenda ++ later := by
  obtain ⟨q, k, hnote⟩ := noteTrap_leaves h i
  obtain ⟨later, hlater⟩ := noteTrap_agenda i sid e
  obtain ⟨t', hteam, hfailed, hbytes, hagenda⟩ := takeTrap_inTrap hnote.team hf hi cause tval 0 u.pc
  obtain ⟨hm, hsp, hl1, hho, hsc⟩ := hnote.bytes.trans hbytes
  exact ⟨_, t', rfl, hteam, hfailed, ⟨hm, hsp, hl1, hho, hsc⟩, later, hagenda.trans (congrArg (List.cons _) hlater)⟩

end

theorem atIssue_clock (i : Instr) (s : State) (sid : Nat) (t : Team) : (atIssue i s sid t).clock = s.clock := by
  unfold atIssue readTokens
  dsimp only
  split
  · split <;> rfl
  · rfl

/-- Settles O9: `exit` outside a handler and a region only marks its team, and `tret` has the three ends that `finish_back`,
`traps_of_trap` and `finish_trap_inTrap` say. -/
theorem plainControl : Obligations.PlainControl := by
  unfold Obligations.PlainControl
  intro h a b k n s sid t
  refine ⟨fun r => ?_, fun r => ?_, fun r ho hi => ?_, fun r => ?_, fun r => ?_, fun r hi ht => ?_, fun r hi => ?_, fun r hi ht hf => ?_⟩
  · show execNop h s = _
    exact issueScalar_on r.toClear r.guard _
  · show execYield h s = _
    rw [execYield, issueScalar_on r.toClear r.guard, viewAtIssue_t, atIssue_clock]
    by_cases hready : otherReady (atIssue (.yield h) s sid t) sid (teamAtIssue (.yield h) s sid t) = true
    · rw [if_pos hready, if_pos hready]
      exact finish_fall ..
    · rw [if_neg hready, if_neg hready]
      exact finish_fall ..
  · show execExit h s = _
    rw [execExit, issueScalar_on r.toClear r.guard, viewAtIssue_t, if_neg (by simp [regionForbids, ho]), if_neg (by simp [hi])]
    exact finish_fall ..
  · show execTrap h a k s = _
    exact issueScalar_on r.toClear r.guard _
  · show execBrk h n s = _
    exact issueScalar_on r.toClear r.guard _
  · rw [execTret_inside r hi, if_neg (fun hne => hne ht)]
    exact finish_back r.resident_atIssue ..
  · exact traps_of_trap r.toClear (execTret_outside r hi)
  · rw [execTret_inside r hi, if_pos (show (tretTarget h b s sid t).toNat % 4 ≠ 0 from ht)]
    exact finish_trap_inTrap r.resident_atIssue hi hf ..

end Sys2Proof.Machine
end

section
/-! What a pass of a memory instruction does that nothing holds back, said once: its lanes are performed in ascending order, and the
instruction ends with the last of them or goes on with its next pass (04 R69; 06 R104; 10 R203). -/

namespace Sys2Proof.Machine

/-! ## The lanes of a pass (06 R104) -/

/-- Lanes with their addresses. -/
def lanesFor (addr : Nat → Word) (ls : List Nat) : List (Nat × Word) := ls.map (fun l => (l, addr l))

@[simp] theorem map_fst_lanesFor (addr : Nat → Word) (ls : List Nat) : (lanesFor addr ls).map Prod.fst = ls := by
  simp [lanesFor, Function.comp_def]

theorem mem_passOf {r : MemRun} {l : Nat} :
    l ∈ passOf r ↔ r.left.getLsbD l = true ∧ ∃ k, k < 32 ∧ l = 32 * ((lowest r.left).getD 0 / 32) + k := by
  simp only [passOf, List.mem_filter, List.mem_map, List.mem_range]
  constructor
  · rintro ⟨⟨k, hk, rfl⟩, hl⟩
    exact ⟨hl, k, hk, rfl⟩
  · rintro ⟨hl, k, hk, rfl⟩
    exact ⟨⟨k, hk, rfl⟩, hl⟩

theorem passOf_lt {r : MemRun} {l : Nat} (h : l ∈ passOf r) : l < 1024 := BitVec.lt_of_getLsbD (mem_passOf.mp h).1

theorem passOf_nodup (r : MemRun) : (passOf r).Nodup :=
  (List.Nodup.map (fun _ _ h => by simpa using h) List.nodup_range).filter _

theorem passOf_sorted (r : MemRun) : (passOf r).Pairwise (· < ·) :=
  (List.pairwise_map.mpr (List.pairwise_lt_range.imp (fun h => by omega))).filter _

theorem passOf_length (r : MemRun) : (passOf r).length ≤ 32 := by
  refine (List.length_filter_le ..).trans ?_
  simp

/-- The lanes of a mask word that are in a mask, as a pass lists them. -/
theorem wordLanes_eq (r : MemRun) (addr : Nat → Word) :
    ((List.range 32).filter (fun i => r.left.getLsbD (32 * ((lowest r.left).getD 0 / 32) + i))).map
      (fun i => (32 * ((lowest r.left).getD 0 / 32) + i, addr (32 * ((lowest r.left).getD 0 / 32) + i))) = lanesFor addr (passOf r) := by
  rw [passOf, lanesFor, List.filter_map, List.map_map]
  rfl

theorem getLsbD_laneMask (ls : List Nat) (l : Nat) : (laneMask ls).getLsbD l = decide (l ∈ ls ∧ l < 1024) := by
  have hfold : ∀ (ls : List Nat) (m : Mask), (ls.foldl (fun (m : Mask) l => m ||| (1#1024 <<< l)) m).getLsbD l =
      (m.getLsbD l || decide (l ∈ ls ∧ l < 1024)) := by
    intro ls
    induction ls with
    | nil => simp
    | cons x r ih =>
      intro m
      rw [List.foldl_cons, ih, BitVec.getLsbD_or, Bool.or_assoc]
      congr 1
      rw [BitVec.getLsbD_shiftLeft, BitVec.getLsbD_one, Bool.eq_iff_iff]
      simp only [Bool.or_eq_true, Bool.and_eq_true, Bool.not_eq_true', decide_eq_true_eq, decide_eq_false_iff_not, List.mem_cons]
      constructor
      · rintro (h | h)
        · exact ⟨.inl (by omega), by omega⟩
        · exact ⟨.inr h.1, h.2⟩
      · rintro ⟨rfl | h, hl⟩
        · exact .inl (by omega)
        · exact .inr ⟨h, hl⟩
  rw [laneMask, hfold]
  simp

theorem getLsbD_restOf (r : MemRun) (l : Nat) : (restOf r).getLsbD l = (r.left.getLsbD l && !decide (l ∈ passOf r)) := by
  rw [restOf, BitVec.getLsbD_and, BitVec.getLsbD_not, getLsbD_laneMask]
  by_cases hl : l < 1024
  · simp [hl]
  · rw [BitVec.getLsbD_of_ge _ _ (Nat.not_lt.mp hl)]
    simp

/-- After its pass nothing of its mask word is left. -/
theorem wordLanes_restOf (r : MemRun) (addr : Nat → Word) :
    ((List.range 32).filter (fun i => (restOf r).getLsbD (32 * ((lowest r.left).getD 0 / 32) + i))).map
      (fun i => (32 * ((lowest r.left).getD 0 / 32) + i, addr (32 * ((lowest r.left).getD 0 / 32) + i))) = [] := by
  rw [List.map_eq_nil_iff, List.filter_eq_nil_iff]
  intro i hi
  rw [getLsbD_restOf]
  cases hl : r.left.getLsbD (32 * ((lowest r.left).getD 0 / 32) + i) with
  | false => simp
  | true =>
    rw [decide_eq_true (mem_passOf.mpr ⟨hl, i, List.mem_range.mp hi, rfl⟩)]
    simp

/-! ## Lanes in ascending order -/

/-- What lanes that are performed one after another bring back. -/
def laneGots (step : State → Nat → State) (res : State → Nat → LaneGot) : State → List Nat → List (Nat × LaneGot)
  | _, [] => []
  | s, l :: r => (l, res s l) :: laneGots step res (step s l) r

theorem laneGots_const (step : State → Nat → State) (g : Nat → LaneGot) (s : State) (ls : List Nat) :
    laneGots step (fun _ l => g l) s ls = ls.map (fun l => (l, g l)) := by
  induction ls generalizing s with
  | nil => rfl
  | cons l r ih => rw [laneGots, ih, List.map_cons]

/-- Lanes that never stall are performed in order, under what each of them keeps. -/
theorem runLanes_foldl {f : State → Nat → Word → State × LaneGot} {addr : Nat → Word} {step : State → Nat → State}
    {res : State → Nat → LaneGot} {I : State → Prop} {ls : List Nat}
    (hf : ∀ s l, I s → l ∈ ls → f s l (addr l) = (step s l, res s l)) (hI : ∀ s l, I s → l ∈ ls → I (step s l))
    (hr : ∀ s l on, res s l ≠ .stall on) {s : State} (hs : I s) :
    runLanes f s (lanesFor addr ls) = .ok (ls.foldl step s, laneGots step res s ls) := by
  induction ls generalizing s with
  | nil => rfl
  | cons l r ih =>
    have hl := hf s l hs List.mem_cons_self
    have ihr := ih (fun s k hs hk => hf s k hs (List.mem_cons_of_mem _ hk)) (fun s k hs hk => hI s k hs (List.mem_cons_of_mem _ hk))
      (hI s l hs List.mem_cons_self)
    rw [lanesFor, List.map_cons, runLanes, hl]
    rw [lanesFor] at ihr
    split
    · rename_i heq
      exact absurd (Prod.mk.inj heq).2 (hr _ _ _)
    · rename_i heq
      obtain ⟨rfl, rfl⟩ := Prod.mk.inj heq
      rw [ihr]
      rfl

/-- Lanes that change nothing. -/
theorem runLanes_pure {f : State → Nat → Word → State × LaneGot} {addr : Nat → Word} {g : Nat → LaneGot} {ls : List Nat} {s : State}
    (hf : ∀ l ∈ ls, f s l (addr l) = (s, g l)) (hr : ∀ l on, g l ≠ .stall on) :
    runLanes f s (lanesFor addr ls) = .ok (s, ls.map (fun l => (l, g l))) := by
  have h := runLanes_foldl (f := f) (addr := addr) (step := fun s _ => s) (res := fun _ l => g l) (I := fun x => x = s) (ls := ls)
    (fun x l hx hl => hx ▸ hf l hl) (fun x l hx _ => hx) (fun _ l on => hr l on) rfl
  have hfold : ∀ ls : List Nat, ls.foldl (fun s _ => s) s = s := fun ls => by induction ls <;> simp_all
  rw [h, laneGots_const, hfold]

/-! ## Nothing holds it back -/

section
variable {u : Team} {s : State} {sid : Nat} (hs : Settled u s sid)
include hs

theorem Settled.inRegion : inRegion u = none := by
  simp [Machine.inRegion, Team.openRegion, hs.region]

theorem Settled.insideOf : insideOf u = .no := by
  simp [Machine.insideOf, hs.inRegion]

theorem Settled.gate {x : Acc} (hx : x.a.sid = sid) (write drain sc : Bool) (lanes : List (Nat × Word)) :
    gate s u x write drain sc lanes = none := by
  have hwq : s.wq.any (fun q => q.sid == sid) = false := by simpa using hs.queue
  simp [Machine.gate, hx, hs.ticket, hs.region, held, hs.open_, hwq, linesHeld, hs.links]

theorem Settled.held (en : Mask) : (runOf u en).held = none := by
  have hwhole := hs.whole
  unfold Team.midPass at hwhole
  unfold runOf
  cases hm : u.mem with
  | none => rfl
  | some r =>
    rw [hm] at hwhole
    simpa using hwhole

end

/-! ## The banks (10 R193) -/

theorem Leaves.useBanks {s : State} {sid : Nat} {t : Team} (h : s.team? sid = some t) (u : Team) (x : Acc) (lanes : List (Nat × Word)) :
    Leaves s (useBanks s u x lanes).1 sid t := by
  unfold Machine.useBanks
  split
  · exact .refl h
  · exact ⟨⟨fun _ => rfl, fun _ => rfl, rfl, rfl, rfl⟩, rfl, rfl, h, fun _ _ => rfl⟩

/-! ## A pass -/

/-- A pass has been performed: its lanes gave `gs` and left the state `s1` with the team `t1`. With the last lane the instruction ends;
else its next pass is to issue. -/
structure Performed (sid : Nat) (u : Team) (en : Mask) (s1 : State) (t1 : Team) (gs : List (Nat × LaneGot)) (last : State → MemRun → Done)
    (d : Done) : Prop where
  ends : restOf (runOf u en) = 0 → ∃ e r, d = last e r ∧ Leaves s1 e sid { t1 with mem := none } ∧ r.got = (runOf u en).got ++ gs
  goes : restOf (runOf u en) ≠ 0 → ∃ e r, d = .issued e .run ∧
    Leaves s1 e sid { t1 with mem := some r, rejects := 0, aged := false } ∧ r.en = (runOf u en).en ∧ r.left = restOf (runOf u en) ∧
    r.got = (runOf u en).got ++ gs

section
variable {s s0 s1 : State} {sid : Nat} {u t1 : Team} {en : Mask} {addr : Nat → Word} {m : MemOpn} {last : State → MemRun → Done}
  {r1 : MemRun} {gs : List (Nat × LaneGot)} {o : Nat}

theorem runPass_performed (hs : Settled u s sid) (hx : m.x.a.sid = sid)
    (hchecks : m.write = true → needChecks s u m.x (lanesFor addr (passOf (runOf u en))) = [])
    (hstart : startPass s sid u m (runOf u en) (lanesFor addr (passOf (runOf u en))) = .go s0 r1 (lanesFor addr (passOf (runOf u en))))
    (hen : r1.en = (runOf u en).en) (hleft : r1.left = (runOf u en).left) (hgot : r1.got = (runOf u en).got)
    (hheld : r1.held = some (o, laneMask (passOf (runOf u en))))
    (hsend : m.send s0 (lanesFor addr (passOf (runOf u en))) = none)
    (htog : togetherOf s0 m (lanesFor addr (passOf (runOf u en))) = lanesFor addr (passOf (runOf u en)))
    (hrun : runLanes m.lane s0 (lanesFor addr (passOf (runOf u en))) = .ok (s1, gs)) (ht1 : s1.team? sid = some t1) :
    Performed sid u en s1 t1 gs last (runPass s sid u en addr m last) := by
  have hnone : (if m.write then needChecks s u m.x (lanesFor addr (passOf (runOf u en))) else []) = [] := by
    split
    · exact hchecks ‹_›
    · rfl
  have hbanks := Leaves.useBanks ht1 u m.x (lanesFor addr (passOf (runOf u en)))
  obtain ⟨d, hd⟩ : ∃ d, runPass s sid u en addr m last = d := ⟨_, rfl⟩
  rw [hd]
  unfold runPass at hd
  simp only [show u.mem.getD { en := en, left := en, got := [], after := [], due := 0, held := none } = runOf u en from rfl, hs.held,
    wordLanes_eq, hs.gate hx, hnone, Option.isSome_none, Bool.false_eq_true, if_false, hstart, hsend, htog, hrun, hheld,
    map_fst_lanesFor, hleft, show (runOf u en).left &&& ~~~ laneMask (passOf (runOf u en)) = restOf (runOf u en) from rfl,
    BitVec.and_not_self, if_true, wordLanes_restOf, List.isEmpty_nil, bne_self_eq_false, hgot] at hd
  constructor
  · intro hz
    simp only [hz, if_true] at hd
    exact ⟨_, _, hd.symm, hbanks.trans (.onTeam hbanks.team _), rfl⟩
  · intro hz
    simp only [hz, if_false] at hd
    have hput := hbanks.trans (.onTeam hbanks.team (fun t => { t with mem := some { r1 with
      left := restOf (runOf u en), got := (runOf u en).got ++ gs,
      due := max r1.due (useBanks s1 u m.x (lanesFor addr (passOf (runOf u en)))).2, held := none } }))
    exact ⟨_, _, hd.symm, hput.trans (.onTeam hput.team _), hen, rfl, rfl⟩

end

end Sys2Proof.Machine
end

section
/-! How a memory instruction ends, said once: the results it brings back, its faults, and the state it leaves (06 R104; 10 R197, R205). -/

namespace Sys2Proof.Machine

/-! ## Completing -/

/-- What completing an instruction leaves: its team at another word, with the registers and the results that its effect left. -/
theorem retire_leaves {i : Instr} {sid : Nat} {t0 : Team} {u : Uses} {s : State} {n : Nat} {pc : Word} {t : Team} (h : s.team? sid = some t) :
    ∃ t', Leaves s (retire i sid t0 u s n pc) sid t' ∧ t'.pc = pc ∧ t'.mem = none ∧ t'.sb = t.sb ∧ t'.s = t.s ∧ t'.v = t.v ∧
      SameRegs t t' [] ∧ SameHeld t t' := by
  obtain ⟨_, _, _, _, _, _, _, heq⟩ := retire_eq i sid t0 u s n pc
  have hteam : ∃ t', (retire i sid t0 u s n pc).team? sid = some t' ∧ t'.pc = pc ∧ t'.mem = none ∧ t'.sb = t.sb ∧ t'.s = t.s ∧ t'.v = t.v ∧
      SameRegs t t' [] ∧ SameHeld t t' := by
    unfold retire
    rw [h]
    obtain ⟨k, hk⟩ := noted_spec ..
    refine ⟨_, hk, rfl, rfl, rfl, rfl, rfl, .of_fields rfl rfl rfl rfl rfl, ?_⟩
    constructor <;> and_intros <;> intros <;> rfl
  obtain ⟨t', ht', hrest⟩ := hteam
  refine ⟨t', ⟨retire_same .., ?_, ?_, ht', fun _ hk => retire_other _ _ _ _ _ _ _ hk⟩, hrest⟩
  · rw [heq]
  · rw [heq]

theorem Leaves.issued {s : State} {sid : Nat} {t : Team} (h : s.team? sid = some t) : Leaves s { s.tick1 with current := none } sid t :=
  ⟨⟨fun _ => rfl, fun _ => rfl, rfl, rfl, rfl⟩, rfl, rfl, h, fun _ _ => rfl⟩

/-- A pass that is not the last has issued. -/
theorem finish_issued {i : Instr} {sid : Nat} {u t : Team} {us : Uses} {e : State} (h : e.team? sid = some t) (w : Park) :
    ∃ s' k, finish i sid u us (.issued e w) = .next s' ∧ Leaves e s' sid { t with park := w, issued := k } := by
  have hpark := Leaves.onTeam h (fun t => { t with park := w })
  obtain ⟨k, hk⟩ := Leaves.notePass hpark.team (passCycles i) 1 false
  exact ⟨_, k, rfl, (hpark.trans hk).trans (.issued hk.team)⟩

/-! ## A pass -/

section
variable {i : Instr} {s s1 : State} {sid : Nat} {t : Team} {en : Mask} {dst : List RegName} {res : Nat → LaneGot}
  {stored : State → Prop} {result : Team → Prop} {last : State → MemRun → Done} {d : Done}

/-- The pass of an instruction ends as `MemPass` says, where the end of its last pass does. -/
theorem memPass_of (hx : exec i s = finish i sid (teamAtIssue i s sid t) (uses i) d)
    (hp : Performed sid (teamAtIssue i s sid t) en s1 (teamAtIssue i s sid t)
      ((passOf (runOf (teamAtIssue i s sid t) en)).map (fun l => (l, res l))) last d)
    (hstored : ∀ e t', Leaves s1 e sid t' → stored e)
    (hlast : restOf (runOf (teamAtIssue i s sid t) en) = 0 → ∀ e r, Leaves s1 e sid { teamAtIssue i s sid t with mem := none } →
      r.got = (runOf (teamAtIssue i s sid t) en).got ++ (passOf (runOf (teamAtIssue i s sid t) en)).map (fun l => (l, res l)) →
      ∃ e2 t2 n, last e r = .fall e2 n ∧ Leaves s1 e2 sid t2 ∧ SameRegs (teamAtIssue i s sid t) t2 dst ∧
        SameHeld (teamAtIssue i s sid t) t2 ∧ ∀ t', t'.v = t2.v → t'.sb = t2.sb → result t') :
    MemPass i s sid t en dst res stored result := by
  constructor
  · intro hz
    obtain ⟨e, r, rfl, he, hgot⟩ := hp.ends hz
    obtain ⟨e2, t2, n, hfall, hl, hregs, hheld, hres⟩ := hlast hz e r he hgot
    obtain ⟨t', hl', hpc, hmem, hsb, -, hv, hregs', hheld'⟩ := retire_leaves (i := i) (t0 := teamAtIssue i s sid t) (u := uses i) (n := n)
      (pc := (teamAtIssue i s sid t).pc + 12) hl.team
    rw [hfall] at hx
    exact ⟨_, t', hx, hl'.team, hpc, hmem, hstored _ _ (hl.trans hl'), hres t' hv hsb, hregs.trans_nil hregs', hheld.trans hheld'⟩
  · intro hn
    obtain ⟨e, r, rfl, he, hen, hleft, hgot⟩ := hp.goes hn
    obtain ⟨s', k, hfin, hl⟩ := finish_issued (i := i) (u := teamAtIssue i s sid t) (us := uses i) he.team .run
    refine ⟨s', _, r, hx.trans hfin, hl.team, rfl, rfl, rfl, hen, hleft, hgot, hstored _ _ (he.trans hl), .of_fields rfl rfl rfl rfl rfl, ?_⟩
    constructor <;> and_intros <;> intros <;> rfl

end

/-! ## Values brought back -/

theorem valsOf_append {as bs : List (Nat × LaneGot)} (ha : ∀ g ∈ as, g.2 ≠ .skip) (hb : ∀ g ∈ bs, g.2 ≠ .skip) :
    valsOf (as ++ bs) = valsOf as ++ valsOf bs := by
  have hnone : ∀ gs : List (Nat × LaneGot), (∀ g ∈ gs, g.2 ≠ .skip) → gs.any (fun g => g.2 == .skip) = false := by
    intro gs h
    simpa using fun g hg => h (g, hg)
  unfold valsOf
  rw [hnone _ ha, hnone _ hb, hnone _ (fun g hg => (List.mem_append.mp hg).elim (ha g) (hb g))]
  simp

theorem Tab.find_append {α : Type} (t u : Tab α) (k : Nat) :
    Tab.find (t ++ u) k = (Tab.find t k).or (Tab.find u k) := by
  induction t with
  | nil => rfl
  | cons e r ih =>
    rw [List.cons_append, Tab.find, Tab.find]
    split
    · rfl
    · exact ih

theorem Tab.find_map_key {α : Type} (f : Nat → α) (ls : List Nat) (k : Nat) :
    Tab.find (ls.map (fun l => (l, f l))) k = if k ∈ ls then some (f k) else none := by
  induction ls with
  | nil => rfl
  | cons l r ih =>
    rw [List.map_cons, Tab.find, ih]
    by_cases h : l = k
    · simp [h]
    · simp [h, Ne.symm h]

theorem valsOf_map_val (f : Nat → Nat) (ls : List Nat) : valsOf (ls.map (fun l => (l, LaneGot.val (f l)))) = ls.map (fun l => (l, f l)) := by
  unfold valsOf
  rw [if_neg (by simp), List.filterMap_map]
  induction ls with
  | nil => rfl
  | cons l r ih => exact congrArg (List.cons _) ih

/-- The lanes of the earlier passes, and those of this one. -/
theorem find_valsOf_broughtBack {r : MemRun} {raw : Nat → Nat} (h : ∀ e ∈ r.got, ∃ x, e.2 = .val x) (l : Nat) :
    Tab.find (valsOf (r.got ++ (passOf r).map (fun l => (l, LaneGot.val (raw l))))) l = broughtBack r raw l := by
  rw [valsOf_append, valsOf_map_val, Tab.find_append, Tab.find_map_key, broughtBack]
  · cases Tab.find (valsOf r.got) l <;> rfl
  · intro g hg hskip
    obtain ⟨x, hx⟩ := h g hg
    rw [hx] at hskip
    cases hskip
  · intro g hg
    obtain ⟨l, -, rfl⟩ := List.mem_map.mp hg
    exact LaneGot.noConfusion

/-! ## Results to come (05 R88) -/

theorem addResults_leaves (due : Nat) (after : List Nat) {s : State} {sid : Nat} {t : Team} (h : s.team? sid = some t) (dsts : List RegName) :
    ∃ sb, Leaves s (addResults due after s sid dsts) sid { t with sb := t.sb ++ sb } ∧ ∀ d ∈ dsts, ∃ e ∈ sb, e.reg = d := by
  induction dsts generalizing s t with
  | nil => exact ⟨[], by rw [List.append_nil]; exact .refl h, by simp⟩
  | cons d ds ih =>
    have hadd := addSb_some h d after false due
    have hl : Leaves s (addSb s sid d after false due).1 sid
        { t with sb := t.sb ++ [{ reg := d, tok := s.order, after := after, engine := false, due := due }] } := by
      rw [hadd]
      exact (Leaves.setTeam s sid _).trans (.of_eq (State.team?_setTeam ..) (o := s.order + 1) rfl)
    obtain ⟨sb, hsb, hall⟩ := ih hl.team
    refine ⟨_ :: sb, (List.append_assoc t.sb [_] sb ▸ hl.trans hsb :), fun x hx => ?_⟩
    obtain rfl | hx := List.mem_cons.mp hx
    · exact ⟨_, List.mem_cons_self, rfl⟩
    · obtain ⟨e, he, hr⟩ := hall x hx
      exact ⟨e, List.mem_cons_of_mem _ he, hr⟩

/-! ## Ending (10 R197, R205) -/

/-- No lane faulted, no group of pages is open and the team is in no region: the instruction completes. -/
theorem settleMem_complete {s : State} {sid : Nat} {u : Team} {gs : List (Nat × LaneGot)} (hpf : u.pf = none) (hi : insideOf u = .no)
    (h : ∀ g ∈ gs, ∃ v, g.2 = .val v) (x : Acc) (write : Bool) (whole : Option Mask) (complete : State → Done) :
    settleMem s sid u x write whole gs complete = complete s := by
  have hskip : gs.any (fun g => g.2 == .skip) = false := by
    rw [List.any_eq_false]
    intro g hg
    obtain ⟨v, hv⟩ := h g hg
    simp [hv]
  have houts : outsOf gs = gs.map (fun g => (g.1, LaneOut.ok)) := List.map_congr_left (fun g hg => by
    obtain ⟨v, hv⟩ := h g hg
    rw [hv])
  have hwaits : ∀ gs : List (Nat × LaneGot), gatherWaits u write (gs.map (fun g => (g.1, LaneOut.ok))) = [] := by
    intro gs
    induction gs with
    | nil => rfl
    | cons g r ih => exact ih
  have hhard : ∀ gs : List (Nat × LaneGot), hardFaults (gs.map (fun g => (g.1, LaneOut.ok))) = [] := by
    intro gs
    induction gs with
    | nil => rfl
    | cons g r ih => exact ih
  have hmiss : (gs.map (fun g => (g.1, LaneOut.ok))).map (fun o => (o.1, settleMiss u o.2)) = gs.map (fun g => (g.1, LaneOut.ok)) := by
    rw [List.map_map]
    rfl
  unfold settleMem
  simp only [hskip, hi, ite_self, Bool.false_eq_true, if_false, houts, settle, hmiss, hpf, hwaits, hhard, List.append_nil, List.isEmpty_nil,
    Bool.not_true]

/-- A load that acquires does so once some lane has been performed (14 R265). -/
def afterAcquire (s : State) (x : Acc) (gs : List (Nat × LaneGot)) : State :=
  if isAcq x.o && !(valsOf gs).isEmpty then acquireAt s x.a else s

/-- At a narrow scope nothing is to be acquired. -/
theorem afterAcquire_narrow {x : Acc} (h : x.o = .weak ∨ scopeWide x.a.scope = false) (s : State) (gs : List (Nat × LaneGot)) :
    afterAcquire s x gs = s := by
  unfold afterAcquire acquireAt
  obtain h | h := h
  · simp [h, isAcq]
  · simp [h]

theorem afterAcquire_keeps (s : State) (x : Acc) (gs : List (Nat × LaneGot)) : ∃ l f, afterAcquire s x gs = { s with l1 := l, fills := f } := by
  unfold afterAcquire
  split
  · exact acquireAt_keeps ..
  · exact ⟨s.l1, s.fills, rfl⟩

/-- The end of a load: its registers are written, its results are still to come, and its lanes' faults are settled. -/
theorem loadEnd_settles {e : State} {sid : Nat} {u t1 : Team} {x : Acc} {single : Bool} {whole : Option Mask} {r : MemRun}
    {write : Tab Nat → Team → Team} {complete : State → Done} (h : (afterAcquire e x r.got).team? sid = some t1) (dsts : List RegName) :
    ∃ e2 k sb all, loadEnd e sid u x single whole r dsts write complete = settleMem e2 sid u x false whole all complete ∧
      Leaves (afterAcquire e x r.got) e2 sid { write (valsOf r.got) t1 with kept := k, sb := (write (valsOf r.got) t1).sb ++ sb } ∧
      (∀ d ∈ dsts, ∃ y ∈ sb, y.reg = d) ∧ (single = false → all = r.got) ∧
      ((∀ g ∈ r.got, ∃ v, g.2 = .val v) → ∀ g ∈ all, ∃ v, g.2 = .val v) := by
  have hwrite := Leaves.onTeam h (write (valsOf r.got))
  obtain ⟨k, hkeep⟩ : ∃ k, Leaves (afterAcquire e x r.got)
      (keepTag ((afterAcquire e x r.got).onTeam sid (write (valsOf r.got))) sid single r.got) sid { write (valsOf r.got) t1 with kept := k } := by
    unfold keepTag
    split
    · exact ⟨_, hwrite.trans (.onTeam hwrite.team _)⟩
    · exact ⟨_, hwrite⟩
  obtain ⟨sb, hres, hall⟩ := addResults_leaves r.due r.after hkeep.team dsts
  refine ⟨_, k, sb, _, rfl, hkeep.trans hres, hall, ?_, ?_⟩
  · rintro rfl
    split
    · contradiction
    · rfl
  · intro hv g hg
    split at hg
    · rename_i l0 got q heq
      obtain ⟨l, -, rfl⟩ := List.mem_map.mp hg
      exact hv (l0, got) (heq ▸ List.mem_cons_self)
    · exact hv g hg

end Sys2Proof.Machine
end

section
/-! LOADS: what `vld` and `sld` leave once their lanes have been performed (10 R203, R205; 14 R265, R267). -/

namespace Sys2Proof.Machine

/-! ## Accesses that need nothing before them -/

theorem orderOf_outside {u : Team} (h : insideOf u = .no) (sp : Space) (o : Ord) : orderOf u sp o = o := by
  unfold orderOf
  rw [h]
  cases sp <;> rfl

/-- The state after another ticket has been taken (14 R267). -/
def ticketed (s : State) (n : Nat) : State := { s with ticket := n }

/-- Where nothing is to be released before the first lane, a ticket may be taken. -/
theorem memFirst_ticketed {s : State} {x : Acc} {rel : Bool} (h : rel = true → releaseAt s x.a = s) : ∃ n, memFirst x rel s = ticketed s n := by
  have hrel : beforeRelease s x.a rel = s := by
    unfold beforeRelease
    split
    · exact h ‹_›
    · rfl
  unfold memFirst takeTicket
  rw [hrel]
  split
  · exact ⟨_, rfl⟩
  · exact ⟨s.ticket, rfl⟩

/-- At a narrow scope nothing is to be released. -/
theorem memFirst_narrow {x : Acc} {rel : Bool} (h : x.o = .weak ∧ rel = false ∨ scopeWide x.a.scope = false) (s : State) :
    ∃ n, memFirst x rel s = ticketed s n := by
  refine memFirst_ticketed (fun hrel => ?_)
  obtain ⟨-, hr⟩ | hn := h
  · rw [hr] at hrel
    cases hrel
  · simp [releaseAt, hn]

section
variable {s : State} {sid : Nat} {u : Team} {m : MemOpn} {lanes : List (Nat × Word)}
  (hnear : ∀ l ∈ lanes, (m.x.sp == .global && m.need (lineNo l.2) (byteRange (lineOff l.2) m.x.size)) = false)
include hnear

/-- Lanes that the scratchpad or the L1 serves go together. -/
theorem togetherOf_near : togetherOf s m lanes = lanes := by
  have hall : lanes.filter (fun l => !(m.x.sp == .global && m.need (lineNo l.2) (byteRange (lineOff l.2) m.x.size))) = lanes :=
    List.filter_eq_self.mpr (fun l hl => by rw [hnear l hl]; rfl)
  unfold togetherOf
  simp only [hall]
  cases lanes <;> rfl

/-- They need no miss-status entry. -/
theorem passLines_near : passLines s u m.x m.need lanes = [] := by
  unfold passLines
  split
  · rfl
  · rename_i hsp
    have hglobal : (m.x.sp == .global) = true := by simpa using hsp
    have hnone : lanes.filter (fun l => (laneCheck u m.x.sp m.x.size l.2).isNone && m.need (lineNo l.2) (byteRange (lineOff l.2) m.x.size) &&
        !outstanding s u (lineNo l.2)) = [] := List.filter_eq_nil_iff.mpr (fun l hl => by
      have := hnear l hl
      rw [hglobal, Bool.true_and] at this
      simp [this])
    rw [hnone]
    simp

end

/-- A pass that needs no entry begins at once. -/
theorem startPass_free {s : State} {sid : Nat} {u : Team} {m : MemOpn} {lanes : List (Nat × Word)} (hlines : passLines s u m.x m.need lanes = [])
    (haged : u.aged = false) (r : MemRun) : startPass s sid u m r lanes = .go (if r.left = r.en then m.first s else s)
      { r with held := some ((if r.left = r.en then m.first s else s).order, laneMask (lanes.map Prod.fst)) } lanes := by
  unfold startPass admitPass
  rw [hlines, haged]
  rfl

section
variable {s s0 s1 : State} {sid : Nat} {u t1 : Team} {en : Mask} {addr : Nat → Word} {m : MemOpn} {last : State → MemRun → Done}
  {gs : List (Nat × LaneGot)}

/-- A pass whose lanes the scratchpad or the L1 serves is performed at once. -/
theorem runPass_near (hs : Settled u s sid) (hx : m.x.a.sid = sid)
    (hchecks : m.write = true → needChecks s u m.x (lanesFor addr (passOf (runOf u en))) = [])
    (hnear : ∀ l ∈ passOf (runOf u en), (m.x.sp == .global && m.need (lineNo (addr l)) (byteRange (lineOff (addr l)) m.x.size)) = false)
    (hfirst : (if (runOf u en).left = (runOf u en).en then m.first s else s) = s0)
    (hsend : m.send s0 (lanesFor addr (passOf (runOf u en))) = none)
    (hrun : runLanes m.lane s0 (lanesFor addr (passOf (runOf u en))) = .ok (s1, gs)) (ht1 : s1.team? sid = some t1) :
    Performed sid u en s1 t1 gs last (runPass s sid u en addr m last) := by
  have hlanes : ∀ l ∈ lanesFor addr (passOf (runOf u en)),
      (m.x.sp == .global && m.need (lineNo l.2) (byteRange (lineOff l.2) m.x.size)) = false := by
    intro l hl
    obtain ⟨k, hk, rfl⟩ := List.mem_map.mp hl
    exact hnear k hk
  have hstart := startPass_free (sid := sid) (passLines_near (s := s) (u := u) hlanes) hs.aged (runOf u en)
  rw [hfirst, map_fst_lanesFor] at hstart
  exact runPass_performed hs hx hchecks hstart rfl rfl rfl rfl hsend (togetherOf_near hlanes) hrun ht1

end

/-! ## The registers of a load (06 R106-R108; 10 R205) -/

/-- Registers written one after another, each from what it held. -/
theorem foldl_setV {f : Team → Nat → VReg} {d : Nat} {t : Team}
    (hf : ∀ u i, u.w = t.w → u.vr (d + i) = t.vr (d + i) → f u i = f t i) (n : Nat) :
    ∃ V, (List.range n).foldl (fun t i => t.setV (d + i) (f t i)) t = { t with v := V } ∧
      (∀ k, k < n → ({ t with v := V } : Team).vr (d + k) = f t k) ∧
      ∀ k, k < d ∨ d + n ≤ k → ({ t with v := V } : Team).vr k = t.vr k := by
  induction n with
  | zero => exact ⟨t.v, rfl, fun k hk => absurd hk (Nat.not_lt_zero k), fun _ _ => rfl⟩
  | succ n ih =>
    obtain ⟨V, heq, hin, hout⟩ := ih
    have hval : f { t with v := V } n = f t n := hf _ n rfl (hout _ (.inr (Nat.le_refl _)))
    refine ⟨_, by rw [List.range_succ, List.foldl_append, heq]; rfl, fun k hk => ?_, fun k hk => ?_⟩
    · refine (Team.vr_setV { t with v := V } (d + n) (d + k) _).trans ?_
      split
      · rename_i hkn
        rw [hval, show n = k by omega]
      · exact hin k (by omega)
    · refine (Team.vr_setV { t with v := V } (d + n) k _).trans ?_
      rw [if_neg (by omega)]
      exact hout k (by omega)

theorem mem_regsOf {d : VIdx} {n k : Nat} : RegName.v k ∈ regsOf d n ↔ d.toNat ≤ k ∧ k < d.toNat + n := by
  simp only [regsOf, List.mem_map, List.mem_range, RegName.v.injEq]
  constructor
  · rintro ⟨j, hj, rfl⟩
    omega
  · rintro ⟨h1, h2⟩
    exact ⟨k - d.toNat, by omega, by omega⟩

/-- A change of vector registers of `regsOf` alone. -/
theorem SameRegs.of_vectors {t : Team} {d : VIdx} {n : Nat} {V : Tab VReg}
    (h : ∀ k, k < d.toNat ∨ d.toNat + n ≤ k → ({ t with v := V } : Team).vr k = t.vr k) : SameRegs t { t with v := V } (regsOf d n) where
  s _ _ := rfl
  v k hk := h k (by rw [mem_regsOf] at hk; omega)
  p _ _ := rfl
  mask _ := rfl

/-- The lanes of a load in their registers, the others kept. -/
theorem loadRegs_lanes (t : Team) (seed : Nat) (d : VIdx) (n : Nat) (vals : Tab Nat) :
    ∃ V, loadRegs t seed false d.toNat n vals = { t with v := V } ∧ SameRegs t { t with v := V } (regsOf d n) ∧
      ∀ l k, l < t.w → k < n → (({ t with v := V } : Team).vr (d.toNat + k)).lane l =
        match Tab.find vals l with
        | some x => BitVec.ofNat 32 (x / 2 ^ (32 * k))
        | none => (t.vr (d.toNat + k)).lane l := by
  obtain ⟨V, heq, hin, hout⟩ := foldl_setV (t := t) (d := d.toNat) (f := fun u i => .g ((List.range u.w).map (fun l =>
    match Tab.find vals l with
    | some x => BitVec.ofNat 32 (x / 2 ^ (32 * i))
    | none => (u.vr (d.toNat + i)).lane l))) (fun u i hw hv => by rw [hw, hv]) n
  refine ⟨V, heq, .of_vectors hout, fun l k hl hk => ?_⟩
  rw [hin k hk, VReg.lane]
  simp [List.getD_eq_getElem?_getD, hl]

/-- The value of one access in U registers. -/
theorem loadRegs_single (t : Team) (seed : Nat) (d : VIdx) (n l x : Nat) (vals : Tab Nat) :
    ∃ V, loadRegs t seed true d.toNat n ((l, x) :: vals) = { t with v := V } ∧ SameRegs t { t with v := V } (regsOf d n) ∧
      ∀ k, k < n → ({ t with v := V } : Team).vr (d.toNat + k) = .u (BitVec.ofNat 32 (x / 2 ^ (32 * k))) := by
  obtain ⟨V, heq, hin, hout⟩ := foldl_setV (t := t) (d := d.toNat) (f := fun _ i => .u (BitVec.ofNat 32 (x / 2 ^ (32 * i))))
    (fun _ _ _ _ => rfl) n
  exact ⟨V, heq, .of_vectors hout, hin⟩

end Sys2Proof.Machine
end

section
/-! VECTOR LOADS (06 R104, R108; 10 R205). -/

namespace Sys2Proof.Machine

/-! ## The lanes of a load -/

/-- The checks that an address passes (10 R196). -/
theorem laneCheck_fits {u : Team} {sp : Space} {n : Nat} {a : Word} (h : fits u sp n a) : laneCheck u sp n a = none := by
  obtain ⟨halign, hrange⟩ := h
  cases sp with
  | global =>
    have hcanon : canonical a = true := by
      have hlt := a.isLt
      simp only [canonical, BitVec.extractLsb'_toNat, Nat.shiftRight_eq_div_pow, Bool.or_eq_true, beq_iff_eq]
      dsimp only at hrange
      omega
    simp [laneCheck, hcanon, halign]
  | spad => simp [laneCheck, halign, show a.toNat < u.spadLen from hrange]
  | lpriv => simp [laneCheck, halign, show a.toNat < u.privLen from hrange]

theorem pageDenied_none {u : Team} (h : u.pf = none) (a : Word) : pageDenied u a = false := by
  simp [pageDenied, waitOf, h]

theorem mergeLine_zero (new old : LineData) : mergeLine 0#64 new old = old := by
  have hzero : maskBits 0#64 = 0#512 := BitVec.eq_of_getLsbD_eq (fun i hi => by simp [getLsbD_maskBits _ hi])
  rw [mergeLine, hzero, BitVec.and_zero, BitVec.zero_or, BitVec.not_zero, BitVec.and_allOnes]

/-- A load that the L1 serves (10 R198). -/
theorem loadLine_l1 {s : State} {o : Ord} {y : L1Line} {line : Nat} {need : ByteMask} {acc : Access} (hwq : ∀ q ∈ s.wq, q.sid ≠ acc.sid)
    (hnarrow : o = .weak ∨ scopeWide acc.scope = false) (hy : s.l1? acc.core acc.ctx line = some y) (hvalid : need &&& ~~~ y.valid = 0) :
    loadLine s acc o line need = (s, .ok y.data) := by
  have hqueue : s.wq.filter (fun q => q.sid == acc.sid && q.line == line) = [] :=
    List.filter_eq_nil_iff.mpr (fun q hq => by simp [hwq q hq])
  have hplace : (o != .weak && scopeWide acc.scope) = false := by
    obtain h | h := hnarrow <;> simp [h]
  simp [loadLine, hplace, loadL1, hy, hvalid, ownQueued, hqueue, mergeLine_zero]

theorem foldAccess_closed {s : State} (hw : s.windows = []) (t : Team) (va len : Nat) (rd wr : Bool) : foldAccess s t va len rd wr = s := by
  simp [foldAccess, hw]

section
variable {s : State} {x : Acc} {u : Team} {a : Word} (ht : s.team? x.a.sid = some u)
include ht

theorem loadLane_bad {c : BitVec 9} (hc : laneCheck u x.sp x.size a = some c) (l : Nat) : loadLane s x l a = (s, .out (.bad c a)) := by
  simp only [loadLane, ht, hc]

/-- A lane's scratchpad or per-lane load (10 R192, R194). -/
theorem loadLane_checked (hsp : x.sp ≠ .global) (hc : laneCheck u x.sp x.size a = none) (l : Nat) :
    loadLane s x l a = (s, .val (leNat (spadRead s u.coreId (bankOff u x.sp l a) x.size))) := by
  simp [loadLane, ht, hc, hsp]

theorem loadLane_spad (hsp : x.sp ≠ .global) (hfit : fits u x.sp x.size a) (l : Nat) :
    loadLane s x l a = (s, .val (leNat (spadRead s u.coreId (bankOff u x.sp l a) x.size))) :=
  loadLane_checked ht hsp (laneCheck_fits hfit) l

/-- A lane's global load, as its line is read (10 R200). -/
theorem loadLane_global (hpf : u.pf = none) (hi : insideOf u = .no) (hsp : x.sp = .global) (hfit : fits u .global x.size a) {e1 : State}
    {d : LineData} (hload : loadLine s x.a x.o (lineNo a) (byteRange (a.toNat % 64) x.size) = (e1, .ok d)) (hw : e1.windows = []) (l : Nat) :
    loadLane s x l a = (e1, .val (lineNat d (a.toNat % 64) x.size)) := by
  simp [loadLane, ht, hsp, laneCheck_fits hfit, pageDenied_none hpf, hi, hload, foldAccess_closed hw, lineOff]

/-- A lane's global load of bytes that the L1 holds (10 R198, R200). -/
theorem loadLane_l1 (hs : Settled u s x.a.sid) (hsp : x.sp = .global) (hfit : fits u .global x.size a) (hcore : x.a.core = u.coreId)
    (hctx : x.a.ctx = u.ctx) (hnarrow : x.o = .weak ∨ scopeWide x.a.scope = false) (hin : inL1 s u.coreId u.ctx a.toNat x.size) (l : Nat) :
    loadLane s x l a = (s, .val (l1Val s u.coreId u.ctx a.toNat x.size)) := by
  obtain ⟨y, hy, hvalid⟩ := hin
  have hload : loadLine s x.a x.o (lineNo a) (byteRange (a.toNat % 64) x.size) = (s, .ok y.data) :=
    loadLine_l1 hs.queue hnarrow (by rw [hcore, hctx]; exact hy) hvalid
  rw [loadLane_global ht hs.group hs.insideOf hsp hfit hload hs.open_, l1Val, hy]

end

/-- The bytes that a narrow load of the L1 finds there are not missing (10 R203). -/
theorem loadMisses_l1 {s : State} {acc : Access} {o : Ord} {va n : Nat} (hnarrow : o = .weak ∨ scopeWide acc.scope = false)
    (hin : inL1 s acc.core acc.ctx va n) : loadMisses s acc o (va / 64) (byteRange (va % 64) n) = false := by
  obtain ⟨y, hy, hvalid⟩ := hin
  have hplace : (o != .weak && scopeWide acc.scope) = false := by
    obtain h | h := hnarrow <;> simp [h]
  simp [loadMisses, hplace, hy, hvalid]

/-! ## A pass of a load -/

section
variable {s : State} {sid : Nat} {u : Team} {x : Acc} {en : Mask} {addr : Nat → Word} {res : Nat → LaneGot} {last : State → MemRun → Done}

/-- A pass whose lanes change nothing and need no miss-status entry. -/
theorem load_performed (hs : Settled u s sid) (ht : s.team? sid = some u) (hx : x.a.sid = sid)
    (hnarrow : x.o = .weak ∨ scopeWide x.a.scope = false)
    (hnear : x.sp = .global → ∀ l ∈ passOf (runOf u en), loadMisses s x.a x.o (lineNo (addr l)) (byteRange (lineOff (addr l)) x.size) = false)
    (hlane : ∀ n, ∀ l ∈ passOf (runOf u en), loadLane (ticketed s n) x l (addr l) = (ticketed s n, res l))
    (hres : ∀ l on, res l ≠ .stall on) :
    ∃ n, Performed sid u en (ticketed s n) u ((passOf (runOf u en)).map (fun l => (l, res l))) last
      (runPass s sid u en addr (loadOpn s u x) last) := by
  obtain ⟨n, hn⟩ : ∃ n, (if (runOf u en).left = (runOf u en).en then memFirst x (x.o == .sc) s else s) = ticketed s n := by
    split
    · exact memFirst_narrow (hnarrow.imp_left (fun h => ⟨h, by rw [h]; rfl⟩)) s
    · exact ⟨s.ticket, rfl⟩
  refine ⟨n, runPass_near (m := loadOpn s u x) hs hx (fun h => Bool.noConfusion h) (fun l hl => ?_) hn rfl (runLanes_pure (hlane n) hres) ht⟩
  by_cases hsp : x.sp = .global
  · simp [loadOpn, hs.insideOf, hnear hsp l hl]
  · simp [loadOpn, hsp]

end

/-! ## The end of `vld` -/

/-- The end of `vld`. -/
def vldEnd (sid : Nat) (u : Team) (x : Acc) (single : Bool) (d : VIdx) (ty : MTy) (en : Mask) (s : State) (r : MemRun) : Done :=
  loadEnd s sid u x single none r (regsOf d (mRegs ty))
    (fun vals t1 => loadRegs t1 s.fresh single d.toNat (mRegs ty) (vals.map (fun v => (v.1, mExtend ty 32 v.2))))
    (fun s => .fall (noteSkips s u (passCount u en single) single) 1)

theorem noteSkips_leaves {s : State} {sid : Nat} {t : Team} (h : s.team? sid = some t) (u : Team) (n : Nat) (single : Bool) :
    Leaves s (noteSkips s u n single) sid t := by
  unfold noteSkips
  split
  · exact .refl h
  · exact .pmcCount h ..

/-- Where all lanes were performed, once the registers have been written. -/
theorem vldEnd_vals {s1 e : State} {sid : Nat} {u : Team} {x : Acc} {single : Bool} {d : VIdx} {ty : MTy} {en : Mask} {r : MemRun}
    (hpf : u.pf = none) (hi : insideOf u = .no) (hnarrow : x.o = .weak ∨ scopeWide x.a.scope = false)
    (he : Leaves s1 e sid { u with mem := none }) (hvals : ∀ g ∈ r.got, ∃ v, g.2 = .val v) {V : Tab VReg}
    (hV : loadRegs { u with mem := none } e.fresh single d.toNat (mRegs ty) ((valsOf r.got).map (fun v => (v.1, mExtend ty 32 v.2))) =
      { u with mem := none, v := V }) (hregs : SameRegs { u with mem := none } { u with mem := none, v := V } (regsOf d (mRegs ty))) :
    ∃ e2 t2 n, vldEnd sid u x single d ty en e r = .fall e2 n ∧ Leaves s1 e2 sid t2 ∧ SameRegs u t2 (regsOf d (mRegs ty)) ∧ SameHeld u t2 ∧
      t2.v = V ∧ ∀ k, k < mRegs ty → ∃ y ∈ t2.sb, y.reg = .v (d.toNat + k) := by
  have hacq := afterAcquire_narrow hnarrow e r.got
  obtain ⟨e2, k, sb, all, hend, hl, hdst, -, hall⟩ := loadEnd_settles (e := e) (sid := sid) (u := u) (x := x) (single := single)
    (whole := none) (r := r) (write := fun vals t1 => loadRegs t1 e.fresh single d.toNat (mRegs ty) (vals.map (fun v => (v.1, mExtend ty 32 v.2))))
    (complete := fun s => .fall (noteSkips s u (passCount u en single) single) 1) (hacq ▸ he.team) (regsOf d (mRegs ty))
  rw [hacq, hV] at hl
  have hskips := noteSkips_leaves hl.team u (passCount u en single) single
  obtain ⟨hs, hv, hp, hm⟩ := hregs
  refine ⟨_, _, 1, ?_, (he.trans hl).trans hskips, ⟨hs, hv, hp, hm⟩, ?_, rfl, fun k hk => ?_⟩
  · rw [vldEnd, hend, settleMem_complete hpf hi (hall hvals)]
  · constructor <;> and_intros <;> intros <;> rfl
  · obtain ⟨y, hy, hr⟩ := hdst (.v (d.toNat + k)) (mem_regsOf.mpr ⟨by omega, by omega⟩)
    exact ⟨y, List.mem_append_right _ hy, hr⟩

/-! ## `vld` -/

/-- The access of a memory operand, of `n` bytes a lane. -/
def operandAcc (sid : Nat) (u : Team) (sp : Space) (o : Ord) (m : MemOp) (n : Nat) : Acc :=
  { a := accessOf sid u m, o := o, sp := sp, size := n }

section
variable {h : Hdr} {ty : MTy} {sp : Space} {o : Ord} {d : VIdx} {m : MemOp}

theorem loadVector_eq {s : State} {sid : Nat} {vw : View} {single : Bool} (hs : Settled vw.t s sid) (hen : vw.enable h ≠ 0)
    (hsingle : (vw.enable h == vw.t.lanes && uniformAddr vw.t m) = single)
    (hb : overBudget vw.t ((List.range (mRegs ty)).map (fun k => (d.toNat + k, if single then Tag.u else Tag.g))) = false) :
    loadVector h ty sp o d m sid vw s =
      runPass s sid vw.t (if single then 1#1024 <<< uniformLane s vw.t sp else vw.enable h) (vw.addr m)
        (loadOpn s vw.t (operandAcc sid vw.t sp o m (mBytes ty)))
        (vldEnd sid vw.t (operandAcc sid vw.t sp o m (mBytes ty)) single d ty (vw.enable h)) := by
  unfold loadVector
  simp only [beq_eq_false_iff_ne.mpr hen, Bool.and_false, Bool.false_eq_true, if_false, hs.lanes, Option.isSome_none, hsingle, hb,
    orderOf_outside hs.insideOf]
  rfl

variable {s : State} {sid : Nat} {t : Team} {res : Nat → LaneGot}

theorem exec_vld (c : Clear (.vld h ty sp o d m) s sid t) :
    exec (.vld h ty sp o d m) s = finish (.vld h ty sp o d m) sid (teamAtIssue (.vld h ty sp o d m) s sid t) (uses (.vld h ty sp o d m))
      (loadVector h ty sp o d m sid (viewAtIssue (.vld h ty sp o d m) s sid t) (atIssue (.vld h ty sp o d m) s sid t)) :=
  issue_clear c _

theorem setBit_single {l : Nat} (hl : l < 1024) (k : Nat) : (1#1024 <<< l).getLsbD k = decide (k = l) := by
  rw [BitVec.getLsbD_shiftLeft, BitVec.getLsbD_one, Bool.eq_iff_iff]
  simp only [Bool.and_eq_true, Bool.not_eq_true', decide_eq_true_eq, decide_eq_false_iff_not]
  omega

theorem lowest_single {l : Nat} (hl : l < 1024) : lowest (1#1024 <<< l) = some l := by
  rw [lowest_eq]
  cases hfind : (List.range 1024).find? (fun k => (1#1024 <<< l).getLsbD k) with
  | none =>
    have := List.find?_eq_none.mp hfind l (List.mem_range.mpr hl)
    simp [setBit_single hl] at this
  | some k =>
    have := List.find?_some hfind
    rw [setBit_single hl, decide_eq_true_iff] at this
    rw [this]

/-- The one lane of a mask is its first pass. -/
theorem passOf_single {u : Team} (hm : u.mem = none) {l : Nat} (hl : l < 1024) : passOf (runOf u (1#1024 <<< l)) = [l] := by
  have hleft : (runOf u (1#1024 <<< l)).left = 1#1024 <<< l := by simp [runOf, hm]
  have hmem : ∀ k, k ∈ passOf (runOf u (1#1024 <<< l)) ↔ k = l := by
    intro k
    rw [mem_passOf, hleft, lowest_single hl, setBit_single hl, decide_eq_true_iff, Option.getD_some]
    constructor
    · exact fun h => h.1
    · rintro rfl
      exact ⟨rfl, k % 32, by omega, by omega⟩
  exact List.perm_singleton.mp ((List.perm_ext_iff_of_nodup (passOf_nodup _) (List.nodup_singleton l)).mpr (by simpa using hmem))

/-- Nothing is left after it. -/
theorem restOf_single {u : Team} (hm : u.mem = none) {l : Nat} (hl : l < 1024) : restOf (runOf u (1#1024 <<< l)) = 0 := by
  have hleft : (runOf u (1#1024 <<< l)).left = 1#1024 <<< l := by simp [runOf, hm]
  apply BitVec.eq_of_getLsbD_eq
  intro k hk
  rw [getLsbD_restOf, passOf_single hm hl, hleft, setBit_single hl]
  simp

/-- A pass of `vld` whose lanes change nothing and need no miss-status entry is performed. -/
theorem vld_performed (h : Hdr) (ty : MTy) (sp : Space) (o : Ord) (d : VIdx) (m : MemOp) (s : State) (sid : Nat) (t : Team) (res : Nat → LaneGot) :
    let i := Instr.vld h ty sp o d m
    let en := enableOf i h s sid t
    let u := teamAtIssue i s sid t
    let s0 := atIssue i s sid t
    let x := operandAcc sid u sp o m (mBytes ty)
    let ad (l : Nat) := laneAddr i s sid t m l
    MemIssues i h s sid t → (o = .weak ∨ scopeWide m.scope = false) → ¬(en = u.lanes ∧ uniformAddr u m = true) →
    overBudget u ((List.range (mRegs ty)).map (fun k => (d.toNat + k, Tag.g))) = false →
    (sp = .global → ∀ l ∈ passOf (runOf u en), loadMisses s0 x.a o (lineNo (ad l)) (byteRange (lineOff (ad l)) (mBytes ty)) = false) →
    (∀ n, ∀ l ∈ passOf (runOf u en), loadLane (ticketed s0 n) x l (ad l) = (ticketed s0 n, res l)) →
    (∀ l on, res l ≠ .stall on) →
    ∃ n dn, exec i s = finish i sid u (uses i) dn ∧ Performed sid u en (ticketed s0 n) u
      ((passOf (runOf u en)).map (fun l => (l, res l))) (vldEnd sid u x false d ty en) dn := by
  intro i en u s0 x ad r hnarrow hu hb hnear hlane hres
  have hsingle : (en == u.lanes && uniformAddr u m) = false := by
    rw [Bool.eq_false_iff]
    simpa using hu
  obtain ⟨n, hp⟩ := load_performed (last := vldEnd sid u x false d ty en) r.settled r.resident_atIssue rfl hnarrow hnear hlane hres
  exact ⟨n, _, (exec_vld r.toClear).trans (congrArg (finish i sid u (uses i)) (loadVector_eq r.settled r.some hsingle hb)), hp⟩

/-- Such a pass loads its lanes. -/
theorem vld_lanesLoaded (h : Hdr) (ty : MTy) (sp : Space) (o : Ord) (d : VIdx) (m : MemOp) (s : State) (sid : Nat) (t : Team) (raw : Nat → Nat) :
    let i := Instr.vld h ty sp o d m
    let en := enableOf i h s sid t
    let u := teamAtIssue i s sid t
    let s0 := atIssue i s sid t
    let x := operandAcc sid u sp o m (mBytes ty)
    let ad (l : Nat) := laneAddr i s sid t m l
    MemRuns i h s sid t → (o = .weak ∨ scopeWide m.scope = false) → ¬(en = u.lanes ∧ uniformAddr u m = true) →
    overBudget u ((List.range (mRegs ty)).map (fun k => (d.toNat + k, Tag.g))) = false →
    (sp = .global → ∀ l ∈ passOf (runOf u en), loadMisses s0 x.a o (lineNo (ad l)) (byteRange (lineOff (ad l)) (mBytes ty)) = false) →
    (∀ n, ∀ l ∈ passOf (runOf u en), loadLane (ticketed s0 n) x l (ad l) = (ticketed s0 n, .val (raw l))) →
    LanesLoaded i s sid t en d ty raw := by
  intro i en u s0 x ad r hnarrow hu hb hnear hlane
  obtain ⟨n, dn, hx, hp⟩ := vld_performed h ty sp o d m s sid t (fun l => .val (raw l)) r.toMemIssues hnarrow hu hb hnear hlane
    (fun _ _ => LaneGot.noConfusion)
  refine memPass_of hx hp (fun e t' he => ?_) (fun _ e q he hgot => ?_)
  · exact ⟨⟨he.bytes.mem, he.bytes.spad⟩, he.other⟩
  · have hvals : ∀ g ∈ q.got, ∃ v, g.2 = .val v := by
      intro g hg
      rw [hgot] at hg
      obtain hg | hg := List.mem_append.mp hg
      · exact r.earlier g hg
      · obtain ⟨l, -, rfl⟩ := List.mem_map.mp hg
        exact ⟨_, rfl⟩
    obtain ⟨V, hV, hregs, hlanes⟩ := loadRegs_lanes { u with mem := none } e.fresh d (mRegs ty)
      ((valsOf q.got).map (fun v => (v.1, mExtend ty 32 v.2)))
    obtain ⟨e2, t2, k, hend, hl, hsame, hheld, hv, hsb⟩ := vldEnd_vals (x := x) (en := en) r.settled.group r.settled.insideOf hnarrow he hvals hV hregs
    refine ⟨e2, t2, k, hend, hl, hsame, hheld, fun t' ht' hsb' => ⟨fun l j hl hj => ?_, fun j hj => hsb' ▸ hsb j hj⟩⟩
    have hvr : t'.vr (d.toNat + j) = ({ u with mem := none, v := V } : Team).vr (d.toNat + j) := by simp only [Team.vr, ht', hv]
    rw [hvr, hlanes l j hl hj, Tab.find_map, hgot, find_valsOf_broughtBack r.earlier]
    cases broughtBack (runOf u en) raw l <;> rfl

theorem uniformLane_lt {u : Team} (hw : 0 < u.w) (s : State) (sp : Space) : uniformLane s u sp < u.w := by
  unfold uniformLane
  split
  · exact Nat.mod_lt _ hw
  · exact hw

/-- One access serves a U result. -/
theorem vld_uniformLoaded (h : Hdr) (ty : MTy) (sp : Space) (o : Ord) (d : VIdx) (m : MemOp) (s : State) (sid : Nat) (t : Team)
    (raw : Nat → Nat) :
    let i := Instr.vld h ty sp o d m
    let u := teamAtIssue i s sid t
    let s0 := atIssue i s sid t
    let x := operandAcc sid u sp o m (mBytes ty)
    let ad (l : Nat) := laneAddr i s sid t m l
    MemRuns i h s sid t → (o = .weak ∨ scopeWide m.scope = false) → u.mem = none → enableOf i h s sid t = u.lanes → uniformAddr u m = true →
    overBudget u ((List.range (mRegs ty)).map (fun k => (d.toNat + k, Tag.u))) = false →
    (sp = .global → ∀ l, l < u.w → (sp ≠ .lpriv → l = 0) →
      loadMisses s0 x.a o (lineNo (ad l)) (byteRange (lineOff (ad l)) (mBytes ty)) = false) →
    (∀ n l, l < u.w → (sp ≠ .lpriv → l = 0) →
      loadLane (ticketed s0 n) x l (ad l) = (ticketed s0 n, .val (raw l))) →
    UniformLoaded i s sid t sp d ty raw := by
  intro i u s0 x ad r hnarrow hm hen hu hb hnear hlane
  have hw : 0 < u.w := by
    refine Nat.pos_of_ne_zero (fun hz => r.some (hen.trans ?_))
    rw [Team.lanes, hz]
    rfl
  have hwide : u.w ≤ 1024 := r.width
  obtain ⟨l0, hl0⟩ : ∃ l, uniformLane s0 u sp = l := ⟨_, rfl⟩
  have hlt : l0 < u.w := hl0 ▸ uniformLane_lt hw s0 sp
  have hfirst : sp ≠ .lpriv → l0 = 0 := by
    intro hsp
    rw [← hl0, uniformLane, if_neg (by simpa using hsp)]
  have hpass : passOf (runOf u (1#1024 <<< l0)) = [l0] := passOf_single hm (by omega)
  have hmem : ∀ l ∈ passOf (runOf u (1#1024 <<< l0)), l = l0 := fun l hl => List.mem_singleton.mp (hpass ▸ hl)
  have hsingle : (enableOf i h s sid t == u.lanes && uniformAddr u m) = true := by simp [hen, hu]
  have hexec : exec i s = finish i sid u (uses i) (runPass s0 sid u (1#1024 <<< l0) ad (loadOpn s0 u x) (vldEnd sid u x true d ty (enableOf i h s sid t))) := by
    refine (exec_vld r.toClear).trans (congrArg (finish i sid u (uses i)) ?_)
    rw [loadVector_eq (vw := viewAtIssue i s sid t) r.settled r.some hsingle hb]
    simp only [if_true]
    rw [show uniformLane s0 (viewAtIssue i s sid t).t sp = l0 from hl0]
    rfl
  obtain ⟨n, hp⟩ := load_performed (x := x) (en := 1#1024 <<< l0) (addr := ad) (res := fun l => .val (raw l))
    (last := vldEnd sid u x true d ty (enableOf i h s sid t)) r.settled r.resident_atIssue rfl hnarrow
    (fun hsp l hl => (hmem l hl).symm ▸ hnear hsp l0 hlt hfirst) (fun n l hl => (hmem l hl).symm ▸ hlane n l0 hlt hfirst)
    (fun _ _ => LaneGot.noConfusion)
  obtain ⟨e, q, hd, he, hgot⟩ := hp.ends (restOf_single hm (by omega))
  have hnone : (runOf u (1#1024 <<< l0)).got = [] := by simp only [runOf, hm, Option.getD_none]
  have hgot' : q.got = [(l0, .val (raw l0))] :=
    hgot.trans (congrArg₂ (· ++ ·) hnone (congrArg (List.map (fun l => (l, LaneGot.val (raw l)))) hpass))
  obtain ⟨V, hV, hregs, hlanes⟩ := loadRegs_single { u with mem := none } e.fresh d (mRegs ty) l0 (mExtend ty 32 (raw l0)) []
  obtain ⟨e2, t2, k, hend, hl, hsame, hheld, hv, hsb⟩ := vldEnd_vals (x := x) (single := true) (ty := ty) (d := d) (r := q)
    (en := enableOf i h s sid t) r.settled.group
    r.settled.insideOf hnarrow he (by simp [hgot']) (by rw [hgot']; exact hV) hregs
  obtain ⟨t', hl', hpc, -, hsb', -, hv', hregs', hheld'⟩ := retire_leaves (i := i) (t0 := u) (u := uses i) (n := k) (pc := u.pc + 12) hl.team
  have hall := hl.trans hl'
  refine ⟨_, t', hexec.trans (congrArg (finish i sid u (uses i)) (hd.trans hend)), hl'.team, hpc, ⟨l0, hlt, hfirst, fun j hj => ?_⟩, fun j hj => hsb' ▸ hsb j hj, hsame.trans_nil hregs', hheld.trans hheld',
    ⟨hall.bytes.mem, hall.bytes.spad⟩, hall.other⟩
  refine Eq.trans ?_ (hlanes j hj)
  simp only [Team.vr, hv', hv]
end

end Sys2Proof.Machine
end

section
/-! STORES, pass by pass (10 R198, R201, R205; 14 R265, R267). -/

namespace Sys2Proof.Machine

/-! ## Scratchpad bytes (10 R192, R194) -/

theorem find_foldl_put (core off : Nat) (bs : List Byte) (n : Nat) (t : Tab Byte) (k : Nat) :
    Tab.find ((bs.zipIdx n).foldl (fun m b => Tab.put m (spadKey core (off + b.2)) b.1) t) k =
      if spadKey core off + n ≤ k ∧ k < spadKey core off + n + bs.length then bs[k - (spadKey core off + n)]? else Tab.find t k := by
  induction bs generalizing n t with
  | nil => simp
  | cons b r ih =>
    rw [List.zipIdx_cons, List.foldl_cons, ih, Tab.find_put, List.length_cons]
    have hkey : spadKey core (off + n) = spadKey core off + n := by simp only [spadKey]; omega
    rw [hkey]
    by_cases hk : k = spadKey core off + n
    · rw [if_neg (by omega), if_pos hk, if_pos (by omega), hk, Nat.sub_self, List.getElem?_cons_zero]
    · rw [if_neg hk]
      by_cases hin : spadKey core off + (n + 1) ≤ k ∧ k < spadKey core off + (n + 1) + r.length
      · rw [if_pos hin, if_pos (by omega), show k - (spadKey core off + n) = k - (spadKey core off + (n + 1)) + 1 by omega,
          List.getElem?_cons_succ]
      · rw [if_neg hin, if_neg (by omega)]

/-- Bytes written to a scratchpad are there, and the others are as they were. -/
theorem spadByte_spadWrite (s : State) (core off : Nat) (bs : List Byte) (w : SpadWriter) (k : Nat) :
    spadByte (spadWrite s core off bs w) k =
      if spadKey core off ≤ k ∧ k < spadKey core off + bs.length then bs.getD (k - spadKey core off) 0 else spadByte s k := by
  obtain ⟨c, hc⟩ : ∃ c, noteSpad s core off bs.length w = { s with cores := c } := by
    unfold noteSpad
    split
    · exact ⟨s.cores, rfl⟩
    · exact ⟨_, rfl⟩
  have hfind : Tab.find (spadWrite s core off bs w).spad k = if spadKey core off ≤ k ∧ k < spadKey core off + bs.length
      then bs[k - spadKey core off]? else Tab.find s.spad k := by
    have hput := find_foldl_put core off bs 0 s.spad k
    rw [Nat.add_zero] at hput
    rw [spadWrite, hc]
    exact hput
  have hbase : (spadWrite s core off bs w).spadBase = s.spadBase := by
    rw [spadWrite, hc]
    rfl
  unfold spadByte
  rw [hfind, hbase]
  by_cases hin : spadKey core off ≤ k ∧ k < spadKey core off + bs.length
  · rw [if_pos hin, if_pos hin, List.getD_eq_getElem?_getD, List.getElem?_eq_getElem (by omega)]
    rfl
  · rw [if_neg hin, if_neg hin]

/-- Scratchpad writes change the scratchpads, their log and what copies and matrix operations have been told. -/
structure SpadOnly (s s' : State) : Prop where
  rest : s' = { s with cores := s'.cores, spad := s'.spad, spadLog := s'.spadLog }

theorem SpadOnly.refl (s : State) : SpadOnly s s := ⟨rfl⟩

theorem SpadOnly.trans {s s1 s2 : State} (h : SpadOnly s s1) (g : SpadOnly s1 s2) : SpadOnly s s2 :=
  ⟨g.rest.trans (congrArg (fun x : State => { x with cores := s2.cores, spad := s2.spad, spadLog := s2.spadLog }) h.rest)⟩

theorem spadWrite_only (s : State) (core off : Nat) (bs : List Byte) (w : SpadWriter) : SpadOnly s (spadWrite s core off bs w) := by
  unfold spadWrite noteSpad
  split
  · exact ⟨rfl⟩
  · exact ⟨rfl⟩

section
variable {s s' : State} (h : SpadOnly s s')
include h

theorem SpadOnly.mem : s'.mem = s.mem := (congrArg State.mem h.rest).trans rfl
theorem SpadOnly.l1 : s'.l1 = s.l1 := (congrArg State.l1 h.rest).trans rfl
theorem SpadOnly.homes : s'.homes = s.homes := (congrArg State.homes h.rest).trans rfl
theorem SpadOnly.team? (k : Nat) : s'.team? k = s.team? k := (congrArg (fun x : State => x.team? k) h.rest).trans rfl

end

/-! ## Writes one after another (10 R201) -/

section
variable {S α : Type} {step : S → Nat → S} {read : S → Nat → α} {I : S → Prop} {lo : Nat → Nat} {n : Nat} {w : Nat → Nat → α} {ls : List Nat}

/-- Ranges that are written one after another, in ascending order of their lanes: a place has what its last writer left. -/
theorem foldl_writes (hI : ∀ s l, I s → l ∈ ls → I (step s l))
    (hstep : ∀ s l, I s → l ∈ ls → ∀ a, read (step s l) a = if lo l ≤ a ∧ a < lo l + n then w l (a - lo l) else read s a) {s : S} (hs : I s) :
    (∀ a, (∀ l ∈ ls, ¬(lo l ≤ a ∧ a < lo l + n)) → read (ls.foldl step s) a = read s a) ∧
      (ls.Pairwise (· < ·) → ∀ l ∈ ls, ∀ j, j < n → (∀ k ∈ ls, l < k → ¬(lo k ≤ lo l + j ∧ lo l + j < lo k + n)) →
        read (ls.foldl step s) (lo l + j) = w l j) := by
  induction ls generalizing s with
  | nil => exact ⟨fun _ _ => rfl, fun _ l hl => absurd hl List.not_mem_nil⟩
  | cons x r ih =>
    obtain ⟨hout, hin⟩ := ih (fun s l h hl => hI s l h (List.mem_cons_of_mem _ hl)) (fun s l h hl => hstep s l h (List.mem_cons_of_mem _ hl))
      (hI s x hs List.mem_cons_self)
    have hx := hstep s x hs List.mem_cons_self
    refine ⟨fun a ha => ?_, fun hsort l hl j hj hlast => ?_⟩
    · rw [List.foldl_cons, hout a (fun l hl => ha l (List.mem_cons_of_mem _ hl)), hx, if_neg (ha x List.mem_cons_self)]
    · obtain ⟨hfirst, hsort⟩ := List.pairwise_cons.mp hsort
      obtain rfl | hl := List.mem_cons.mp hl
      · rw [List.foldl_cons, hout _ (fun k hk => hlast k (List.mem_cons_of_mem _ hk) (hfirst k hk)), hx, if_pos (by omega), Nat.add_sub_cancel_left]
      · exact hin hsort l hl j hj (fun k hk => hlast k (List.mem_cons_of_mem _ hk))

end

/-! ## A pass of a store -/

/-- A store, pass by pass. -/
def storeOpn (s : State) (u : Team) (x : Acc) (val : Nat → Nat) : MemOpn :=
  { x := x, write := true, drain := isAcq x.o, sc := x.o == .sc, first := memFirst x (isAcq x.o),
    need := fun l _ => writtenThrough s u x l, event := false, send := fun _ _ => none, lane := fun s l a => storeLane s x l a (val l) }

/-- The end of a store. -/
def storeEnd (sid : Nat) (u : Team) (x : Acc) (whole : Option Mask) (complete : State → Done) (s : State) (r : MemRun) : Done :=
  settleMem { (if x.o == .sc then acquireAt s x.a else s) with
    wfaults := (if x.o == .sc then acquireAt s x.a else s).wfaults.filter (fun f => f.sid != sid) } sid u x true whole r.got complete

theorem storePass_eq (s : State) (sid : Nat) (u : Team) (x : Acc) (en : Mask) (whole : Option Mask) (addr : Nat → Word) (val : Nat → Nat)
    (complete : State → Done) :
    storePass s sid u x en whole addr val complete = runPass s sid u en addr (storeOpn s u x val) (storeEnd sid u x whole complete) := rfl

/-- Where all lanes were performed, a store completes. -/
theorem storeEnd_vals {e : State} {sid : Nat} {u t1 : Team} {x : Acc} {whole : Option Mask} {complete : State → Done} {r : MemRun}
    (hpf : u.pf = none) (hi : insideOf u = .no) (hnarrow : x.o = .weak ∨ scopeWide x.a.scope = false) (ht : e.team? sid = some t1)
    (hvals : ∀ g ∈ r.got, ∃ v, g.2 = .val v) : ∃ e2, storeEnd sid u x whole complete e r = complete e2 ∧ Leaves e e2 sid t1 := by
  have hacq : (if x.o == .sc then acquireAt e x.a else e) = e := by
    obtain h | h := hnarrow
    · rw [h]
      rfl
    · simp [acquireAt, h]
  refine ⟨_, settleMem_complete hpf hi hvals x true whole complete, ?_⟩
  rw [hacq]
  exact ⟨⟨fun _ => rfl, fun _ => rfl, rfl, rfl, rfl⟩, rfl, rfl, ht, fun _ _ => rfl⟩

section
variable {s : State} {sid : Nat} {u : Team} {x : Acc} {en : Mask} {addr : Nat → Word} {val : Nat → Nat} {last : State → MemRun → Done}
  {I : State → Prop} {step : State → Nat → State}

/-- A pass whose lanes write where nothing is to be asked for and no miss-status entry is needed. -/
theorem store_performed (hs : Settled u s sid) (hx : x.a.sid = sid) (hnarrow : x.o = .weak ∨ scopeWide x.a.scope = false)
    (hchecks : needChecks s u x (lanesFor addr (passOf (runOf u en))) = [])
    (hnear : x.sp = .global → ∀ l ∈ passOf (runOf u en), writtenThrough s u x (lineNo (addr l)) = false)
    (hI : ∀ n, I (ticketed s n)) (hteam : ∀ e, I e → e.team? sid = some u)
    (hlane : ∀ e l, I e → l ∈ passOf (runOf u en) → storeLane e x l (addr l) (val l) = (step e l, .val 0) ∧ I (step e l)) :
    ∃ n, Performed sid u en ((passOf (runOf u en)).foldl step (ticketed s n)) u ((passOf (runOf u en)).map (fun l => (l, .val 0))) last
      (runPass s sid u en addr (storeOpn s u x val) last) := by
  obtain ⟨n, hn⟩ : ∃ n, (if (runOf u en).left = (runOf u en).en then memFirst x (isAcq x.o) s else s) = ticketed s n := by
    split
    · exact memFirst_narrow (hnarrow.imp_left (fun h => ⟨h, by rw [h]; rfl⟩)) s
    · exact ⟨s.ticket, rfl⟩
  have hfold : I ((passOf (runOf u en)).foldl step (ticketed s n)) := List.foldlRecOn _ step (hI n) (fun e he l hl => (hlane e l he hl).2)
  have hrun := runLanes_foldl (f := (storeOpn s u x val).lane) (addr := addr) (step := step) (res := fun _ _ => .val 0) (I := I)
    (fun e l he hl => (hlane e l he hl).1) (fun e l he hl => (hlane e l he hl).2) (fun _ _ _ => LaneGot.noConfusion) (hI n)
  rw [laneGots_const] at hrun
  refine ⟨n, runPass_near (m := storeOpn s u x val) hs hx (fun _ => hchecks) (fun l hl => ?_) hn rfl hrun (hteam _ hfold)⟩
  by_cases hsp : x.sp = .global
  · simp [storeOpn, hnear hsp l hl]
  · simp [storeOpn, hsp]

end

/-! ## `vst` and `sst` -/

section
variable {i : Instr} {h : Hdr} {s : State} {sid : Nat} {t : Team} {x : Acc} {en : Mask} {whole : Option Mask} {addr : Nat → Word}
  {val : Nat → Nat} {complete : State → Done} {I : State → Prop} {step : State → Nat → State} {stored : State → Prop}

/-- Such a pass, of an instruction whose earlier passes performed their lanes. -/
theorem store_memPass (hs : Settled (teamAtIssue i s sid t) (atIssue i s sid t) sid)
    (hexec : exec i s = finish i sid (teamAtIssue i s sid t) (uses i)
      (storePass (atIssue i s sid t) sid (teamAtIssue i s sid t) x en whole addr val complete))
    (hearlier : ∀ e ∈ (runOf (teamAtIssue i s sid t) en).got, ∃ x, e.2 = .val x) (hx : x.a.sid = sid)
    (hnarrow : x.o = .weak ∨ scopeWide x.a.scope = false)
    (hcomplete : ∀ e t1, e.team? sid = some t1 → ∃ e2 n, complete e = .fall e2 n ∧ Leaves e e2 sid t1)
    (hchecks : needChecks (atIssue i s sid t) (teamAtIssue i s sid t) x (lanesFor addr (passOf (runOf (teamAtIssue i s sid t) en))) = [])
    (hnear : x.sp = .global → ∀ l ∈ passOf (runOf (teamAtIssue i s sid t) en),
      writtenThrough (atIssue i s sid t) (teamAtIssue i s sid t) x (lineNo (addr l)) = false)
    (hI : ∀ n, I (ticketed (atIssue i s sid t) n)) (hteam : ∀ e, I e → e.team? sid = some (teamAtIssue i s sid t))
    (hlane : ∀ e l, I e → l ∈ passOf (runOf (teamAtIssue i s sid t) en) →
      storeLane e x l (addr l) (val l) = (step e l, .val 0) ∧ I (step e l))
    (hstored : ∀ n e t', Leaves ((passOf (runOf (teamAtIssue i s sid t) en)).foldl step (ticketed (atIssue i s sid t) n)) e sid t' → stored e) :
    MemPass i s sid t en [] (fun _ => .val 0) stored (fun _ => True) := by
  obtain ⟨n, hp⟩ := store_performed (last := storeEnd sid (teamAtIssue i s sid t) x whole complete) hs hx hnarrow hchecks hnear hI hteam hlane
  refine memPass_of hexec hp (hstored n) (fun _ e r he hgot => ?_)
  have hvals : ∀ g ∈ r.got, ∃ v, g.2 = .val v := by
    intro g hg
    rw [hgot] at hg
    obtain hg | hg := List.mem_append.mp hg
    · exact hearlier g hg
    · obtain ⟨l, -, rfl⟩ := List.mem_map.mp hg
      exact ⟨_, rfl⟩
  obtain ⟨e2, hend, hl⟩ := storeEnd_vals (whole := whole) (complete := complete) hs.group hs.insideOf hnarrow he.team hvals
  obtain ⟨e3, k, hfall, hl'⟩ := hcomplete e2 _ hl.team
  refine ⟨e3, _, k, hend.trans hfall, (he.trans hl).trans hl', .of_fields rfl rfl rfl rfl rfl, ?_, fun _ _ _ => trivial⟩
  constructor <;> and_intros <;> intros <;> rfl

/-- A lane's store into scratchpad or per-lane bytes. -/
theorem storeLane_spad {e : State} {u : Team} {a : Word} (ht : e.team? x.a.sid = some u) (hsp : x.sp ≠ .global) (hfit : fits u x.sp x.size a)
    (l v : Nat) :
    storeLane e x l a v = (spadWrite e u.coreId (bankOff u x.sp l a) (leBytes x.size v) (.store u.key), .val 0) := by
  simp [storeLane, ht, laneCheck_fits hfit, hsp]

end

theorem getD_leBytes (n v : Nat) {j : Nat} (hj : j < n) : (leBytes n v).getD j 0 = BitVec.ofNat 8 (v / 2 ^ (8 * j)) := by
  induction n generalizing v j with
  | zero => exact absurd hj (Nat.not_lt_zero j)
  | succ n ih =>
    cases j with
    | zero => simp [leBytes]
    | succ j =>
      rw [leBytes, List.getD_cons_succ, ih _ (by omega), Nat.div_div_eq_div_mul, Nat.mul_succ, Nat.add_comm, Nat.pow_add]

section
variable {i : Instr} {s : State} {sid : Nat} {t : Team} {x : Acc} {en : Mask} {whole : Option Mask} {addr : Nat → Word}
  {val : Nat → Nat} {complete : State → Done}

/-- A lane's store, as it changes the scratchpads. -/
def spadStep (u : Team) (x : Acc) (addr : Nat → Word) (val : Nat → Nat) (e : State) (l : Nat) : State :=
  spadWrite e u.coreId (bankOff u x.sp l (addr l)) (leBytes x.size (val l)) (.store u.key)

theorem spadStep_only (u : Team) (x : Acc) (addr : Nat → Word) (val : Nat → Nat) (e : State) (l : Nat) :
    SpadOnly e (spadStep u x addr val e l) := spadWrite_only ..

theorem spadStep_fold (u : Team) (x : Acc) (addr : Nat → Word) (val : Nat → Nat) (ls : List Nat) (e : State) :
    SpadOnly e (ls.foldl (spadStep u x addr val) e) := by
  induction ls generalizing e with
  | nil => exact .refl e
  | cons l r ih => exact (spadStep_only ..).trans (ih _)

theorem laneKey_eq (u : Team) (sp : Space) (l : Nat) (a : Word) (j : Nat) :
    laneKey u sp l a j = spadKey u.coreId (bankOff u sp l a) + j := by
  simp only [laneKey, spadKey]
  omega

/-- What the lanes of a pass leave in the scratchpads. -/
theorem spadStep_bytes (u : Team) (x : Acc) (addr : Nat → Word) (val : Nat → Nat) (ls : List Nat) (e : State) :
    (ls.Pairwise (· < ·) → ∀ l ∈ ls, ∀ j, j < x.size →
      (∀ k ∈ ls, l < k → ∀ b, b < x.size → laneKey u x.sp k (addr k) b ≠ laneKey u x.sp l (addr l) j) →
      spadByte (ls.foldl (spadStep u x addr val) e) (laneKey u x.sp l (addr l) j) = BitVec.ofNat 8 (val l / 2 ^ (8 * j))) ∧
    (∀ a, (∀ l ∈ ls, ∀ j, j < x.size → laneKey u x.sp l (addr l) j ≠ a) → spadByte (ls.foldl (spadStep u x addr val) e) a = spadByte e a) := by
  obtain ⟨hout, hin⟩ := foldl_writes (ls := ls) (read := spadByte) (n := x.size) (step := spadStep u x addr val)
    (lo := fun l => spadKey u.coreId (bankOff u x.sp l (addr l))) (w := fun l j => (leBytes x.size (val l)).getD j 0) (I := fun _ => True)
    (fun _ _ _ _ => trivial) (fun e l _ _ a => by rw [spadStep, spadByte_spadWrite, length_leBytes]) (s := e) trivial
  simp only [laneKey_eq]
  refine ⟨fun hsort l hl j hj hlast => ?_, fun a ha => hout a (fun l hl hb => ?_)⟩
  · rw [hin hsort l hl j hj (fun k hk hlk hb => ?_), getD_leBytes _ _ hj]
    exact hlast k hk hlk _ (Nat.sub_lt_left_of_lt_add hb.1 hb.2) (Nat.add_sub_cancel' hb.1)
  · exact ha l hl _ (Nat.sub_lt_left_of_lt_add hb.1 hb.2) (Nat.add_sub_cancel' hb.1)

/-- A store into scratchpad or per-lane bytes. -/
theorem spadStored_of (hs : Settled (teamAtIssue i s sid t) (atIssue i s sid t) sid)
    (ht : (atIssue i s sid t).team? sid = some (teamAtIssue i s sid t))
    (hexec : exec i s = finish i sid (teamAtIssue i s sid t) (uses i)
      (storePass (atIssue i s sid t) sid (teamAtIssue i s sid t) x en whole addr val complete))
    (hearlier : ∀ e ∈ (runOf (teamAtIssue i s sid t) en).got, ∃ x, e.2 = .val x) (hx : x.a.sid = sid)
    (hnarrow : x.o = .weak ∨ scopeWide x.a.scope = false)
    (hcomplete : ∀ e t1, e.team? sid = some t1 → ∃ e2 n, complete e = .fall e2 n ∧ Leaves e e2 sid t1)
    (hsp : x.sp ≠ .global) {addr' : Nat → Word} {val' : Nat → Nat}
    (hlanes : ∀ l ∈ passOf (runOf (teamAtIssue i s sid t) en), addr l = addr' l ∧ val l = val' l)
    (hfit : ∀ l ∈ passOf (runOf (teamAtIssue i s sid t) en), fits (teamAtIssue i s sid t) x.sp x.size (addr' l)) :
    SpadStored i s sid t x.sp en x.size addr' val' := by
  refine store_memPass (I := fun e => ∃ n, SpadOnly (ticketed (atIssue i s sid t) n) e)
    (step := spadStep (teamAtIssue i s sid t) x addr' val') hs hexec hearlier hx hnarrow hcomplete (by simp [needChecks, hsp])
    (fun hg => absurd hg hsp) (fun n => ⟨n, .refl _⟩) (fun e ⟨n, he⟩ => (he.team? sid).trans ht) (fun e l ⟨n, he⟩ hl => ?_) (fun n e t' he => ?_)
  · obtain ⟨haddr, hval⟩ := hlanes l hl
    rw [haddr, hval]
    exact ⟨storeLane_spad (hx ▸ (he.team? sid).trans ht) hsp (hfit l hl) l _, n, he.trans (spadWrite_only ..)⟩
  · obtain ⟨hin, hout⟩ := spadStep_bytes (teamAtIssue i s sid t) x addr' val' (passOf (runOf (teamAtIssue i s sid t) en))
      (ticketed (atIssue i s sid t) n)
    have hfold := spadStep_fold (teamAtIssue i s sid t) x addr' val' (passOf (runOf (teamAtIssue i s sid t) en)) (ticketed (atIssue i s sid t) n)
    exact ⟨fun l hl j hj hlast => (he.bytes.spad _).trans (hin (passOf_sorted _) l hl j hj hlast),
      fun a ha => (he.bytes.spad a).trans (hout a ha), fun k => (he.bytes.mem k).trans (by rw [hfold.mem]; rfl),
      he.bytes.l1.trans hfold.l1, he.bytes.home.trans hfold.homes, fun k hk => (he.other k hk).trans (hfold.team? k)⟩

end

end Sys2Proof.Machine
end

section
/-! SCRATCHPAD ACCESSES (O23): loads and stores of scratchpad and per-lane bytes (10 R192-R196, R205). -/

namespace Sys2Proof.Machine

/-! ## The one lane of a scalar-side access -/

theorem passOf_one {u : Team} (hm : u.mem = none) : passOf (runOf u 1) = [0] := by
  have h := passOf_single hm (l := 0) (by omega)
  rwa [BitVec.shiftLeft_zero] at h

theorem restOf_one {u : Team} (hm : u.mem = none) : restOf (runOf u 1) = 0 := by
  have h := restOf_single hm (l := 0) (by omega)
  rwa [BitVec.shiftLeft_zero] at h

theorem got_one {u : Team} (hm : u.mem = none) (en : Mask) : (runOf u en).got = [] := by simp only [runOf, hm, Option.getD_none]

/-! ## `sld` -/

/-- A scalar load's destination holds a value (10 R205). -/
def ScalarHolds (t : Team) (ty : MTy) (d : SVDst) (x : Nat) : Prop :=
  match d with
  | .s n => t.sr n.toNat = (if n = 0 then 0 else BitVec.ofNat 64 (mExtend ty 64 x)) ∧
      (ty = .b128 → t.sr (n.toNat + 1) = BitVec.ofNat 64 (x / 2 ^ 64))
  | .v n => ∀ k, k < mRegs ty → t.vr (n.toNat + k) = .u (BitVec.ofNat 32 (mExtend ty 32 x / 2 ^ (32 * k)))

theorem ScalarHolds.congr {t t' : Team} {ty : MTy} {d : SVDst} {x : Nat} (h : ScalarHolds t ty d x) (hs : t'.s = t.s) (hv : t'.v = t.v) :
    ScalarHolds t' ty d x := by
  cases d with
  | s n => simpa only [ScalarHolds, Team.sr, hs] using h
  | v n => simpa only [ScalarHolds, Team.vr, hv] using h

/-- The scalars of a scalar load. -/
theorem loadScalarRegs_scalars (t : Team) (seed : Nat) (ty : MTy) (n : SIdx) (l x : Nat) :
    ∃ S, loadScalarRegs t seed ty (.s n) [(l, x)] = { t with s := S } ∧ ∀ k, ({ t with s := S } : Team).sr k =
      if ty = .b128 ∧ k = n.toNat + 1 then BitVec.ofNat 64 (x / 2 ^ 64)
      else if k = n.toNat ∧ n.toNat ≠ 0 then BitVec.ofNat 64 (mExtend ty 64 x) else t.sr k := by
  obtain ⟨S, hS⟩ := Team.setS_eq t n.toNat (BitVec.ofNat 64 (mExtend ty 64 x))
  have hsr := Team.sr_setS t n.toNat (x := BitVec.ofNat 64 (mExtend ty 64 x))
  rw [hS] at hsr
  by_cases hty : ty = .b128
  · subst hty
    obtain ⟨S', hS'⟩ := Team.setS_eq { t with s := S } (n.toNat + 1) (BitVec.ofNat 64 (x / 2 ^ 64))
    have hsr' := Team.sr_setS { t with s := S } (n.toNat + 1) (x := BitVec.ofNat 64 (x / 2 ^ 64))
    rw [hS'] at hsr'
    refine ⟨S', ?_, fun k => ?_⟩
    · simp only [loadScalarRegs, hS, beq_self_eq_true, if_true]
      exact hS'
    · refine (hsr' k).trans ?_
      rw [hsr]
      simp
  · refine ⟨S, ?_, fun k => ?_⟩
    · simp only [loadScalarRegs, hS, beq_eq_false_iff_ne.mpr hty, Bool.false_eq_true, if_false]
    · rw [if_neg (fun h => hty h.1)]
      exact hsr k

/-- The registers of a scalar load, and no other, are written. -/
theorem loadScalarRegs_spec (t : Team) (seed : Nat) (ty : MTy) (d : SVDst) (l x : Nat) :
    ∃ S V, loadScalarRegs t seed ty d [(l, x)] = { t with s := S, v := V } ∧
      SameRegs t { t with s := S, v := V } (scalarDsts ty d) ∧ ScalarHolds { t with s := S, v := V } ty d x := by
  cases d with
  | v n =>
    obtain ⟨V, heq, hregs, hvals⟩ := loadRegs_single t seed n (mRegs ty) l (mExtend ty 32 x) []
    exact ⟨t.s, V, heq, hregs, hvals⟩
  | s n =>
    obtain ⟨S, heq, hsr⟩ := loadScalarRegs_scalars t seed ty n l x
    have hzero : n = 0 ↔ n.toNat = 0 := ⟨fun h => by rw [h]; rfl, fun h => BitVec.eq_of_toNat_eq h⟩
    refine ⟨S, t.v, heq, ⟨fun k hk => ?_, fun _ _ => rfl, fun _ _ => rfl, fun _ => rfl⟩, (hsr _).trans ?_, fun hty => ?_⟩
    · refine (hsr k).trans ?_
      rw [if_neg, if_neg]
      · rintro ⟨rfl, -⟩
        refine hk ?_
        simp only [scalarDsts]
        split <;> simp
      · rintro ⟨rfl, rfl⟩
        exact hk (by simp [scalarDsts])
    · rw [if_neg (by omega)]
      by_cases h : n = 0
      · rw [if_pos h, if_neg (by simp [hzero.mp h]), hzero.mp h]
        rfl
      · rw [if_neg h, if_pos ⟨rfl, fun h' => h (hzero.mpr h')⟩]
    · refine (hsr _).trans ?_
      rw [if_pos ⟨hty, rfl⟩]

/-- The end of `sld`. -/
def sldEnd (sid : Nat) (u : Team) (x : Acc) (ty : MTy) (d : SVDst) (s : State) (r : MemRun) : Done :=
  loadEnd s sid u x false (some u.mask) r (scalarDsts ty d) (fun vals t1 => loadScalarRegs t1 s.fresh ty d vals) (fun s => .fall s 1)

/-- Where the lane was performed. -/
theorem sldEnd_val {e : State} {sid : Nat} {u t1 : Team} {x : Acc} {ty : MTy} {d : SVDst} {r : MemRun} {l v : Nat} (hpf : u.pf = none)
    (hi : insideOf u = .no) (ht : (afterAcquire e x r.got).team? sid = some t1) (hgot : r.got = [(l, .val v)]) :
    ∃ e2 t2, sldEnd sid u x ty d e r = .fall e2 1 ∧ Leaves (afterAcquire e x r.got) e2 sid t2 ∧ SameRegs t1 t2 (scalarDsts ty d) ∧
      SameHeld t1 t2 ∧ (∀ q ∈ scalarDsts ty d, ∃ y ∈ t2.sb, y.reg = q) ∧ ScalarHolds t2 ty d v := by
  obtain ⟨e2, k, sb, all, hend, hl, hdst, hsingle, -⟩ := loadEnd_settles (u := u) (single := false) (whole := some u.mask)
    (write := fun vals t1 => loadScalarRegs t1 e.fresh ty d vals) (complete := fun s => .fall s 1) ht (scalarDsts ty d)
  have hvals : valsOf r.got = [(l, v)] := by
    rw [hgot]
    rfl
  obtain ⟨S, V, hregs, hsame, hholds⟩ := loadScalarRegs_spec t1 e.fresh ty d l v
  rw [hvals, hregs] at hl
  obtain ⟨hs, hv, hp, hm⟩ := hsame
  refine ⟨e2, _, ?_, hl, ⟨hs, hv, hp, hm⟩, ?_, fun q hq => ?_, hholds.congr rfl rfl⟩
  · rw [sldEnd, hend, hsingle rfl, settleMem_complete hpf hi (by simp [hgot])]
  · constructor <;> and_intros <;> intros <;> rfl
  · obtain ⟨y, hy, hr⟩ := hdst q hq
    exact ⟨y, List.mem_append_right _ hy, hr⟩

/-- A scalar load that has brought its value back completes. -/
theorem sld_completes {i : Instr} {s e1 e : State} {sid : Nat} {t : Team} {ms : List Miss} {x : Acc} {ty : MTy} {d : SVDst} {q : MemRun}
    {l v : Nat} (hs : Settled (teamAtIssue i s sid t) (atIssue i s sid t) sid)
    (hx : exec i s = finish i sid (teamAtIssue i s sid t) (uses i) (sldEnd sid (teamAtIssue i s sid t) x ty d e q))
    (he : Leaves e1 e sid { teamAtIssue i s sid t with misses := ms, mem := none }) (hgot : q.got = [(l, .val v)]) :
    ∃ s' t', exec i s = .next s' ∧ s'.team? sid = some t' ∧ t'.pc = (teamAtIssue i s sid t).pc + 12 ∧ ScalarHolds t' ty d v ∧
      (∀ r ∈ scalarDsts ty d, ∃ y ∈ t'.sb, y.reg = r) ∧ SameRegs (teamAtIssue i s sid t) t' (scalarDsts ty d) ∧
      SameHeld (teamAtIssue i s sid t) t' ∧ SameMemory e1 s' ∧ ∀ k, k ≠ sid → s'.team? k = e1.team? k := by
  obtain ⟨l1, f, hacq⟩ := afterAcquire_keeps e x q.got
  have hteam : ∀ k, (afterAcquire e x q.got).team? k = e.team? k := fun k => by rw [hacq]; rfl
  have hmem : SameMemory e (afterAcquire e x q.got) := by rw [hacq]; exact .of_eq rfl rfl rfl
  obtain ⟨e2, t2, hend, hl, ⟨hrs, hrv, hrp, hrm⟩, hheld, hsb, hholds⟩ := sldEnd_val (x := x) (ty := ty) (d := d) hs.group hs.insideOf
    ((hteam sid).trans he.team) hgot
  obtain ⟨t', hl', hpc, -, hsb', hs', hv', hregs', hheld'⟩ := retire_leaves (i := i) (t0 := teamAtIssue i s sid t) (u := uses i) (n := 1)
    (pc := (teamAtIssue i s sid t).pc + 12) hl.team
  have hall := hl.trans hl'
  have hregs : SameRegs (teamAtIssue i s sid t) t2 (scalarDsts ty d) := ⟨hrs, hrv, hrp, hrm⟩
  have hsame : SameHeld (teamAtIssue i s sid t) t2 := by
    obtain ⟨h1, h2, h3, h4, h5, h6, h7⟩ := hheld
    exact ⟨h1, h2, h3, h4, h5, h6, h7⟩
  exact ⟨_, t', hx.trans (congrArg _ hend), hl'.team, hpc, hholds.congr hs' hv', hsb'.symm ▸ hsb, hregs.trans_nil hregs', hsame.trans hheld',
    ⟨fun k => (hall.bytes.mem k).trans ((hmem.1 k).trans (he.bytes.mem k)), fun k => (hall.bytes.spad k).trans ((hmem.2 k).trans (he.bytes.spad k))⟩,
    fun k hk => (hall.other k hk).trans ((hteam k).trans (he.other k hk))⟩

theorem loadScalar_eq {ty : MTy} {sp : Space} {o : Ord} {d : SVDst} {m : MemOp} {s : State} {sid : Nat} {vw : View} (hi : insideOf vw.t = .no) :
    loadScalar ty sp o d m sid vw s = runPass s sid vw.t 1 (vw.addr m) (loadOpn s vw.t (operandAcc sid vw.t sp o m (mBytes ty)))
      (sldEnd sid vw.t (operandAcc sid vw.t sp o m (mBytes ty)) ty d) := by
  unfold loadScalar
  simp only [orderOf_outside hi]
  rfl

/-- A scalar load that changes nothing and needs no miss-status entry. -/
theorem sld_scalarLoaded (h : Hdr) (ty : MTy) (sp : Space) (o : Ord) (d : SVDst) (m : MemOp) (s : State) (sid : Nat) (t : Team) (raw : Nat) :
    let i := Instr.sld h ty sp o d m
    let u := teamAtIssue i s sid t
    let s0 := atIssue i s sid t
    let x := operandAcc sid u sp o m (mBytes ty)
    let va := laneAddr i s sid t m 0
    ScalarMem i h s sid t → (o = .weak ∨ scopeWide m.scope = false) →
    (sp = .global → loadMisses s0 x.a o (lineNo va) (byteRange (lineOff va) (mBytes ty)) = false) →
    (∀ n, loadLane (ticketed s0 n) x 0 va = (ticketed s0 n, .val raw)) → ScalarLoaded i s sid t ty d raw := by
  intro i u s0 x va r hnarrow hnear hlane
  have hm : u.mem = none := r.first
  have hmem : ∀ l ∈ passOf (runOf u 1), l = 0 := fun l hl => List.mem_singleton.mp (passOf_one hm ▸ hl)
  obtain ⟨n, hp⟩ := load_performed (x := x) (en := 1) (addr := laneAddr i s sid t m) (res := fun _ => .val raw) (last := sldEnd sid u x ty d)
    r.settled r.resident_atIssue rfl hnarrow (fun hsp l hl => (hmem l hl).symm ▸ hnear hsp) (fun n l hl => (hmem l hl).symm ▸ hlane n)
    (fun _ _ => LaneGot.noConfusion)
  obtain ⟨e, q, hd, he, hgot⟩ := hp.ends (restOf_one hm)
  have hgot' : q.got = [(0, .val raw)] :=
    hgot.trans (congrArg₂ (· ++ ·) (got_one hm 1) (congrArg (List.map (fun l => (l, LaneGot.val raw))) (passOf_one hm)))
  have hexec : exec i s = finish i sid u (uses i) (sldEnd sid u x ty d e q) :=
    (issueScalar_on r.toClear r.guard (loadScalar ty sp o d m)).trans (congrArg (finish i sid u (uses i))
      ((loadScalar_eq (vw := viewAtIssue i s sid t) r.settled.insideOf).trans hd))
  obtain ⟨s', t', hs', ht', hpc, hholds, hsb, hregs, hheld, hmem', hother⟩ := sld_completes (ms := u.misses) r.settled hexec he hgot'
  exact ⟨s', t', hs', ht', hpc, hholds, hsb, hregs, hheld, hmem', hother⟩

/-! ## `vst` and `sst` -/

theorem storeVector_eq {h : Hdr} {ty : MTy} {sp : Space} {o : Ord} {v : VIdx} {m : MemOp} {s : State} {sid : Nat} {vw : View}
    (hi : insideOf vw.t = .no) (hen : vw.enable h ≠ 0) :
    storeVector h ty sp o v m sid vw s = storePass s sid vw.t (operandAcc sid vw.t sp o m (mBytes ty)) (vw.enable h) none (vw.addr m)
      (fun l => ((List.range (mRegs ty)).foldl (fun a i => a + (vw.lane (v.toNat + i) l).toNat * 2 ^ (32 * i)) 0) % 2 ^ (8 * mBytes ty))
      (fun s => .fall (noteSkips s vw.t (passCount vw.t (vw.enable h) false) false) 1) := by
  unfold storeVector
  simp only [beq_eq_false_iff_ne.mpr hen, Bool.and_false, Bool.false_eq_true, if_false, orderOf_outside hi]
  rfl

/-- The value of a scalar store. -/
theorem scalarValue_eq (ty : MTy) (a b : Word) :
    (a.toNat + (if ty == .b128 then b.toNat * 2 ^ 64 else 0)) % 2 ^ (8 * mBytes ty) =
      a.toNat % 2 ^ (8 * min (mBytes ty) 8) + (if ty = .b128 then b.toNat * 2 ^ 64 else 0) := by
  have ha := a.isLt
  have hb := b.isLt
  by_cases hty : ty = .b128
  · subst hty
    simp only [mBytes, beq_self_eq_true, if_true, show min 16 8 = 8 from rfl]
    omega
  · have hmin : min (mBytes ty) 8 = mBytes ty := by cases ty <;> simp_all [mBytes]
    simp [hty, hmin]

theorem storeScalar_eq {ty : MTy} {sp : Space} {o : Ord} {a : SIdx} {m : MemOp} {s : State} {sid : Nat} {vw : View}
    (hi : insideOf vw.t = .no) :
    storeScalar ty sp o a m sid vw s = storePass s sid vw.t (operandAcc sid vw.t sp o m (mBytes ty)) 1 (some vw.t.mask) (vw.addr m)
      (fun _ => ((vw.sr a.toNat).toNat + (if ty == .b128 then (vw.sr (a.toNat + 1)).toNat * 2 ^ 64 else 0)) % 2 ^ (8 * mBytes ty))
      (fun s => .fall s 1) := by
  unfold storeScalar
  simp only [orderOf_outside hi]
  rfl

/-! ## Scratchpad accesses -/

/-- A scratchpad or per-lane access has a narrow scope (10 R192). -/
theorem narrow_of_scopeOk {sp : Space} {o : Ord} {sc : Scope} (h : accessScopeOk sp o sc = true) (hsp : sp ≠ .global) : scopeWide sc = false := by
  cases sp <;> cases sc <;> simp_all [accessScopeOk, scopeWide]

/-- Settles O23: the lanes of a load change nothing (`loadLane_spad`), those of a store write in ascending order (`spadStep_bytes`), and
the scope is always narrow, so nothing comes before them but a ticket. -/
theorem scratchpadAccesses : Obligations.ScratchpadAccesses := by
  unfold Obligations.ScratchpadAccesses
  intro h ty sp o d sd a m s sid t
  refine ⟨fun r hsp hu hfit hb => ?_, fun r hm hsp hen hu hfit hb => ?_, fun r hsp hfit => ?_, fun r hfit => ?_, fun r hfit => ?_⟩
  · have hok := r.ok
    simp only [Instr.wf, Bool.and_eq_true] at hok
    refine vld_lanesLoaded h ty sp o d m s sid t _ r (.inr (narrow_of_scopeOk hok.2 hsp)) hu hb (fun hg => absurd hg hsp)
      (fun n l hl => ?_)
    refine loadLane_spad ?_ hsp (hfit l hl) l
    exact r.resident_atIssue
  · have hok := r.ok
    simp only [Instr.wf, Bool.and_eq_true] at hok
    refine vld_uniformLoaded h ty sp o d m s sid t _ r (.inr (narrow_of_scopeOk hok.2 hsp)) hm hen hu hb (fun hg => absurd hg hsp)
      (fun n l hl _ => ?_)
    refine loadLane_spad ?_ hsp (hfit l hl) l
    exact r.resident_atIssue
  · have hok := r.ok
    simp only [Instr.wf, Bool.and_eq_true] at hok
    refine spadStored_of (x := operandAcc sid (teamAtIssue (.vst h ty sp o d m) s sid t) sp o m (mBytes ty)) (val' := storeVal _ s sid t ty d)
      r.settled r.resident_atIssue ((issue_clear r.toClear _).trans (congrArg _ (storeVector_eq r.settled.insideOf r.some)))
      r.earlier rfl (.inr (narrow_of_scopeOk hok.2 hsp)) (fun e t1 ht => ⟨_, 1, rfl, noteSkips_leaves ht ..⟩) hsp (fun l hl => ⟨rfl, rfl⟩) hfit
  · have hok := r.ok
    simp only [Instr.wf, Bool.and_eq_true] at hok
    refine sld_scalarLoaded h ty .spad o sd m s sid t _ r (.inr (narrow_of_scopeOk hok.1.2 (by decide))) (fun hg => Space.noConfusion hg)
      (fun n => ?_)
    refine loadLane_spad ?_ (fun hg => Space.noConfusion hg) hfit 0
    exact r.resident_atIssue
  · have hok := r.ok
    simp only [Instr.wf, Bool.and_eq_true] at hok
    have hmem : ∀ l ∈ passOf (runOf (teamAtIssue (.sst h ty .spad o a m) s sid t) 1), l = 0 :=
      fun l hl => List.mem_singleton.mp (passOf_one r.first ▸ hl)
    refine spadStored_of (x := operandAcc sid (teamAtIssue (.sst h ty .spad o a m) s sid t) .spad o m (mBytes ty))
      r.settled r.resident_atIssue ((issueScalar_on r.toClear r.guard _).trans (congrArg _ (storeScalar_eq r.settled.insideOf)))
      (by simp [got_one r.first]) rfl (.inr (narrow_of_scopeOk hok.1.2 (by decide))) (fun e t1 ht => ⟨e, 1, rfl, .refl ht⟩) (by simp [operandAcc])
      (fun l hl => ⟨by rw [hmem l hl]; rfl, scalarValue_eq ..⟩) (fun l hl => ?_)
    exact hfit

end Sys2Proof.Machine
end

section
/-! GLOBAL LOADS (O24): by the L1, by the home, by memory (10 R198, R200, R203-R205). -/

namespace Sys2Proof.Machine

/-! ## A pass of one lane that takes a miss-status entry (10 R203) -/

/-- From `s` to `e` team `sid`, which was `u`, has taken entries: nothing but its list of them, counters and the order has changed. -/
structure Entered (s e : State) (sid : Nat) (u : Team) (ms : List Miss) : Prop where
  rest  : e = { s with teams := e.teams, cores := e.cores, dieTab := e.dieTab, ventPmc := e.ventPmc, agenda := e.agenda, order := e.order }
  team  : e.team? sid = some { u with misses := ms }
  other : ∀ k, k ≠ sid → e.team? k = s.team? k

namespace Entered

section
variable {s e : State} {sid : Nat} {u : Team} {ms : List Miss} (h : Entered s e sid u ms)
include h

theorem mem : e.mem = s.mem := (congrArg State.mem h.rest).trans rfl
theorem spad : e.spad = s.spad := (congrArg State.spad h.rest).trans rfl
theorem spadBase : e.spadBase = s.spadBase := (congrArg State.spadBase h.rest).trans rfl
theorem l1 : e.l1 = s.l1 := (congrArg State.l1 h.rest).trans rfl
theorem homes : e.homes = s.homes := (congrArg State.homes h.rest).trans rfl
theorem wq : e.wq = s.wq := (congrArg State.wq h.rest).trans rfl
theorem windows : e.windows = s.windows := (congrArg State.windows h.rest).trans rfl

end

end Entered

theorem takeEntries_entered {s : State} {sid : Nat} {u : Team} (h : s.team? sid = some u) (event : Bool) (lines : List Nat) (reserved : Nat) :
    ∃ ms, Entered s (takeEntries s sid event lines reserved) sid u ms := by
  have hput : Entered s (s.onTeam sid (fun t => { t with misses := t.misses ++ [{ tok := s.order, lines := lines, reserved := reserved }] })).nextOrder
      sid u (u.misses ++ [{ tok := s.order, lines := lines, reserved := reserved }]) := by
    rw [State.onTeam_some h]
    exact ⟨rfl, State.team?_setTeam .., fun _ hk => State.team?_setTeam_other _ _ hk⟩
  unfold takeEntries
  split
  · exact ⟨u.misses, rfl, h, fun _ _ => rfl⟩
  · rw [h]
    dsimp only
    split
    · obtain ⟨c, d, v, a, hcount⟩ := State.pmcCount_eq
        (s.onTeam sid (fun t => { t with misses := t.misses ++ [{ tok := s.order, lines := lines, reserved := reserved }] })).nextOrder
        (.core u.coreId) 5 u.ctx lines.length
      rw [hcount]
      exact ⟨_, by rw [hput.rest], hput.team, hput.other⟩
    · exact ⟨_, hput⟩

/-- A pass of one lane, from the entries of a core that has one free. -/
theorem startPass_single {s s0 : State} {sid : Nat} {u : Team} {m : MemOpn} {r : MemRun} (l : Nat) (a : Word) (haged : u.aged = false)
    (hroom : heldEntries s u.coreId < Config.generalMshr) (hfirst : (if r.left = r.en then m.first s else s) = s0)
    (ht : s0.team? sid = some u) :
    ∃ s1 ms r1 o, startPass s sid u m r [(l, a)] = .go s1 r1 [(l, a)] ∧ Entered s0 s1 sid u ms ∧ r1.en = r.en ∧ r1.left = r.left ∧
      r1.got = r.got ∧ r1.held = some (o, laneMask [l]) := by
  have hlines : (passLines s u m.x m.need [(l, a)]).length ≤ 1 := by
    unfold passLines
    split
    · exact Nat.zero_le _
    · rw [List.length_mergeSort]
      refine (List.dedup_sublist _).length_le.trans ?_
      rw [List.length_map]
      exact List.length_filter_le ..
  have hadmit : admitPass s u (passLines s u m.x m.need [(l, a)]) [(l, a)] = .go [(l, a)] (passLines s u m.x m.need [(l, a)]) 0 := by
    unfold admitPass
    rw [haged]
    dsimp only
    split
    · rename_i hempty
      have hnil : passLines s u m.x m.need [(l, a)] = [] := by simpa using hempty
      rw [hnil]
    · rw [if_neg Bool.false_ne_true, if_neg (by omega)]
  unfold startPass
  rw [hadmit]
  dsimp only
  rw [hfirst]
  obtain ⟨ms, hent⟩ := takeEntries_entered ht m.event (passLines s u m.x m.need [(l, a)]) 0
  exact ⟨_, ms, _, s0.order, rfl, hent, rfl, rfl, rfl, rfl⟩

theorem togetherOf_single (s : State) (m : MemOpn) (l : Nat) (a : Word) : togetherOf s m [(l, a)] = [(l, a)] := by
  cases hc : (m.x.sp == .global && m.need (lineNo a) (byteRange (lineOff a) m.x.size)) with
  | false => exact togetherOf_near (fun k hk => by rw [List.mem_singleton.mp hk]; exact hc)
  | true =>
    have hnone : [(l, a)].filter (fun l => !(m.x.sp == .global && m.need (lineNo l.2) (byteRange (lineOff l.2) m.x.size))) = [] :=
      List.filter_eq_nil_iff.mpr (fun k hk => by
        rw [List.mem_singleton.mp hk]
        simp only [hc, Bool.not_true, Bool.false_eq_true, not_false_eq_true])
    unfold togetherOf
    simp only [hnone]
    rfl

section
variable {s s0 : State} {sid : Nat} {u : Team} {en : Mask} {addr : Nat → Word} {m : MemOpn} {last : State → MemRun → Done} {l : Nat}
  {g : LaneGot} {P : State → Prop}

/-- A pass of one lane is performed once it has its entry. -/
theorem runPass_single (hs : Settled u s sid) (hx : m.x.a.sid = sid) (hpass : passOf (runOf u en) = [l])
    (hchecks : m.write = true → needChecks s u m.x [(l, addr l)] = [])
    (hfirst : (if (runOf u en).left = (runOf u en).en then m.first s else s) = s0) (ht : s0.team? sid = some u)
    (hroom : heldEntries s u.coreId < Config.generalMshr) (hsend : ∀ e ms, Entered s0 e sid u ms → m.send e [(l, addr l)] = none)
    (hlane : ∀ e ms, Entered s0 e sid u ms → ∃ e1, m.lane e l (addr l) = (e1, g) ∧ e1.team? sid = some { u with misses := ms } ∧ P e1)
    (hg : ∀ on, g ≠ .stall on) :
    ∃ e1 ms, P e1 ∧ Performed sid u en e1 { u with misses := ms } [(l, g)] last (runPass s sid u en addr m last) := by
  have hlanes : lanesFor addr (passOf (runOf u en)) = [(l, addr l)] := by rw [hpass]; rfl
  obtain ⟨s1, ms, r1, o, hstart, hent, hen, hleft, hgot, hheld⟩ := startPass_single (m := m) l (addr l) hs.aged hroom hfirst ht
  obtain ⟨e1, hl, ht1, hP⟩ := hlane s1 ms hent
  have hrun : runLanes m.lane s1 [(l, addr l)] = .ok (e1, [(l, g)]) := by
    rw [runLanes, hl]
    split
    · rename_i heq
      exact absurd (Prod.mk.inj heq).2 (hg _)
    · rename_i heq
      obtain ⟨rfl, rfl⟩ := Prod.mk.inj heq
      rfl
  refine ⟨e1, ms, hP, runPass_performed (s0 := s1) (o := o) hs hx ?_ ?_ hen hleft hgot ?_ ?_ ?_ ?_ ht1⟩
  · rwa [hlanes]
  · rw [hlanes]; exact hstart
  · rw [hpass]; exact hheld
  · rw [hlanes]; exact hsend s1 ms hent
  · rw [hlanes]; exact togetherOf_single ..
  · rw [hlanes]; exact hrun

end

/-! ## Bytes of a line -/

/-- A naturally aligned access lies within its line. -/
theorem offset_fits {a n : Nat} (hn : n ∣ 64) (h : a % n = 0) : a % 64 + n ≤ 64 := by
  obtain ⟨k, hk⟩ := hn
  obtain ⟨j, hj⟩ : n ∣ a % 64 := (Nat.dvd_mod_iff ⟨k, hk⟩).mpr (Nat.dvd_of_mod_eq_zero h)
  have hlt : a % 64 < 64 := Nat.mod_lt _ (by omega)
  have hjk : j < k := by
    rw [hj, hk] at hlt
    exact Nat.lt_of_mul_lt_mul_left hlt
  calc a % 64 + n = n * (j + 1) := by rw [hj, Nat.mul_succ]
    _ ≤ n * k := Nat.mul_le_mul_left n hjk
    _ = 64 := hk.symm

theorem mBytes_dvd (ty : MTy) : mBytes ty ∣ 64 := by cases ty <;> decide

theorem lineNat_congr {d d' : LineData} {o n : Nat} (h : ∀ i, o ≤ i → i < o + n → lineByte d i = lineByte d' i) :
    lineNat d o n = lineNat d' o n := by
  rw [lineNat_eq, lineNat_eq]
  congr 1
  refine List.map_congr_left (fun k hk => h _ (by omega) ?_)
  have := List.mem_range.mp hk
  omega

/-- Bytes of a mask that another covers. -/
theorem getLsbD_of_covered {need valid : ByteMask} (h : need &&& ~~~ valid = 0) {i : Nat} (hi : i < 64) (hn : need.getLsbD i = true) :
    valid.getLsbD i = true := by
  have hbit := congrArg (fun m : ByteMask => m.getLsbD i) h
  simpa [hn, hi] using hbit

/-! ## The home (10 R199, R200) -/

/-- A read of bytes that the home holds gives them and leaves them there, under their translation, and changes no more than homes and
counters. -/
theorem homeRead_held {s : State} {ctx line : Nat} {need : ByteMask} {g : HomeLine} (hg : s.home? ctx line = some g)
    (hv : need &&& ~~~ g.valid = 0) (unit : Nat) (alloc : Bool) :
    ∃ hs c d v a r, homeRead s unit ctx line need alloc =
        ({ s with homes := hs, cores := c, dieTab := d, ventPmc := v, agenda := a }, .ok r) ∧
      (∀ i, i < 64 → need.getLsbD i = true → lineByte r.data i = lineByte g.data i) ∧
      ∃ g', ({ s with homes := hs } : State).home? ctx line = some g' ∧ g'.tr = g.tr ∧
        ∀ i, i < 64 → need.getLsbD i = true → lineByte g'.data i = lineByte g.data i := by
  obtain ⟨c, d, v, a, hcount⟩ := countHome_keeps s line (if homeHolds s ctx line need then 32 else 33) ctx
  have hg' : ({ s with cores := c, dieTab := d, ventPmc := v, agenda := a } : State).home? ctx line = some g := hg
  rw [homeRead, hcount, lineRead, hg']
  dsimp only
  split
  · exact ⟨s.homes, c, d, v, a, _, rfl, fun _ _ _ => rfl, g, hg, rfl, fun _ _ _ => rfl⟩
  split
  · exact ⟨s.homes, c, d, v, a, _, rfl, fun _ _ _ => rfl, g, hg, rfl, fun _ _ _ => rfl⟩
  · obtain ⟨g1, hg1⟩ : ∃ g1 : HomeLine, { g with
        valid := BitVec.allOnes 64,
        data := mergeLine g.valid g.data (keyLine { s with cores := c, dieTab := d, ventPmc := v, agenda := a }
          (physKey { s with cores := c, dieTab := d, ventPmc := v, agenda := a } g.pa)),
        clean := if g.valid &&& ~~~ g.dirty = 0 then g.tr.expiry else min g.clean g.tr.expiry } = g1 := ⟨_, rfl⟩
    obtain ⟨hs, hput⟩ := putHome_homes { s with cores := c, dieTab := d, ventPmc := v, agenda := a } g1
    obtain ⟨hctx, hline⟩ := State.home?_key hg
    have hbytes : ∀ d i, i < 64 → need.getLsbD i = true → lineByte (mergeLine g.valid g.data d) i = lineByte g.data i := fun d i hi hn => by
      rw [lineByte_mergeLine _ _ _ hi, if_pos (getLsbD_of_covered hv hi hn)]
    have hkey : g1.ctx = ctx ∧ g1.line = line := by rw [← hg1]; exact ⟨hctx, hline⟩
    have hfind := home?_putHome (s := { s with cores := c, dieTab := d, ventPmc := v, agenda := a }) (g := g1)
      (by rw [hkey.1, hkey.2, hg']; rfl) ctx line
    rw [hput, if_pos ⟨hkey.1.symm, hkey.2.symm⟩] at hfind
    rw [hg1, hput]
    exact ⟨hs, c, d, v, a, _, rfl, hbytes _, g1, hfind, by rw [← hg1], by rw [← hg1]; exact hbytes _⟩

theorem writeBackLine_clean {s : State} {core ctx line : Nat} (h : ∀ x, s.l1? core ctx line = some x → x.dirty = 0) :
    writeBackLine s core ctx line = s := by
  unfold writeBackLine
  split
  · rfl
  · rename_i x hx
    rw [if_pos (h x hx)]

/-- With no dirty byte of the context there is nothing to release. -/
theorem releaseAt_released {s : State} {u : Team} {a : Access} (h : Released s u) (hcore : a.core = u.coreId) (hctx : a.ctx = u.ctx) :
    releaseAt s a = s := by
  unfold releaseAt
  split
  · have hnone : s.l1.filter (fun x => x.core == a.core && x.ctx == a.ctx && x.dirty != 0) = [] :=
      List.filter_eq_nil_iff.mpr (fun x hx => by
        rw [hcore, hctx]
        intro hall
        simp only [Bool.and_eq_true, beq_iff_eq, bne_iff_ne, ne_eq] at hall
        exact hall.2 (h x hx hall.1.1 hall.1.2))
    rw [writeBackAll, hnone]
    rfl
  · rfl

/-- Homes and counters alone. -/
structure HomesOnly (s s' : State) : Prop where
  rest : s' = { s with homes := s'.homes, cores := s'.cores, dieTab := s'.dieTab, ventPmc := s'.ventPmc, agenda := s'.agenda }

section
variable {e : State} {x : Acc} {u : Team} {a : Word}

/-- A lane's strong load at a wide scope, of bytes that the home holds. -/
theorem loadLane_home (ht : e.team? x.a.sid = some u) (hpf : u.pf = none) (hi : insideOf u = .no) (hwq : ∀ q ∈ e.wq, q.sid ≠ x.a.sid)
    (hw : e.windows = []) (hsp : x.sp = .global) (hfit : fits u .global x.size a) (hn : x.size ∣ 64) (hcore : x.a.core = u.coreId)
    (hctx : x.a.ctx = u.ctx) (ho : x.o ≠ .weak) (hwide : scopeWide x.a.scope = true) (hhome : atHome e u.coreId u.ctx a.toNat x.size) (l : Nat) :
    ∃ e1, loadLane e x l a = (e1, .val (homeVal e u.ctx a.toNat x.size)) ∧ HomesOnly e e1 := by
  obtain ⟨⟨g, hg, hvalid⟩, hclean⟩ := hhome
  obtain ⟨hs, c, d, v, ag, r, hread, hbytes, -⟩ := homeRead_held hg hvalid (unitOf (lineNo a * 64)) (!x.a.pol)
  have hqueue : e.wq.filter (fun q => q.sid == x.a.sid && q.line == lineNo a) = [] :=
    List.filter_eq_nil_iff.mpr (fun q hq => by simp [hwq q hq])
  have hload : loadLine e x.a x.o (lineNo a) (byteRange (a.toNat % 64) x.size) =
      ({ e with homes := hs, cores := c, dieTab := d, ventPmc := v, agenda := ag }, .ok r.data) := by
    rw [loadLine, if_pos (by simp [ho, hwide]), loadHome, hcore, hctx,
      writeBackLine_clean (show ∀ y, e.l1? u.coreId u.ctx (lineNo a) = some y → y.dirty = 0 from hclean),
      show homeRead e (unitOf (lineNo a * 64)) u.ctx (lineNo a) (byteRange (a.toNat % 64) x.size) (!x.a.pol) = _ from hread]
    simp only [ownQueued, hqueue, List.foldl_nil]
  have hval : lineNat r.data (a.toNat % 64) x.size = homeVal e u.ctx a.toNat x.size := by
    rw [homeVal, hg]
    have hfits := offset_fits hn hfit.1
    exact lineNat_congr (fun i h1 h2 => hbytes i (by omega) (by rw [getLsbD_byteRange (by omega), decide_eq_true ⟨h1, h2⟩]))
  refine ⟨{ e with homes := hs, cores := c, dieTab := d, ventPmc := v, agenda := ag }, ?_, ⟨rfl⟩⟩
  rw [loadLane_global ht hpf hi hsp hfit hload hw, hval]

end

/-! ## Memory (10 R198, R203) -/

theorem lineByte_keyLine (s : State) (k : Nat) {i : Nat} (hi : i < 64) : lineByte (keyLine s k) i = memByte s.mem (k + i) := by
  rw [keyLine, lineByte_lineOf (by simp [memRead])]
  simp [memRead, List.getD_eq_getElem?_getD, hi]

/-- A read of a line that its home does not hold, through the cached translation: it gives memory's bytes. -/
theorem homeRead_missing {s : State} {ctx line unit : Nat} {tr : Trans} (hg : s.home? ctx line = none) (hline : line * 64 < 2 ^ 64)
    (htr : tlbFind s unit ctx (line * 64) .read = some tr) (hpeer : tr.peer = none)
    (hpoison : poisonedKey s (physKey s (lineAt tr line)) = false) (need : ByteMask) (alloc : Bool) :
    ∃ e r, homeRead s unit ctx line need alloc = (e, .ok r) ∧ r.valid = BitVec.allOnes 64 ∧
      r.data = keyLine s (physKey s (lineAt tr line)) ∧ Accessed s e := by
  have hacc := homeRead_accessed s unit ctx line need alloc
  obtain ⟨c, d, v, a, hcount⟩ := countHome_keeps s line (if homeHolds s ctx line need then 32 else 33) ctx
  obtain ⟨s1, hs1⟩ : ∃ s1 : State, { s with cores := c, dieTab := d, ventPmc := v, agenda := a } = s1 := ⟨_, rfl⟩
  have hva : (lineVa line).toNat = line * 64 := by rw [lineVa, BitVec.toNat_ofNat, Nat.mod_eq_of_lt hline]
  have htrans : translate s1 unit ctx (lineVa line) .read = (s1, .ok tr) := by
    have h : tlbFind s1 unit ctx (line * 64) .read = some tr := hs1 ▸ htr
    rw [translate, hva, h]
  have hhome : s1.home? ctx line = none := hs1 ▸ hg
  have hp : poisonedKey s1 (physKey s1 (lineAt tr line)) = false := hs1 ▸ hpoison
  have hkey : keyLine s1 (physKey s1 (lineAt tr line)) = keyLine s (physKey s (lineAt tr line)) := by rw [← hs1]; rfl
  obtain ⟨x, hx⟩ : ∃ x, homeRead s unit ctx line need alloc = x := ⟨_, rfl⟩
  rw [hx] at hacc ⊢
  simp only [homeRead, hcount, hs1, lineRead, hhome, htrans, hpeer, hp, Bool.false_eq_true, if_false, hkey] at hx
  split at hx
  · subst hx
    exact ⟨_, _, rfl, rfl, rfl, hacc⟩
  · subst hx
    exact ⟨_, _, rfl, rfl, rfl, hacc⟩

/-- A weak load of a line that neither the L1 nor a fill nor its home holds. -/
theorem loadLine_memory {s : State} {acc : Access} {line : Nat} {need : ByteMask} {tr : Trans} (hwq : ∀ q ∈ s.wq, q.sid ≠ acc.sid)
    (hl1 : s.l1? acc.core acc.ctx line = none) (hfill : ∀ f ∈ s.fills, f.line ≠ line) (hneed : need ≠ 0)
    (hg : s.home? acc.ctx line = none) (hline : line * 64 < 2 ^ 64)
    (htr : tlbFind s (unitOf (line * 64)) acc.ctx (line * 64) .read = some tr) (hpeer : tr.peer = none)
    (hpoison : poisonedKey s (physKey s (lineAt tr line)) = false) :
    ∃ e d, loadLine s acc .weak line need = (e, .ok d) ∧ Accessed s e ∧
      ∀ i, i < 64 → lineByte d i = memByte s.mem (physKey s (lineAt tr line) + i) := by
  have hqueue : s.wq.filter (fun q => q.sid == acc.sid && q.line == line) = [] :=
    List.filter_eq_nil_iff.mpr (fun q hq => by simp [hwq q hq])
  have hnofill : ∀ p : Fill → Bool, s.fills.find? (fun f => f.core == acc.core && f.ctx == acc.ctx && f.line == line && f.entry && p f) = none := by
    intro p
    exact List.find?_eq_none.mpr (fun f hf => by simp [hfill f hf])
  have hmiss : ¬(need &&& ~~~ (0 : ByteMask) = 0) := by
    rwa [show ~~~ (0 : ByteMask) = BitVec.allOnes 64 from BitVec.not_zero, BitVec.and_allOnes]
  obtain ⟨e, r, hread, hvalid, hdata, hacc⟩ := homeRead_missing hg hline htr hpeer hpoison (need &&& ~~~ (0 : ByteMask)) (!acc.pol)
  have hbytes : ∀ i, i < 64 → lineByte (mergeLine (BitVec.allOnes 64 &&& ~~~ 0) (keyLine s (physKey s (lineAt tr line))) 0) i =
      memByte s.mem (physKey s (lineAt tr line) + i) := fun i hi => by
    have hall : (BitVec.allOnes 64 &&& ~~~ (0 : ByteMask)).getLsbD i = true := by
      rw [BitVec.getLsbD_and, BitVec.getLsbD_not, BitVec.getLsbD_allOnes]
      simp [hi]
    rw [lineByte_mergeLine _ _ _ hi, if_pos hall, lineByte_keyLine _ _ hi]
  obtain ⟨y, hy⟩ : ∃ y, loadLine s acc .weak line need = y := ⟨_, rfl⟩
  rw [hy]
  simp only [loadLine, loadL1, hl1, Option.getD_none, newL1, hmiss, if_false, hnofill, hread, ownQueued, hqueue, List.foldl_nil, hvalid, hdata,
    bne_self_eq_false, Bool.false_and, Bool.false_eq_true] at hy
  subst hy
  refine ⟨_, _, rfl, ?_, hbytes⟩
  split
  · exact hacc
  · exact hacc.trans (.of_teams rfl rfl)

end Sys2Proof.Machine
end

section
/-! GLOBAL LOADS (O24), settled. -/

namespace Sys2Proof.Machine

theorem Settled.ticketed {u : Team} {s : State} {sid : Nat} (h : Settled u s sid) (n : Nat) : Settled u (ticketed s n) sid :=
  ⟨h.group, h.lanes, h.aged, h.region, h.open_, h.links, h.queue, h.checks, h.whole, h.ticket⟩

/-- A scalar load whose lane is performed once it has its entry, up to its end. -/
theorem sld_entered (h : Hdr) (ty : MTy) (sp : Space) (o : Ord) (d : SVDst) (m : MemOp) (s : State) (sid : Nat) (t : Team) (raw : Nat)
    (P : State → Prop) :
    let i := Instr.sld h ty sp o d m
    let u := teamAtIssue i s sid t
    let s0 := atIssue i s sid t
    let x := operandAcc sid u sp o m (mBytes ty)
    let va := laneAddr i s sid t m 0
    ScalarMem i h s sid t → heldEntries s0 u.coreId < Config.generalMshr → (o = .sc → releaseAt s0 x.a = s0) →
    (∀ n e ms, Entered (ticketed s0 n) e sid u ms →
      ∃ e1, loadLane e x 0 va = (e1, .val raw) ∧ e1.team? sid = some { u with misses := ms } ∧ P e1) →
    ∃ e1 ms e q, exec i s = finish i sid u (uses i) (sldEnd sid u x ty d e q) ∧ P e1 ∧
      Leaves e1 e sid { u with misses := ms, mem := none } ∧ q.got = [(0, .val raw)] := by
  intro i u s0 x va r hroom hrel hlane
  have hm : u.mem = none := r.first
  have hfull : (runOf u 1).left = (runOf u 1).en := by simp only [runOf, hm, Option.getD_none]
  obtain ⟨n, hn⟩ := memFirst_ticketed (s := s0) (x := x) (rel := x.o == .sc) (fun hsc => hrel (by simpa [x, operandAcc] using hsc))
  obtain ⟨e1, ms, hP, hp⟩ := runPass_single (s := s0) (u := u) (en := 1) (addr := laneAddr i s sid t m) (m := loadOpn s0 u x) (g := .val raw)
    (last := sldEnd sid u x ty d) (P := P) r.settled rfl (passOf_one hm) (fun hw => Bool.noConfusion hw)
    ((if_pos hfull).trans hn) r.resident_atIssue hroom (fun _ _ _ => rfl) (hlane n) (fun _ => LaneGot.noConfusion)
  obtain ⟨e, q, hd, he, hgot⟩ := hp.ends (restOf_one hm)
  refine ⟨e1, ms, e, q, ?_, hP, he, hgot.trans (congrArg (· ++ _) (got_one hm 1))⟩
  refine (issueScalar_on r.toClear r.guard (loadScalar ty sp o d m)).trans (congrArg (finish i sid u (uses i)) ?_)
  exact (loadScalar_eq (vw := viewAtIssue i s sid t) r.settled.insideOf).trans hd

theorem byteRange_ne_zero {o n : Nat} (hn : 0 < n) (hfit : o + n ≤ 64) : byteRange o n ≠ 0 := by
  intro hz
  have hbit := getLsbD_byteRange (o := o) (n := n) (i := o) (by omega)
  rw [hz, decide_eq_true (by omega)] at hbit
  simp at hbit

theorem mBytes_pos (ty : MTy) : 0 < mBytes ty := by cases ty <;> decide

section
variable {s e : State} {sid n : Nat} {u : Team} {ms : List Miss} {x : Acc} {va : Word} (hent : Entered (ticketed s n) e sid u ms)
  (hs : Settled u s sid) (hx : x.a.sid = sid) (hcore : x.a.core = u.coreId) (hctx : x.a.ctx = u.ctx) (hsp : x.sp = .global)
  (hfit : fits u .global x.size va) (hn : x.size ∣ 64)
include hent hs hx hcore hctx hsp hfit hn

/-- The lane of a strong load at a wide scope, with its entry. -/
theorem loadLane_home_entered (ho : x.o ≠ .weak) (hwide : scopeWide x.a.scope = true) (hhome : atHome s u.coreId u.ctx va.toNat x.size) :
    ∃ e1, loadLane e x 0 va = (e1, .val (homeVal s u.ctx va.toNat x.size)) ∧ e1.team? sid = some { u with misses := ms } ∧
      SameMemory s e1 ∧ ∀ k, k ≠ sid → e1.team? k = s.team? k := by
  have hhome' : atHome e u.coreId u.ctx va.toNat x.size := by
    unfold atHome State.home? State.l1? at hhome ⊢
    rwa [hent.homes, hent.l1]
  have hval : homeVal e u.ctx va.toNat x.size = homeVal s u.ctx va.toNat x.size := by
    unfold homeVal State.home?
    rw [hent.homes]
    rfl
  obtain ⟨e1, hload, hrest⟩ := loadLane_home (e := e) (x := x) (u := { u with misses := ms }) (hx ▸ hent.team) hs.group hs.insideOf
    (fun q hq => hx ▸ hs.queue q (hent.wq ▸ hq)) (hent.windows.trans hs.open_) hsp hfit hn hcore hctx ho hwide hhome' 0
  have hteam : ∀ k, e1.team? k = e.team? k := fun k => (congrArg (fun y : State => y.team? k) hrest.rest).trans rfl
  refine ⟨e1, hload.trans (by rw [show homeVal e ({ u with misses := ms } : Team).ctx va.toNat x.size = _ from hval]), (hteam sid).trans hent.team,
    .of_eq ?_ ?_ ?_, fun k hk => (hteam k).trans (hent.other k hk)⟩
  · exact ((congrArg State.mem hrest.rest).trans rfl).trans hent.mem
  · exact ((congrArg State.spad hrest.rest).trans rfl).trans hent.spad
  · exact ((congrArg State.spadBase hrest.rest).trans rfl).trans hent.spadBase

/-- The lane of a weak load of a line that nothing holds, with its entry. -/
theorem loadLane_memory_entered {tr : Trans} (ho : x.o = .weak) (hpos : 0 < x.size) (hl1 : s.l1? u.coreId u.ctx (lineNo va) = none)
    (hg : s.home? u.ctx (lineNo va) = none) (hfill : ∀ f ∈ s.fills, f.line ≠ lineNo va)
    (htr : tlbFind s (unitOf (lineNo va * 64)) u.ctx (lineNo va * 64) .read = some tr) (hpeer : tr.peer = none)
    (hpoison : poisonedKey s (physKey s (lineAt tr (lineNo va))) = false) :
    ∃ e1, loadLane e x 0 va = (e1, .val (leNat (memRead s.mem (physKey s (lineAt tr (lineNo va)) + lineOff va) x.size))) ∧
      e1.team? sid = some { u with misses := ms } ∧ True := by
  have hfits := offset_fits hn hfit.1
  have hphys : ∀ pa, physKey e pa = physKey s pa := fun pa => (congrArg (fun y : State => physKey y pa) hent.rest).trans rfl
  have hpois : ∀ k, poisonedKey e k = poisonedKey s k := fun k => (congrArg (fun y : State => poisonedKey y k) hent.rest).trans rfl
  obtain ⟨e1, d, hload, hacc, hbytes⟩ := loadLine_memory (s := e) (acc := x.a) (line := lineNo va) (need := byteRange (va.toNat % 64) x.size)
    (tr := tr) (fun q hq => hx ▸ hs.queue q (hent.wq ▸ hq)) (by rw [hcore, hctx, State.l1?, hent.l1]; exact hl1)
    (fun f hf => hfill f ((congrArg State.fills hent.rest).trans rfl ▸ hf)) (byteRange_ne_zero hpos hfits)
    (by rw [hctx, State.home?, hent.homes]; exact hg) (by have := va.isLt; unfold lineNo; omega)
    (by rw [hctx]; exact ((congrArg (fun y : State => tlbFind y (unitOf (lineNo va * 64)) u.ctx (lineNo va * 64) .read) hent.rest).trans rfl).trans htr)
    hpeer (by rw [hphys, hpois]; exact hpoison)
  have hopen : e1.windows = [] := ((congrArg State.windows hacc.rest).trans rfl).trans (hent.windows.trans hs.open_)
  have hval : lineNat d (va.toNat % 64) x.size =
      leNat (memRead s.mem (physKey s (lineAt tr (lineNo va)) + lineOff va) x.size) := by
    rw [lineNat_eq, memRead]
    congr 1
    refine List.map_congr_left (fun k hk => ?_)
    have hk := List.mem_range.mp hk
    rw [hbytes _ (by omega), hphys, hent.mem, Nat.add_assoc]
    rfl
  refine ⟨e1, ?_, hacc.idle sid _ hent.team hs.region, trivial⟩
  rw [loadLane_global (u := { u with misses := ms }) (hx ▸ hent.team) hs.group hs.insideOf hsp hfit (by rw [ho]; exact hload) hopen, hval]

end

/-- Settles O24: the L1's bytes need no entry (`loadLane_l1`); a strong load at a wide scope takes one and reads the home
(`loadLane_home`); a weak load of a line that nothing holds takes one and reads memory (`loadLine_memory`). -/
theorem globalLoads : Obligations.GlobalLoads := by
  unfold Obligations.GlobalLoads
  intro h ty o d sd a m s sid t
  refine ⟨fun r hnarrow hu hin hb => ?_, fun r hm hnarrow hen hu hfit hin hb => ?_, fun r hnarrow hfit hin => ?_,
    fun r ho hwide hrel hfit hhome hroom => ?_, fun tr r ha hfit hl1 hg hfill htr hpeer hpoison hroom => ?_⟩
  · refine vld_lanesLoaded h ty .global o d m s sid t _ r hnarrow hu hb (fun _ l hl => loadMisses_l1 hnarrow (hin l hl).2) (fun n l hl => ?_)
    exact loadLane_l1 (s := ticketed _ n) (x := operandAcc sid _ .global o m (mBytes ty)) r.resident_atIssue (r.settled.ticketed n) rfl
      (hin l hl).1 rfl rfl hnarrow (hin l hl).2 l
  · refine vld_uniformLoaded h ty .global o d m s sid t _ r hnarrow hm hen hu hb (fun _ l _ hl => ?_) (fun n l _ hl => ?_)
    · rw [hl (by decide)]
      exact loadMisses_l1 hnarrow hin
    · rw [hl (by decide)]
      exact loadLane_l1 (s := ticketed _ n) (x := operandAcc sid _ .global o m (mBytes ty)) r.resident_atIssue (r.settled.ticketed n) rfl
        hfit rfl rfl hnarrow hin 0
  · refine sld_scalarLoaded h ty .global o sd m s sid t _ r hnarrow (fun _ => loadMisses_l1 hnarrow hin) (fun n => ?_)
    exact loadLane_l1 (s := ticketed _ n) (x := operandAcc sid _ .global o m (mBytes ty)) r.resident_atIssue (r.settled.ticketed n) rfl
      hfit rfl rfl hnarrow hin 0
  · obtain ⟨e1, ms, e, q, hx, ⟨hmem, hother⟩, he, hgot⟩ := sld_entered h ty .global o sd m s sid t _
      (fun e => SameMemory (atIssue (.sld h ty .global o sd m) s sid t) e ∧
        ∀ k, k ≠ sid → e.team? k = (atIssue (.sld h ty .global o sd m) s sid t).team? k) r hroom
      (fun hsc => releaseAt_released (hrel hsc) rfl rfl)
      (fun n e ms hent => loadLane_home_entered hent r.settled rfl rfl rfl rfl hfit (mBytes_dvd ty) ho hwide hhome)
    obtain ⟨s', t', hs', ht', hpc, hholds, hsb, hregs, hheld, hmem', hother'⟩ := sld_completes r.settled hx he hgot
    exact ⟨s', t', hs', ht', hpc, hholds, hsb, hregs, hheld, ⟨fun k => (hmem'.1 k).trans (hmem.1 k), fun k => (hmem'.2 k).trans (hmem.2 k)⟩,
      fun k hk => (hother' k hk).trans (hother k hk)⟩
  · obtain ⟨e1, ms, e, q, hx, -, he, hgot⟩ := sld_entered h ty .global .weak (.s a) m s sid t _ (fun _ => True) r hroom
      (fun hsc => Ord.noConfusion hsc)
      (fun n e ms hent => loadLane_memory_entered hent r.settled rfl rfl rfl rfl hfit (mBytes_dvd ty) rfl (mBytes_pos ty) hl1 hg hfill htr hpeer hpoison)
    obtain ⟨s', t', hs', ht', hpc, ⟨hlow, -⟩, -⟩ := sld_completes r.settled hx he hgot
    exact ⟨s', t', hs', ht', hpc, hlow.trans (if_neg ha)⟩

end Sys2Proof.Machine
end

section
/-! GLOBAL STORES (O25): stores that the L1 holds (10 R198-R201; 11 R229). -/

namespace Sys2Proof.Machine

/-! ## Lines of an L1 -/

theorem mem_lanesFor (addr : Nat → Word) {ls : List Nat} {l : Nat} (h : l ∈ ls) : (l, addr l) ∈ lanesFor addr ls :=
  List.mem_map_of_mem h

theorem State.l1?_key {s : State} {core ctx l : Nat} {x : L1Line} (h : s.l1? core ctx l = some x) : x.core = core ∧ x.ctx = ctx ∧ x.line = l := by
  have := List.find?_some h
  simpa [and_assoc] using this

/-- A line that is put in place of one with its core, context and line reads there, and nowhere else. -/
theorem l1?_putL1 {s : State} {x : L1Line} (h : (s.l1? x.core x.ctx x.line).isSome = true) (core ctx l : Nat) :
    (putL1 s x).l1? core ctx l = if core = x.core ∧ ctx = x.ctx ∧ l = x.line then some x else s.l1? core ctx l := by
  have hkey : ((fun y : L1Line => y.core == core && y.ctx == ctx && y.line == l) ∘
      fun y => if y.core = x.core ∧ y.ctx = x.ctx ∧ y.line = x.line then x else y) = fun y => y.core == core && y.ctx == ctx && y.line == l := by
    funext y
    dsimp only [Function.comp]
    split
    · rename_i hy
      rw [hy.1, hy.2.1, hy.2.2]
    · rfl
  have hfind : (putL1 s x).l1? core ctx l =
      (s.l1? core ctx l).map (fun y => if y.core = x.core ∧ y.ctx = x.ctx ∧ y.line = x.line then x else y) := by
    rw [putL1, if_pos h]
    refine List.find?_map.trans ?_
    rw [hkey]
    rfl
  rw [hfind]
  cases hy : s.l1? core ctx l with
  | none =>
    rw [if_neg]
    · rfl
    · rintro ⟨rfl, rfl, rfl⟩
      rw [hy] at h
      cases h
  | some y =>
    obtain ⟨rfl, rfl, rfl⟩ := State.l1?_key hy
    rw [Option.map_some]
    split <;> rfl

/-- The bytes of a number placed in a line. -/
theorem lineByte_placeNat (v : Nat) {o i : Nat} (ho : o ≤ i) (hi : i < 64) : lineByte (placeNat o v) i = BitVec.ofNat 8 (v / 2 ^ (8 * (i - o))) := by
  apply BitVec.eq_of_getLsbD_eq
  intro j hj
  rw [getLsbD_lineByte, placeNat, BitVec.getLsbD_ofNat, BitVec.getLsbD_ofNat, Nat.testBit_mul_two_pow, Nat.testBit_div_two_pow,
    show 8 * i + j - 8 * o = j + 8 * (i - o) by omega]
  simp [hj, show 8 * i + j < 512 by omega, show 8 * o ≤ 8 * i + j by omega]

/-- A dirty byte of a line in a core's L1, by its virtual address. -/
def l1Dirty (s : State) (core ctx va : Nat) : Bool :=
  match s.l1? core ctx (va / 64) with
  | some x => x.dirty.getLsbD (va % 64)
  | none => false

/-- A byte as the L1 holds it: its value, where it is valid, and whether it is dirty. -/
def l1Cell (s : State) (core ctx va : Nat) : Option Byte × Bool := (l1Byte s core ctx va, l1Dirty s core ctx va)

/-- From `s` to `e` the `n` bytes of `v` have been stored in a core's L1, valid and dirty, and its other bytes are as they were. -/
def StoredL1 (s e : State) (core ctx va n v : Nat) : Prop :=
  ∀ b, l1Cell e core ctx b = if va ≤ b ∧ b < va + n then (some (BitVec.ofNat 8 (v / 2 ^ (8 * (b - va)))), true) else l1Cell s core ctx b

/-! ## A lane's store -/

/-- Stores in the L1 leave memory, the homes and the scratchpads, one team, and the translations of one core's lines. -/
structure L1Only (s e : State) (sid core ctx : Nat) : Prop where
  mem      : e.mem = s.mem
  spad     : e.spad = s.spad
  spadBase : e.spadBase = s.spadBase
  homes    : e.homes = s.homes
  rt       : e.rt = s.rt
  ctxs     : e.ctxs = s.ctxs
  windows  : e.windows = s.windows
  wfaults  : e.wfaults = s.wfaults
  team     : ∀ u, s.team? sid = some u → u.region = none → e.team? sid = some u
  trs      : ∀ line, (e.l1? core ctx line).map L1Line.tr = (s.l1? core ctx line).map L1Line.tr

theorem L1Only.refl (s : State) (sid core ctx : Nat) : L1Only s s sid core ctx :=
  ⟨rfl, rfl, rfl, rfl, rfl, rfl, rfl, rfl, fun _ h _ => h, fun _ => rfl⟩

theorem L1Only.trans {s e f : State} {sid core ctx : Nat} (h : L1Only s e sid core ctx) (g : L1Only e f sid core ctx) :
    L1Only s f sid core ctx :=
  ⟨g.mem.trans h.mem, g.spad.trans h.spad, g.spadBase.trans h.spadBase, g.homes.trans h.homes, g.rt.trans h.rt, g.ctxs.trans h.ctxs,
    g.windows.trans h.windows, g.wfaults.trans h.wfaults, fun u hu hr => g.team u (h.team u hu hr) hr, fun l => (g.trs l).trans (h.trs l)⟩

/-- A store of a line that the L1 holds with a translation, byte by byte. -/
theorem storeL1_spec {s : State} {acc : Access} {va n v : Nat} {x : L1Line} {tr : Trans} (hx : s.l1? acc.core acc.ctx (va / 64) = some x)
    (htr : x.tr = some tr) (hfit : va % 64 + n ≤ 64) (sid : Nat) :
    L1Only s (storeL1 s acc (va / 64) (byteRange (va % 64) n) (placeNat (va % 64) v) tr false) sid acc.core acc.ctx ∧
      StoredL1 s (storeL1 s acc (va / 64) (byteRange (va % 64) n) (placeNat (va % 64) v) tr false) acc.core acc.ctx va n v := by
  obtain ⟨hcore, hctx, hline⟩ := State.l1?_key hx
  have hab := externalWrite_aborted s acc.ctx (va / 64)
  have hacc := externalWrite_accessed s acc.ctx (va / 64)
  have hx1 : (externalWrite s acc.ctx (va / 64)).l1? acc.core acc.ctx (va / 64) = some x := by rw [State.l1?, hab.l1]; exact hx
  obtain ⟨y, hy⟩ : ∃ y : L1Line, { x with valid := x.valid ||| byteRange (va % 64) n, dirty := x.dirty ||| byteRange (va % 64) n,
                                          data := mergeLine (byteRange (va % 64) n) (placeNat (va % 64) v) x.data, tr := some (x.tr.getD tr),
                                          narrow := x.narrow &&& ~~~ byteRange (va % 64) n } = y := ⟨_, rfl⟩
  have hstore : storeL1 s acc (va / 64) (byteRange (va % 64) n) (placeNat (va % 64) v) tr false =
      (putL1 (externalWrite s acc.ctx (va / 64)) y).nextOrder := by
    simp only [storeL1, hx1, Option.isSome_some, if_true, Option.getD_some, Bool.false_eq_true, if_false, hy]
  have hkey : y.core = acc.core ∧ y.ctx = acc.ctx ∧ y.line = va / 64 := by rw [← hy]; exact ⟨hcore, hctx, hline⟩
  obtain ⟨hycore, hyctx, hyline⟩ := hkey
  have hput : ∀ l, (storeL1 s acc (va / 64) (byteRange (va % 64) n) (placeNat (va % 64) v) tr false).l1? acc.core acc.ctx l =
      if l = va / 64 then some y else s.l1? acc.core acc.ctx l := by
    intro l
    have hsome : ((externalWrite s acc.ctx (va / 64)).l1? y.core y.ctx y.line).isSome = true := by rw [hycore, hyctx, hyline, hx1]; rfl
    rw [hstore]
    refine (l1?_putL1 hsome acc.core acc.ctx l).trans ?_
    rw [hycore, hyctx, hyline, State.l1?, State.l1?, hab.l1]
    simp
  have hrest : putL1 (externalWrite s acc.ctx (va / 64)) y =
      { externalWrite s acc.ctx (va / 64) with l1 := (putL1 (externalWrite s acc.ctx (va / 64)) y).l1 } := by
    unfold putL1
    split <;> rfl
  refine ⟨?_, fun b => ?_⟩
  · rw [hstore, hrest]
    refine ⟨hab.mem, hab.spad, hab.spadBase, hab.homes, hab.rt, hab.ctxs, hab.windows, hab.wfaults, fun u hu hr => hacc.idle sid u hu hr,
      fun l => ?_⟩
    have hl := hput l
    rw [hstore, hrest] at hl
    rw [hl]
    split
    · rename_i hl
      rw [hl, hx, ← hy]
      simp [htr]
    · rfl
  · unfold l1Cell l1Byte l1Dirty
    rw [hput]
    have hb : b % 64 < 64 := Nat.mod_lt _ (by omega)
    have hmask := getLsbD_byteRange (o := va % 64) (n := n) hb
    by_cases hline : b / 64 = va / 64
    · rw [if_pos hline, hline, hx, ← hy]
      dsimp only
      rw [lineByte_mergeLine _ _ _ hb, BitVec.getLsbD_or, BitVec.getLsbD_or, hmask]
      by_cases hin : va ≤ b ∧ b < va + n
      · rw [if_pos hin, decide_eq_true (by omega), Bool.or_true, Bool.or_true, if_pos rfl, if_pos rfl, lineByte_placeNat v (by omega) hb,
          show b % 64 - va % 64 = b - va by omega]
      · rw [if_neg hin, decide_eq_false (by omega), Bool.or_false, Bool.or_false]
        simp
    · rw [if_neg hline, if_neg (by omega)]

/-- A weak or narrow store of a line that the L1 holds is performed there (10 R200). -/
theorem storePlace_l1 {s : State} {acc : Access} {o : Ord} {line : Nat} (hnarrow : o = .weak ∨ scopeWide acc.scope = false)
    (hx : (s.l1? acc.core acc.ctx line).isSome = true) : storePlace s acc o line = .l1 := by
  have hplace : (o != .weak && scopeWide acc.scope) = false := by
    obtain h | h := hnarrow <;> simp [h]
  simp [storePlace, hplace, hx]

theorem grantFor_l1 {s : State} {acc : Access} {line : Nat} {x : L1Line} {tr : Trans} (hx : s.l1? acc.core acc.ctx line = some x)
    (htr : x.tr = some tr) (hgrant : tr.grants s.rt = true) : grantFor s acc .l1 line = .granted tr := by
  simp [grantFor, hx, htr, hgrant]

theorem wfaultOf_none {s : State} {sid : Nat} (h : ∀ f ∈ s.wfaults, f.sid ≠ sid) (line : Nat) : wfaultOf s sid line = none :=
  List.find?_eq_none.mpr (fun f hf => by simp [h f hf])

/-- A lane's store of bytes that the L1 may take. -/
theorem storeLane_l1 {e : State} {x : Acc} {u : Team} {a : Word} (ht : e.team? x.a.sid = some u) (hpf : u.pf = none)
    (hi : insideOf u = .no) (hwf : ∀ f ∈ e.wfaults, f.sid ≠ x.a.sid) (hw : e.windows = []) (hsp : x.sp = .global)
    (hfit : fits u .global x.size a) (hn : x.size ∣ 64) (hcore : x.a.core = u.coreId) (hctx : x.a.ctx = u.ctx)
    (hnarrow : x.o = .weak ∨ scopeWide x.a.scope = false) (hmay : mayStore e u.coreId u.ctx a.toNat) (l v : Nat) :
    ∃ e1, storeLane e x l a v = (e1, .val 0) ∧ L1Only e e1 x.a.sid u.coreId u.ctx ∧ StoredL1 e e1 u.coreId u.ctx a.toNat x.size v := by
  obtain ⟨hseal, y, tr, hy, htr, hgrant⟩ := hmay
  rw [← hcore, ← hctx] at hy ⊢
  rw [← hctx] at hseal
  obtain ⟨c, hnote⟩ : ∃ c, noteGlobal e x.a.ctx a.toNat x.size = { e with cores := c } := ⟨_, rfl⟩
  obtain ⟨e0, he0⟩ : ∃ e0 : State, { e with cores := c } = e0 := ⟨_, rfl⟩
  have hy0 : e0.l1? x.a.core x.a.ctx (a.toNat / 64) = some y := he0 ▸ hy
  have hline : storeLine e0 x.a x.o (a.toNat / 64) (byteRange (a.toNat % 64) x.size) (placeNat (a.toNat % 64) v) =
      (storeL1 e0 x.a (a.toNat / 64) (byteRange (a.toNat % 64) x.size) (placeNat (a.toNat % 64) v) tr false, .ok ()) := by
    simp only [storeLine, storePlace_l1 hnarrow (by rw [hy0]; rfl), grantFor_l1 hy0 htr (he0 ▸ hgrant)]
  obtain ⟨honly, hbytes⟩ := storeL1_spec (v := v) hy0 htr (offset_fits hn hfit.1) x.a.sid
  have hopen := honly.windows.trans ((he0 ▸ rfl : e0.windows = e.windows).trans hw)
  refine ⟨_, ?_, L1Only.trans (he0 ▸ ⟨rfl, rfl, rfl, rfl, rfl, rfl, rfl, rfl, fun _ h _ => h, fun _ => rfl⟩) honly, fun b => (hbytes b).trans ?_⟩
  · simp only [storeLane, ht, hsp, laneCheck_fits hfit, pageDenied_none hpf, hi, wfaultOf_none hwf, hseal, hnote, he0, lineNo, lineOff, hline,
      foldAccess_closed hopen]
    rfl
  · rw [← he0]
    rfl

/-! ## A pass of such stores -/

theorem mayStore.keeps {s e : State} {sid core ctx va : Nat} (h : L1Only s e sid core ctx) (hm : mayStore s core ctx va) :
    mayStore e core ctx va := by
  obtain ⟨hseal, y, tr, hy, htr, hgrant⟩ := hm
  have hline := h.trs (va / 64)
  rw [hy, Option.map_some, htr] at hline
  obtain ⟨z, hz, hztr⟩ := Option.map_eq_some_iff.mp hline
  refine ⟨?_, z, tr, hz, hztr, h.rt ▸ hgrant⟩
  unfold sealedAt State.ctx? at hseal ⊢
  rwa [h.ctxs]

/-- Such a store waits for no write check and is not written through (10 R203; 11 R229). -/
theorem mayStore.unchecked {s : State} {u : Team} {x : Acc} {ls : List (Nat × Word)} (hi : insideOf u = .no)
    (hnarrow : x.o = .weak ∨ scopeWide x.a.scope = false)
    (hmay : ∀ l ∈ ls, mayStore s x.a.core x.a.ctx l.2.toNat) : needChecks s u x ls = [] ∧
      ∀ l ∈ ls, writtenThrough s u x (lineNo l.2) = false := by
  have hone : ∀ l ∈ ls, ∃ tr, writePlace s u x (lineNo l.2) = .l1 ∧ grantFor s x.a .l1 (lineNo l.2) = .granted tr := by
    intro l hl
    obtain ⟨-, y, tr, hy, htr, hgrant⟩ := hmay l hl
    have hy' : s.l1? x.a.core x.a.ctx (lineNo l.2) = some y := hy
    exact ⟨tr, by rw [writePlace, hi]; exact storePlace_l1 hnarrow (by rw [hy']; rfl), grantFor_l1 hy' htr hgrant⟩
  refine ⟨?_, fun l hl => ?_⟩
  · unfold needChecks
    rw [hi]
    split
    · rfl
    · dsimp only
      refine List.filterMap_eq_nil_iff.mpr (fun k hk => ?_)
      obtain ⟨l, hl, rfl⟩ := List.mem_map.mp (List.mem_dedup.mp (List.mem_of_mem_filter hk))
      obtain ⟨tr, hplace, hgrant⟩ := hone l (List.mem_of_mem_filter hl)
      rw [hplace, hgrant]
  · obtain ⟨tr, hplace, hgrant⟩ := hone l hl
    simp [writtenThrough, hi, hplace, hgrant]

/-- A lane's store, as it changes the state. -/
def storeStep (x : Acc) (addr : Nat → Word) (val : Nat → Nat) (e : State) (l : Nat) : State := (storeLane e x l (addr l) (val l)).1

section
variable {s : State} {sid n : Nat} {u : Team} {x : Acc} {addr : Nat → Word} {val : Nat → Nat} (hs : Settled u s sid) (ht : s.team? sid = some u)
  (hx : x.a.sid = sid) (hsp : x.sp = .global) (hn : x.size ∣ 64) (hcore : x.a.core = u.coreId) (hctx : x.a.ctx = u.ctx)
  (hnarrow : x.o = .weak ∨ scopeWide x.a.scope = false)
include hs ht hx hsp hn hcore hctx hnarrow

theorem storeStep_spec {e : State} {l : Nat} (he : L1Only (ticketed s n) e sid u.coreId u.ctx) (hfit : fits u .global x.size (addr l))
    (hmay : mayStore s u.coreId u.ctx (addr l).toNat) :
    storeLane e x l (addr l) (val l) = (storeStep x addr val e l, .val 0) ∧ L1Only e (storeStep x addr val e l) sid u.coreId u.ctx ∧
      StoredL1 e (storeStep x addr val e l) u.coreId u.ctx (addr l).toNat x.size (val l) := by
  obtain ⟨e1, hlane, honly, hstored⟩ := storeLane_l1 (x := x) (hx ▸ he.team _ ht hs.region) hs.group hs.insideOf
    (fun f hf => hx ▸ hs.checks f (he.wfaults ▸ hf)) (he.windows.trans hs.open_) hsp hfit hn hcore hctx hnarrow (mayStore.keeps he hmay) l (val l)
  rw [show storeStep x addr val e l = e1 from congrArg Prod.fst hlane]
  exact ⟨hlane, hx ▸ honly, hstored⟩

/-- What the lanes of a pass leave in the L1. -/
theorem storeStep_fold {ls : List Nat} (hls : ∀ l ∈ ls, fits u .global x.size (addr l) ∧ mayStore s u.coreId u.ctx (addr l).toNat) :
    L1Only (ticketed s n) (ls.foldl (storeStep x addr val) (ticketed s n)) sid u.coreId u.ctx ∧
    (ls.Pairwise (· < ·) → ∀ l ∈ ls, ∀ j, j < x.size →
      (∀ k ∈ ls, l < k → ∀ b, b < x.size → (addr k).toNat + b ≠ (addr l).toNat + j) →
      l1Cell (ls.foldl (storeStep x addr val) (ticketed s n)) u.coreId u.ctx ((addr l).toNat + j) =
        (some (BitVec.ofNat 8 (val l / 2 ^ (8 * j))), true)) ∧
    (∀ a, (∀ l ∈ ls, ∀ j, j < x.size → (addr l).toNat + j ≠ a) →
      l1Cell (ls.foldl (storeStep x addr val) (ticketed s n)) u.coreId u.ctx a = l1Cell s u.coreId u.ctx a) := by
  have hstep : ∀ e l, L1Only (ticketed s n) e sid u.coreId u.ctx → l ∈ ls → L1Only e (storeStep x addr val e l) sid u.coreId u.ctx ∧
      StoredL1 e (storeStep x addr val e l) u.coreId u.ctx (addr l).toNat x.size (val l) :=
    fun e l he hl => (storeStep_spec hs ht hx hsp hn hcore hctx hnarrow he (hls l hl).1 (hls l hl).2).2
  obtain ⟨hout, hin⟩ := foldl_writes (ls := ls) (step := storeStep x addr val) (read := fun e => l1Cell e u.coreId u.ctx) (n := x.size)
    (lo := fun l => (addr l).toNat) (w := fun l j => (some (BitVec.ofNat 8 (val l / 2 ^ (8 * j))), true))
    (fun e l he hl => L1Only.trans he (hstep e l he hl).1) (fun e l he hl => (hstep e l he hl).2) (L1Only.refl (ticketed s n) sid u.coreId u.ctx)
  refine ⟨List.foldlRecOn (motive := fun e => L1Only (ticketed s n) e sid u.coreId u.ctx) ls (storeStep x addr val) (L1Only.refl ..)
      (fun e he l hl => L1Only.trans he (hstep e l he hl).1),
    fun hsort l hl j hj hlast => hin hsort l hl j hj (fun k hk hlk hb => ?_), fun a ha => hout a (fun l hl hb => ?_)⟩
  · exact hlast k hk hlk _ (Nat.sub_lt_left_of_lt_add hb.1 hb.2) (Nat.add_sub_cancel' hb.1)
  · exact ha l hl _ (Nat.sub_lt_left_of_lt_add hb.1 hb.2) (Nat.add_sub_cancel' hb.1)

end

section
variable {i : Instr} {s : State} {sid : Nat} {t : Team} {x : Acc} {en : Mask} {whole : Option Mask} {addr : Nat → Word}
  {val : Nat → Nat} {complete : State → Done}

/-- A store that the L1 takes. -/
theorem l1Stored_of (hs : Settled (teamAtIssue i s sid t) (atIssue i s sid t) sid)
    (ht : (atIssue i s sid t).team? sid = some (teamAtIssue i s sid t))
    (hexec : exec i s = finish i sid (teamAtIssue i s sid t) (uses i)
      (storePass (atIssue i s sid t) sid (teamAtIssue i s sid t) x en whole addr val complete))
    (hearlier : ∀ e ∈ (runOf (teamAtIssue i s sid t) en).got, ∃ x, e.2 = .val x) (hx : x.a.sid = sid)
    (hnarrow : x.o = .weak ∨ scopeWide x.a.scope = false)
    (hcomplete : ∀ e t1, e.team? sid = some t1 → ∃ e2 n, complete e = .fall e2 n ∧ Leaves e e2 sid t1)
    (hsp : x.sp = .global) (hn : x.size ∣ 64) (hcore : x.a.core = (teamAtIssue i s sid t).coreId) (hctx : x.a.ctx = (teamAtIssue i s sid t).ctx)
    {addr' : Nat → Word} {val' : Nat → Nat} (hlanes : ∀ l ∈ passOf (runOf (teamAtIssue i s sid t) en), addr l = addr' l ∧ val l = val' l)
    (hls : ∀ l ∈ passOf (runOf (teamAtIssue i s sid t) en), fits (teamAtIssue i s sid t) .global x.size (addr' l) ∧
      mayStore (atIssue i s sid t) (teamAtIssue i s sid t).coreId (teamAtIssue i s sid t).ctx (addr' l).toNat) :
    L1Stored i s sid t en x.size addr' val' := by
  have hall : ∀ l ∈ lanesFor addr (passOf (runOf (teamAtIssue i s sid t) en)),
      mayStore (atIssue i s sid t) x.a.core x.a.ctx l.2.toNat := by
    intro l hl
    obtain ⟨k, hk, rfl⟩ := List.mem_map.mp hl
    rw [hcore, hctx, (hlanes k hk).1]
    exact (hls k hk).2
  obtain ⟨hchecks, hthrough⟩ := mayStore.unchecked hs.insideOf hnarrow hall
  refine store_memPass (I := fun e => ∃ n, L1Only (ticketed (atIssue i s sid t) n) e sid (teamAtIssue i s sid t).coreId (teamAtIssue i s sid t).ctx)
    (step := storeStep x addr' val') hs hexec hearlier hx hnarrow hcomplete hchecks (fun _ l hl => hthrough (l, addr l) (mem_lanesFor addr hl))
    (fun n => ⟨n, .refl ..⟩) (fun e ⟨n, he⟩ => he.team _ ht hs.region) (fun e l ⟨n, he⟩ hl => ?_) (fun n e t' he => ?_)
  · obtain ⟨hlane, honly, -⟩ := storeStep_spec (val := val') hs ht hx hsp hn hcore hctx hnarrow he (hls l hl).1 (hls l hl).2
    rw [(hlanes l hl).1, (hlanes l hl).2]
    exact ⟨hlane, n, he.trans honly⟩
  · obtain ⟨honly, hin, hout⟩ := storeStep_fold (n := n) (val := val') hs ht hx hsp hn hcore hctx hnarrow hls
    have hcell : ∀ b, l1Cell e (teamAtIssue i s sid t).coreId (teamAtIssue i s sid t).ctx b =
        l1Cell ((passOf (runOf (teamAtIssue i s sid t) en)).foldl (storeStep x addr' val') (ticketed (atIssue i s sid t) n))
          (teamAtIssue i s sid t).coreId (teamAtIssue i s sid t).ctx b := fun b => by
      unfold l1Cell l1Byte l1Dirty State.l1?
      rw [he.bytes.l1]
    refine ⟨fun l hl j hj hlast => ?_, fun a ha => ?_, ⟨fun k => ?_, fun k => ?_⟩, he.bytes.home.trans honly.homes⟩
    · obtain ⟨hbyte, hdirty⟩ := Prod.mk.inj ((hcell _).trans (hin (passOf_sorted _) l hl j hj hlast))
      refine ⟨hbyte, ?_⟩
      unfold l1Dirty at hdirty
      split at hdirty
      · rename_i y hy
        exact ⟨y, hy, hdirty⟩
      · cases hdirty
    · exact congrArg Prod.fst ((hcell a).trans (hout a ha))
    · exact (he.bytes.mem k).trans (by rw [honly.mem]; rfl)
    · exact (he.bytes.spad k).trans (spadByte_congr honly.spad honly.spadBase k)

end

/-- Settles O25: the lanes of a pass write the L1 one after another (`storeStep_fold`), with no write check to make and nothing written
through (`mayStore.unchecked`). -/
theorem globalStores : Obligations.GlobalStores := by
  unfold Obligations.GlobalStores
  intro h ty o d a m s sid t
  refine ⟨fun r hnarrow hls => ?_, fun r hnarrow hfit hmay => ?_⟩
  · exact l1Stored_of (x := operandAcc sid (teamAtIssue (.vst h ty .global o d m) s sid t) .global o m (mBytes ty))
      (val' := storeVal _ s sid t ty d)
      r.settled r.resident_atIssue ((issue_clear r.toClear _).trans (congrArg _ (storeVector_eq r.settled.insideOf r.some)))
      r.earlier rfl hnarrow (fun e t1 ht => ⟨_, 1, rfl, noteSkips_leaves ht ..⟩) rfl (mBytes_dvd ty) rfl rfl (fun l hl => ⟨rfl, rfl⟩) hls
  · have hmem : ∀ l ∈ passOf (runOf (teamAtIssue (.sst h ty .global o a m) s sid t) 1), l = 0 :=
      fun l hl => List.mem_singleton.mp (passOf_one r.first ▸ hl)
    exact l1Stored_of (x := operandAcc sid (teamAtIssue (.sst h ty .global o a m) s sid t) .global o m (mBytes ty))
      r.settled r.resident_atIssue ((issueScalar_on r.toClear r.guard _).trans (congrArg _ (storeScalar_eq r.settled.insideOf)))
      (by simp [got_one r.first]) rfl hnarrow (fun e t1 ht => ⟨e, 1, rfl, .refl ht⟩) rfl (mBytes_dvd ty) rfl rfl
      (fun l hl => ⟨by rw [hmem l hl]; rfl, scalarValue_eq ..⟩) (fun l hl => ⟨hfit, hmay⟩)

end Sys2Proof.Machine
end

section
/-! LANES THAT FAULT (O26): checks that come before an access, and the trap once the last pass is done (10 R196, R197, R205; 23 R359). -/

namespace Sys2Proof.Machine

/-! ## The trap of faulting lanes (10 R197) -/

/-- The faults among what lanes brought back. -/
def faultsOf (gs : List (Nat × LaneGot)) : List LaneFault :=
  gs.filterMap (fun g => match g.2 with
    | .out (.bad c a) => some { lane := g.1, cause := c, addr := a }
    | _ => none)

theorem mem_faultsOf {gs : List (Nat × LaneGot)} {f : LaneFault} : f ∈ faultsOf gs ↔ (f.lane, .out (.bad f.cause f.addr)) ∈ gs := by
  simp only [faultsOf, List.mem_filterMap]
  constructor
  · rintro ⟨⟨l, g⟩, hg, hf⟩
    dsimp only at hf
    split at hf
    · cases hf
      exact hg
    · cases hf
  · exact fun h => ⟨_, h, rfl⟩

/-- Lanes that were performed or that fault, some of them the latter: the instruction traps. -/
theorem settleMem_faults {s : State} {sid : Nat} {u : Team} {gs : List (Nat × LaneGot)} (hpf : u.pf = none) (hi : insideOf u = .no)
    (h : ∀ g ∈ gs, (∃ v, g.2 = .val v) ∨ ∃ c a, g.2 = .out (.bad c a)) (hsome : faultsOf gs ≠ []) (x : Acc) (write : Bool)
    (whole : Option Mask) (complete : State → Done) :
    settleMem s sid u x write whole gs complete = laneTrap s (faultsOf gs) (whole.getD (faultMask (faultsOf gs))) := by
  have hskip : gs.any (fun g => g.2 == .skip) = false := by
    rw [List.any_eq_false]
    intro g hg
    obtain ⟨v, hv⟩ | ⟨c, a, hv⟩ := h g hg <;> simp [hv]
  have hmiss : (outsOf gs).map (fun o => (o.1, settleMiss u o.2)) = outsOf gs := by
    unfold outsOf
    rw [List.map_map]
    refine List.map_congr_left (fun g hg => ?_)
    obtain ⟨v, hv⟩ | ⟨c, a, hv⟩ := h g hg <;> simp [hv, settleMiss]
  have hwaits : ∀ gs : List (Nat × LaneGot), (∀ g ∈ gs, (∃ v, g.2 = .val v) ∨ ∃ c a, g.2 = .out (.bad c a)) →
      gatherWaits u write (outsOf gs) = [] := by
    intro gs
    induction gs with
    | nil => exact fun _ => rfl
    | cons g r ih =>
      intro hall
      have hr := ih (fun x hx => hall x (List.mem_cons_of_mem _ hx))
      obtain ⟨l, g⟩ := g
      obtain ⟨v, hv⟩ | ⟨c, a, hv⟩ := hall (l, g) List.mem_cons_self
      · cases hv
        exact hr
      · cases hv
        exact hr
  have hhard : ∀ gs : List (Nat × LaneGot), (∀ g ∈ gs, (∃ v, g.2 = .val v) ∨ ∃ c a, g.2 = .out (.bad c a)) →
      hardFaults (outsOf gs) = faultsOf gs := by
    intro gs
    induction gs with
    | nil => exact fun _ => rfl
    | cons g r ih =>
      intro hall
      have hr := ih (fun x hx => hall x (List.mem_cons_of_mem _ hx))
      obtain ⟨l, g⟩ := g
      obtain ⟨v, hv⟩ | ⟨c, a, hv⟩ := hall (l, g) List.mem_cons_self
      · cases hv
        exact hr
      · cases hv
        exact congrArg (List.cons _) hr
  have hne : (faultsOf gs).isEmpty = false := by simpa using hsome
  unfold settleMem
  simp only [hskip, hi, ite_self, Bool.false_eq_true, if_false, settle, hmiss, hpf, hwaits gs h, hhard gs h, List.nil_append, List.isEmpty_nil,
    hne, Bool.not_true, Bool.not_false, if_true]

/-- The lowest cause of a list of faults. -/
theorem foldl_min_cause {fs : List LaneFault} {c : Nat} (hle : ∀ f ∈ fs, c ≤ f.cause.toNat) {n : Nat} (hn : c ≤ n)
    (hmem : c = n ∨ ∃ f ∈ fs, f.cause.toNat = c) : fs.foldl (fun (a : Nat) f => min a f.cause.toNat) n = c := by
  induction fs generalizing n with
  | nil =>
    obtain h | ⟨f, hf, -⟩ := hmem
    · exact h.symm
    · cases hf
  | cons g r ih =>
    have hg := hle g List.mem_cons_self
    refine ih (fun f hf => hle f (List.mem_cons_of_mem _ hf)) (Nat.le_min.mpr ⟨hn, hg⟩) ?_
    obtain rfl | ⟨f, hf, hfc⟩ := hmem
    · exact .inl (Nat.min_eq_left hg).symm
    · obtain rfl | hf := List.mem_cons.mp hf
      · exact .inl ((Nat.min_eq_right (hfc.le.trans hn)).trans hfc).symm
      · exact .inr ⟨f, hf, hfc⟩

/-- The fault that leads so far, and the next: that of the lower lane among those of a cause. -/
def leadStep (c : Nat) (a : Option LaneFault) (f : LaneFault) : Option LaneFault :=
  if f.cause.toNat = c then (match a with
    | some g => if f.lane < g.lane then some f else some g
    | none => some f) else a

/-- The fault of the lowest lane of a cause leads. -/
theorem foldl_leadStep {fs : List LaneFault} {c : Nat} {g : LaneFault} (hg : g.cause.toNat = c)
    (hlow : ∀ f ∈ fs, f.cause.toNat = c → f = g ∨ g.lane < f.lane) {a : Option LaneFault} (ha : ∀ f, a = some f → f = g ∨ g.lane < f.lane)
    (hmem : a = some g ∨ g ∈ fs) : fs.foldl (leadStep c) a = some g := by
  induction fs generalizing a with
  | nil =>
    obtain h | h := hmem
    · exact h
    · cases h
  | cons x r ih =>
    have hrest : ∀ f ∈ r, f.cause.toNat = c → f = g ∨ g.lane < f.lane := fun f hf => hlow f (List.mem_cons_of_mem _ hf)
    have hx := hlow x List.mem_cons_self
    refine ih hrest (fun f hf => ?_) ?_
    · unfold leadStep at hf
      split at hf
      · rename_i hc
        split at hf
        · split at hf
          · exact Option.some.inj hf ▸ hx hc
          · exact ha f hf
        · exact Option.some.inj hf ▸ hx hc
      · exact ha f hf
    · obtain rfl | hmem := hmem
      · left
        unfold leadStep
        split
        · rename_i hc
          obtain rfl | hlt := hx hc
          · simp
          · simp [Nat.not_lt_of_gt hlt]
        · rfl
      obtain rfl | hmem := List.mem_cons.mp hmem
      · left
        unfold leadStep
        rw [if_pos hg]
        cases a with
        | none => rfl
        | some y =>
          obtain rfl | hlt := ha y rfl
          · simp
          · simp [hlt]
      · exact .inr hmem

/-- The trap of faults among which `g` has the lowest cause, and the lowest lane of that cause. -/
theorem laneTrap_eq {fs : List LaneFault} {g : LaneFault} (hg : g ∈ fs)
    (hlow : ∀ f ∈ fs, f = g ∨ g.cause.toNat < f.cause.toNat ∨ (g.cause = f.cause ∧ g.lane < f.lane)) (s : State) (fmask : Mask) :
    laneTrap s fs fmask = .trap s g.cause g.addr fmask false := by
  have hmin : fs.foldl (fun (a : Nat) f => min a f.cause.toNat) 512 = g.cause.toNat := by
    refine foldl_min_cause (fun f hf => ?_) (Nat.le_of_lt g.cause.isLt) (.inr ⟨g, hg, rfl⟩)
    obtain rfl | h | ⟨h, -⟩ := hlow f hf
    · exact Nat.le_refl _
    · exact Nat.le_of_lt h
    · rw [h]
  have hlead : fs.foldl (leadStep g.cause.toNat) none = some g := by
    refine foldl_leadStep rfl (fun f hf hc => ?_) (fun _ h => by cases h) (.inr hg)
    obtain rfl | h | ⟨-, h⟩ := hlow f hf
    · exact .inl rfl
    · omega
    · exact .inr h
  have htrap : laneTrap s fs fmask = .trap s (BitVec.ofNat 9 (fs.foldl (fun (a : Nat) f => min a f.cause.toNat) 512))
      (match fs.foldl (leadStep (fs.foldl (fun (a : Nat) f => min a f.cause.toNat) 512)) none with | some f => f.addr | none => 0)
      fmask false := rfl
  rw [htrap, hmin, hlead, BitVec.ofNat_toNat, BitVec.setWidth_eq]

/-- The lanes of the faults. -/
theorem getLsbD_faultMask (fs : List LaneFault) (l : Nat) : (faultMask fs).getLsbD l = decide ((∃ f ∈ fs, f.lane = l) ∧ l < 1024) := by
  have hmap : faultMask fs = laneMask (fs.map LaneFault.lane) := by rw [faultMask, laneMask, List.foldl_map]
  rw [hmap, getLsbD_laneMask]
  exact decide_eq_decide.mpr (by simp)

/-- A trap that an instruction raises outside a region. -/
theorem trapped_handler {i : Instr} {s : State} {sid : Nat} {u : Team} {entry : Word} (h : s.team? sid = some u) (hh : HasHandler s u entry)
    (hr : u.region = none) (hi : u.inTrap = false) (cause : BitVec 9) (tval : Word) (fmask : Mask) (tpc : Word) :
    ∃ t', (trapped i s sid cause tval fmask tpc).team? sid = some t' ∧ InHandler t' entry cause tval (fmask &&& u.lanes) tpc ∧
      SameRegs u t' [] ∧ SameBytes s (trapped i s sid cause tval fmask tpc) := by
  obtain ⟨q, k, hl⟩ := noteTrap_leaves h i
  obtain ⟨t', hteam, hin, -, ⟨hs, hv, hp, hmask⟩, hbytes⟩ := takeTrap_handler hl.team
    (hh.leaves hl.ctxs (v := { u with readyAt := q, issued := k }) rfl rfl) hr hi cause tval fmask tpc
  obtain ⟨hm, hsp, hl1, hho, hsc⟩ := hl.bytes.trans hbytes
  exact ⟨t', hteam, hin, ⟨hs, hv, hp, hmask⟩, hm, hsp, hl1, hho, hsc⟩

/-! ## `vld` -/

/-- What a scratchpad or per-lane load gives for an address. -/
def checkedLoad (s : State) (u : Team) (sp : Space) (n l : Nat) (a : Word) : LaneGot :=
  match laneCheck u sp n a with
  | some c => .out (.bad c a)
  | none => .val (leNat (spadRead s u.coreId (bankOff u sp l a) n))

theorem loadLane_checkedLoad {s : State} {x : Acc} {u : Team} (ht : s.team? x.a.sid = some u) (hsp : x.sp ≠ .global) (l : Nat) (a : Word) :
    loadLane s x l a = (s, checkedLoad s u x.sp x.size l a) := by
  unfold checkedLoad
  split
  · exact loadLane_bad ht ‹_› l
  · exact loadLane_checked ht hsp ‹_› l

/-- The faults among what lanes with distinct numbers brought back, the first of them leading. -/
theorem fault_leads {all : List (Nat × LaneGot)} {f : Nat} {c : BitVec 9} {a : Word} (hnodup : (all.map Prod.fst).Nodup)
    (hmem : (f, LaneGot.out (.bad c a)) ∈ all) (hlow : ∀ l k b, (l, LaneGot.out (.bad k b)) ∈ all → c.toNat < k.toNat ∨ (c = k ∧ f ≤ l)) :
    ∀ g ∈ faultsOf all, g = ⟨f, c, a⟩ ∨ c.toNat < g.cause.toNat ∨ (c = g.cause ∧ f < g.lane) := by
  intro g hg
  rw [mem_faultsOf] at hg
  obtain hlt | ⟨hc, hle⟩ := hlow _ _ _ hg
  · exact .inr (.inl hlt)
  · obtain hlt | heq := Nat.lt_or_eq_of_le hle
    · exact .inr (.inr ⟨hc, hlt⟩)
    · left
      have hsame := List.inj_on_of_nodup_map hnodup hmem hg heq
      obtain ⟨l, k, b⟩ := g
      simp only [Prod.mk.injEq, LaneGot.out.injEq, LaneOut.bad.injEq] at hsame
      obtain ⟨rfl, rfl, rfl⟩ := hsame
      rfl

/-- The end of `vld` where some lane faulted: the lanes that were performed are in their registers, and the trap names the others. -/
theorem vldEnd_faults {s1 e : State} {sid : Nat} {u : Team} {x : Acc} {d : VIdx} {ty : MTy} {en : Mask} {r : MemRun} {f : Nat} {c : BitVec 9}
    {a : Word} (hpf : u.pf = none) (hi : insideOf u = .no) (hnarrow : x.o = .weak ∨ scopeWide x.a.scope = false)
    (he : Leaves s1 e sid { u with mem := none }) (hgot : ∀ g ∈ r.got, (∃ v, g.2 = .val v) ∨ ∃ k b, g.2 = .out (.bad k b))
    (hnodup : (r.got.map Prod.fst).Nodup) (hmem : (f, LaneGot.out (.bad c a)) ∈ r.got)
    (hlow : ∀ l k b, (l, LaneGot.out (.bad k b)) ∈ r.got → c.toNat < k.toNat ∨ (c = k ∧ f ≤ l)) :
    ∃ e2 V kept sb, vldEnd sid u x false d ty en e r = .trap e2 c a (faultMask (faultsOf r.got)) false ∧
      Leaves s1 e2 sid { u with mem := none, v := V, kept := kept, sb := sb } ∧
      ∀ l k, l < u.w → k < mRegs ty → (({ u with v := V } : Team).vr (d.toNat + k)).lane l =
        match Tab.find (valsOf r.got) l with
        | some y => BitVec.ofNat 32 (mExtend ty 32 y / 2 ^ (32 * k))
        | none => (u.vr (d.toNat + k)).lane l := by
  have hacq := afterAcquire_narrow hnarrow e r.got
  obtain ⟨e2, kept, sb, all, hend, hl, -, hall, -⟩ := loadEnd_settles (e := e) (sid := sid) (u := u) (x := x) (single := false)
    (whole := none) (r := r) (write := fun vals t1 => loadRegs t1 e.fresh false d.toNat (mRegs ty) (vals.map (fun v => (v.1, mExtend ty 32 v.2))))
    (complete := fun s => .fall (noteSkips s u (passCount u en false) false) 1) (hacq ▸ he.team) (regsOf d (mRegs ty))
  obtain ⟨V, hV, -, hlanes⟩ := loadRegs_lanes { u with mem := none } e.fresh d (mRegs ty) ((valsOf r.got).map (fun v => (v.1, mExtend ty 32 v.2)))
  rw [hacq, hV] at hl
  have hfault : (⟨f, c, a⟩ : LaneFault) ∈ faultsOf r.got := mem_faultsOf.mpr hmem
  have htrap := (settleMem_faults (s := e2) (sid := sid) hpf hi hgot (List.ne_nil_of_mem hfault) x false none
    (fun s => .fall (noteSkips s u (passCount u en false) false) 1)).trans (laneTrap_eq hfault (fault_leads hnodup hmem hlow) e2 _)
  refine ⟨e2, V, kept, _, ?_, he.trans hl, fun l k hl hk => ?_⟩
  · rw [vldEnd, hend, hall rfl, htrap]
    rfl
  · refine (hlanes l k hl hk).trans ?_
    rw [Tab.find_map]
    cases Tab.find (valsOf r.got) l <;> rfl

/-- A pass of a scratchpad or per-lane load whose lanes that pass their checks are performed. -/
theorem vld_checked (h : Hdr) (ty : MTy) (sp : Space) (d : VIdx) (m : MemOp) (s : State) (sid : Nat) (t : Team) :
    let i := Instr.vld h ty sp .weak d m
    let en := enableOf i h s sid t
    let u := teamAtIssue i s sid t
    let s0 := atIssue i s sid t
    let ad (l : Nat) := laneAddr i s sid t m l
    MemIssues i h s sid t → sp ≠ .global → ¬(en = u.lanes ∧ uniformAddr u m = true) →
    overBudget u ((List.range (mRegs ty)).map (fun k => (d.toNat + k, Tag.g))) = false →
    ∃ n dn, exec i s = finish i sid u (uses i) dn ∧ Performed sid u en (ticketed s0 n) u
      ((passOf (runOf u en)).map (fun l => (l, checkedLoad s0 u sp (mBytes ty) l (ad l))))
      (vldEnd sid u (operandAcc sid u sp .weak m (mBytes ty)) false d ty en) dn := by
  intro i en u s0 ad r hsp hu hb
  refine vld_performed h ty sp .weak d m s sid t _ r (.inl rfl) hu hb (fun hg => absurd hg hsp) (fun n l _ => ?_) (fun l on => ?_)
  · refine loadLane_checkedLoad ?_ hsp l (ad l)
    exact r.resident_atIssue
  · unfold checkedLoad
    split
    · exact LaneGot.noConfusion
    · exact LaneGot.noConfusion

/-- The trap of a vector load some of whose lanes faulted. -/
theorem finish_vldEnd_faults {i : Instr} {us : Uses} {s1 e : State} {sid : Nat} {u : Team} {x : Acc} {d : VIdx} {ty : MTy} {en : Mask}
    {r : MemRun} {f : Nat} {c : BitVec 9} {a entry : Word} (hpf : u.pf = none) (hr : u.region = none) (hw : u.w ≤ 1024)
    (hh : HasHandler s1 u entry) (hi : u.inTrap = false) (hnarrow : x.o = .weak ∨ scopeWide x.a.scope = false)
    (he : Leaves s1 e sid { u with mem := none }) (hgot : ∀ g ∈ r.got, (∃ v, g.2 = .val v) ∨ ∃ k b, g.2 = .out (.bad k b))
    (hnodup : (r.got.map Prod.fst).Nodup) (hmem : (f, LaneGot.out (.bad c a)) ∈ r.got)
    (hlow : ∀ l k b, (l, LaneGot.out (.bad k b)) ∈ r.got → c.toNat < k.toNat ∨ (c = k ∧ f ≤ l)) :
    ∃ s' t', finish i sid u us (vldEnd sid u x false d ty en e r) = .next s' ∧ s'.team? sid = some t' ∧
      InHandler t' entry c a t'.fmask u.pc ∧
      (∀ l, l < u.w → (t'.fmask.getLsbD l = true ↔ ∃ k b, (l, LaneGot.out (.bad k b)) ∈ r.got)) ∧
      ∀ l k, l < u.w → k < mRegs ty → (t'.vr (d.toNat + k)).lane l =
        match Tab.find (valsOf r.got) l with
        | some y => BitVec.ofNat 32 (mExtend ty 32 y / 2 ^ (32 * k))
        | none => (u.vr (d.toNat + k)).lane l := by
  have hin : insideOf u = .no := by simp [insideOf, Machine.inRegion, Team.openRegion, hr]
  obtain ⟨e2, V, kept, sb, hend, hl, hlanes⟩ := vldEnd_faults (d := d) (ty := ty) (en := en) hpf hin hnarrow he hgot hnodup hmem hlow
  obtain ⟨t', ht', ⟨h1, h2, hfm, h4, h5, h6⟩, hregs, -⟩ := trapped_handler (i := i) hl.team (hh.leaves hl.ctxs rfl rfl) hr hi c a
    (faultMask (faultsOf r.got)) u.pc
  refine ⟨trapped i e2 sid c a (faultMask (faultsOf r.got)) u.pc, t', by rw [hend]; rfl, ht', ⟨h1, h2, rfl, h4, h5, h6⟩, fun l hl' => ?_,
    fun l k hl' hk => (congrArg (fun v : VReg => v.lane l) (hregs.v (d.toNat + k) List.not_mem_nil)).trans (hlanes l k hl' hk)⟩
  have hlane : u.lanes.getLsbD l = true := by
    rw [getLsbD_lanes hw, decide_eq_true hl']
  have hfm' : t'.fmask.getLsbD l = ((faultMask (faultsOf r.got)).getLsbD l && u.lanes.getLsbD l) := by
    rw [hfm, BitVec.getLsbD_and]
    rfl
  rw [hfm', hlane, Bool.and_true, getLsbD_faultMask, decide_eq_true_iff]
  constructor
  · rintro ⟨⟨g, hg, rfl⟩, -⟩
    exact ⟨_, _, mem_faultsOf.mp hg⟩
  · rintro ⟨k, b, hg⟩
    exact ⟨⟨⟨l, k, b⟩, mem_faultsOf.mpr hg, rfl⟩, by omega⟩

/-! ## `sst` -/

/-- The end of a store of one lane that faulted. -/
theorem storeEnd_bad {e : State} {sid : Nat} {u : Team} {x : Acc} {fm : Mask} {complete : State → Done} {r : MemRun} {c : BitVec 9} {a : Word}
    (hpf : u.pf = none) (hi : insideOf u = .no) (ho : x.o = .weak) (ht : e.team? sid = some { u with mem := none })
    (hgot : r.got = [(0, .out (.bad c a))]) :
    ∃ e2, storeEnd sid u x (some fm) complete e r = .trap e2 c a fm false ∧ Leaves e e2 sid { u with mem := none } := by
  have hfaults : faultsOf [(0, LaneGot.out (.bad c a))] = [⟨0, c, a⟩] := rfl
  obtain ⟨e2, he2⟩ : ∃ e2, { e with wfaults := e.wfaults.filter (fun f => f.sid != sid) } = e2 := ⟨_, rfl⟩
  refine ⟨e2, ?_, he2 ▸ ⟨⟨fun _ => rfl, fun _ => rfl, rfl, rfl, rfl⟩, rfl, rfl, ht, fun _ _ => rfl⟩⟩
  have hweak : (if x.o == .sc then acquireAt e x.a else e) = e := by
    rw [ho]
    rfl
  have hsettle := settleMem_faults (s := e2) (sid := sid) (gs := [(0, .out (.bad c a))]) hpf hi
    (fun g hg => .inr ⟨c, a, by rw [List.mem_singleton.mp hg]⟩) (List.cons_ne_nil _ _) x true (some fm) complete
  rw [storeEnd, hweak, he2, hgot, hsettle, hfaults]
  exact laneTrap_eq List.mem_cons_self (fun f hf => .inl (List.mem_singleton.mp hf)) e2 fm

/-- A store of one lane whose address fails its check writes nothing, and faults. -/
theorem storePass_bad {s : State} {sid : Nat} {u : Team} {x : Acc} {addr : Nat → Word} {c : BitVec 9} (hs : Settled u s sid)
    (ht : s.team? sid = some u) (hx : x.a.sid = sid) (hm : u.mem = none) (ho : x.o = .weak) (hc : laneCheck u x.sp x.size (addr 0) = some c)
    (fm : Mask) (val : Nat → Nat) (complete : State → Done) :
    ∃ e, storePass s sid u x 1 (some fm) addr val complete = .trap e c (addr 0) fm false ∧ Leaves s e sid { u with mem := none } := by
  have hlanes : lanesFor addr (passOf (runOf u 1)) = [(0, addr 0)] := congrArg (lanesFor addr) (passOf_one hm)
  have hchecks : needChecks s u x [(0, addr 0)] = [] := by simp [needChecks, hs.insideOf, hc]
  have hlines : passLines s u x (storeOpn s u x val).need [(0, addr 0)] = [] := by simp [passLines, hc]
  obtain ⟨n, hfirst⟩ : ∃ n, (if (runOf u 1).left = (runOf u 1).en then (storeOpn s u x val).first s else s) = ticketed s n := by
    split
    · exact memFirst_narrow (.inl ⟨ho, by rw [ho]; rfl⟩) s
    · exact ⟨s.ticket, rfl⟩
  have hstart := startPass_free (sid := sid) (m := storeOpn s u x val) hlines hs.aged (runOf u 1)
  have hlane : storeLane (ticketed s n) x 0 (addr 0) (val 0) = (ticketed s n, .out (.bad c (addr 0))) := by
    have hteam : (ticketed s n).team? x.a.sid = some u := hx ▸ ht
    unfold storeLane
    simp only [hteam, hc]
  have hrun : runLanes (storeOpn s u x val).lane (ticketed s n) [(0, addr 0)] = .ok (ticketed s n, [(0, .out (.bad c (addr 0)))]) := by
    rw [runLanes, show (storeOpn s u x val).lane (ticketed s n) 0 (addr 0) = _ from hlane]
    rfl
  rw [hfirst] at hstart
  obtain ⟨e, r, hd, he, hgot⟩ := (runPass_performed (en := 1) (last := storeEnd sid u x (some fm) complete) (m := storeOpn s u x val)
    (r1 := { runOf u 1 with held := some ((ticketed s n).order, laneMask ([(0, addr 0)].map Prod.fst)) }) (s0 := ticketed s n)
    (s1 := ticketed s n) hs hx
    (fun _ => hlanes ▸ hchecks) (hlanes ▸ hstart) rfl rfl rfl (by rw [passOf_one hm]; rfl) rfl (hlanes ▸ togetherOf_single ..)
    (hlanes ▸ hrun) ht).ends (restOf_one hm)
  obtain ⟨e2, hend, hl⟩ := storeEnd_bad (fm := fm) (complete := complete) hs.group hs.insideOf ho he.team (hgot.trans (by rw [got_one hm]; rfl))
  have hticket : Leaves s (ticketed s n) sid u := ⟨⟨fun _ => rfl, fun _ => rfl, rfl, rfl, rfl⟩, rfl, rfl, ht, fun _ _ => rfl⟩
  exact ⟨e2, (storePass_eq ..).trans (hd.trans hend), hticket.trans (he.trans hl)⟩

/-- An instruction of such a store traps, with its team's registers and all bytes as they were. -/
theorem finish_storePass_bad {i : Instr} {us : Uses} {s : State} {sid : Nat} {u : Team} {x : Acc} {addr : Nat → Word} {c : BitVec 9}
    {entry : Word} (hs : Settled u s sid) (ht : s.team? sid = some u) (hx : x.a.sid = sid) (hm : u.mem = none) (ho : x.o = .weak)
    (hh : HasHandler s u entry) (hi : u.inTrap = false) (hc : laneCheck u x.sp x.size (addr 0) = some c)
    (fm : Mask) (val : Nat → Nat) (complete : State → Done) :
    ∃ s' t', finish i sid u us (storePass s sid u x 1 (some fm) addr val complete) = .next s' ∧ s'.team? sid = some t' ∧
      InHandler t' entry c (addr 0) (fm &&& u.lanes) u.pc ∧ SameRegs u t' [] ∧ SameBytes s s' := by
  obtain ⟨e, htrap, hl⟩ := storePass_bad hs ht hx hm ho hc fm val complete
  obtain ⟨t', ht', hin, ⟨hrs, hrv, hrp, hrm⟩, hbytes⟩ := trapped_handler (i := i) hl.team (hh.leaves hl.ctxs rfl rfl) hs.region hi c (addr 0)
    fm u.pc
  exact ⟨trapped i e sid c (addr 0) fm u.pc, t', by rw [htrap]; rfl, ht', hin, ⟨hrs, hrv, hrp, hrm⟩, hl.bytes.trans hbytes⟩

/-- A scalar store whose address fails its check faults with the active mask, and stores nothing. -/
theorem sst_bad (h : Hdr) (ty : MTy) (a : SIdx) (m : MemOp) (s : State) (sid : Nat) (t : Team) (entry : Word) (c : BitVec 9) :
    let i := Instr.sst h ty .global .weak a m
    let u := teamAtIssue i s sid t
    let s0 := atIssue i s sid t
    let va := laneAddr i s sid t m 0
    ScalarMem i h s sid t → HasHandler s0 u entry → u.inTrap = false → laneCheck u .global (mBytes ty) va = some c →
      ∃ s' t', exec i s = .next s' ∧ s'.team? sid = some t' ∧ InHandler t' entry c va (u.mask &&& u.lanes) u.pc ∧
        SameRegs u t' [] ∧ SameBytes s0 s' := by
  intro i u s0 va r hh hi hc
  have hexec : exec i s = finish i sid u (uses i) (storeScalar ty .global .weak a m sid (viewAtIssue i s sid t) s0) :=
    issueScalar_on r.toClear r.guard _
  rw [hexec, storeScalar_eq r.settled.insideOf]
  exact finish_storePass_bad r.settled r.resident_atIssue rfl r.first rfl hh hi hc ..

/-- An address that is not canonical, and one that is but not aligned (10 R196). -/
theorem laneCheck_noncanonical {u : Team} {n : Nat} {a : Word} (hlow : 2 ^ 56 ≤ a.toNat) (hhigh : a.toNat < 2 ^ 64 - 2 ^ 56) :
    laneCheck u .global n a = some Cause.noncanonical := by
  have hcanon : canonical a = false := by
    have hlt := a.isLt
    simp only [canonical, BitVec.extractLsb'_toNat, Nat.shiftRight_eq_div_pow, Bool.or_eq_false_iff, beq_eq_false_iff_ne]
    omega
  simp [laneCheck, hcanon]

theorem laneCheck_misaligned {u : Team} {n : Nat} {a : Word} (ha : a.toNat % n ≠ 0) (hrange : a.toNat < 2 ^ 56 ∨ 2 ^ 64 - 2 ^ 56 ≤ a.toNat) :
    laneCheck u .global n a = some Cause.misaligned := by
  have hcanon : canonical a = true := by
    have hlt := a.isLt
    simp only [canonical, BitVec.extractLsb'_toNat, Nat.shiftRight_eq_div_pow, Bool.or_eq_true, beq_iff_eq]
    omega
  simp [laneCheck, hcanon, ha]

/-- Settles O26: a check of a lane's address comes before its access, so the faults are those of `checkedLoad`; the lowest of them leads
the trap (`laneTrap_eq`). -/
theorem laneFaults : Obligations.LaneFaults := by
  unfold Obligations.LaneFaults
  intro h ty sp d a m s sid t entry
  refine ⟨?_, fun r hsp hu hb hrest => ?_, fun r hh hi hmis hrange => ?_, fun r hh hi hlow hhigh => ?_⟩
  · intro i en u s0 ad res q all f c b r hsp hu hb hh hi hrest hnodup hall hmem hlow
    obtain ⟨n, dn, hx, hp⟩ := vld_checked h ty sp d m s sid t r hsp hu hb
    obtain ⟨e, q, rfl, he, hgot⟩ := hp.ends hrest
    have hall' : q.got = all := hgot
    obtain ⟨s', t', hfin, ht', hin, hmask, hlanes⟩ := finish_vldEnd_faults (i := i) (us := uses i) (en := en) (d := d) (ty := ty)
      (x := operandAcc sid u sp .weak m (mBytes ty)) (s1 := ticketed s0 n) r.settled.group r.settled.region r.width (hh.leaves rfl rfl rfl) hi (.inl rfl) he
      (hall' ▸ hall) (hall' ▸ hnodup) (hall' ▸ hmem) (hall' ▸ hlow)
    rw [hall'] at hmask hlanes
    exact ⟨s', t', hx.trans hfin, ht', hin, hmask, hlanes⟩
  · obtain ⟨n, dn, hx, hp⟩ := vld_checked h ty sp d m s sid t r hsp hu hb
    exact memPass_of hx hp (fun e t' he => ⟨he.bytes.mem, he.bytes.spad⟩) (fun hz => absurd hz hrest)
  · exact sst_bad h ty a m s sid t entry _ r hh hi (laneCheck_misaligned hmis hrange)
  · exact sst_bad h ty a m s sid t entry _ r hh hi (laneCheck_noncanonical hlow hhigh)

end Sys2Proof.Machine
end

section
/-! ATOMICS: their passes and their end, and the events they count (08 R158, R161; 15 R286, R287). -/

namespace Sys2Proof.Machine

/-! ## Exception events that cross no threshold (08 R161) -/

/-- A saturating count gains no more than was added. -/
theorem satAdd32_le (x : BitVec 32) (n : Nat) : (satAdd32 x n).toNat ≤ x.toNat + n := by
  rw [satAdd32, BitVec.toNat_ofNat]
  exact (Nat.mod_le _ _).trans (Nat.min_le_left _ _)

/-- An exception register file that differs in what it counted alone. -/
structure Counted (e e' : Exc) : Prop where
  act : e'.act = e.act
  thr : e'.thr = e.thr
  log : e'.winLog = e.winLog

theorem Counted.refl (e : Exc) : Counted e e := ⟨rfl, rfl, rfl⟩

theorem Counted.trans {e f g : Exc} (h : Counted e f) (k : Counted f g) : Counted e g :=
  ⟨k.act.trans h.act, k.thr.trans h.thr, k.log.trans h.log⟩

/-- A class that cannot be crossed with an action by one instruction. -/
def QuietClass (e : Exc) (k : Nat) : Prop := e.actOf k = 0 ∨ (e.wcntOf k).toNat + 1024 ≤ (e.thrOf k).toNat

/-- Counting a class leaves the others as quiet as they were. -/
theorem QuietClass.count {e : Exc} {j k : Nat} (h : QuietClass e j) (hjk : j ≠ k) (n : Nat) : QuietClass (e.count k n).1 j := by
  have hcnt : (e.count k n).1.wcntOf j = e.wcntOf j := by
    simp only [Exc.wcntOf, Exc.count]
    rw [Tab.get_set, if_neg hjk]
  unfold QuietClass
  rw [hcnt]
  exact h

/-- The events of one class, counted. -/
def countClass (sid : Nat) (counts : List Nat) (s : State) (k : Nat) : State :=
  let n := counts.getD k 0
  if n = 0 then s
  else match s.team? sid with
    | none => s
    | some t =>
      let (e, c) := t.exc.count k n
      let s1 := s.setTeam sid { t with exc := e }
      match c with
      | none => s1
      | some w => crossAction s1 sid k w

theorem countEvents_eq (s : State) (sid : Nat) (counts : List Nat) : countEvents s sid counts = (List.range 8).foldl (countClass sid counts) s := rfl

/-- A quiet class is counted, and nothing more comes of it. -/
theorem countClass_leaves {s : State} {sid k : Nat} {t : Team} {counts : List Nat} (h : s.team? sid = some t) (hn : counts.getD k 0 ≤ 1024)
    (hq : QuietClass t.exc k) :
    ∃ exc, Leaves s (countClass sid counts s k) sid { t with exc := exc } ∧ Counted t.exc exc ∧
      ∀ j, j ≠ k → QuietClass t.exc j → QuietClass exc j := by
  obtain ⟨n, hk⟩ : ∃ n, counts.getD k 0 = n := ⟨_, rfl⟩
  unfold countClass
  rw [hk] at hn ⊢
  dsimp only
  split
  · exact ⟨t.exc, .refl h, .refl _, fun _ _ hj => hj⟩
  · rw [h]
    refine ⟨(t.exc.count k n).1, ?_, ⟨rfl, rfl, rfl⟩, fun j hj hjq => hjq.count hj _⟩
    have hput := Leaves.setTeam s sid { t with exc := (t.exc.count k n).1 }
    dsimp only
    split
    · exact hput
    · rename_i w hw
      obtain hact | hthr := hq
      · unfold crossAction
        rw [hput.team]
        have hact' : ({ t with exc := (t.exc.count k n).1 } : Team).exc.actOf k = 0 := hact
        simp only [hact']
        exact hput
      · have hle := satAdd32_le (t.exc.wcntOf k) n
        have hnot : ¬(t.exc.thrOf k < satAdd32 (t.exc.wcntOf k) n) := by
          rw [BitVec.lt_def]
          omega
        simp [Exc.count, hnot] at hw

/-- A quiet team's events are counted, and nothing more comes of them. -/
theorem countEvents_leaves {s : State} {sid : Nat} {t : Team} {counts : List Nat} (h : s.team? sid = some t) (hq : Quiet t)
    (hn : ∀ k, counts.getD k 0 ≤ 1024) :
    ∃ exc, Leaves s (countEvents s sid counts) sid { t with exc := exc } ∧ Counted t.exc exc := by
  have hfold : ∀ (ks : List Nat) (s : State) (t : Team), ks.Nodup → s.team? sid = some t → (∀ k ∈ ks, QuietClass t.exc k) →
      ∃ exc, Leaves s (ks.foldl (countClass sid counts) s) sid { t with exc := exc } ∧ Counted t.exc exc := by
    intro ks
    induction ks with
    | nil => exact fun s t _ h _ => ⟨t.exc, .refl h, .refl _⟩
    | cons k ks ih =>
      intro s t hnodup h hq
      obtain ⟨hk, hnodup⟩ := List.nodup_cons.mp hnodup
      obtain ⟨e1, hl1, hc1, hq1⟩ := countClass_leaves h (hn k) (hq k List.mem_cons_self)
      obtain ⟨e2, hl2, hc2⟩ := ih _ _ hnodup hl1.team
        (fun j hj => hq1 j (fun hjk => hk (hjk ▸ hj)) (hq j (List.mem_cons_of_mem _ hj)))
      exact ⟨e2, hl1.trans hl2, hc1.trans hc2⟩
  exact hfold _ s t List.nodup_range h (fun k hk => hq k (List.mem_range.mp hk))

/-- A class is raised at most once by each value. -/
theorem classCounts_le (evs : List Events) (k : Nat) : (classCounts evs).getD k 0 ≤ evs.length := by
  rw [classCounts, List.getD_eq_getElem?_getD, List.getElem?_map]
  by_cases hk : k < 8
  · rw [List.getElem?_range hk]
    exact List.length_filter_le ..
  · rw [List.getElem?_eq_none (by simp; omega)]
    exact Nat.zero_le _

/-! ## The passes of an atomic -/

theorem takeTicket_ticketed {s : State} {a : Access} {rel : Bool} (h : rel = true → releaseAt s a = s) (sc : Bool) :
    ∃ n, takeTicket (beforeRelease s a rel) sc = ticketed s n := by
  have hrel : beforeRelease s a rel = s := by
    unfold beforeRelease
    split
    · exact h ‹_›
    · rfl
  unfold takeTicket
  rw [hrel]
  split
  · exact ⟨_, rfl⟩
  · exact ⟨s.ticket, rfl⟩

/-- An atomic, pass by pass, outside a region. -/
def atomOpn (u : Team) (x : Acc) (ty : ATy) (op : AOp) (o : AOrd) (drain : Bool) (par : Nat → ALane) : MemOpn :=
  { x := x, write := true, drain := drain, sc := o == .sc,
    first := fun s => takeTicket (beforeRelease s x.a (o == .rel || o == .sc)) (o == .sc),
    need := fun _ _ => true, event := false, lane := fun s l a => atomLane s x ty op l a (par l),
    send := fun s lanes => match farLanes s u x lanes with
      | [] => none
      | ls => some (sendFar s x ty op par ls) }

/-- The end of an atomic: the registers, the events, and the lanes' faults. -/
def atomEnd (sid : Nat) (u : Team) (x : Acc) (ty : ATy) (op : AOp) (o : AOrd) (whole : Option Mask) (par : Nat → ALane)
    (dsts : List RegName) (write : Tab Nat → Team → Team) (complete : State → Done) (s : State) (r : MemRun) : Done :=
  let vals := valsOf r.got
  let s1 := { s with wfaults := s.wfaults.filter (fun f => f.sid != sid), far := s.far.filter (fun e => e.sid != sid) }
  let s2 := if (o == .acq || o == .sc) && !vals.isEmpty then acquireAt s1 x.a else s1
  let s3 := addResults r.due r.after (s2.onTeam sid (write vals)) sid dsts
  let evs := vals.map (fun v => (atomNew ty op v.2 (par v.1).v (par v.1).c).2)
  settleMem (countEvents s3 sid (classCounts evs)) sid u x true whole r.got complete

theorem atomPass_eq {u : Team} (hi : insideOf u = .no) (s : State) (sid : Nat) (x : Acc) (ty : ATy) (op : AOp) (o : AOrd) (en : Mask)
    (whole : Option Mask) (addr : Nat → Word) (par : Nat → ALane) (dsts : List RegName) (write : Tab Nat → Team → Team)
    (complete : State → Done) :
    ∃ drain, atomPass s sid u x ty op o en whole addr par dsts write complete =
      runPass s sid u en addr (atomOpn u x ty op o drain par) (atomEnd sid u x ty op o whole par dsts write complete) := by
  unfold atomPass
  rw [hi]
  exact ⟨_, rfl⟩

/-- The values that lanes brought back are no more than the lanes. -/
theorem valsOf_length (gs : List (Nat × LaneGot)) : (valsOf gs).length ≤ gs.length := by
  unfold valsOf
  split
  · exact Nat.zero_le _
  · exact List.length_filterMap_le ..

/-- Where all lanes were performed, the registers are written, the events counted, and the atomic completes. -/
theorem atomEnd_vals {e : State} {sid : Nat} {u t1 : Team} {x : Acc} {ty : ATy} {op : AOp} {o : AOrd} {whole : Option Mask}
    {par : Nat → ALane} {dsts : List RegName} {write : Tab Nat → Team → Team} {complete : State → Done} {r : MemRun} (hpf : u.pf = none)
    (hi : insideOf u = .no) (hacq : (o == .acq || o == .sc) = true → scopeWide x.a.scope = false) (ht : e.team? sid = some t1)
    (hq : Quiet (write (valsOf r.got) t1)) (hlen : r.got.length ≤ 1024) (hvals : ∀ g ∈ r.got, ∃ v, g.2 = .val v) :
    ∃ e2 sb exc, atomEnd sid u x ty op o whole par dsts write complete e r = complete e2 ∧
      Leaves e e2 sid { write (valsOf r.got) t1 with sb := (write (valsOf r.got) t1).sb ++ sb, exc := exc } ∧
      Counted (write (valsOf r.got) t1).exc exc := by
  obtain ⟨s1, hs1⟩ : ∃ s1, { e with wfaults := e.wfaults.filter (fun f => f.sid != sid), far := e.far.filter (fun f => f.sid != sid) } = s1 := ⟨_, rfl⟩
  have hl1 : Leaves e s1 sid t1 := hs1 ▸ ⟨⟨fun _ => rfl, fun _ => rfl, rfl, rfl, rfl⟩, rfl, rfl, ht, fun _ _ => rfl⟩
  have hs2 : (if (o == .acq || o == .sc) && !(valsOf r.got).isEmpty then acquireAt s1 x.a else s1) = s1 := by
    split
    · rename_i h
      simp [acquireAt, hacq (Bool.and_eq_true_iff.mp h).1]
    · rfl
  have hwrite := hl1.trans (.onTeam hl1.team (write (valsOf r.got)))
  obtain ⟨sb, hres, -⟩ := addResults_leaves r.due r.after hwrite.team dsts
  obtain ⟨exc, hcount, hsame⟩ := countEvents_leaves
    (counts := classCounts ((valsOf r.got).map (fun v => (atomNew ty op v.2 (par v.1).v (par v.1).c).2))) hres.team hq
    (fun k => (classCounts_le ..).trans (by rw [List.length_map]; exact (valsOf_length _).trans hlen))
  refine ⟨_, sb, exc, ?_, (hwrite.trans hres).trans hcount, hsame⟩
  unfold atomEnd
  simp only [hs1, hs2]
  exact settleMem_complete hpf hi hvals x true whole complete

end Sys2Proof.Machine
end

section
/-! SCRATCHPAD ATOMICS (15 R286, R287). -/

namespace Sys2Proof.Machine

/-! ## An atomic's location in the scratchpad -/

/-- What an atomic leaves in place of an old value (15 R287): the old one where a `cas` fails. -/
def atomLeaves (ty : ATy) (op : AOp) (p : ALane) (old : Nat) : Nat := ((atomNew ty op old p.v p.c).1.getD old) % 2 ^ aBits ty

theorem aBits_bytes (ty : ATy) : 8 * (aBits ty / 8) = aBits ty := by
  unfold aBits
  split <;> rfl

/-- A value read depends on its bytes alone. -/
theorem leNat_spadRead_congr {s e : State} {core off n : Nat} (h : ∀ j, j < n → spadByte e (spadKey core off + j) = spadByte s (spadKey core off + j)) :
    leNat (spadRead e core off n) = leNat (spadRead s core off n) := by
  congr 1
  refine List.map_congr_left (fun j hj => ?_)
  rw [show spadKey core (off + j) = spadKey core off + j by simp only [spadKey]; omega]
  exact h j (List.mem_range.mp hj)

theorem leNat_spadRead_spadWrite (s : State) (core off n v : Nat) (w : SpadWriter) :
    leNat (spadRead (spadWrite s core off (leBytes n v) w) core off n) = v % 2 ^ (8 * n) := by
  rw [← leNat_leBytes]
  congr 1
  refine List.ext_getElem (by simp [spadRead]) (fun j hj hj' => ?_)
  have hjn : j < n := by simpa [spadRead] using hj
  simp only [spadRead, List.getElem_map, List.getElem_range]
  rw [show spadKey core (off + j) = spadKey core off + j by simp only [spadKey]; omega, spadByte_spadWrite, length_leBytes, if_pos (by omega),
    Nat.add_sub_cancel_left, List.getD_eq_getElem?_getD, List.getElem?_eq_getElem hj']
  rfl

/-- A lane's scratchpad atomic gives the old value, leaves the new one, and changes no other byte. -/
theorem atomLane_spad {e : State} {x : Acc} {ty : ATy} {op : AOp} {u : Team} {a : Word} (ht : e.team? x.a.sid = some u) (hsp : x.sp = .spad)
    (hsize : x.size = aBits ty / 8) (hfit : fits u .spad x.size a) (l : Nat) (p : ALane) :
    ∃ e1, atomLane e x ty op l a p = (e1, .val (leNat (spadRead e u.coreId (bankOff u .spad l a) x.size))) ∧ SpadOnly e e1 ∧
      leNat (spadRead e1 u.coreId (bankOff u .spad l a) x.size) =
        atomLeaves ty op p (leNat (spadRead e u.coreId (bankOff u .spad l a) x.size)) ∧
      ∀ b, (∀ j, j < x.size → laneKey u .spad l a j ≠ b) → spadByte e1 b = spadByte e b := by
  have hbits : 8 * x.size = aBits ty := by rw [hsize, aBits_bytes]
  obtain ⟨old, hold⟩ : ∃ old, leNat (spadRead e u.coreId (bankOff u .spad l a) x.size) = old := ⟨_, rfl⟩
  have hlt : old < 2 ^ aBits ty := by
    have := leNat_lt (spadRead e u.coreId (bankOff u .spad l a) x.size)
    rwa [hold, spadRead, List.length_map, List.length_range, hbits] at this
  rw [hold]
  cases hnew : (atomNew ty op old p.v p.c).1 with
  | none =>
    refine ⟨e, ?_, .refl e, ?_, fun _ _ => rfl⟩
    · simp [atomLane, ht, hsp, laneCheck_fits hfit, hold, hnew]
    · rw [hold, atomLeaves, hnew, Option.getD_none, Nat.mod_eq_of_lt hlt]
  | some v =>
    refine ⟨_, ?_, spadWrite_only e u.coreId (bankOff u .spad l a) (leBytes x.size v) (.atomic u.key), ?_, fun b hb => ?_⟩
    · simp [atomLane, ht, hsp, laneCheck_fits hfit, hold, hnew]
    · rw [leNat_spadRead_spadWrite, atomLeaves, hnew, Option.getD_some, hbits]
    · rw [spadByte_spadWrite, length_leBytes, if_neg]
      rintro ⟨h1, h2⟩
      refine hb (b - spadKey u.coreId (bankOff u .spad l a)) (by omega) ?_
      rw [laneKey_eq]
      omega

/-! ## Lanes one after another -/

/-- A lane's atomic, as it changes the state. -/
def atomStep (x : Acc) (ty : ATy) (op : AOp) (addr : Nat → Word) (par : Nat → ALane) (e : State) (l : Nat) : State :=
  (atomLane e x ty op l (addr l) (par l)).1

/-- The value at a lane's location. -/
def atomCell (u : Team) (n : Nat) (addr : Nat → Word) (e : State) (l : Nat) : Nat :=
  leNat (spadRead e u.coreId (bankOff u .spad l (addr l)) n)

/-- What lanes in ascending order bring back, each after those below it. -/
theorem laneGots_sorted (step : State → Nat → State) (res : State → Nat → LaneGot) {ls : List Nat} (h : ls.Pairwise (· < ·)) (s : State) :
    laneGots step res s ls = ls.map (fun l => (l, res ((ls.filter (fun k => decide (k < l))).foldl step s) l)) := by
  induction ls generalizing s with
  | nil => rfl
  | cons x r ih =>
    obtain ⟨hx, hr⟩ := List.pairwise_cons.mp h
    have hself : (x :: r).filter (fun k => decide (k < x)) = [] :=
      List.filter_eq_nil_iff.mpr (fun k hk => by
        obtain rfl | hk := List.mem_cons.mp hk
        · simp
        · simpa using Nat.le_of_lt (hx k hk))
    rw [laneGots, ih hr, List.map_cons, hself]
    refine congrArg (List.cons _) (List.map_congr_left (fun l hl => ?_))
    rw [List.filter_cons_of_pos (by simpa using hx l hl)]
    rfl

section
variable {sid : Nat} {u : Team} {x : Acc} {ty : ATy} {op : AOp} {addr : Nat → Word} {par : Nat → ALane} {ls : List Nat}
  (hx : x.a.sid = sid) (hsp : x.sp = .spad) (hsize : x.size = aBits ty / 8) (hfit : ∀ l ∈ ls, fits u .spad x.size (addr l))
include hx hsp hsize hfit

theorem atomStep_spec {e : State} {l : Nat} (ht : e.team? sid = some u) (hl : l ∈ ls) :
    atomLane e x ty op l (addr l) (par l) = (atomStep x ty op addr par e l, .val (atomCell u x.size addr e l)) ∧
      SpadOnly e (atomStep x ty op addr par e l) ∧
      atomCell u x.size addr (atomStep x ty op addr par e l) l = atomLeaves ty op (par l) (atomCell u x.size addr e l) ∧
      ∀ b, (∀ j, j < x.size → laneKey u .spad l (addr l) j ≠ b) → spadByte (atomStep x ty op addr par e l) b = spadByte e b := by
  obtain ⟨e1, hlane, hrest⟩ := atomLane_spad (op := op) (hx ▸ ht) hsp hsize (hfit l hl) l (par l)
  rw [show atomStep x ty op addr par e l = e1 from congrArg Prod.fst hlane]
  exact ⟨hlane, hrest⟩

/-- Lanes change the scratchpads alone, and there the bytes of their locations. -/
theorem atomStep_fold {ks : List Nat} (hks : ∀ l ∈ ks, l ∈ ls) {e : State} (ht : e.team? sid = some u) :
    SpadOnly e (ks.foldl (atomStep x ty op addr par) e) ∧
      ∀ b, (∀ l ∈ ks, ∀ j, j < x.size → laneKey u .spad l (addr l) j ≠ b) → spadByte (ks.foldl (atomStep x ty op addr par) e) b = spadByte e b := by
  induction ks generalizing e with
  | nil => exact ⟨.refl e, fun _ _ => rfl⟩
  | cons l r ih =>
    obtain ⟨-, honly, -, hbytes⟩ := atomStep_spec (op := op) (par := par) hx hsp hsize hfit ht (hks l List.mem_cons_self)
    obtain ⟨honly', hbytes'⟩ := ih (fun k hk => hks k (List.mem_cons_of_mem _ hk)) ((honly.team? sid).trans ht)
    exact ⟨honly.trans honly', fun b hb => (hbytes' b (fun k hk => hb k (List.mem_cons_of_mem _ hk))).trans (hbytes b (hb l List.mem_cons_self))⟩

/-- A lane's location is not touched by lanes at other locations. -/
theorem atomCell_other {ks : List Nat} (hks : ∀ l ∈ ks, l ∈ ls) {e : State} (ht : e.team? sid = some u) {l : Nat}
    (hother : ∀ k ∈ ks, ∀ i j, i < x.size → j < x.size → laneKey u .spad k (addr k) i ≠ laneKey u .spad l (addr l) j) :
    atomCell u x.size addr (ks.foldl (atomStep x ty op addr par) e) l = atomCell u x.size addr e l := by
  refine leNat_spadRead_congr (fun j hj => ?_)
  rw [← laneKey_eq]
  exact (atomStep_fold hx hsp hsize hfit hks ht).2 _ (fun k hk i hi => hother k hk i j hi hj)

/-- Lanes at distinct locations: each leaves its new value. -/
theorem atomCell_distinct (hnodup : ls.Nodup) (hother : ∀ k ∈ ls, ∀ l ∈ ls, k ≠ l → ∀ i j, i < x.size → j < x.size →
      laneKey u .spad k (addr k) i ≠ laneKey u .spad l (addr l) j) {e : State} (ht : e.team? sid = some u) {l : Nat} (hl : l ∈ ls) :
    atomCell u x.size addr (ls.foldl (atomStep x ty op addr par) e) l = atomLeaves ty op (par l) (atomCell u x.size addr e l) := by
  obtain ⟨as, bs, hsplit⟩ := List.append_of_mem hl
  have hmem : ∀ k, k ∈ as ∨ k ∈ bs → k ∈ ls ∧ k ≠ l := by
    rw [hsplit] at hnodup
    intro k hk
    refine ⟨hsplit ▸ (by simpa using hk.imp_right .inr), ?_⟩
    rintro rfl
    obtain ⟨-, hcons, hdis⟩ := List.nodup_append.mp hnodup
    obtain hk | hk := hk
    · exact hdis k hk k List.mem_cons_self rfl
    · exact (List.nodup_cons.mp hcons).1 hk
  have has : ∀ k ∈ as, k ∈ ls := fun k hk => (hmem k (.inl hk)).1
  have hbs : ∀ k ∈ bs, k ∈ ls := fun k hk => (hmem k (.inr hk)).1
  have ht1 := ((atomStep_fold (op := op) (par := par) hx hsp hsize hfit has ht).1.team? sid).trans ht
  obtain ⟨-, honly, hcell, -⟩ := atomStep_spec (op := op) (par := par) hx hsp hsize hfit ht1 hl
  have hfold : ls.foldl (atomStep x ty op addr par) e =
      bs.foldl (atomStep x ty op addr par) (atomStep x ty op addr par (as.foldl (atomStep x ty op addr par) e) l) := by
    rw [hsplit, List.foldl_append, List.foldl_cons]
  rw [hfold, atomCell_other hx hsp hsize hfit hbs ((honly.team? sid).trans ht1) (fun k hk => hother k (hbs k hk) l hl (hmem k (.inr hk)).2), hcell,
    atomCell_other hx hsp hsize hfit has ht (fun k hk => hother k (has k hk) l hl (hmem k (.inl hk)).2)]

/-- Lanes at one location: each finds what those before it left. -/
theorem atomCell_same {at_ : Word} (hat : ∀ l ∈ ls, addr l = at_) {ks : List Nat} (hks : ∀ l ∈ ks, l ∈ ls) {e : State} (ht : e.team? sid = some u) :
    leNat (spadRead (ks.foldl (atomStep x ty op addr par) e) u.coreId (bankOff u .spad 0 at_) x.size) =
      ks.foldl (fun w l => atomLeaves ty op (par l) w) (leNat (spadRead e u.coreId (bankOff u .spad 0 at_) x.size)) := by
  induction ks generalizing e with
  | nil => rfl
  | cons l r ih =>
    have hl := hks l List.mem_cons_self
    obtain ⟨-, honly, hcell, -⟩ := atomStep_spec (op := op) (par := par) hx hsp hsize hfit ht hl
    have hloc : ∀ e, atomCell u x.size addr e l = leNat (spadRead e u.coreId (bankOff u .spad 0 at_) x.size) := fun e => by
      rw [atomCell, hat l hl]
      rfl
    rw [List.foldl_cons, List.foldl_cons, ih (fun k hk => hks k (List.mem_cons_of_mem _ hk)) ((honly.team? sid).trans ht), ← hloc, ← hloc, hcell]

end

/-! ## A pass -/

section
variable {s : State} {sid : Nat} {u : Team} {x : Acc} {ty : ATy} {op : AOp} {o : AOrd} {en : Mask} {addr : Nat → Word} {par : Nat → ALane}

/-- A pass of a scratchpad atomic. -/
theorem atom_performed (hs : Settled u s sid) (ht : s.team? sid = some u) (hx : x.a.sid = sid) (hnarrow : scopeWide x.a.scope = false)
    (hsp : x.sp = .spad) (hsize : x.size = aBits ty / 8) (hfit : ∀ l ∈ passOf (runOf u en), fits u .spad x.size (addr l)) {old : Nat → Nat}
    (hold : ∀ n, ∀ l ∈ passOf (runOf u en), atomCell u x.size addr
      (((passOf (runOf u en)).filter (fun k => decide (k < l))).foldl (atomStep x ty op addr par) (ticketed s n)) l = old l)
    (drain : Bool) (last : State → MemRun → Done) :
    ∃ n, Performed sid u en ((passOf (runOf u en)).foldl (atomStep x ty op addr par) (ticketed s n)) u
      ((passOf (runOf u en)).map (fun l => (l, .val (old l)))) last (runPass s sid u en addr (atomOpn u x ty op o drain par) last) := by
  have hglobal : (x.sp == .global) = false := by rw [hsp]; rfl
  obtain ⟨n, hn⟩ : ∃ n, (if (runOf u en).left = (runOf u en).en then (atomOpn u x ty op o drain par).first s else s) = ticketed s n := by
    split
    · exact takeTicket_ticketed (fun _ => by simp [releaseAt, hnarrow]) _
    · exact ⟨s.ticket, rfl⟩
  have hrun := runLanes_foldl (f := (atomOpn u x ty op o drain par).lane) (addr := addr) (step := atomStep x ty op addr par)
    (res := fun e l => .val (atomCell u x.size addr e l)) (I := fun e => e.team? sid = some u) (ls := passOf (runOf u en))
    (fun e l he hl => (atomStep_spec hx hsp hsize hfit he hl).1)
    (fun e l he hl => ((atomStep_spec (op := op) (par := par) hx hsp hsize hfit he hl).2.1.team? sid).trans he)
    (fun _ _ _ => LaneGot.noConfusion) (s := ticketed s n) ht
  rw [laneGots_sorted _ _ (passOf_sorted _), List.map_congr_left (fun l hl => congrArg (fun v => (l, LaneGot.val v)) (hold n l hl))] at hrun
  have hfold := atomStep_fold (op := op) (par := par) (e := ticketed s n) hx hsp hsize hfit (fun _ h => h) ht
  refine ⟨n, runPass_near (m := atomOpn u x ty op o drain par) hs hx (fun _ => ?_) (fun l _ => ?_) hn ?_ hrun ((hfold.1.team? sid).trans ht)⟩
  · simp [needChecks, atomOpn, hsp]
  · simp [atomOpn, hglobal]
  · simp [atomOpn, farLanes, hsp]

end

/-! ## `vatom` -/

/-- The access of an atomic. -/
def atomAcc (sid : Nat) (u : Team) (ty : ATy) (m : MemOp) : Acc :=
  { a := atomAccess sid u m, o := .strong, sp := atomSpace m, size := aBits ty / 8 }

theorem aBits_words (ty : ATy) : (if aWide ty then 2 else 1) = aBits ty / 8 / 4 := by
  unfold aBits
  split <;> rfl

/-- A scratchpad atomic has a narrow scope (15 R286). -/
theorem narrow_of_atomScopeOk {o : AOrd} {sc : Scope} (h : atomScopeOk true o sc = true) : scopeWide sc = false := by
  cases sc <;> simp_all [atomScopeOk, scopeWide]

/-- The operand and the compare value of a lane. -/
def vatomPar (ty : ATy) (d : VIdx) (a : Src) (vw : View) (s : State) (l : Nat) : ALane :=
  { v := vw.num s (aWide ty) a l, c := vw.num s (aWide ty) (.v d) l }

theorem Counted.held {e e' : Exc} (h : Counted e e') :
    (∀ k, e'.actOf k = e.actOf k) ∧ (∀ k, e'.thrOf k = e.thrOf k) ∧ e'.winLog = e.winLog := by
  obtain ⟨hact, hthr, hlog⟩ := h
  exact ⟨fun k => by rw [Exc.actOf, hact]; rfl, fun k => by rw [Exc.thrOf, hthr]; rfl, hlog⟩

/-- The end of `vatom`. -/
def vatomEnd (sid : Nat) (u : Team) (x : Acc) (ty : ATy) (op : AOp) (o : AOrd) (par : Nat → ALane) (d : VIdx) (en : Mask) :
    State → MemRun → Done :=
  atomEnd sid u x ty op o none par (regsOf d (aBits ty / 8 / 4)) (fun vals t1 => loadRegs t1 0 false d.toNat (aBits ty / 8 / 4) vals)
    (fun s => .fall (noteSkips s u (passCount u en false) false) 1)

theorem vectorAtom_eq {h : Hdr} {ty : ATy} {op : AOp} {o : AOrd} {d : VIdx} {a : Src} {m : MemOp} {s : State} {sid : Nat} {vw : View}
    (hi : insideOf vw.t = .no) (hen : vw.enable h ≠ 0)
    (hb : overBudget vw.t ((List.range (aBits ty / 8 / 4)).map (fun k => (d.toNat + k, Tag.g))) = false) :
    ∃ drain, vectorAtom h ty op o d a m sid vw s = runPass s sid vw.t (vw.enable h) (vw.addr m)
      (atomOpn vw.t (atomAcc sid vw.t ty m) ty op o drain (vatomPar ty d a vw s))
      (vatomEnd sid vw.t (atomAcc sid vw.t ty m) ty op o (vatomPar ty d a vw s) d (vw.enable h)) := by
  obtain ⟨drain, hpass⟩ := atomPass_eq hi s sid (atomAcc sid vw.t ty m) ty op o (vw.enable h) none (vw.addr m) (vatomPar ty d a vw s)
    (regsOf d (aBits ty / 8 / 4)) (fun vals t1 => loadRegs t1 0 false d.toNat (aBits ty / 8 / 4) vals)
    (fun s => .fall (noteSkips s vw.t (passCount vw.t (vw.enable h) false) false) 1)
  refine ⟨drain, Eq.trans ?_ hpass⟩
  unfold vectorAtom
  simp only [beq_eq_false_iff_ne.mpr hen, Bool.and_false, Bool.false_eq_true, if_false, aBits_words, hb]
  rfl

theorem Quiet.of_exc {t t' : Team} (h : Quiet t) (he : t'.exc = t.exc) : Quiet t' := by
  unfold Quiet
  rw [he]
  exact h

/-- Where all lanes were performed, the old values are in their lanes. -/
theorem vatomEnd_vals {s1 e : State} {sid : Nat} {u : Team} {x : Acc} {ty : ATy} {op : AOp} {o : AOrd} {par : Nat → ALane} {d : VIdx}
    {en : Mask} {r : MemRun} (hpf : u.pf = none) (hi : insideOf u = .no) (hnarrow : scopeWide x.a.scope = false) (hq : Quiet u)
    (he : Leaves s1 e sid { u with mem := none }) (hlen : r.got.length ≤ 1024) (hvals : ∀ g ∈ r.got, ∃ v, g.2 = .val v) :
    ∃ e2 t2, vatomEnd sid u x ty op o par d en e r = .fall e2 1 ∧ Leaves s1 e2 sid t2 ∧ SameRegs u t2 (regsOf d (aBits ty / 8 / 4)) ∧
      SameHeld u t2 ∧ ∀ l k, l < u.w → k < aBits ty / 8 / 4 → (t2.vr (d.toNat + k)).lane l =
        match Tab.find (valsOf r.got) l with
        | some v => BitVec.ofNat 32 (v / 2 ^ (32 * k))
        | none => (u.vr (d.toNat + k)).lane l := by
  obtain ⟨V, hV, ⟨hrs, hrv, hrp, hrm⟩, hlanes⟩ := loadRegs_lanes { u with mem := none } 0 d (aBits ty / 8 / 4) (valsOf r.got)
  obtain ⟨e2, sb, exc, hend, hl, hcounted⟩ := atomEnd_vals (x := x) (ty := ty) (op := op) (o := o) (whole := none) (par := par)
    (dsts := regsOf d (aBits ty / 8 / 4)) (write := fun vals t1 => loadRegs t1 0 false d.toNat (aBits ty / 8 / 4) vals)
    (complete := fun s => .fall (noteSkips s u (passCount u en false) false) 1) hpf hi (fun _ => hnarrow) he.team
    (by rw [hV]; exact hq.of_exc rfl) hlen hvals
  rw [hV] at hl hcounted
  refine ⟨_, _, hend, (he.trans hl).trans (noteSkips_leaves hl.team u (passCount u en false) false), ⟨hrs, hrv, hrp, hrm⟩, ?_, hlanes⟩
  refine ⟨?_, ?_, ?_, ?_, hcounted.held⟩ <;> (and_intros <;> rfl)

/-- A pass of a scratchpad `vatom` whose lanes bring back `old`. -/
theorem vatom_memPass (h : Hdr) (ty : ATy) (op : AOp) (o : AOrd) (d : VIdx) (a : Src) (m : MemOp) (s : State) (sid : Nat) (t : Team)
    (old : Nat → Nat) (stored : State → Prop) :
    let i := Instr.vatom h ty op o d a m
    let en := enableOf i h s sid t
    let u := teamAtIssue i s sid t
    let s0 := atIssue i s sid t
    let r := runOf u en
    let ad (l : Nat) := laneAddr i s sid t m l
    let n := aBits ty / 8
    let step := atomStep (atomAcc sid u ty m) ty op ad (vatomPar ty d a (viewAtIssue i s sid t) s0)
    MemRuns i h s sid t → m.pol = true → Quiet u → r.got.length ≤ 992 → (∀ l ∈ passOf r, fits u .spad n (ad l)) →
    overBudget u ((List.range (n / 4)).map (fun k => (d.toNat + k, Tag.g))) = false →
    (∀ q, ∀ l ∈ passOf r, atomCell u n ad (((passOf r).filter (fun k => decide (k < l))).foldl step (ticketed s0 q)) l = old l) →
    (∀ q e t', Leaves ((passOf r).foldl step (ticketed s0 q)) e sid t' → stored e) →
    MemPass i s sid t en (regsOf d (n / 4)) (fun l => .val (old l)) stored
      (fun t' => ∀ l k, l < u.w → k < n / 4 → (t'.vr (d.toNat + k)).lane l =
        match broughtBack r old l with
        | some v => BitVec.ofNat 32 (v / 2 ^ (32 * k))
        | none => (u.vr (d.toNat + k)).lane l) := by
  intro i en u s0 r ad n step hr hpol hq hlen hfit hb hold hstored
  have hok := hr.ok
  simp only [i, Instr.wf, Bool.and_eq_true, hpol] at hok
  have hnarrow : scopeWide m.scope = false := narrow_of_atomScopeOk hok.2
  have hsp : (atomAcc sid u ty m).sp = .spad := by
    simp only [atomAcc, atomSpace, hpol, if_true]
  obtain ⟨drain, hvec⟩ := vectorAtom_eq (op := op) (o := o) (a := a) (m := m) (s := s0) (sid := sid) (vw := viewAtIssue i s sid t)
    hr.settled.insideOf hr.some hb
  have hexec : exec i s = finish i sid u (uses i) (vectorAtom h ty op o d a m sid (viewAtIssue i s sid t) s0) := issue_clear hr.toClear _
  rw [hvec] at hexec
  obtain ⟨q, hp⟩ := atom_performed (op := op) (o := o) (en := en) (addr := ad) (par := vatomPar ty d a (viewAtIssue i s sid t) s0)
    (last := vatomEnd sid u (atomAcc sid u ty m) ty op o (vatomPar ty d a (viewAtIssue i s sid t) s0) d en)
    hr.settled hr.resident_atIssue rfl hnarrow hsp rfl hfit hold drain
  refine memPass_of hexec hp (hstored q) (fun _ e r' he hgot => ?_)
  have hvals : ∀ g ∈ r'.got, ∃ v, g.2 = .val v := by
    intro g hg
    rw [hgot] at hg
    obtain hg | hg := List.mem_append.mp hg
    · exact hr.earlier g hg
    · obtain ⟨l, -, rfl⟩ := List.mem_map.mp hg
      exact ⟨_, rfl⟩
  have hcount : r'.got.length ≤ 1024 := by
    rw [hgot, List.length_append, List.length_map]
    exact Nat.add_le_add hlen (passOf_length _)
  obtain ⟨e2, t2, hend, hl, hregs, hheld, hlanes⟩ := vatomEnd_vals (x := atomAcc sid u ty m) (op := op) (o := o) (d := d) (en := en)
    (par := vatomPar ty d a (viewAtIssue i s sid t) s0) hr.settled.group hr.settled.insideOf hnarrow hq he hcount hvals
  refine ⟨e2, t2, 1, hend, hl, hregs, hheld, fun t' ht' _ l k hl hk => ?_⟩
  have hvr : t'.vr (d.toNat + k) = t2.vr (d.toNat + k) := by simp only [Team.vr, ht']
  rw [hvr, hlanes l k hl hk, hgot, find_valsOf_broughtBack hr.earlier]

/-! ## `satom` -/

/-- The operand and the compare value. -/
def satomPar (ty : ATy) (d a : SIdx) (vw : View) (_ : Nat) : ALane :=
  { v := (vw.sr a.toNat).toNat % 2 ^ aBits ty, c := (vw.sr d.toNat).toNat % 2 ^ aBits ty }

/-- The register of a scalar-side atomic (15 R287). -/
def satomWrite (ty : ATy) (d : SIdx) (vals : Tab Nat) (t : Team) : Team :=
  match vals with
  | (_, v) :: _ => t.setS d.toNat (extS (aSigned ty) (aWide ty) v)
  | [] => t

/-- The end of `satom`. -/
def satomEnd (sid : Nat) (u : Team) (x : Acc) (ty : ATy) (op : AOp) (o : AOrd) (par : Nat → ALane) (d : SIdx) : State → MemRun → Done :=
  atomEnd sid u x ty op o (some u.mask) par [.s d.toNat] (satomWrite ty d) (fun s => .fall s 1)

theorem scalarAtom_eq {ty : ATy} {op : AOp} {o : AOrd} {d a : SIdx} {m : MemOp} {s : State} {sid : Nat} {vw : View}
    (hi : insideOf vw.t = .no) :
    ∃ drain, scalarAtom ty op o d a m sid vw s = runPass s sid vw.t 1 (vw.addr m)
      (atomOpn vw.t (atomAcc sid vw.t ty m) ty op o drain (satomPar ty d a vw))
      (satomEnd sid vw.t (atomAcc sid vw.t ty m) ty op o (satomPar ty d a vw) d) :=
  atomPass_eq hi s sid (atomAcc sid vw.t ty m) ty op o 1 (some vw.t.mask) (vw.addr m) (satomPar ty d a vw) [.s d.toNat] (satomWrite ty d)
    (fun s => .fall s 1)

/-- Where the lane was performed, the register holds the old value. -/
theorem satomEnd_val {e : State} {sid : Nat} {u t1 : Team} {x : Acc} {ty : ATy} {op : AOp} {o : AOrd} {par : Nat → ALane} {d : SIdx}
    {r : MemRun} {l v : Nat} (hpf : u.pf = none) (hi : insideOf u = .no) (hacq : (o == .acq || o == .sc) = true → scopeWide x.a.scope = false)
    (hq : Quiet t1) (ht : e.team? sid = some t1) (hgot : r.got = [(l, .val v)]) :
    ∃ e2 t2, satomEnd sid u x ty op o par d e r = .fall e2 1 ∧ Leaves e e2 sid t2 ∧ SameRegs t1 t2 [.s d.toNat] ∧
      (d ≠ 0 → t2.sr d.toNat = extS (aSigned ty) (aWide ty) v) := by
  obtain ⟨S, hS⟩ := Team.setS_eq t1 d.toNat (extS (aSigned ty) (aWide ty) v)
  have hsr := Team.sr_setS t1 d.toNat (x := extS (aSigned ty) (aWide ty) v)
  rw [hS] at hsr
  have hwrite : satomWrite ty d (valsOf r.got) t1 = { t1 with s := S } := by
    rw [hgot]
    exact hS
  obtain ⟨e2, sb, exc, hend, hl, -⟩ := atomEnd_vals (x := x) (ty := ty) (op := op) (o := o) (whole := some u.mask) (par := par)
    (dsts := [.s d.toNat]) (write := satomWrite ty d) (complete := fun s => .fall s 1) hpf hi hacq ht (by rw [hwrite]; exact hq.of_exc rfl)
    (by simp [hgot]) (by simp [hgot])
  rw [hwrite] at hl
  refine ⟨e2, _, hend, hl, ⟨fun k hk => (hsr k).trans (if_neg fun h => hk (by simp [h.1])), fun _ _ => rfl, fun _ _ => rfl, fun _ => rfl⟩, fun hd => ?_⟩
  exact (hsr d.toNat).trans (if_pos ⟨rfl, fun h => hd (BitVec.eq_of_toNat_eq h)⟩)

/-- A scalar-side atomic that has brought its value back completes. -/
theorem satom_completes {i : Instr} {s e1 e : State} {sid : Nat} {t : Team} {ms : List Miss} {x : Acc} {ty : ATy} {op : AOp} {o : AOrd}
    {par : Nat → ALane} {d : SIdx} {q : MemRun} {l v : Nat} (hs : Settled (teamAtIssue i s sid t) (atIssue i s sid t) sid)
    (hacq : (o == .acq || o == .sc) = true → scopeWide x.a.scope = false) (hq : Quiet (teamAtIssue i s sid t))
    (hx : exec i s = finish i sid (teamAtIssue i s sid t) (uses i) (satomEnd sid (teamAtIssue i s sid t) x ty op o par d e q))
    (he : Leaves e1 e sid { teamAtIssue i s sid t with misses := ms, mem := none }) (hgot : q.got = [(l, .val v)]) :
    ∃ s' t', exec i s = .next s' ∧ s'.team? sid = some t' ∧ t'.pc = (teamAtIssue i s sid t).pc + 12 ∧
      SameRegs (teamAtIssue i s sid t) t' [.s d.toNat] ∧ (d ≠ 0 → t'.sr d.toNat = extS (aSigned ty) (aWide ty) v) ∧ SameBytes e1 s' := by
  have hq' : Quiet { teamAtIssue i s sid t with misses := ms, mem := none } := hq.of_exc rfl
  obtain ⟨e2, t2, hend, hl, ⟨hrs, hrv, hrp, hrm⟩, hval⟩ := satomEnd_val (x := x) (ty := ty) (op := op) (par := par) (d := d) hs.group hs.insideOf
    hacq hq' he.team hgot
  obtain ⟨t', hl', hpc, -, -, hs', -, hregs', -⟩ := retire_leaves (i := i) (t0 := teamAtIssue i s sid t) (u := uses i) (n := 1)
    (pc := (teamAtIssue i s sid t).pc + 12) hl.team
  have hregs : SameRegs (teamAtIssue i s sid t) t2 [.s d.toNat] := ⟨hrs, hrv, hrp, hrm⟩
  refine ⟨_, t', hx.trans (congrArg _ hend), hl'.team, hpc, hregs.trans_nil hregs', fun hd => ?_, ((he.trans hl).trans hl').bytes⟩
  rw [← hval hd]
  simp only [Team.sr, hs']

/-- A scratchpad `satom`. -/
theorem satom_spad (h : Hdr) (ty : ATy) (op : AOp) (o : AOrd) (sd sa : SIdx) (m : MemOp) (s : State) (sid : Nat) (t : Team) :
    let i := Instr.satom h ty op o sd sa m
    let u := teamAtIssue i s sid t
    let s0 := atIssue i s sid t
    let va := laneAddr i s sid t m 0
    let n := aBits ty / 8
    let old := leNat (spadRead s0 u.coreId (bankOff u .spad 0 va) n)
    ScalarMem i h s sid t → m.pol = true → Quiet u → fits u .spad n va →
      ∃ s' t', exec i s = .next s' ∧ s'.team? sid = some t' ∧ t'.pc = u.pc + 12 ∧ SameRegs u t' [.s sd.toNat] ∧
        (sd ≠ 0 → t'.sr sd.toNat = extS (aSigned ty) (aWide ty) old) ∧
        leNat (spadRead s' u.coreId (bankOff u .spad 0 va) n) = atomLeaves ty op (satomPar ty sd sa (viewAtIssue i s sid t) 0) old := by
  intro i u s0 va n old hr hpol hq hfit
  have hok := hr.ok
  simp only [i, Instr.wf, Bool.and_eq_true, hpol] at hok
  have hnarrow : scopeWide m.scope = false := narrow_of_atomScopeOk hok.2
  have hsp : (atomAcc sid u ty m).sp = .spad := by
    simp only [atomAcc, atomSpace, hpol, if_true]
  have hm : u.mem = none := hr.first
  have hpass := passOf_one hm
  have hmem : ∀ l ∈ passOf (runOf u 1), l = 0 := fun l hl => List.mem_singleton.mp (hpass ▸ hl)
  obtain ⟨drain, hatom⟩ := scalarAtom_eq (ty := ty) (op := op) (o := o) (d := sd) (a := sa) (m := m) (s := s0) (sid := sid)
    (vw := viewAtIssue i s sid t) hr.settled.insideOf
  have hexec : exec i s = finish i sid u (uses i) (scalarAtom ty op o sd sa m sid (viewAtIssue i s sid t) s0) :=
    issueScalar_on hr.toClear hr.guard _
  rw [hatom] at hexec
  obtain ⟨k, hp⟩ := atom_performed (op := op) (o := o) (en := 1) (addr := laneAddr i s sid t m) (par := satomPar ty sd sa (viewAtIssue i s sid t))
    (last := satomEnd sid u (atomAcc sid u ty m) ty op o (satomPar ty sd sa (viewAtIssue i s sid t)) sd) (old := fun _ => old)
    hr.settled hr.resident_atIssue rfl hnarrow hsp rfl (fun l hl => (hmem l hl).symm ▸ hfit)
    (fun q l hl => by rw [hmem l hl, hpass]; rfl) drain
  rw [hpass] at hp
  have hcell := atomCell_same (op := op) (par := satomPar ty sd sa (viewAtIssue i s sid t)) (addr := laneAddr i s sid t m) (at_ := va)
    (ls := [0]) (ks := [0]) (x := atomAcc sid u ty m) (ty := ty) (e := ticketed s0 k) rfl hsp rfl
    (fun l hl => (List.mem_singleton.mp hl).symm ▸ hfit) (fun l hl => (List.mem_singleton.mp hl).symm ▸ rfl) (fun _ hl => hl) hr.resident_atIssue
  obtain ⟨e, q, hd, he, hgot⟩ := hp.ends (restOf_one hm)
  obtain ⟨s', t', hs', ht', hpc, hregs, hval, hbytes⟩ := satom_completes (ms := u.misses) (l := 0) (v := old) hr.settled (fun _ => hnarrow) hq
    (hexec.trans (congrArg (finish i sid u (uses i)) hd)) he (hgot.trans (congrArg (· ++ _) (got_one hm 1)))
  exact ⟨s', t', hs', ht', hpc, hregs, hval, (leNat_spadRead_congr (fun j _ => hbytes.spad _)).trans hcell⟩

end Sys2Proof.Machine
end

section
/-! ATOMICS AT THE HOME (14 R271; 15 R286, R287), and O27, settled. -/

namespace Sys2Proof.Machine

/-! ## The home's line (10 R199) -/

/-- A line put at its home is there. -/
theorem home?_putHome_self (s : State) (g : HomeLine) : (putHome s g).home? g.ctx g.line = some g := by
  cases hsome : (s.home? g.ctx g.line).isSome with
  | true => rw [home?_putHome hsome, if_pos ⟨rfl, rfl⟩]
  | false =>
    have hnone : s.home? g.ctx g.line = none := by simpa using hsome
    rw [putHome, if_neg (by simp [hsome]), State.home?, List.find?_append]
    rw [State.home?] at hnone
    simp [hnone]

/-- Bytes merged into a line under the translation it has are at its home, over its others. -/
theorem mergeHome_held {s : State} {ctx line : Nat} {g : HomeLine} (hg : s.home? ctx line = some g) (mask : ByteMask) (data : LineData)
    (alloc : Bool) :
    ∃ g', (mergeHome s ctx line mask data g.tr alloc).home? ctx line = some g' ∧ g'.data = mergeLine mask data g.data := by
  obtain ⟨hctx, hline⟩ := State.home?_key hg
  have hput : ∀ (e : State) (h : HomeLine), h.ctx = ctx → h.line = line → h.data = g.data →
      ∃ g', (putHome e (h.merge mask data)).home? ctx line = some g' ∧ g'.data = mergeLine mask data g.data := by
    rintro e h rfl rfl hd
    exact ⟨h.merge mask data, home?_putHome_self e (h.merge mask data), congrArg (mergeLine mask data) hd⟩
  unfold mergeHome
  rw [hg]
  dsimp only
  split
  · exact hput s g hctx hline rfl
  split
  · rename_i h
    exact absurd h.2 (Nat.lt_irrefl _)
  · unfold retagHome
    split
    · exact hput _ _ hctx hline rfl
    · exact hput _ _ hctx hline rfl

/-- The number that merged bytes make. -/
theorem lineNat_merged {o n v : Nat} (d : LineData) (hfit : o + n ≤ 64) :
    lineNat (mergeLine (byteRange o n) (placeNat o v) d) o n = v % 2 ^ (8 * n) := by
  have hbytes := lineNat_of_bytes (d := mergeLine (byteRange o n) (placeNat o v) d) (o := o) (bs := leBytes n v) (fun k hk => by
    rw [length_leBytes] at hk
    have hmask := getLsbD_byteRange (o := o) (n := n) (i := o + k) (by omega)
    rw [decide_eq_true (by omega)] at hmask
    rw [lineByte_mergeLine _ _ _ (by omega), if_pos hmask, lineByte_placeNat v (by omega) (by omega), Nat.add_sub_cancel_left, getD_leBytes _ _ hk])
  rwa [length_leBytes, leNat_leBytes] at hbytes

/-! ## An atomic at the home -/

theorem updateL1_keeps (s : State) (core ctx line : Nat) (mask : ByteMask) (data : LineData) :
    ∃ l f, updateL1 s core ctx line mask data = { s with l1 := l, fills := f } := by
  unfold updateL1 patchFills
  split
  · exact ⟨_, _, rfl⟩
  · unfold putL1
    split
    · exact ⟨_, _, rfl⟩
    · exact ⟨_, _, rfl⟩

/-- The new value of an atomic, merged into its line at the home. -/
theorem homeMerge_held {s : State} {ctx line off size n : Nat} {g : HomeLine} (hg : s.home? ctx line = some g) (htracked : s.tracked = [])
    (hfit : off + size ≤ 64) :
    ∃ s2 g2, homeMerge s ctx line (byteRange off size) (placeNat off n) g.tr true = s2 ∧ s2.home? ctx line = some g2 ∧
      lineNat g2.data off size = n % 2 ^ (8 * size) ∧ s2.windows = s.windows ∧
      ∀ sid u, s.team? sid = some u → u.region = none → s2.team? sid = some u := by
  have hext : externalWrite s ctx line = s := by simp [externalWrite, htracked]
  obtain ⟨g2, hg2, hdata⟩ := mergeHome_held hg (byteRange off size) (placeNat off n) true
  have hacc := homeMerge_accessed s ctx line (byteRange off size) (placeNat off n) g.tr true
  refine ⟨_, g2, rfl, ?_, by rw [hdata, lineNat_merged _ hfit], (congrArg State.windows hacc.rest).trans rfl, hacc.idle⟩
  rw [homeMerge, hext]
  exact hg2

/-- An atomic on bytes that the home holds, of a line that the core's L1 does not hold: the old value, and the new one at the home. -/
theorem atomHome_held {s : State} {a : Access} {line off size : Nat} {g : HomeLine} (hg : s.home? a.ctx line = some g)
    (hv : byteRange off size &&& ~~~ g.valid = 0) (hl1 : s.l1? a.core a.ctx line = none) (htracked : s.tracked = [])
    (hfit : off + size ≤ 64) (f : Nat → Option Nat) :
    ∃ e1, atomHome s a line off size g.tr f = (e1, .ok (lineNat g.data off size)) ∧ e1.windows = s.windows ∧
      (∀ sid u, s.team? sid = some u → u.region = none → e1.team? sid = some u) ∧
      ∃ g', e1.home? a.ctx line = some g' ∧
        lineNat g'.data off size = (f (lineNat g.data off size)).getD (lineNat g.data off size) % 2 ^ (8 * size) := by
  obtain ⟨hs, c, d, v, ag, r, hread, hdata, g1, hg1, htr, hbytes⟩ := homeRead_held hg hv (unitOf (line * 64)) true
  have hcovered : ∀ i, off ≤ i → i < off + size → i < 64 ∧ (byteRange off size).getLsbD i = true := fun i h1 h2 =>
    ⟨by omega, by rw [getLsbD_byteRange (by omega), decide_eq_true ⟨h1, h2⟩]⟩
  have hold : lineNat r.data off size = lineNat g.data off size :=
    lineNat_congr (fun i h1 h2 => hdata i (hcovered i h1 h2).1 (hcovered i h1 h2).2)
  have hold1 : lineNat g1.data off size = lineNat g.data off size :=
    lineNat_congr (fun i h1 h2 => hbytes i (hcovered i h1 h2).1 (hcovered i h1 h2).2)
  have hlt : lineNat g.data off size < 2 ^ (8 * size) := by
    rw [lineNat_eq]
    have := leNat_lt ((List.range size).map (fun k => lineByte g.data (off + k)))
    rwa [List.length_map, List.length_range] at this
  obtain ⟨c', d', v', ag', hcount⟩ := countHome_keeps { s with homes := hs, cores := c, dieTab := d, ventPmc := v, agenda := ag } line 34 a.ctx
  have hclean := writeBackLine_clean (s := s) (core := a.core) (ctx := a.ctx) (line := line) (fun x hx => by rw [hl1] at hx; cases hx)
  cases hf : f (lineNat g.data off size) with
  | none =>
    refine ⟨{ s with homes := hs, cores := c', dieTab := d', ventPmc := v', agenda := ag' }, ?_, rfl, fun _ _ h _ => h, g1, hg1, ?_⟩
    · simp only [atomHome, hclean, hread, hcount, hold, hf]
    · rw [hold1, Option.getD_none, Nat.mod_eq_of_lt hlt]
  | some n =>
    obtain ⟨s2, g2, hs2, hg2, hval, hwin, hteam⟩ := homeMerge_held (n := n)
      (s := { s with homes := hs, cores := c', dieTab := d', ventPmc := v', agenda := ag' }) hg1 htracked hfit
    obtain ⟨g3, hg3⟩ : ∃ g3 : HomeLine, { g2 with atomAt := (List.range size).foldl (fun m i => Tab.put m (off + i) s2.order) g2.atomAt } = g3 :=
      ⟨_, rfl⟩
    obtain ⟨hctx, hline⟩ := State.home?_key hg2
    have hkey : g3.ctx = a.ctx ∧ g3.line = line := by rw [← hg3]; exact ⟨hctx, hline⟩
    have hself := home?_putHome_self s2 g3
    rw [hkey.1, hkey.2] at hself
    obtain ⟨hs3, hput⟩ := putHome_homes s2 g3
    obtain ⟨l, fl, hup⟩ := updateL1_keeps (putHome s2 g3).nextOrder a.core a.ctx line (byteRange off size) (placeNat off n)
    refine ⟨updateL1 (putHome s2 g3).nextOrder a.core a.ctx line (byteRange off size) (placeNat off n), ?_, ?_, fun sid u h hr => ?_, g3, ?_, ?_⟩
    · rw [htr] at hs2
      simp only [atomHome, hclean, hread, hcount, hold, hf, hs2, hg2, hg3]
    · rw [hup, hput]
      exact hwin
    · rw [hup, hput]
      exact hteam sid u h hr
    · rw [hup]
      exact hself
    · rw [Option.getD_some, ← hval, ← hg3]

/-- The home serves a lane's atomic: it holds the bytes under a translation that grants the write, the core's L1 does not hold the line, and
nothing else has a say in it. -/
structure HomeServes (s : State) (sid : Nat) (u : Team) (va : Word) (n : Nat) (g : HomeLine) : Prop where
  windows : s.windows = []
  wfaults : ∀ f ∈ s.wfaults, f.sid ≠ sid
  far     : ∀ f ∈ s.far, f.sid ≠ sid
  tracked : s.tracked = []
  unsealed : sealedAt s u.ctx va.toNat = false
  home    : s.home? u.ctx (lineNo va) = some g
  grants  : g.tr.grants s.rt = true
  valid   : byteRange (lineOff va) n &&& ~~~ g.valid = 0
  l1      : s.l1? u.coreId u.ctx (lineNo va) = none

theorem HomeServes.entered {s e : State} {sid n q : Nat} {u : Team} {ms : List Miss} {va : Word} {g : HomeLine} (h : HomeServes s sid u va n g)
    (hent : Entered (ticketed s q) e sid u ms) : HomeServes e sid u va n g := by
  rw [hent.rest]
  exact ⟨h.windows, h.wfaults, h.far, h.tracked, h.unsealed, h.home, h.grants, h.valid, h.l1⟩

theorem HomeServes.granted {s : State} {sid n : Nat} {u : Team} {a : Access} {va : Word} {g : HomeLine} (h : HomeServes s sid u va n g)
    (hctx : a.ctx = u.ctx) : grantFor s a .home (lineNo va) = .granted g.tr := by
  have hg : s.home? a.ctx (lineNo va) = some g := hctx ▸ h.home
  simp [grantFor, hg, h.grants]

section
variable {s : State} {sid : Nat} {u : Team} {x : Acc} {va : Word} {g : HomeLine} (h : HomeServes s sid u va x.size g) (hx : x.a.sid = sid)
  (hctx : x.a.ctx = u.ctx) (hwide : scopeWide x.a.scope = true)
include h hctx hwide

/-- Such a lane is performed at once, not away from the core (11 R235, R236). -/
theorem HomeServes.near (hi : insideOf u = .no) (hsys : x.a.scope ≠ .system) (l : Nat) : farLanes s u x [(l, va)] = [] := by
  have hgrant := h.granted hctx
  unfold farLanes
  split
  · rfl
  · rw [hi]
    simp [hwide, hgrant, ownedAtomic, hsys]

/-- It needs no write check (11 R229). -/
theorem HomeServes.unchecked (hi : insideOf u = .no) (hpol : x.a.pol = false) (ho : x.o = .strong) (l : Nat) : needChecks s u x [(l, va)] = [] := by
  have hgrant := h.granted hctx
  have hplace : writePlace s u x (lineNo va) = .home := by simp [writePlace, hi, storePlace, hpol, ho, hwide]
  unfold needChecks
  rw [hi]
  split
  · rfl
  · dsimp only
    refine List.filterMap_eq_nil_iff.mpr (fun k hk => ?_)
    obtain ⟨p, hp, rfl⟩ := List.mem_map.mp (List.mem_dedup.mp (List.mem_of_mem_filter hk))
    rw [List.mem_singleton.mp (List.mem_of_mem_filter hp), hplace, hgrant]

include hx

/-- A lane's atomic at the home. -/
theorem HomeServes.atomLane {v : Team} {ty : ATy} (ht : s.team? sid = some v) (hpf : v.pf = none) (hiv : insideOf v = .no)
    (hr : v.region = none) (hcore : x.a.core = u.coreId) (hsp : x.sp = .global) (hsize : x.size = aBits ty / 8) (hfit : fits v .global x.size va)
    (op : AOp) (l : Nat) (p : ALane) :
    ∃ e1, Machine.atomLane s x ty op l va p = (e1, .val (homeVal s u.ctx va.toNat x.size)) ∧ e1.team? sid = some v ∧
      homeVal e1 u.ctx va.toNat x.size = atomLeaves ty op p (homeVal s u.ctx va.toNat x.size) := by
  subst hx
  have hold : homeVal s u.ctx va.toNat x.size = lineNat g.data (lineOff va) x.size := by
    rw [homeVal, show s.home? u.ctx (va.toNat / 64) = some g from h.home]
    rfl
  obtain ⟨c, hnote⟩ : ∃ c, noteGlobal s x.a.ctx va.toNat x.size = { s with cores := c } := ⟨_, rfl⟩
  have hdvd : x.size ∣ 64 := by
    rw [hsize, aBits]
    split <;> decide
  have hoff : lineOff va + x.size ≤ 64 := offset_fits hdvd hfit.1
  obtain ⟨e1, hatom, hwin, hteam, g', hg', hval⟩ := atomHome_held (s := { s with cores := c }) (a := x.a) (line := lineNo va) (g := g)
    (by rw [hctx]; exact h.home) h.valid (by rw [hcore, hctx]; exact h.l1) h.tracked hoff (fun old => (atomNew ty op old p.v p.c).1)
  have hgrant : grantFor { s with cores := c } x.a .home (lineNo va) = .granted g.tr := h.granted hctx
  have hseal : sealedAt s x.a.ctx va.toNat = false := hctx ▸ h.unsealed
  have hfar : s.far.find? (fun e => e.sid == x.a.sid && e.lane == l) = none :=
    List.find?_eq_none.mpr (fun f hf => by simp [h.far f hf])
  refine ⟨e1, ?_, hteam _ v ht hr, ?_⟩
  · simp only [Machine.atomLane, ht, hsp, laneCheck_fits hfit, pageDenied_none hpf, hiv, wfaultOf_none h.wfaults, hseal, hfar, hnote, hwide, if_true,
      hgrant, hatom, foldAccess_closed (hwin.trans h.windows), hold]
    rfl
  · rw [hold, homeVal, show e1.home? u.ctx (va.toNat / 64) = some g' from hctx ▸ hg', atomLeaves, ← aBits_bytes, ← hsize]
    exact hval

end

/-! ## `satom` at the home -/

/-- The one pass of a `satom` that the home serves, up to its end. -/
theorem satomPass_home {s : State} {sid : Nat} {u : Team} {x : Acc} {addr : Nat → Word} {ty : ATy} {op : AOp} {par : Nat → ALane}
    {g : HomeLine} (hs : Settled u s sid) (ht : s.team? sid = some u) (hm : u.mem = none) (h : HomeServes s sid u (addr 0) x.size g)
    (hx : x.a.sid = sid) (hcore : x.a.core = u.coreId) (hctx : x.a.ctx = u.ctx) (hwide : scopeWide x.a.scope = true)
    (hsys : x.a.scope ≠ .system) (hpol : x.a.pol = false) (ho : x.o = .strong) (hsp : x.sp = .global) (hsize : x.size = aBits ty / 8)
    (hfit : fits u .global x.size (addr 0)) (hroom : heldEntries s u.coreId < Config.generalMshr) (drain : Bool)
    (last : State → MemRun → Done) :
    ∃ e1 ms e q, runPass s sid u 1 addr (atomOpn u x ty op .rlx drain par) last = last e q ∧
      homeVal e1 u.ctx (addr 0).toNat x.size = atomLeaves ty op (par 0) (homeVal s u.ctx (addr 0).toNat x.size) ∧
      Leaves e1 e sid { u with misses := ms, mem := none } ∧ q.got = [(0, .val (homeVal s u.ctx (addr 0).toNat x.size))] := by
  obtain ⟨k, hk⟩ : ∃ k, (if (runOf u 1).left = (runOf u 1).en then (atomOpn u x ty op .rlx drain par).first s else s) = ticketed s k := by
    split <;> exact ⟨s.ticket, rfl⟩
  have hsend : ∀ e ms, Entered (ticketed s k) e sid u ms → (atomOpn u x ty op .rlx drain par).send e [(0, addr 0)] = none := fun e ms hent => by
    have hfar := (h.entered hent).near hctx hwide hs.insideOf hsys 0
    simp only [atomOpn, hfar]
  have hlane : ∀ e ms, Entered (ticketed s k) e sid u ms → ∃ e1,
      atomLane e x ty op 0 (addr 0) (par 0) = (e1, .val (homeVal s u.ctx (addr 0).toNat x.size)) ∧
        e1.team? sid = some { u with misses := ms } ∧
        homeVal e1 u.ctx (addr 0).toNat x.size = atomLeaves ty op (par 0) (homeVal s u.ctx (addr 0).toNat x.size) := fun e ms hent => by
    have hold : homeVal e u.ctx (addr 0).toNat x.size = homeVal s u.ctx (addr 0).toNat x.size := by
      rw [homeVal, State.home?, hent.homes]
      rfl
    rw [← hold]
    exact (h.entered hent).atomLane hx hctx hwide hent.team hs.group hs.insideOf hs.region hcore hsp hsize hfit op 0 (par 0)
  obtain ⟨e1, ms, hval, hp⟩ := runPass_single (en := 1) (m := atomOpn u x ty op .rlx drain par) (last := last)
    (P := fun e => homeVal e u.ctx (addr 0).toNat x.size = atomLeaves ty op (par 0) (homeVal s u.ctx (addr 0).toNat x.size)) hs hx (passOf_one hm)
    (fun _ => h.unchecked hctx hwide hs.insideOf hpol ho 0) hk ht hroom hsend hlane (fun _ => LaneGot.noConfusion)
  obtain ⟨e, q, hd, he, hgot⟩ := hp.ends (restOf_one hm)
  exact ⟨e1, ms, e, q, hd, hval, he, hgot.trans (congrArg (· ++ _) (got_one hm 1))⟩

theorem satom_home (h : Hdr) (ty : ATy) (op : AOp) (sd sa : SIdx) (m : MemOp) (s : State) (sid : Nat) (t : Team) (g : HomeLine) :
    let i := Instr.satom h ty op .rlx sd sa m
    let u := teamAtIssue i s sid t
    let s0 := atIssue i s sid t
    let va := laneAddr i s sid t m 0
    let n := aBits ty / 8
    let old := homeVal s0 u.ctx va.toNat n
    ScalarMem i h s sid t → m.pol = false → m.scope = .die ∨ m.scope = .device → Quiet u → fits u .global n va →
      HomeServes s0 sid u va n g → heldEntries s0 u.coreId < Config.generalMshr →
      ∃ s' t', exec i s = .next s' ∧ s'.team? sid = some t' ∧ t'.pc = u.pc + 12 ∧ SameRegs u t' [.s sd.toNat] ∧
        (sd ≠ 0 → t'.sr sd.toNat = extS (aSigned ty) (aWide ty) old) ∧
        homeVal s' u.ctx va.toNat n = atomLeaves ty op (satomPar ty sd sa (viewAtIssue i s sid t) 0) old := by
  intro i u s0 va n old hr hpol hscope hq hfit hserves hroom
  have hwide : scopeWide m.scope = true := by
    obtain hs | hs := hscope <;> rw [hs] <;> rfl
  have hsys : m.scope ≠ .system := by
    obtain hs | hs := hscope <;> rw [hs] <;> exact Scope.noConfusion
  have hsp : (atomAcc sid u ty m).sp = .global := by
    simp only [atomAcc, atomSpace, hpol, Bool.false_eq_true, if_false]
  obtain ⟨drain, hatom⟩ := scalarAtom_eq (ty := ty) (op := op) (o := .rlx) (d := sd) (a := sa) (m := m) (s := s0) (sid := sid)
    (vw := viewAtIssue i s sid t) hr.settled.insideOf
  have hexec : exec i s = finish i sid u (uses i) (scalarAtom ty op .rlx sd sa m sid (viewAtIssue i s sid t) s0) :=
    issueScalar_on hr.toClear hr.guard _
  rw [hatom] at hexec
  obtain ⟨e1, ms, e, q, hd, hval, he, hgot⟩ := satomPass_home (x := atomAcc sid u ty m) (addr := laneAddr i s sid t m) (ty := ty) (op := op)
    (par := satomPar ty sd sa (viewAtIssue i s sid t)) hr.settled hr.resident_atIssue hr.first hserves rfl rfl rfl hwide hsys rfl rfl hsp rfl hfit
    hroom drain (satomEnd sid u (atomAcc sid u ty m) ty op .rlx (satomPar ty sd sa (viewAtIssue i s sid t)) sd)
  obtain ⟨s', t', hs', ht', hpc, hregs, hreg, hbytes⟩ := satom_completes hr.settled (fun h => Bool.noConfusion h) hq
    (hexec.trans (congrArg (finish i sid u (uses i)) hd)) he hgot
  refine ⟨s', t', hs', ht', hpc, hregs, hreg, Eq.trans ?_ hval⟩
  rw [homeVal, State.home?, hbytes.home]
  rfl

/-! ## Scratchpad locations -/

/-- Naturally aligned locations at different addresses share no byte. -/
theorem laneKey_distinct {u : Team} {n k l : Nat} {a b : Word} (hn : 0 < n) (ha : fits u .spad n a) (hb : fits u .spad n b) (hab : a ≠ b)
    {i j : Nat} (hi : i < n) (hj : j < n) : laneKey u .spad k a i ≠ laneKey u .spad l b j := by
  intro h
  have hsum : a.toNat + i = b.toNat + j := by
    simp only [laneKey_eq, spadKey, bankOff] at h
    omega
  refine hab (BitVec.eq_of_toNat_eq ?_)
  have hda : (a.toNat + i) / n = a.toNat / n := by
    rw [Nat.add_div hn, Nat.div_eq_of_lt hi, ha.1, Nat.zero_add, Nat.mod_eq_of_lt hi, if_neg (by omega)]
    rfl
  have hdb : (b.toNat + j) / n = b.toNat / n := by
    rw [Nat.add_div hn, Nat.div_eq_of_lt hj, hb.1, Nat.zero_add, Nat.mod_eq_of_lt hj, if_neg (by omega)]
    rfl
  rw [← Nat.div_add_mod a.toNat n, ← Nat.div_add_mod b.toNat n, ha.1, hb.1, ← hda, ← hdb, hsum]

theorem aBits_pos (ty : ATy) : 0 < aBits ty / 8 := by
  unfold aBits
  split <;> decide

theorem atomAcc_spad {sid : Nat} {u : Team} {ty : ATy} {m : MemOp} (h : m.pol = true) : (atomAcc sid u ty m).sp = .spad := by
  simp only [atomAcc, atomSpace, h, if_true]

/-- Settles O27: a lane's atomic leaves `atomLeaves` of what it finds (`atomStep_spec`, `atomHome_held`), the lanes of a pass in ascending order:
at distinct addresses each finds what was there before the pass, at one address what the lanes below it left. -/
theorem atomics : Obligations.Atomics := by
  unfold Obligations.Atomics
  intro h ty op o d sd sa a m s sid t
  refine ⟨?_, ?_, fun hr hpol hq hfit => ?_, ?_⟩
  · intro i en u s0 r ad n x c old hr hpol hq hlen hfit hb hdis
    have hsp := atomAcc_spad (sid := sid) (u := u) (ty := ty) hpol
    have hkeys : ∀ k ∈ passOf r, ∀ l ∈ passOf r, k ≠ l → ∀ i j, i < n → j < n → laneKey u .spad k (ad k) i ≠ laneKey u .spad l (ad l) j :=
      fun k hk l hl hkl i j hi hj => laneKey_distinct (aBits_pos ty) (hfit k hk) (hfit l hl) (hdis k hk l hl hkl) hi hj
    refine vatom_memPass h ty op o d a m s sid t old _ hr hpol hq hlen hfit hb (fun q l hl => ?_) (fun q e t' he => ⟨fun l hl => ?_, fun b hout => ?_, fun b => ?_⟩)
    · exact atomCell_other (e := ticketed s0 q) rfl hsp rfl hfit (fun k hk => List.mem_of_mem_filter hk) hr.resident_atIssue
        (fun k hk => hkeys k (List.mem_of_mem_filter hk) l hl (Nat.ne_of_lt (by simpa using (List.mem_filter.mp hk).2)))
    · have hcell := atomCell_distinct (op := op) (par := vatomPar ty d a (viewAtIssue i s sid t) s0) (e := ticketed s0 q) (x := atomAcc sid u ty m)
        (ty := ty) rfl hsp rfl hfit (passOf_nodup r) hkeys hr.resident_atIssue hl
      exact (leNat_spadRead_congr (fun j _ => he.bytes.spad _)).trans hcell
    · exact (he.bytes.spad b).trans ((atomStep_fold (e := ticketed s0 q) rfl hsp rfl hfit (fun _ h => h) hr.resident_atIssue).2 b hout)
    · have honly := (atomStep_fold (op := op) (par := vatomPar ty d a (viewAtIssue i s sid t) s0) (e := ticketed s0 q) (x := atomAcc sid u ty m)
        (ty := ty) rfl hsp rfl hfit (fun _ h => h) hr.resident_atIssue).1
      exact (he.bytes.mem b).trans (congrArg (fun y => memByte y b) honly.mem)
  · intro i en u s0 r n at_ x c run old hr hpol hq hlen hfit hb hsame
    have hsp := atomAcc_spad (sid := sid) (u := u) (ty := ty) hpol
    have hfit' : ∀ l ∈ passOf r, fits u .spad n (laneAddr i s sid t m l) := fun l hl => (hsame l hl).symm ▸ hfit
    refine vatom_memPass h ty op o d a m s sid t old _ hr hpol hq hlen hfit' hb (fun q l hl => ?_) (fun q e t' he => ?_)
    · have hcell := atomCell_same (ks := (passOf r).filter (fun k => decide (k < l))) (op := op) (par := vatomPar ty d a (viewAtIssue i s sid t) s0)
        (e := ticketed s0 q) (x := atomAcc sid u ty m) (ty := ty) rfl hsp rfl hfit' hsame (fun k hk => List.mem_of_mem_filter hk) hr.resident_atIssue
      refine Eq.trans ?_ hcell
      rw [atomCell, hsame l hl]
      rfl
    · have hcell := atomCell_same (ks := passOf r) (op := op) (par := vatomPar ty d a (viewAtIssue i s sid t) s0)
        (e := ticketed s0 q) (x := atomAcc sid u ty m) (ty := ty) rfl hsp rfl hfit' hsame (fun _ hk => hk) hr.resident_atIssue
      exact (leNat_spadRead_congr (fun j _ => he.bytes.spad _)).trans hcell
  · exact satom_spad h ty op o sd sa m s sid t hr hpol hq hfit
  · intro i u s0 va n old x c g hr hpol hscope ho hq hfit hg hgrant hvalid hl1 htracked hseal hfar hroom
    subst ho
    exact satom_home h ty op sd sa m s sid t g hr hpol hscope hq hfit
      ⟨hr.settled.open_, hr.settled.checks, hfar, htracked, hseal, hg, hgrant, hvalid, hl1⟩ hroom

end Sys2Proof.Machine
end
